-- ==== Sys2Proof/Word.lean ====
section
/-! DEFINITION. Word: the register and byte types and their plainest arithmetic (R1, R7, R60). -/

namespace Sys2Proof

/-- A byte of memory (R1). -/
abbrev Byte := BitVec 8
/-- A scalar register (R60). -/
abbrev Word := BitVec 64
/-- A vector register (R60, R116). -/
abbrev VWord := BitVec 128
/-- A 48-bit address, as EA and PC are (R60, R153). -/
abbrev Addr := BitVec 48

/-- Bits h down to l of a natural number (R7). -/
def bits (x h l : Nat) : Nat := x / 2 ^ l % 2 ^ (h + 1 - l)

/-- Bit k of a natural number (R1). -/
def bit (x k : Nat) : Bool := x / 2 ^ k % 2 == 1

end Sys2Proof
end

