-- ==== Sys2Proof/Config.lean ====
section
/-! DEFINITION. Config: the free values and the device's own functions. None has a body, so no proof can lean on a value.
Each is named in notes/assumptions. -/

namespace Sys2Proof

/-- Which of n enabled steps happens next: no rule orders the steps of different parties (R54, R187, R199, R297). The argument is a plain counter of State. -/
opaque Config.choose : Nat → Nat
/-- Whether the n-th read of a pending register, whose long result is already performed, returns the long result (R65). -/
opaque Config.pendRead : Nat → Bool
/-- Values that the manual leaves open, drawn one after the other by a plain counter of State. -/
opaque Config.freeBits : Nat → BitVec 512
/-- ML-DSA-65 verification of a signature over a message under a public key (R425, R430). -/
opaque Config.mldsaVerify : List Byte → List Byte → List Byte → Bool
/-- The public alias key of the accepted payload digest (R428). -/
opaque Config.aliasKey : BitVec 512 → List Byte
/-- The certificate chain of slot 0, vendor root, device and alias, for an accepted payload digest (R371, R428). -/
opaque Config.certChain : BitVec 512 → List Byte
/-- The digest of the vendor public key, fused at manufacture (R425). -/
opaque Config.vendorDigest : BitVec 512
/-- The digest of Obsidian's read-only code, measurement 1 (R429). -/
opaque Config.romDigest : BitVec 512
/-- The key of slot 1, derived from the device secret (R425). -/
opaque Config.slotOneKey : BitVec 512
/-- VLAT of a column for its STATE, HALF and HOT (R405): estimates that bound nothing. -/
opaque Config.vlat : Nat → Nat → Bool → Nat → BitVec 64
/-- What a byte of a column stack reads as once the key of its sector is lost (R310, R423): by a plain counter and the byte's key. -/
opaque Config.lostByte : Nat → Nat → Byte
/-- The ML-DSA-65 signature of a message by the holder of the private key that belongs to a public key: this device's alias key, another device's, the vendor's
(R417, R425, R428, R435). -/
opaque Config.mldsaSignFor : List Byte → List Byte → List Byte
/-- A byte of a function's configuration space that no rule gives, fixed for the device (R369). -/
opaque Config.configByte : Nat → Nat → Byte

end Sys2Proof
end

