-- ==== Sys2Proof/Syntax.lean ====
section
/-! DEFINITION. Syntax: the operand types and Instr, one constructor per row of spec/opcode_table.json (R69-R93, 04_encoding.md).
A field that a form ignores (R77) is no operand; event rows carry the names of what they act on. -/

namespace Sys2Proof

/-- Lane types (R87). -/
inductive LaneT | i8 | i16 | i32 | i64 | n8 | n16 | n32 | n64 | bf16 | f32 | g8
deriving DecidableEq, Repr

/-- Integer element types of the broadcast loads (R89). -/
inductive IntT | i8 | i16 | i32 | i64
deriving DecidableEq, Repr

/-- Floating types of the fused forms (R86). -/
inductive FltT | f32 | bf16
deriving DecidableEq, Repr

/-- Operations of the returning atomics (R89, R186). -/
inductive AmoOp | add | min | max | minn | maxn | and | or | xor | swap | cas
deriving DecidableEq, Repr

/-- Operations of the reductions (R89, R187). -/
inductive RedOp | add | min | max | and | or | xor
deriving DecidableEq, Repr

/-- A request that an Ixnar peer sends to this device (R374, R376, R377). -/
inductive IxOp
  | load (n : Nat)
  | store (bytes : List (BitVec 8))
  | amo (op : AmoOp) (n : Nat) (x e : BitVec 64)
  | red (op : RedOp) (n : Nat) (x : BitVec 64)
  | redF (x : BitVec 32)
  | msg (task : BitVec 32) (v : BitVec 128)
deriving DecidableEq, Repr

/-- An inbound request: source device and owner, target owner, the address IA of the target, and what to do (R376). -/
structure IxReq where
  dev : Nat
  sown : Nat
  own : Nat
  ia : Nat
  op : IxOp
deriving DecidableEq, Repr

/-- One constructor per row of the opcode table. -/
inductive Instr
  /-- BR (R107). Unconditional or guarded branch to the bundle address plus a signed word offset. -/
  | br (o : BitVec 20)
  /-- CALL (R107). Writes the return address to s13 and branches by a signed word offset. -/
  | call (o : BitVec 20)
  /-- DBNZ (R107). Decrements the counter register and branches while the result is not zero. -/
  | dbnz (d : Fin 16) (o : BitVec 16)
  /-- JMP (R107). Jumps to the address held in a scalar register, checking its alignment. -/
  | jmp (a : Fin 16)
  /-- RET (R107). Returns to the address in a scalar register, s13 by default, as jmp does. -/
  | ret (a : Fin 16)
  /-- SEND (R211). Marks the end of a stream loop body for the fetch unit. -/
  | send
  /-- EXIT (R110). Ends the thread, or in a stream stops further injection, after parking until nothing is pending. -/
  | exit
  /-- YIELD (R111). Unbinds the thread behind waiting ready rows when one of the resident owner waits. -/
  | yield
  /-- TRAP (R112). Raises TRAP with the number n as subcode, precise at the bundle. -/
  | trap (n : BitVec 8)
  /-- BRK (R112). Raises BREAK, precise at the bundle. -/
  | brk
  /-- RTE (R349). Returns from a handler: PC takes FPC and FCODE is cleared. -/
  | rte
  /-- RSR (R114). Reads a special register, zero-extended, into a scalar register. -/
  | rsr (d : Fin 16) (n : BitVec 12)
  /-- WSR (R114). Writes a scalar register into a special register at its width, subject to access and level checks. -/
  | wsr (a : Fin 16) (n : BitVec 12)
  /-- SLOOP (R211). Opens a stream loop whose trip count is read in the origin core. -/
  | sloop (d : Fin 16) (o : BitVec 16)
  /-- LD_B (R168). Loads a sign-extended byte. -/
  | ldB (d : Fin 16) (a : Fin 16) (i : BitVec 12)
  /-- LD_H (R168). Loads a sign-extended halfword. -/
  | ldH (d : Fin 16) (a : Fin 16) (i : BitVec 12)
  /-- LD_W (R168). Loads a sign-extended word. -/
  | ldW (d : Fin 16) (a : Fin 16) (i : BitVec 12)
  /-- LD_D (R168). Loads a doubleword. -/
  | ldD (d : Fin 16) (a : Fin 16) (i : BitVec 12)
  /-- LDN_B (R168). Loads a zero-extended byte. -/
  | ldnB (d : Fin 16) (a : Fin 16) (i : BitVec 12)
  /-- LDN_H (R168). Loads a zero-extended halfword. -/
  | ldnH (d : Fin 16) (a : Fin 16) (i : BitVec 12)
  /-- LDN_W (R168). Loads a zero-extended word. -/
  | ldnW (d : Fin 16) (a : Fin 16) (i : BitVec 12)
  /-- VLD (R168). Loads 16 bytes into a vector register. -/
  | vld (d : Fin 16) (a : Fin 16) (i : BitVec 12)
  /-- ST_B (R168). Stores the low byte of a scalar register. -/
  | stB (d : Fin 16) (a : Fin 16) (i : BitVec 12)
  /-- ST_H (R168). Stores the low halfword of a scalar register. -/
  | stH (d : Fin 16) (a : Fin 16) (i : BitVec 12)
  /-- ST_W (R168). Stores the low word of a scalar register. -/
  | stW (d : Fin 16) (a : Fin 16) (i : BitVec 12)
  /-- ST_D (R168). Stores a doubleword. -/
  | stD (d : Fin 16) (a : Fin 16) (i : BitVec 12)
  /-- VST (R168). Stores a 16-byte vector register. -/
  | vst (d : Fin 16) (a : Fin 16) (i : BitVec 12)
  /-- VLD_BC (R168). Loads one integer element and broadcasts it to every lane. -/
  | vldBc (d : Fin 16) (a : Fin 16) (t : IntT)
  /-- VLDK (R169). Loads 16 scratchpad bytes after checking the block's sequence tag. -/
  | vldk (d : Fin 16) (a : Fin 16) (b : Fin 16)
  /-- PREF (R171). Prefetches a sector into the home slice and the line into an L1. -/
  | pref (a : Fin 16)
  /-- PREF_R (R171). Prefetches a sector into the home slice under the retained class. -/
  | prefR (a : Fin 16)
  /-- FENCE_K (R172). Parks the thread until its earlier accesses are performed at core scope. -/
  | fenceK
  /-- FENCE_S (R172). Parks the thread until its earlier accesses are performed at slot scope. -/
  | fenceS
  /-- FENCE_O (R172). Parks the thread until its earlier accesses are performed at owner scope. -/
  | fenceO
  /-- FENCE_Y (R172). Parks the thread until its earlier accesses are performed at system scope. -/
  | fenceY
  /-- LDFE (R183). Takes a full sync word, leaving it empty. -/
  | ldfe (d : Fin 16) (a : Fin 16)
  /-- LDFF (R183). Reads a full sync word, leaving it full. -/
  | ldff (d : Fin 16) (a : Fin 16)
  /-- STFE (R183). Writes an empty sync word and makes it full. -/
  | stfe (a : Fin 16) (b : Fin 16)
  /-- STF (R183). Writes a sync word and makes it full unconditionally. -/
  | stf (a : Fin 16) (b : Fin 16)
  /-- FE_CLR (R183). Clears the full/empty bit of a sync word. -/
  | feClr (a : Fin 16)
  /-- LRW (R184). Joins a sync word's reservation queue and reads the word on reaching its head. -/
  | lrw (d : Fin 16) (a : Fin 16)
  /-- SCQ (R184). Writes the reserved word and passes the reservation on. -/
  | scq (a : Fin 16) (b : Fin 16)
  /-- RSV_REL (R184). Leaves the reservation queue without changing the word. -/
  | rsvRel (a : Fin 16)
  /-- AMO_D (R186). Performs a returning doubleword atomic operation at the home of the address. -/
  | amoD (d : Fin 16) (a : Fin 16) (b : Fin 16) (o : AmoOp)
  /-- AMO_W (R186). Performs a returning word atomic operation at the home of the address. -/
  | amoW (d : Fin 16) (a : Fin 16) (b : Fin 16) (o : AmoOp)
  /-- RED_D (R187). Posts a non-returning doubleword reduction. -/
  | redD (a : Fin 16) (b : Fin 16) (o : RedOp)
  /-- RED_W (R187). Posts a non-returning word reduction. -/
  | redW (a : Fin 16) (b : Fin 16) (o : RedOp)
  /-- RED_FADD_F32 (R187). Posts a non-returning FP32 addition rounded in RNE. -/
  | redFaddF32 (a : Fin 16) (b : Fin 16)
  /-- AREG (R188). Joins the next n plain loads and stores into one atomic region. -/
  | areg (n : Fin 16)
  /-- BAR_INIT (R191). Sets a barrier's count and clears its arrivals. -/
  | barInit (a : Fin 16) (b : Fin 16)
  /-- BAR_ARRIVE (R191). Arrives at a barrier and records the generation. -/
  | barArrive (a : Fin 16)
  /-- BAR_WAIT (R191). Waits until the barrier's generation differs from the recorded one. -/
  | barWait (a : Fin 16)
  /-- BAR_SYNC (R191). Arrives at a barrier and waits, as one request. -/
  | barSync (a : Fin 16)
  /-- QPUSH (R193). Sends a 128-bit entry to a named inbound queue and waits until it is accepted. -/
  | qpush (a : Fin 16) (b : Fin 16)
  /-- QPOP (R194). Takes the head of an own inbound queue, parking while it is empty. -/
  | qpop (d : Fin 16) (a : Fin 16)
  /-- QPEEK (R194). Reads the head of an own inbound queue without removing it. -/
  | qpeek (d : Fin 16) (a : Fin 16)
  /-- QRED_I32 (R195). Adds queue entries lane by lane into a vector as INT32, one per turn, tracking QPOS. -/
  | qredI32 (d : Fin 16) (a : Fin 16) (b : Fin 16)
  /-- QRED_I64 (R195). Adds queue entries lane by lane into a vector as INT64. -/
  | qredI64 (d : Fin 16) (a : Fin 16) (b : Fin 16)
  /-- QRED_F32 (R195). Adds queue entries lane by lane into a vector as FP32. -/
  | qredF32 (d : Fin 16) (a : Fin 16) (b : Fin 16)
  /-- MSG (R197). Posts a 128-bit message to a task's inbox, local or over Ixnar. -/
  | msg (a : Fin 16) (b : Fin 16)
  /-- MRECV (R198). Takes the oldest message of the thread's own inbox as a long result. -/
  | mrecv (d : Fin 16)
  /-- GO (R204). Migrates the thread to a named logical core. -/
  | go (a : Fin 16)
  /-- SPAWN (R205). Posts a launch record to a work queue and returns acceptance or refusal. -/
  | spawn (d : Fin 16) (a : Fin 16)
  /-- STEP (R408). Holds the thread as a stepped packet toward a step stop, or acts as a release. -/
  | step
  /-- FEXP2 (R149). Sends a correctly rounded 2^x request to the SFU. -/
  | fexp2 (d : Fin 16) (a : Fin 16) (u : BitVec 8)
  /-- FLOG2 (R149). Sends a log2 request to the SFU. -/
  | flog2 (d : Fin 16) (a : Fin 16) (u : BitVec 8)
  /-- FRCP (R149). Sends a reciprocal request to the SFU. -/
  | frcp (d : Fin 16) (a : Fin 16) (u : BitVec 8)
  /-- FRSQRT (R149). Sends a reciprocal square-root request to the SFU. -/
  | frsqrt (d : Fin 16) (a : Fin 16) (u : BitVec 8)
  /-- FSQRT (R149). Sends a square-root request to the SFU. -/
  | fsqrt (d : Fin 16) (a : Fin 16) (u : BitVec 8)
  /-- FSINP (R149). Sends a sin(pi x) request to the SFU. -/
  | fsinp (d : Fin 16) (a : Fin 16) (u : BitVec 8)
  /-- FCOSP (R149). Sends a cos(pi x) request to the SFU. -/
  | fcosp (d : Fin 16) (a : Fin 16) (u : BitVec 8)
  /-- FTANH (R149). Sends a tanh request to the SFU. -/
  | ftanh (d : Fin 16) (a : Fin 16) (u : BitVec 8)
  /-- FSIGM (R149). Sends a logistic sigmoid request to the SFU. -/
  | fsigm (d : Fin 16) (a : Fin 16) (u : BitVec 8)
  /-- MGRP (R222). Binds an engine-group capability into an EG register. -/
  | mgrp (d : Fin 16) (a : Fin 16)
  /-- MCLR (R230). Issues a command clearing selected accumulator tiles with their anchors. -/
  | mclr (d : Fin 16) (a : Fin 16) (b : Fin 16)
  /-- MMA_G8 (R232). Issues a G8 by G8 multiply-accumulate command to an engine group. -/
  | mmaG8 (d : Fin 16) (a : Fin 16) (b : Fin 16)
  /-- MMA_I8 (R232). Issues an INT8 multiply-accumulate command. -/
  | mmaI8 (d : Fin 16) (a : Fin 16) (b : Fin 16)
  /-- MMA_BF16 (R232). Issues a BF16 multiply-accumulate command. -/
  | mmaBf16 (d : Fin 16) (a : Fin 16) (b : Fin 16)
  /-- MMA_G8BF (R232). Issues a G8 by BF16 multiply-accumulate command. -/
  | mmaG8bf (d : Fin 16) (a : Fin 16) (b : Fin 16)
  /-- MRD (R236). Issues a readout of a tile with one rounding per element. -/
  | mrd (d : Fin 16) (a : Fin 16) (b : Fin 16)
  /-- MRDQ (R238). Issues a readout followed by a push to an inbound queue. -/
  | mrdq (d : Fin 16) (a : Fin 16) (b : Fin 16)
  /-- MSTAT (R239). Returns the flags and anchors of a group's tiles. -/
  | mstat (d : Fin 16) (b : Fin 16)
  /-- MFENCE (R240). Parks until every engine of the group has finished the commands before its marker. -/
  | mfence (b : Fin 16)
  /-- CP_1D (R248). Submits a one-dimensional copy to a mailbox. -/
  | cp1d (a : Fin 16)
  /-- CP_2D (R248). Submits a two-dimensional copy. -/
  | cp2d (a : Fin 16)
  /-- CP_3D (R248). Submits a three-dimensional copy. -/
  | cp3d (a : Fin 16)
  /-- CP_GATHER (R248). Submits a gather by an index array. -/
  | cpGather (a : Fin 16)
  /-- CP_SCATTER (R248). Submits a scatter by an index array. -/
  | cpScatter (a : Fin 16)
  /-- CP_FILL (R248). Submits a fill with a 64-bit pattern. -/
  | cpFill (a : Fin 16)
  /-- CHSET (R253). Sets a channel's range and marks and clears its error state. -/
  | chset (a : Fin 16) (b : Fin 16)
  /-- CHQ (R255). Returns a channel's watermark and error state. -/
  | chq (d : Fin 16) (b : Fin 16)
  /-- PUBLISH (R257). Releases and then asks the pair unit to exchange the backings of a buffer pair. -/
  | publish (a : Fin 16)
  /-- WINST (R386). Sends an install request for a weight-flash extent to the owner's install unit. -/
  | winst (d : Fin 16) (a : Fin 16)
  /-- WSTAT (R391). Asks the install unit for the state of an install id. -/
  | wstat (d : Fin 16) (a : Fin 16)
  /-- TLBINV (R344). Invalidates translations of one or more owners, advancing their generation and draining. -/
  | tlbinv (a : Fin 16)
  /-- KEYLD (R432). Loads a key slot from a key block and zeroes the block. -/
  | keyld (a : Fin 16) (b : Fin 16)
  /-- KEYZAP (R433). Empties a key slot. -/
  | keyzap (a : Fin 16)
  /-- SCRUB (R438). Begins the teardown of an owner and parks until stage 1 ends. -/
  | scrub (a : Fin 16)
  /-- EVPOST (R353). Posts an event of type 0x40 as a system-scope release. -/
  | evpost (a : Fin 16)
  /-- ROTCTL_SUSPEND (R317). rotctl operation 0: suspends interval rotations. -/
  | rotctlSuspend (a : Fin 16)
  /-- ROTCTL_RESUME (R317). rotctl operation 1: resumes interval rotations. -/
  | rotctlResume (a : Fin 16)
  /-- ROTCTL_EXTRA_ROTATION (R317). rotctl operation 2: schedules one extra rotation at the next multiple of 2^20. -/
  | rotctlExtraRotation (a : Fin 16)
  /-- ROTCTL_EXTRA_SWITCH (R317). rotctl operation 3: schedules one time-sharing switch at the next multiple of 2^16. -/
  | rotctlExtraSwitch (a : Fin 16)
  /-- SLOTCTL_PLACE (R317). slotctl operation 0: places an owner's logical slot in a tenancy at the next pause. -/
  | slotctlPlace (a : Fin 16) (b : Fin 16)
  /-- SLOTCTL_REMOVE (R317). slotctl operation 1: removes a tenancy at the next pause, discarding its state. -/
  | slotctlRemove (a : Fin 16) (b : Fin 16)
  /-- SLOTCTL_SPILL (R332). slotctl operation 2: spills an engine's tiles and loads or clears them for a new owner. -/
  | slotctlSpill (a : Fin 16) (b : Fin 16)
  /-- WAYPART (R309). Begins changing a slice's number of scratchpad ways. -/
  | waypart (a : Fin 16) (b : Fin 16)
  /-- FRZ_FREEZE_OWNER (R352). frz operation 0: freezes an owner's slots and parks until Qz. -/
  | frzFreezeOwner (a : Fin 16)
  /-- FRZ_RELEASE_OWNER (R352). frz operation 1: releases an owner's slots at the next beat boundary. -/
  | frzReleaseOwner (a : Fin 16)
  /-- FRZ_FREEZE_FUNCTION (R352). frz operation 2: freezes a host function of an owner. -/
  | frzFreezeFunction (a : Fin 16)
  /-- FRZ_RELEASE_FUNCTION (R352). frz operation 3: releases a frozen host function. -/
  | frzReleaseFunction (a : Fin 16)
  /-- FRZ_END_TASK (R352). frz operation 4: ends every thread of a task as failed. -/
  | frzEndTask (a : Fin 16)
  /-- LDT (R170). Timed doubleword load whose result is written at its due stream beat. -/
  | ldt (d : Fin 16) (a : Fin 16) (u : BitVec 12)
  /-- VLDT (R170). Timed 16-byte vector load whose result is written at its due stream beat. -/
  | vldt (d : Fin 16) (a : Fin 16) (u : BitVec 12)
  /-- HINT (R78). C/M-class hint word that executes as no operation. -/
  | hint (n : BitVec 20)
  /-- NOP (R78). Arithmetic-class hint word that executes as no operation. -/
  | nop (n : BitVec 20)
  /-- ADD (R99). Adds two scalar registers. -/
  | add (d : Fin 16) (a : Fin 16) (b : Fin 16)
  /-- SUB (R99). Subtracts two scalar registers. -/
  | sub (d : Fin 16) (a : Fin 16) (b : Fin 16)
  /-- MUL (R99). Low 64 bits of a product. -/
  | mul (d : Fin 16) (a : Fin 16) (b : Fin 16)
  /-- MULH (R99). High 64 bits of a signed product. -/
  | mulh (d : Fin 16) (a : Fin 16) (b : Fin 16)
  /-- MULHN (R99). High 64 bits of an unsigned product. -/
  | mulhn (d : Fin 16) (a : Fin 16) (b : Fin 16)
  /-- DIV (R99). Signed quotient with the fixed zero and overflow cases. -/
  | div (d : Fin 16) (a : Fin 16) (b : Fin 16)
  /-- DIVN (R99). Unsigned quotient. -/
  | divn (d : Fin 16) (a : Fin 16) (b : Fin 16)
  /-- REM (R99). Signed remainder. -/
  | rem (d : Fin 16) (a : Fin 16) (b : Fin 16)
  /-- REMN (R99). Unsigned remainder. -/
  | remn (d : Fin 16) (a : Fin 16) (b : Fin 16)
  /-- AND (R100). Bitwise AND. -/
  | and (d : Fin 16) (a : Fin 16) (b : Fin 16)
  /-- OR (R100). Bitwise OR. -/
  | or (d : Fin 16) (a : Fin 16) (b : Fin 16)
  /-- XOR (R100). Bitwise XOR. -/
  | xor (d : Fin 16) (a : Fin 16) (b : Fin 16)
  /-- ANDN (R100). AND with the complement of the second operand. -/
  | andn (d : Fin 16) (a : Fin 16) (b : Fin 16)
  /-- ORN (R100). OR with the complement of the second operand. -/
  | orn (d : Fin 16) (a : Fin 16) (b : Fin 16)
  /-- SHL (R101). Logical left shift by a register amount mod 64. -/
  | shl (d : Fin 16) (a : Fin 16) (b : Fin 16)
  /-- SHR (R101). Logical right shift by a register amount. -/
  | shr (d : Fin 16) (a : Fin 16) (b : Fin 16)
  /-- SAR (R101). Arithmetic right shift by a register amount. -/
  | sar (d : Fin 16) (a : Fin 16) (b : Fin 16)
  /-- ROTL (R101). Left rotate by a register amount. -/
  | rotl (d : Fin 16) (a : Fin 16) (b : Fin 16)
  /-- MIN (R100). Signed minimum. -/
  | min (d : Fin 16) (a : Fin 16) (b : Fin 16)
  /-- MAX (R100). Signed maximum. -/
  | max (d : Fin 16) (a : Fin 16) (b : Fin 16)
  /-- MINN (R100). Unsigned minimum. -/
  | minn (d : Fin 16) (a : Fin 16) (b : Fin 16)
  /-- MAXN (R100). Unsigned maximum. -/
  | maxn (d : Fin 16) (a : Fin 16) (b : Fin 16)
  /-- CLZ (R100). Counts leading zero bits. -/
  | clz (d : Fin 16) (a : Fin 16)
  /-- CTZ (R100). Counts trailing zero bits. -/
  | ctz (d : Fin 16) (a : Fin 16)
  /-- POPC (R100). Counts set bits. -/
  | popc (d : Fin 16) (a : Fin 16)
  /-- MOV (R100). Copies a scalar register. -/
  | mov (d : Fin 16) (a : Fin 16)
  /-- CMP_EQ (R104). Sets a predicate when two registers are equal. -/
  | cmpEq (d : Fin 16) (a : Fin 16) (b : Fin 16)
  /-- CMP_NE (R104). Sets a predicate when two registers differ. -/
  | cmpNe (d : Fin 16) (a : Fin 16) (b : Fin 16)
  /-- CMP_LT (R104). Signed less-than into a predicate. -/
  | cmpLt (d : Fin 16) (a : Fin 16) (b : Fin 16)
  /-- CMP_LE (R104). Signed less-or-equal into a predicate. -/
  | cmpLe (d : Fin 16) (a : Fin 16) (b : Fin 16)
  /-- CMP_LTN (R104). Unsigned less-than into a predicate. -/
  | cmpLtn (d : Fin 16) (a : Fin 16) (b : Fin 16)
  /-- CMP_LEN (R104). Unsigned less-or-equal into a predicate. -/
  | cmpLen (d : Fin 16) (a : Fin 16) (b : Fin 16)
  /-- PSET (R105). Sets a predicate to 0 or 1. -/
  | pset (d : Fin 16) (b : Fin 16)
  /-- PAND (R105). ANDs two predicates. -/
  | pand (d : Fin 16) (a : Fin 16) (b : Fin 16)
  /-- POR (R105). ORs two predicates. -/
  | por (d : Fin 16) (a : Fin 16) (b : Fin 16)
  /-- PNOT (R105). Complements a predicate. -/
  | pnot (d : Fin 16) (a : Fin 16)
  /-- ADDI (R99). Adds a signed 12-bit immediate. -/
  | addi (d : Fin 16) (a : Fin 16) (i : BitVec 12)
  /-- ANDI (R100). ANDs a zero-extended immediate. -/
  | andi (d : Fin 16) (a : Fin 16) (i : BitVec 12)
  /-- ORI (R100). ORs a zero-extended immediate. -/
  | ori (d : Fin 16) (a : Fin 16) (i : BitVec 12)
  /-- XORI (R100). XORs a zero-extended immediate. -/
  | xori (d : Fin 16) (a : Fin 16) (i : BitVec 12)
  /-- SHLI (R101). Left shift by an immediate amount. -/
  | shli (d : Fin 16) (a : Fin 16) (k : BitVec 6)
  /-- SHRI (R101). Logical right shift by an immediate amount. -/
  | shri (d : Fin 16) (a : Fin 16) (k : BitVec 6)
  /-- SARI (R101). Arithmetic right shift by an immediate amount. -/
  | sari (d : Fin 16) (a : Fin 16) (k : BitVec 6)
  /-- ROTI (R101). Left rotate by an immediate amount. -/
  | roti (d : Fin 16) (a : Fin 16) (k : BitVec 6)
  /-- BFX (R102). Extracts a sign-extended bit field. -/
  | bfx (d : Fin 16) (a : Fin 16) (q : BitVec 6) (e : BitVec 6)
  /-- BFXN (R102). Extracts a zero-extended bit field. -/
  | bfxn (d : Fin 16) (a : Fin 16) (q : BitVec 6) (e : BitVec 6)
  /-- BFI (R102). Inserts a bit field into the destination. -/
  | bfi (d : Fin 16) (a : Fin 16) (q : BitVec 6) (e : BitVec 6)
  /-- LI (R103). Loads a sign-extended 16-bit immediate. -/
  | li (d : Fin 16) (i : BitVec 16)
  /-- LIS (R103). Shifts the destination left 16 and ORs in an immediate. -/
  | lis (d : Fin 16) (i : BitVec 16)
  /-- SEL (R106). Selects one of two scalar registers by a predicate. -/
  | sel (d : Fin 16) (a : Fin 16) (b : Fin 16) (c : Fin 16)
  /-- VSEL (R126). Bitwise select of two vectors by a mask. -/
  | vsel (d : Fin 16) (a : Fin 16) (b : Fin 16) (c : Fin 16)
  /-- VFMA (R124). Fused multiply-add per lane with one rounding. -/
  | vfma (d : Fin 16) (a : Fin 16) (b : Fin 16) (c : Fin 16) (t : FltT)
  /-- VFMS (R124). Fused residual c − a × b per lane with one rounding. -/
  | vfms (d : Fin 16) (a : Fin 16) (b : Fin 16) (c : Fin 16) (t : FltT)
  /-- VDOT_G8 (R132). G8 dot products accumulated into four FP32 lanes with one rounding. -/
  | vdotG8 (d : Fin 16) (a : Fin 16) (b : Fin 16) (c : Fin 16)
  /-- VDOT_BF16 (R133). BF16 dot products accumulated into FP32 lanes. -/
  | vdotBf16 (d : Fin 16) (a : Fin 16) (b : Fin 16)
  /-- VDOT_I8 (R134). INT8 dot products accumulated into INT32 lanes. -/
  | vdotI8 (d : Fin 16) (a : Fin 16) (b : Fin 16)
  /-- CMPI_EQ (R104). Predicate from equality with a signed immediate. -/
  | cmpiEq (d : Fin 16) (a : Fin 16) (i : BitVec 12)
  /-- CMPI_NE (R104). Predicate from inequality with a signed immediate. -/
  | cmpiNe (d : Fin 16) (a : Fin 16) (i : BitVec 12)
  /-- CMPI_LT (R104). Signed less-than against an immediate. -/
  | cmpiLt (d : Fin 16) (a : Fin 16) (i : BitVec 12)
  /-- CMPI_LE (R104). Signed less-or-equal against an immediate. -/
  | cmpiLe (d : Fin 16) (a : Fin 16) (i : BitVec 12)
  /-- CMPI_LTN (R104). Unsigned less-than against a zero-extended immediate. -/
  | cmpiLtn (d : Fin 16) (a : Fin 16) (i : BitVec 12)
  /-- CMPI_LEN (R104). Unsigned less-or-equal against a zero-extended immediate. -/
  | cmpiLen (d : Fin 16) (a : Fin 16) (i : BitVec 12)
  /-- VADD (R119). Lane-wise addition. -/
  | vadd (d : Fin 16) (a : Fin 16) (b : Fin 16) (t : LaneT)
  /-- VSUB (R119). Lane-wise subtraction. -/
  | vsub (d : Fin 16) (a : Fin 16) (b : Fin 16) (t : LaneT)
  /-- VMUL (R119). Lane-wise multiplication. -/
  | vmul (d : Fin 16) (a : Fin 16) (b : Fin 16) (t : LaneT)
  /-- VNEG (R119). Lane-wise negation. -/
  | vneg (d : Fin 16) (a : Fin 16) (t : LaneT)
  /-- VABS (R119). Lane-wise absolute value. -/
  | vabs (d : Fin 16) (a : Fin 16) (t : LaneT)
  /-- VMIN (R119). Lane-wise minimum. -/
  | vmin (d : Fin 16) (a : Fin 16) (b : Fin 16) (t : LaneT)
  /-- VMAX (R119). Lane-wise maximum. -/
  | vmax (d : Fin 16) (a : Fin 16) (b : Fin 16) (t : LaneT)
  /-- VAND (R120). Lane-wise AND. -/
  | vand (d : Fin 16) (a : Fin 16) (b : Fin 16) (t : LaneT)
  /-- VOR (R120). Lane-wise OR. -/
  | vor (d : Fin 16) (a : Fin 16) (b : Fin 16) (t : LaneT)
  /-- VXOR (R120). Lane-wise XOR. -/
  | vxor (d : Fin 16) (a : Fin 16) (b : Fin 16) (t : LaneT)
  /-- VANDN (R120). Lane-wise AND with complement. -/
  | vandn (d : Fin 16) (a : Fin 16) (b : Fin 16) (t : LaneT)
  /-- VSHL (R120). Lane-wise left shift by lane amounts. -/
  | vshl (d : Fin 16) (a : Fin 16) (b : Fin 16) (t : LaneT)
  /-- VSHR (R120). Lane-wise logical right shift. -/
  | vshr (d : Fin 16) (a : Fin 16) (b : Fin 16) (t : LaneT)
  /-- VSAR (R120). Lane-wise arithmetic right shift. -/
  | vsar (d : Fin 16) (a : Fin 16) (b : Fin 16) (t : LaneT)
  /-- VCMP_EQ (R125). Lane mask of equality. -/
  | vcmpEq (d : Fin 16) (a : Fin 16) (b : Fin 16) (t : LaneT)
  /-- VCMP_LT (R125). Lane mask of less-than. -/
  | vcmpLt (d : Fin 16) (a : Fin 16) (b : Fin 16) (t : LaneT)
  /-- VCMP_LE (R125). Lane mask of less-or-equal. -/
  | vcmpLe (d : Fin 16) (a : Fin 16) (b : Fin 16) (t : LaneT)
  /-- VSUM (R131). Horizontal sum in a fixed tree into lane 0. -/
  | vsum (d : Fin 16) (a : Fin 16) (t : LaneT)
  /-- VBCAST (R127). Broadcasts a scalar into every lane. -/
  | vbcast (d : Fin 16) (a : Fin 16) (t : LaneT)
  /-- VEXT (R127). Extracts one lane into a scalar register. -/
  | vext (d : Fin 16) (a : Fin 16) (b : Fin 16) (t : LaneT)
  /-- VINS (R127). Inserts a scalar into one lane. -/
  | vins (d : Fin 16) (a : Fin 16) (b : Fin 16) (t : LaneT)
  /-- VPERM (R128). Permutes lanes by index lanes. -/
  | vperm (d : Fin 16) (a : Fin 16) (b : Fin 16) (t : LaneT)
  /-- VROUND (R136). Rounds floating lanes to integral values. -/
  | vround (d : Fin 16) (a : Fin 16) (t : LaneT)
  /-- VSCALE (R137). Multiplies floating lanes by 2 to an integer lane. -/
  | vscale (d : Fin 16) (a : Fin 16) (b : Fin 16) (t : LaneT)
  /-- VEXPO (R138). Extracts floor(log2|x|) of floating lanes. -/
  | vexpo (d : Fin 16) (a : Fin 16) (t : LaneT)
  /-- VRCPA (R139). 12-bit reciprocal estimate per FP32 lane. -/
  | vrcpa (d : Fin 16) (a : Fin 16)
  /-- VRSQRTA (R139). 12-bit reciprocal square-root estimate per FP32 lane. -/
  | vrsqrta (d : Fin 16) (a : Fin 16)
  /-- VSAT (R121). Clamps lanes to the half-width integer range. -/
  | vsat (d : Fin 16) (a : Fin 16) (t : LaneT)
  /-- VPACK (R129). Narrows the lanes of two registers into one. -/
  | vpack (d : Fin 16) (a : Fin 16) (b : Fin 16) (t : LaneT)
  /-- VUNPACK (R130). Widens one half of a register. -/
  | vunpack (d : Fin 16) (a : Fin 16) (b : Fin 16) (t : LaneT)
  /-- VSHLI (R120). Lane-wise left shift by an immediate. -/
  | vshli (d : Fin 16) (a : Fin 16) (t : LaneT) (k : BitVec 6)
  /-- VCVT (R135). Converts the low lanes between two formats. -/
  | vcvt (d : Fin 16) (a : Fin 16) (b : Fin 16) (s : LaneT) (t : LaneT)
  /-- BEAT_BOUNDARY (R59). At each beat boundary woken threads become ready and per-thread beat counters advance. -/
  | beatBoundary
  /-- LONG_RESULT_LAND (R65). A long result lands in its register or is discarded, clearing its pending mark and ORing flags. -/
  | longResultLand (uid : Nat) (id : Nat)
  /-- SFU_ACCEPT (R144). In its fixed turn the SFU accepts one request from the core of the current logical layer. -/
  | sfuAccept (o : Nat) (l : Nat) (c : Nat)
  /-- SFU_RESULT_LAND (R145). An SFU result lands four beats after acceptance as one indivisible write. -/
  | sfuResultLand (id : Nat)
  /-- MIGRATION_DEPART (R200). After its departure wait the thread's packet leaves and its source row frees. -/
  | migrationDepart (uid : Nat)
  /-- PACKET_ARRIVE (R202). A migration or dispatch packet takes a free row or spills to the owner's ring. -/
  | packetArrive (pid : Nat)
  /-- EXIT_COMPLETE (R110). After its wait the exiting thread frees its row and its task ends. -/
  | exitComplete (uid : Nat)
  /-- FENCE_COMPLETE (R172). A parked fence completes once its accesses are performed and takes ready faults. -/
  | fenceComplete (uid : Nat)
  /-- STREAM_START (R207). When every core of the reach holds a stream row, stream beat 0 is fixed. -/
  | streamStart (sid : Nat)
  /-- STREAM_BEAT_BEGIN (R214). A stream beat begins at the first boundary where every freeze condition holds. -/
  | streamBeatBegin (sid : Nat)
  /-- STREAM_END (R212). The stream ends once every core has exited and its timed results and stores are done. -/
  | streamEnd (sid : Nat)
  /-- REMOTE_LOAD_SERVE (R159). A remote load is performed at the holding core and its reply returned. -/
  | remoteLoadServe (id : Nat)
  /-- STORE_PERFORM (R260). A posted store is performed at its home and takes its coherence place. -/
  | storePerform (id : Nat)
  /-- SYNC_OP_ARRIVE (R179). A full/empty or reservation request reaches the home bank group and is performed or queued. -/
  | syncOpArrive (id : Nat)
  /-- AMO_PERFORM (R186). A returning atomic is performed indivisibly at its home. -/
  | amoPerform (id : Nat)
  /-- REDUCTION_PERFORM (R187). A reduction is performed at its home and REDPEND falls. -/
  | reductionPerform (id : Nat)
  /-- ATOMIC_REGION_PERFORM (R188). A shipped atomic region is performed at the home slice in program order. -/
  | atomicRegionPerform (id : Nat)
  /-- BARRIER_OP_ARRIVE (R191). A barrier operation is performed at the holding core, possibly releasing waiters. -/
  | barrierOpArrive (id : Nat)
  /-- QUEUE_PUSH_ARRIVE (R193). A push reaches an inbound queue and joins it or is held. -/
  | queuePushArrive (id : Nat)
  /-- MESSAGE_ARRIVE (R296). A message reaches a task's inbox and is kept or dropped. -/
  | messageArrive (id : Nat)
  /-- TLB_WALK_END (R343). A page walk ends, filling TLBs, faulting or restarting on a generation change. -/
  | tlbWalkEnd (wid : Nat)
  /-- TLBINV_ACK (R344). An invalidation's drain completes and the monitor thread is woken. -/
  | tlbinvAck (uid : Nat)
  /-- ENGINE_COMMAND_ARRIVE (R226). A command reaches an engine, where its capability is checked and it queues. -/
  | engineCommandArrive (cid : Nat) (i : Nat) (j : Nat)
  /-- ENGINE_COMMAND_START (R228). A command begins at an engine when ready, or at its start beat with a SCHEDULE check. -/
  | engineCommandStart (cid : Nat) (i : Nat) (j : Nat)
  /-- ENGINE_COMMAND_COMPLETE (R225). The last engine finishes and the status word lands. -/
  | engineCommandComplete (cid : Nat)
  /-- MFENCE_COMPLETE (R240). Every engine has finished the commands before the marker and the thread is woken. -/
  | mfenceComplete (uid : Nat)
  /-- COPY_COMMAND_BEGIN (R245). The copy unit takes the next mailbox command once the previous completes. -/
  | copyCommandBegin (o : Nat) (l : Nat) (c : Nat)
  /-- COPY_UNIT_TURN (R248). In a movement-slot turn the copy unit performs up to 512 bytes of units. -/
  | copyUnitTurn (o : Nat) (l : Nat) (c : Nat)
  /-- COPY_COMMAND_COMPLETE (R250). A copy completes: writes performed, tags set, status stored, push made. -/
  | copyCommandComplete (o : Nat) (l : Nat) (c : Nat)
  /-- PAIR_EXCHANGE (R257). The pair unit chooses Qf and flips CUR of the published pair. -/
  | pairExchange (uid : Nat)
  /-- RECORD_ARRIVE (R280). A launch record arrives at a work queue and is checked, accepted, refused or lost. -/
  | recordArrive (id : Nat)
  /-- LAUNCH_START (R281). A record heading its queue starts as a launch. -/
  | launchStart (q : Nat)
  /-- TASK_DISPATCH (R288). The dispatcher dispatches a ready task of an owner in its round. -/
  | taskDispatch (o : Nat)
  /-- OWNER_ENABLE (R301). A write of OWNCFG.EN = 1 checks the descriptor and enables or refuses the owner. -/
  | ownerEnable (v : BitVec 64)
  /-- CAPENT_WRITE (R303). A write to CAPENT replaces a capability-table entry. -/
  | capentWrite (v : BitVec 64)
  /-- RRANGE_WRITE (R306). A write to a range register zeroes its counters in every slice. -/
  | rrangeWrite (k : Nat) (v : BitVec 64)
  /-- REGISTER_WRITE (R11). A write to a register with no behaviour of its own takes the value under its access codes. -/
  | registerWrite (n : Nat) (v : BitVec 64)
  /-- FREEZE_START (R313). An owner's freeze takes effect at the first beat boundary after detection. -/
  | freezeStart (o : Nat)
  /-- ROTATION_DUE (R314). At a rotation count the synchronised stop of a pause begins. -/
  | rotationDue
  /-- SWITCH_DUE (R327). At a switch count a time-sharing pause begins. -/
  | switchDue
  /-- ENGINE_STEP_STOP (R319). An engine reaches its next step boundary in a pause and stops. -/
  | engineStepStop (cid : Nat) (i : Nat) (j : Nat)
  /-- ROUTER_FLUSH (R320). At Q0 + 512 routers send flush tokens and capture in-flight flits into save buffers. -/
  | routerFlush
  /-- MEMORY_DRAIN_END (R321). Memory-side units finish their accepted requests into reply save buffers. -/
  | memoryDrainEnd
  /-- ROTATION_MOVE (R323). At Q0 + 520 tile state moves along the rotation lanes on the fixed schedule. -/
  | rotationMove
  /-- MOVE_END (R318). The move on the rotation lanes ends. -/
  | moveEnd
  /-- SLOT_MAP_SWITCH (R324). At Qm SLOTMAP changes, ROTSEQ advances and save buffers re-inject. -/
  | slotMapSwitch
  /-- ISSUE_RESUME (R318). At Qr, once every save buffer is empty, issue resumes. -/
  | issueResume
  /-- ROW_RESTORE (R330). Evicted rows of a newly resident owner are restored after Qr in eviction order. -/
  | rowRestore (uid : Nat)
  /-- WAYPART_COMPLETE (R309). The way walk ends and the new scratchpad size takes effect at Qb. -/
  | waypartComplete (n : Nat)
  /-- HOST_POST (R362). A 128-byte host write to a post window arrives as one launch record. -/
  | hostPost (fn : Nat) (off : Nat) (bytes : List (BitVec 8))
  /-- HOST_MEMORY_READ (R363). A host read of a memory window is translated and served at its home. -/
  | hostMemoryRead (fn : Nat) (off : Nat) (len : Nat)
  /-- HOST_MEMORY_WRITE (R271). A host or CXL.mem write is performed at the home after L1 invalidation. -/
  | hostMemoryWrite (fn : Nat) (off : Nat) (bytes : List (BitVec 8))
  /-- VF_FLR (R365). An FLR of a virtual function discards its unstarted records and resets its MSI-X. -/
  | vfFlr (fn : Nat)
  /-- PF_FLR (R366). An FLR of the PF resets the host port and removes every VF. -/
  | pfFlr
  /-- HOT_RESET (R366). A PCIe hot reset acts on the host port as a PF FLR. -/
  | hotReset
  /-- LINK_DOWN (R366). A host link-down acts on the host port as a PF FLR. -/
  | linkDown
  /-- SPDM_REQUEST (R371). An SPDM request over the DOE mailbox is answered. -/
  | spdmRequest (code : Nat)
  /-- IXNAR_INBOUND_REQUEST (R376). An inbound peer request is admitted, translated and performed, or refused. -/
  | ixnarInboundRequest (r : IxReq)
  /-- IXNAR_LINK_STATE_CHANGE (R375). A link comes up or fails, changing the set of usable links. -/
  | ixnarLinkStateChange (k : Nat) (up : Bool)
  /-- STEP_READY_TOKEN (R410). A ready token from a step-group member arrives and is kept. -/
  | stepReadyToken (o : Nat) (dev : Nat) (num : Nat)
  /-- LOCAL_STOP (R409). The owner reaches its local step stop and sends ready tokens. -/
  | localStop (o : Nat)
  /-- STEP_RESUME (R411). A write of STEPST.RESUME delivers stepped packets and restarts launches. -/
  | stepResume (o : Nat)
  /-- SLATE_WRITE_IMAGE (R416). SLCMD operation 1 writes a Slate image of a held owner. -/
  | slateWriteImage
  /-- SLATE_RESTORE (R417). SLCMD operation 2 verifies and restores a Slate image. -/
  | slateRestore
  /-- SLATE_COMMAND_END (R414). A Slate command ends with its code and posts event 0x2A. -/
  | slateCommandEnd (code : Nat)
  /-- PULL_REQUEST_SERVE (R419). A source device serves a post-copy page pull for a held owner. -/
  | pullRequestServe (o : Nat) (dev : Nat) (rown : Nat) (p : Nat)
  /-- PULL_REPLY (R419). A pulled page arrives, is written, its bit cleared and its waiters performed. -/
  | pullReply (o : Nat) (page : Nat) (bytes : List (BitVec 8)) (marks : List (BitVec 8))
  /-- PULL_TIMEOUT (R420). A pull that gets no reply in 2^24 cycles fails and poisons its page. -/
  | pullTimeout (o : Nat) (page : Nat)
  /-- INSTALL_REQUEST_ARRIVE (R387). The install unit accepts or refuses an install request in arrival order. -/
  | installRequestArrive (id : Nat)
  /-- INSTALL_END (R389). An install ends, writing its record, push and status. -/
  | installEnd (id : Nat)
  /-- PATROL_SCRUB_READ (R397). The patrol reads a sector, correcting or poisoning it. -/
  | patrolScrubRead (unit : Nat) (sector : Nat) (bad : Bool)
  /-- LAYER_LOST (R399). A data layer is lost and the column's state advances. -/
  | layerLost (stack : Nat) (layer : Nat)
  /-- REBUILD_SECTOR (R399). The rebuild reconstructs one sector into layer 8 and advances RBPOS. -/
  | rebuildSector (stack : Nat) (bad : Bool)
  /-- CORE_LOGIC_FAILURE (R400). A core's logic fails between pauses and stops issuing. -/
  | coreLogicFailure (tile : Nat) (layer : Nat)
  /-- LANE_FAILURE (R403). A vertical bus lane fails without a spare and the bus drops to half width. -/
  | laneFailure (tile : Nat) (region : Nat)
  /-- REFRESH_RATE_CHANGE (R404). A layer sensor crosses 85 or 82 °C and the refresh rate changes. -/
  | refreshRateChange (stack : Nat) (layer : Nat) (hot : Bool)
  /-- THERMAL_EVENT (R32). A sensor reads 100 °C and a thermal event is posted. -/
  | thermalEvent (pos : Nat) (layer : Nat)
  /-- THERMAL_TRIP (R32). A sensor reads 110 °C; issue and engines stop and compute loses power. -/
  | thermalTrip (pos : Nat) (layer : Nat)
  /-- EVENT_ACCEPT (R354). The event arbiter accepts an event, gives it SEQ and writes its record. -/
  | eventAccept (k : Nat)
  /-- METERING_INTERVAL (R436). At each metering interval a record is produced for every enabled owner. -/
  | meteringInterval
  /-- METERING_RECORD_WRITE (R437). A waiting metering record is written into the ring when it has room. -/
  | meteringRecordWrite
  /-- TEARDOWN_TILES (R439). Stage 2: in a pause the owner's tenancies, rows, tiles and translations are cleared. -/
  | teardownTiles
  /-- TEARDOWN_SLICES (R439). Stage 3: the owner's lines are invalidated and slice ways returned. -/
  | teardownSlices
  /-- TEARDOWN_DRAM (R439). Stage 4: the owner's column stacks are zeroed. -/
  | teardownDram
  /-- TEARDOWN_AREAS (R439). Stage 5: save area, spill ring and inboxes are zeroed and extents marked incomplete. -/
  | teardownAreas
  /-- TEARDOWN_KEYS (R439). Stages 6 and 7: key slots are emptied and scrub completion is posted. -/
  | teardownKeys
  /-- POWER_ON_RESET (R423). Power is applied or PERST# is asserted and the device resets. -/
  | powerOnReset (applied : Bool)
  /-- OBSIDIAN_BOOT (R425). Obsidian verifies the firmware image and dispatches the monitor, or enters recovery. -/
  | obsidianBoot
  /-- RECOVERY_BEGIN (R427). Mailbox BEGIN starts receiving an image of stated length. -/
  | recoveryBegin (len : Nat)
  /-- RECOVERY_APPEND (R427). Mailbox APPEND takes the staged 4 KiB as the next image bytes. -/
  | recoveryAppend
  /-- RECOVERY_COMMIT (R427). Mailbox COMMIT verifies the image and begins writing the boot partition. -/
  | recoveryCommit
  /-- RECOVERY_WRITE_DONE (R427). The boot-partition write ends and STATE becomes written. -/
  | recoveryWriteDone (ok : Bool)
  /-- RECOVERY_ABORT (R427). Mailbox ABORT discards the received bytes. -/
  | recoveryAbort
  /-- RECOVERY_RESET (R427). Mailbox RESET performs a power-on reset. -/
  | recoveryReset
  /-- MGMT_FREEZE (R443). Management FREEZE acts as frz operation 0 for an owner. -/
  | mgmtFreeze (o : Nat)
  /-- MGMT_RELEASE (R443). Management RELEASE acts as frz operation 1 for an owner. -/
  | mgmtRelease (o : Nat)
  /-- MGMT_READREG (R443). Management READREG reads a frozen owner's register if debug is permitted. -/
  | mgmtReadreg (o : Nat) (core : Nat) (row : Nat) (reg : Nat)
  /-- MGMT_READMEM (R443). Management READMEM reads a frozen owner's memory if debug is permitted. -/
  | mgmtReadmem (o : Nat) (addr : Nat) (len : Nat)
  /-- UNASSIGNED_WORD (R79). Issuing a word whose major opcode or function value has no entry in the map raises ILLEGAL_INSTRUCTION, subcode 1 or 2. -/
  | unassignedWord (w : BitVec 32)
  /-- INSTRUCTION_FETCH_FAULT (R340). Fetching the bundle at the PC fails with TRANSLATION, PROTECTION subcode 2 or POISON, precise at that bundle. -/
  | instructionFetchFault (code : Nat) (sub : Nat)
  /-- POWER_LOSS (R423). Removal of power ends all activity; only flash, fuses and Obsidian's persistent store keep their contents. -/
  | powerLoss
  /-- MGMT_RESET (R423). The management port's RESET command performs a power-on reset outside recovery. -/
  | mgmtReset
  /-- CONFIGURATION_WRITE (R366). A host configuration write, such as enabling memory space, setting VF Enable or changing the power state, takes effect on a function. -/
  | configurationWrite (fn : Nat) (what : Nat) (val : Nat)
  /-- MSIX_VECTOR_UNMASK (R367). A host write that unmasks an MSI-X vector sends the signal its PBA bit holds pending. -/
  | msixVectorUnmask (fn : Nat) (vec : Nat)
  /-- RECOVERY_BUFFER_WRITE (R427). A write to RBUF stages image bytes in STATE 1 and is ignored otherwise. -/
  | recoveryBufferWrite (off : Nat) (v : BitVec 64)
  /-- PULL_REFUSAL (R420). The source's refusal of a post-copy pull arrives and fails the page: it is zeroed, poisoned, its bit cleared, FAILED set and event 0x2B posted. -/
  | pullRefusal (o : Nat) (page : Nat)
  /-- INSTALL_PAGE_PROGRAMMED (R388). A flash erase or page program of an accepted install completes, advancing the install's STATE and PAGES, or retiring a failing block. -/
  | installPageProgrammed (id : Nat) (ok : Bool)
  /-- LINK_UP (R357). The host PCIe link trains and comes up after a link-down or reset. -/
  | linkUp
deriving DecidableEq, Repr

end Sys2Proof
end

