-- ==== Sys2Proof/WellFormed.lean ====
section
/-! DEFINITION. WellFormed: which terms of Instr are assigned words (R79, R85, R87, R88), which carry a reserved field value (R80),
and which row stands for a word that several rows share (R317, R352). -/

namespace Sys2Proof

/-- Lane type codes (R87). -/
def LaneT.code : LaneT → Nat
  | .i8 => 0 | .i16 => 1 | .i32 => 2 | .i64 => 3 | .n8 => 4 | .n16 => 5 | .n32 => 6 | .n64 => 7 | .bf16 => 8 | .f32 => 9 | .g8 => 10

/-- The lane type of a code (R87); codes 0xB to 0xF are unassigned. -/
def LaneT.ofCode : Nat → Option LaneT
  | 0 => some .i8 | 1 => some .i16 | 2 => some .i32 | 3 => some .i64 | 4 => some .n8 | 5 => some .n16 | 6 => some .n32 | 7 => some .n64
  | 8 => some .bf16 | 9 => some .f32 | 10 => some .g8 | _ => none

/-- I types (R87). -/
def LaneT.isI : LaneT → Bool
  | .i8 | .i16 | .i32 | .i64 => true | _ => false
/-- N types (R87). -/
def LaneT.isN : LaneT → Bool
  | .n8 | .n16 | .n32 | .n64 => true | _ => false
/-- F types (R87). -/
def LaneT.isF : LaneT → Bool
  | .bf16 | .f32 => true | _ => false
/-- I or N types. -/
def LaneT.isInt (t : LaneT) : Bool := t.isI || t.isN
/-- Types of vpack (R87). -/
def LaneT.isPack : LaneT → Bool
  | .i16 | .i32 | .i64 | .n16 | .n32 | .n64 | .f32 => true | _ => false
/-- Types of vunpack (R87). -/
def LaneT.isUnpack : LaneT → Bool
  | .i8 | .i16 | .i32 | .n8 | .n16 | .n32 | .bf16 => true | _ => false
/-- Types of vcvt (R88). -/
def LaneT.isCvt : LaneT → Bool
  | .i8 | .i16 | .i32 | .bf16 | .f32 | .g8 => true | _ => false

/-- Rows that have no word: the events of the opcode table. -/
def Instr.hasWord : Instr → Bool
  | .beatBoundary => false
  | .longResultLand .. => false
  | .sfuAccept .. => false
  | .sfuResultLand .. => false
  | .migrationDepart .. => false
  | .packetArrive .. => false
  | .exitComplete .. => false
  | .fenceComplete .. => false
  | .streamStart .. => false
  | .streamBeatBegin .. => false
  | .streamEnd .. => false
  | .remoteLoadServe .. => false
  | .storePerform .. => false
  | .syncOpArrive .. => false
  | .amoPerform .. => false
  | .reductionPerform .. => false
  | .atomicRegionPerform .. => false
  | .barrierOpArrive .. => false
  | .queuePushArrive .. => false
  | .messageArrive .. => false
  | .tlbWalkEnd .. => false
  | .tlbinvAck .. => false
  | .engineCommandArrive .. => false
  | .engineCommandStart .. => false
  | .engineCommandComplete .. => false
  | .mfenceComplete .. => false
  | .copyCommandBegin .. => false
  | .copyUnitTurn .. => false
  | .copyCommandComplete .. => false
  | .pairExchange .. => false
  | .recordArrive .. => false
  | .launchStart .. => false
  | .taskDispatch .. => false
  | .ownerEnable .. => false
  | .capentWrite .. => false
  | .rrangeWrite .. => false
  | .registerWrite .. => false
  | .freezeStart .. => false
  | .rotationDue => false
  | .switchDue => false
  | .engineStepStop .. => false
  | .routerFlush => false
  | .memoryDrainEnd => false
  | .rotationMove => false
  | .moveEnd => false
  | .slotMapSwitch => false
  | .issueResume => false
  | .rowRestore .. => false
  | .waypartComplete .. => false
  | .hostPost .. => false
  | .hostMemoryRead .. => false
  | .hostMemoryWrite .. => false
  | .vfFlr .. => false
  | .pfFlr => false
  | .hotReset => false
  | .linkDown => false
  | .spdmRequest .. => false
  | .ixnarInboundRequest .. => false
  | .ixnarLinkStateChange .. => false
  | .stepReadyToken .. => false
  | .localStop .. => false
  | .stepResume .. => false
  | .slateWriteImage => false
  | .slateRestore => false
  | .slateCommandEnd .. => false
  | .pullRequestServe .. => false
  | .pullReply .. => false
  | .pullTimeout .. => false
  | .installRequestArrive .. => false
  | .installEnd .. => false
  | .patrolScrubRead .. => false
  | .layerLost .. => false
  | .rebuildSector .. => false
  | .coreLogicFailure .. => false
  | .laneFailure .. => false
  | .refreshRateChange .. => false
  | .thermalEvent .. => false
  | .thermalTrip .. => false
  | .eventAccept .. => false
  | .meteringInterval => false
  | .meteringRecordWrite => false
  | .teardownTiles => false
  | .teardownSlices => false
  | .teardownDram => false
  | .teardownAreas => false
  | .teardownKeys => false
  | .powerOnReset .. => false
  | .obsidianBoot => false
  | .recoveryBegin .. => false
  | .recoveryAppend => false
  | .recoveryCommit => false
  | .recoveryWriteDone .. => false
  | .recoveryAbort => false
  | .recoveryReset => false
  | .mgmtFreeze .. => false
  | .mgmtRelease .. => false
  | .mgmtReadreg .. => false
  | .mgmtReadmem .. => false
  | .unassignedWord .. => false
  | .instructionFetchFault .. => false
  | .powerLoss => false
  | .mgmtReset => false
  | .configurationWrite .. => false
  | .msixVectorUnmask .. => false
  | .recoveryBufferWrite .. => false
  | .pullRefusal .. => false
  | .installPageProgrammed .. => false
  | .linkUp => false
  | _ => true

/-- The row that decoding gives for a word: the further selectors of rotctl, slotctl and frz share the first row's word (R317, R352). -/
def Instr.canonical : Instr → Bool
  | .rotctlResume .. => false
  | .rotctlExtraRotation .. => false
  | .rotctlExtraSwitch .. => false
  | .slotctlRemove .. => false
  | .slotctlSpill .. => false
  | .frzReleaseOwner .. => false
  | .frzFreezeFunction .. => false
  | .frzReleaseFunction .. => false
  | .frzEndTask .. => false
  | _ => true

/-- A special register number with an entry: the per-thread numbers of R113, and the monitor registers of the maps. -/
def regAssigned (n : Nat) : Bool :=
  n ≤ 4 || (8 ≤ n && n ≤ 10) || (0x10 ≤ n && n ≤ 0x14) || n == 0x18 || (0x20 ≤ n && n ≤ 0x23) || n == 0x28 ||
  n == 0x800 || n == 0x801 || n == 0x840 || n == 0x841 || n == 0x844 || n == 0x848 || (0x850 ≤ n && n ≤ 0x853) || (0x860 ≤ n && n ≤ 0x871) ||
  (0x880 ≤ n && n ≤ 0x884) || (0x890 ≤ n && n ≤ 0x894) || n == 0x8A0 || n == 0x8A1 || (0x8B0 ≤ n && n ≤ 0x8B2) || (0x8C0 ≤ n && n ≤ 0x8C4) ||
  (0x8D0 ≤ n && n ≤ 0x8D4) || n == 0x8E0 || n == 0x8E1 || n == 0x8E8 || n == 0x8E9 || n == 0x8EC || n == 0x8F0 || n == 0x8F1 ||
  n == 0x900 || (0x904 ≤ n && n ≤ 0x906) || n == 0x90C || n == 0x90E

/-- The term is an entry of the opcode map: its lane types are those that R87, R88 and R85 list, and the number of an rsr or wsr has a register (R113). -/
def Instr.assigned : Instr → Bool
  | .rsr _ n => regAssigned n.toNat
  | .wsr _ n => regAssigned n.toNat
  | .vadd _ _ _ t | .vsub _ _ _ t | .vmul _ _ _ t | .vmin _ _ _ t | .vmax _ _ _ t => t.isInt || t.isF
  | .vcmpEq _ _ _ t | .vcmpLt _ _ _ t | .vcmpLe _ _ _ t => t.isInt || t.isF
  | .vneg _ _ t | .vabs _ _ t => t.isI || t.isF
  | .vand _ _ _ t | .vor _ _ _ t | .vxor _ _ _ t | .vandn _ _ _ t | .vshl _ _ _ t | .vshr _ _ _ t | .vsar _ _ _ t => t.isInt
  | .vsum _ _ t => t.isInt || t == .f32
  | .vbcast _ _ t | .vsat _ _ t => t.isInt
  | .vext _ _ _ t | .vins _ _ _ t | .vperm _ _ _ t => t.isInt
  | .vround _ _ t | .vexpo _ _ t => t.isF
  | .vscale _ _ _ t => t.isF
  | .vpack _ _ _ t => t.isPack
  | .vunpack _ _ _ t => t.isUnpack
  | .vshli _ _ t _ => t.isInt
  | .vcvt _ _ _ s t => s.isCvt && t.isCvt && s != t
  | i => i.hasWord

/-- A field that names a predicate or an inbound queue: 8 to 15 are reserved (R80). -/
def over7 (k : Fin 16) : Bool := 8 ≤ k.val
/-- A field that names an EG register or a channel: 4 to 15 are reserved (R80). -/
def over3 (k : Fin 16) : Bool := 4 ≤ k.val

/-- The subcode of ILLEGAL_OPERAND that a reserved field value raises (R80, R81), the register fields before the counts. -/
def Instr.reservedSub : Instr → Option Nat
  | .cmpEq d _ _ => if over7 d then some 2 else none
  | .cmpNe d _ _ => if over7 d then some 2 else none
  | .cmpLt d _ _ => if over7 d then some 2 else none
  | .cmpLe d _ _ => if over7 d then some 2 else none
  | .cmpLtn d _ _ => if over7 d then some 2 else none
  | .cmpLen d _ _ => if over7 d then some 2 else none
  | .cmpiEq d _ _ => if over7 d then some 2 else none
  | .cmpiNe d _ _ => if over7 d then some 2 else none
  | .cmpiLt d _ _ => if over7 d then some 2 else none
  | .cmpiLe d _ _ => if over7 d then some 2 else none
  | .cmpiLtn d _ _ => if over7 d then some 2 else none
  | .cmpiLen d _ _ => if over7 d then some 2 else none
  | .pset d b => if over7 d then some 2 else if 2 ≤ b.val then some 3 else none
  | .pand d a b => if over7 d || over7 a || over7 b then some 2 else none
  | .por d a b => if over7 d || over7 a || over7 b then some 2 else none
  | .pnot d a => if over7 d || over7 a then some 2 else none
  | .sel _ _ _ c => if over7 c then some 2 else none
  | .mgrp d _ => if over3 d then some 2 else none
  | .mclr _ _ b => if over3 b then some 2 else none
  | .mmaG8 _ _ b => if over3 b then some 2 else none
  | .mmaI8 _ _ b => if over3 b then some 2 else none
  | .mmaBf16 _ _ b => if over3 b then some 2 else none
  | .mmaG8bf _ _ b => if over3 b then some 2 else none
  | .mrd _ _ b => if over3 b then some 2 else none
  | .mrdq _ _ b => if over3 b then some 2 else none
  | .mstat _ b => if over3 b then some 2 else none
  | .mfence b => if over3 b then some 2 else none
  | .chset _ b => if over3 b then some 2 else none
  | .chq _ b => if over3 b then some 2 else none
  | .qpop _ a => if over7 a then some 2 else none
  | .qpeek _ a => if over7 a then some 2 else none
  | .qredI32 _ a _ => if over7 a then some 2 else none
  | .qredI64 _ a _ => if over7 a then some 2 else none
  | .qredF32 _ a _ => if over7 a then some 2 else none
  | .areg n => if n.val = 0 || 9 ≤ n.val then some 3 else none
  | .ldt _ _ u => if u = 0 then some 3 else none
  | .vldt _ _ u => if u = 0 then some 3 else none
  | _ => none

/-- A well-formed instruction: an assigned word with no reserved field value (R79, R80). -/
def WellFormed (i : Instr) : Bool := i.assigned && i.reservedSub == none

end Sys2Proof
end

