-- ==== Sys2Proof/Decode.lean ====
section
/-! DEFINITION. Decode: from words and bytes to Instr (R69 to R93), total, rejecting by name; and the encoder of the same tables. -/

namespace Sys2Proof

/-- Why a word is no instruction (R79, R81). -/
inductive DecodeErr
  /-- Unassigned major: ILLEGAL_INSTRUCTION, subcode 1. -/
  | major
  /-- Unassigned function value: ILLEGAL_INSTRUCTION, subcode 2. -/
  | function
  /-- Fewer than four bytes. -/
  | short
deriving DecidableEq, Repr

/-- A decoded word: pair start, wait marker, guard and the instruction (R69). -/
structure Decoded where
  p : Bool
  w : Bool
  g : BitVec 4
  i : Instr
deriving DecidableEq, Repr

/-- The four-bit field of a word at bit lo. -/
def fld (w lo : Nat) : Fin 16 := Fin.ofNat 16 (w / 2 ^ lo)

/-- The integer element type of the broadcast loads, from function bits 1-0 (R89). -/
def IntT.ofCode (n : Nat) : IntT := if n = 0 then .i8 else if n = 1 then .i16 else if n = 2 then .i32 else .i64
/-- Its code. -/
def IntT.code : IntT → Nat
  | .i8 => 0 | .i16 => 1 | .i32 => 2 | .i64 => 3
/-- The floating type of vfma and vfms, from function bit 0 (R86). -/
def FltT.ofCode (n : Nat) : FltT := if n = 0 then .f32 else .bf16
/-- Its code. -/
def FltT.code : FltT → Nat
  | .f32 => 0 | .bf16 => 1
/-- Atomic operations by function bits 3-0 (R89). -/
def AmoOp.ofCode : Nat → Option AmoOp
  | 0 => some .add | 1 => some .min | 2 => some .max | 3 => some .minn | 4 => some .maxn | 5 => some .and | 6 => some .or | 7 => some .xor
  | 8 => some .swap | 9 => some .cas | _ => none
/-- Their codes. -/
def AmoOp.code : AmoOp → Nat
  | .add => 0 | .min => 1 | .max => 2 | .minn => 3 | .maxn => 4 | .and => 5 | .or => 6 | .xor => 7 | .swap => 8 | .cas => 9
/-- Reduction operations by function bits 2-0 (R89). -/
def RedOp.ofCode : Nat → Option RedOp
  | 0 => some .add | 1 => some .min | 2 => some .max | 3 => some .and | 4 => some .or | 5 => some .xor | _ => none
/-- Their codes. -/
def RedOp.code : RedOp → Nat
  | .add => 0 | .min => 1 | .max => 2 | .and => 3 | .or => 4 | .xor => 5

/-- An instruction with a lane type from function bits 3-0, where the pair is assigned (R87). -/
def withLane (c : Nat) (f : LaneT → Instr) : Except DecodeErr Instr :=
  match LaneT.ofCode c with
  | some t => if (f t).assigned then .ok (f t) else .error .function
  | none => .error .function

/-- An instruction with an operation code that may be unassigned. -/
def withOp {α : Type} (o : Option α) (f : α → Instr) : Except DecodeErr Instr :=
  match o with
  | some x => .ok (f x)
  | none => .error .function

/-- The group of major 0x04. -/
def decodeControl (w : Nat) : Except DecodeErr Instr :=
  match w % 256 with
  | 0 => .ok (.jmp (fld w 12))
  | 1 => .ok (.ret (fld w 12))
  | 2 => .ok (.send)
  | 3 => .ok (.exit)
  | 4 => .ok (.yield)
  | 5 => .ok (.trap (BitVec.ofNat 8 (w / 256 % 256)))
  | 6 => .ok (.brk)
  | 7 => .ok (.rte)
  | _ => .error .function

/-- The group of major 0x15. -/
def decodeMemExtra (w : Nat) : Except DecodeErr Instr :=
  match w % 256 with
  | 0 | 1 | 2 | 3 => .ok (.vldBc (fld w 16) (fld w 12) (IntT.ofCode (w % 4)))
  | 4 => .ok (.vldk (fld w 16) (fld w 12) (fld w 8))
  | 8 => .ok (.pref (fld w 12))
  | 9 => .ok (.prefR (fld w 12))
  | 16 => .ok (.fenceK)
  | 17 => .ok (.fenceS)
  | 18 => .ok (.fenceO)
  | 19 => .ok (.fenceY)
  | _ => .error .function

/-- The group of major 0x16. -/
def decodeSync (w : Nat) : Except DecodeErr Instr :=
  match w % 256 with
  | 0 => .ok (.ldfe (fld w 16) (fld w 12))
  | 1 => .ok (.ldff (fld w 16) (fld w 12))
  | 2 => .ok (.stfe (fld w 12) (fld w 8))
  | 3 => .ok (.stf (fld w 12) (fld w 8))
  | 4 => .ok (.feClr (fld w 12))
  | 8 => .ok (.lrw (fld w 16) (fld w 12))
  | 9 => .ok (.scq (fld w 12) (fld w 8))
  | 10 => .ok (.rsvRel (fld w 12))
  | 16 | 17 | 18 | 19 | 20 | 21 | 22 | 23 | 24 | 25 => withOp (AmoOp.ofCode (w % 16)) (.amoD (fld w 16) (fld w 12) (fld w 8))
  | 32 | 33 | 34 | 35 | 36 | 37 | 38 | 39 | 40 | 41 => withOp (AmoOp.ofCode (w % 16)) (.amoW (fld w 16) (fld w 12) (fld w 8))
  | 48 | 49 | 50 | 51 | 52 | 53 => withOp (RedOp.ofCode (w % 8)) (.redD (fld w 12) (fld w 8))
  | 56 | 57 | 58 | 59 | 60 | 61 => withOp (RedOp.ofCode (w % 8)) (.redW (fld w 12) (fld w 8))
  | 62 => .ok (.redFaddF32 (fld w 12) (fld w 8))
  | 64 => .ok (.areg (fld w 8))
  | 72 => .ok (.barInit (fld w 12) (fld w 8))
  | 73 => .ok (.barArrive (fld w 12))
  | 74 => .ok (.barWait (fld w 12))
  | 75 => .ok (.barSync (fld w 12))
  | 80 => .ok (.qpush (fld w 12) (fld w 8))
  | 81 => .ok (.qpop (fld w 16) (fld w 12))
  | 82 => .ok (.qpeek (fld w 16) (fld w 12))
  | 83 => .ok (.qredI32 (fld w 16) (fld w 12) (fld w 8))
  | 84 => .ok (.qredI64 (fld w 16) (fld w 12) (fld w 8))
  | 85 => .ok (.qredF32 (fld w 16) (fld w 12) (fld w 8))
  | 88 => .ok (.msg (fld w 12) (fld w 8))
  | 89 => .ok (.mrecv (fld w 16))
  | _ => .error .function

/-- The group of major 0x17. -/
def decodeThread (w : Nat) : Except DecodeErr Instr :=
  match w % 256 with
  | 0 => .ok (.go (fld w 12))
  | 1 => .ok (.spawn (fld w 16) (fld w 12))
  | 2 => .ok (.step)
  | _ => .error .function

/-- The group of major 0x18. -/
def decodeSfu (w : Nat) : Except DecodeErr Instr :=
  match w / 256 % 16 with
  | 0 => .ok (.fexp2 (fld w 16) (fld w 12) (BitVec.ofNat 8 (w % 256)))
  | 1 => .ok (.flog2 (fld w 16) (fld w 12) (BitVec.ofNat 8 (w % 256)))
  | 2 => .ok (.frcp (fld w 16) (fld w 12) (BitVec.ofNat 8 (w % 256)))
  | 3 => .ok (.frsqrt (fld w 16) (fld w 12) (BitVec.ofNat 8 (w % 256)))
  | 4 => .ok (.fsqrt (fld w 16) (fld w 12) (BitVec.ofNat 8 (w % 256)))
  | 5 => .ok (.fsinp (fld w 16) (fld w 12) (BitVec.ofNat 8 (w % 256)))
  | 6 => .ok (.fcosp (fld w 16) (fld w 12) (BitVec.ofNat 8 (w % 256)))
  | 7 => .ok (.ftanh (fld w 16) (fld w 12) (BitVec.ofNat 8 (w % 256)))
  | 8 => .ok (.fsigm (fld w 16) (fld w 12) (BitVec.ofNat 8 (w % 256)))
  | _ => .error .function

/-- The group of major 0x19. -/
def decodeMatrix (w : Nat) : Except DecodeErr Instr :=
  match w % 256 with
  | 0 => .ok (.mgrp (fld w 16) (fld w 12))
  | 1 => .ok (.mclr (fld w 16) (fld w 12) (fld w 8))
  | 2 => .ok (.mmaG8 (fld w 16) (fld w 12) (fld w 8))
  | 3 => .ok (.mmaI8 (fld w 16) (fld w 12) (fld w 8))
  | 4 => .ok (.mmaBf16 (fld w 16) (fld w 12) (fld w 8))
  | 5 => .ok (.mmaG8bf (fld w 16) (fld w 12) (fld w 8))
  | 6 => .ok (.mrd (fld w 16) (fld w 12) (fld w 8))
  | 7 => .ok (.mrdq (fld w 16) (fld w 12) (fld w 8))
  | 8 => .ok (.mstat (fld w 16) (fld w 8))
  | 9 => .ok (.mfence (fld w 8))
  | _ => .error .function

/-- The group of major 0x1A. -/
def decodeCopy (w : Nat) : Except DecodeErr Instr :=
  match w % 256 with
  | 0 => .ok (.cp1d (fld w 12))
  | 1 => .ok (.cp2d (fld w 12))
  | 2 => .ok (.cp3d (fld w 12))
  | 3 => .ok (.cpGather (fld w 12))
  | 4 => .ok (.cpScatter (fld w 12))
  | 5 => .ok (.cpFill (fld w 12))
  | 8 => .ok (.chset (fld w 12) (fld w 8))
  | 9 => .ok (.chq (fld w 16) (fld w 8))
  | 16 => .ok (.publish (fld w 12))
  | _ => .error .function

/-- The group of major 0x1B. -/
def decodeFlash (w : Nat) : Except DecodeErr Instr :=
  match w % 256 with
  | 0 => .ok (.winst (fld w 16) (fld w 12))
  | 1 => .ok (.wstat (fld w 16) (fld w 12))
  | _ => .error .function

/-- The group of major 0x1C. -/
def decodeMonitor (w : Nat) : Except DecodeErr Instr :=
  match w % 256 with
  | 0 => .ok (.tlbinv (fld w 12))
  | 1 => .ok (.keyld (fld w 12) (fld w 8))
  | 2 => .ok (.keyzap (fld w 12))
  | 3 => .ok (.scrub (fld w 12))
  | 4 => .ok (.evpost (fld w 12))
  | 5 => .ok (.rotctlSuspend (fld w 12))
  | 6 => .ok (.slotctlPlace (fld w 12) (fld w 8))
  | 7 => .ok (.waypart (fld w 12) (fld w 8))
  | 8 => .ok (.frzFreezeOwner (fld w 12))
  | _ => .error .function

/-- The group of major 0x20. -/
def decodeAlu (w : Nat) : Except DecodeErr Instr :=
  match w % 256 with
  | 0 => .ok (.add (fld w 16) (fld w 12) (fld w 8))
  | 1 => .ok (.sub (fld w 16) (fld w 12) (fld w 8))
  | 2 => .ok (.mul (fld w 16) (fld w 12) (fld w 8))
  | 3 => .ok (.mulh (fld w 16) (fld w 12) (fld w 8))
  | 4 => .ok (.mulhn (fld w 16) (fld w 12) (fld w 8))
  | 5 => .ok (.div (fld w 16) (fld w 12) (fld w 8))
  | 6 => .ok (.divn (fld w 16) (fld w 12) (fld w 8))
  | 7 => .ok (.rem (fld w 16) (fld w 12) (fld w 8))
  | 8 => .ok (.remn (fld w 16) (fld w 12) (fld w 8))
  | 16 => .ok (.and (fld w 16) (fld w 12) (fld w 8))
  | 17 => .ok (.or (fld w 16) (fld w 12) (fld w 8))
  | 18 => .ok (.xor (fld w 16) (fld w 12) (fld w 8))
  | 19 => .ok (.andn (fld w 16) (fld w 12) (fld w 8))
  | 20 => .ok (.orn (fld w 16) (fld w 12) (fld w 8))
  | 24 => .ok (.shl (fld w 16) (fld w 12) (fld w 8))
  | 25 => .ok (.shr (fld w 16) (fld w 12) (fld w 8))
  | 26 => .ok (.sar (fld w 16) (fld w 12) (fld w 8))
  | 27 => .ok (.rotl (fld w 16) (fld w 12) (fld w 8))
  | 32 => .ok (.min (fld w 16) (fld w 12) (fld w 8))
  | 33 => .ok (.max (fld w 16) (fld w 12) (fld w 8))
  | 34 => .ok (.minn (fld w 16) (fld w 12) (fld w 8))
  | 35 => .ok (.maxn (fld w 16) (fld w 12) (fld w 8))
  | 40 => .ok (.clz (fld w 16) (fld w 12))
  | 41 => .ok (.ctz (fld w 16) (fld w 12))
  | 42 => .ok (.popc (fld w 16) (fld w 12))
  | 43 => .ok (.mov (fld w 16) (fld w 12))
  | 48 => .ok (.cmpEq (fld w 16) (fld w 12) (fld w 8))
  | 49 => .ok (.cmpNe (fld w 16) (fld w 12) (fld w 8))
  | 50 => .ok (.cmpLt (fld w 16) (fld w 12) (fld w 8))
  | 51 => .ok (.cmpLe (fld w 16) (fld w 12) (fld w 8))
  | 52 => .ok (.cmpLtn (fld w 16) (fld w 12) (fld w 8))
  | 53 => .ok (.cmpLen (fld w 16) (fld w 12) (fld w 8))
  | 56 => .ok (.pset (fld w 16) (fld w 8))
  | 57 => .ok (.pand (fld w 16) (fld w 12) (fld w 8))
  | 58 => .ok (.por (fld w 16) (fld w 12) (fld w 8))
  | 59 => .ok (.pnot (fld w 16) (fld w 12))
  | _ => .error .function

/-- The group of major 0x25. -/
def decodeShift (w : Nat) : Except DecodeErr Instr :=
  match w / 256 % 16 with
  | 0 => .ok (.shli (fld w 16) (fld w 12) (BitVec.ofNat 6 (w % 64)))
  | 1 => .ok (.shri (fld w 16) (fld w 12) (BitVec.ofNat 6 (w % 64)))
  | 2 => .ok (.sari (fld w 16) (fld w 12) (BitVec.ofNat 6 (w % 64)))
  | 3 => .ok (.roti (fld w 16) (fld w 12) (BitVec.ofNat 6 (w % 64)))
  | _ => .error .function

/-- The group of major 0x2B. -/
def decodeFour (w : Nat) : Except DecodeErr Instr :=
  match w % 16 with
  | 0 => .ok (.sel (fld w 16) (fld w 12) (fld w 8) (fld w 4))
  | 1 => .ok (.vsel (fld w 16) (fld w 12) (fld w 8) (fld w 4))
  | 2 => .ok (.vfma (fld w 16) (fld w 12) (fld w 8) (fld w 4) (FltT.ofCode (w % 2)))
  | 3 => .ok (.vfma (fld w 16) (fld w 12) (fld w 8) (fld w 4) (FltT.ofCode (w % 2)))
  | 4 => .ok (.vfms (fld w 16) (fld w 12) (fld w 8) (fld w 4) (FltT.ofCode (w % 2)))
  | 5 => .ok (.vfms (fld w 16) (fld w 12) (fld w 8) (fld w 4) (FltT.ofCode (w % 2)))
  | 6 => .ok (.vdotG8 (fld w 16) (fld w 12) (fld w 8) (fld w 4))
  | 7 => .ok (.vdotBf16 (fld w 16) (fld w 12) (fld w 8))
  | 8 => .ok (.vdotI8 (fld w 16) (fld w 12) (fld w 8))
  | _ => .error .function

/-- The group of major 0x32. -/
def decodeVecA (w : Nat) : Except DecodeErr Instr :=
  match w / 16 % 16 with
  | 0 => withLane (w % 16) (.vadd (fld w 16) (fld w 12) (fld w 8))
  | 1 => withLane (w % 16) (.vsub (fld w 16) (fld w 12) (fld w 8))
  | 2 => withLane (w % 16) (.vmul (fld w 16) (fld w 12) (fld w 8))
  | 3 => withLane (w % 16) (.vneg (fld w 16) (fld w 12))
  | 4 => withLane (w % 16) (.vabs (fld w 16) (fld w 12))
  | 5 => withLane (w % 16) (.vmin (fld w 16) (fld w 12) (fld w 8))
  | 6 => withLane (w % 16) (.vmax (fld w 16) (fld w 12) (fld w 8))
  | 7 => withLane (w % 16) (.vand (fld w 16) (fld w 12) (fld w 8))
  | 8 => withLane (w % 16) (.vor (fld w 16) (fld w 12) (fld w 8))
  | 9 => withLane (w % 16) (.vxor (fld w 16) (fld w 12) (fld w 8))
  | 10 => withLane (w % 16) (.vandn (fld w 16) (fld w 12) (fld w 8))
  | 11 => withLane (w % 16) (.vshl (fld w 16) (fld w 12) (fld w 8))
  | 12 => withLane (w % 16) (.vshr (fld w 16) (fld w 12) (fld w 8))
  | 13 => withLane (w % 16) (.vsar (fld w 16) (fld w 12) (fld w 8))
  | 14 => withLane (w % 16) (.vcmpEq (fld w 16) (fld w 12) (fld w 8))
  | 15 => withLane (w % 16) (.vcmpLt (fld w 16) (fld w 12) (fld w 8))
  | _ => .error .function

/-- The group of major 0x33. -/
def decodeVecB (w : Nat) : Except DecodeErr Instr :=
  match w / 16 % 16 with
  | 0 => withLane (w % 16) (.vcmpLe (fld w 16) (fld w 12) (fld w 8))
  | 1 => withLane (w % 16) (.vsum (fld w 16) (fld w 12))
  | 2 => withLane (w % 16) (.vbcast (fld w 16) (fld w 12))
  | 3 => withLane (w % 16) (.vext (fld w 16) (fld w 12) (fld w 8))
  | 4 => withLane (w % 16) (.vins (fld w 16) (fld w 12) (fld w 8))
  | 5 => withLane (w % 16) (.vperm (fld w 16) (fld w 12) (fld w 8))
  | 6 => withLane (w % 16) (.vround (fld w 16) (fld w 12))
  | 7 => withLane (w % 16) (.vscale (fld w 16) (fld w 12) (fld w 8))
  | 8 => withLane (w % 16) (.vexpo (fld w 16) (fld w 12))
  | 9 => if w % 16 = 9 then .ok (.vrcpa (fld w 16) (fld w 12)) else .error .function
  | 10 => if w % 16 = 9 then .ok (.vrsqrta (fld w 16) (fld w 12)) else .error .function
  | 11 => withLane (w % 16) (.vsat (fld w 16) (fld w 12))
  | 12 => withLane (w % 16) (.vpack (fld w 16) (fld w 12) (fld w 8))
  | 13 => withLane (w % 16) (.vunpack (fld w 16) (fld w 12) (fld w 8))
  | _ => .error .function

/-- The instruction of a word, from its bits 29-24 and 19-0 (R83). -/
def decodeBody (w : Nat) : Except DecodeErr Instr :=
  match w / 16777216 % 64 with
  | 1 => .ok (.br (BitVec.ofNat 20 (w % 1048576)))
  | 2 => .ok (.call (BitVec.ofNat 20 (w % 1048576)))
  | 3 => .ok (.dbnz (fld w 16) (BitVec.ofNat 16 (w % 65536)))
  | 4 => decodeControl w
  | 5 => if regAssigned (w % 4096) then .ok (.rsr (fld w 16) (BitVec.ofNat 12 (w % 4096))) else .error .function
  | 6 => if regAssigned (w % 4096) then .ok (.wsr (fld w 12) (BitVec.ofNat 12 (w % 4096))) else .error .function
  | 7 => .ok (.sloop (fld w 16) (BitVec.ofNat 16 (w % 65536)))
  | 8 => .ok (.ldB (fld w 16) (fld w 12) (BitVec.ofNat 12 (w % 4096)))
  | 9 => .ok (.ldH (fld w 16) (fld w 12) (BitVec.ofNat 12 (w % 4096)))
  | 10 => .ok (.ldW (fld w 16) (fld w 12) (BitVec.ofNat 12 (w % 4096)))
  | 11 => .ok (.ldD (fld w 16) (fld w 12) (BitVec.ofNat 12 (w % 4096)))
  | 12 => .ok (.ldnB (fld w 16) (fld w 12) (BitVec.ofNat 12 (w % 4096)))
  | 13 => .ok (.ldnH (fld w 16) (fld w 12) (BitVec.ofNat 12 (w % 4096)))
  | 14 => .ok (.ldnW (fld w 16) (fld w 12) (BitVec.ofNat 12 (w % 4096)))
  | 15 => .ok (.vld (fld w 16) (fld w 12) (BitVec.ofNat 12 (w % 4096)))
  | 16 => .ok (.stB (fld w 16) (fld w 12) (BitVec.ofNat 12 (w % 4096)))
  | 17 => .ok (.stH (fld w 16) (fld w 12) (BitVec.ofNat 12 (w % 4096)))
  | 18 => .ok (.stW (fld w 16) (fld w 12) (BitVec.ofNat 12 (w % 4096)))
  | 19 => .ok (.stD (fld w 16) (fld w 12) (BitVec.ofNat 12 (w % 4096)))
  | 20 => .ok (.vst (fld w 16) (fld w 12) (BitVec.ofNat 12 (w % 4096)))
  | 21 => decodeMemExtra w
  | 22 => decodeSync w
  | 23 => decodeThread w
  | 24 => decodeSfu w
  | 25 => decodeMatrix w
  | 26 => decodeCopy w
  | 27 => decodeFlash w
  | 28 => decodeMonitor w
  | 29 => .ok (.ldt (fld w 16) (fld w 12) (BitVec.ofNat 12 (w % 4096)))
  | 30 => .ok (.vldt (fld w 16) (fld w 12) (BitVec.ofNat 12 (w % 4096)))
  | 31 => .ok (.hint (BitVec.ofNat 20 (w % 1048576)))
  | 32 => decodeAlu w
  | 33 => .ok (.addi (fld w 16) (fld w 12) (BitVec.ofNat 12 (w % 4096)))
  | 34 => .ok (.andi (fld w 16) (fld w 12) (BitVec.ofNat 12 (w % 4096)))
  | 35 => .ok (.ori (fld w 16) (fld w 12) (BitVec.ofNat 12 (w % 4096)))
  | 36 => .ok (.xori (fld w 16) (fld w 12) (BitVec.ofNat 12 (w % 4096)))
  | 37 => decodeShift w
  | 38 => .ok (.bfx (fld w 16) (fld w 12) (BitVec.ofNat 6 (w / 64 % 64)) (BitVec.ofNat 6 (w % 64)))
  | 39 => .ok (.bfxn (fld w 16) (fld w 12) (BitVec.ofNat 6 (w / 64 % 64)) (BitVec.ofNat 6 (w % 64)))
  | 40 => .ok (.bfi (fld w 16) (fld w 12) (BitVec.ofNat 6 (w / 64 % 64)) (BitVec.ofNat 6 (w % 64)))
  | 41 => .ok (.li (fld w 16) (BitVec.ofNat 16 (w % 65536)))
  | 42 => .ok (.lis (fld w 16) (BitVec.ofNat 16 (w % 65536)))
  | 43 => decodeFour w
  | 44 => .ok (.cmpiEq (fld w 16) (fld w 12) (BitVec.ofNat 12 (w % 4096)))
  | 45 => .ok (.cmpiNe (fld w 16) (fld w 12) (BitVec.ofNat 12 (w % 4096)))
  | 46 => .ok (.cmpiLt (fld w 16) (fld w 12) (BitVec.ofNat 12 (w % 4096)))
  | 47 => .ok (.cmpiLe (fld w 16) (fld w 12) (BitVec.ofNat 12 (w % 4096)))
  | 48 => .ok (.cmpiLtn (fld w 16) (fld w 12) (BitVec.ofNat 12 (w % 4096)))
  | 49 => .ok (.cmpiLen (fld w 16) (fld w 12) (BitVec.ofNat 12 (w % 4096)))
  | 50 => decodeVecA w
  | 51 => decodeVecB w
  | 52 => withLane (w / 256 % 16) (fun t => .vshli (fld w 16) (fld w 12) t (BitVec.ofNat 6 (w % 64)))
  | 53 => match LaneT.ofCode (w / 16 % 16) with
    | some s => withLane (w % 16) (.vcvt (fld w 16) (fld w 12) (fld w 8) s)
    | none => .error .function
  | 63 => .ok (.nop (BitVec.ofNat 20 (w % 1048576)))
  | _ => .error .major

/-- A 32-bit word (R69). -/
def decodeWord (w : BitVec 32) : Except DecodeErr Decoded :=
  match decodeBody w.toNat with
  | .ok i => .ok { p := w.toNat / 2147483648 % 2 == 1, w := w.toNat / 1073741824 % 2 == 1, g := BitVec.ofNat 4 (w.toNat / 1048576), i := i }
  | .error e => .error e

/-- The little-endian word of four bytes (R1). -/
def wordOf (b0 b1 b2 b3 : Byte) : BitVec 32 :=
  BitVec.ofNat 32 (b0.toNat + 256 * b1.toNat + 65536 * b2.toNat + 16777216 * b3.toNat)

/-- Total on any bytes: the instruction of the first four and the rest. -/
def decode : List Byte → Except DecodeErr (Decoded × List Byte)
  | b0 :: b1 :: b2 :: b3 :: rest =>
    match decodeWord (wordOf b0 b1 b2 b3) with
    | .ok x => .ok (x, rest)
    | .error e => .error e
  | _ => .error .short

/-- The bytes of a word as memory holds them (R1). -/
def wordBytes (w : Nat) : List Byte :=
  [BitVec.ofNat 8 w, BitVec.ofNat 8 (w / 256), BitVec.ofNat 8 (w / 65536), BitVec.ofNat 8 (w / 16777216)]

/-- The instruction that the decoder reads from a row's bits; every instruction is one 32-bit word. -/
def decodeTableWord (_nbits w : Nat) : Option Instr :=
  match decode (wordBytes w) with
  | .ok (x, _) => some x.i
  | .error _ => none

/-- The body bits 29-24 and 19-0 of an instruction, from the same tables; an event row has no word. Ignored fields are 0 (R77). -/
def encodeBody : Instr → Option Nat
  | .br o => some (16777216 + o.toNat)
  | .call o => some (33554432 + o.toNat)
  | .dbnz d o => some (50331648 + d.val * 65536 + o.toNat)
  | .jmp a => some (67108864 + a.val * 4096)
  | .ret a => some (67108865 + a.val * 4096)
  | .send => some (67108866)
  | .exit => some (67108867)
  | .yield => some (67108868)
  | .trap n => some (67108869 + n.toNat * 256)
  | .brk => some (67108870)
  | .rte => some (67108871)
  | .rsr d n => some (83886080 + d.val * 65536 + n.toNat)
  | .wsr a n => some (100663296 + a.val * 4096 + n.toNat)
  | .sloop d o => some (117440512 + d.val * 65536 + o.toNat)
  | .ldB d a i => some (134217728 + d.val * 65536 + a.val * 4096 + i.toNat)
  | .ldH d a i => some (150994944 + d.val * 65536 + a.val * 4096 + i.toNat)
  | .ldW d a i => some (167772160 + d.val * 65536 + a.val * 4096 + i.toNat)
  | .ldD d a i => some (184549376 + d.val * 65536 + a.val * 4096 + i.toNat)
  | .ldnB d a i => some (201326592 + d.val * 65536 + a.val * 4096 + i.toNat)
  | .ldnH d a i => some (218103808 + d.val * 65536 + a.val * 4096 + i.toNat)
  | .ldnW d a i => some (234881024 + d.val * 65536 + a.val * 4096 + i.toNat)
  | .vld d a i => some (251658240 + d.val * 65536 + a.val * 4096 + i.toNat)
  | .stB d a i => some (268435456 + d.val * 65536 + a.val * 4096 + i.toNat)
  | .stH d a i => some (285212672 + d.val * 65536 + a.val * 4096 + i.toNat)
  | .stW d a i => some (301989888 + d.val * 65536 + a.val * 4096 + i.toNat)
  | .stD d a i => some (318767104 + d.val * 65536 + a.val * 4096 + i.toNat)
  | .vst d a i => some (335544320 + d.val * 65536 + a.val * 4096 + i.toNat)
  | .vldBc d a t => some (352321536 + d.val * 65536 + a.val * 4096 + t.code)
  | .vldk d a b => some (352321540 + d.val * 65536 + a.val * 4096 + b.val * 256)
  | .pref a => some (352321544 + a.val * 4096)
  | .prefR a => some (352321545 + a.val * 4096)
  | .fenceK => some (352321552)
  | .fenceS => some (352321553)
  | .fenceO => some (352321554)
  | .fenceY => some (352321555)
  | .ldfe d a => some (369098752 + d.val * 65536 + a.val * 4096)
  | .ldff d a => some (369098753 + d.val * 65536 + a.val * 4096)
  | .stfe a b => some (369098754 + a.val * 4096 + b.val * 256)
  | .stf a b => some (369098755 + a.val * 4096 + b.val * 256)
  | .feClr a => some (369098756 + a.val * 4096)
  | .lrw d a => some (369098760 + d.val * 65536 + a.val * 4096)
  | .scq a b => some (369098761 + a.val * 4096 + b.val * 256)
  | .rsvRel a => some (369098762 + a.val * 4096)
  | .amoD d a b o => some (369098768 + d.val * 65536 + a.val * 4096 + b.val * 256 + o.code)
  | .amoW d a b o => some (369098784 + d.val * 65536 + a.val * 4096 + b.val * 256 + o.code)
  | .redD a b o => some (369098800 + a.val * 4096 + b.val * 256 + o.code)
  | .redW a b o => some (369098808 + a.val * 4096 + b.val * 256 + o.code)
  | .redFaddF32 a b => some (369098814 + a.val * 4096 + b.val * 256)
  | .areg n => some (369098816 + n.val * 256)
  | .barInit a b => some (369098824 + a.val * 4096 + b.val * 256)
  | .barArrive a => some (369098825 + a.val * 4096)
  | .barWait a => some (369098826 + a.val * 4096)
  | .barSync a => some (369098827 + a.val * 4096)
  | .qpush a b => some (369098832 + a.val * 4096 + b.val * 256)
  | .qpop d a => some (369098833 + d.val * 65536 + a.val * 4096)
  | .qpeek d a => some (369098834 + d.val * 65536 + a.val * 4096)
  | .qredI32 d a b => some (369098835 + d.val * 65536 + a.val * 4096 + b.val * 256)
  | .qredI64 d a b => some (369098836 + d.val * 65536 + a.val * 4096 + b.val * 256)
  | .qredF32 d a b => some (369098837 + d.val * 65536 + a.val * 4096 + b.val * 256)
  | .msg a b => some (369098840 + a.val * 4096 + b.val * 256)
  | .mrecv d => some (369098841 + d.val * 65536)
  | .go a => some (385875968 + a.val * 4096)
  | .spawn d a => some (385875969 + d.val * 65536 + a.val * 4096)
  | .step => some (385875970)
  | .fexp2 d a u => some (402653184 + d.val * 65536 + a.val * 4096 + u.toNat)
  | .flog2 d a u => some (402653440 + d.val * 65536 + a.val * 4096 + u.toNat)
  | .frcp d a u => some (402653696 + d.val * 65536 + a.val * 4096 + u.toNat)
  | .frsqrt d a u => some (402653952 + d.val * 65536 + a.val * 4096 + u.toNat)
  | .fsqrt d a u => some (402654208 + d.val * 65536 + a.val * 4096 + u.toNat)
  | .fsinp d a u => some (402654464 + d.val * 65536 + a.val * 4096 + u.toNat)
  | .fcosp d a u => some (402654720 + d.val * 65536 + a.val * 4096 + u.toNat)
  | .ftanh d a u => some (402654976 + d.val * 65536 + a.val * 4096 + u.toNat)
  | .fsigm d a u => some (402655232 + d.val * 65536 + a.val * 4096 + u.toNat)
  | .mgrp d a => some (419430400 + d.val * 65536 + a.val * 4096)
  | .mclr d a b => some (419430401 + d.val * 65536 + a.val * 4096 + b.val * 256)
  | .mmaG8 d a b => some (419430402 + d.val * 65536 + a.val * 4096 + b.val * 256)
  | .mmaI8 d a b => some (419430403 + d.val * 65536 + a.val * 4096 + b.val * 256)
  | .mmaBf16 d a b => some (419430404 + d.val * 65536 + a.val * 4096 + b.val * 256)
  | .mmaG8bf d a b => some (419430405 + d.val * 65536 + a.val * 4096 + b.val * 256)
  | .mrd d a b => some (419430406 + d.val * 65536 + a.val * 4096 + b.val * 256)
  | .mrdq d a b => some (419430407 + d.val * 65536 + a.val * 4096 + b.val * 256)
  | .mstat d b => some (419430408 + d.val * 65536 + b.val * 256)
  | .mfence b => some (419430409 + b.val * 256)
  | .cp1d a => some (436207616 + a.val * 4096)
  | .cp2d a => some (436207617 + a.val * 4096)
  | .cp3d a => some (436207618 + a.val * 4096)
  | .cpGather a => some (436207619 + a.val * 4096)
  | .cpScatter a => some (436207620 + a.val * 4096)
  | .cpFill a => some (436207621 + a.val * 4096)
  | .chset a b => some (436207624 + a.val * 4096 + b.val * 256)
  | .chq d b => some (436207625 + d.val * 65536 + b.val * 256)
  | .publish a => some (436207632 + a.val * 4096)
  | .winst d a => some (452984832 + d.val * 65536 + a.val * 4096)
  | .wstat d a => some (452984833 + d.val * 65536 + a.val * 4096)
  | .tlbinv a => some (469762048 + a.val * 4096)
  | .keyld a b => some (469762049 + a.val * 4096 + b.val * 256)
  | .keyzap a => some (469762050 + a.val * 4096)
  | .scrub a => some (469762051 + a.val * 4096)
  | .evpost a => some (469762052 + a.val * 4096)
  | .rotctlSuspend a => some (469762053 + a.val * 4096)
  | .rotctlResume a => some (469762053 + a.val * 4096)
  | .rotctlExtraRotation a => some (469762053 + a.val * 4096)
  | .rotctlExtraSwitch a => some (469762053 + a.val * 4096)
  | .slotctlPlace a b => some (469762054 + a.val * 4096 + b.val * 256)
  | .slotctlRemove a b => some (469762054 + a.val * 4096 + b.val * 256)
  | .slotctlSpill a b => some (469762054 + a.val * 4096 + b.val * 256)
  | .waypart a b => some (469762055 + a.val * 4096 + b.val * 256)
  | .frzFreezeOwner a => some (469762056 + a.val * 4096)
  | .frzReleaseOwner a => some (469762056 + a.val * 4096)
  | .frzFreezeFunction a => some (469762056 + a.val * 4096)
  | .frzReleaseFunction a => some (469762056 + a.val * 4096)
  | .frzEndTask a => some (469762056 + a.val * 4096)
  | .ldt d a u => some (486539264 + d.val * 65536 + a.val * 4096 + u.toNat)
  | .vldt d a u => some (503316480 + d.val * 65536 + a.val * 4096 + u.toNat)
  | .hint n => some (520093696 + n.toNat)
  | .nop n => some (1056964608 + n.toNat)
  | .add d a b => some (536870912 + d.val * 65536 + a.val * 4096 + b.val * 256)
  | .sub d a b => some (536870913 + d.val * 65536 + a.val * 4096 + b.val * 256)
  | .mul d a b => some (536870914 + d.val * 65536 + a.val * 4096 + b.val * 256)
  | .mulh d a b => some (536870915 + d.val * 65536 + a.val * 4096 + b.val * 256)
  | .mulhn d a b => some (536870916 + d.val * 65536 + a.val * 4096 + b.val * 256)
  | .div d a b => some (536870917 + d.val * 65536 + a.val * 4096 + b.val * 256)
  | .divn d a b => some (536870918 + d.val * 65536 + a.val * 4096 + b.val * 256)
  | .rem d a b => some (536870919 + d.val * 65536 + a.val * 4096 + b.val * 256)
  | .remn d a b => some (536870920 + d.val * 65536 + a.val * 4096 + b.val * 256)
  | .and d a b => some (536870928 + d.val * 65536 + a.val * 4096 + b.val * 256)
  | .or d a b => some (536870929 + d.val * 65536 + a.val * 4096 + b.val * 256)
  | .xor d a b => some (536870930 + d.val * 65536 + a.val * 4096 + b.val * 256)
  | .andn d a b => some (536870931 + d.val * 65536 + a.val * 4096 + b.val * 256)
  | .orn d a b => some (536870932 + d.val * 65536 + a.val * 4096 + b.val * 256)
  | .shl d a b => some (536870936 + d.val * 65536 + a.val * 4096 + b.val * 256)
  | .shr d a b => some (536870937 + d.val * 65536 + a.val * 4096 + b.val * 256)
  | .sar d a b => some (536870938 + d.val * 65536 + a.val * 4096 + b.val * 256)
  | .rotl d a b => some (536870939 + d.val * 65536 + a.val * 4096 + b.val * 256)
  | .min d a b => some (536870944 + d.val * 65536 + a.val * 4096 + b.val * 256)
  | .max d a b => some (536870945 + d.val * 65536 + a.val * 4096 + b.val * 256)
  | .minn d a b => some (536870946 + d.val * 65536 + a.val * 4096 + b.val * 256)
  | .maxn d a b => some (536870947 + d.val * 65536 + a.val * 4096 + b.val * 256)
  | .clz d a => some (536870952 + d.val * 65536 + a.val * 4096)
  | .ctz d a => some (536870953 + d.val * 65536 + a.val * 4096)
  | .popc d a => some (536870954 + d.val * 65536 + a.val * 4096)
  | .mov d a => some (536870955 + d.val * 65536 + a.val * 4096)
  | .cmpEq d a b => some (536870960 + d.val * 65536 + a.val * 4096 + b.val * 256)
  | .cmpNe d a b => some (536870961 + d.val * 65536 + a.val * 4096 + b.val * 256)
  | .cmpLt d a b => some (536870962 + d.val * 65536 + a.val * 4096 + b.val * 256)
  | .cmpLe d a b => some (536870963 + d.val * 65536 + a.val * 4096 + b.val * 256)
  | .cmpLtn d a b => some (536870964 + d.val * 65536 + a.val * 4096 + b.val * 256)
  | .cmpLen d a b => some (536870965 + d.val * 65536 + a.val * 4096 + b.val * 256)
  | .pset d b => some (536870968 + d.val * 65536 + b.val * 256)
  | .pand d a b => some (536870969 + d.val * 65536 + a.val * 4096 + b.val * 256)
  | .por d a b => some (536870970 + d.val * 65536 + a.val * 4096 + b.val * 256)
  | .pnot d a => some (536870971 + d.val * 65536 + a.val * 4096)
  | .addi d a i => some (553648128 + d.val * 65536 + a.val * 4096 + i.toNat)
  | .andi d a i => some (570425344 + d.val * 65536 + a.val * 4096 + i.toNat)
  | .ori d a i => some (587202560 + d.val * 65536 + a.val * 4096 + i.toNat)
  | .xori d a i => some (603979776 + d.val * 65536 + a.val * 4096 + i.toNat)
  | .shli d a k => some (620756992 + d.val * 65536 + a.val * 4096 + k.toNat)
  | .shri d a k => some (620757248 + d.val * 65536 + a.val * 4096 + k.toNat)
  | .sari d a k => some (620757504 + d.val * 65536 + a.val * 4096 + k.toNat)
  | .roti d a k => some (620757760 + d.val * 65536 + a.val * 4096 + k.toNat)
  | .bfx d a q e => some (637534208 + d.val * 65536 + a.val * 4096 + q.toNat * 64 + e.toNat)
  | .bfxn d a q e => some (654311424 + d.val * 65536 + a.val * 4096 + q.toNat * 64 + e.toNat)
  | .bfi d a q e => some (671088640 + d.val * 65536 + a.val * 4096 + q.toNat * 64 + e.toNat)
  | .li d i => some (687865856 + d.val * 65536 + i.toNat)
  | .lis d i => some (704643072 + d.val * 65536 + i.toNat)
  | .sel d a b c => some (721420288 + d.val * 65536 + a.val * 4096 + b.val * 256 + c.val * 16)
  | .vsel d a b c => some (721420289 + d.val * 65536 + a.val * 4096 + b.val * 256 + c.val * 16)
  | .vfma d a b c t => some (721420290 + d.val * 65536 + a.val * 4096 + b.val * 256 + c.val * 16 + t.code)
  | .vfms d a b c t => some (721420292 + d.val * 65536 + a.val * 4096 + b.val * 256 + c.val * 16 + t.code)
  | .vdotG8 d a b c => some (721420294 + d.val * 65536 + a.val * 4096 + b.val * 256 + c.val * 16)
  | .vdotBf16 d a b => some (721420295 + d.val * 65536 + a.val * 4096 + b.val * 256)
  | .vdotI8 d a b => some (721420296 + d.val * 65536 + a.val * 4096 + b.val * 256)
  | .cmpiEq d a i => some (738197504 + d.val * 65536 + a.val * 4096 + i.toNat)
  | .cmpiNe d a i => some (754974720 + d.val * 65536 + a.val * 4096 + i.toNat)
  | .cmpiLt d a i => some (771751936 + d.val * 65536 + a.val * 4096 + i.toNat)
  | .cmpiLe d a i => some (788529152 + d.val * 65536 + a.val * 4096 + i.toNat)
  | .cmpiLtn d a i => some (805306368 + d.val * 65536 + a.val * 4096 + i.toNat)
  | .cmpiLen d a i => some (822083584 + d.val * 65536 + a.val * 4096 + i.toNat)
  | .vadd d a b t => some (838860800 + d.val * 65536 + a.val * 4096 + b.val * 256 + t.code)
  | .vsub d a b t => some (838860816 + d.val * 65536 + a.val * 4096 + b.val * 256 + t.code)
  | .vmul d a b t => some (838860832 + d.val * 65536 + a.val * 4096 + b.val * 256 + t.code)
  | .vneg d a t => some (838860848 + d.val * 65536 + a.val * 4096 + t.code)
  | .vabs d a t => some (838860864 + d.val * 65536 + a.val * 4096 + t.code)
  | .vmin d a b t => some (838860880 + d.val * 65536 + a.val * 4096 + b.val * 256 + t.code)
  | .vmax d a b t => some (838860896 + d.val * 65536 + a.val * 4096 + b.val * 256 + t.code)
  | .vand d a b t => some (838860912 + d.val * 65536 + a.val * 4096 + b.val * 256 + t.code)
  | .vor d a b t => some (838860928 + d.val * 65536 + a.val * 4096 + b.val * 256 + t.code)
  | .vxor d a b t => some (838860944 + d.val * 65536 + a.val * 4096 + b.val * 256 + t.code)
  | .vandn d a b t => some (838860960 + d.val * 65536 + a.val * 4096 + b.val * 256 + t.code)
  | .vshl d a b t => some (838860976 + d.val * 65536 + a.val * 4096 + b.val * 256 + t.code)
  | .vshr d a b t => some (838860992 + d.val * 65536 + a.val * 4096 + b.val * 256 + t.code)
  | .vsar d a b t => some (838861008 + d.val * 65536 + a.val * 4096 + b.val * 256 + t.code)
  | .vcmpEq d a b t => some (838861024 + d.val * 65536 + a.val * 4096 + b.val * 256 + t.code)
  | .vcmpLt d a b t => some (838861040 + d.val * 65536 + a.val * 4096 + b.val * 256 + t.code)
  | .vcmpLe d a b t => some (855638016 + d.val * 65536 + a.val * 4096 + b.val * 256 + t.code)
  | .vsum d a t => some (855638032 + d.val * 65536 + a.val * 4096 + t.code)
  | .vbcast d a t => some (855638048 + d.val * 65536 + a.val * 4096 + t.code)
  | .vext d a b t => some (855638064 + d.val * 65536 + a.val * 4096 + b.val * 256 + t.code)
  | .vins d a b t => some (855638080 + d.val * 65536 + a.val * 4096 + b.val * 256 + t.code)
  | .vperm d a b t => some (855638096 + d.val * 65536 + a.val * 4096 + b.val * 256 + t.code)
  | .vround d a t => some (855638112 + d.val * 65536 + a.val * 4096 + t.code)
  | .vscale d a b t => some (855638128 + d.val * 65536 + a.val * 4096 + b.val * 256 + t.code)
  | .vexpo d a t => some (855638144 + d.val * 65536 + a.val * 4096 + t.code)
  | .vrcpa d a => some (855638169 + d.val * 65536 + a.val * 4096)
  | .vrsqrta d a => some (855638185 + d.val * 65536 + a.val * 4096)
  | .vsat d a t => some (855638192 + d.val * 65536 + a.val * 4096 + t.code)
  | .vpack d a b t => some (855638208 + d.val * 65536 + a.val * 4096 + b.val * 256 + t.code)
  | .vunpack d a b t => some (855638224 + d.val * 65536 + a.val * 4096 + b.val * 256 + t.code)
  | .vshli d a t k => some (872415232 + d.val * 65536 + a.val * 4096 + t.code * 256 + k.toNat)
  | .vcvt d a b s t => some (889192448 + d.val * 65536 + a.val * 4096 + b.val * 256 + s.code * 16 + t.code)
  | _ => none

/-- The word of a decoded instruction (R69). -/
def encode (x : Decoded) : Option (BitVec 32) :=
  match encodeBody x.i with
  | some n => some (BitVec.ofNat 32 (n + x.g.toNat * 1048576 + (if x.w then 1073741824 else 0) + (if x.p then 2147483648 else 0)))
  | none => none

end Sys2Proof
end

