-- ==== Sys2Proof/Machine/State.lean ====
section
/-! DEFINITION. State: everything the specification gives the machine, as plain data (INVENTORY.md lists each piece with its rule),
State.reset, and the closed reasons for which a step can stop. -/

namespace Sys2Proof.Machine

/-- Why a step stops with a fault. -/
inductive Fault
  /-- Raised by step alone, when the device has no power and no input waits: nothing can happen (R423). Safe. -/
  | unpowered
deriving DecidableEq, Repr

/-- Why a step has no meaning. -/
inductive Refusal
  /-- Raised by an arm of exec for a row without a meaning. Safe. -/
  | notModelled (mnemonic : String)
deriving DecidableEq, Repr

/-! ### Places and locations -/

/-- A logical core of a logical slot of an owner (R6, R27, R28). -/
structure Place where
  o : Nat
  l : Nat
  c : Nat
deriving DecidableEq, Repr

/-- Kinds of translated pages (R157), and remote lines of a peer (R374). -/
inductive Kind | cacheable | weight | sync
deriving DecidableEq, Repr

/-- Where the bytes of an access are held: a core scratchpad, a slice scratchpad, owner DRAM, weight flash, or a peer (R154, R333, R374). -/
inductive Loc
  | scr (p : Place) (off : Nat)
  | slice (n off : Nat)
  | dram (o p : Nat) (k : Kind)
  | flash (o f : Nat)
  | peer (o entry ia : Nat)
deriving DecidableEq, Repr

/-- A destination register (R64). -/
inductive Dest
  | s (k : Fin 16)
  | v (k : Fin 16)
deriving DecidableEq, Repr

/-! ### Threads -/

/-- A fault with its report (R345, R347): the operation that failed orders held faults. -/
structure FaultRec where
  op : Nat
  code : Nat
  sub : Nat
  fpc : Addr
  faddr : Addr
deriving DecidableEq, Repr

/-- An operation of a thread that has issued and whose result has not landed, or that has not been performed (R64 to R66, R172), with where its reply comes
from and whether a pause has captured that reply (R320, R324). -/
structure Op where
  id : Nat
  fpc : Addr
  dest : Option Dest := none
  disc : Bool := false
  counts : Bool := false
  red : Bool := false
  acc : Bool := true
  acq : Bool := false
  rel : Bool := false
  cmd : Bool := false
  grp : Nat := 0
  rsv : Bool := false
  ea : Addr := 0
  n : Nat := 0
  res : Option VWord := none
  flags : BitVec 5 := 0
  fault : Option FaultRec := none
  due : Option Nat := none
  sidx : Nat := 0
  src : Option Loc := none
  cap : Bool := false
deriving DecidableEq, Repr

/-- Reservation state of a thread (R185). -/
inductive Resv
  | none
  | requested (ea : Addr)
  | held (ea : Addr)
deriving DecidableEq, Repr

/-- How loaded bytes become a register (R168). -/
inductive LdFmt
  | sx
  | zx
  | vec
  | bc (w : Nat)
deriving DecidableEq, Repr

/-- One word of an atomic region, as issued and as translated then (R188). -/
structure RWord where
  ea : Addr
  n : Nat
  fpc : Addr
  store : Option (List Byte)
  load : Option (Dest × Nat)
  fmt : LdFmt := .vec
  loc : Loc := .dram 0 0 .cacheable
deriving DecidableEq, Repr

/-- An atomic region being issued: the areg bundle, the words still to come, the words issued (R188); grp names the region and its loads, discs the earlier
operations that its loads discard (R65), and late those of them that have landed since, whose registers are written after all when the region breaks (R189). -/
structure Region where
  b : Addr
  left : Nat
  wait : Bool
  words : List RWord
  grp : Nat := 0
  discs : List Nat := []
  late : List Op := []
deriving DecidableEq, Repr

/-- Why a thread does not issue. Each wakes under R59 when its condition holds. -/
inductive Park
  | none
  | pend
  | limit
  | sfu
  | fence (scope : Nat)
  | exit
  | migrate (dst : Place)
  | step
  | walk (id : Nat) (ea : Addr) (fetch : Bool)
  | chan (off n : Nat)
  | acq
  | amo (id : Nat)
  | bar (id : Nat)
  | push (id : Nat)
  | queue (q stamp : Nat)
  | redLimit
  | mailbox
  | publish (k : Nat)
  | tlbinv (kind own page : Nat) (adv : Bool) (stamp : Nat)
  | keyld (k : Nat) (a : Addr)
  | scrub (o : Nat)
  | frz (o : Nat)
  | waypart (n : Nat)
  | mfence (id : Nat)
  | enable
  | dead (r : FaultRec)
deriving DecidableEq, Repr

/-- What dispatch gives a thread to carry: its launch, node, task index, priority (R201, R288, R289). -/
structure Task where
  launch : Nat := 0
  node : Nat := 0
  prio : Nat := 0
deriving DecidableEq, Repr

/-- The values a core holds on its stream links (R209). -/
structure Links where
  e : Word := 0
  u : Word := 0
  ev : VWord := 0
  uv : VWord := 0
deriving DecidableEq, Repr

/-- A thread context (R60, R61) with what the device keeps beside it: place, row, binding, parking, operations in flight; saw names the stores of other
threads of its core that it has read before they were performed at their homes, each with the load that read it (R260, R264); pass is 1 while a pair with an exit, a fence or a step waits
with neither half performed, and 2 once that wait is over (R110, R345);
invs names the pages, with their sizes, whose entries its tlbinv has removed (R344); met names the owners whose full save areas it has met while it waits for a
row (R312); owed says that its core failed before its turn in the present stream beat, whose bundle it has yet to perform (R400). -/
structure Thread where
  uid : Nat := 0
  pl : Place := ⟨0, 0, 0⟩
  row : Nat := 0
  evicted : Option Nat := none
  task : Task := {}
  strm : Option Nat := none
  slot : Option Nat := none
  turns : Nat := 0
  since : Nat := 0
  readyAt : Nat := 0
  lastB : Nat := 0
  park : Park := .none
  woken : Bool := false
  wmark : Bool := false
  pass : Nat := 0
  s : Vector Word 16 := Vector.replicate 16 0
  v : Vector VWord 16 := Vector.replicate 16 0
  pw : BitVec 8 := 0x80
  pc : Addr := 0
  tid : BitVec 32 := 0
  taskb : Word := 0
  frzc : Word := 0
  step : Word := 0
  redpend : BitVec 6 := 0
  qpos : BitVec 16 := 0
  tslot : BitVec 8 := 0
  tcore : BitVec 7 := 0
  run : BitVec 8 := 0
  thresh : BitVec 8 := 1
  fcsr : Word := 0
  trapb : Addr := 0
  fpc : Addr := 0
  fcode : BitVec 16 := 0
  faddr : Addr := 0
  eg : Vector Word 4 := Vector.replicate 4 0
  resv : Resv := .none
  barRec : Option (Nat × Nat) := none
  region : Option Region := none
  ops : List Op := []
  held : List FaultRec := []
  next : Option FaultRec := none
  saw : List (Nat × Nat) := []
  met : List Nat := []
  owed : Bool := false
  invs : List (Nat × Nat) := []
  links : Links := {}
  linksPrev : Links := {}
deriving DecidableEq, Repr

/-- How a bundle stands while its halves are performed. -/
inductive Status
  | running
  | trapped
  | parked
  | rewound
  | ended
deriving DecidableEq, Repr

/-- The bundle being issued: its address, its size, the source registers as read (R68), and how it stands. -/
structure Issue where
  b : Addr := 0
  z : Nat := 4
  pair : Bool := false
  src : Thread := {}
  status : Status := .running
deriving DecidableEq, Repr

/-! ### Requests on their way, waiting, or in flight to a home -/

/-- What a request does where it is performed. -/
inductive ReqKind
  | load (n : Nat) (f : LdFmt) (tag : Option (BitVec 16))
  | store (bytes : List Byte)
  | ldfe | ldff
  | stfe (x : Word) | stf (x : Word) | feClr
  | lrw | scq (x : Word) | rsvRel
  | amo (op : AmoOp) (n : Nat) (x e : Word)
  | red (op : RedOp) (n : Nat) (x : Word)
  | redF (x : BitVec 32)
  | region (ws : List RWord)
  | barInit (k n : Nat) | barArrive (k : Nat) | barWait (k : Nat) | barSync (k : Nat)
  | push (q : Nat) (v : VWord)
  | msg (entry : Nat) (task : BitVec 32) (v : VWord) (launch : Nat)
  | mrecv (task : BitVec 32)
  | spawn (wq : Nat) (rec : List Word)
  | evpost (d : Word)
  | wstat (id : Nat)
deriving DecidableEq, Repr

/-- A request: the operation it belongs to, its thread, where it was issued, where it goes, once it has arrived and must wait, its arrival stamp, and
whether a pause has captured it in a save buffer (R320, R324), and, for a store, whether it has updated its core's L1, so that the threads of the core
read it already (R161, R260); bank names the bank group in whose list it waits, which it keeps over a rotation (R180, R322). -/
structure Req where
  id : Nat
  uid : Nat
  pl : Place
  fpc : Addr := 0
  ea : Addr := 0
  loc : Loc := .dram 0 0 .cacheable
  kind : ReqKind
  arrived : Option Nat := none
  cap : Bool := false
  seen : Bool := false
  bank : Option Nat := none
deriving DecidableEq, Repr

/-- A special-function request: its operation and thread, its function, its lanes, the beat of issue, and where it stands (R142 to R145). -/
structure SfuReq where
  id : Nat
  uid : Nat
  pl : Place
  f : Nat
  arg : VWord
  strm : Bool
  beat : Nat
  land : Option Nat := none
deriving DecidableEq, Repr

/-- A page walk in progress (R342, R343). -/
structure Walk where
  id : Nat
  o : Nat
  l : Nat
  va : Nat
  gen : Nat
deriving DecidableEq, Repr

/-- A non-leaf table entry in the walk caches of a slot: stage 1 or 2, the lowest address bit that its level indexes, the address bits from there on, and
the entry (R335, R336, R341). -/
structure WEnt where
  o : Nat
  l : Nat
  stage : Nat
  lo : Nat
  tag : Nat
  e : Nat
deriving DecidableEq, Repr

/-- The result of a successful walk, as a TLB holds it: that of core c of the slot, or with none its second-level TLB (R336, R341). size gives the bytes that
the entry serves, and span, where it is larger, the page of the translation, whose entries tlbinv removes together (R336, R344). -/
structure Tlb where
  o : Nat
  l : Nat
  page : Nat
  size : Nat
  space : Nat
  out : Nat
  ia : Nat
  kind : Kind
  w : Bool
  x : Bool
  peer : Option Nat := none
  c : Option Nat := none
  span : Nat := 0
deriving DecidableEq, Repr

/-- An L1 line (R161, R162, R164): the logical core whose L1 holds it, whether that is one of a fused slot, its line key, and the copy's poison mark. -/
structure L1Line where
  pl : Place
  fused : Bool
  o : Nat
  line : Nat
  bad : Bool := false
deriving DecidableEq, Repr

/-- Memory: bytes in canonical form, poison marks per sector, F bits per doubleword, tags per 1 KiB block, and the holders of reserved words
(R164, R166, R179, R184). code keeps the bytes that writes have replaced in cacheable DRAM (owner, DRAM offset, stamp of the write, byte), and swept the
tlbinvs of kind 0 (owner, page, stamp): a fetch sees a byte as it stood at the latest tlbinv that covers its page (R340). -/
structure Mem where
  cells : List Host.Cell := []
  poison : List Nat := []
  fbit : List Nat := []
  tags : List (Nat × BitVec 16) := []
  resv : List (Nat × Nat) := []
  swept : List (Nat × Nat × Nat) := []
  code : List (Nat × Nat × Nat × Byte) := []
deriving DecidableEq, Repr

/-! ### State held by a core: barriers, inbound queues, channels, mailboxes -/

/-- A barrier (R191). -/
structure Bar where
  k : Nat
  n : Nat := 0
  a : Nat := 0
  g : Nat := 0
deriving DecidableEq, Repr

/-- A channel (R252). -/
structure Chan where
  base : Nat := 0
  size : Nat := 0
  marks : List Bool := []
  err : Option (Nat × Nat) := none
deriving DecidableEq, Repr

/-- A write of a copy unit that is not yet performed (R269): its unit, its destination, the location found when it was sent, its bytes, whether a pause has
captured it (R324), and whether its location is found when it is performed, because a page stood out when its command chose the shadow there (R256, R419). -/
structure CWrite where
  n : Nat
  ea : Addr
  loc : Loc
  bytes : List Byte
  cap : Bool := false
  late : Bool := false
deriving DecidableEq, Repr

/-- A copy command in a mailbox and its progress (R244 to R250); wq holds writes of its units that are not yet performed (R269). A command that a stream
has submitted while all four mailboxes were full has mb 4 until one empties (R246). -/
structure Copy where
  mb : Nat
  id : Nat
  uid : Nat
  kind : Nat
  q : List Word
  begun : Bool := false
  unit : Nat := 0
  idx : List Nat := []
  wq : List CWrite := []
  touched : List (Nat × Nat) := []
  marked : List Nat := []
  tagged : List Nat := []
  shadow : List (Nat × Nat) := []
  fail : Option (Nat × Nat) := none
  finished : Bool := false
deriving DecidableEq, Repr

/-- What a logical core holds beside its rows and its scratchpad (R190, R192, R244, R252). -/
structure Core where
  pl : Place
  bars : List Bar := []
  queues : List (Nat × List VWord) := []
  chans : List (Nat × Chan) := []
  mbox : List Copy := []
deriving DecidableEq, Repr

/-! ### Matrix engines -/

/-- An accumulator tile (R48): the elements that are not zero, keyed 128 m + n. -/
structure Acc where
  anchor : Int := 0
  inexact : Bool := false
  range : Bool := false
  count : Nat := 0
  elems : List (Nat × BitVec 128) := []
deriving DecidableEq, Repr

/-- The accumulators of the engine of row position x at a raster index, with their owner tag (R242). -/
structure Engine where
  idx : Nat
  x : Nat
  tag : Option Nat := none
  a0 : Acc := {}
  a1 : Acc := {}
deriving DecidableEq, Repr

/-- An entry of a capability table (R220, R302): the engine of an owner's logical slot, the entry's number, and its value. -/
structure Cap where
  o : Nat
  l : Nat
  x : Nat
  k : Nat
  val : Word
deriving DecidableEq, Repr

/-- An operand row that a command fetches (R233): its operand (0 A, 1 the scales of A, 2 B, 3 the scales of B), its number, its elements as far as they
have been fetched, and the failures met, as code, subcode and failing byte. -/
structure FRow where
  op : Nat
  r : Nat
  got : List (Option Nat) := []
  fails : List (Nat × Nat × Nat) := []
deriving DecidableEq, Repr

/-- A write of a readout that is not yet performed (R269): the part that makes it, its address, its bytes, and whether a pause has captured it (R324). -/
structure PWrite where
  i : Nat
  j : Nat
  a : Nat
  bytes : List Byte
  cap : Bool := false
deriving DecidableEq, Repr

/-- One engine's part of a command (R226): when it arrived, the cycles of compute that are left, the result rows read out, and what it reports; info holds
the bits that the engine adds to the status word. -/
structure Part where
  i : Nat
  j : Nat
  arrived : Option Nat := none
  foreign : Bool := false
  started : Bool := false
  left : Nat := 0
  row : Nat := 0
  done : Bool := false
  stopped : Bool := false
  code : Nat := 0
  sub : Nat := 0
  faddr : Addr := 0
  info : Nat := 0
  cap : Bool := false
deriving DecidableEq, Repr

/-- A matrix command (R225): form 1 mclr, 2 to 5 mma, 6 mrd, 7 mrdq; 8 and 9 stand for mstat and mfence. It keeps what it has fetched, the results of its
tag checks by operand, group of 128 rows and block (R233, R234), and its writes not yet performed. -/
structure Cmd where
  id : Nat
  uid : Nat
  pl : Place
  fpc : Addr
  desc : Addr
  form : Nat
  cap : Word
  q : List Word
  strm : Option Nat := none
  startAt : Option Word := none
  parts : List Part
  rows : List FRow := []
  checks : List ((Nat × Nat × Nat) × Bool) := []
  wq : List PWrite := []
  touched : List (Nat × Nat) := []
  shadow : List (Nat × Nat) := []
  pushed : Option Nat := none
deriving DecidableEq, Repr

/-! ### Work queues, graphs, placement, streams -/

/-- A node of a graph as read at acceptance (R283, R285): its quads, its successors, its first task id. -/
structure Node where
  q : List Word
  succ : List Nat := []
  tid : BitVec 32 := 0
deriving DecidableEq, Repr

/-- An accepted record (R280): its quads, its nodes, and the queue and function it came through. -/
structure Rec where
  q : List Word
  nodes : List Node
  wq : Nat
  fn : Option Nat
  o : Nat
deriving DecidableEq, Repr

/-- A record on its way to a queue: from a host function, or from spawn with its operation (R280, R205). -/
structure Arrival where
  id : Nat
  q : List Word
  wq : Nat
  fn : Option Nat
  uid : Nat := 0
  op : Nat := 0
  o : Nat := 0
deriving DecidableEq, Repr

/-- Node states (R286). -/
inductive NodeState | waiting | ready | done | failed | skipped
deriving DecidableEq, Repr

/-- A node of a started launch: state, tasks not yet dispatched, tasks live. -/
structure NodeRun where
  st : NodeState := .waiting
  undisp : Nat := 0
  live : Nat := 0
deriving DecidableEq, Repr

/-- The report of a task that ended as failed (R216, R294). -/
structure FailRep where
  stidx : Nat := 0
  lslot : Nat := 0
  lcore : Nat := 0
  fcode : Nat := 0
  fpc : Addr := 0
  faddr : Addr := 0
  tid : BitVec 32 := 0
deriving DecidableEq, Repr

/-- A launch started and not complete (R281, R294). -/
structure Launch where
  id : Nat
  r : Rec
  runs : List NodeRun
  tasks : Nat := 0
  fails : Nat := 0
  drops : Nat := 0
  first : Option FailRep := none
  ending : Option Nat := none
deriving DecidableEq, Repr

/-- A task in an owner's ready list (R288). -/
structure Ready where
  o : Nat
  launch : Nat
  node : Nat
  k : Nat
  prio : Nat
deriving DecidableEq, Repr

/-- A task in the placement queue of its hint tile (R291). -/
structure Placing where
  o : Nat
  hslot : Nat
  hx : Nat
  radius : Nat
  t : Thread
deriving DecidableEq, Repr

/-- An inbox (R295): its messages not yet read, its place in its owner's area, and the messages that it has taken. -/
structure Inbox where
  o : Nat
  tid : BitVec 32
  launch : Nat
  k : Nat := 0
  count : Nat := 0
  msgs : List VWord := []
deriving DecidableEq, Repr

/-- A packet (R201, R202): in flight, in a spill ring, held under cause 0x01, or stepped (R408). -/
inductive PStage | flight | spilled | held | stepped
deriving DecidableEq, Repr

/-- A travelling thread; dispatch has sent it when it is a task that has not yet had a row (R290, R202). A spilled one has its entry of the ring and its
place in the order of spilling (R203). It keeps the core it left, none for the graph unit, and whether a pause has captured it (R324). -/
structure Packet where
  id : Nat
  stage : PStage
  t : Thread
  sent : Bool := false
  entry : Nat := 0
  order : Nat := 0
  src : Option Place := none
  cap : Bool := false
deriving DecidableEq, Repr

/-- A bundle that a fetch unit has injected (R208): its address, its words, and a fault that the fetch unit found. -/
structure SBundle where
  b : Addr
  w : List (BitVec 32)
  flt : Option (Nat × Nat × Addr) := none
deriving DecidableEq, Repr

/-- A loop that a fetch unit holds open (R211): where the body starts, its send bundle, the bundle after it, the iterations left. -/
structure SLoop where
  start : Addr
  sendb : Addr
  past : Addr
  left : Nat
deriving DecidableEq, Repr

/-- A row stream or a sheet (R206 to R216): placed once it has left its placement queue, started once stream beat 0 is fixed;
began is the beat of the device in which the present stream beat began; met names the owners whose full save areas the cores of its reach have met (R312). -/
structure Stream where
  id : Nat
  o : Nat
  l : Nat
  layer : Option Nat
  launch : Nat
  node : Nat
  tid : BitVec 32
  placed : Bool := false
  started : Bool := false
  beat : Option Nat := none
  began : Nat := 0
  frozen : Bool := false
  fpc : Addr := 0
  closed : Bool := false
  inj : List SBundle := []
  loops : List SLoop := []
  exited : List Nat := []
  fail : Option (Nat × FailRep) := none
  met : List Nat := []
  proto : Thread := {}
deriving DecidableEq, Repr

/-- Graph unit, dispatcher, placement queues, inboxes, packets and streams; ended names the dispatched tasks of launches that are complete, as owner,
first id and number (R296); dispOwner, dispLeft and dispW are the owner whose turn it is in the dispatcher's round, what is left of the turn, and the weights of the
round (R288, R301). -/
structure Graph where
  wqcfg : List (Nat × Word) := []
  refused : List (Nat × Nat) := []
  dropped : List (Nat × Nat) := []
  recs : List Rec := []
  arrivals : List Arrival := []
  rr : List (Nat × Nat) := []
  launches : List Launch := []
  ended : List (Nat × BitVec 32 × Nat) := []
  ready : List Ready := []
  placing : List Placing := []
  inboxes : List Inbox := []
  packets : List Packet := []
  streams : List Stream := []
  dispOwner : Nat := 15
  dispLeft : Nat := 0
  dispW : List Nat := []
deriving DecidableEq, Repr

/-! ### Owners and monitor registers -/

/-- The device's copy of an owner descriptor: its fields, and its bytes for the measurement of R429 (R300, R301). -/
structure Descr where
  mica : List Nat := []
  dram : List Nat := []
  ibudget : Nat := 0
  debug : Bool := false
  runs : List (Nat × Nat) := []
  raw : List Byte := []
deriving DecidableEq, Repr

/-- The cached entry of a buffer pair, its CUR bit, and the count of its latest exchange (R256, R257). -/
structure Pair where
  k : Nat
  vbase : Nat
  size : Nat
  back0 : Nat
  back1 : Nat
  cur : Bool := false
  qf : Nat := 0
deriving DecidableEq, Repr

/-- An owner: its registers (R299, R334, R306, R383, R392, R409, R413, R419), what the device keeps of it, and its metering counters (R434). -/
structure Owner where
  cfg : Word := 0
  frozen : Bool := false
  freezing : Option Nat := none
  causes : List Nat := []
  releasing : Bool := false
  fn : Nat := 0
  vcause : Nat := 0
  err : Nat := 0
  desc : Descr := {}
  s1rt : Word := 0
  s2rt : Word := 0
  s1act : Word := 0
  s2act : Word := 0
  gen : Nat := 0
  rrange : Vector Word 8 := Vector.replicate 8 0
  pairs : List Pair := []
  nextTid : BitVec 32 := 1
  stgcfg : Word := 0
  ibused : BitVec 32 := 0
  nextInst : BitVec 32 := 1
  stepcfg : Word := 0
  num : BitVec 32 := 0
  local_ : Bool := false
  held : Bool := false
  stepped : Bool := false
  resumeWait : Bool := false
  tokens : List (Nat × Nat) := []
  slman : Word := 0
  pullcfg : Word := 0
  pullFailed : Bool := false
  meter : Vector Word 14 := Vector.replicate 14 0
  launched : Bool := false
  inScrub : Bool := false
  qz : Nat := 0
deriving DecidableEq, Repr

/-- Device-wide monitor registers (R113 and the maps of chapters 10 to 26), each at its number's name. -/
structure MonRegs where
  livemap : Word := 0xFFFFFFFFFFFFFFFF
  slicemap : Word := 0xFFFFFFFFFFFFFFFF
  wovb : Word := 0
  wovn : Word := 0
  splt : Word := 0
  bptb : Word := 0
  wqsel : Word := 0
  inbt : Word := 0
  ownsel : Word := 0
  owntb : Word := 0
  capsel : Word := 0
  slsel : Word := 0
  rotiv : Word := 80
  slotsel : Word := 0
  tsiv : Word := 0
  savt : Word := 0
  evrb : Word := 0
  evrn : Word := 0
  evhd : Word := 0
  evtl : Word := 0
  evnq : Word := 0
  fnsel : Word := 0
  ixcfg : Word := 0
  ixdrops : BitVec 32 := 0
  ixup : BitVec 18 := 0
  ixtb : Word := 0
  wlim : Word := 10000
  wxsel : Word := 0
  colsel : Word := 0
  pscfg : Word := 0x8000000000001000
  slcmd : Word := 0
  sldst : Word := 0
  slvk : Word := 0
  metcfg : Word := 0x8000000000002580
  metring : Word := 0
  metptr : Word := 0
  scrubprog : Word := 0
deriving DecidableEq, Repr

/-! ### Rotation -/

/-- A tenancy (R316). -/
structure Tenancy where
  idx : Nat
  k : Nat
  o : Nat
  l : Nat
deriving DecidableEq, Repr

/-- Phases of a pause (R318). -/
inductive Phase | stop | flushed | moving | moved | switched
deriving DecidableEq, Repr

/-- A pause in progress (R318, R326): its Q0, its phase, whether it moves tenancies, switches, and whether the memory side has drained; freed names places
at whose cores a teardown has freed rows (R439). -/
structure Pause where
  q0 : Nat
  phase : Phase := .stop
  moves : Bool
  switch : Bool
  drained : Bool := false
  scrub : Bool := false
  repairs : Nat := 0
  endAt : Nat := 0
  retire : Nat := 0
  freed : List Place := []
  tiled : Bool := false
deriving DecidableEq, Repr

/-- A slotctl change that takes effect at the next pause (R317). -/
inductive SlotChange
  | place (t : Tenancy)
  | remove (idx k : Nat)
deriving DecidableEq, Repr

/-- A lane repair that waits for a pause, with its tile and region (R402). -/
structure Repair where
  tile : Nat
  region : Nat
deriving DecidableEq, Repr

/-- Rotation and time-sharing state, with the retirement of cores (R314 to R332, R400 to R403), and how far the patrol of each part has come in its pass, as
part, pass and next sector (R397). -/
structure Rot where
  seq : Word := 0
  tens : List Tenancy := []
  cur : List (Nat × Nat) := []
  extraRot : Bool := false
  extraSw : Bool := false
  pause : Option Pause := none
  changes : List SlotChange := []
  spilled : List (Nat × Nat × Engine) := []
  retired : List (Nat × Nat) := []
  failed : List (Nat × Nat) := []
  down : List (Nat × Nat) := []
  hollow : List Nat := []
  repairs : List Repair := []
  spares : List (Nat × Nat × Nat) := []
  patrol : List (Nat × Nat × Nat) := []
deriving DecidableEq, Repr

/-! ### Flash, columns, host, trust -/

/-- An extent that an install has touched (R381). -/
structure Extent where
  e : Nat
  complete : Bool := false
  len : Nat := 0
  progd : List Nat := []
  retired : Nat := 0
deriving DecidableEq, Repr

/-- Install states (R391). -/
inductive IState | requested | waiting | checks | erasing | programming | ended
deriving DecidableEq, Repr

/-- An install (R385 to R389). -/
structure Install where
  rid : Nat
  uid : Nat
  pl : Place
  o : Nat
  q : List Word
  st : IState := .requested
  inst : BitVec 32 := 0
  ext : Nat := 0
  src : Nat := 0
  code : Nat := 0
  pages : Nat := 0
  retired : Nat := 0
  faddr : Addr := 0
  pushed : Option Nat := none
deriving DecidableEq, Repr

/-- A page that a staging cache holds, in a way of its set, with the marks of its sectors (R382, R383, R395). -/
structure Staged where
  o : Nat
  page : Nat
  marks : List Nat
  stamp : Nat
  way : Nat := 0
deriving DecidableEq, Repr

/-- Weight flash: extents, erase counts per block, spare pools, installs, staging (R380 to R393), the 1 KiB pieces that fail correction, and the sectors of reads
that failed and have not yet posted their event (R395, R396). -/
structure Flash where
  exts : List Extent := []
  erases : List (Nat × Nat) := []
  spares : List (Nat × Nat) := []
  bad : List Nat := []
  installs : List Install := []
  staged : List Staged := []
  errs : List Nat := []
deriving DecidableEq, Repr

/-- A column's state as kept in its stack (R398, R399, R403, R404). -/
structure Column where
  k : Nat
  st : Nat := 0
  lost : Nat := 15
  lost2 : Nat := 15
  rbpos : Nat := 0
  half : Bool := false
  halfDue : Bool := false
  hot : Nat := 0
  errs : List (Nat × Nat) := []
deriving DecidableEq, Repr

/-- A line that a Mica slice caches (R163, R164, R305 to R307): the key of its 1,024 bytes, its owner, its set, way and tag, the sectors held, those that are
dirty and those marked poisoned (sector numbers 0 to 7), its sharer pointers (fused or not, and the place) with their overflow mark, and its latest use. -/
structure MicaLine where
  line : Nat
  o : Nat
  set : Nat
  way : Nat
  tag : Nat := 0
  secs : List Nat := []
  dirty : List Nat := []
  bad : List Nat := []
  sharers : List (Bool × Place) := []
  spread : Bool := false
  used : Nat := 0
deriving DecidableEq, Repr

/-- A Mica slice beside its scratchpad bytes: scratchpad ways, a change in progress, range counters, the lines it caches (R306 to R309). -/
structure Slice where
  n : Nat
  ways : Nat := 0
  target : Option (Nat × Nat) := none
  size : Nat := 0
  ctr : List (Nat × Nat) := []
  lines : List MicaLine := []
deriving DecidableEq, Repr

/-- A function of the host port (R357, R359, R361, R365 to R367): table holds the addresses and data of its MSI-X table, aer its uncorrectable error status, bars
the addresses in its BAR0, BAR2 and BAR4. -/
structure Fn where
  k : Nat
  en : Bool := false
  frozen : Bool := false
  o : Nat := 0
  present : Bool := false
  memEn : Bool := false
  msixEn : Bool := false
  masked : List Nat := List.range 64
  table : List Host.Cell := []
  pba : List Nat := []
  d3 : Bool := false
  aer : Nat := 0
  bars : Vector Word 3 := Vector.replicate 3 0
deriving DecidableEq, Repr

/-- What the device has sent outward, oldest last: interrupts, read completions, SPDM answers, debug readouts, messages to peers. -/
inductive Out
  | msix (fn vec : Nat)
  | readDone (fn : Nat) (bytes : List Byte)
  | unsupported (fn : Nat)
  | spdm (code : Nat) (body : List Byte)
  | ixReq (links : Nat) (dev : Nat) (r : IxReq)
  | ixReply (dev : Nat) (ok : Bool) (bytes : List Byte)
  | token (dev num : Nat)
  | pullReq (link dev o p : Nat)
  | pullPage (dev o p : Nat) (bytes : List Byte)
  | pullNo (dev o p : Nat)
  | debug (o : Nat) (bytes : List Byte)
  | debugNo (o : Nat)
deriving DecidableEq, Repr

/-- A request at the host port or at an Ixnar port (R321, R362, R363, R376). -/
inductive HostReq
  | post (fn off : Nat) (bytes : List Byte)
  | read (fn off len : Nat)
  | write (fn off : Nat) (bytes : List Byte)
  | peer (r : IxReq)
deriving DecidableEq, Repr

/-- A request that waits at a port: the bytes of it that have moved (R304), and whether its function's memory space was open when it reached the port (R365,
R366). -/
structure HeldReq where
  r : HostReq
  moved : Nat := 0
  kept : Bool := false
deriving DecidableEq, Repr

/-- A 16-byte block of memory whose device writes are not yet performed at system scope: the bytes that hosts and peers still read, and the writers as
owner, launch and thread, thread 0 for a copy unit or an engine (R268, R269, R272). -/
structure Outer where
  block : Nat
  bytes : List Byte
  writers : List (Nat × Nat × Nat) := []
deriving DecidableEq, Repr

/-- What reaches an Ixnar port beside the requests of peers: a ready token, a request for a page, a page, a refusal (R410, R419, R420). -/
inductive IxIn
  | token (o dev num : Nat)
  | serve (o dev rown p : Nat)
  | page (o page : Nat) (bytes marks : List Byte)
  | refused (o page : Nat)
deriving DecidableEq, Repr

/-- The host port and the Ixnar links: functions, link state, CXL.cache and the bytes of the HDM range (R357, R358), the round of each direction as its owner
and the bytes left to it, with the weights that stood when the round began (R301, R304), requests held in their arrival order, what was sent, what is not yet performed at system scope (R268, R272); ixHeld keeps the tokens and the pull traffic that
reached an Ixnar port in a pause (R318, R321). -/
structure HostPort where
  fns : List Fn := [{ k := 0, en := true, present := true }]
  up : Bool := false
  vfEnable : Bool := false
  spdm : Nat := 0
  cxlCache : Bool := false
  hdm : Nat := 0
  roundIn : Nat × Nat := (15, 0)
  roundOut : Nat × Nat := (15, 0)
  shareIn : List Nat := []
  shareOut : List Nat := []
  outer : List Outer := []
  held : List HeldReq := []
  ixHeld : List IxIn := []
  sent : List Out := []
deriving DecidableEq, Repr

/-- An event raised and not yet accepted, or accepted and held (R354, R356). -/
structure Ev where
  ty : Nat
  o : Nat := 0
  cause : Nat := 0
  fn : Nat := 0
  data : Word := 0
  src : Nat := 0
  seq : Option Word := none
  q : Nat := 0
deriving DecidableEq, Repr

/-- A metering record that Obsidian holds (R435 to R437), with the payload digest whose alias key signs it. -/
structure MRec where
  o : Nat
  oseq : Nat
  final : Bool := false
  lost : Bool := false
  q : Nat
  dev : Nat := 0
  payload : BitVec 512 := 0
  ctr : Vector Word 14 := Vector.replicate 14 0
  prev : BitVec 512 := 0
deriving DecidableEq, Repr

/-- An entry of Obsidian's persistent list of pending scrubs (R441). -/
structure Pending where
  o : Nat
  desc : Descr
  areas : List (Nat × Nat) := []
  keys : List Nat := []
  final : Bool := false
deriving DecidableEq, Repr

/-- The graph positions that an image holds (R412, R415), in the device's own layout. -/
structure GraphPos where
  num : BitVec 32
  launches : List Launch
  packets : List Packet
  inboxes : List Inbox
  maxTid : BitVec 32
deriving DecidableEq, Repr

/-- A page pull in flight (R419, R420). -/
structure Pull where
  o : Nat
  page : Nat
  start : Nat
deriving DecidableEq, Repr

/-- Obsidian, Pumice, key slots, recovery mailbox, event arbiter, Slate and pulls. -/
structure Trust where
  power : Bool := true
  tripped : Bool := false
  tripDue : Bool := false
  boot : Bool := true
  applied : Bool := true
  svn : Nat := 0
  fusedSvn : Nat := 0
  recoveryRec : Bool := false
  payload : BitVec 512 := 0
  keys : List (Nat × BitVec 512) := []
  heads : List (Nat × Nat × BitVec 512) := []
  waiting : List MRec := []
  ringFull : Bool := false
  pendings : List Pending := []
  scrubPause : Bool := false
  scrubAt : Nat := 0
  recovery : Bool := false
  rstate : Nat := 0
  rerr : Nat := 0
  rlen : Nat := 0
  received : Nat := 0
  rbuf : List Host.Cell := []
  rimage : List Byte := []
  rreset : Bool := false
  evseq : Word := 0
  events : List Ev := []
  slateOp : Nat := 0
  slateOwner : Nat := 0
  pulls : List Pull := []
deriving DecidableEq, Repr

/-- What the step machinery keeps: the quartz count, plain counters, and what happens next. -/
inductive Ctl | pick | issue
deriving DecidableEq, Repr

/-- What the device does of its own accord: the rows of the opcode table that no instruction word and no outside party causes. -/
inductive Due
  | issueResume | rotationDue | switchDue | slotMapSwitch | moveEnd | rotationMove | routerFlush | memoryDrainEnd
  | engineStepStop (cid i j : Nat)
  | freezeStart (o : Nat)
  | sfuResultLand (id : Nat)
  | sfuAccept (o l c : Nat)
  | streamEnd (sid : Nat)
  | streamStart (sid : Nat)
  | streamBeatBegin (sid : Nat)
  | beatBoundary
  | engineArrive (cid i j : Nat)
  | engineStart (cid i j : Nat)
  | engineFetch (cid : Nat)
  | engineStep (cid i j : Nat)
  | engineWrite (cid : Nat)
  | copyWrite (p : Place)
  | engineComplete (cid : Nat)
  | mfenceComplete (uid : Nat)
  | meteringInterval
  | meteringWrite
  | drainEnd
  | launchEnd (lid : Nat)
  | verify
  | copyBegin (p : Place)
  | copyTurn (p : Place)
  | copyComplete (p : Place)
  | land (uid id : Nat)
  | depart (uid : Nat)
  | arrive (pid : Nat)
  | exit (uid : Nat)
  | fence (uid : Nat)
  | request (id : Nat)
  | record (id : Nat)
  | launch (q : Nat)
  | dispatch
  | walkEnd (wid : Nat)
  | evict (k : Nat)
  | outward (k : Nat)
  | tlbinvAck (uid : Nat)
  | pairExchange (uid : Nat)
  | waypart (n : Nat)
  | restore (uid : Nat)
  | rowOffer (p : Place)
  | installArrive (id : Nat)
  | installPage (id : Nat)
  | installEnd (id : Nat)
  | accept (k : Nat)
  | localStop (o : Nat)
  | slateWrite | slateRestore
  | slateEnd (code : Nat)
  | tiles | slices | dram | areas | keys | scrubUnit
  | pullTimeout (o page : Nat)
  | pullPump
  | patrolRead | patrolEnd | flashErrs
  | hostPump
  | boot
  | reset
deriving DecidableEq, Repr

/-- A slot turn of a cycle (R54): the core and the slot. -/
structure Turn where
  pl : Place
  slot : Nat
deriving DecidableEq, Repr

/-- Time (the quartz count, and how often it has wrapped), the counters that name operations and draw free values, the turns left in this cycle, the
events due in it, and the inputs from outside. -/
structure Clk where
  quartz : Word := 0
  wraps : Nat := 0
  id : Nat := 1
  draw : Nat := 0
  ctl : Ctl := .pick
  todo : List Turn := []
  due : List Due := []
  inputs : List Instr := []
deriving DecidableEq, Repr

/-- The machine. -/
structure State where
  clk : Clk
  me : Thread
  iss : Issue
  threads : List Thread
  mem : Mem
  net : List Req
  sfu : List SfuReq
  walks : List Walk
  tlb : List Tlb
  wcache : List WEnt
  l1 : List L1Line
  cores : List Core
  engines : List Engine
  caps : List Cap
  cmds : List Cmd
  graph : Graph
  owners : Vector Owner 16
  regs : MonRegs
  rot : Rot
  flash : Flash
  cols : List Column
  slices : List Slice
  host : HostPort
  trust : Trust
deriving DecidableEq, Repr

/-- The machine right after the power-on reset that applies power: every register at its Reset value, nothing running, boot still to come (R423, R424). -/
def State.reset : State where
  clk := {}
  me := {}
  iss := {}
  threads := []
  mem := {}
  net := []
  sfu := []
  walks := []
  tlb := []
  wcache := []
  l1 := []
  cores := []
  engines := []
  caps := []
  cmds := []
  graph := {}
  owners := Vector.replicate 16 {}
  regs := {}
  rot := {}
  flash := {}
  cols := []
  slices := []
  host := {}
  trust := {}

end Sys2Proof.Machine
end

