-- ==== Sys2Proof/Machine/Num.lean ====
section
/-! DEFINITION. Num: exact values and the rounding helpers of 02_numbers.md (R33 to R53), each defined once. -/

namespace Sys2Proof.Machine

/-- An exact value: a NaN (signalling or not; NaR is a quiet one), an infinity, or (−1)^neg · m · 2^e with signed zeros (R7, R37, R38). -/
inductive XR
  | nan (sig : Bool)
  | inf (neg : Bool)
  | fin (neg : Bool) (m : Nat) (e : Int)
deriving DecidableEq, Repr

/-- The five flags in their FCSR positions: NV 4, DZ 3, OF 2, UF 1, NX 0 (R40). -/
abbrev Flags := BitVec 5
def fNV : Flags := 16
def fDZ : Flags := 8
def fOF : Flags := 4
def fUF : Flags := 2
def fNX : Flags := 1
/-- A flag that is raised when a condition holds. -/
def flagIf (c : Bool) (f : Flags) : Flags := if c then f else 0

/-- Rounding modes as FCSR.RM codes them (R40): 0 RNE, 1 RTZ, 2 RUP, 3 RDN. -/
abbrev RM := Nat

/-- A binary format: precision p, width w, bias 127 (R36). -/
structure Fmt where
  p : Nat
  w : Nat
deriving DecidableEq, Repr
def Fmt.f32 : Fmt := ⟨24, 32⟩
def Fmt.bf16 : Fmt := ⟨8, 16⟩
/-- The canonical NaN (R37). -/
def Fmt.qnan (f : Fmt) : Nat := 0x7FC0 * 2 ^ (f.w - 16)
/-- Infinity of a sign. -/
def Fmt.infB (f : Fmt) (neg : Bool) : Nat := (if neg then 0xFF80 else 0x7F80) * 2 ^ (f.w - 16)
/-- The largest finite value of a sign. -/
def Fmt.maxB (f : Fmt) (neg : Bool) : Nat := f.infB neg - 1
/-- The exponent of the smallest subnormal (R38). -/
def Fmt.emin (f : Fmt) : Int := -126 - ((f.p : Int) - 1)

/-- The exact value of a bit pattern (R36, R37). -/
def Fmt.val (f : Fmt) (b : Nat) : XR :=
  let neg := bit b (f.w - 1)
  let ex := b / 2 ^ (f.p - 1) % 256
  let fr := b % 2 ^ (f.p - 1)
  if ex = 255 then (if fr = 0 then .inf neg else .nan (!bit fr (f.p - 2)))
  else if ex = 0 then .fin neg fr f.emin
  else .fin neg (fr + 2 ^ (f.p - 1)) ((ex : Int) - 127 - ((f.p : Int) - 1))

/-- Rounds m / 2^sh to an integer in a mode, for a value of the given sign (R38, R52). -/
def roundShift (mode : RM) (neg : Bool) (m sh : Nat) : Nat :=
  let q := m / 2 ^ sh
  let r := m % 2 ^ sh
  let up :=
    if r = 0 then false
    else if mode = 0 then decide (2 ^ sh < 2 * r) || (2 * r == 2 ^ sh && q % 2 == 1)
    else if mode = 1 then false
    else if mode = 2 then !neg
    else neg
  if up then q + 1 else q

/-- Rounds m · 2^e to a multiple of 2^qe: the multiple, and whether it differs. -/
def roundAt (mode : RM) (neg : Bool) (m : Nat) (e qe : Int) : Nat × Bool :=
  if qe ≤ e then (m * 2 ^ (e - qe).toNat, false)
  else let sh := (qe - e).toNat; (roundShift mode neg m sh, m % 2 ^ sh != 0)

/-- The bits of magnitude q · 2^qe, which the format holds exactly. -/
def Fmt.pack (f : Fmt) (neg : Bool) (q : Nat) (qe : Int) : Nat :=
  let s := if neg then 2 ^ (f.w - 1) else 0
  if q = 0 then s
  else
    let l := Nat.log2 q + 1
    let top := qe + l - 1
    if top < -126 then s + q * 2 ^ (qe - f.emin).toNat
    else
      let m := if l ≤ f.p then q * 2 ^ (f.p - l) else q / 2 ^ (l - f.p)
      s + (top + 127).toNat * 2 ^ (f.p - 1) + (m - 2 ^ (f.p - 1))

/-- RoundToF32 and RoundToBF16 (R38). Tininess is judged after rounding. -/
def Fmt.round (f : Fmt) (mode : RM) : XR → Nat × Flags
  | .nan _ => (f.qnan, 0)
  | .inf neg => (f.infB neg, 0)
  | .fin neg m e =>
    if m = 0 then (f.pack neg 0 0, 0)
    else
      let top := e + (Nat.log2 m : Int)
      let qe := top - ((f.p : Int) - 1)
      let y := roundAt mode neg m e qe
      let ytop := (if y.1 = 2 ^ f.p then top + 1 else top)
      if 127 < ytop then
        ((if mode = 0 || (mode = 2 && !neg) || (mode = 3 && neg) then f.infB neg else f.maxB neg), fNX ||| fOF)
      else if ytop < -126 then
        let z := roundAt mode neg m e f.emin
        (f.pack neg z.1 f.emin, if z.2 then fNX ||| fUF else 0)
      else if qe ≤ e then (f.pack neg m e, 0)
      else (f.pack neg y.1 qe, flagIf y.2 fNX)

/-- The integer that a finite value is at scale 2^e0 (e0 at most its exponent). -/
def scaleInt (neg : Bool) (m : Nat) (e e0 : Int) : Int :=
  let a : Int := (m : Int) * 2 ^ (e - e0).toNat
  if neg then -a else a

/-- Product, with NV for 0 × ∞ and for signalling operands (R122, R124). -/
def XR.mul : XR → XR → XR × Flags
  | .nan a, .nan b => (.nan false, flagIf (a || b) fNV)
  | .nan a, _ => (.nan false, flagIf a fNV)
  | _, .nan b => (.nan false, flagIf b fNV)
  | .inf a, .inf b => (.inf (a != b), 0)
  | .inf a, .fin b m _ => if m = 0 then (.nan false, fNV) else (.inf (a != b), 0)
  | .fin a m _, .inf b => if m = 0 then (.nan false, fNV) else (.inf (a != b), 0)
  | .fin a m e, .fin b n k => (.fin (a != b) (m * n) (e + k), 0)

/-- The value with its sign changed. -/
def XR.neg : XR → XR
  | .nan a => .nan a
  | .inf a => .inf !a
  | .fin a m e => .fin (!a) m e

def XR.isNan : XR → Bool
  | .nan _ => true | _ => false
def XR.isSig : XR → Bool
  | .nan b => b | _ => false
def XR.isInf (s : Bool) : XR → Bool
  | .inf a => a == s | _ => false
def XR.sgn : XR → Bool
  | .nan _ => false | .inf a => a | .fin a _ _ => a
def XR.exp : XR → Int
  | .fin _ m e => if m = 0 then 0 else e
  | _ => 0
def XR.atScale (e0 : Int) : XR → Int
  | .fin a m e => if m = 0 then 0 else scaleInt a m e e0
  | _ => 0

/-- The exact sum of any number of values, with the invalid and zero-sign rules (R39, R122, R124). -/
def XR.sum (mode : RM) (ts : List XR) : XR × Flags :=
  if ts.any XR.isNan then (.nan false, flagIf (ts.any XR.isSig) fNV)
  else if ts.any (XR.isInf false) then (if ts.any (XR.isInf true) then (.nan false, fNV) else (.inf false, 0))
  else if ts.any (XR.isInf true) then (.inf true, 0)
  else
    let e0 : Int := ts.foldl (fun a t => min a t.exp) 0
    let n : Int := ts.foldl (fun a t => a + t.atScale e0) 0
    if n = 0 then
      (if ts.all XR.sgn then (.fin true 0 0, 0) else if ts.all (fun t => !t.sgn) then (.fin false 0 0, 0) else (.fin (mode == 3) 0 0, 0))
    else (.fin (decide (n < 0)) n.natAbs e0, 0)

/-- Compares finite or infinite values as reals: less than; −0 equals +0 (R125). -/
def XR.lt : XR → XR → Bool
  | .inf a, .inf b => a && !b
  | .inf a, .fin _ _ _ => a
  | .fin _ _ _, .inf b => !b
  | .fin a m e, .fin b n k =>
    let e0 := min (XR.fin a m e).exp (XR.fin b n k).exp
    decide ((XR.fin a m e).atScale e0 < (XR.fin b n k).atScale e0)
  | _, _ => false

/-- RoundToInt (R52), for a target of w bits. -/
def roundToInt (mode : RM) (w : Nat) (signed : Bool) (x : XR) : Int × Flags :=
  let lo : Int := if signed then -(2 ^ (w - 1)) else 0
  let hi : Int := if signed then 2 ^ (w - 1) - 1 else 2 ^ w - 1
  match x with
  | .nan _ => (0, fNV)
  | .inf neg => (if neg then lo else hi, fNV)
  | .fin neg m e =>
    let r := roundAt mode neg m e 0
    let y : Int := if neg then -(r.1 : Int) else r.1
    if hi < y then (hi, fNV) else if y < lo then (lo, fNV) else (y, flagIf r.2 fNX)

/-! ### G8 (R43 to R47) -/

/-- The number of zeros above the highest 1 bit of a nonzero 7-bit body. -/
def g8z (b : Nat) : Nat := 6 - Nat.log2 b

/-- E for z and x (R43). -/
def g8E (z x : Nat) : Int :=
  match z with
  | 0 => -2 + x
  | 1 => if x < 2 then -4 + x else x
  | 2 => if x < 2 then -6 + x else 2 + x
  | 3 => if x < 2 then -8 + x else 4 + x
  | 4 => if x < 2 then -10 + x else 6 + x
  | 5 => if x = 0 then -11 else 10
  | _ => -12

/-- The magnitude of a body, as m · 2^e (R43). -/
def g8Body (b : Nat) : Nat × Int :=
  if b = 0 then (0, 0)
  else
    let z := g8z b
    let low := b % 2 ^ (6 - z)
    let xw := if z ≤ 4 then 2 else if z = 5 then 1 else 0
    let fw := 6 - z - xw
    (2 ^ fw + low % 2 ^ fw, g8E z (low / 2 ^ fw) - fw)

/-- G8Decode with a scale S (R43, R46): NaR for code 0x80 or S = −256. -/
def g8Val (c : Nat) (s : Int) : XR :=
  if c = 0x80 || s = -256 then .nan false
  else let m := g8Body (c % 128); .fin (decide (128 ≤ c) && m.1 != 0) m.1 (m.2 + s)

/-- The bodies in ladder order, index 0 first (R44). -/
def g8Ladder : List Nat :=
  [0, 0x01, 0x02, 0x04, 0x05] ++ [0x08, 0x09, 0x0A, 0x0B] ++ (List.range 8).map (0x10 + ·) ++ (List.range 16).map (0x20 + ·) ++
  (List.range 64).map (0x40 + ·) ++ (List.range 16).map (0x30 + ·) ++ (List.range 8).map (0x18 + ·) ++ [0x0C, 0x0D, 0x0E, 0x0F, 0x06, 0x07, 0x03]

/-- The value of a body times 2^12, an integer (R44). -/
def g8Int (b : Nat) : Nat := let m := g8Body b; m.1 * 2 ^ (m.2 + 12).toNat

/-- The two ladder neighbours of n / d · 2^−12: the last index at most it, found by walking the ladder. -/
def g8Walk (n d : Nat) : List Nat → Nat → Nat
  | [], i => i - 1
  | b :: bs, i => if g8Int b * d ≤ n then g8Walk n d bs (i + 1) else i - 1

/-- G8Encode (R45). -/
def g8Encode (mode : RM) : XR → Nat × Flags
  | .nan sig => (0x80, flagIf sig fNV)
  | .inf _ => (0x80, fNV)
  | .fin neg m e =>
    let s := if neg && m != 0 then 128 else 0
    let k := e + 12
    let n := if 0 ≤ k then m * 2 ^ k.toNat else m
    let d := if 0 ≤ k then 1 else 2 ^ (-k).toNat
    if 2 ^ 22 * d < n then (s + 0x03, fOF ||| fNX)
    else
      let lo := g8Walk n d g8Ladder 0
      let bl := g8Ladder.getD lo 0
      let vl := g8Int bl * d
      if vl = n then (if bl = 0 then (0, 0) else (s + bl, 0))
      else
        let vh := g8Int (g8Ladder.getD (lo + 1) 0) * d
        let neg' := neg
        let up :=
          if mode = 0 then (if n - vl < vh - n then false else if vh - n < n - vl then true else lo % 2 == 1)
          else if mode = 1 then false
          else (mode == 2 && !neg') || (mode == 3 && neg')
        let i := if up then lo + 1 else lo
        let b := g8Ladder.getD i 0
        if b = 0 then (0, fNX ||| fUF) else (s + b, fNX)

/-- A value times 2^k, exactly. -/
def XR.scale (k : Int) : XR → XR
  | .fin a m e => .fin a m (e + k)
  | x => x

/-- G8BlockScale (R47). -/
def g8BlockScale (vs : List XR) : Int :=
  let es := vs.filterMap (fun x => match x with | .fin _ m e => if m = 0 then none else some (e + (Nat.log2 m : Int)) | _ => none)
  match es with
  | [] => 0
  | e :: rest => min (max (rest.foldl max e - 1) (-255)) 255

/-! ### Accumulator terms (R48, R49) -/

/-- Adds one product to an element A under anchor α: the new A, INEXACT, RANGE. -/
def accTerm (anchor : Int) (a : Int) (p : XR) : Int × Bool × Bool :=
  match p with
  | .fin neg m e =>
    let r := roundAt 0 neg m (e - anchor) 0
    let t : Int := if neg then -(r.1 : Int) else r.1
    ((a + t), r.2, decide (2 ^ 112 ≤ r.1))
  | _ => (a, false, true)

/-! ### Special functions (R139, R149): exact values as a magnitude with a sticky last bit -/

/-- Integer square root, bit by bit from bit k down. -/
def isqrtFrom (n : Nat) : Nat → Nat → Nat
  | 0, r => if (r + 1) * (r + 1) ≤ n then r + 1 else r
  | k + 1, r => let c := r + 2 ^ (k + 1); isqrtFrom n k (if c * c ≤ n then c else r)
def isqrt (n : Nat) : Nat := isqrtFrom n (Nat.log2 n / 2 + 1) 0

/-- 1 / (m · 2^e) as a value with a sticky bit. -/
def recipX (neg : Bool) (m : Nat) (e : Int) : XR :=
  let k := Nat.log2 m + 64
  let q := 2 ^ k / m
  .fin neg (2 * q + (if q * m = 2 ^ k then 0 else 1)) (-e - k - 1)

/-- √(m · 2^e) with a sticky bit. -/
def sqrtX (m : Nat) (e : Int) : XR :=
  let odd := e % 2 == 1
  let m' := (if odd then 2 * m else m) * 2 ^ 128
  let e' := (if odd then e - 1 else e) - 128
  let r := isqrt m'
  .fin false (2 * r + (if r * r = m' then 0 else 1)) (e' / 2 - 1)

/-- 1 / √(m · 2^e) with a sticky bit. -/
def rsqrtX (m : Nat) (e : Int) : XR :=
  let odd := e % 2 == 1
  let m' := if odd then 2 * m else m
  let e' := if odd then e - 1 else e
  let k := Nat.log2 m' + 64
  let q := 2 ^ (2 * k) / m'
  let r := isqrt q
  .fin false (2 * r + (if r * r * m' = 2 ^ (2 * k) then 0 else 1)) (-(e' / 2) - k - 1)

/-- A closed interval of integers, scaled by 2^n. -/
structure Iv where
  lo : Int
  hi : Int
deriving DecidableEq, Repr

/-- Floor and ceiling of a / d for d > 0. -/
def cdiv (a d : Int) : Int := -((-a) / d)
def Iv.add (a b : Iv) : Iv := ⟨a.lo + b.lo, a.hi + b.hi⟩
def Iv.sub (a b : Iv) : Iv := ⟨a.lo - b.hi, a.hi - b.lo⟩
def Iv.divN (a : Iv) (d : Nat) : Iv := ⟨a.lo / d, cdiv a.hi d⟩
def Iv.mulN (a : Iv) (d : Nat) : Iv := ⟨a.lo * d, a.hi * d⟩
def Iv.mul (n : Nat) (a b : Iv) : Iv :=
  let p := a.lo * b.lo; let q := a.lo * b.hi; let r := a.hi * b.lo; let t := a.hi * b.hi
  ⟨min (min p q) (min r t) / 2 ^ n, cdiv (max (max p q) (max r t)) (2 ^ n)⟩
/-- Quotient of intervals whose divisor is positive. -/
def Iv.div (n : Nat) (a b : Iv) : Iv :=
  let f (x : Int) (d : Int) : Int := x * 2 ^ n / d
  let c (x : Int) (d : Int) : Int := cdiv (x * 2 ^ n) d
  ⟨min (f a.lo b.lo) (f a.lo b.hi), max (c a.hi b.lo) (c a.hi b.hi)⟩
def Iv.one (n : Nat) : Iv := ⟨2 ^ n, 2 ^ n⟩
def Iv.mag (a : Iv) : Int := max (max a.lo (-a.lo)) (max a.hi (-a.hi))
def Iv.widen (a : Iv) (d : Int) : Iv := ⟨a.lo - d, a.hi + d⟩

/-- m · 2^e at scale 2^n. -/
def Iv.ofDy (n : Nat) (neg : Bool) (m : Nat) (e : Int) : Iv :=
  let k := e + n
  let l : Int := if 0 ≤ k then m * 2 ^ k.toNat else (m : Int) / 2 ^ (-k).toNat
  let h : Int := if 0 ≤ k then m * 2 ^ k.toNat else cdiv m (2 ^ (-k).toNat)
  if neg then ⟨-h, -l⟩ else ⟨l, h⟩

/-- Sum of Taylor terms of e^y from term t at index i. -/
def expLoop (n : Nat) (y : Iv) : Nat → Nat → Iv → Iv → Iv
  | 0, _, t, s => s.widen (2 * t.mag + 2)
  | fuel + 1, i, t, s => let t' := (t.mul n y).divN i; expLoop n y fuel (i + 1) t' (s.add t')
/-- e^y for |y| ≤ 1. -/
def expIv (n : Nat) (y : Iv) : Iv := expLoop n y (n / 4 + 12) 1 (Iv.one n) (Iv.one n)

/-- Σ z^(2k+1)/(2k+1), with alternating signs when alt, for |z| ≤ 1/3. -/
def oddLoop (n : Nat) (alt : Bool) (z2 : Iv) : Nat → Nat → Iv → Iv → Iv
  | 0, _, p, s => s.widen (p.mag + 2)
  | fuel + 1, k, p, s =>
    let t := p.divN (2 * k + 1)
    oddLoop n alt z2 fuel (k + 1) (p.mul n z2) (if alt && k % 2 == 1 then s.sub t else s.add t)
def atanhIv (n : Nat) (z : Iv) : Iv := oddLoop n false (z.mul n z) (n / 3 + 8) 0 z ⟨0, 0⟩
def atanIv (n : Nat) (z : Iv) : Iv := oddLoop n true (z.mul n z) (n / 3 + 8) 0 z ⟨0, 0⟩
def ln2Iv (n : Nat) : Iv := (atanhIv n ((Iv.one n).divN 3)).mulN 2
def piIv (n : Nat) : Iv := ((atanIv n ((Iv.one n).divN 5)).mulN 16).sub ((atanIv n ((Iv.one n).divN 239)).mulN 4)

/-- Taylor terms of sin y. -/
def sinLoop (n : Nat) (y2 : Iv) : Nat → Nat → Iv → Iv → Iv
  | 0, _, t, s => s.widen (t.mag + 2)
  | fuel + 1, k, t, s =>
    let t' := ((t.mul n y2).divN (2 * k)).divN (2 * k + 1)
    sinLoop n y2 fuel (k + 1) t' (if k % 2 == 1 then s.sub t' else s.add t')
/-- sin y for 0 ≤ y ≤ 2. -/
def sinIv (n : Nat) (y : Iv) : Iv := sinLoop n (y.mul n y) (n / 6 + 12) 1 y y

/-- Squares k times. -/
def sqIter (n : Nat) : Nat → Iv → Iv
  | 0, a => a
  | k + 1, a => sqIter n k (a.mul n a)
/-- e^y for |y| ≤ 128. -/
def expBig (n : Nat) (y : Iv) : Iv := sqIter n 8 (expIv n (y.divN 256))

/-- The nine functions of 0x18 (R90, R149) on a value whose result is not exact, at scale 2^n; f is the function code. -/
def sfuIv (f n : Nat) (neg : Bool) (m : Nat) (e : Int) : Iv :=
  let x := Iv.ofDy n neg m e
  let ax := Iv.ofDy n false m e
  match f with
  | 0 => expIv n (x.mul n (ln2Iv n))
  | 1 =>
    let l := Nat.log2 m
    let k0 := e + l
    let r := Iv.ofDy n false m (-(l : Int))
    let big := decide (3 * 2 ^ l < 2 * m)
    let r := if big then ⟨r.lo / 2, cdiv r.hi 2⟩ else r
    let k := if big then k0 + 1 else k0
    let ln := (atanhIv n ((r.sub (Iv.one n)).div n (r.add (Iv.one n)))).mulN 2
    (ln.div n (ln2Iv n)).add ⟨k * 2 ^ n, k * 2 ^ n⟩
  | 5 | 6 =>
    -- |x| in units of 2^e with e < 0, reduced to a quarter turn
    let d := 2 ^ (-e).toNat
    let r := (if f = 6 then 2 * m + d else 2 * m) % (4 * d)
    let half := 2 * d
    let s := decide (half ≤ r)
    let r1 := if s then r - half else r
    let r2 := if d < r1 then half - r1 else r1
    let y := ((piIv n).mul n (Iv.ofDy n false r2 (e - 1)))
    let v := sinIv n y
    let sg := if f = 6 then s else (s != neg)
    if sg then ⟨-v.hi, -v.lo⟩ else v
  | 7 =>
    let u := expBig n (ax.mulN 2)
    let v := (u.sub (Iv.one n)).div n (u.add (Iv.one n))
    if neg then ⟨-v.hi, -v.lo⟩ else v
  | _ =>
    let u := expBig n ax
    let den := u.add (Iv.one n)
    if neg then (Iv.one n).div n den else u.div n den

/-- A value just inside an interval end, with a sticky bit. -/
def stickyAt (n : Nat) (v : Int) (down : Bool) : XR :=
  let w := if down then 2 * v - 1 else 2 * v + 1
  .fin (decide (w < 0)) w.natAbs (-(n : Int) - 1)

/-- Correct rounding by growing precision: both ends of the interval round alike, or the next precision is tried. -/
def sfuTry (f : Nat) (neg : Bool) (m : Nat) (e : Int) : List Nat → Nat × Flags
  | [] => (0, fNX)
  | n :: ns =>
    let v := sfuIv f n neg m e
    let a := Fmt.f32.round 0 (stickyAt n v.lo false)
    let b := Fmt.f32.round 0 (stickyAt n v.hi true)
    if a = b || ns.isEmpty then a else sfuTry f neg m e ns

/-- One FP32 lane of a special function (R149). -/
def sfuLane (f : Nat) (b : Nat) : Nat × Flags :=
  let q := Fmt.f32.qnan
  let one := 0x3F800000
  let rnd (x : XR) : Nat × Flags := Fmt.f32.round 0 x
  match Fmt.f32.val b with
  | .nan sig => (q, flagIf sig fNV)
  | .inf neg =>
    match f with
    | 1 | 4 => if neg then (q, fNV) else (Fmt.f32.infB false, 0)
    | 2 => (Fmt.f32.pack neg 0 0, 0)
    | 3 => if neg then (q, fNV) else (0, 0)
    | 7 => (if neg then one + 2 ^ 31 else one, 0)
    | 8 => (if neg then 0 else one, 0)
    | _ => (q, fNV)
  | .fin neg m e =>
    if m = 0 then
      match f with
      | 0 => (one, 0)
      | 1 => (Fmt.f32.infB true, fDZ)
      | 2 | 3 => (Fmt.f32.infB neg, fDZ)
      | 6 => (one, 0)
      | 8 => (0x3F000000, 0)
      | _ => (b, 0)
    else
      let top := e + (Nat.log2 m : Int)
      let prec := [192, 320, 576, 1088]
      match f with
      | 0 => if decide (0 ≤ top) || (top == -1 && m != 2 ^ Nat.log2 m) then (q, fNV) else sfuTry 0 neg m e prec
      | 1 => if neg then (q, fNV)
             else if m = 2 ^ Nat.log2 m then rnd (.fin (decide (top < 0)) top.natAbs 0)
             else sfuTry 1 neg m e prec
      | 2 => rnd (recipX neg m e)
      | 3 => if neg then (q, fNV) else rnd (rsqrtX m e)
      | 4 => if neg then (q, fNV) else rnd (sqrtX m e)
      | 5 =>
        let isInt := decide (0 ≤ e) || m % 2 ^ (-e).toNat == 0
        if isInt then (Fmt.f32.pack neg 0 0, 0)
        else if (2 * m) % 2 ^ (-e).toNat == 0 then
          let k := (2 * m) / 2 ^ (-e).toNat / 2
          (if (k % 2 == 1) != neg then one + 2 ^ 31 else one, 0)
        else sfuTry 5 neg m e prec
      | 6 =>
        let isInt := decide (0 ≤ e) || m % 2 ^ (-e).toNat == 0
        if isInt then
          let odd := if 0 ≤ e then (if e = 0 then m % 2 == 1 else false) else m / 2 ^ (-e).toNat % 2 == 1
          (if odd then one + 2 ^ 31 else one, 0)
        else if (2 * m) % 2 ^ (-e).toNat == 0 then (0, 0)
        else sfuTry 6 neg m e prec
      | 7 => if 5 ≤ top then rnd (.fin neg (2 ^ 65 - 1) (-65)) else sfuTry 7 neg m e prec
      | _ => if 7 ≤ top then (if neg then rnd (.fin false 1 (-200)) else rnd (.fin false (2 ^ 65 - 1) (-65)))
             else sfuTry 8 neg m e prec

/-- Round12 and the estimates (R139): y rounded to 12 significand bits, then delivered with no NX, OF or UF. -/
def estimate : XR → Nat
  | .fin neg m e =>
    let top := e + (Nat.log2 m : Int)
    let r := roundAt 0 neg m e (top - 11)
    let qe := if top - 11 ≤ e then top - 11 else top - 11
    (Fmt.f32.round 0 (.fin neg r.1 qe)).1
  | x => (Fmt.f32.round 0 x).1

/-- vrcpa on one lane (R139). -/
def vrcpaLane (b : Nat) : Nat × Flags :=
  match Fmt.f32.val b with
  | .nan sig => (Fmt.f32.qnan, flagIf sig fNV)
  | .inf neg => (Fmt.f32.pack neg 0 0, 0)
  | .fin neg m e => if m = 0 then (Fmt.f32.infB neg, fDZ) else (estimate (recipX neg m e), 0)

/-- vrsqrta on one lane (R139). -/
def vrsqrtaLane (b : Nat) : Nat × Flags :=
  match Fmt.f32.val b with
  | .nan sig => (Fmt.f32.qnan, flagIf sig fNV)
  | .inf neg => if neg then (Fmt.f32.qnan, fNV) else (0, 0)
  | .fin neg m e =>
    if m = 0 then (Fmt.f32.infB neg, fDZ) else if neg then (Fmt.f32.qnan, fNV) else (estimate (rsqrtX m e), 0)

/-- SignedDiv and UnsignedDiv (R34) on 64 bits. -/
def sdiv (a b : Int) : Int := if b = 0 then 0 else Int.tdiv a b
def srem (a b : Int) : Int := if b = 0 then a else Int.tmod a b

end Sys2Proof.Machine
end

