-- ==== Sys2Proof/Machine/Ops.lean ====
section
/-! DEFINITION. Ops: the named operations over memory, registers, threads and time, and the taking of a fault with its return (R345 to R349). -/

namespace Sys2Proof.Machine

/-- What a meaning answers. -/
abbrev Res := Host.Outcome State Fault Refusal

/-! ### Bytes and lists -/

/-- The number of bytes read little-endian (R1). -/
def leNat : List Byte → Nat
  | [] => 0
  | b :: bs => b.toNat + 256 * leNat bs
/-- The n bytes of a number, lowest first (R1). -/
def leBytes : Nat → Nat → List Byte
  | 0, _ => []
  | n + 1, x => BitVec.ofNat 8 x :: leBytes n (x / 256)

/-- Quads of a byte list (R95, R223). -/
def quadsOf : Nat → List Byte → List Word
  | 0, _ => []
  | n + 1, bs => BitVec.ofNat 64 (leNat (bs.take 8)) :: quadsOf n (bs.drop 8)
def quadBytes (qs : List Word) : List Byte := (qs.map (fun q => leBytes 8 q.toNat)).flatten

/-- What an unlisted address reads as: reset contents are zero (DESIGN CHOICE, log 6). -/
def unlisted (_ : Nat) : Byte := 0

def cellsGet : List Host.Cell → Nat → Byte
  | [], a => unlisted a
  | (k, b) :: cs, a => if k = a then b else cellsGet cs a
/-- Writes one byte, keeping the canonical form. -/
def cellsSet : List Host.Cell → Nat → Byte → List Host.Cell
  | [], a, b => if b = unlisted a then [] else [(a, b)]
  | (k, c) :: cs, a, b =>
    if a < k then (if b = unlisted a then (k, c) :: cs else (a, b) :: (k, c) :: cs)
    else if a = k then (if b = unlisted a then cs else (a, b) :: cs)
    else (k, c) :: cellsSet cs a b
/-- The canonical form: addresses strictly rising from a bound, no entry equal to what an unlisted address reads as. -/
def cellsWfFrom : Option Nat → List Host.Cell → Bool
  | _, [] => true
  | lo, (k, b) :: cs => (match lo with | none => true | some l => decide (l < k)) && b != unlisted k && cellsWfFrom (some k) cs

/-- Sorted sets of keys: poison marks and F bits. -/
def setIns : List Nat → Nat → List Nat
  | [], a => [a]
  | k :: ks, a => if a < k then a :: k :: ks else if a = k then k :: ks else k :: setIns ks a
def setDel (ks : List Nat) (a : Nat) : List Nat := ks.filter (· != a)

/-- Association lists with a default. -/
def alGet {β : Type} (d : β) (k : Nat) : List (Nat × β) → β
  | [] => d
  | (i, x) :: xs => if i = k then x else alGet d k xs
def alSet {β : Type} (k : Nat) (x : β) : List (Nat × β) → List (Nat × β)
  | [] => [(k, x)]
  | (i, y) :: ys => if i = k then (k, x) :: ys else (i, y) :: alSet k x ys

/-! ### Memory (R164, R166, R179) -/

namespace Mem

/-- The canonical form of memory. -/
def wf (m : Mem) : Bool := cellsWfFrom none m.cells

def getB (m : Mem) (a : Nat) : Byte := cellsGet m.cells a
def setB (m : Mem) (a : Nat) (b : Byte) : Mem := { m with cells := cellsSet m.cells a b }
def read (m : Mem) : Nat → Nat → List Byte
  | _, 0 => []
  | a, n + 1 => m.getB a :: read m (a + 1) n
def write : Mem → Nat → List Byte → Mem
  | m, _, [] => m
  | m, a, b :: bs => write (m.setB a b) (a + 1) bs
/-- Drops every byte, mark, F bit and tag whose key lies in a range of byte keys. -/
def clear (m : Mem) (lo n : Nat) : Mem :=
  { m with
    cells := m.cells.filter (fun c => !(decide (lo ≤ c.1) && decide (c.1 < lo + n)))
    poison := m.poison.filter (fun k => !(decide (lo ≤ 128 * k) && decide (128 * k < lo + n)))
    fbit := m.fbit.filter (fun k => !(decide (lo ≤ 8 * k) && decide (8 * k < lo + n)))
    tags := m.tags.filter (fun k => !(decide (lo ≤ 1024 * k.1) && decide (1024 * k.1 < lo + n))) }
def poisoned (m : Mem) (a : Nat) : Bool := m.poison.contains (a / 128)
def setPoison (m : Mem) (a : Nat) : Mem := { m with poison := setIns m.poison (a / 128) }
def clrPoison (m : Mem) (a : Nat) : Mem := { m with poison := setDel m.poison (a / 128) }
def f (m : Mem) (a : Nat) : Bool := m.fbit.contains (a / 8)
def setF (m : Mem) (a : Nat) (x : Bool) : Mem := { m with fbit := if x then setIns m.fbit (a / 8) else setDel m.fbit (a / 8) }
def tag (m : Mem) (a : Nat) : BitVec 16 := alGet 0 (a / 1024) m.tags
def setTag (m : Mem) (a : Nat) (t : BitVec 16) : Mem := { m with tags := alSet (a / 1024) t m.tags }

end Mem

/-! ### Keys of bytes -/

/-- A byte of a core scratchpad. It is keyed by logical names, so a rotation moves nothing (R29, R322). -/
def scrKey (p : Place) (off : Nat) : Nat := 2 ^ 48 + ((p.o * 64 + p.l) * 128 + p.c) * 65536 + off
/-- A byte of a physical slice's scratchpad (R308). -/
def sliceKey (n off : Nat) : Nat := 2 ^ 52 + n * 2 ^ 24 + off
/-- A byte of a physical column stack (R21): 2^27 bytes each. -/
def stackKey (k byte : Nat) : Nat := k * 2 ^ 27 + byte
/-- A byte of a device flash extent (R380). -/
def extKey (e off : Nat) : Nat := 2 ^ 44 + e * 2 ^ 24 + off
/-- A byte of the boot partition (R424). -/
def bootKey (off : Nat) : Nat := 2 ^ 53 + off
/-- A byte past an owner's last stack, which no stack holds: only a table or register of the monitor can name one (DESIGN CHOICE, log 28). -/
def pastKey (o p : Nat) : Nat := 2 ^ 54 + o * 2 ^ 48 + p

namespace State

/-! ### Accessors -/

def owner (s : State) (o : Nat) : Owner := s.owners[Fin.ofNat 16 o]
def setOwner (s : State) (o : Nat) (x : Owner) : State := { s with owners := s.owners.set (Fin.ofNat 16 o) x }
def modOwner (s : State) (o : Nat) (f : Owner → Owner) : State := s.setOwner o (f (s.owner o))
/-- The cycles counted so far: the quartz count with its wraps, so that times compare across a wrap of the 64-bit count (R5). -/
def q (s : State) : Nat := s.clk.wraps * 2 ^ 64 + s.clk.quartz.toNat
def beat (s : State) : Nat := s.q / 8
def modRegs (s : State) (f : MonRegs → MonRegs) : State := { s with regs := f s.regs }
def modMem (s : State) (f : Mem → Mem) : State := { s with mem := f s.mem }
def modGraph (s : State) (f : Graph → Graph) : State := { s with graph := f s.graph }
def modRot (s : State) (f : Rot → Rot) : State := { s with rot := f s.rot }
def modFlash (s : State) (f : Flash → Flash) : State := { s with flash := f s.flash }
def modHost (s : State) (f : HostPort → HostPort) : State := { s with host := f s.host }
def modTrust (s : State) (f : Trust → Trust) : State := { s with trust := f s.trust }
def modMe (s : State) (f : Thread → Thread) : State := { s with me := f s.me }
/-- NSLOT of an owner (R299). -/
def nslot (s : State) (o : Nat) : Nat := bits (s.owner o).cfg.toNat 62 56
def enabled (s : State) (o : Nat) : Bool := bit (s.owner o).cfg.toNat 63
/-- A number that no operation has used yet: program order and arrival order follow it. -/
def newId (s : State) : Nat := s.clk.id
def bump (s : State) : State := { s with clk := { s.clk with id := s.clk.id + 1 } }
/-- The next free value: an opaque constant at the plain counter. -/
def free (s : State) : BitVec 512 := Config.freeBits s.clk.draw
def drawn (s : State) : State := { s with clk := { s.clk with draw := s.clk.draw + 1 } }
def send (s : State) (x : Out) : State := s.modHost (fun h => { h with sent := h.sent ++ [x] })
/-- Adds to one of an owner's metering counters (R434), counted from Q4. -/
def charge (s : State) (o k : Nat) (n : Nat) : State :=
  s.modOwner o (fun x => { x with meter := x.meter.set (Fin.ofNat 14 k) (x.meter[Fin.ofNat 14 k] + BitVec.ofNat 64 n) })

/-- A thread by its number, the issuing one included. -/
def thread? (s : State) (u : Nat) : Option Thread :=
  if s.me.uid = u && u != 0 then some s.me else s.threads.find? (fun t => t.uid == u)
def modThread (s : State) (u : Nat) (f : Thread → Thread) : State :=
  if s.me.uid = u && u != 0 then { s with me := f s.me }
  else { s with threads := s.threads.map (fun t => if t.uid = u then f t else t) }
/-- Every thread that holds or held a row, the issuing one included. -/
def allThreads (s : State) : List Thread := if s.me.uid = 0 then s.threads else s.me :: s.threads
def dropThread (s : State) (u : Nat) : State :=
  { s with me := if s.me.uid = u then {} else s.me, threads := s.threads.filter (fun t => t.uid != u) }

/-- What a core holds, created empty on first use. -/
def core (s : State) (p : Place) : Core := (s.cores.find? (fun c => c.pl = p)).getD { pl := p }
def setCore (s : State) (c : Core) : State :=
  { s with cores := if s.cores.any (fun d => d.pl = c.pl) then s.cores.map (fun d => if d.pl = c.pl then c else d) else s.cores ++ [c] }

/-- A source holds an event of a kind: the arbiter has taken as many as it holds, and an event of the source of that type, owner and function waits there
(R356; DEDUCED, log 105). -/
def heldKind (t : Trust) (e : Ev) : Bool :=
  decide (64 ≤ (t.events.filter (·.seq.isSome)).length) && t.events.any (fun x => x.seq.isNone && x.src == e.src && x.ty == e.ty && x.o == e.o && x.fn == e.fn)
/-- Raises an event toward the arbiter; a source that holds an event raises nothing new of that kind (R354, R356). -/
def raiseEv (s : State) (e : Ev) : State :=
  s.modTrust (fun t => { t with events := if heldKind t e then t.events else t.events ++ [{ e with q := s.q }] })

/-! ### Places and residency (R57, R315, R316, R401) -/

def liveIdx (s : State) : List Nat := (List.range 64).filter (fun k => bit s.regs.livemap.toNat k)
def nlive (s : State) : Nat := s.liveIdx.length
/-- The slot position 8 py + px of a raster index (R26). -/
def posOf (s : State) (idx : Nat) : Nat := s.liveIdx.getD idx 0
def tenancyOf (s : State) (o l : Nat) : Option Tenancy := s.rot.tens.find? (fun t => t.o = o && t.l = l)
def resident (s : State) (o l : Nat) : Bool :=
  match s.tenancyOf o l with
  | none => false
  | some t => alGet 0 t.idx s.rot.cur == t.k && !s.rot.hollow.contains (s.posOf t.idx) && !(s.owner o).frozen

/-! ### Tiles and layers (R19, R21, R26 to R29) -/

/-- The serpentine coordinates of a row position (R28). -/
def uOf (x : Nat) : Nat := if x / 4 % 2 = 0 then x % 4 else 3 - x % 4
/-- The raster index at which a logical slot stands. -/
def idxOf (s : State) (p : Place) : Option Nat := (s.tenancyOf p.o p.l).map (·.idx)
/-- The tile of a place, where its slot is placed. -/
def tileOf (s : State) (p : Place) : Option Nat :=
  (s.idxOf p).map (fun i =>
    let pos := s.posOf i
    let x := p.c % 16
    (pos / 8 * 4 + x / 4) * 32 + pos % 8 * 4 + uOf x)
/-- The physical layer on which a logical layer of a tile's column runs: the spare's where its own core is retired (R29). -/
def physLayer (s : State) (tile y : Nat) : Nat := if s.rot.retired.contains (tile, y) then 8 else y
/-- The number of the bank group at a tile and physical layer (R19). -/
def bankNo (tile layer : Nat) : Nat := 16 * tile + layer
/-- The bank group of a byte of a stack (R21, log 11). -/
def bankKey (key : Nat) : Nat := bankNo (key / 2 ^ 27) (key % 2 ^ 27 / 2 ^ 24)

/-! ### The modulo unit and the keys of locations (R305, R380, R300) -/

def homeSlice (s : State) (o line : Nat) : Nat := let d := (s.owner o).desc.mica; d.getD (line % max 1 d.length) 0
def dramKey (s : State) (o p : Nat) : Nat :=
  let d := (s.owner o).desc.dram
  let l := p / 1024
  if p < 2 ^ 27 * d.length then stackKey (d.getD (l % d.length) 0) (l / d.length * 1024 + p % 1024) else pastKey o p
def dramSize (s : State) (o : Nat) : Nat := 2 ^ 27 * (s.owner o).desc.dram.length
/-- The device extent of an owner's extent number (R300). -/
def extentOf : List (Nat × Nat) → Nat → Option Nat
  | [], _ => none
  | (a, n) :: rs, k => if k < n then some (a + k) else extentOf rs (k - n)
def flashSize (s : State) (o : Nat) : Nat := ((s.owner o).desc.runs.map (·.2)).foldl (· + ·) 0 * 2 ^ 24
def locKey (s : State) : Loc → Nat
  | .scr p off => scrKey p off
  | .slice n off => sliceKey n off
  | .dram o p _ => s.dramKey o p
  | .flash o f => match extentOf (s.owner o).desc.runs (f / 2 ^ 24) with | some e => extKey e (f % 2 ^ 24) | none => extKey 0 0
  | .peer _ _ ia => 2 ^ 60 + ia

/-- A layer of a FAILED column is lost beyond recovery: LOST = 15 names layer 8 (R399). -/
def colGone (c : Column) (layer : Nat) : Bool := c.st == 3 && (c.lost == layer || c.lost2 == layer || (c.lost == 15 && layer == 8))
/-- The column of a stack key, and whether its layer is lost beyond recovery (R399). The layer of a byte is its offset in the stack div 16 MiB (DESIGN CHOICE, log 11). -/
def column (s : State) (k : Nat) : Column := (s.cols.find? (fun c => c.k == k)).getD { k := k }
def setColumn (s : State) (c : Column) : State :=
  { s with cols := if s.cols.any (fun d => d.k == c.k) then s.cols.map (fun d => if d.k == c.k then c else d) else s.cols ++ [c] }
def lostKey (s : State) (key : Nat) : Bool :=
  decide (key < 2 ^ 37) &&
  (let c := s.column (key / 2 ^ 27)
   let layer := key % 2 ^ 27 / 2 ^ 24
   colGone c layer)

/-- The extent record, incomplete until an install completes it (R381). -/
def extent (s : State) (e : Nat) : Extent := (s.flash.exts.find? (fun x => x.e == e)).getD { e := e }
def setExtent (s : State) (x : Extent) : State :=
  s.modFlash (fun f => { f with exts := if f.exts.any (fun y => y.e == x.e) then f.exts.map (fun y => if y.e == x.e then x else y) else f.exts ++ [x] })

/-- Whether a sector of flash reads as poisoned; at or beyond LEN of a complete extent none does (R381, R465). -/
def flashBad (s : State) (key : Nat) : Bool :=
  decide (2 ^ 44 ≤ key) && decide (key < 2 ^ 48) &&
    (let x := s.extent ((key - 2 ^ 44) / 2 ^ 24)
     let off := (key - 2 ^ 44) % 2 ^ 24
     if x.complete && decide (x.len ≤ off) then false
     else (!x.complete && !x.progd.contains (off / 16384)) || s.flash.bad.contains (key / 1024))
/-- The DATA of the events of the sectors of a flash page that fail correction as it is read (R395, R396, R406). -/
def flashFails (s : State) (key : Nat) : List Nat :=
  ((List.range 128).filter (fun i => s.flash.bad.contains ((key + 128 * i) / 1024) && s.flashBad (key + 128 * i))).map (fun i =>
    3 * 2 ^ 48 + (key - 2 ^ 44) / 2 ^ 24 * 2 ^ 24 + (key - 2 ^ 44) % 2 ^ 24 / 128 + i)
/-- The mark of a sector where it is stored: in Shale or a scratchpad, or as its flash reads (R164, R381, R399, R465). -/
def storedBad (s : State) (key : Nat) : Bool := s.mem.poisoned key || s.lostKey key || s.flashBad key

/-- A physical Mica slice (R306 to R309). -/
def slice (s : State) (n : Nat) : Slice := (s.slices.find? (fun x => x.n == n)).getD { n := n }
def setSlice (s : State) (x : Slice) : State :=
  { s with slices := if s.slices.any (fun y => y.n == x.n) then s.slices.map (fun y => if y.n == x.n then x else y) else s.slices ++ [x] }
/-- The Mica line that holds the sector of a byte, and none when no slice holds the sector (R163). -/
def micaHas (s : State) (key : Nat) : Option MicaLine :=
  s.slices.findSome? (fun x => x.lines.find? (fun c => c.line == key / 1024 && c.secs.contains (key % 1024 / 128)))
/-- The Mica line of a byte changes. -/
def modLine (s : State) (key : Nat) (f : MicaLine → MicaLine) : State :=
  { s with slices := s.slices.map (fun (x : Slice) => { x with lines := x.lines.map (fun (c : MicaLine) => if c.line == key / 1024 then f c else c) }) }
/-- Whether the sector that holds a byte reads as poisoned: by the mark of its copy in Mica, else by the mark where it is stored (R164, R396). -/
def poisonedKey (s : State) (key : Nat) : Bool :=
  match s.micaHas key with
  | some c => c.bad.contains (key % 1024 / 128)
  | none => s.storedBad key
/-- The poison mark of a sector is set or cleared: in Mica where the sector is held, else where it is stored (R164, R396). -/
def markPoison (s : State) (key : Nat) (bad : Bool) : State :=
  match s.micaHas key with
  | some _ => s.modLine key (fun c => { c with bad := if bad then setIns c.bad (key % 1024 / 128) else setDel c.bad (key % 1024 / 128) })
  | none => s.modMem (fun m => if bad then m.setPoison key else m.clrPoison key)

/-- Reads n bytes at a location; the byte keys of one access lie in one sector, so they are consecutive. -/
def readLoc (s : State) (l : Loc) (n : Nat) : List Byte := s.mem.read (s.locKey l) n
/-- A write to cacheable DRAM leaves the old bytes to the fetches until a tlbinv covers their page (R340, log 35). -/
def keepCode (s : State) (o p n : Nat) : State :=
  s.modMem (fun m => { m with code := m.code ++ (List.range n).map (fun i => (o, p + i, s.newId, m.getB (s.dramKey o (p + i)))) })
/-- Writes bytes at a location; a lost layer of a FAILED column drops them, but for a sector that Mica holds (R399). -/
def writeLoc (s : State) (l : Loc) (bs : List Byte) : State :=
  if s.lostKey (s.locKey l) && (s.micaHas (s.locKey l)).isNone then s
  else
    let s := match l with | .dram o p .cacheable => s.keepCode o p bs.length | _ => s
    s.modMem (fun m => m.write (s.locKey l) bs)

/-! ### System scope (R268, R272; log 98) -/

/-- Writes become performed at system scope: hosts and peers read the blocks of the writers that p names. -/
def publishBy (s : State) (p : Nat × Nat × Nat → Bool) : State := s.modHost (fun h => { h with outer := h.outer.filter (fun x => !x.writers.any p) })
/-- A write of the device to n bytes of DRAM is not yet performed at system scope: the old bytes of its blocks are kept for hosts and peers. -/
def noteOuter (s : State) (w : Nat × Nat × Nat) (l : Loc) (n : Nat) : State :=
  match l with
  | .dram _ _ _ =>
    let key := s.locKey l
    let blocks := ((List.range n).map (fun i => (key + i) / 16)).eraseDups
    s.modHost (fun h => { h with outer := blocks.foldl (fun (xs : List Outer) b =>
      if xs.any (fun x => x.block == b) then xs.map (fun x => if x.block == b then { x with writers := (x.writers.filter (· != w)) ++ [w] } else x)
      else xs ++ [{ block := b, bytes := s.mem.read (16 * b) 16, writers := [w] }]) h.outer })
  | _ => s
/-- The writer of a request: its owner, its thread's launch, its thread. -/
def writer (s : State) (r : Req) : Nat × Nat × Nat := (r.pl.o, ((s.thread? r.uid).map (·.task.launch)).getD 0, r.uid)
/-- A write of the device at a location. -/
def writeDev (s : State) (w : Nat × Nat × Nat) (l : Loc) (bs : List Byte) : State := (s.noteOuter w l bs.length).writeLoc l bs
/-- A write of a host, a peer or a unit whose records are performed at system scope; the blocks that it meets are performed there too. -/
def writeOut (s : State) (l : Loc) (bs : List Byte) : State :=
  let key := s.locKey l
  (s.modHost (fun h => { h with outer := h.outer.filter (fun x => !(match l with | .dram _ _ _ => decide (key < 16 * x.block + 16) && decide (16 * x.block < key + bs.length) | _ => false)) })).writeLoc l bs
/-- The bytes that hosts and peers read. -/
def readOut (s : State) (l : Loc) (n : Nat) : List Byte :=
  let key := s.locKey l
  (List.range n).map (fun i =>
    match s.host.outer.find? (fun x => x.block == (key + i) / 16) with
    | some x => x.bytes.getD ((key + i) % 16) 0
    | none => s.mem.getB (key + i))

/-- Platform addresses are DRAM offsets of owner 0 (R333). -/
def platRead (s : State) : Nat → Nat → List Byte
  | _, 0 => []
  | a, n + 1 => s.mem.getB (s.dramKey 0 a) :: platRead s (a + 1) n
/-- The home drops every L1 copy of a line that a unit of the device writes (R163). -/
def dropCopies (s : State) (line : Nat) : State := { s with l1 := s.l1.filter (fun (x : L1Line) => x.line != line) }
def platWrite : State → Nat → List Byte → State
  | s, _, [] => s
  | s, a, b :: bs => platWrite ((s.modMem (fun m => m.setB (s.dramKey 0 a) b)).dropCopies (s.dramKey 0 a / 128)) (a + 1) bs
def platNat (s : State) (a n : Nat) : Nat := leNat (s.platRead a n)
def platPoisoned (s : State) (a : Nat) : Bool := s.poisonedKey (s.dramKey 0 a)

/-! ### Registers of the issuing thread -/

end State

/-- A register is pending from issue until every long result addressed to it has landed (R64). -/
def Thread.pendMask (t : Thread) : Nat :=
  t.ops.foldl (fun m o => match o.dest with | some (.s k) => m ||| 2 ^ k.val | some (.v k) => m ||| 2 ^ (16 + k.val) | none => m) 0
/-- The limit of R66. -/
def Thread.full (t : Thread) : Bool := decide (16 ≤ (t.ops.filter (·.counts)).length)
/-- A later write discards the long results still addressed to the register (R65). -/
def discardOps (d : Dest) (ops : List Op) : List Op := ops.map (fun o => if o.dest = some d then { o with disc := true } else o)

/-- An operation joins the thread's list; the earlier results still addressed to its destination are discarded (R65). -/
def Thread.addOp (t : Thread) (o : Op) : Thread :=
  { t with ops := (match o.dest with | some d => discardOps d t.ops | none => t.ops) ++ [o] }

/-- Writes s[d]; in a stream s15 and s14 are the link values (R209). -/
def Thread.setS (t : Thread) (d : Fin 16) (x : Word) : Thread :=
  let t := { t with ops := discardOps (.s d) t.ops }
  if t.strm.isSome && d == 15 then { t with links := { t.links with e := x } }
  else if t.strm.isSome && d == 14 then { t with links := { t.links with u := x } }
  else { t with s := t.s.set d x }
/-- Writes v[d]; in a stream v15 and v14 are the link values (R209). -/
def Thread.setV (t : Thread) (d : Fin 16) (x : VWord) : Thread :=
  let t := { t with ops := discardOps (.v d) t.ops }
  if t.strm.isSome && d == 15 then { t with links := { t.links with ev := x } }
  else if t.strm.isSome && d == 14 then { t with links := { t.links with uv := x } }
  else { t with v := t.v.set d x }
/-- The register write of a long result; in a stream registers 15 and 14 are the link values (R65, R209). -/
def Thread.landReg (t : Thread) (o : Op) : Thread :=
  match o.dest, o.res with
  | some (.s d), some v =>
    if t.strm.isSome && d == 15 then { t with links := { t.links with e := v.setWidth 64 } }
    else if t.strm.isSome && d == 14 then { t with links := { t.links with u := v.setWidth 64 } }
    else { t with s := t.s.set d (v.setWidth 64) }
  | some (.v d), some v =>
    if t.strm.isSome && d == 15 then { t with links := { t.links with ev := v } }
    else if t.strm.isSome && d == 14 then { t with links := { t.links with uv := v } }
    else { t with v := t.v.set d v }
  | _, _ => t
/-- An atomic region breaks (R189): its loads leave the thread's operations, what they had discarded is no longer discarded, and results that have
landed since are written. -/
def Thread.breakRegion (t : Thread) : Thread :=
  match t.region with
  | none => t
  | some r =>
    r.late.foldl Thread.landReg { t with region := none, ops := (t.ops.filter (fun o => o.grp != r.grp)).map (fun o =>
      if r.discs.contains o.id then { o with disc := false } else o) }
/-- Writes q[d]; a write to q7 is ignored (R60, R105). -/
def setBit (w : BitVec 8) (d : Nat) (x : Bool) : BitVec 8 :=
  if x then w ||| BitVec.ofNat 8 (2 ^ d) else w &&& ~~~(BitVec.ofNat 8 (2 ^ d))
def Thread.setP (t : Thread) (d : Fin 16) (x : Bool) : Thread :=
  { t with pw := setBit t.pw d.val x ||| 0x80 }
/-- A read of predicate k; q7 reads 1 (R60, R105). -/
def predBit (pw : BitVec 8) (k : Nat) : Bool := k == 7 || bit pw.toNat k
/-- ORs flags into FCSR (R41). -/
def Thread.orFlags (t : Thread) (f : Flags) : Thread := { t with fcsr := t.fcsr ||| f.setWidth 64 }
/-- FCSR.RM (R40). -/
def Thread.rm (t : Thread) : RM := bits t.fcsr.toNat 9 8

namespace State

/-- Source registers as the bundle read them (R68). -/
def rS (s : State) (k : Fin 16) : Word := s.iss.src.s[k]
def rV (s : State) (k : Fin 16) : VWord := s.iss.src.v[k]
def rP (s : State) (k : Fin 16) : Bool := predBit s.iss.src.pw k.val
def rm (s : State) : RM := s.iss.src.rm
def wS (s : State) (d : Fin 16) (x : Word) : State := { s with me := s.me.setS d x }
def wV (s : State) (d : Fin 16) (x : VWord) : State := { s with me := s.me.setV d x }
def wP (s : State) (d : Fin 16) (x : Bool) : State := { s with me := s.me.setP d x }
def orF (s : State) (f : Flags) : State := { s with me := s.me.orFlags f }
def inStream (s : State) : Bool := s.me.strm.isSome
def status (s : State) (x : Status) : State := { s with iss := { s.iss with status := x } }
def setPc (s : State) (pc : Addr) : State := { s with me := { s.me with pc := pc } }

/-! ### Faults -/

end State

/-- TakeFault (R347): to the handler at TRAPB, or the thread ends as failed. -/
def Thread.takeFault (t : Thread) (f : FaultRec) : Thread :=
  if t.trapb = 0 || t.fcode != 0 then { t with park := .dead f }
  else { t with fpc := f.fpc &&& ~~~3#48, faddr := f.faddr, fcode := BitVec.ofNat 16 (f.code + f.sub * 256), pc := t.trapb }

/-- The held fault whose operation is earliest in program order (R345). -/
def firstHeld : List FaultRec → Option FaultRec
  | [] => none
  | f :: fs => match firstHeld fs with
    | none => some f
    | some g => if g.op < f.op then some g else some f

/-- A point of reckoning (R345, R348): the earliest ready fault is taken, the others are discarded; none is taken inside a handler. -/
def Thread.reckon (t : Thread) : Thread :=
  if t.fcode != 0 then t
  else match firstHeld t.held with
    | none => t
    | some f => { t with held := [] }.takeFault f

/-- A fault is ready to be taken at a point of reckoning outside a handler (R345, R348). -/
def Thread.willTrap (t : Thread) : Bool := t.fcode == 0 && !t.held.isEmpty
/-- The wait at an exit, a fence or a step is over: a ready fault is taken there; otherwise a pair that waited is issued again and performed (R110, R345). -/
def Thread.passOn (t : Thread) : Thread := { t.reckon with woken := true, pass := if t.pass = 1 && !t.willTrap then 2 else 0 }

/-- rte (R349): PC := FPC and FCODE := 0. -/
def Thread.rte (t : Thread) : Thread := { t with pc := t.fpc, fcode := 0 }

/-- The report of a fault in a stream is kept when it is the first by stream index, then by logical core (R216). -/
def Stream.noteFault (st : Stream) (core idx : Nat) (l : Nat) (f : FaultRec) : Stream :=
  let rep : FailRep := { stidx := idx, lslot := l, lcore := core, fcode := f.code + f.sub * 256, fpc := f.fpc, faddr := f.faddr, tid := st.tid }
  match st.fail with
  | none => { st with fail := some (idx, rep) }
  | some (i, r) => if idx < i || (idx == i && core < r.lcore) then { st with fail := some (idx, rep) } else st

namespace State

def stream? (s : State) (sid : Nat) : Option Stream := s.graph.streams.find? (fun x => x.id == sid)
def modStream (s : State) (sid : Nat) (f : Stream → Stream) : State :=
  s.modGraph (fun g => { g with streams := g.streams.map (fun x => if x.id == sid then f x else x) })
/-- The offset of a core in its stream: x in a row, x + y in a sheet (R208). -/
def streamOff (st : Stream) (c : Nat) : Nat := match st.layer with | some _ => c % 16 | none => c % 16 + c / 16
/-- The stream index that a core performs at the present stream beat (R208). -/
def streamIdx (st : Stream) (c : Nat) : Nat := st.beat.getD 0 - streamOff st c

/-- An issue-time fault of the bundle (R82, R345): precise at the bundle; in a region, at its areg bundle (R189); in a stream it ends the stream (R216). -/
def raise (s : State) (code sub : Nat) (faddr : Addr) : State :=
  let fpc := match s.me.region with | some r => r.b | none => s.iss.b
  let f : FaultRec := { op := s.newId, code := code, sub := sub, fpc := fpc, faddr := faddr }
  match s.me.strm with
  | some sid =>
    (s.modStream sid (fun st => st.noteFault s.me.pl.c (streamIdx st s.me.pl.c) s.me.pl.l f)).status .trapped
  | none => { s with me := { s.me.breakRegion with pc := fpc }.takeFault f }.status .trapped

/-- The bundle is not performed: the thread rewinds to it, or to its areg bundle, and parks (R66, R165, R189, R342). A load of a region that meets the limit of
R66 breaks the region too: R189 names only faults and TLB misses (DESIGN CHOICE, log 129). -/
def rewind (s : State) (p : Park) : State :=
  let pc := match s.me.region with | some r => r.b | none => s.iss.b
  { s with me := { s.me.breakRegion with pc := pc, park := p, woken := false } }.status .parked

/-- The thread parks after the bundle, which is performed (R186, R193). -/
def parkAfter (s : State) (p : Park) : State := { s with me := { s.me with park := p, woken := false } }

/-- Issues a long or posted operation: it joins the thread's operations, with the home that its reply comes from, and its request goes out. -/
def issueOp (s : State) (o : Op) (r : Req) : State :=
  { s with me := s.me.addOp { o with src := some r.loc }, net := s.net ++ [r] }.bump

/-- An operation record for the issuing bundle, with its stream index in a stream (R216). -/
def newOp (s : State) : Op :=
  { id := s.newId, fpc := s.iss.b, sidx := match s.me.strm.bind s.stream? with | some st => streamIdx st s.me.pl.c | none => 0 }
def newReq (s : State) (k : ReqKind) (l : Loc) (ea : Addr) : Req :=
  { id := s.newId, uid := s.me.uid, pl := s.me.pl, fpc := s.iss.b, ea := ea, loc := l, kind := k }

/-- An operation of a thread is done: a result with a destination waits for its landing, anything else leaves the list, and its fault is held (R345). -/
def finishOp (s : State) (uid id : Nat) (res : VWord) (fl : Flags) (flt : Option FaultRec) : State :=
  s.modThread uid (fun t =>
    { t with
      ops := (t.ops.map (fun o => if o.id = id then { o with res := some res, flags := fl, fault := flt } else o)).filter
        (fun o => !(o.id == id && o.dest.isNone))
      woken := t.woken || (t.park == Park.limit && t.ops.any (fun o => o.id == id && o.dest.isNone && o.counts))
      held := if t.ops.any (fun o => o.id == id && o.dest.isNone) then t.held ++ flt.toList else t.held })

end State

end Sys2Proof.Machine
end

