-- ==== Sys2Proof/Machine/Translate.lean ====
section
/-! DEFINITION. Translate: the address map, buffer pairs, the two-stage walk, permissions, and the resolution of an access
(R153 to R157, R256, R333 to R343, R374). -/

namespace Sys2Proof.Machine

/-- What an address names before translation (R154). -/
inductive Region154
  | translated (va : Nat)
  | scr (p : Place) (off : Nat)
  | slice (phys off : Nat)
  | none
deriving DecidableEq, Repr

namespace State

/-- The size of a slice scratchpad in the check of R156, in bytes. -/
def sliceSize (s : State) (n : Nat) : Nat := ((s.slices.find? (fun x => x.n == n)).getD { n := n }).size * 2 ^ 20

/-- The address map (R154), for a thread, copy unit or engine of a place. -/
def region (s : State) (p : Place) (ea : Addr) : Region154 :=
  let a := ea.toNat
  let top := bits a 47 44
  if top < 8 then .translated (a % 2 ^ 47)
  else if top = 8 then (if bits a 43 16 = 0 then .scr p (bits a 15 0) else .none)
  else if top = 9 then
    (if bits a 43 31 = 0 && decide (bits a 30 23 < s.nslot p.o) then .scr ⟨p.o, bits a 30 23, bits a 22 16⟩ (bits a 15 0) else .none)
  else if top = 10 then
    let d := (s.owner p.o).desc.mica
    let k := bits a 29 24
    (if bits a 43 30 = 0 && decide (k < d.length) && decide (bits a 23 0 < s.sliceSize (d.getD k 0)) then .slice (d.getD k 0) (bits a 23 0) else .none)
  else .none

/-! ### Walks -/

/-- Levels as (high bit, low bit) of the address bits they index, with the page size of a leaf (R335). -/
def levels : List (Nat × Nat) := [(46, 39), (38, 30), (29, 21), (20, 16)]

/-- An entry's next table or page address (R336). -/
def entOA (e : Nat) : Nat := bits e 47 12 * 4096

/-- The entry is malformed at a level whose page size is 2^lo (R338): leaf at level 0, no leaf at level 3, or low bits of OA not zero. -/
def entBad (e lo : Nat) (stage1 : Bool) : Bool :=
  let leaf := bit e 1
  (leaf && lo == 39) || (!leaf && lo == 16) ||
  (leaf && (entOA e % 2 ^ lo != 0 || (stage1 && (bit e 47 || bits e 5 4 == 3))))

/-- Result of a stage 2 lookup. -/
structure S2 where
  space : Nat
  sync : Bool
  out : Nat
  size : Nat
  w : Bool
  x : Bool
deriving DecidableEq, Repr

/-- What a walk leaves beside its answer: the table entries it read, at their homes, and the non-leaf entries it met (R337, R341). -/
structure Trail where
  reads : List Loc := []
  fills : List WEnt := []
  held : Option Nat := none
deriving DecidableEq, Repr

/-- A non-leaf entry that a slot's walk caches hold (R341); a walk for no slot has none. -/
def cachedEnt (s : State) (o : Nat) (w : Option Nat) (stage lo a : Nat) : Option Nat :=
  w.bind (fun l => (s.wcache.find? (fun x => x.o == o && x.l == l && x.stage == stage && x.lo == lo && x.tag == a / 2 ^ lo)).map (·.e))
def Trail.fill (t : Trail) (o : Nat) (w : Option Nat) (stage lo a e : Nat) : Trail :=
  match w with | some l => { t with fills := t.fills ++ [{ o := o, l := l, stage := stage, lo := lo, tag := a / 2 ^ lo, e := e }] } | none => t

/-- A stage 2 walk from a table at a platform address, through the walk caches of a slot (R335, R337, R338, R341). -/
def walk2 (s : State) (o : Nat) (w : Option Nat) (ia : Nat) : List (Nat × Nat) → Nat → Trail → Except Nat S2 × Trail
  | [], _, t => (.error 3, t)
  | (hi, lo) :: ls, tbl, t =>
    match s.cachedEnt o w 2 lo ia with
    | some e => walk2 s o w ia ls (entOA e) t
    | none =>
      let a := tbl + 8 * bits ia hi lo
      let t := { t with reads := t.reads ++ [.dram 0 a .cacheable] }
      if s.platPoisoned a then (.error 6, t)
      else
        let e := s.platNat a 8
        if !bit e 0 then (.error 2, t)
        else if entBad e lo false then (.error 3, t)
        else if bit e 1 then (.ok { space := bits e 4 4, sync := bit e 5, out := entOA e + ia % 2 ^ lo, size := lo, w := bit e 6, x := bit e 7 }, t)
        else walk2 s o w ia ls (entOA e) (t.fill o w 2 lo ia e)

/-- The peer entry of an owner that covers an IA (R373, R374): its number, and the remote address. -/
def peerOf (s : State) (o ia : Nat) : Option (Nat × Nat) :=
  (List.range 16).findSome? (fun k =>
    let b := s.regs.ixtb.toNat + 4096 + 512 * o + 32 * k
    let q0 := s.platNat b 8
    let base := bits q0 47 16 * 65536
    if bit q0 0 && decide (base ≤ ia) && decide (ia < base + s.platNat (b + 8) 8) then some (k, s.platNat (b + 16) 8 + (ia - base)) else none)

/-- A stage 2 lookup with the output range check (R334, R338). -/
def stage2T (s : State) (o : Nat) (w : Option Nat) (ia : Nat) (t : Trail) : Except Nat S2 × Trail :=
  let rt := (s.owner o).s2act.toNat
  if !bit rt 0 then (.error 2, t)
  else match s.walk2 o w ia levels (bits rt 47 12 * 4096) t with
    | (.error e, t) => (.error e, t)
    | (.ok r, t) =>
      (if (r.space = 0 && decide (s.dramSize o ≤ r.out)) || (r.space = 1 && decide (s.flashSize o ≤ r.out)) then .error 4
       else if r.space = 1 && r.sync then .error 5 else .ok r, t)
/-- The lookup of a party that has no slot: a host function, a peer, Slate. -/
def stage2 (s : State) (o ia : Nat) : Except Nat S2 := (s.stage2T o none ia {}).1

/-- Whether a DRAM page of an owner is still to be pulled (R419). -/
def pullPending (s : State) (o p : Nat) : Bool :=
  let c := (s.owner o).pullcfg.toNat
  bit c 63 && bit (s.platNat (bits c 47 12 * 4096 + p / 65536 / 8) 1) (p / 65536 % 8)
/-- The bytes that the entry of a leaf serves: the smaller page of both stages, and less where it would reach past the owner's DRAM or flash, so that an
access there is walked and fails (R338, subcode 4); the translation's page stays the smaller one (R336). -/
def leafSize (s : State) (o : Nat) (r : S2) (lo : Nat) : Nat :=
  let sz := min lo r.size
  if sz = 30 && decide ((if r.space = 0 then s.dramSize o else s.flashSize o) < r.out / 2 ^ 30 * 2 ^ 30 + 2 ^ 30) then 21 else sz
/-- The leaf of a stage 1 walk: its output by stage 2, or a peer's line, its kind and its permissions (R336, R338, R374). -/
def leaf1 (s : State) (o : Nat) (w : Option Nat) (va e lo : Nat) (t : Trail) : Except Nat Tlb × Trail :=
  let ia := entOA e + va % 2 ^ lo
  let k := bits e 5 4
  match s.peerOf o ia with
  | some (n, ra) =>
    (if k != 0 then .error 5
     else .ok { o := o, l := 0, page := va / 2 ^ 16 * 2 ^ 16, size := 16, space := 2, out := ra / 2 ^ 16 * 2 ^ 16, ia := ia / 2 ^ 16 * 2 ^ 16,
                kind := .cacheable, w := bit e 6, x := false, peer := some n, span := lo }, t)
  | none =>
    match s.stage2T o w ia t with
    | (.error f, t) => (.error f, t)
    | (.ok r, t) =>
      (if (k = 1) != (r.space = 1) then .error 5
       else if k = 2 && !r.sync then .error 5
       else if k = 0 && r.sync then .error 5
       else
         let sz := s.leafSize o r lo
         let kd := if k = 0 then Kind.cacheable else if k = 1 then Kind.weight else Kind.sync
         .ok { o := o, l := 0, page := va / 2 ^ sz * 2 ^ sz, size := sz, space := r.space, out := r.out / 2 ^ sz * 2 ^ sz,
               ia := ia / 2 ^ sz * 2 ^ sz, kind := kd, w := bit e 6 && r.w, x := bit e 7 && r.x, span := min lo r.size }, t)
/-- A stage 1 walk from a table at an IA; each table is itself found by stage 2, and the walk caches of the slot stand before both (R337, R338, R341).
An IA inside a peer range is not looked up, and a table there maps to no SPACE 0: subcode 5 (R337, R374; DEDUCED, log 116).
Error 0: a table lies in a page that is still to be pulled, and the walk waits there (R419). -/
def walk1 (s : State) (o : Nat) (w : Option Nat) (va : Nat) : List (Nat × Nat) → Nat → Trail → Except Nat Tlb × Trail
  | [], _, t => (.error 3, t)
  | (hi, lo) :: ls, tbl, t =>
    match s.cachedEnt o w 1 lo va with
    | some e => walk1 s o w va ls (entOA e) t
    | none =>
      match (if (s.peerOf o (tbl + 8 * bits va hi lo)).isSome then (.error 5, t) else s.stage2T o w (tbl + 8 * bits va hi lo) t) with
      | (.error e, t) => (.error e, t)
      | (.ok r, t) =>
        if r.space = 1 || r.sync then (.error 5, t)
        else
          let key := s.dramKey o r.out
          if s.pullPending o r.out then (.error 0, { t with held := some (r.out / 65536) })
          else
            let t := { t with reads := t.reads ++ [.dram o r.out .cacheable] }
            if s.poisonedKey key then (.error 6, t)
            else
              let e := leNat (s.mem.read key 8)
              if !bit e 0 then (.error 1, t)
              else if entBad e lo true then (.error 3, t)
              else if bit e 1 then s.leaf1 o w va e lo t
              else walk1 s o w va ls (entOA e) (t.fill o w 1 lo va e)

/-- A whole walk for a slot's VA (R338): a TLB entry, or the subcode of TRANSLATION. -/
def walkT (s : State) (o l va : Nat) : Except Nat Tlb × Trail :=
  let rt := (s.owner o).s1act.toNat
  if !bit rt 0 then (.error 1, {}) else
    let r := s.walk1 o (some l) va levels (bits rt 47 12 * 4096) {}
    (r.1.map (fun t => { t with l := l }), r.2)
def walk (s : State) (o l va : Nat) : Except Nat Tlb := (s.walkT o l va).1

/-- The page of an entry's translation, as its first address and its size, and whether it holds an address (R336, R344). -/
def tlbPage (t : Tlb) : Nat × Nat := let n := max t.size t.span; (t.page / 2 ^ n * 2 ^ n, n)
def tlbNames (t : Tlb) (va : Nat) : Bool := let p := tlbPage t; decide (p.1 ≤ va) && decide (va < p.1 + 2 ^ p.2)
/-- The TLB entry that covers a VA for a core: its own, or that of its slot's second-level TLB (R341). -/
def tlbHit (s : State) (p : Place) (va : Nat) : Option Tlb :=
  s.tlb.find? (fun t => t.o == p.o && t.l == p.l && (t.c.isNone || t.c == some p.c) && decide (t.page ≤ va) && decide (va < t.page + 2 ^ t.size))
/-- An entry joins a TLB of n entries; which entry a full TLB gives up no rule says: a free value (R341, log 78). -/
def putTlb (s : State) (n : Nat) (t : Tlb) : State :=
  let mine := s.tlb.filter (fun x => x.o == t.o && x.l == t.l && x.c == t.c)
  if mine.length < n then { s with tlb := s.tlb ++ [t] }
  else let out := mine[s.free.toNat % n]?; { s.drawn with tlb := s.tlb.filter (fun x => some x != out) ++ [t] }
/-- A walk that succeeds fills the TLBs of its core and its slot and the slot's walk caches (R341, R342). -/
def fillTlb (s : State) (c : Nat) (t : Tlb) (fills : List WEnt) : State :=
  let s := (s.putTlb 4096 { t with c := none }).putTlb 64 { t with c := some c }
  { s with wcache := s.wcache ++ fills }

/-- The location that a TLB entry gives an address. -/
def tlbLoc (t : Tlb) (va : Nat) : Loc :=
  let off := t.out + (va - t.page)
  match t.peer with
  | some n => .peer t.o n off
  | none => if t.space = 1 then .flash t.o off else .dram t.o off t.kind

/-- Buffer pairs (R256): the backing that an access reaches; shadow destinations reach the other one, or the one a command has selected. -/
def pairOf (s : State) (o va : Nat) : Option Pair :=
  (s.owner o).pairs.find? (fun p => decide (p.vbase ≤ va) && decide (va < p.vbase + p.size))
def backed (p : Pair) (cur : Bool) (va : Nat) : Nat := ((if cur then p.back1 else p.back0) + (va - p.vbase)) % 2 ^ 47
def viaPair (s : State) (o va : Nat) : Nat :=
  match s.pairOf o va with
  | some p => backed p p.cur va
  | none => va

/-! ### Resolution -/

/-- The use of an access, for the checks of R157, R178 and R339. -/
inductive Use
  | load | store
  | syncRd | syncWr
  | atomic
  | regionRd | regionWr
deriving DecidableEq, Repr

def Use.writes : Use → Bool
  | .store | .syncWr | .atomic | .regionWr => true
  | _ => false

/-- What an access finds. -/
inductive Found
  | at (l : Loc)
  | flt (code sub : Nat)
  | miss (va : Nat)
deriving DecidableEq, Repr

/-- Permission and kind checks after a successful walk (R157, R178, R339, R374), places 3 and 4 of R174. No rule gives subcode 6 of a region word off
cacheable pages a place among the causes of R174; the page kind is tested before W = 0 (DESIGN CHOICE, log 118). -/
def permit (t : Tlb) (u : Use) (l : Loc) : Found :=
  let weightW := u.writes && t.kind == .weight && u != .syncWr && u != .regionWr
  match u with
  | .syncRd | .syncWr =>
    if t.peer.isSome || t.kind != .sync then .flt 5 0
    else if u == .syncWr && !t.w then .flt 5 1 else .at l
  | .regionRd | .regionWr =>
    if t.peer.isSome then .flt 5 0
    else if t.kind != .cacheable then .flt 1 6
    else if u == .regionWr && !t.w then .flt 5 1 else .at l
  | _ => if weightW then .flt 6 0 else if u.writes && !t.w then .flt 5 1 else .at l

/-- Places 1 to 4 of R174 for an access of n bytes by the issuing thread. -/
def resolve (s : State) (ea : Addr) (n : Nat) (u : Use) : Found :=
  if ea.toNat % n != 0 then .flt 3 0
  else match s.region s.me.pl ea with
    | .none => .flt 7 0
    | .scr p off => (match u with | .syncRd | .syncWr => .flt 5 0 | .regionRd | .regionWr => .flt 1 6 | _ => .at (.scr p off))
    | .slice k off => (match u with | .syncRd | .syncWr => .flt 5 0 | .regionRd | .regionWr => .flt 1 6 | _ => .at (.slice k off))
    | .translated va =>
      let va := s.viaPair s.me.pl.o va
      match s.tlbHit s.me.pl va with
      | some t => permit t u (tlbLoc t va)
      | none => .miss va

/-- A walk is shared by the misses to one page from one slot (R342). -/
def startWalk (s : State) (va : Nat) : State × Nat :=
  let pg := va / 2 ^ 16
  match s.walks.find? (fun w => w.o == s.me.pl.o && w.l == s.me.pl.l && w.va / 2 ^ 16 == pg) with
  | some w => (s, w.id)
  | none =>
    (State.bump { s with walks := s.walks ++ [{ id := s.newId, o := s.me.pl.o, l := s.me.pl.l, va := va, gen := (s.owner s.me.pl.o).gen }] }, s.newId)

/-- A TLB miss rewinds and parks the thread until the walk ends (R342). -/
def missAt (s : State) (va : Nat) (ea : Addr) (fetch : Bool) : State :=
  let r := s.startWalk va
  r.1.rewind (.walk r.2 ea fetch)

/-- Translation for a party that is no thread: the TLBs serve it, and a walk is sampled as a whole. -/
def xlate (s : State) (p : Place) (va : Nat) : Except Nat Tlb :=
  match s.tlbHit p va with
  | some t => .ok t
  | none => s.walk p.o p.l va

/-! ### Pull pages and installs that hold an access back (R390, R419) -/

/-- Whether an install acts on the extent of a flash location (R390). -/
def installing (s : State) (o f : Nat) : Bool :=
  match extentOf (s.owner o).desc.runs (f / 2 ^ 24) with
  | some e => s.flash.installs.any (fun i => i.ext == e && (i.st == .waiting || i.st == .checks || i.st == .erasing || i.st == .programming))
  | none => false
def heldBack (s : State) : Loc → Bool
  | .dram o p _ => s.pullPending o p
  | .flash o f => s.installing o f
  | _ => false

end State

/-! ### Channels (R165, R252, R254) -/

/-- The number of leading marked sectors. -/
def leadMarks : List Bool → Nat
  | true :: ms => leadMarks ms + 1
  | _ => 0
/-- The watermark WM (R252). -/
def Chan.wm (c : Chan) : Nat := if c.size = 0 then 0 else c.base + 128 * leadMarks c.marks
/-- The channel condition on n bytes at an offset (R165, R252). -/
def Chan.blocks (c : Chan) (off n : Nat) : Bool :=
  c.size != 0 && decide (c.wm < off + n) && decide (off < c.base + c.size) && decide (c.base < off + n) && decide (c.wm < c.base + c.size)

namespace State

/-- The channel of a core whose condition holds, one in its error state first (R254). -/
def chanAt (s : State) (p : Place) (off n : Nat) : Option Chan :=
  let cs := ((s.core p).chans.map (·.2)).filter (fun c => c.blocks off n)
  (cs.find? (·.err.isSome)).or cs.head?

/-- The channel check of an access to the thread's own scratchpad: pass, park, or the fault of an error state (R165, R254). -/
inductive ChanRes | pass | park | err (code sub : Nat)
deriving DecidableEq, Repr

def chanCheck (s : State) (p : Place) (off n : Nat) : ChanRes :=
  match s.chanAt p off n with
  | none => .pass
  | some c => match c.err with
    | none => .park
    | some (code, sub) => .err code sub

/-! ### L1 (R161 to R163) -/

/-- The line key of a location that an L1 may hold, and none for the others (R157). -/
def lineOf (s : State) : Loc → Option Nat
  | .dram o p .cacheable => some (s.dramKey o p / 128)
  | .flash o f => some (s.locKey (.flash o f) / 128)
  | _ => none
/-- A record fuses the L1s of a slot, by its own fields or by those of a node (R162, R282). -/
def fuses (r : Rec) (l : Nat) : Bool := (r.q :: r.nodes.map (·.q)).any (fun q => bit (q.getD 0 0).toNat 6 && bits (q.getD 3 0).toNat 7 0 == l)
/-- Whether a launch has fused the L1s of a slot (R162). -/
def fused (s : State) (o l : Nat) : Bool := s.graph.launches.any (fun x => x.r.o == o && fuses x.r l)
/-- The core whose L1 serves an address for a core: itself, or in a fused slot the core that its line number names (R162). -/
def l1Core (s : State) (p : Place) (ea : Addr) : Place := if s.fused p.o p.l then ⟨p.o, p.l, ea.toNat / 128 % 128⟩ else p
/-- The copy of a line that a core's loads hit; none is hit for an owner that is not resident (R161, R162). -/
def l1Copy (s : State) (p : Place) (line : Nat) : Option L1Line :=
  if s.resident p.o p.l then s.l1.find? (fun x => x.line == line && (if x.fused then x.pl.o == p.o && x.pl.l == p.l else x.pl == p)) else none
/-- The line stands in the L1 that serves the core. -/
def inOwnL1 (s : State) (p : Place) (line : Nat) : Bool := (s.l1Copy p line).isSome
/-- The line stands in the core's own unfused L1, which the core's stores update at once (R161, R260). -/
def ownCopy (s : State) (p : Place) (line : Nat) : Bool := match s.l1Copy p line with | some x => !x.fused | none => false
/-- A line's sharer pointers name an L1 that may hold a sector of it; a fifth marks the line as overflowed (R163). -/
def addSharer (fz : Bool) (p : Place) (c : MicaLine) : MicaLine :=
  if c.sharers.contains (fz, p) then c else if c.sharers.length < 4 then { c with sharers := c.sharers ++ [(fz, p)] } else { c with spread := true }
/-- A line is filled into the L1 that serves a core, with its sector's poison mark; an L1 of 16 KiB holds 128 lines, and which one a fill displaces no rule
says: a free value (R161, log 79). -/
def fillL1 (s : State) (p : Place) (ea : Addr) (loc : Loc) : State :=
  match s.lineOf loc with
  | none => s
  | some k =>
    let c := s.l1Core p ea
    let e : L1Line := { pl := c, fused := s.fused p.o p.l, o := p.o, line := k, bad := s.poisonedKey (128 * k) }
    if s.l1.any (fun x => x.pl == c && x.fused == e.fused && x.line == k) then s
    else
      let s := s.modLine (128 * k) (addSharer e.fused (if e.fused then { c with c := 0 } else c))
      let mine := s.l1.filter (fun x => x.pl == c)
      if mine.length < 128 then { s with l1 := s.l1 ++ [e] }
      else
        let out := mine[s.free.toNat % 128]?
        { s.drawn with l1 := s.l1.filter (fun x => some x != out) ++ [e] }
/-- The home invalidates the copies of a sector, but for the copy that the storing core's store updates: its own, or its slot's fused one (R162, R163). -/
def invalL1 (s : State) (line : Nat) (keep : Option Place) : State :=
  { s with l1 := s.l1.filter (fun x => x.line != line || (match keep with
      | some p => if x.fused then x.pl.o == p.o && x.pl.l == p.l else x.pl == p
      | none => false)) }

end State

end Sys2Proof.Machine
end

