-- ==== Sys2Proof/Machine/Mica.lean ====
section
/-! DEFINITION. Mica: the flash staging cache, the home slices as caches, and what an access at a home leaves there
(R163, R164, R171, R305 to R307, R337, R382, R396, R434). -/

namespace Sys2Proof.Machine

namespace State

/-! ### The flash staging cache (R382, R383) -/

/-- A page of flash is read for a miss; the staging cache answers when it holds the page. A staging fill is stored as owner DRAM, with the marks of its read, and
each sector that fails correction in a read of flash is to post its event (R382, R395, R396, R434). -/
def stagingRead (s : State) (o f : Nat) : State :=
  let sets := bits (s.owner o).stgcfg.toNat 15 0
  let p := f / 16384
  let key := s.locKey (.flash o (f / 16384 * 16384))
  let read := s.modFlash (fun fl => { fl with errs := fl.errs ++ s.flashFails key })
  if sets = 0 then read.charge o 6 16384
  else if s.flash.staged.any (fun x => x.o == o && x.page == p) then
    State.bump (s.modFlash (fun fl => { fl with staged := fl.staged.map (fun x => if x.o == o && x.page == p then { x with stamp := s.newId } else x) }))
  else
    let mates := s.flash.staged.filter (fun x => x.o == o && x.page % sets == p % sets)
    let oldest := mates.foldl (fun a x => min a x.stamp) s.newId
    let used := mates.map (·.way)
    let way := if mates.length < 16 then ((List.range 16).find? (fun w => !used.contains w)).getD 0
      else ((mates.find? (fun x => x.stamp == oldest)).map (·.way)).getD 0
    let keep := if mates.length < 16 then s.flash.staged else s.flash.staged.filter (fun x => !(x.o == o && x.page % sets == p % sets && x.stamp == oldest))
    let marks := ((List.range 128).filter (fun i => s.flashBad (key + 128 * i))).map (fun i => key / 128 + i)
    ((State.bump (read.modFlash (fun fl => { fl with staged := keep ++ [{ o := o, page := p, marks := marks, stamp := s.newId, way := way }] }))).charge o 6 16384).charge o 5 16384

/-- The owner DRAM offset of a sector of a staged page in the carve-out: the sets in turn, and the ways of a set in turn; an empty way is taken in ascending number.
R383 gives the carve-out alone (DESIGN CHOICE, log 139). -/
def stagedOff (s : State) (x : Staged) (i : Nat) : Nat :=
  let g := (s.owner x.o).stgcfg.toNat
  bits g 47 24 * 2 ^ 24 + (x.page % max 1 (bits g 15 0) * 16 + x.way) * 16384 + 128 * i
/-- An error in the stack where a staged page stands marks the page's sector (R382, R395). -/
def markStaged (s : State) (key : Nat) : State :=
  s.modFlash (fun f => { f with staged := f.staged.map (fun x =>
    match (List.range 128).find? (fun i => s.dramKey x.o (s.stagedOff x i) / 128 == key / 128) with
    | some i => { x with marks := setIns x.marks (s.locKey (.flash x.o (x.page * 16384)) / 128 + i) }
    | none => x) })

/-! ### The home slice of a line (R163, R305 to R307, R396, R434) -/

/-- The owner and the line number of a cacheable or weight location (R305, R382). -/
def homeOf (s : State) (l : Loc) : Option (Nat × Nat) :=
  if 2 ^ 48 ≤ s.locKey l then none
  else match l with
    | .dram o p .cacheable => some (o, p / 1024)
    | .flash o f => some (o, 2 ^ 40 + f / 1024)
    | _ => none
/-- The set and the tag of a line in its home slice (R305). -/
def homeSet (s : State) (o line : Nat) : Nat := line / max 1 (s.owner o).desc.mica.length % 1024
def homeTag (s : State) (o line : Nat) : Nat := line / (max 1 (s.owner o).desc.mica.length * 1024)
/-- The lowest-numbered active range of an owner that covers an offset (R306). -/
def rangeOf (s : State) (o p : Nat) : Option Nat :=
  (List.range 8).find? (fun k =>
    let r := (s.owner o).rrange[Fin.ofNat 8 k].toNat
    let base := bits r 47 21 * 2 ^ 21
    let size := bits r 20 4 * 2 ^ 21
    bit r 63 && size != 0 && decide (base ≤ p) && decide (p < base + size))
/-- The class of an access, retained or not, and the home slice's counter for its range; pref.r moves no counter (R306). -/
def homeClass (s : State) (keep : Bool) : Loc → State × Bool
  | .dram o p .cacheable =>
    (match s.rangeOf o p with
     | none => (s, false)
     | some k =>
       let ratio := bits (s.owner o).rrange[Fin.ofNat 8 k].toNat 55 48
       let x := s.slice (s.homeSlice o (p / 1024))
       let c := alGet 0 (o * 8 + k) x.ctr
       if keep then (s, true) else (s.setSlice { x with ctr := alSet (o * 8 + k) (if c = ratio then 0 else c + 1) x.ctr }, c == ratio))
  | _ => (s, false)
/-- The cache ways of a slice; a change that takes ways leaves them from its start (R307, R309). -/
def cacheWays (x : Slice) : Nat := 16 - max x.ways ((x.target.map (·.2)).getD 0)
/-- The L1 copies that a line's sharer pointers name are invalidated (R163). -/
def dropShared (s : State) (line : Nat) : State := { s with l1 := s.l1.filter (fun (x : L1Line) => x.line / 8 != line) }
/-- A line leaves its slice: its dirty sectors go back to their home stack with their poison marks, and its L1 copies are invalidated (R163, R309, R396).
R309 states the invalidation for a change of ways alone; the model has it at every replacement, since the sharer pointers leave with the line (DEDUCED,
log 119). -/
def evictLine (s : State) (c : MicaLine) : State :=
  let at_ (k : Nat) : Nat := 1024 * c.line + 128 * k
  let back := c.dirty.filter (fun k => !s.lostKey (at_ k))
  let s := s.modMem (fun m => back.foldl (fun (m : Mem) k => if c.bad.contains k then m.setPoison (at_ k) else m.clrPoison (at_ k)) m)
  let s := (s.charge c.o 5 (128 * back.length)).dropShared c.line
  { s with slices := s.slices.map (fun (x : Slice) => { x with lines := x.lines.filter (fun d => d.line != c.line) }) }
/-- The way that a new line of a class takes in its set: an empty one, which of several a free value says, else that of the line least recently used, which
leaves (R307; log 14). -/
def takeWay (s : State) (n set lo hi : Nat) : State × Nat :=
  let mates := (s.slice n).lines.filter (fun x => x.set == set && decide (lo ≤ x.way) && decide (x.way < hi))
  let empty := ((List.range (hi - lo)).map (· + lo)).filter (fun w => !mates.any (fun x => x.way == w))
  match empty, mates with
  | e :: es, _ => (s.drawn, (e :: es).getD (s.free.toNat % (e :: es).length) e)
  | [], m :: ms => let v := ms.foldl (fun (a : MicaLine) x => if x.used < a.used then x else a) m; (s.evictLine v, v.way)
  | [], [] => (s, lo)
/-- A line is allocated in its home slice, in a way of its class (R307). -/
def allocLine (s : State) (o line key : Nat) (kept : Bool) : State :=
  let n := s.homeSlice o line
  let c := cacheWays (s.slice n)
  let r := min (bits (s.owner o).cfg.toNat 29 26) (c - 1)
  let set := s.homeSet o line
  let w := if kept && r != 0 then s.takeWay n set 0 r else s.takeWay n set r c
  let x := w.1.slice n
  w.1.setSlice { x with lines := x.lines ++ [{ line := key / 1024, o := o, set := set, way := w.2, tag := s.homeTag o line }] }
/-- The mark that a fill brings with a sector: that of Shale, of the staging cache, whose lost layers read as
poisoned (R399), or of the flash read (R382, R396). -/
def fillBad (s : State) (l : Loc) (key : Nat) : Bool :=
  match l with
  | .flash o f =>
    (match s.flash.staged.find? (fun x => x.o == o && x.page == f / 16384) with
     | some x => x.marks.contains (key / 128) || s.lostKey (s.dramKey x.o (s.stagedOff x (key % 16384 / 128)))
     | none => s.flashBad key)
  | _ => s.storedBad key
/-- Whether a read at a home finds its sector poisoned: by the mark of the copy in Mica, else by the mark that a fill would bring (R164, R382, R396). -/
def locBad (s : State) (l : Loc) : Bool :=
  let key := s.locKey l
  match s.micaHas key with
  | some c => c.bad.contains (key % 1024 / 128)
  | none => s.fillBad l key
/-- A miss fills the touched sector and what neighbouring sectors of the line a free value says (R164); whether a write that misses reads the sector first, a
free value says too (log 14). -/
def fillSectors (s : State) (o : Nat) (l : Loc) (write : Bool) : State :=
  let key := s.locKey l
  let k := key % 1024 / 128
  let x := s.free.toNat
  let held := ((s.slices.findSome? (fun y => y.lines.find? (fun c => c.line == key / 1024))).map (·.secs)).getD []
  let more := (List.range 8).filter (fun j => j != k && !held.contains j && x.testBit j)
  let reads := more.length + (if write && x.testBit 8 then 0 else 1)
  let s := s.drawn
  let s := match l with | .flash o f => s.stagingRead o f | _ => s
  let direct := match l with | .flash o _ => bits (s.owner o).stgcfg.toNat 15 0 == 0 | _ => false
  let marks := (k :: more).filter (fun j => s.fillBad l (key / 1024 * 1024 + 128 * j))
  (s.modLine key (fun c => { c with secs := c.secs ++ (k :: more), bad := c.bad ++ marks })).charge o 4 (if direct then 0 else 128 * reads)
/-- An access at the home of its line, with its state as a cache: the class, a line and a sector where it misses, its use, and its dirty mark. -/
def homeTouch (s : State) (write keep : Bool) (l : Loc) : State :=
  match s.homeOf l with
  | none => s
  | some (o, line) =>
    let key := s.locKey l
    let c := s.homeClass keep l
    let s := if c.1.slices.any (fun x => x.lines.any (fun d => d.line == key / 1024)) then c.1 else c.1.allocLine o line key c.2
    let s := if (s.micaHas key).isSome then s else s.fillSectors o l write
    (s.modLine key (fun d => { d with used := s.newId, dirty := if write then setIns d.dirty (key % 1024 / 128) else d.dirty })).bump
/-- What an access at a home, a walk or a fetch may change beside the bytes it writes: caches and their marks, TLBs, counters, free values drawn. -/
def settled (s t : State) : State :=
  { s with slices := t.slices, owners := t.owners, flash := t.flash, clk := t.clk, l1 := t.l1, tlb := t.tlb, wcache := t.wcache
           mem := { s.mem with poison := t.mem.poison } }
/-- What an access at a home does beside its bytes: a sync page is served by Shale; a cacheable or weight line by its home slice (R157, R163, R434). -/
def chargeMem (s : State) (write : Bool) (l : Loc) : State :=
  match l with
  | .dram o _ .sync => s.charge o (if write then 5 else 4) 128
  | l => s.settled (s.homeTouch write false l)
/-- The old bytes that an atomic or a reduction reads at its home: at a sync page they come from Shale, elsewhere with the line that the write touches (R434). -/
def chargeOld (s : State) (l : Loc) : State := match l with | .dram _ _ .sync => s.chargeMem false l | _ => s
/-- pref.r fills the home slice under the retained class of a range (R171, R306). -/
def chargeKept (s : State) (l : Loc) : State :=
  s.settled (s.homeTouch false true l)

/-- A walk by a unit or a thread of a place: its entries are read at their homes, and a success fills the TLBs and the walk caches (R337, R341, R342). -/
def walkFill (s : State) (p : Place) (va : Nat) : Except Nat Tlb × State :=
  let r := s.walkT p.o p.l va
  let t := r.2.reads.foldl (fun (t : State) l => t.chargeMem false l) s
  match r.1 with
  | .error e => (.error e, s.settled t)
  | .ok x => (.ok x, s.settled (t.fillTlb p.c x r.2.fills))

/-! ### Prefetches (R171) -/

/-- Where a prefetch fills: a cacheable or weight page whose translation hits or can be walked, and that is not held back. -/
def prefLoc (s : State) (ea : Addr) : Option Loc :=
  match s.region s.me.pl ea with
  | .translated va =>
    let va := s.viaPair s.me.pl.o va
    (match s.xlate s.me.pl va with
     | .ok t => let l := tlbLoc t va; if t.kind == .sync || t.peer.isSome || s.heldBack l then none else some l
     | .error _ => none)
  | _ => none

end State

end Sys2Proof.Machine
end

