-- ==== Sys2Proof/Machine/Operands.lean ====
section
/-! DEFINITION. Operands: immediates, effective addresses, core names, the registers a word writes (R75), and the forms a stream permits
(R79, R98, R141, R173, R176, R217, R229, R246). -/

namespace Sys2Proof.Machine

/-- SExt of an immediate to 64 bits (R97). -/
def sx {n : Nat} (x : BitVec n) : Word := x.signExtend 64
/-- ZExt of an immediate to 64 bits (R97). -/
def zx {n : Nat} (x : BitVec n) : Word := x.setWidth 64
/-- EA of the RI load and store majors (R153). -/
def eaOff (a : Word) (i : BitVec 12) : Addr := (a + sx i).setWidth 48
/-- EA of every other memory form (R153). -/
def ea0 (a : Word) : Addr := a.setWidth 48
/-- A branch target: the bundle address plus 4 times a signed word offset (R72). -/
def target {n : Nat} (b : Addr) (o : BitVec n) : Addr := b + 4 * o.signExtend 48

/-- A core name (R190): logical slot and logical core. -/
def nameSlot (x : Word) : Nat := bits x.toNat 23 16
def nameCore (x : Word) : Nat := bits x.toNat 14 8

/-- A register that a word writes, as R75 counts them. -/
inductive WReg
  | s (k : Fin 16)
  | v (k : Fin 16)
  | pred
  | special (n : Nat)
deriving DecidableEq, Repr

/-- The registers a word writes (R75): those it names as destinations, s13 of call, QPOS of qred, PW and the predicates as one. -/
def instrWrites : Instr → List WReg
  | .dbnz d _ => [.s d]
  | .rsr d _ => [.s d]
  | .ldB d _ _ => [.s d]
  | .ldH d _ _ => [.s d]
  | .ldW d _ _ => [.s d]
  | .ldD d _ _ => [.s d]
  | .ldnB d _ _ => [.s d]
  | .ldnH d _ _ => [.s d]
  | .ldnW d _ _ => [.s d]
  | .ldfe d _ => [.s d]
  | .ldff d _ => [.s d]
  | .lrw d _ => [.s d]
  | .amoD d _ _ _ => [.s d]
  | .amoW d _ _ _ => [.s d]
  | .spawn d _ => [.s d]
  | .mclr d _ _ => [.s d]
  | .mmaG8 d _ _ => [.s d]
  | .mmaI8 d _ _ => [.s d]
  | .mmaBf16 d _ _ => [.s d]
  | .mmaG8bf d _ _ => [.s d]
  | .mrd d _ _ => [.s d]
  | .mrdq d _ _ => [.s d]
  | .mstat d _ => [.s d]
  | .chq d _ => [.s d]
  | .winst d _ => [.s d]
  | .wstat d _ => [.s d]
  | .ldt d _ _ => [.s d]
  | .vext d _ _ _ => [.s d]
  | .add d _ _ => [.s d]
  | .sub d _ _ => [.s d]
  | .mul d _ _ => [.s d]
  | .mulh d _ _ => [.s d]
  | .mulhn d _ _ => [.s d]
  | .div d _ _ => [.s d]
  | .divn d _ _ => [.s d]
  | .rem d _ _ => [.s d]
  | .remn d _ _ => [.s d]
  | .and d _ _ => [.s d]
  | .or d _ _ => [.s d]
  | .xor d _ _ => [.s d]
  | .andn d _ _ => [.s d]
  | .orn d _ _ => [.s d]
  | .shl d _ _ => [.s d]
  | .shr d _ _ => [.s d]
  | .sar d _ _ => [.s d]
  | .rotl d _ _ => [.s d]
  | .min d _ _ => [.s d]
  | .max d _ _ => [.s d]
  | .minn d _ _ => [.s d]
  | .maxn d _ _ => [.s d]
  | .clz d _ => [.s d]
  | .ctz d _ => [.s d]
  | .popc d _ => [.s d]
  | .mov d _ => [.s d]
  | .addi d _ _ => [.s d]
  | .andi d _ _ => [.s d]
  | .ori d _ _ => [.s d]
  | .xori d _ _ => [.s d]
  | .shli d _ _ => [.s d]
  | .shri d _ _ => [.s d]
  | .sari d _ _ => [.s d]
  | .roti d _ _ => [.s d]
  | .bfx d _ _ _ => [.s d]
  | .bfxn d _ _ _ => [.s d]
  | .bfi d _ _ _ => [.s d]
  | .li d _ => [.s d]
  | .lis d _ => [.s d]
  | .sel d _ _ _ => [.s d]
  | .vld d _ _ => [.v d]
  | .vldBc d _ _ => [.v d]
  | .vldk d _ _ => [.v d]
  | .qpop d _ => [.v d]
  | .qpeek d _ => [.v d]
  | .mrecv d => [.v d]
  | .fexp2 d _ _ => [.v d]
  | .flog2 d _ _ => [.v d]
  | .frcp d _ _ => [.v d]
  | .frsqrt d _ _ => [.v d]
  | .fsqrt d _ _ => [.v d]
  | .fsinp d _ _ => [.v d]
  | .fcosp d _ _ => [.v d]
  | .ftanh d _ _ => [.v d]
  | .fsigm d _ _ => [.v d]
  | .vldt d _ _ => [.v d]
  | .vsel d _ _ _ => [.v d]
  | .vfma d _ _ _ _ => [.v d]
  | .vfms d _ _ _ _ => [.v d]
  | .vdotG8 d _ _ _ => [.v d]
  | .vdotBf16 d _ _ => [.v d]
  | .vdotI8 d _ _ => [.v d]
  | .vadd d _ _ _ => [.v d]
  | .vsub d _ _ _ => [.v d]
  | .vmul d _ _ _ => [.v d]
  | .vneg d _ _ => [.v d]
  | .vabs d _ _ => [.v d]
  | .vmin d _ _ _ => [.v d]
  | .vmax d _ _ _ => [.v d]
  | .vand d _ _ _ => [.v d]
  | .vor d _ _ _ => [.v d]
  | .vxor d _ _ _ => [.v d]
  | .vandn d _ _ _ => [.v d]
  | .vshl d _ _ _ => [.v d]
  | .vshr d _ _ _ => [.v d]
  | .vsar d _ _ _ => [.v d]
  | .vcmpEq d _ _ _ => [.v d]
  | .vcmpLt d _ _ _ => [.v d]
  | .vcmpLe d _ _ _ => [.v d]
  | .vsum d _ _ => [.v d]
  | .vbcast d _ _ => [.v d]
  | .vins d _ _ _ => [.v d]
  | .vperm d _ _ _ => [.v d]
  | .vround d _ _ => [.v d]
  | .vscale d _ _ _ => [.v d]
  | .vexpo d _ _ => [.v d]
  | .vrcpa d _ => [.v d]
  | .vrsqrta d _ => [.v d]
  | .vsat d _ _ => [.v d]
  | .vpack d _ _ _ => [.v d]
  | .vunpack d _ _ _ => [.v d]
  | .vshli d _ _ _ => [.v d]
  | .vcvt d _ _ _ _ => [.v d]
  | .cmpEq _ _ _ => [.pred]
  | .cmpNe _ _ _ => [.pred]
  | .cmpLt _ _ _ => [.pred]
  | .cmpLe _ _ _ => [.pred]
  | .cmpLtn _ _ _ => [.pred]
  | .cmpLen _ _ _ => [.pred]
  | .pset _ _ => [.pred]
  | .pand _ _ _ => [.pred]
  | .por _ _ _ => [.pred]
  | .pnot _ _ => [.pred]
  | .cmpiEq _ _ _ => [.pred]
  | .cmpiNe _ _ _ => [.pred]
  | .cmpiLt _ _ _ => [.pred]
  | .cmpiLe _ _ _ => [.pred]
  | .cmpiLtn _ _ _ => [.pred]
  | .cmpiLen _ _ _ => [.pred]
  | .call _ => [.s 13]
  | .qredI32 d _ _ => [.v d, .special 0x13]
  | .qredI64 d _ _ => [.v d, .special 0x13]
  | .qredF32 d _ _ => [.v d, .special 0x13]
  | .wsr _ n => if n = 0x10 then [.pred] else [.special n.toNat]
  | .rte => [.special 0x22]
  | _ => []

/-- A word that a row stream refuses by its bits alone: ILLEGAL_INSTRUCTION, subcode 5 (R79). Guards bear on br only. -/
def instrStreamBad (g : BitVec 4) : Instr → Bool
  | .br _ => g != 7
  | .call _ => true
  | .dbnz _ _ => true
  | .jmp _ => true
  | .ret _ => true
  | .yield => true
  | .trap _ => true
  | .brk => true
  | .rte => true
  | .fenceK => true
  | .fenceS => true
  | .fenceO => true
  | .fenceY => true
  | .ldfe _ _ => true
  | .ldff _ _ => true
  | .stfe _ _ => true
  | .stf _ _ => true
  | .feClr _ => true
  | .lrw _ _ => true
  | .scq _ _ => true
  | .rsvRel _ => true
  | .amoD _ _ _ _ => true
  | .amoW _ _ _ _ => true
  | .redD _ _ _ => true
  | .redW _ _ _ => true
  | .redFaddF32 _ _ => true
  | .areg _ => true
  | .barInit _ _ => true
  | .barArrive _ => true
  | .barWait _ => true
  | .barSync _ => true
  | .qpush _ _ => true
  | .qpop _ _ => true
  | .qpeek _ _ => true
  | .qredI32 _ _ _ => true
  | .qredI64 _ _ _ => true
  | .qredF32 _ _ _ => true
  | .msg _ _ => true
  | .mrecv _ => true
  | .go _ => true
  | .spawn _ _ => true
  | .step => true
  | .mstat _ _ => true
  | .mfence _ => true
  | .publish _ => true
  | .winst _ _ => true
  | .wstat _ _ => true
  | .tlbinv _ => true
  | .keyld _ _ => true
  | .keyzap _ => true
  | .scrub _ => true
  | .evpost _ => true
  | .rotctlSuspend _ => true
  | .rotctlResume _ => true
  | .rotctlExtraRotation _ => true
  | .rotctlExtraSwitch _ => true
  | .slotctlPlace _ _ => true
  | .slotctlRemove _ _ => true
  | .slotctlSpill _ _ => true
  | .waypart _ _ => true
  | .frzFreezeOwner _ => true
  | .frzReleaseOwner _ => true
  | .frzFreezeFunction _ => true
  | .frzReleaseFunction _ => true
  | .frzEndTask _ => true
  | .fexp2 _ _ u => u == 0
  | .flog2 _ _ u => u == 0
  | .frcp _ _ u => u == 0
  | .frsqrt _ _ u => u == 0
  | .fsqrt _ _ u => u == 0
  | .fsinp _ _ u => u == 0
  | .fcosp _ _ u => u == 0
  | .ftanh _ _ u => u == 0
  | .fsigm _ _ u => u == 0
  | _ => false

/-- A monitor form (R93, R350). -/
def instrIsMonitor : Instr → Bool
  | .tlbinv _ => true
  | .keyld _ _ => true
  | .keyzap _ => true
  | .scrub _ => true
  | .evpost _ => true
  | .rotctlSuspend _ => true
  | .rotctlResume _ => true
  | .rotctlExtraRotation _ => true
  | .rotctlExtraSwitch _ => true
  | .slotctlPlace _ _ => true
  | .slotctlRemove _ _ => true
  | .slotctlSpill _ _ => true
  | .waypart _ _ => true
  | .frzFreezeOwner _ => true
  | .frzReleaseOwner _ => true
  | .frzFreezeFunction _ => true
  | .frzReleaseFunction _ => true
  | .frzEndTask _ => true
  | _ => false

/-- A word of the arithmetic class, by its major (R69). -/
def instrIsArith (i : Instr) : Bool := match encodeBody i with | some n => decide (0x20 ≤ n / 16777216 % 64) | none => false

end Sys2Proof.Machine
end

