-- ==== Sys2Proof/Machine/Control.lean ====
section
/-! DEFINITION. Control: branches, jumps, calls, stream control, exit, yield, trap, break, return from trap, and go
(R107 to R112, R204, R210, R211, R349). Issue has set the PC to B + Z before a half is performed. -/

namespace Sys2Proof.Machine

namespace State

/-- A ready row of the resident owner waits in the run queue of a core (R58, R111). -/
def readyWaits (s : State) (p : Place) : Bool :=
  s.resident p.o p.l &&
  s.threads.any (fun t => t.pl = p && t.slot.isNone && t.evicted.isNone && t.strm.isNone && t.park == .none && decide (t.readyAt ≤ s.beat))

/-- jmp and ret (R107, R108). -/
def jumpTo (s : State) (x : Word) : Res :=
  let t := ea0 x
  if t.toNat % 4 != 0 then .next (s.raise 3 0 t) else .next (s.setPc t)

/-- A stream-only form outside a stream (R211). -/
def streamOnly (s : State) : Res := if s.inStream then .next s else .next (s.raise 1 7 s.iss.b)

end State

/-- BR (R107); in a stream the fetch unit performs the transfer (R210). -/
def execBr (o : BitVec 20) (s : State) : Res := if s.inStream then .next s else .next (s.setPc (target s.iss.b o))
/-- CALL (R107). -/
def execCall (o : BitVec 20) (s : State) : Res :=
  .next ((s.wS 13 (BitVec.setWidth 64 (s.iss.b + BitVec.ofNat 48 s.iss.z))).setPc (target s.iss.b o))
/-- DBNZ (R107): the value after the decrement is tested. -/
def execDbnz (d : Fin 16) (o : BitVec 16) (s : State) : Res :=
  let x := s.rS d - 1
  let s := s.wS d x
  .next (if x = 0 then s else s.setPc (target s.iss.b o))
/-- JMP (R107, R108). -/
def execJmp (a : Fin 16) (s : State) : Res := s.jumpTo (s.rS a)
/-- RET (R107, R108). -/
def execRet (a : Fin 16) (s : State) : Res := s.jumpTo (s.rS a)
/-- SEND (R211): the fetch unit acts on it, the core performs nothing. -/
def execSend (s : State) : Res := s.streamOnly
/-- SLOOP (R211): the fetch unit reads the trip count at this bundle's source reads when it injects the next bundle. -/
def execSloop (d : Fin 16) (o : BitVec 16) (s : State) : Res :=
  if !s.inStream then s.streamOnly
  else if o = 0 then .next (s.raise 2 3 s.iss.b)
  else
    let c := (s.rS d).toNat
    match s.me.strm with
    | some sid =>
      .next (s.modStream sid (fun st =>
        if State.streamOff st s.me.pl.c = 0 then
          { st with loops := st.loops.map (fun l => if l.start = s.iss.b + BitVec.ofNat 48 s.iss.z && l.left = 0 then { l with left := c } else l) }
        else st))
    | none => .next s
/-- EXIT (R110): outside a stream the thread parks until its wait ends (EXIT_COMPLETE); in a stream the core performs no bundle after it (R212). -/
def execExit (s : State) : Res :=
  match s.me.strm with
  | some sid => .next (s.modStream sid (fun st => { st with exited := if st.exited.contains s.me.pl.c then st.exited else st.exited ++ [s.me.pl.c] }))
  | none => .next (s.parkAfter .exit)
/-- YIELD (R111): the turn counter is filled, so the end of the turn unbinds the thread when a ready row waits. -/
def execYield (s : State) : Res := if s.readyWaits s.me.pl then .next (s.modMe (fun t => { t with turns := 8 })) else .next s
/-- TRAP (R112). -/
def execTrap (n : BitVec 8) (s : State) : Res := .next (s.raise 0x0E n.toNat (s.iss.b + BitVec.ofNat 48 s.iss.z))
/-- BRK (R112). -/
def execBrk (s : State) : Res := .next (s.raise 0x0F 0 (s.iss.b + BitVec.ofNat 48 s.iss.z))
/-- RTE (R349). -/
def execRte (s : State) : Res := .next { s with me := s.me.rte }
/-- GO (R204): the other half of a pair is performed before the departure wait begins. A go that leaves ends the run of remote loads (R159); one to the thread's
own core has no effect (R204), for R10 puts the instruction's own entry first (DEDUCED, log 124). -/
def execGo (a : Fin 16) (s : State) : Res :=
  let x := s.rS a
  if s.nslot s.me.pl.o ≤ nameSlot x then .next (s.raise 5 0 (ea0 x))
  else
    let dst : Place := ⟨s.me.pl.o, nameSlot x, nameCore x⟩
    if dst = s.me.pl then .next s else .next ((s.modMe (fun t => { t with run := 0 })).parkAfter (.migrate dst))

end Sys2Proof.Machine
end

