-- ==== Sys2Proof/Machine/Scalar.lean ====
section
/-! DEFINITION. Scalar: integer arithmetic, logic, shifts, bit fields, constants, compares, predicates and select (R94 to R106; 05_scalar_control.md). -/

namespace Sys2Proof.Machine

/-- Signed minimum and maximum, and their unsigned forms (R100). -/
def minS (a b : Word) : Word := if a.slt b then a else b
def maxS (a b : Word) : Word := if a.slt b then b else a
def minU (a b : Word) : Word := if a.ult b then a else b
def maxU (a b : Word) : Word := if a.ult b then b else a
/-- High multiplies (R99): bits 127 to 64 of the product. -/
def mulhS (a b : Word) : Word := BitVec.ofInt 64 (a.toInt * b.toInt / 2 ^ 64)
def mulhU (a b : Word) : Word := BitVec.ofNat 64 (a.toNat * b.toNat / 2 ^ 64)
/-- Divisions of R34. -/
def divS (a b : Word) : Word := BitVec.ofInt 64 (sdiv a.toInt b.toInt)
def remS (a b : Word) : Word := BitVec.ofInt 64 (srem a.toInt b.toInt)
def divU (a b : Word) : Word := if b = 0 then 0 else BitVec.ofNat 64 (a.toNat / b.toNat)
def remU (a b : Word) : Word := if b = 0 then a else BitVec.ofNat 64 (a.toNat % b.toNat)
/-- Counts of bits (R100). -/
def clz64 (a : Word) : Word := if a = 0 then 64 else BitVec.ofNat 64 (63 - Nat.log2 a.toNat)
def ctzFrom (a : Nat) : Nat → Nat → Nat
  | 0, k => k
  | f + 1, k => if bit a k then k else ctzFrom a f (k + 1)
def ctz64 (a : Word) : Word := BitVec.ofNat 64 (ctzFrom a.toNat 64 0)
def popNat (a : Nat) : Nat → Nat
  | 0 => 0
  | f + 1 => (if bit a f then 1 else 0) + popNat a f
def popc64 (a : Word) : Word := BitVec.ofNat 64 (popNat a.toNat 64)
/-- Shifts and rotates by n, taken mod 64 (R35, R101). -/
def shl64 (a : Word) (n : Nat) : Word := a <<< (n % 64)
def shr64 (a : Word) (n : Nat) : Word := a >>> (n % 64)
def sar64 (a : Word) (n : Nat) : Word := a.sshiftRight (n % 64)
def rotl64 (a : Word) (n : Nat) : Word := (a <<< (n % 64)) ||| (a >>> ((64 - n % 64) % 64))
/-- Bit fields (R102): position p, width − 1 in e; the field in use never reaches past bit 63. -/
def fieldW (p e : Nat) : Nat := min (e + 1) (64 - p)
def bfxU (a : Word) (p e : Nat) : Word := BitVec.ofNat 64 (a.toNat / 2 ^ p % 2 ^ fieldW p e)
def bfxS (a : Word) (p e : Nat) : Word :=
  let w := fieldW p e
  let x := a.toNat / 2 ^ p % 2 ^ w
  BitVec.ofInt 64 (if bit x (w - 1) then (x : Int) - 2 ^ w else x)
def bfi64 (old a : Word) (p e : Nat) : Word :=
  let w := fieldW p e
  BitVec.ofNat 64 (old.toNat - old.toNat / 2 ^ p % 2 ^ w * 2 ^ p + a.toNat % 2 ^ w * 2 ^ p)
/-- ADD (R99). -/
def execAdd (d a b : Fin 16) (s : State) : Res := .next (s.wS d (s.rS a + s.rS b))
/-- SUB (R99). -/
def execSub (d a b : Fin 16) (s : State) : Res := .next (s.wS d (s.rS a - s.rS b))
/-- MUL (R99). -/
def execMul (d a b : Fin 16) (s : State) : Res := .next (s.wS d (s.rS a * s.rS b))
/-- MULH (R99). -/
def execMulh (d a b : Fin 16) (s : State) : Res := .next (s.wS d (mulhS (s.rS a) (s.rS b)))
/-- MULHN (R99). -/
def execMulhn (d a b : Fin 16) (s : State) : Res := .next (s.wS d (mulhU (s.rS a) (s.rS b)))
/-- DIV (R99). -/
def execDiv (d a b : Fin 16) (s : State) : Res := .next (s.wS d (divS (s.rS a) (s.rS b)))
/-- DIVN (R99). -/
def execDivn (d a b : Fin 16) (s : State) : Res := .next (s.wS d (divU (s.rS a) (s.rS b)))
/-- REM (R99). -/
def execRem (d a b : Fin 16) (s : State) : Res := .next (s.wS d (remS (s.rS a) (s.rS b)))
/-- REMN (R99). -/
def execRemn (d a b : Fin 16) (s : State) : Res := .next (s.wS d (remU (s.rS a) (s.rS b)))
/-- AND (R100). -/
def execAnd (d a b : Fin 16) (s : State) : Res := .next (s.wS d (s.rS a &&& s.rS b))
/-- OR (R100). -/
def execOr (d a b : Fin 16) (s : State) : Res := .next (s.wS d (s.rS a ||| s.rS b))
/-- XOR (R100). -/
def execXor (d a b : Fin 16) (s : State) : Res := .next (s.wS d (s.rS a ^^^ s.rS b))
/-- ANDN (R100). -/
def execAndn (d a b : Fin 16) (s : State) : Res := .next (s.wS d (s.rS a &&& ~~~(s.rS b)))
/-- ORN (R100). -/
def execOrn (d a b : Fin 16) (s : State) : Res := .next (s.wS d (s.rS a ||| ~~~(s.rS b)))
/-- SHL (R101). -/
def execShl (d a b : Fin 16) (s : State) : Res := .next (s.wS d (shl64 (s.rS a) (s.rS b).toNat))
/-- SHR (R101). -/
def execShr (d a b : Fin 16) (s : State) : Res := .next (s.wS d (shr64 (s.rS a) (s.rS b).toNat))
/-- SAR (R101). -/
def execSar (d a b : Fin 16) (s : State) : Res := .next (s.wS d (sar64 (s.rS a) (s.rS b).toNat))
/-- ROTL (R101). -/
def execRotl (d a b : Fin 16) (s : State) : Res := .next (s.wS d (rotl64 (s.rS a) (s.rS b).toNat))
/-- MIN (R100). -/
def execMin (d a b : Fin 16) (s : State) : Res := .next (s.wS d (minS (s.rS a) (s.rS b)))
/-- MAX (R100). -/
def execMax (d a b : Fin 16) (s : State) : Res := .next (s.wS d (maxS (s.rS a) (s.rS b)))
/-- MINN (R100). -/
def execMinn (d a b : Fin 16) (s : State) : Res := .next (s.wS d (minU (s.rS a) (s.rS b)))
/-- MAXN (R100). -/
def execMaxn (d a b : Fin 16) (s : State) : Res := .next (s.wS d (maxU (s.rS a) (s.rS b)))
/-- CLZ (R100). -/
def execClz (d a : Fin 16) (s : State) : Res := .next (s.wS d (clz64 (s.rS a)))
/-- CTZ (R100). -/
def execCtz (d a : Fin 16) (s : State) : Res := .next (s.wS d (ctz64 (s.rS a)))
/-- POPC (R100). -/
def execPopc (d a : Fin 16) (s : State) : Res := .next (s.wS d (popc64 (s.rS a)))
/-- MOV (R100). -/
def execMov (d a : Fin 16) (s : State) : Res := .next (s.wS d (s.rS a))
/-- CMP_EQ (R104). -/
def execCmpEq (d a b : Fin 16) (s : State) : Res := .next (s.wP d (s.rS a == (s.rS b)))
/-- CMP_NE (R104). -/
def execCmpNe (d a b : Fin 16) (s : State) : Res := .next (s.wP d (s.rS a != (s.rS b)))
/-- CMP_LT (R104). -/
def execCmpLt (d a b : Fin 16) (s : State) : Res := .next (s.wP d ((s.rS a).slt (s.rS b)))
/-- CMP_LE (R104). -/
def execCmpLe (d a b : Fin 16) (s : State) : Res := .next (s.wP d ((s.rS a).sle (s.rS b)))
/-- CMP_LTN (R104). -/
def execCmpLtn (d a b : Fin 16) (s : State) : Res := .next (s.wP d ((s.rS a).ult (s.rS b)))
/-- CMP_LEN (R104). -/
def execCmpLen (d a b : Fin 16) (s : State) : Res := .next (s.wP d ((s.rS a).ule (s.rS b)))
/-- CMPI_EQ (R104). -/
def execCmpiEq (d a : Fin 16) (i : BitVec 12) (s : State) : Res := .next (s.wP d (s.rS a == (sx i)))
/-- CMPI_NE (R104). -/
def execCmpiNe (d a : Fin 16) (i : BitVec 12) (s : State) : Res := .next (s.wP d (s.rS a != (sx i)))
/-- CMPI_LT (R104). -/
def execCmpiLt (d a : Fin 16) (i : BitVec 12) (s : State) : Res := .next (s.wP d ((s.rS a).slt (sx i)))
/-- CMPI_LE (R104). -/
def execCmpiLe (d a : Fin 16) (i : BitVec 12) (s : State) : Res := .next (s.wP d ((s.rS a).sle (sx i)))
/-- CMPI_LTN (R104). -/
def execCmpiLtn (d a : Fin 16) (i : BitVec 12) (s : State) : Res := .next (s.wP d ((s.rS a).ult (zx i)))
/-- CMPI_LEN (R104). -/
def execCmpiLen (d a : Fin 16) (i : BitVec 12) (s : State) : Res := .next (s.wP d ((s.rS a).ule (zx i)))
/-- PSET (R105). -/
def execPset (d b : Fin 16) (s : State) : Res := .next (s.wP d (b.val == 1))
/-- PAND (R105). -/
def execPand (d a b : Fin 16) (s : State) : Res := .next (s.wP d (s.rP a && s.rP b))
/-- POR (R105). -/
def execPor (d a b : Fin 16) (s : State) : Res := .next (s.wP d (s.rP a || s.rP b))
/-- PNOT (R105). -/
def execPnot (d a : Fin 16) (s : State) : Res := .next (s.wP d (!s.rP a))
/-- ADDI (R99). -/
def execAddi (d a : Fin 16) (i : BitVec 12) (s : State) : Res := .next (s.wS d (s.rS a + sx i))
/-- ANDI (R100). -/
def execAndi (d a : Fin 16) (i : BitVec 12) (s : State) : Res := .next (s.wS d (s.rS a &&& zx i))
/-- ORI (R100). -/
def execOri (d a : Fin 16) (i : BitVec 12) (s : State) : Res := .next (s.wS d (s.rS a ||| zx i))
/-- XORI (R100). -/
def execXori (d a : Fin 16) (i : BitVec 12) (s : State) : Res := .next (s.wS d (s.rS a ^^^ zx i))
/-- SHLI (R101). -/
def execShli (d a : Fin 16) (k : BitVec 6) (s : State) : Res := .next (s.wS d (shl64 (s.rS a) k.toNat))
/-- SHRI (R101). -/
def execShri (d a : Fin 16) (k : BitVec 6) (s : State) : Res := .next (s.wS d (shr64 (s.rS a) k.toNat))
/-- SARI (R101). -/
def execSari (d a : Fin 16) (k : BitVec 6) (s : State) : Res := .next (s.wS d (sar64 (s.rS a) k.toNat))
/-- ROTI (R101). -/
def execRoti (d a : Fin 16) (k : BitVec 6) (s : State) : Res := .next (s.wS d (rotl64 (s.rS a) k.toNat))
/-- BFX (R102). -/
def execBfx (d a : Fin 16) (q e : BitVec 6) (s : State) : Res := .next (s.wS d (bfxS (s.rS a) q.toNat e.toNat))
/-- BFXN (R102). -/
def execBfxn (d a : Fin 16) (q e : BitVec 6) (s : State) : Res := .next (s.wS d (bfxU (s.rS a) q.toNat e.toNat))
/-- BFI (R102). -/
def execBfi (d a : Fin 16) (q e : BitVec 6) (s : State) : Res := .next (s.wS d (bfi64 (s.rS d) (s.rS a) q.toNat e.toNat))
/-- LI (R103). -/
def execLi (d : Fin 16) (i : BitVec 16) (s : State) : Res := .next (s.wS d (sx i))
/-- LIS (R103). -/
def execLis (d : Fin 16) (i : BitVec 16) (s : State) : Res := .next (s.wS d ((s.rS d <<< 16) ||| zx i))
/-- SEL (R106). -/
def execSel (d a b c : Fin 16) (s : State) : Res := .next (s.wS d (if s.rP c then s.rS a else s.rS b))
/-- hint n: no operation (R78). -/
def execHint (_n : BitVec 20) (s : State) : Res := .next s
/-- nop: no operation (R78). -/
def execNop (_n : BitVec 20) (s : State) : Res := .next s

end Sys2Proof.Machine
end

