-- ==== Sys2Proof/Machine/Crypto.lean ====
section
/-! DEFINITION. Crypto: SHAKE256 with 512 bits of output, AES-256 in XTS mode over a sector, and the signatures of Obsidian
(R310, R415, R424, R425, R428 to R430, R435). The algorithms are the published standards that the manual names (PRESUMED, log 20). -/

namespace Sys2Proof.Machine

/-! ### SHAKE256 (FIPS 202) -/

def laneRot (x : Word) (n : Nat) : Word := x.rotateLeft n
def keccakRot : List Nat :=
  [0, 1, 62, 28, 27, 36, 44, 6, 55, 20, 3, 10, 43, 25, 39, 41, 45, 15, 21, 8, 18, 2, 61, 56, 14]
def keccakRc : List Word :=
  [0x0000000000000001, 0x0000000000008082, 0x800000000000808A, 0x8000000080008000, 0x000000000000808B, 0x0000000080000001,
   0x8000000080008081, 0x8000000000008009, 0x000000000000008A, 0x0000000000000088, 0x0000000080008009, 0x000000008000000A] ++
  [0x000000008000808B, 0x800000000000008B, 0x8000000000008089, 0x8000000000008003, 0x8000000000008002, 0x8000000000000080,
   0x000000000000800A, 0x800000008000000A, 0x8000000080008081, 0x8000000000008080, 0x0000000080000001, 0x8000000080008008]
/-- One round: theta, rho with pi, chi, iota. -/
def keccakRound (a : List Word) (rc : Word) : List Word :=
  let g (l : List Word) (i : Nat) : Word := l.getD i 0
  let c := (List.range 5).map (fun x => g a x ^^^ g a (x + 5) ^^^ g a (x + 10) ^^^ g a (x + 15) ^^^ g a (x + 20))
  let d := (List.range 5).map (fun x => g c ((x + 4) % 5) ^^^ laneRot (g c ((x + 1) % 5)) 1)
  let t := (List.range 25).map (fun i => g a i ^^^ g d (i % 5))
  let b := (List.range 25).map (fun i => let k := (3 * (i / 5) + i % 5) % 5 + 5 * (i % 5); laneRot (g t k) (keccakRot.getD k 0))
  (List.range 25).map (fun i =>
    let x := g b i ^^^ (~~~(g b (i / 5 * 5 + (i + 1 - i / 5 * 5) % 5)) &&& g b (i / 5 * 5 + (i + 2 - i / 5 * 5) % 5))
    if i = 0 then x ^^^ rc else x)
def keccakF (a : List Word) : List Word := keccakRc.foldl keccakRound a
/-- Absorbs blocks of 136 bytes. -/
def absorb : Nat → List Word → List Byte → List Word
  | 0, a, _ => a
  | n + 1, a, bs =>
    let w := quadsOf 17 (bs.take 136)
    absorb n (keccakF ((List.range 25).map (fun i => a.getD i 0 ^^^ w.getD i 0))) (bs.drop 136)
/-- The 512-bit digest of a message. -/
def shake256 (m : List Byte) : BitVec 512 :=
  let n := m.length / 136 + 1
  let gap := 136 * n - m.length
  let pad : List Byte := if gap = 1 then [0x9F] else 0x1F :: (List.replicate (gap - 2) 0 ++ [0x80])
  BitVec.ofNat 512 (leNat (quadBytes ((absorb n (List.replicate 25 0) (m ++ pad)).take 8)))

/-! ### AES-256 (FIPS 197) -/

def xtime (b : Byte) : Byte := (b <<< 1) ^^^ (if b.msb then 0x1B else 0)
def gmul : Nat → Byte → Byte → Byte
  | 0, _, _ => 0
  | n + 1, a, b => (if b.getLsbD 0 then a else 0) ^^^ gmul n (xtime a) (b >>> 1)
def ginv (a : Byte) : Byte :=
  let sq (x : Byte) : Byte := gmul 8 x x
  let a2 := sq a
  let a4 := sq a2
  let a8 := sq a4
  let a16 := sq a8
  let a32 := sq a16
  let a64 := sq a32
  gmul 8 (gmul 8 (gmul 8 (gmul 8 (gmul 8 (gmul 8 a2 a4) a8) a16) a32) a64) (sq a64)
def sbox (b : Byte) : Byte :=
  let x := ginv b
  x ^^^ x.rotateLeft 1 ^^^ x.rotateLeft 2 ^^^ x.rotateLeft 3 ^^^ x.rotateLeft 4 ^^^ 0x63
def sboxInv (b : Byte) : Byte := ginv (b.rotateLeft 1 ^^^ b.rotateLeft 3 ^^^ b.rotateLeft 6 ^^^ 0x05)
def xorBytes (a b : List Byte) : List Byte := (a.zip b).map (fun x => x.1 ^^^ x.2)
/-- Key expansion: words of 4 bytes, oldest first. -/
def expand : Nat → Nat → Byte → List (List Byte) → List (List Byte)
  | 0, _, _, ws => ws
  | n + 1, i, rc, ws =>
    let t := ws.getD (i - 1) []
    let t := if i % 8 = 0 then xorBytes ((t.drop 1 ++ t.take 1).map sbox) [rc, 0, 0, 0] else if i % 8 = 4 then t.map sbox else t
    expand n (i + 1) (if i % 8 = 0 then xtime rc else rc) (ws ++ [xorBytes (ws.getD (i - 8) []) t])
def roundKeys (key : List Byte) : List (List Byte) :=
  let ws := expand 52 8 1 ((List.range 8).map (fun i => (key.drop (4 * i)).take 4))
  (List.range 15).map (fun r => (((ws.drop (4 * r)).take 4)).flatten)
def pick16 (f : Nat → Nat) (s : List Byte) : List Byte := (List.range 16).map (fun i => s.getD (f i) 0)
def shiftRows (s : List Byte) : List Byte := pick16 (fun i => (i + 4 * (i % 4)) % 16) s
def unshiftRows (s : List Byte) : List Byte := pick16 (fun i => (i + 12 * (i % 4)) % 16) s
def mixWith (a b c d : Byte) (s : List Byte) : List Byte :=
  (List.range 16).map (fun i =>
    let at_ (k : Nat) : Byte := s.getD (i / 4 * 4 + (i + k) % 4) 0
    gmul 8 (at_ 0) a ^^^ gmul 8 (at_ 1) b ^^^ gmul 8 (at_ 2) c ^^^ gmul 8 (at_ 3) d)
def aesEnc (ks : List (List Byte)) (x : List Byte) : List Byte :=
  let s := ((ks.drop 1).take 13).foldl (fun s k => xorBytes (mixWith 2 3 1 1 (shiftRows (s.map sbox))) k) (xorBytes x (ks.getD 0 []))
  xorBytes (shiftRows (s.map sbox)) (ks.getD 14 [])
def aesDec (ks : List (List Byte)) (x : List Byte) : List Byte :=
  let s := (((ks.drop 1).take 13).reverse).foldl (fun s k => mixWith 14 11 13 9 (xorBytes ((unshiftRows s).map sboxInv) k)) (xorBytes x (ks.getD 14 []))
  xorBytes ((unshiftRows s).map sboxInv) (ks.getD 0 [])

/-! ### XTS (IEEE 1619) over a sector of 128 bytes: the data key is the low half of a slot, the tweak key the high half (R432) -/

def xtsNext (t : BitVec 128) : BitVec 128 := (t <<< 1) ^^^ (if t.msb then 0x87 else 0)
def xtsRun (f : List Byte → List Byte) : Nat → BitVec 128 → List Byte → List Byte
  | 0, _, _ => []
  | n + 1, t, x => let tb := leBytes 16 t.toNat; xorBytes (f (xorBytes (x.take 16) tb)) tb ++ xtsRun f n (xtsNext t) (x.drop 16)
def xtsTweak (key : BitVec 512) (tweak : Nat) : BitVec 128 :=
  BitVec.ofNat 128 (leNat (aesEnc (roundKeys (leBytes 32 (key.toNat / 2 ^ 256))) (leBytes 16 tweak)))
def xtsEnc (key : BitVec 512) (tweak : Nat) (x : List Byte) : List Byte :=
  let ks := roundKeys (leBytes 32 key.toNat)
  xtsRun (aesEnc ks) (x.length / 16) (xtsTweak key tweak) x
def xtsDec (key : BitVec 512) (tweak : Nat) (x : List Byte) : List Byte :=
  let ks := roundKeys (leBytes 32 key.toNat)
  xtsRun (aesDec ks) (x.length / 16) (xtsTweak key tweak) x

/-! ### Signatures (R428 to R430) -/

/-- A byte run of a fixed length. -/
def fit (n : Nat) (bs : List Byte) : List Byte := (bs ++ List.replicate n 0).take n
/-- The signature that the holder of a public key's private key makes, and the public alias key of a device with a payload. -/
def signFor (pk m : List Byte) : List Byte := fit 3309 (Config.mldsaSignFor pk m)
def aliasPublic (payload : BitVec 512) : List Byte := fit 1952 (Config.aliasKey payload)
/-- A signature verifies under a public key: those that the holder of its private key makes do, and of all others the algorithm decides. -/
def verifies (pk m sig : List Byte) : Bool := Config.mldsaVerify pk m sig || sig == signFor pk m

namespace State

/-- The alias key signs a message (R428). -/
def aliasSign (s : State) (m : List Byte) : List Byte := signFor (aliasPublic s.trust.payload) m

end State

end Sys2Proof.Machine
end

