-- ==== Sys2Proof/Machine/Sfu.lean ====
section
/-! DEFINITION. Sfu: the nine special-function requests (R140 to R149; 07_special_functions.md). -/

namespace Sys2Proof.Machine

namespace State

/-- The stream beat at which the issuing thread's stream stands (R208). -/
def streamBeat (s : State) : Nat :=
  match s.me.strm with
  | some sid => ((s.stream? sid).bind (·.beat)).getD 0
  | none => 0
/-- The due of a timed operation in stream beats, and none outside a stream (R148, R170). -/
def dueAt (s : State) (u : Nat) : Option Nat := if s.inStream then some (s.streamBeat + u) else none
/-- Whether the thread stands at the limit of R66. A stream's operations are timed, and no rewinding is possible there (log 12). -/
def atLimit (s : State) : Bool := !s.inStream && s.me.full

/-- The task requests that wait in a core's SFU request buffer (R143). -/
def sfuWaiting (s : State) (p : Place) : Nat := (s.sfu.filter (fun r => r.pl = p && !r.strm && r.land.isNone)).length

/-- One request of function f on the lanes of va, with its due (R142, R143, R148). -/
def sfuIssue (s : State) (f : Nat) (d a : Fin 16) (u : BitVec 8) : Res :=
  if s.atLimit then .next (s.rewind .limit)
  else if !s.inStream && decide (4 ≤ s.sfuWaiting s.me.pl) then .next (s.rewind .sfu)
  else
    let o : Op := { s.newOp with dest := some (.v d), counts := true, acc := false, due := s.dueAt u.toNat }
    let r : SfuReq := { id := s.newId, uid := s.me.uid, pl := s.me.pl, f := f, arg := s.rV a, strm := s.inStream, beat := s.beat }
    .next (State.bump { s with me := s.me.addOp o, sfu := s.sfu ++ [r] })

end State

/-- FEXP2 (R142, R149). -/
def execFexp2 (d a : Fin 16) (u : BitVec 8) (s : State) : Res := s.sfuIssue 0 d a u
/-- FLOG2 (R142, R149). -/
def execFlog2 (d a : Fin 16) (u : BitVec 8) (s : State) : Res := s.sfuIssue 1 d a u
/-- FRCP (R142, R149). -/
def execFrcp (d a : Fin 16) (u : BitVec 8) (s : State) : Res := s.sfuIssue 2 d a u
/-- FRSQRT (R142, R149). -/
def execFrsqrt (d a : Fin 16) (u : BitVec 8) (s : State) : Res := s.sfuIssue 3 d a u
/-- FSQRT (R142, R149). -/
def execFsqrt (d a : Fin 16) (u : BitVec 8) (s : State) : Res := s.sfuIssue 4 d a u
/-- FSINP (R142, R149). -/
def execFsinp (d a : Fin 16) (u : BitVec 8) (s : State) : Res := s.sfuIssue 5 d a u
/-- FCOSP (R142, R149). -/
def execFcosp (d a : Fin 16) (u : BitVec 8) (s : State) : Res := s.sfuIssue 6 d a u
/-- FTANH (R142, R149). -/
def execFtanh (d a : Fin 16) (u : BitVec 8) (s : State) : Res := s.sfuIssue 7 d a u
/-- FSIGM (R142, R149). -/
def execFsigm (d a : Fin 16) (u : BitVec 8) (s : State) : Res := s.sfuIssue 8 d a u

end Sys2Proof.Machine
end

