-- ==== Sys2Proof/Machine/Memory.lean ====
section
/-! DEFINITION. Memory: the load, store, timed load, prefetch and fence forms (R153 to R174), and the words of an atomic region (R188, R189). -/

namespace Sys2Proof.Machine

/-- The register bytes of a load (R168). -/
def loadVal (f : LdFmt) (bs : List Byte) : VWord :=
  let x := leNat bs
  let n := 8 * bs.length
  match f with
  | .sx => BitVec.ofNat 128 (BitVec.ofInt 64 (if bit x (n - 1) then (x : Int) - 2 ^ n else x)).toNat
  | .zx => BitVec.ofNat 128 x
  | .vec => BitVec.ofNat 128 x
  | .bc w => BitVec.ofNat 128 ((List.range (128 / w)).foldl (fun a j => a + x % 2 ^ w * 2 ^ (w * j)) 0)

namespace State

/-- Writes a destination register (R64). -/
def wDest (s : State) (d : Dest) (x : VWord) : State :=
  match d with
  | .s k => s.wS k (x.setWidth 64)
  | .v k => s.wV k x

/-- Translation for a stream, which never parks: a miss is walked at once (R173, R174; log 13). A walk that waits for a page to be pulled (error 0) has held
the line before the bundle issued. -/
def walkNow (s : State) (va : Nat) (u : Use) : Found × State :=
  match s.walkFill s.me.pl va with
  | (.error 0, s') => (.miss va, s')
  | (.error sub, s') => (.flt 4 sub, s')
  | (.ok t, s') => (permit t u (tlbLoc t va), s')

/-- Places 1 to 4 of R174, then k: a fault is raised with FADDR = EA, a miss rewinds and parks. For a region word off cacheable pages R178 says FADDR = EA,
and R177 and R189 the address of the word; the model gives the word's (DESIGN CHOICE, log 117). -/
def withLoc (s : State) (ea : Addr) (n : Nat) (u : Use) (k : State → Loc → Res) : Res :=
  match s.resolve ea n u with
  | .flt c sub => .next (s.raise c sub (if c = 1 && sub = 6 then s.iss.b else ea))
  | .at l => k s l
  | .miss va =>
    if s.inStream then
      match s.walkNow va u with
      | (.flt c sub, s') => .next (s'.raise c sub ea)
      | (.at l, s') => k s' l
      | (.miss _, s') => .next s'
    else .next (s.missAt va ea false)

/-- The channel check of an access to the own scratchpad, then k (R165, R254). -/
def withChan (s : State) (off n : Nat) (ea : Addr) (k : Res) : Res :=
  match s.chanCheck s.me.pl off n with
  | .pass => k
  | .park => if s.inStream then k else .next (s.rewind (.chan off n))
  | .err c sub => .next (s.raise c sub ea)

/-- An access that is performed as its bundle issues waits at the bundle while an acquire of the thread has not landed (R199; log 18). -/
def withAcq (s : State) (k : Res) : Res := if s.me.ops.any (·.acq) && !s.inStream then .next (s.rewind .acq) else k
/-- A reduction, a timed load or a spawn record of a thread on its own scratchpad that is not yet performed and meets n bytes at an offset. -/
def ownRed (s : State) (t : Thread) (off n : Nat) : Bool :=
  s.net.any (fun x => x.uid == t.uid && (match x.kind, x.loc with
    | .red _ k _, .scr p o => p == t.pl && decide (o < off + n) && decide (off < o + k)
    | .redF _, .scr p o => p == t.pl && decide (o < off + n) && decide (off < o + 4)
    | .load k _ _, .scr p o => p == t.pl && decide (o < off + n) && decide (off < o + k)
    | .spawn _ _, .scr p o => p == t.pl && decide (o < off + n) && decide (off < o + 128)
    | _, _ => false))
/-- An access to the own scratchpad that is performed as its bundle issues waits at the bundle for the acquires of the thread, and for its earlier
reductions, timed loads and spawns on those bytes (R199, R266, R267; log 18). -/
def withOwn (s : State) (off n : Nat) (k : Res) : Res :=
  if (s.me.ops.any (·.acq) || s.ownRed s.me off n) && !s.inStream then .next (s.rewind .acq) else k

/-! ### Words of an atomic region -/

/-- The region word's sector agrees with those of the earlier words (R188). -/
def sameSector (r : Region) (ea : Addr) : Bool := r.words.all (fun w => w.ea.toNat / 128 == ea.toNat / 128)

/-- A load or store word of a region: nothing is performed at issue; a load makes its destination pending (R64, R188), discards the earlier results still
addressed to it (R65), and counts against the limit of R66. -/
def regionWord (s : State) (r : Region) (ea : Addr) (n : Nat) (st : Option (List Byte)) (ld : Option Dest) (f : LdFmt) : Res :=
  s.withLoc ea n (if st.isSome then .regionWr else .regionRd) (fun s l =>
    if !sameSector r ea then .next (s.raise 1 6 s.iss.b)
    else
      let w : RWord := { ea := ea, n := n, fpc := s.iss.b, store := st, load := none, fmt := f, loc := l }
      match ld with
      | none => .next { s with me := { s.me with region := some { r with words := r.words ++ [w] } } }
      | some d =>
        if s.me.full then .next (s.rewind .limit)
        else
          let o : Op := { id := s.newId, fpc := r.b, dest := some d, counts := true, acq := true, ea := ea, n := n, grp := r.grp }
          let gone := (s.me.ops.filter (fun x => x.dest == some d && !x.disc)).map (·.id)
          let r1 : Region := { r with words := r.words ++ [{ w with load := some (d, o.id) }], discs := r.discs ++ gone }
          .next (State.bump { s with me := { s.me.addOp o with region := some r1 } }))

/-- The region is shipped to the home of its sector, as its first performed word was translated, when its last word has issued; its loads end the run of
remote loads (R159, R188). The one POISON of a poisoned sector names that word's EA, which R189 does not state (DESIGN CHOICE, log 120). -/
def shipRegion (s : State) (r : Region) : State :=
  let s := { s with me := { s.me with region := none, run := if r.words.any (·.load.isSome) then 0 else s.me.run } }
  match r.words with
  | [] => s
  | w :: _ =>
    let o : Op := { id := r.grp, fpc := r.b, rel := true, acq := true, ea := w.ea, n := w.n }
    { s with me := s.me.addOp o
             net := s.net ++ [{ id := r.grp, uid := s.me.uid, pl := s.me.pl, fpc := r.b, ea := w.ea, loc := w.loc, kind := .region r.words }] }

/-! ### Loads -/

/-- Issues a long load (R158, R64, R66); the passed tag check of a vldk that is served elsewhere is an acquire (R263). -/
def longLoad (s : State) (ea : Addr) (n : Nat) (f : LdFmt) (d : Dest) (tag : Option (BitVec 16)) (due : Option Nat) (l : Loc) : Res :=
  if s.atLimit then .next (s.rewind .limit)
  else
    .next (s.issueOp { s.newOp with dest := some d, counts := true, acq := tag.isSome, ea := ea, n := n, due := due } (s.newReq (.load n f tag) l ea))

/-- A short load from the own scratchpad: the tag check, then poison, then the value (R164, R166, R169). R174 gives POISON no place beside the SCHEDULE of
vldk; here and where a vldk is served the tag is tested first (DESIGN CHOICE, log 97). -/
def shortLoad (s : State) (ea : Addr) (off n : Nat) (f : LdFmt) (d : Dest) (tag : Option (BitVec 16)) : Res :=
  s.withOwn off n (s.withChan off n ea
    (let key := scrKey s.me.pl off
     if (match tag with | some t => s.mem.tag key != t | none => false) then .next (s.raise 8 1 ea)
     else if s.mem.poisoned key then .next (s.raise 9 0 ea)
     else .next ((s.modMe (fun t => { t with run := 0 })).wDest d (loadVal f (s.mem.read key n)))))

/-- A plain load of another core's scratchpad: it moves the thread or is served (R159). -/
def remoteLoad (s : State) (p : Place) (ea : Addr) (n : Nat) (f : LdFmt) (d : Dest) (tag : Option (BitVec 16)) (l : Loc) : Res :=
  let t := s.me
  let cont := t.run != 0 && t.tslot.toNat == p.l && t.tcore.toNat == p.c
  let k := if cont then t.run.toNat + 1 else 1
  if t.thresh = 0 then s.longLoad ea n f d tag none l
  else if t.thresh.toNat ≤ k then
    .next ((s.modMe (fun t => { t with run := 0, tslot := 0, tcore := 0 })).rewind (.migrate p))
  else if s.atLimit then .next (s.rewind .limit)
  else (s.modMe (fun t => { t with run := BitVec.ofNat 8 k, tslot := BitVec.ofNat 8 p.l, tcore := BitVec.ofNat 7 p.c })).longLoad ea n f d tag none l

/-- Every plain load (R158, R159, R168, R173). -/
def loadForm (s : State) (ea : Addr) (n : Nat) (f : LdFmt) (d : Dest) (tag : Option (BitVec 16)) : Res :=
  match s.me.region with
  | some r => s.regionWord r ea n none (some d) f
  | none =>
    s.withLoc ea n .load (fun s l =>
      match l with
      | .scr p off =>
        if p = s.me.pl then s.shortLoad ea off n f d tag
        else if s.inStream then .next (s.raise 1 5 ea)
        else s.remoteLoad p ea n f d tag l
      | _ => if s.inStream then .next (s.raise 1 5 ea)
             else if s.atLimit then .next (s.rewind .limit)
             else (s.modMe (fun t => { t with run := 0 })).longLoad ea n f d tag none l)

/-- vldk names a scratchpad byte, or SCRATCH_RANGE is raised in place 2 (R169, R174). -/
def vldkForm (s : State) (ea : Addr) (d : Dest) (tag : BitVec 16) : Res :=
  match s.region s.me.pl ea with
  | .translated _ => .next (s.raise (if ea.toNat % 16 != 0 then 3 else 7) 0 ea)
  | _ => s.loadForm ea 16 .vec d (some tag)

/-- Timed loads: always long, never migrating (R160, R170). -/
def timedLoad (s : State) (ea : Addr) (n : Nat) (f : LdFmt) (d : Dest) (u : BitVec 12) : Res :=
  if u = 0 then .next (s.raise 2 3 s.iss.b)
  else
    s.withLoc ea n .load (fun s l =>
      let go : Res :=
        if s.atLimit then .next (s.rewind .limit)
        else (s.modMe (fun t => { t with run := 0 })).longLoad ea n f d none (s.dueAt u.toNat) l
      match l with
      | .scr p off => if p = s.me.pl then s.withChan off n ea go else go
      | _ => go)

/-! ### Stores -/

/-- A store updates the line in its core's own L1 as it issues, unless an acquire of the thread holds it back (R161, R199, R260). -/
def updatesL1 (s : State) (l : Loc) : Bool := (match s.lineOf l with | some k => s.ownCopy s.me.pl k | none => false) && !s.me.ops.any (·.acq)
/-- Every plain store (R158, R160, R168, R173). -/
def storeForm (s : State) (ea : Addr) (bs : List Byte) : Res :=
  let n := bs.length
  match s.me.region with
  | some r => s.regionWord r ea n (some bs) none .vec
  | none =>
    s.withLoc ea n .store (fun s l =>
      match l with
      | .scr p off =>
        if p = s.me.pl then s.withOwn off n (s.withChan off n ea (.next (s.modMem (fun m => m.write (scrKey p off) bs))))
        else if s.inStream then .next (s.raise 1 5 ea)
        else .next (s.issueOp { s.newOp with ea := ea, n := n } (s.newReq (.store bs) l ea))
      | _ =>
        if s.inStream then .next (s.raise 1 5 ea)
        else .next (s.issueOp { s.newOp with ea := ea, n := n } { s.newReq (.store bs) l ea with seen := s.updatesL1 l }))

/-- The n low bytes of a scalar register. -/
def sBytes (s : State) (k : Fin 16) (n : Nat) : List Byte := leBytes n (s.rS k).toNat
def vBytes (s : State) (k : Fin 16) : List Byte := leBytes 16 (s.rV k).toNat

/-- A fence parks the thread until its accesses are performed for its scope: 0 core, 1 slot, 2 owner, 3 system (R172). -/
def fence (s : State) (k : Nat) : Res := .next (s.parkAfter (.fence k))

end State

/-- LD_B (R168). -/
def execLdB (d a : Fin 16) (i : BitVec 12) (s : State) : Res := s.loadForm (eaOff (s.rS a) i) 1 .sx (.s d) none
/-- LD_H (R168). -/
def execLdH (d a : Fin 16) (i : BitVec 12) (s : State) : Res := s.loadForm (eaOff (s.rS a) i) 2 .sx (.s d) none
/-- LD_W (R168). -/
def execLdW (d a : Fin 16) (i : BitVec 12) (s : State) : Res := s.loadForm (eaOff (s.rS a) i) 4 .sx (.s d) none
/-- LD_D (R168). -/
def execLdD (d a : Fin 16) (i : BitVec 12) (s : State) : Res := s.loadForm (eaOff (s.rS a) i) 8 .sx (.s d) none
/-- LDN_B (R168). -/
def execLdnB (d a : Fin 16) (i : BitVec 12) (s : State) : Res := s.loadForm (eaOff (s.rS a) i) 1 .zx (.s d) none
/-- LDN_H (R168). -/
def execLdnH (d a : Fin 16) (i : BitVec 12) (s : State) : Res := s.loadForm (eaOff (s.rS a) i) 2 .zx (.s d) none
/-- LDN_W (R168). -/
def execLdnW (d a : Fin 16) (i : BitVec 12) (s : State) : Res := s.loadForm (eaOff (s.rS a) i) 4 .zx (.s d) none
/-- VLD (R168). -/
def execVld (d a : Fin 16) (i : BitVec 12) (s : State) : Res := s.loadForm (eaOff (s.rS a) i) 16 .vec (.v d) none
/-- ST_B (R168): the d field names the data register. -/
def execStB (d a : Fin 16) (i : BitVec 12) (s : State) : Res := s.storeForm (eaOff (s.rS a) i) (s.sBytes d 1)
/-- ST_H (R168). -/
def execStH (d a : Fin 16) (i : BitVec 12) (s : State) : Res := s.storeForm (eaOff (s.rS a) i) (s.sBytes d 2)
/-- ST_W (R168). -/
def execStW (d a : Fin 16) (i : BitVec 12) (s : State) : Res := s.storeForm (eaOff (s.rS a) i) (s.sBytes d 4)
/-- ST_D (R168). -/
def execStD (d a : Fin 16) (i : BitVec 12) (s : State) : Res := s.storeForm (eaOff (s.rS a) i) (s.sBytes d 8)
/-- VST (R168). -/
def execVst (d a : Fin 16) (i : BitVec 12) (s : State) : Res := s.storeForm (eaOff (s.rS a) i) (s.vBytes d)
/-- VLD_BC (R168). -/
def execVldBc (d a : Fin 16) (t : IntT) (s : State) : Res :=
  let n := match t with | .i8 => 1 | .i16 => 2 | .i32 => 4 | .i64 => 8
  s.loadForm (ea0 (s.rS a)) n (.bc (8 * n)) (.v d) none
/-- VLDK (R169). -/
def execVldk (d a b : Fin 16) (s : State) : Res := s.vldkForm (ea0 (s.rS a)) (.v d) ((s.rS b).setWidth 16)
/-- FENCE_K (R172). -/
def execFenceK (s : State) : Res := s.fence 0
/-- FENCE_S (R172). -/
def execFenceS (s : State) : Res := s.fence 1
/-- FENCE_O (R172). -/
def execFenceO (s : State) : Res := s.fence 2
/-- FENCE_Y (R172). -/
def execFenceY (s : State) : Res := s.fence 3
/-- LDT (R170). -/
def execLdt (d a : Fin 16) (u : BitVec 12) (s : State) : Res := s.timedLoad (ea0 (s.rS a)) 8 .zx (.s d) u
/-- VLDT (R170). -/
def execVldt (d a : Fin 16) (u : BitVec 12) (s : State) : Res := s.timedLoad (ea0 (s.rS a)) 16 .vec (.v d) u
/-- AREG (R188): the next n words join into one atomic region. -/
def execAreg (n : Fin 16) (s : State) : Res :=
  if n.val = 0 || decide (8 < n.val) then .next (s.raise 2 3 s.iss.b)
  else if s.iss.pair then .next (s.raise 1 6 s.iss.b)
  else .next (State.bump (s.modMe (fun t => { t with region := some { b := s.iss.b, left := n.val, wait := false, words := [], grp := s.newId } })))

end Sys2Proof.Machine
end

