-- ==== Sys2Proof/Machine/Fetch.lean ====
section
/-! DEFINITION. Fetch: the fetch of instruction words, the forming of a bundle, and the checks that a bundle passes before it is performed
(R73 to R82, R339, R340, R350). -/

namespace Sys2Proof.Machine

/-- What the fetch of a word gives: the word, a fault, a TLB miss, or a page that is still held back (R419). -/
inductive Fetched
  | word (w : BitVec 32)
  | flt (code sub : Nat)
  | miss (va : Nat)
  | held
deriving DecidableEq, Repr

/-- A formed bundle: one word or two, at its address (R73). -/
structure Bundle where
  b : Addr
  ws : List (BitVec 32)
deriving DecidableEq, Repr
/-- The size of a bundle (R60). -/
def Bundle.z (x : Bundle) : Nat := 4 * x.ws.length

/-- What the fetch of a bundle gives. -/
inductive FetchRes
  | ok (x : Bundle)
  | flt (code sub : Nat)
  | pairing (faddr : Addr)
  | miss (va : Nat)
  | held
deriving DecidableEq, Repr

namespace State

/-- The stamp of the latest tlbinv of kind 0 that covers the page of an entry (R340). -/
def sweptAt (s : State) (t : Tlb) : Nat :=
  s.mem.swept.foldl (fun a x => if x.1 == t.o && tlbNames t x.2.1 then max a x.2.2 else a) 0
/-- The bytes that a fetch sees at an owner's DRAM offset: as they stood at a stamp, before the writes since then (R340). -/
def codeBytes (s : State) (o since : Nat) : Nat → Nat → List Byte
  | _, 0 => []
  | p, n + 1 =>
    (match s.mem.code.find? (fun c => c.1 == o && c.2.1 == p && decide (since < c.2.2.1)) with | some c => c.2.2.2 | none => s.mem.getB (s.dramKey o p)) ::
      codeBytes s o since (p + 1) n
/-- The word at an address, by a TLB entry that covers it (R339, R340). -/
def fetchAt (s : State) (t : Tlb) (va : Nat) : Fetched :=
  if !t.x || t.kind == .sync || t.peer.isSome then .flt 5 2
  else
    let l := tlbLoc t va
    if s.heldBack l then .held
    else if s.locBad l then .flt 9 0
    else .word (BitVec.ofNat 32 (leNat (match l with | .dram o p _ => s.codeBytes o (s.sweptAt t) p 4 | l => s.readLoc l 4)))
/-- The word at an address, for a core of a place (R339, R340). -/
def fetchWord (s : State) (p : Place) (a : Addr) : Fetched :=
  if 2 ^ 47 ≤ a.toNat then .flt 5 2
  else
    let va := s.viaPair p.o a.toNat
    match s.tlbHit p va with
    | some t => s.fetchAt t va
    | none => .miss va
/-- FormBundle (R73). -/
def fetchBundle (s : State) (p : Place) (b : Addr) : FetchRes :=
  match s.fetchWord p b with
  | .flt c n => .flt c n
  | .miss va => .miss va
  | .held => .held
  | .word w0 =>
    if !bit w0.toNat 31 then .ok ⟨b, [w0]⟩
    else if bit w0.toNat 29 || b.toNat % 8 != 0 then .pairing b
    else match s.fetchWord p (b + 4) with
      | .flt c n => .flt c n
      | .miss va => .miss va
      | .held => .held
      | .word w1 => if bit w1.toNat 29 then .ok ⟨b, [w0, w1]⟩ else .pairing (b + 4)

/-- The fetch of a word that reaches its home slice (R305, R306): the spec names no instruction buffer and none is excluded, so whether a fetch is served
short of its home is a free value (log 103). -/
def fetchTouch (s : State) (p : Place) (a : Addr) : State :=
  let va := s.viaPair p.o a.toNat
  match s.tlbHit p va with
  | some t => let l := tlbLoc t va; if s.heldBack l || s.free.toNat.testBit 0 then s.drawn else s.drawn.chargeMem false l
  | none => s

/-- A thread runs at the monitor level (R350). -/
def monitorLevel (s : State) : Bool := s.me.pl.o == 0

end State

/-- The address of word k of a bundle. -/
def wordAt (b : Addr) (k : Nat) : Addr := b + BitVec.ofNat 48 (4 * k)
/-- The first word, by its number, whose check answers something. -/
def firstWord {α : Type} (f : α → Option Nat) : Nat → List α → Option (Nat × Nat)
  | _, [] => none
  | k, x :: xs => match f x with | some n => some (k, n) | none => firstWord f (k + 1) xs
/-- The subcode of ILLEGAL_INSTRUCTION that a word's major and function raise (R79). -/
def wordSub (w : BitVec 32) : Option Nat :=
  match decodeWord w with
  | .ok _ => none
  | .error .function => some 2
  | .error _ => some 1
/-- The words of a bundle, decoded. -/
def decoded (ws : List (BitVec 32)) : List Decoded := ws.filterMap (fun w => match decodeWord w with | .ok d => some d | .error _ => none)
/-- A stream-only form (R211). -/
def streamForm : Instr → Bool
  | .sloop _ _ => true
  | .send => true
  | _ => false
/-- The halves write one register (R75). -/
def sharedDest : List Decoded → Bool
  | [x, y] => (instrWrites x.i).any (fun r => (instrWrites y.i).contains r)
  | _ => false

/-- A form that must be a lone word: a pair that holds it raises subcode 6 by its bits alone, whatever its guard reads (R71, R189, R195). -/
def loneForm : Instr → Bool
  | .areg _ => true
  | .qredI32 _ _ _ => true
  | .qredI64 _ _ _ => true
  | .qredF32 _ _ _ => true
  | _ => false

namespace State

/-- Places 4 to 7 of R82 for decoded words, then the lone words of R189 and R195: a code, a subcode and the FADDR of R81. R82 gives no place to subcode 7 of
ILLEGAL_INSTRUCTION (R211); it stands here beside subcode 5, which no bundle meets together with it (DESIGN CHOICE, log 99). -/
def formFault (s : State) (b : Addr) (ds : List Decoded) : Option (Nat × Nat × Addr) :=
  match firstWord (fun (d : Decoded) => if instrIsMonitor d.i && !s.monitorLevel then some 4 else none) 0 ds with
  | some (k, n) => some (1, n, wordAt b k)
  | none =>
    match firstWord (fun (d : Decoded) => if s.inStream then (if instrStreamBad d.g d.i then some 5 else none) else if streamForm d.i then some 7 else none) 0 ds with
    | some (k, n) => some (1, n, wordAt b k)
    | none =>
      match firstWord (fun (d : Decoded) => d.i.reservedSub) 0 ds with
      | some (k, n) => some (2, n, wordAt b k)
      | none =>
        if sharedDest ds then some (2, 1, b)
        else (firstWord (fun (d : Decoded) => if loneForm d.i && decide (1 < ds.length) then some 6 else none) 0 ds).map (fun r => (1, r.2, wordAt b r.1))

end State

/-- UNASSIGNED_WORD (R79): a word of the bundle at the PC has no entry in the map; the size formed so far tells which word it is (R81). -/
def execUnassignedWord (w : BitVec 32) (s : State) : Res :=
  match wordSub w with
  | some n => .next (s.raise 1 n (s.iss.b + BitVec.ofNat 48 (s.iss.z - 4)))
  | none => .next s
/-- INSTRUCTION_FETCH_FAULT (R340): precise at the bundle; FPC and FADDR hold its address. -/
def execInstructionFetchFault (code sub : Nat) (s : State) : Res := .next (s.raise code sub s.iss.b)

end Sys2Proof.Machine
end

