-- ==== Sys2Proof/Machine/Flags.lean ====
section
/-! DEFINITION. Flags: every lane computation of the vector instructions, with the FCSR flags it raises (R33 to R41, R116 to R139). -/

namespace Sys2Proof.Machine

/-! ### Lanes (R116) -/

/-- The width w(t) of a lane type (R116). -/
def LaneT.width : LaneT → Nat
  | .i8 | .n8 | .g8 => 8
  | .i16 | .n16 | .bf16 => 16
  | .i32 | .n32 | .f32 => 32
  | .i64 | .n64 => 64
/-- The lane count L(t) (R116). -/
def LaneT.count (t : LaneT) : Nat := 128 / LaneT.width t
/-- The format of an F type. -/
def LaneT.fmt : LaneT → Fmt
  | .bf16 => .bf16
  | _ => .f32
/-- Lane j of width w, unsigned (R116). -/
def lane (w : Nat) (v : VWord) (j : Nat) : Nat := v.toNat / 2 ^ (w * j) % 2 ^ w
/-- An unsigned lane read as two's complement (R33). -/
def laneInt (w x : Nat) : Int := if 2 ^ (w - 1) ≤ x then (x : Int) - 2 ^ w else x
/-- The lane as the type reads it: signed for I types, unsigned for N types (R116). -/
def laneVal (t : LaneT) (x : Nat) : Int := if t.isI then laneInt (LaneT.width t) x else x
/-- The low w bits of an integer (R33). -/
def lowBits (w : Nat) (x : Int) : Nat := (x % 2 ^ w).toNat
/-- A register from its lanes, lane 0 lowest; lanes beyond the list are zero. -/
def unlanes (w : Nat) : List Nat → Nat
  | [] => 0
  | x :: xs => x % 2 ^ w + 2 ^ w * unlanes w xs
/-- A register from a function of the lane number. -/
def ofLanes (w n : Nat) (f : Nat → Nat) : VWord := BitVec.ofNat 128 (unlanes w ((List.range n).map f))
/-- A register and the union of the flags of its lanes (R41, R117). -/
def ofLanesF (w n : Nat) (f : Nat → Nat × Flags) : VWord × Flags :=
  let rs := (List.range n).map f
  (BitVec.ofNat 128 (unlanes w (rs.map (·.1))), rs.foldl (fun a r => a ||| r.2) 0)

/-! ### Floating lanes (R122 to R125, R136 to R138) -/

/-- Rounds an exact result with the flags its computation raised. -/
def finish (f : Fmt) (mode : RM) (x : XR × Flags) : Nat × Flags :=
  let r := f.round mode x.1
  (r.1, r.2 ||| x.2)
/-- vadd, vsub, vmul on F lanes (R122). R39 gives the sign of an exact zero from operands of opposite sign; for a difference the signs are compared after
the subtracted operand is negated, as in the standard that R122 names (DEDUCED, log 122). -/
def fAdd (f : Fmt) (mode : RM) (a b : Nat) : Nat × Flags := finish f mode (XR.sum mode [f.val a, f.val b])
def fSub (f : Fmt) (mode : RM) (a b : Nat) : Nat × Flags := finish f mode (XR.sum mode [f.val a, (f.val b).neg])
def fMul (f : Fmt) (mode : RM) (a b : Nat) : Nat × Flags := finish f mode ((f.val a).mul (f.val b))
/-- A sum of exact products and of one addend, rounded once (R124, R133). -/
def fSumProd (f : Fmt) (mode : RM) (ps : List (XR × Flags)) (c : XR) : Nat × Flags :=
  let r := XR.sum mode (ps.map (·.1) ++ [c])
  finish f mode (r.1, ps.foldl (fun a p => a ||| p.2) r.2)
/-- vfma and vfms (R124). The sign of an exact zero of vfms is found as that of fSub: the product's sign is negated first (DEDUCED, log 122). -/
def fFma (f : Fmt) (mode : RM) (a b c : Nat) : Nat × Flags := fSumProd f mode [(f.val a).mul (f.val b)] (f.val c)
def fFms (f : Fmt) (mode : RM) (a b c : Nat) : Nat × Flags := fSumProd f mode [(f.val a).neg.mul (f.val b)] (f.val c)
/-- vneg and vabs on F lanes (R122): the sign bit alone, but for a NaN. -/
def fSign (f : Fmt) (g : Nat → Nat) (a : Nat) : Nat × Flags :=
  match f.val a with
  | .nan sig => (f.qnan, flagIf sig fNV)
  | _ => (g a, 0)
def fNeg (f : Fmt) : Nat → Nat × Flags := fSign f (fun a => if bit a (f.w - 1) then a - 2 ^ (f.w - 1) else a + 2 ^ (f.w - 1))
def fAbs (f : Fmt) : Nat → Nat × Flags := fSign f (fun a => a % 2 ^ (f.w - 1))
/-- The order of R123: as reals, with −0 below +0. -/
def fBelow (f : Fmt) (a b : Nat) : Bool :=
  let x := f.val a
  let y := f.val b
  x.lt y || (!y.lt x && x.sgn && !y.sgn)
/-- vmin and vmax on F lanes (R123). -/
def fMinMax (f : Fmt) (max : Bool) (a b : Nat) : Nat × Flags :=
  let x := f.val a
  let y := f.val b
  if x.isNan || y.isNan then (f.qnan, flagIf (x.isSig || y.isSig) fNV)
  else (if fBelow f a b != max then a else b, 0)
/-- The conditions of vcmp: 0 eq, 1 lt, 2 le (R125). -/
def fCmp (f : Fmt) (cc a b : Nat) : Bool × Flags :=
  let x := f.val a
  let y := f.val b
  if x.isNan || y.isNan then (false, flagIf (x.isSig || y.isSig) fNV)
  else ((if cc = 0 then !x.lt y && !y.lt x else if cc = 1 then x.lt y else !y.lt x), 0)
/-- vround (R136). -/
def fRound (f : Fmt) (mode : RM) (a : Nat) : Nat × Flags :=
  match f.val a with
  | .nan sig => (f.qnan, flagIf sig fNV)
  | .inf _ => (a, 0)
  | .fin neg m e => let r := roundAt mode neg m e 0; (f.pack neg r.1 0, flagIf r.2 fNX)
/-- vscale (R137). -/
def fScale (f : Fmt) (mode : RM) (a : Nat) (n : Int) : Nat × Flags :=
  match f.val a with
  | .nan sig => (f.qnan, flagIf sig fNV)
  | .inf neg => (f.infB neg, 0)
  | .fin neg m e => if m = 0 then (a, 0) else f.round mode (.fin neg m (e + n))
/-- vexpo (R138): a signed integer of the lane's width. -/
def fExpo (f : Fmt) (a : Nat) : Nat × Flags :=
  match f.val a with
  | .nan _ => (2 ^ (f.w - 1), fNV)
  | .inf _ => (2 ^ (f.w - 1) - 1, 0)
  | .fin _ m e => if m = 0 then (2 ^ (f.w - 1), fDZ) else (lowBits f.w (e + (Nat.log2 m : Int)), 0)

/-! ### Integer lanes (R119 to R121) -/

/-- Saturates to an integer range (R121, R129). -/
def clampI (lo hi x : Int) : Int := if x < lo then lo else if hi < x then hi else x
/-- The range of an integer of width w. -/
def rangeLo (signed : Bool) (w : Nat) : Int := if signed then -(2 ^ (w - 1)) else 0
def rangeHi (signed : Bool) (w : Nat) : Int := if signed then 2 ^ (w - 1) - 1 else 2 ^ w - 1
def saturate (signed : Bool) (w : Nat) (x : Int) : Int := clampI (rangeLo signed w) (rangeHi signed w) x
/-- vabs on an I lane: the most negative value stays itself (R119). -/
def iAbs (t : LaneT) (x : Nat) : Nat := lowBits (LaneT.width t) (laneVal t x).natAbs
/-- vmin and vmax on integer lanes (R119). -/
def iMin (t : LaneT) (x y : Nat) : Nat := if laneVal t x < laneVal t y then x else y
def iMax (t : LaneT) (x y : Nat) : Nat := if laneVal t x < laneVal t y then y else x
/-- The conditions of vcmp on integer lanes (R125). -/
def iCmp (t : LaneT) (cc x y : Nat) : Bool :=
  if cc = 0 then x == y else if cc = 1 then decide (laneVal t x < laneVal t y) else decide (laneVal t x ≤ laneVal t y)
/-- Shifts of a lane by n (R120). -/
def iShl (w x n : Nat) : Nat := x * 2 ^ n % 2 ^ w
def iShr (x n : Nat) : Nat := x / 2 ^ n
def iSar (w x n : Nat) : Nat := lowBits w (laneInt w x / 2 ^ n)

/-! ### Whole registers -/

/-- One lane form over integer or floating lanes, by the type (R119, R122). -/
def vMap2 (t : LaneT) (fi : Nat → Nat → Nat) (ff : Fmt → Nat → Nat → Nat × Flags) (a b : VWord) : VWord × Flags :=
  let w := LaneT.width t
  ofLanesF w (LaneT.count t) (fun j => if t.isF then ff (LaneT.fmt t) (lane w a j) (lane w b j) else (fi (lane w a j) (lane w b j), 0))
def vMap1 (t : LaneT) (fi : Nat → Nat) (ff : Fmt → Nat → Nat × Flags) (a : VWord) : VWord × Flags :=
  vMap2 t (fun x _ => fi x) (fun f x _ => ff f x) a a

def vAddL (mode : RM) (t : LaneT) : VWord → VWord → VWord × Flags := vMap2 t (fun x y => (x + y) % 2 ^ LaneT.width t) (fun f => fAdd f mode)
def vSubL (mode : RM) (t : LaneT) : VWord → VWord → VWord × Flags := vMap2 t (fun x y => lowBits (LaneT.width t) ((x : Int) - y)) (fun f => fSub f mode)
def vMulL (mode : RM) (t : LaneT) : VWord → VWord → VWord × Flags := vMap2 t (fun x y => x * y % 2 ^ LaneT.width t) (fun f => fMul f mode)
def vNegL (t : LaneT) : VWord → VWord × Flags := vMap1 t (fun x => lowBits (LaneT.width t) (-(x : Int))) fNeg
def vAbsL (t : LaneT) : VWord → VWord × Flags := vMap1 t (iAbs t) fAbs
def vMinL (t : LaneT) : VWord → VWord → VWord × Flags := vMap2 t (iMin t) (fun f => fMinMax f false)
def vMaxL (t : LaneT) : VWord → VWord → VWord × Flags := vMap2 t (iMax t) (fun f => fMinMax f true)
/-- vfma and vfms (R124). The sign of an exact zero of vfms is found as that of fSub: the product's sign is negated first (DEDUCED, log 122). -/
def fltFmt : FltT → Fmt
  | .f32 => .f32
  | .bf16 => .bf16
def vMap3 (f : Fmt) (g : Nat → Nat → Nat → Nat × Flags) (a b c : VWord) : VWord × Flags :=
  ofLanesF f.w (128 / f.w) (fun j => g (lane f.w a j) (lane f.w b j) (lane f.w c j))
def vFmaL (mode : RM) (t : FltT) : VWord → VWord → VWord → VWord × Flags := vMap3 (fltFmt t) (fFma (fltFmt t) mode)
def vFmsL (mode : RM) (t : FltT) : VWord → VWord → VWord → VWord × Flags := vMap3 (fltFmt t) (fFms (fltFmt t) mode)
/-- vround, vscale and vexpo (R136 to R138). -/
def vRoundL (mode : RM) (t : LaneT) : VWord → VWord × Flags := vMap1 t id (fun f => fRound f mode)
def vExpoL (t : LaneT) : VWord → VWord × Flags := vMap1 t id fExpo
def vScaleL (mode : RM) (t : LaneT) (a b : VWord) : VWord × Flags :=
  let w := LaneT.width t
  ofLanesF w (LaneT.count t) (fun j => fScale (LaneT.fmt t) mode (lane w a j) (laneInt w (lane w b j)))
/-- vcmp: all ones or all zeros in each lane (R125). -/
def vCmpL (cc : Nat) (t : LaneT) (a b : VWord) : VWord × Flags :=
  let w := LaneT.width t
  ofLanesF w (LaneT.count t) (fun j =>
    let r := if t.isF then fCmp (LaneT.fmt t) cc (lane w a j) (lane w b j) else (iCmp t cc (lane w a j) (lane w b j), 0)
    (if r.1 then 2 ^ w - 1 else 0, r.2))
/-- vshl, vshr, vsar and vshli: the amount is taken mod w (R120). -/
def vShiftL (t : LaneT) (f : Nat → Nat → Nat → Nat) (a : VWord) (n : Nat → Nat) : VWord :=
  let w := LaneT.width t
  ofLanes w (LaneT.count t) (fun j => f w (lane w a j) (n j % w))
/-- vsat (R121). -/
def vSatL (t : LaneT) (a : VWord) : VWord :=
  let w := LaneT.width t
  ofLanes w (LaneT.count t) (fun j => lowBits w (saturate t.isI (w / 2) (laneVal t (lane w a j))))
/-- vbcast, vins and vperm (R127, R128). -/
def vBcastL (t : LaneT) (x : Word) : VWord := ofLanes (LaneT.width t) (LaneT.count t) (fun _ => x.toNat % 2 ^ LaneT.width t)
def vInsL (t : LaneT) (d : VWord) (x : Word) (k : Nat) : VWord :=
  let w := LaneT.width t
  ofLanes w (LaneT.count t) (fun j => if j = k % LaneT.count t then x.toNat % 2 ^ w else lane w d j)
def vPermL (t : LaneT) (a b : VWord) : VWord :=
  let w := LaneT.width t
  ofLanes w (LaneT.count t) (fun j => lane w a (lane w b j % LaneT.count t))
/-- vext: a lane, extended as its type says (R127). -/
def vExtL (t : LaneT) (a : VWord) (k : Nat) : Word := BitVec.ofInt 64 (laneVal t (lane (LaneT.width t) a (k % LaneT.count t)))
/-- Narrow (R129). -/
def narrow (mode : RM) (t : LaneT) (x : Nat) : Nat × Flags :=
  if t.isF then finish .bf16 mode (Fmt.f32.val x, flagIf (Fmt.f32.val x).isSig fNV)
  else let w := LaneT.width t / 2; (lowBits w (saturate t.isI w (laneVal t x)), 0)
/-- vpack (R129). -/
def vPackL (mode : RM) (t : LaneT) (a b : VWord) : VWord × Flags :=
  let w := LaneT.width t
  let n := LaneT.count t
  ofLanesF (w / 2) (2 * n) (fun j => narrow mode t (if j < n then lane w a j else lane w b (j - n)))
/-- BF16 to FP32, exact but for a NaN (R53, R130). -/
def bf16ToF32 (x : Nat) : Nat × Flags :=
  match Fmt.bf16.val x with
  | .nan sig => (Fmt.f32.qnan, flagIf sig fNV)
  | _ => (x * 65536, 0)
/-- vunpack (R130). -/
def vUnpackL (t : LaneT) (a : VWord) (h : Nat) : VWord × Flags :=
  let w := LaneT.width t
  let n := LaneT.count t / 2
  ofLanesF (2 * w) n (fun j =>
    let x := lane w a (n * (h % 2) + j)
    if t.isF then bf16ToF32 x else (lowBits (2 * w) (laneVal t x), 0))
/-- One level of the tree of vsum (R131). -/
def sumPairs (f : Nat → Nat → Nat × Flags) : List Nat → List Nat × Flags
  | x :: y :: r => let p := f x y; let q := sumPairs f r; (p.1 :: q.1, p.2 ||| q.2)
  | xs => (xs, 0)
/-- The tree of vsum: lanes halve until one is left (R131). -/
def sumTree (f : Nat → Nat → Nat × Flags) : Nat → List Nat → Nat × Flags
  | 0, xs => (xs.headD 0, 0)
  | k + 1, xs => let p := sumPairs f xs; let q := sumTree f k p.1; (q.1, p.2 ||| q.2)
/-- vsum (R131): the total in lane 0, the others zero. -/
def vSumL (mode : RM) (t : LaneT) (a : VWord) : VWord × Flags :=
  let w := LaneT.width t
  let n := LaneT.count t
  let r := sumTree (fun x y => if t.isF then fAdd (LaneT.fmt t) mode x y else ((x + y) % 2 ^ w, 0)) (Nat.log2 n) ((List.range n).map (lane w a))
  (BitVec.ofNat 128 r.1, r.2)

/-! ### Dot products (R132 to R134) -/

/-- The scale of a block: SExt of nine bits (R46). -/
def scale9 (x : Nat) : Int := laneInt 9 (x % 512)
/-- vdot.g8 (R132). -/
def vDotG8L (mode : RM) (d a b : VWord) (sc : Word) : VWord × Flags :=
  let sa := scale9 sc.toNat
  let sb := scale9 (sc.toNat / 65536)
  ofLanesF 32 4 (fun j =>
    let x := lane 32 d j
    let ps := (List.range 4).map (fun k => (g8Val (lane 8 a (4 * j + k)) sa, g8Val (lane 8 b (4 * j + k)) sb))
    match Fmt.f32.val x with
    | .nan sig => (Fmt.f32.qnan, flagIf sig fNV)
    | v =>
      if ps.any (fun p => p.1.isNan || p.2.isNan) then (Fmt.f32.qnan, 0)
      else match v with
        | .inf _ => (x, 0)
        | v =>
          match (XR.sum mode (v :: ps.map (fun p => (p.1.mul p.2).1))).1 with
          | .fin neg m e => if m = 0 then (Fmt.f32.pack (mode == 3) 0 0, 0) else Fmt.f32.round mode (.fin neg m e)
          | y => Fmt.f32.round mode y)
/-- vdot.bf16 (R133). -/
def vDotBf16L (mode : RM) (d a b : VWord) : VWord × Flags :=
  ofLanesF 32 4 (fun j =>
    let p (k : Nat) := (Fmt.bf16.val (lane 16 a k)).mul (Fmt.bf16.val (lane 16 b k))
    fSumProd .f32 mode [p (2 * j), p (2 * j + 1)] (Fmt.f32.val (lane 32 d j)))
/-- vdot.i8 (R134). -/
def vDotI8L (d a b : VWord) : VWord :=
  ofLanes 32 4 (fun j =>
    let ps : Int := (List.range 4).foldl (fun (s : Int) k => s + laneInt 8 (lane 8 a (4 * j + k)) * laneInt 8 (lane 8 b (4 * j + k))) 0
    lowBits 32 ((lane 32 d j : Int) + ps))

/-! ### Conversions (R53, R135) -/

/-- The exact value of a source lane of vcvt, with whether it is a signalling NaN. -/
def cvtVal (ts : LaneT) (s : Int) (x : Nat) : XR :=
  match ts with
  | .g8 => g8Val x s
  | .f32 | .bf16 => (LaneT.fmt ts).val x
  | _ => let v := laneInt (LaneT.width ts) x; .fin (decide (v < 0)) v.natAbs 0
/-- Convert (R53): F, G, I and N of the table; what the table calls exact rounds to itself. -/
def cvtLane (mode : RM) (tt ts : LaneT) (s : Int) (x : Nat) : Nat × Flags :=
  let v := cvtVal ts s x
  match tt with
  | .g8 => if s = -256 then (0x80, fNV) else g8Encode 0 (v.scale (-s))
  | .f32 | .bf16 => finish (LaneT.fmt tt) mode (v, flagIf v.isSig fNV)
  | _ =>
    let w := LaneT.width tt
    if ts.isI then (lowBits w (saturate true w (laneInt (LaneT.width ts) x)), 0)
    else let r := roundToInt mode w true v; (lowBits w r.1, r.2)
/-- vcvt (R135): the lowest lanes are converted, the others are zero. -/
def vCvtL (mode : RM) (tt ts : LaneT) (a : VWord) (sb : Word) : VWord × Flags :=
  let n := min (LaneT.count ts) (LaneT.count tt)
  ofLanesF (LaneT.width tt) n (fun j => cvtLane mode tt ts (scale9 sb.toNat) (lane (LaneT.width ts) a j))

end Sys2Proof.Machine
end

