-- ==== Sys2Proof/Machine/Sync.lean ====
section
/-! DEFINITION. Sync: the issue of full/empty, reservation, atomic, reduction, barrier, queue, message and spawn forms
(R175 to R199, R205; 10_synchronisation.md). What they do where they arrive stands in Perform. -/

namespace Sys2Proof.Machine

/-- The queue or barrier name of a scalar register: its place in the thread's owner (R190, R192). -/
def namePlace (o : Nat) (x : Word) : Place := ⟨o, nameSlot x, nameCore x⟩
def nameBar (x : Word) : Nat := bits x.toNat 6 0
def nameQueue (x : Word) : Nat := bits x.toNat 2 0

/-- A queue of a core (R192). -/
def Core.queue (c : Core) (q : Nat) : List VWord := alGet [] q c.queues

namespace State

/-- A posted or held form of a sync page: release forms; stfe counts against R66 until performed (R183, R184, R199). -/
def syncStore (s : State) (ea : Addr) (counts : Bool) (u : Use) (k : ReqKind) : Res :=
  s.withLoc ea 8 u (fun s l =>
    if counts && s.me.full then .next (s.rewind .limit)
    else .next (s.issueOp { s.newOp with ea := ea, n := 8, rel := true, counts := counts } (s.newReq k l ea)))

/-- ldfe and ldff: acquires with a long result (R183, R199). R159 does not say whether they, or lrw, are among the loads that end a run of remote loads;
the model counts them with the synchronisation operations and leaves MIGT unchanged (DESIGN CHOICE, log 95). -/
def syncLoad (s : State) (d : Fin 16) (ea : Addr) (k : ReqKind) : Res :=
  s.withLoc ea 8 .syncRd (fun s l =>
    if s.me.full then .next (s.rewind .limit)
    else .next (s.issueOp { s.newOp with dest := some (.s d), ea := ea, n := 8, acq := true, counts := true } (s.newReq k l ea)))

/-- scq and rsv.rel: the reservation must be held on this word; the thread's state is none from issue on (R184, R185). -/
def resvEnd (s : State) (ea : Addr) (u : Use) (k : ReqKind) : Res :=
  s.withLoc ea 8 u (fun s l =>
    if s.me.resv != .held ea then .next (s.raise 2 4 ea)
    else .next ((s.modMe (fun t => { t with resv := .none })).issueOp { s.newOp with ea := ea, n := 8, rel := true } (s.newReq k l ea)))

/-- A returning atomic of n bytes: the thread leaves the issue turn until s[d] has landed (R186). -/
def amoForm (s : State) (d a b : Fin 16) (n : Nat) (op : AmoOp) : Res :=
  let ea := ea0 (s.rS a)
  s.withLoc ea n .atomic (fun s l =>
    let go : Res :=
      if s.me.full then .next (s.rewind .limit)
      else .next ((s.issueOp { s.newOp with dest := some (.s d), ea := ea, n := n, acq := true, rel := true, counts := true }
        (s.newReq (.amo op n (s.rS b) (s.rS d)) l ea)).parkAfter (.amo s.newId))
    match l with
    | .scr p off => if p = s.me.pl then s.withChan off n ea go else go
    | _ => go)

/-- A reduction (R187). -/
def redForm (s : State) (a : Fin 16) (n : Nat) (k : ReqKind) : Res :=
  let ea := ea0 (s.rS a)
  s.withLoc ea n .atomic (fun s l =>
    let go : Res :=
      if s.me.redpend = 32 then .next (s.rewind .redLimit)
      else .next ((s.modMe (fun t => { t with redpend := t.redpend + 1 })).issueOp { s.newOp with ea := ea, n := n, red := true } (s.newReq k l ea))
    match l with
    | .scr p off => if p = s.me.pl then s.withChan off n ea go else go
    | _ => go)

/-- A named place must lie in the owner's slots (R190, R192). -/
def withName (s : State) (x : Word) (k : Place → Res) : Res :=
  if s.nslot s.me.pl.o ≤ nameSlot x then .next (s.raise 5 0 (ea0 x)) else k (namePlace s.me.pl.o x)

/-- A barrier form; those that wait leave the issue turn (R191). -/
def barForm (s : State) (x : Word) (acq rel wait : Bool) (k : Nat → ReqKind) : Res :=
  s.withName x (fun p =>
    let t := s.issueOp { s.newOp with acq := acq, rel := rel } (s.newReq (k (nameBar x)) (.scr p 0) (ea0 x))
    .next (if wait then t.parkAfter (.bar s.newId) else t))

/-! ### Queues (R192 to R196) -/

def setQueue (s : State) (p : Place) (q : Nat) (es : List VWord) : State :=
  let c := s.core p
  s.setCore { c with queues := alSet q es c.queues }

/-- The parked thread of a queue that parked earliest. -/
def firstParked (ts : List Thread) (p : Place) (q : Nat) : Option (Nat × Nat) :=
  ts.foldl (fun (a : Option (Nat × Nat)) t =>
    match t.park with
    | .queue k st =>
      if t.pl = p && k = q && !t.woken then
        (match a with
         | none => some (st, t.uid)
         | some (b, _) => if st < b then some (st, t.uid) else a)
      else a
    | _ => a) none
/-- An entry that arrives wakes one parked thread (QUEUE_WAKE, R194). -/
def wakeQueue (s : State) (p : Place) (q : Nat) : State :=
  match firstParked s.allThreads p q with
  | some (_, u) => s.modThread u (fun t => { t with woken := true })
  | none => s

/-- The held push of a queue that arrived earliest (R180, R193). -/
def heldPush (s : State) (p : Place) (q : Nat) : Option Req :=
  s.net.foldl (fun (a : Option Req) r =>
    match r.kind, r.loc, r.arrived with
    | .push k _, .scr x _, some st =>
      if x = p && k = q then
        (match a with
         | none => some r
         | some b => if st < b.arrived.getD 0 then some r else a)
      else a
    | _, _, _ => a) none

/-- An entry joins the tail, its sender's operation is done, and a parked thread is woken (R193). -/
def joinQueue (s : State) (p : Place) (q : Nat) (v : VWord) (r : Req) : State :=
  let s := s.setQueue p q ((s.core p).queue q ++ [v])
  let s := { s with net := s.net.filter (fun x => x.id != r.id) }
  (s.finishOp r.uid r.id 0 0 none).wakeQueue p q

/-- The bank group in whose list a request waits, or would wait: that of its sync word, or of the core whose queue it is pushed to, on the layer where that core
stands (R19, R21, R29, R180); a waiting one keeps its list over a rotation (R322). -/
def bankOf (s : State) (r : Req) : Option Nat :=
  r.bank.or (match r.kind, r.loc with
    | .push _ _, .scr p _ => (s.tileOf p).map (fun t => bankNo t (s.physLayer t (p.c / 16)))
    | _, .dram _ _ _ => some (bankKey (s.locKey r.loc))
    | _, _ => none)
/-- The request waits where it has arrived, behind those that arrived before it. -/
def await (s : State) (r : Req) : State :=
  State.bump { s with net := s.net.map (fun (x : Req) => if x.id == r.id then { x with arrived := some s.newId, bank := s.bankOf x } else x) }
/-- A push arrives: it joins the queue or is held (R193). -/
def arrivePush (s : State) (r : Req) : State :=
  match r.kind, r.loc with
  | .push q v, .scr p _ =>
    if ((s.core p).queue q).length < 16 && (s.heldPush p q).isNone then s.joinQueue p q v r
    else s.await r
  | _, _ => s
/-- The entries of a bank group's waiter list and of the overflow table that are taken: waiting requests, held pushes, and the heads of reservation
queues, which keep theirs (R180, R181, R184). -/
def waiters (s : State) (bank : Nat) : Nat :=
  (s.net.filter (fun r => r.arrived.isSome && s.bankOf r == some bank)).length + (s.mem.resv.filter (fun x => bankKey x.1 == bank)).length
def overflowed (s : State) : Nat :=
  let banks : List Nat := (s.net.filterMap (fun (r : Req) => if r.arrived.isSome then s.bankOf r else none) ++ s.mem.resv.map (fun (x : Nat × Nat) => bankKey x.1)).eraseDups
  banks.foldl (fun a b => a + (s.waiters b - 256)) 0
/-- A request that must wait finds an entry, in the list or in the overflow table (R181). -/
def entryFree (s : State) (r : Req) : Bool :=
  match s.bankOf r with
  | some b => decide (s.waiters b < 256) || decide (s.overflowed < bits s.regs.wovn.toNat 31 0)
  | none => true

/-- A push made by a unit of the device, with no thread behind it (R250, R294, R356); while it needs an entry and none is free, it waits in the network
(R181). -/
def unitPush (s : State) (p : Place) (q : Nat) (v : VWord) : State :=
  let r : Req := { id := s.newId, uid := 0, pl := p, loc := .scr p 0, kind := .push q v }
  let s' := State.bump { s with net := s.net ++ [r] }
  if (((s.core p).queue q).length < 16 && (s.heldPush p q).isNone) || s.entryFree r then s'.arrivePush r else s'
/-- A held push is accepted when an entry frees (HELD_PUSH_ACCEPT, R193). -/
def acceptHeld (s : State) (p : Place) (q : Nat) : State :=
  if ((s.core p).queue q).length < 16 then
    match s.heldPush p q with
    | some r => (match r.kind with | .push _ v => s.joinQueue p q v r | _ => s)
    | none => s
  else s

/-- qpop, qpeek and qred park on an empty queue, at the tail of its parked threads (R194, R195). -/
def parkQueue (s : State) (q : Nat) : State := (s.rewind (.queue q s.newId)).bump

end State

/-- LDFE (R183). -/
def execLdfe (d a : Fin 16) (s : State) : Res := s.syncLoad d (ea0 (s.rS a)) .ldfe
/-- LDFF (R183). -/
def execLdff (d a : Fin 16) (s : State) : Res := s.syncLoad d (ea0 (s.rS a)) .ldff
/-- STFE (R183): held until F = 0. -/
def execStfe (a b : Fin 16) (s : State) : Res := s.syncStore (ea0 (s.rS a)) true .syncWr (.stfe (s.rS b))
/-- STF (R183). -/
def execStf (a b : Fin 16) (s : State) : Res := s.syncStore (ea0 (s.rS a)) false .syncWr (.stf (s.rS b))
/-- FE_CLR (R183). -/
def execFeClr (a : Fin 16) (s : State) : Res := s.syncStore (ea0 (s.rS a)) false .syncWr .feClr
/-- LRW (R184, R185). R185 gives FADDR = EA for subcode 4 of scq and rsv.rel and none for that of lrw; the model gives EA too (DESIGN CHOICE, log 96). -/
def execLrw (d a : Fin 16) (s : State) : Res :=
  let ea := ea0 (s.rS a)
  s.withLoc ea 8 .syncRd (fun s l =>
    if s.me.resv != .none then .next (s.raise 2 4 ea)
    else if s.me.full then .next (s.rewind .limit)
    else .next ((s.modMe (fun t => { t with resv := .requested ea })).issueOp
      { s.newOp with dest := some (.s d), ea := ea, n := 8, acq := true, counts := true, rsv := true } (s.newReq .lrw l ea)))
/-- SCQ (R184, R185). -/
def execScq (a b : Fin 16) (s : State) : Res := s.resvEnd (ea0 (s.rS a)) .syncWr (.scq (s.rS b))
/-- RSV_REL (R184, R185). -/
def execRsvRel (a : Fin 16) (s : State) : Res := s.resvEnd (ea0 (s.rS a)) .syncRd .rsvRel
/-- AMO_D (R186). -/
def execAmoD (d a b : Fin 16) (o : AmoOp) (s : State) : Res := s.amoForm d a b 8 o
/-- AMO_W (R186). -/
def execAmoW (d a b : Fin 16) (o : AmoOp) (s : State) : Res := s.amoForm d a b 4 o
/-- RED_D (R187). -/
def execRedD (a b : Fin 16) (o : RedOp) (s : State) : Res := s.redForm a 8 (.red o 8 (s.rS b))
/-- RED_W (R187). -/
def execRedW (a b : Fin 16) (o : RedOp) (s : State) : Res := s.redForm a 4 (.red o 4 (s.rS b))
/-- RED_FADD_F32 (R187). -/
def execRedFaddF32 (a b : Fin 16) (s : State) : Res := s.redForm a 4 (.redF ((s.rS b).setWidth 32))
/-- BAR_INIT (R191). -/
def execBarInit (a b : Fin 16) (s : State) : Res := s.barForm (s.rS a) false true false (fun k => .barInit k (bits (s.rS b).toNat 15 0))
/-- BAR_ARRIVE (R191). -/
def execBarArrive (a : Fin 16) (s : State) : Res := s.barForm (s.rS a) false true false .barArrive
/-- BAR_WAIT (R191). -/
def execBarWait (a : Fin 16) (s : State) : Res := s.barForm (s.rS a) true false true .barWait
/-- BAR_SYNC (R191). -/
def execBarSync (a : Fin 16) (s : State) : Res := s.barForm (s.rS a) true true true .barSync
/-- QPUSH (R193). -/
def execQpush (a b : Fin 16) (s : State) : Res :=
  let x := s.rS a
  s.withName x (fun p =>
    .next ((s.issueOp { s.newOp with rel := true } (s.newReq (.push (nameQueue x) (s.rV b)) (.scr p 0) (ea0 x))).parkAfter (.push s.newId)))
/-- QPOP (R194). -/
def execQpop (d a : Fin 16) (s : State) : Res :=
  if 8 ≤ a.val then .next (s.raise 2 2 s.iss.b)
  else s.withAcq (match (s.core s.me.pl).queue a.val with
    | [] => .next (s.parkQueue a.val)
    | e :: es => .next (((s.wV d e).setQueue s.me.pl a.val es).acceptHeld s.me.pl a.val))
/-- QPEEK (R194): it leaves the entry and wakes the next parked thread. -/
def execQpeek (d a : Fin 16) (s : State) : Res :=
  if 8 ≤ a.val then .next (s.raise 2 2 s.iss.b)
  else s.withAcq (match (s.core s.me.pl).queue a.val with
    | [] => .next (s.parkQueue a.val)
    | e :: _ => .next ((s.wV d e).wakeQueue s.me.pl a.val))

/-- One turn of a qred (R195): it must be a lone word; the PC stays on the bundle until QPOS reaches the count. -/
def qredTurn (s : State) (d a b : Fin 16) (add : VWord → VWord → VWord × Flags) : Res :=
  if 8 ≤ a.val then .next (s.raise 2 2 s.iss.b)
  else if s.iss.pair then .next (s.raise 1 6 s.iss.b)
  else
    let c := bits (s.rS b).toNat 15 0
    let finish (s : State) : State :=
      if c ≤ s.me.qpos.toNat then s.modMe (fun t => { t with qpos := 0 })
      else (s.setPc s.iss.b).status .rewound
    if s.me.qpos.toNat < c then
      s.withAcq (match (s.core s.me.pl).queue a.val with
      | [] => .next (s.parkQueue a.val)
      | e :: es =>
        let r := add (s.rV d) e
        let s := (((s.wV d r.1).orF r.2).setQueue s.me.pl a.val es).acceptHeld s.me.pl a.val
        .next (finish (s.modMe (fun t => { t with qpos := t.qpos + 1 }))))
    else .next (finish s)
/-- QRED_I32 (R195). -/
def execQredI32 (d a b : Fin 16) (s : State) : Res := qredTurn s d a b (vAddL 0 .i32)
/-- QRED_I64 (R195). -/
def execQredI64 (d a b : Fin 16) (s : State) : Res := qredTurn s d a b (vAddL 0 .i64)
/-- QRED_F32 (R195). -/
def execQredF32 (d a b : Fin 16) (s : State) : Res := qredTurn s d a b (vAddL s.rm .f32)
/-- MSG (R197, R377): posted, a release. -/
def execMsg (a b : Fin 16) (s : State) : Res :=
  let x := s.rS a
  .next (s.issueOp { s.newOp with rel := true } (s.newReq (.msg (bits x.toNat 35 32) (x.setWidth 32) (s.rV b) s.me.task.launch) (.peer s.me.pl.o 0 0) (ea0 x)))
/-- MRECV (R198): an acquire with a long result. -/
def execMrecv (d : Fin 16) (s : State) : Res :=
  if s.me.full then .next (s.rewind .limit)
  else .next (s.issueOp { s.newOp with dest := some (.v d), acq := true, counts := true } (s.newReq (.mrecv s.me.tid) (.peer s.me.pl.o 0 0) 0))
/-- SPAWN (R205): a release; the record is read where it arrives. R374 lists the forms that may act on a peer range without spawn and states no fault for
it; the model raises PROTECTION at issue, as for the other forms that may not (DESIGN CHOICE, log 121). -/
def execSpawn (d a : Fin 16) (s : State) : Res :=
  let ea := ea0 (s.rS a)
  s.withLoc ea 128 .load (fun s l =>
    let go : Res :=
      if s.me.full then .next (s.rewind .limit)
      else .next (s.issueOp { s.newOp with dest := some (.s d), ea := ea, n := 128, rel := true, counts := true } (s.newReq (.spawn 0 []) l ea))
    match l with
    | .peer _ _ _ => .next (s.raise 5 0 ea)
    | .scr p off => if p = s.me.pl then s.withChan off 128 ea go else go
    | _ => go)

end Sys2Proof.Machine
end

