-- ==== Sys2Proof/Machine/Perform.lean ====
section
/-! DEFINITION. Perform: what a request does where it arrives, when it may, and the landing of long results
(R65, R159 to R166, R179 to R193, R197, R198, R258 to R272, R296, R374 to R377). -/

namespace Sys2Proof.Machine

/-! ### When a request may be performed (R172, R199, R260 to R268) -/

/-- The bytes that a request touches at its location. -/
def ReqKind.size : ReqKind → Nat
  | .load n _ _ => n
  | .store bs => bs.length
  | .ldfe | .ldff | .stfe _ | .stf _ | .feClr | .lrw | .scq _ | .rsvRel => 8
  | .amo _ n _ _ => n
  | .red _ n _ => n
  | .redF _ => 4
  | .region _ => 128
  | .spawn _ _ => 128
  | _ => 0
/-- Release forms (R199, R205, R353). -/
def ReqKind.isRel : ReqKind → Bool
  | .stfe _ | .stf _ | .feClr | .scq _ | .rsvRel | .amo _ _ _ _ | .region _ | .barInit _ _ | .barArrive _ | .barSync _ | .push _ _ | .msg _ _ _ _
  | .spawn _ _ | .evpost _ => true
  | _ => false
/-- The barrier that a request names. -/
def ReqKind.bar? : ReqKind → Option Nat
  | .barInit k _ => some k
  | .barArrive k => some k
  | .barWait k => some k
  | .barSync k => some k
  | _ => none

namespace State

/-- The start of the bytes that a request touches; a region covers its sector. -/
def reqKey (s : State) (r : Req) : Nat :=
  let k := s.locKey r.loc
  match r.kind with | .region _ => k / 128 * 128 | _ => k
/-- The device and the remote owner that a peer entry names: two entries may name the same lines (R373, R375). -/
def peerName (s : State) (o k : Nat) : Nat × Nat :=
  let b := s.regs.ixtb.toNat + 4096 + 512 * o + 32 * k
  (s.platNat (b + 24) 1, s.platNat (b + 25) 1 % 16)
/-- Two requests have an address in common (R265); requests to one line of a peer keep their order, by whichever entry they go (R375). -/
def sameAddr (s : State) (a b : Req) : Bool :=
  match a.kind, b.kind with
  | .push p _, .push q _ => a.loc == b.loc && p == q
  | .msg e t _ _, .msg f u _ _ => e == f && t == u
  | .mrecv t, .mrecv u => t == u
  | .msg e t _ _, .mrecv u => e == 0 && t == u
  | .mrecv t, .msg e u _ _ => e == 0 && t == u
  | ka, kb =>
    match ka.bar?, kb.bar?, a.loc, b.loc with
    | some i, some j, _, _ => a.loc == b.loc && i == j
    | _, _, .peer o k x, .peer o' k' y => ka.size != 0 && kb.size != 0 && s.peerName o k == s.peerName o' k' && x / 1024 == y / 1024
    | _, _, _, _ =>
      ka.size != 0 && kb.size != 0 &&
      decide (s.reqKey a < s.reqKey b + kb.size) && decide (s.reqKey b < s.reqKey a + ka.size)

/-- A pause holds the network from the router flush to the slot-map switch (R320, R321, R324). -/
def netHeld (s : State) : Bool :=
  match s.rot.pause with
  | some p => p.phase != .stop && p.phase != .switched
  | none => false

/-- A load that its core's L1 serves, its own or the serving core's of a fused slot (R161, R162, R260). -/
def l1Serves (s : State) (r : Req) : Bool :=
  match r.kind, s.lineOf r.loc with
  | .load _ _ _, some k => s.inOwnL1 r.pl k
  | _, _ => false

/-- Two requests go to the same destination: a core, a slice, a home slice, a flash stack, a peer entry (R324). -/
def sameDest (s : State) : Loc → Loc → Bool
  | .scr p _, .scr q _ => p == q
  | .slice n _, .slice m _ => n == m
  | .dram o p _, .dram o' p' _ => s.homeSlice o (p / 1024) == s.homeSlice o' (p' / 1024)
  | .flash o f, .flash o' f' => s.homeSlice o (f / 1024) == s.homeSlice o' (f' / 1024)
  | .peer o k _, .peer o' k' _ => o == o' && k == k'
  | _, _ => false
/-- A captured write of a core's copy unit stands before what sets out later from that core to its destination (R324). -/
def unitCap (s : State) (p : Place) (l : Loc) : Bool :=
  (s.core p).mbox.any (fun m => m.wq.any (fun w => w.cap && s.sameDest w.loc l && !s.heldBack w.loc))
/-- A captured request of a core stands before what its copy unit sends later to the same destination (R324). -/
def reqCap (s : State) (p : Place) (l : Loc) : Bool :=
  s.net.any (fun x => x.cap && x.arrived.isNone && x.pl == p && s.sameDest x.loc l && !s.heldBack x.loc &&
    (match x.loc with | .scr q off => s.chanCheck q off x.kind.size == .pass | _ => true))
/-- A request or a packet that a pause captured goes ahead of the later requests from its source to its destination; one that has reached its core and waits there for a
channel, or for a page or an install, holds back none (R324). -/
def capturedAhead (s : State) (r : Req) : Bool :=
  (!r.cap && s.unitCap r.pl r.loc) || (!r.cap && s.graph.packets.any (fun k => k.cap && k.stage == .flight && k.src == some r.pl && (match r.loc with | .scr p _ => p == k.t.pl | _ => false))) ||
  s.net.any (fun x => x.cap && x.arrived.isNone && x.pl == r.pl && decide (x.id < r.id) && s.sameDest x.loc r.loc && !s.heldBack x.loc &&
    (match x.loc with | .scr p off => s.chanCheck p off x.kind.size == .pass | _ => true))

/-- A thread has read a store of a core-mate that is not yet performed at its home; what the thread releases waits for it (R260, R264). -/
def sawOpen (s : State) (t : Thread) : Bool := t.saw.any (fun i => s.net.any (fun x => x.id == i.1))
/-- A store that an earlier load of the thread has read in the L1, and that is not yet performed at its home, stands before a request to the same bytes, so
that no later access of the thread meets an older value there (R260, R267, R273). -/
def sawBefore (s : State) (r : Req) : Bool :=
  ((s.thread? r.uid).map (·.saw)).getD [] |>.any (fun i => decide (i.2 < r.id) && s.net.any (fun x => x.id == i.1 && s.sameAddr x r))
/-- A store of a core-mate that the threads of the core read already stands before a request to the same bytes (R260). -/
def mateStore (s : State) (r : Req) : Bool :=
  s.net.any (fun x => x.seen && x.pl == r.pl && x.uid != r.uid && decide (x.id < r.id) && s.sameAddr x r)
/-- A request may be performed: a release waits for every earlier access and for what its thread has read of its core's stores, every access waits for an
earlier acquire, accesses to one address keep their order, and a location that is held back is not reached (R199, R260 to R267, R390, R419). -/
def mayPerform (s : State) (r : Req) : Bool :=
  let ops := match s.thread? r.uid with | some t => t.ops | none => []
  let before := ops.filter (fun o => decide (o.id < r.id) && o.acc)
  let mine := s.net.filter (fun x => x.uid == r.uid && decide (x.id < r.id))
  !s.netHeld && !s.heldBack r.loc && !s.capturedAhead r &&
  (r.uid == 0 ||
    (!ops.any (fun o => decide (o.id < r.id) && o.acq) &&
     (!r.kind.isRel || (before.isEmpty && mine.isEmpty && !((s.thread? r.uid).map s.sawOpen).getD false)) &&
     (s.l1Serves r || (!s.mateStore r && !s.sawBefore r)) &&
     mine.all (fun x => !s.sameAddr x r || (s.l1Serves r && x.seen))))

/-! ### Answers -/

/-- The completion-time fault of a request (R345). -/
def reqFault (r : Req) (code sub : Nat) : Option FaultRec := some { op := r.id, code := code, sub := sub, fpc := r.fpc, faddr := r.ea }
/-- The request leaves the network and its operation has its result. -/
def answer (s : State) (r : Req) (res : VWord) (flt : Option FaultRec) : State :=
  State.finishOp { s with net := s.net.filter (fun (x : Req) => x.id != r.id) } r.uid r.id res 0 flt
def req? (s : State) (id : Nat) : Option Req := s.net.find? (fun r => r.id == id)
/-- Runs f on a request of the right kind that may be performed; otherwise nothing happens. -/
def withReq (s : State) (id : Nat) (f : Req → Res) : Res :=
  match s.req? id with
  | some r => if s.mayPerform r then f r else .next s
  | none => .next s

/-! ### Ixnar peers (R373 to R375) -/

/-- Device of a peer entry, and the usable links towards it. -/
def peerDev (s : State) (o k : Nat) : Nat := s.platNat (s.regs.ixtb.toNat + 4096 + 512 * o + 32 * k + 24) 1
def usable (s : State) (dev : Nat) : List Nat :=
  let route := s.platNat (s.regs.ixtb.toNat + 4 * dev) 4
  (List.range 18).filter (fun k => bit route k && bit s.regs.ixup.toNat k && bit s.regs.ixcfg.toNat (24 + k))
def linkFor (ls : List Nat) (l : Nat) : Nat := ls.getD (l % max 1 ls.length) 0
def ixDrop (s : State) : State := s.modRegs (fun r => { r with ixdrops := r.ixdrops + 1 })
/-- A request leaves for a peer (R375). -/
def ixSend (s : State) (o k l bytes : Nat) (op : IxOp) (ia : Nat) : State :=
  let dev := s.peerDev o k
  let b := s.regs.ixtb.toNat + 4096 + 512 * o + 32 * k
  let r : IxReq := { dev := bits s.regs.ixcfg.toNat 7 0, sown := o, own := s.platNat (b + 25) 1 % 16, ia := ia, op := op }
  (s.send (.ixReq (linkFor (s.usable dev) l) dev r)).charge o 10 bytes

/-- A request that wants an answer from a peer: POISON with no link or a failing one, PROTECTION when refused, else the peer's bytes. Which of these
comes, and the bytes, only the peer knows: free draws (R376, log 15). -/
def peerAnswer (s : State) (r : Req) (o k ia n bytes : Nat) (op : IxOp) (val : Nat → VWord) : State :=
  if (s.usable (s.peerDev o k)).isEmpty then s.answer r 0 (reqFault r 9 0)
  else
    let x := s.free
    let s := s.drawn.ixSend o k (ia / 1024) bytes op ia
    match x.toNat / 2 ^ 256 % 4 with
    | 0 => s.answer r 0 (reqFault r 9 0)
    | 1 => s.answer r 0 (reqFault r 5 0)
    | _ => s.answer r (val (x.toNat % 2 ^ (8 * n))) none
/-- A posted request to a peer: dropped with no link; whether the target admits it only the target knows (R376). -/
def peerPost (s : State) (r : Req) (o k ia bytes : Nat) (op : IxOp) : State :=
  if (s.usable (s.peerDev o k)).isEmpty then s.ixDrop.answer r 0 none
  else
    let x := s.free
    let s := s.drawn.ixSend o k (ia / 1024) bytes op ia
    (if x.getLsbD 256 then s.ixDrop else s).answer r 0 none

/-! ### Loads and stores (R159 to R166, R254, R260) -/

/-- A later request of the same thread that writes. -/
def laterWrite (r x : Req) : Bool := x.uid == r.uid && decide (r.id < x.id) && (match x.kind with | .load _ _ _ => false | _ => true)
/-- The stores that a load meets in its core's own L1 before they are performed at their home: none that stands behind a later write of its own thread
(R260, R267). -/
def seenStores (s : State) (r : Req) : List Req :=
  if s.l1Serves r then s.net.filter (fun x => x.seen && x.pl == r.pl && !s.net.any (fun y => laterWrite r y && decide (y.id ≤ x.id))) else []
/-- The bytes a load reads: from the home, or from its core's L1 with the stores that have updated it (R260). -/
def loadBytes (s : State) (r : Req) (n : Nat) : List Byte :=
  ((s.seenStores r).foldl (fun (m : Mem) x => match x.kind with | .store bs => m.write (s.locKey x.loc) bs | _ => m) s.mem).read (s.locKey r.loc) n
/-- What a load has read of its core-mates' stores is noted in its thread (R264). -/
def noteSeen (s : State) (r : Req) : State :=
  let ids := ((s.seenStores r).filter (fun x => x.uid != r.uid && s.sameAddr x r)).map (·.id)
  if ids.isEmpty then s else s.modThread r.uid (fun t => { t with saw := t.saw.filter (fun i => s.net.any (fun x => x.id == i.1)) ++ ids.map (fun i => (i, r.id)) })

/-- A load is performed at its home, and its reply returns (R159, R164, R166, R169, R254). -/
def loadPerform (s : State) (r : Req) (n : Nat) (f : LdFmt) (tag : Option (BitVec 16)) : State :=
  let key := s.locKey r.loc
  match r.loc with
  | .peer o k ia => s.peerAnswer r o k ia n n (.load n) (fun x => loadVal f (leBytes n x))
  | .scr p off =>
    match s.chanCheck p off n with
    | .park => s
    | .err c sub => s.answer r 0 (reqFault r c sub)
    | .pass =>
      if (match tag with | some t => s.mem.tag key != t | none => false) then s.answer r 0 (reqFault r 8 1)
      else if s.mem.poisoned key then s.answer r 0 (reqFault r 9 0)
      else s.answer r (loadVal f (s.mem.read key n)) none
  | .slice _ _ =>
    if (match tag with | some t => s.mem.tag key != t | none => false) then s.answer r 0 (reqFault r 8 1)
    else if s.mem.poisoned key then s.answer r 0 (reqFault r 9 0)
    else s.answer r (loadVal f (s.mem.read key n)) none
  | l =>
    let bad := match (s.lineOf l).bind (s.l1Copy r.pl) with | some x => x.bad | none => s.locBad l
    let s' := (if s.l1Serves r then s.noteSeen r else s.chargeMem false l).fillL1 r.pl r.ea l
    if bad then s'.answer r 0 (reqFault r 9 0)
    else s'.answer r (loadVal f (s.loadBytes r n)) none

/-- A store is performed at its home after the home has invalidated the other L1 copies (R163, R260); one that a channel holds waits (R254). -/
def storePerform (s : State) (r : Req) (bs : List Byte) : State :=
  match r.loc with
  | .peer o k ia => s.peerPost r o k ia bs.length (.store bs)
  | .scr p off => (match s.chanCheck p off bs.length with | .pass => (s.writeLoc r.loc bs).answer r 0 none | _ => s)
  | .slice _ _ => (s.writeLoc r.loc bs).answer r 0 none
  | l => (((s.chargeMem true l).invalL1 (s.locKey l / 128) (some r.pl)).writeDev (s.writer r) l bs).answer r 0 none

/-! ### Sync pages (R179 to R185) -/

/-- The condition of a sync-page operation on a word (R183, R184). -/
def syncCond (s : State) (k : ReqKind) (key : Nat) : Bool :=
  match k with
  | .ldfe | .ldff => s.mem.f key
  | .stfe _ => !s.mem.f key
  | .lrw => !s.mem.resv.any (fun x => x.1 == key)
  | _ => true
/-- The entry of a thread leaves the reservation queue of a word (R184). -/
def freeResv (s : State) (key uid : Nat) : State := s.modMem (fun m => { m with resv := m.resv.filter (fun x => x.1 != key || x.2 != uid) })

/-- A sync-page operation whose condition holds is performed (R183, R184). -/
def syncDo (s : State) (r : Req) : State :=
  let key := s.locKey r.loc
  let bad := s.poisonedKey key
  let word : VWord := if bad then 0 else BitVec.ofNat 128 (leNat (s.mem.read key 8))
  let flt := if bad then reqFault r 9 0 else none
  match r.kind with
  | .ldfe => ((s.chargeMem false r.loc).modMem (fun m => if bad then m else m.setF key false)).answer r word flt
  | .ldff => (s.chargeMem false r.loc).answer r word flt
  | .stfe x => (((s.chargeMem true r.loc).writeDev (s.writer r) r.loc (leBytes 8 x.toNat)).modMem (fun m => m.setF key true)).answer r 0 none
  | .stf x => (((s.chargeMem true r.loc).writeDev (s.writer r) r.loc (leBytes 8 x.toNat)).modMem (fun m => m.setF key true)).answer r 0 none
  | .feClr => (s.modMem (fun m => m.setF key false)).answer r 0 none
  | .lrw => ((s.chargeMem false r.loc).modMem (fun m => { m with resv := m.resv ++ [(key, r.uid)] })).answer r word flt
  | .scq x => (((s.chargeMem true r.loc).writeDev (s.writer r) r.loc (leBytes 8 x.toNat)).freeResv key r.uid).answer r 0 none
  | .rsvRel => (s.freeResv key r.uid).answer r 0 none
  | _ => s

/-- The waiter on a word that arrived first among those whose condition holds (R180). -/
def nextWaiter (s : State) (key : Nat) : Option Req :=
  s.net.foldl (fun (a : Option Req) r =>
    match r.arrived with
    | some st =>
      (match r.kind with
       | .ldfe | .ldff | .stfe _ | .lrw =>
         if s.locKey r.loc == key && s.syncCond r.kind key then
           (match a with
            | none => some r
            | some b => if st < b.arrived.getD 0 then some r else a)
         else a
       | _ => a)
    | none => a) none
/-- The scan after a change of F or of a reservation (R180). -/
def waiterScan (s : State) (key : Nat) : Nat → State
  | 0 => s
  | n + 1 =>
    match s.nextWaiter key with
    | some r => (s.syncDo r).waiterScan key n
    | none => s

/-- A request reaches its home bank group: performed, placed in the waiter list, or not accepted while it needs an entry and none is free; an lrw takes an
entry in any case (R179 to R181, R184). -/
def syncArrive (s : State) (r : Req) : State :=
  let key := s.locKey r.loc
  if r.arrived.isSome then s
  else if s.syncCond r.kind key && (r.kind != .lrw || s.entryFree r) then (s.syncDo r).waiterScan key s.net.length
  else if s.entryFree r then s.await r
  else s

/-! ### Atomics, reductions, regions (R186 to R189) -/

/-- The operation of an atomic on n-byte values (R186). -/
def amoVal (op : AmoOp) (n old x e : Nat) : Nat :=
  let w := 8 * n
  let so := laneInt w old
  let sx := laneInt w x
  match op with
  | .add => (old + x) % 2 ^ w
  | .min => if so < sx then old else x
  | .max => if so < sx then x else old
  | .minn => min old x
  | .maxn => max old x
  | .and => old &&& x
  | .or => old ||| x
  | .xor => old ^^^ x
  | .swap => x
  | .cas => if old = e then x else old
def redVal (op : RedOp) (n old x : Nat) : Nat :=
  amoVal (match op with | .add => .add | .min => .min | .max => .max | .and => .and | .or => .or | .xor => .xor) n old x 0
/-- What s[d] receives: old, extended (R186). -/
def amoRes (op : AmoOp) (n old : Nat) : VWord :=
  match op with
  | .minn | .maxn => BitVec.ofNat 128 old
  | _ => loadVal .sx (leBytes n old)
/-- red.fadd.f32 (R187): one rounding, no flags, a NaN is canonical. -/
def faddVal (old x : Nat) : Nat := (Fmt.f32.round 0 (XR.sum 0 [Fmt.f32.val old, Fmt.f32.val x]).1).1

/-- A write at a home, with the L1 copies of the sector invalidated (R163). -/
def homeWrite (s : State) (w : Nat × Nat × Nat) (l : Loc) (bs : List Byte) : State :=
  match s.lineOf l with
  | some k => ((s.chargeMem true l).invalL1 k none).writeDev w l bs
  | none => (s.chargeMem true l).writeDev w l bs
/-- The write of a peer at a home (R271, R376). -/
def outWrite (s : State) (l : Loc) (bs : List Byte) : State :=
  match s.lineOf l with
  | some k => ((s.chargeMem true l).invalL1 k none).writeOut l bs
  | none => (s.chargeMem true l).writeOut l bs

/-- A channel holds a request at the core that owns the range (R165). R165 and R254 name stores, loads and fetches; an atomic or a reduction there waits too, in
the error state as well (DESIGN CHOICE, log 128). -/
def chanHolds (s : State) (l : Loc) (n : Nat) : Bool :=
  match l with
  | .scr p off => s.chanCheck p off n != .pass
  | _ => false

def amoDo (s : State) (r : Req) (op : AmoOp) (n : Nat) (x e : Word) : State :=
  match r.loc with
  | .peer o k ia => s.peerAnswer r o k ia n n (.amo op n x e) (fun y => amoRes op n y)
  | l =>
    let key := s.locKey l
    if s.chanHolds l n then s
    else if s.poisonedKey key then (s.chargeMem false l).answer r 0 (reqFault r 9 0)
    else
      let old := leNat (s.mem.read key n)
      let new := amoVal op n old (x.toNat % 2 ^ (8 * n)) (e.toNat % 2 ^ (8 * n))
      ((s.chargeOld l).homeWrite (s.writer r) l (leBytes n new)).answer r (amoRes op n old) none

/-- REDPEND falls when the reduction is performed (R187). -/
def redDone (s : State) (r : Req) (flt : Option FaultRec) : State :=
  (s.modThread r.uid (fun t => { t with redpend := t.redpend - 1 })).answer r 0 flt
def redDo (s : State) (r : Req) (n : Nat) (op : IxOp) (f : Nat → Nat) : State :=
  match r.loc with
  | .peer o k ia => (s.modThread r.uid (fun t => { t with redpend := t.redpend - 1 })).peerPost r o k ia n op
  | l =>
    let key := s.locKey l
    if s.chanHolds l n then s
    else if s.poisonedKey key then (s.chargeMem false l).redDone r (reqFault r 9 0)
    else ((s.chargeOld l).homeWrite (s.writer r) l (leBytes n (f (leNat (s.mem.read key n))))).redDone r none

/-- The place of a word of a region: in the sector of the region. -/
def wordLoc (l : Loc) (ea : Addr) : Loc :=
  match l with | .dram o p k => .dram o (p / 128 * 128 + ea.toNat % 128) k | l => l
/-- The words of a region in program order at its sector (R188); the format of each load is that of its register. -/
def regionWords (s : State) (r : Req) (bad : Bool) : List RWord → State
  | [] => s
  | w :: ws =>
    let l := wordLoc r.loc w.ea
    let s := match w.store with
      | some bs => s.writeDev (s.writer r) l bs
      | none => s
    let s := match w.load with
      | some (_, id) => s.finishOp r.uid id (if bad then 0 else loadVal w.fmt (s.readLoc l w.n)) 0 none
      | none => s
    regionWords s r bad ws
/-- An atomic region at its home slice (R188, R189). -/
def regionDo (s : State) (r : Req) (ws : List RWord) : State :=
  let bad := s.poisonedKey (s.locKey r.loc)
  let stores := ws.any (fun w => w.store.isSome)
  let s := if stores && ws.any (fun w => w.load.isSome) then s.chargeOld r.loc else s
  let s := if stores then (s.chargeMem true r.loc).invalL1 (s.locKey r.loc / 128) none else s.chargeMem false r.loc
  (s.regionWords r bad ws).answer r 0 (if bad then reqFault r 9 0 else none)

/-! ### Barriers (R191) -/

def barOf (c : Core) (k : Nat) : Bar := (c.bars.find? (fun b => b.k == k)).getD { k := k }
def setBar (s : State) (p : Place) (b : Bar) : State :=
  let c := s.core p
  s.setCore { c with bars := if c.bars.any (fun x => x.k == b.k) then c.bars.map (fun x => if x.k == b.k then b else x) else c.bars ++ [b] }
/-- The name of a barrier in an arrival record. -/
def barKey (p : Place) (k : Nat) : Nat := (p.l * 128 + p.c) * 128 + k
/-- Waiters of a barrier are released. -/
def barRelease (s : State) (p : Place) (k : Nat) : State :=
  (s.net.filter (fun r => r.arrived.isSome && r.loc == .scr p 0 && r.kind.bar? == some k)).foldl (fun s r => s.answer r 0 none) s
/-- bar.arrive at the barrier; the thread's record takes g as the arrival finds it. -/
def barArrive (s : State) (r : Req) (p : Place) (k : Nat) : State :=
  let b := barOf (s.core p) k
  let s := s.modThread r.uid (fun t => { t with barRec := some (barKey p k, b.g) })
  if b.n = 0 then s
  else if b.a + 1 = b.n then (s.setBar p { b with a := 0, g := (b.g + 1) % 65536 }).barRelease p k
  else s.setBar p { b with a := b.a + 1 }
/-- bar.wait: released at once when N = 0 or the recorded generation has passed. -/
def barWait (s : State) (r : Req) (p : Place) (k : Nat) : State :=
  let b := barOf (s.core p) k
  let passed := match (s.thread? r.uid).bind (·.barRec) with | some (n, g) => n == barKey p k && g != b.g | none => false
  if b.n = 0 || passed then s.answer r 0 none else s.await r
def barDo (s : State) (r : Req) : State :=
  match r.loc, r.kind with
  | .scr p _, .barInit k n => (s.setBar p { barOf (s.core p) k with n := n, a := 0 }).answer r 0 none
  | .scr p _, .barArrive k => (s.barArrive r p k).answer r 0 none
  | .scr p _, .barWait k => if r.arrived.isSome then s else s.barWait r p k
  | .scr p _, .barSync k => if r.arrived.isSome then s else (s.barArrive r p k).barWait r p k
  | _, _ => s

/-! ### Messages (R197, R198, R296, R377) -/

def chargeDrop (s : State) (launch n : Nat) : State :=
  s.modGraph (fun g => { g with launches := g.launches.map (fun x => if x.id == launch then { x with drops := x.drops + n } else x) })
/-- The started launch that assigned a task id, and whether that task has been dispatched. -/
def launchOfTid (s : State) (o : Nat) (t : BitVec 32) : Option (Nat × Bool) :=
  s.graph.launches.findSome? (fun x =>
    if x.r.o != o then none
    else ((x.r.nodes.zip x.runs).findSome? (fun p =>
      let n := p.1
      let cnt := if bits (n.q.getD 0 0).toNat 3 0 = 0 then bits (n.q.getD 0 0).toNat 47 32 else 1
      let k := (t - n.tid).toNat - (if t.toNat < n.tid.toNat then 1 else 0)
      if t != 0 && decide (k < cnt) then some (x.id, p.2.st != .waiting && p.2.st != .skipped && decide (k < cnt - p.2.undisp)) else none)))
/-- A task of a launch that is complete has ended; it was dispatched (R296). -/
def tidEnded (s : State) (o : Nat) (t : BitVec 32) : Bool :=
  s.graph.ended.any (fun x => x.1 == o && t != 0 && decide ((t - x.2.1).toNat - (if t.toNat < x.2.1.toNat then 1 else 0) < x.2.2))
/-- An evpost whose thread's last one still waits for the arbiter stays on its way (R353, R356). -/
def evpostHeld (s : State) (r : Req) : Bool := heldKind s.trust { ty := 0x40, o := r.pl.o, src := 2 ^ 32 + r.uid }
/-- The oldest waiting mrecv of a task. -/
def mrecvOf (s : State) (o : Nat) (t : BitVec 32) : Option Req :=
  s.net.find? (fun r => r.arrived.isSome && r.pl.o == o && r.kind == .mrecv t)
/-- The entry of an inbox's area that its next message takes: its 32 entries are used in turn (R295; DESIGN CHOICE, log 100). -/
def inboxAt (s : State) (b : Inbox) : Nat := s.platNat (s.regs.inbt.toNat + 16 * b.o) 8 + 512 * b.k + 16 * (b.count % 32)
/-- A message meets its fate in its own device (R296); one to an ended task of a launch that is complete finds no record left to charge. What it leaves in the
inbox area is encrypted under the owner's key, for any other reader free bytes (R310, log 46). -/
def deliver (s : State) (o : Nat) (t : BitVec 32) (v : VWord) (from_ : Nat) : State :=
  match s.graph.inboxes.find? (fun b => b.o == o && b.tid == t) with
  | some b =>
    (match s.mrecvOf o t with
     | some r => s.answer r v none
     | none =>
       if b.msgs.length < 32 then
         ((s.drawn.charge o 5 128).platWrite (s.inboxAt b) (leBytes 16 s.free.toNat)).modGraph (fun g =>
           { g with inboxes := g.inboxes.map (fun x => if x.o == o && x.tid == t then { x with msgs := x.msgs ++ [v], count := x.count + 1 } else x) })
       else s.chargeDrop b.launch 1)
  | none =>
    match s.launchOfTid o t with
    | some (l, true) => s.chargeDrop l 1
    | some (_, false) => s.chargeDrop from_ 1
    | none => if s.tidEnded o t then s else s.chargeDrop from_ 1
def msgDo (s : State) (r : Req) : State :=
  let o := r.pl.o
  match r.kind with
  | .msg 0 t v l => (s.deliver o t v l).answer r 0 none
  | .msg k t v l =>
    let b := s.regs.ixtb.toNat + 4096 + 512 * o + 32 * (k - 1)
    if !bit (s.platNat b 8) 0 then (s.ixDrop.chargeDrop l 1).answer r 0 none
    else if (s.usable (s.peerDev o (k - 1))).isEmpty then (s.ixDrop.chargeDrop l 1).answer r 0 none
    else
      let x := s.free
      let s := s.drawn.ixSend o (k - 1) t.toNat 16 (.msg t v) 0
      (if x.getLsbD 256 then s.ixDrop.chargeDrop l 1 else s).answer r 0 none
  | .mrecv t =>
    match s.graph.inboxes.find? (fun b => b.o == o && b.tid == t) with
    | some b =>
      (match b.msgs with
       | v :: vs => ((s.charge o 4 128).modGraph (fun g => { g with inboxes := g.inboxes.map (fun x => if x.o == o && x.tid == t then { x with msgs := vs } else x) })).answer r v none
       | [] => if r.arrived.isSome then s else s.await r)
    | none => if r.arrived.isSome then s else s.await r
  | _ => s

/-! ### Landing (R65, R41, R142) -/

/-- A long result lands: written unless discarded, its flags ORed, its fault held; a thread parked at the limit of R66 is woken, and an lrw now holds its
reservation. -/
def landOp (t : Thread) (o : Op) : Thread :=
  let t := { t with ops := t.ops.filter (fun x => x.id != o.id), fcsr := t.fcsr ||| o.flags.setWidth 64, held := t.held ++ o.fault.toList
                    woken := t.woken || t.park == Park.limit
                    resv := if o.rsv then (match t.resv with | .requested ea => .held ea | r => r) else t.resv }
  if o.disc then
    (match t.region with
     | some r => if r.discs.contains o.id then { t with region := some { r with late := r.late ++ [o] } } else t
     | none => t)
  else t.landReg o
/-- A reply that a pause captured lands before the later ones from its source to its core (R324). -/
def replyBehind (s : State) (t : Thread) (o : Op) : Bool :=
  !o.cap && (s.allThreads.filter (fun x => x.pl == t.pl)).any (fun x => x.ops.any (fun y => y.cap && y.res.isSome && y.due.isNone && y.id != o.id &&
    (match y.src, o.src with | some a, some b => s.sameDest a b | _, _ => false)))
/-- The operations that land with one: itself, or the loads of its region (R188). -/
def landGroup (t : Thread) (o : Op) : List Op := if o.grp = 0 then [o] else t.ops.filter (fun x => x.grp == o.grp)

end State

/-- PREF (R171): the sector into the home slice, the line into the L1 that serves the core. -/
def execPref (a : Fin 16) (s : State) : Res :=
  let ea := ea0 (s.rS a)
  match s.prefLoc ea with
  | some l => .next ((s.chargeMem false l).fillL1 s.me.pl ea l)
  | none => .next s
/-- PREF_R (R171): the sector into the home slice, under the retained class of a range (R306). -/
def execPrefR (a : Fin 16) (s : State) : Res :=
  match s.prefLoc (ea0 (s.rS a)) with
  | some l => .next (s.chargeKept l)
  | none => .next s
/-- LONG_RESULT_LAND (R65): a result that is not timed lands in its register or is discarded. -/
def execLongResultLand (uid id : Nat) (s : State) : Res :=
  match s.thread? uid with
  | none => .next s
  | some t =>
    match t.ops.find? (fun o => o.id == id) with
    | none => .next s
    | some o =>
      let g := State.landGroup t o
      if o.due.isSome || !g.all (fun x => x.res.isSome) || s.netHeld || s.replyBehind t o then .next s
      else .next (s.modThread uid (fun t => g.foldl State.landOp t))
/-- REMOTE_LOAD_SERVE (R159): a load is performed at the place that holds its bytes. -/
def execRemoteLoadServe (id : Nat) (s : State) : Res :=
  s.withReq id (fun r => match r.kind with | .load n f t => .next (s.loadPerform r n f t) | _ => .next s)
/-- STORE_PERFORM (R260): a posted store is performed at its home; an evpost reaches the arbiter (R353). -/
def execStorePerform (id : Nat) (s : State) : Res :=
  s.withReq id (fun r =>
    match r.kind with
    | .store bs => .next (s.storePerform r bs)
    | .evpost d => if s.evpostHeld r then .next s else .next (((s.publishBy (fun w => w.2.2 == r.uid || w.2.2 == 0)).raiseEv { ty := 0x40, o := r.pl.o, data := d, src := 2 ^ 32 + r.uid }).answer r 0 none)
    | _ => .next s)
/-- SYNC_OP_ARRIVE (R179 to R184). -/
def execSyncOpArrive (id : Nat) (s : State) : Res :=
  s.withReq id (fun r =>
    match r.kind with
    | .ldfe | .ldff | .stfe _ | .stf _ | .feClr | .lrw | .scq _ | .rsvRel => .next (s.syncArrive r)
    | _ => .next s)
/-- AMO_PERFORM (R186). -/
def execAmoPerform (id : Nat) (s : State) : Res :=
  s.withReq id (fun r => match r.kind with | .amo op n x e => .next (s.amoDo r op n x e) | _ => .next s)
/-- REDUCTION_PERFORM (R187). -/
def execReductionPerform (id : Nat) (s : State) : Res :=
  s.withReq id (fun r =>
    match r.kind with
    | .red op n x => .next (s.redDo r n (.red op n x) (fun old => State.redVal op n old (x.toNat % 2 ^ (8 * n))))
    | .redF x => .next (s.redDo r 4 (.redF x) (fun old => State.faddVal old x.toNat))
    | _ => .next s)
/-- ATOMIC_REGION_PERFORM (R188). -/
def execAtomicRegionPerform (id : Nat) (s : State) : Res :=
  s.withReq id (fun r => match r.kind with | .region ws => .next (s.regionDo r ws) | _ => .next s)
/-- BARRIER_OP_ARRIVE (R191). -/
def execBarrierOpArrive (id : Nat) (s : State) : Res :=
  s.withReq id (fun r => .next (s.barDo r))
/-- QUEUE_PUSH_ARRIVE (R193). -/
def execQueuePushArrive (id : Nat) (s : State) : Res :=
  s.withReq id (fun r =>
    match r.kind with
    | .push q _ =>
      (match r.loc with
       | .scr p _ =>
         if r.arrived.isSome || (!(decide (((s.core p).queue q).length < 16)) && !s.entryFree r) then .next s else .next (s.arrivePush r)
       | _ => .next s)
    | _ => .next s)
/-- MESSAGE_ARRIVE (R296): a message is kept or dropped; an mrecv takes the oldest message or waits. -/
def execMessageArrive (id : Nat) (s : State) : Res :=
  s.withReq id (fun r => .next (s.msgDo r))
/-- Some earlier access of a thread is not performed for the scope of its fence, 0 core to 3 system (R172, R263): at core scope too
a store is performed at its home, which the core's copy unit reads (R258); above it, the stores of core-mates that the thread has read count too (R264). -/
def State.fenceOpen (s : State) (t : Thread) (k : Nat) : Bool :=
  t.ops.any (·.acc) || (k != 0 && s.sawOpen t)
/-- FENCE_COMPLETE (R172, R268): every earlier access is performed for the fence's scope; the ready faults are taken, and the thread is woken (R345). At
system scope hosts and peers then read what the thread, and the units whose completions it may have seen, have written (R269, log 98). -/
def execFenceComplete (uid : Nat) (s : State) : Res :=
  match s.thread? uid with
  | some t =>
    (match t.park with
     | .fence k =>
       if s.fenceOpen t k then .next s
       else .next ((if k = 3 then s.publishBy (fun w => w.2.2 == uid || w.2.2 == 0) else s).modThread uid Thread.passOn)
     | _ => .next s)
  | none => .next s

end Sys2Proof.Machine
end

