-- ==== Sys2Proof/Machine/Rows.lean ====
section
/-! DEFINITION. Rows: context rows, their eviction, freezes and violations, and the signals of the host port
(R56, R202, R312, R313, R329, R330, R366, R367). -/

namespace Sys2Proof.Machine

namespace State

/-! ### Signals and events (R354, R367) -/

def fn? (s : State) (k : Nat) : Option Fn := s.host.fns.find? (fun f => f.k == k)
def modFn (s : State) (k : Nat) (g : Fn → Fn) : State :=
  s.modHost (fun h => { h with fns := if h.fns.any (fun f => f.k == k) then h.fns.map (fun f => if f.k == k then g f else f) else h.fns ++ [g { k := k }] })
/-- A vector is signalled: sent when the function exists, MSI-X is enabled and the vector is not masked, else pending in the PBA (R366, R367). -/
def signal (s : State) (fn vec : Nat) : State :=
  match s.fn? fn with
  | some f =>
    if f.present && f.msixEn && !f.masked.contains vec then s.send (.msix fn vec)
    else s.modFn fn (fun f => { f with pba := setIns f.pba vec })
  | none => s.modFn fn (fun f => { f with pba := setIns f.pba vec })
/-- The queues of a function, in ascending number, and the index of one (R360). -/
def fnOfQueue (s : State) (q : Nat) : Nat := bits (alGet 0 q s.graph.wqcfg).toNat 51 42
def queueIdx (s : State) (fn q : Nat) : Nat := ((List.range q).filter (fun k => s.fnOfQueue k == fn)).length
/-- Queue j of a function. -/
def queueOf (s : State) (fn j : Nat) : Option Nat := ((List.range 1024).filter (fun k => s.fnOfQueue k == fn))[j]?

/-! ### Freezes (R312, R313) -/

/-- A cause to freeze an owner's slots is detected: the freeze starts at the next beat boundary, with an event for each cause found by then; a frozen master
posts a second event at once. -/
def askFreeze (s : State) (o cause : Nat) : State :=
  if (s.owner o).frozen then
    (s.modOwner o (fun x => { x with vcause := cause })).raiseEv { ty := 1, o := o, cause := cause, data := s.clk.quartz, src := 1 }
  else s.modOwner o (fun x => { x with freezing := if x.freezing = some 0x81 then some 0x81 else some cause, causes := x.causes ++ [cause] })
/-- A function is frozen at once (R312, R364). -/
def freezeFn (s : State) (fn cause : Nat) : State :=
  let o := (s.fn? fn).map (·.o) |>.getD 0
  ((s.modFn fn (fun f => { f with frozen := true })).modOwner o (fun x => { x with vcause := cause, fn := fn })).raiseEv
    { ty := 2, o := o, cause := cause, fn := fn, src := 1 }

/-! ### Rows (R56, R330, R401) -/

/-- The threads whose rows lie on the physical core of a place. -/
def mates (s : State) (p : Place) : List Thread :=
  match s.idxOf p with
  | some i => s.allThreads.filter (fun t => t.evicted.isNone && t.pl.c == p.c && s.idxOf t.pl == some i)
  | none => []
def hollowAt (s : State) (p : Place) : Bool := match s.idxOf p with | some i => s.rot.hollow.contains (s.posOf i) | none => true
/-- A free row of a core (R56); a hollow position has none (R401), and an unplaced slot has none. Which free row a thread takes no rule says; the model
takes the lowest, which the ties of R58 then see (DESIGN CHOICE, log 92). -/
def freeRow (s : State) (p : Place) : Option Nat :=
  if s.hollowAt p then none
  else (List.range 32).find? (fun k => !(s.mates p).any (fun t => t.row == k))
/-- The row of a non-resident owner that has gone longest without being bound, the lower index on a tie (R330). -/
def evictable (s : State) (p : Place) : Option Thread :=
  if s.hollowAt p then none
  else (s.mates p).foldl (fun (a : Option Thread) t =>
    if s.resident t.pl.o t.pl.l then a
    else match a with
      | none => some t
      | some b => if t.lastB < b.lastB || (t.lastB == b.lastB && decide (t.row < b.row)) then some t else a) none
/-- A tenancy that is switched out or stands on a hollow position is in its owner's save area (R328, R401). -/
def savedOut (s : State) (t : Tenancy) : Bool := alGet 0 t.idx s.rot.cur != t.k || s.rot.hollow.contains (s.posOf t.idx)
/-- The save area of an owner in bytes, and what is saved there: 1 KiB a row, 512 KiB a spilled engine, 12 MiB a tenancy that is switched out or stands on a
hollow position, 1 KiB a stepped packet (R328, R329, R401, R408, log 16). -/
def saveSize (s : State) (o : Nat) : Nat := s.platNat (s.regs.savt.toNat + 16 * o + 8) 4 * 2 ^ 20
def saveUsed (s : State) (o : Nat) : Nat :=
  (s.threads.filter (fun t => t.evicted.isSome && t.pl.o == o)).length * 1024 + (s.rot.spilled.filter (fun x => x.1 == o)).length * 2 ^ 19 +
  (s.rot.tens.filter (fun t => t.o == o && s.savedOut t)).length * 12 * 2 ^ 20 +
  (s.graph.packets.filter (fun k => k.stage == .stepped && k.t.pl.o == o)).length * 1024
/-- An eviction finds the owner's save area full (R329). -/
def saveFull (s : State) (o : Nat) : Bool := decide (s.saveSize o < s.saveUsed o + 1024)
/-- The place of a KiB that is written in a save area: a free one, counted from a draw on. -/
def saveAt (s : State) (o draw : Nat) : Nat := (Config.freeBits draw).toNat % max 1 (s.saveSize o / 1024)
/-- One KiB of a save area is written, at a free place of its bytes: free bytes, counted from a draw on. -/
def saveKib (s : State) (o draw : Nat) (m : Mem) : Mem :=
  let k := s.saveAt o draw
  m.write (s.dramKey 0 (s.platNat (s.regs.savt.toNat + 16 * o) 8 + 1024 * k)) ((List.range 16).flatMap (fun i => leBytes 64 (Config.freeBits (draw + 1 + i)).toNat))
/-- State of an owner is written to its save area, where it has one, in the device's own layout, encrypted under the owner's
key; no L1 keeps a copy of what is written (R163, R310, R328 to R332, log 16). -/
def saveOut (s : State) (o kib : Nat) : State :=
  let base := s.platNat (s.regs.savt.toNat + 16 * o) 8
  let lines := (List.range kib).map (fun i => s.dramKey 0 (base + 1024 * s.saveAt o (s.clk.draw + 17 * i)) / 1024)
  { s with clk := { s.clk with draw := s.clk.draw + 17 * kib }
           mem := if s.saveSize o = 0 then s.mem else (List.range kib).foldl (fun m i => s.saveKib o (s.clk.draw + 17 * i) m) s.mem
           l1 := if s.saveSize o = 0 then s.l1 else s.l1.filter (fun (x : L1Line) => !lines.contains (x.line / 8)) }
/-- An evicted row, or a stepped packet, is written to its owner's save area (R329, R330, R408). -/
def saveRow (s : State) (o : Nat) : State := (s.saveOut o 1).charge o 5 1024
/-- A core has a row for a thread: a free one, or one that an eviction frees for the resident owner (R330). -/
def hasRow (s : State) (p : Place) : Bool :=
  (s.freeRow p).isSome || (s.resident p.o p.l && (match s.evictable p with | some t => !s.saveFull t.pl.o | none => false))
/-- A row for a thread at a place: a free one, or one that an eviction frees for the resident owner (ROW_EVICT, R330). -/
def claimRow (s : State) (p : Place) : Option (Nat × State) :=
  match s.freeRow p with
  | some k => some (k, s)
  | none =>
    if !s.resident p.o p.l then none
    else match s.evictable p with
      | none => none
      | some t =>
        if s.saveFull t.pl.o then none
        else some (t.row, State.bump ((s.saveRow t.pl.o).modThread t.uid (fun x => { x with evicted := some s.newId, slot := none })))
/-- The rows of a physical core that dispatched tasks on their way will take (R290). -/
def promised (s : State) (p : Place) : Nat :=
  (s.graph.packets.filter (fun k => k.stage == .flight && k.sent && k.t.pl.c == p.c && s.idxOf k.t.pl == s.idxOf p)).length
/-- A row of the core can take one more dispatched task: free, or evictable for the resident owner, and not promised to another. -/
def roomFor (s : State) (p : Place) : Bool :=
  decide (s.promised p + ((s.mates p).filter (fun t => !s.resident p.o p.l || s.resident t.pl.o t.pl.l)).length < 32)
/-- The owner whose full save area keeps a thread of the resident owner from a row. -/
def fullOwner (s : State) (p : Place) : Option Nat :=
  match s.freeRow p, s.evictable p with
  | none, some t => if s.resident p.o p.l && s.saveFull t.pl.o then some t.pl.o else none
  | _, _ => none
/-- A thread that needs a row while the evicting owner's save area is full freezes that owner (R312, VCAUSE 3, R329); one that has met that owner's full area
and waits does so no second time. -/
def evictFail (s : State) (p : Place) (seen : List Nat) : State :=
  match s.fullOwner p with
  | some o => if !seen.contains o || (!(s.owner o).frozen && (s.owner o).freezing.isNone) then s.askFreeze o 3 else s
  | none => s
/-- The owners whose full save areas it has met by then. -/
def metNow (s : State) (p : Place) (seen : List Nat) : List Nat := match s.fullOwner p with | some o => setIns seen o | none => seen

/-- The number of the next beat boundary: a thread that takes a row is ready from there (R59). -/
def nextBeat (s : State) : Nat := s.beat + 1
/-- A thread takes a row of the core of its place and joins the run queue as a ready row behind every waiting row (R202). -/
def takeRow (s : State) (t : Thread) (k : Nat) : State :=
  { s with threads := s.threads ++ [{ t with row := k, slot := none, evicted := none, met := [], turns := 0, readyAt := s.nextBeat, since := 4 * (s.nextBeat * 8) + 1, lastB := s.q }] }

end State

end Sys2Proof.Machine
end

