-- ==== Sys2Proof/Machine/Graph.lean ====
section
/-! DEFINITION. Graph: work queues, launch records, task graphs, dispatch, placement, the ends of tasks and launches
(R202, R205, R207, R279 to R297). -/

namespace Sys2Proof.Machine

/-! ### Fields of a record or a node entry (R282) -/

def qd (q : List Word) (k : Nat) : Nat := (q.getD k 0).toNat
def rKind (q : List Word) : Nat := bits (qd q 0) 3 0
def rPrio (q : List Word) : Nat := bits (qd q 0) 5 4
def rFuse (q : List Word) : Bool := bit (qd q 0) 6
def rCount (q : List Word) : Nat := if rKind q = 0 then bits (qd q 0) 47 32 else 1
def rHslot (q : List Word) : Nat := bits (qd q 3) 7 0
def rHx (q : List Word) : Nat := bits (qd q 3) 11 8
/-- RADIUS; with FUSE = 1, in the entry or in its record, a 7 is read as 6 (R290). -/
def rRadius (q : List Word) : Nat := let r := bits (qd q 3) 14 12; if rFuse q && r == 7 then 6 else r
/-- A field outside its limits (R282, code 3 of R283): ENTRY and HSLOT are fields of every record and entry, COUNT only of KIND 0. -/
def recBad (nslot : Nat) (node : Bool) (q : List Word) : Bool :=
  decide ((if node then 2 else 3) < rKind q) ||
  (!node && bits (qd q 12) 47 0 % 64 != 0) ||
  bits (qd q 1) 47 0 % 8 != 0 || decide (nslot ≤ rHslot q) ||
  (if rKind q = 3 then bits (qd q 4) 47 0 % 128 != 0 || bits (qd q 5) 12 0 == 0 || decide (4096 < bits (qd q 5) 12 0)
   else rCount q == 0 || (node && bits (qd q 4) 47 0 % 2 != 0))

/-- The id k places after a first id; the counter skips 0 when it wraps (R284). -/
def tidAdd (t : BitVec 32) (k : Nat) : BitVec 32 := let x := t.toNat + k; BitVec.ofNat 32 (if x < 2 ^ 32 then x else x + 1)

/-! ### Local distance (R28, R290) -/

def absDiff (a b : Nat) : Nat := (a - b) + (b - a)
def tileDist (x y : Nat) : Nat := absDiff (State.uOf x) (State.uOf y) + absDiff (x / 4) (y / 4)
/-- The tiles within a distance, in ascending distance and then ascending x. -/
def tilesNear (hx r : Nat) : List Nat :=
  ((List.range 7).filter (fun d => decide (d ≤ r))).flatMap (fun d => (List.range 16).filter (fun x => tileDist hx x == d))

namespace State

/-! ### Accesses by units of the device (R154, R174, R251) -/

/-- Places 2 to 4 of R174 for a unit that acts for a place: a location, or a code and subcode. -/
def unitLoc (s : State) (p : Place) (ea : Addr) (write : Bool) : Except (Nat × Nat) Loc :=
  match s.region p ea with
  | .none => .error (7, 0)
  | .scr q off => .ok (.scr q off)
  | .slice k off => .ok (.slice k off)
  | .translated va =>
    let va := s.viaPair p.o va
    match s.xlate p va with
    | .error sub => .error (4, sub)
    | .ok t =>
      match permit t (if write then .store else .load) (tlbLoc t va) with
      | .at l => .ok l
      | .flt c sub => .error (c, sub)
      | .miss _ => .error (4, 1)
/-- An owner address that a unit with no core of its own reaches: the own-scratchpad window and peers are not readable (log 17). -/
def ownerLoc (s : State) (o : Nat) (ea : Addr) (write : Bool) : Option Loc :=
  if bits ea.toNat 47 44 = 8 then none
  else match s.unitLoc ⟨o, 0, 0⟩ ea write with
    | .ok (.peer _ _ _) => none
    | .ok l => some l
    | .error _ => none
/-- Bytes of an owner address, and none where it cannot be read or is poisoned. -/
def ownerRead (s : State) (o : Nat) (ea : Addr) (n : Nat) : Option (List Byte) :=
  match s.ownerLoc o ea false with
  | some l => if s.locBad l then none else some (s.readLoc l n)
  | none => none
/-- A unit's access to an owner address waits, at its page or at a table of its walk, for a pull or an install (R390, R419). -/
def unitWaits (s : State) (p : Place) (ea : Addr) (write : Bool) : Bool :=
  match s.unitLoc p ea write with
  | .error (4, 0) => true
  | .error _ => false
  | .ok l => s.heldBack l
def ownerWaits (s : State) (o : Nat) (ea : Addr) (write : Bool) : Bool := bits ea.toNat 47 44 != 8 && s.unitWaits ⟨o, 0, 0⟩ ea write
/-- A record written by a unit of the device, performed at the home after the L1 copies are invalidated, and at system scope (R163, R294, R356, R416, R437). -/
def unitWrite (s : State) (l : Loc) (bs : List Byte) : State :=
  match l with
  | .dram _ _ _ => ((s.chargeMem true l).invalL1 (s.locKey l / 128) none).writeOut l bs
  | _ => s.writeLoc l bs
/-- A record of quads at an owner address; an address that is not the owner's takes no write. -/
def ownerWrite (s : State) (o : Nat) (ea : Addr) (qs : List Word) : State :=
  match s.ownerLoc o ea true with
  | some l => s.unitWrite l (quadBytes qs)
  | none => s

/-! ### Acceptance (R280, R283, R284) -/

def wqcfg (s : State) (q : Nat) : Nat := (alGet 0 q s.graph.wqcfg).toNat
def occ (s : State) (q : Nat) : Nat := (s.graph.recs.filter (fun r => r.wq == q)).length
def countRefused (s : State) (q : Nat) : State := s.modGraph (fun g => { g with refused := alSet q ((alGet 0 q g.refused + 1) % 65536) g.refused })
def countDropped (s : State) (q : Nat) : State := s.modGraph (fun g => { g with dropped := alSet q ((alGet 0 q g.dropped + 1) % 65536) g.dropped })

/-- The successor array of a node: code 4 where it cannot be read, is poisoned, or names a node of NODES or more. -/
def readSucc (s : State) (o nodes : Nat) (a : Addr) : Nat → Option (List Nat)
  | 0 => some []
  | n + 1 =>
    match s.ownerRead o a 2 with
    | none => none
    | some bs =>
      if nodes ≤ leNat bs then none
      else (readSucc s o nodes (a + 2) n).map (fun r => leNat bs :: r)
/-- The node table, entry by entry (R283). -/
def readNodes (s : State) (o nslot pmax nodes : Nat) (a : Addr) : Nat → Except Nat (List Node)
  | 0 => .ok []
  | n + 1 =>
    match s.ownerRead o a 128 with
    | none => .error 4
    | some bs =>
      let q := quadsOf 16 bs
      if recBad nslot true q then .error 3
      else if pmax < rPrio q then .error 5
      else match s.readSucc o nodes ((q.getD 4 0).setWidth 48) (bits (qd q 5) 7 0) with
        | none => .error 4
        | some sc =>
          match readNodes s o nslot pmax nodes (a + 128) n with
          | .error e => .error e
          | .ok r => .ok ({ q := q, succ := sc } :: r)
/-- What the check of a node table reads: each entry up to the first that cannot be read, and the successor array of each (R283, R306). -/
def nodeReads (s : State) (o : Nat) (a : Addr) : Nat → List Loc
  | 0 => []
  | n + 1 =>
    match s.ownerLoc o a false with
    | none => []
    | some l =>
      let q := quadsOf 16 (s.readLoc l 128)
      let succ : Addr := (q.getD 4 0).setWidth 48
      l :: (List.range (bits (qd q 5) 7 0)).filterMap (fun i => s.ownerLoc o (succ + BitVec.ofNat 48 (2 * i)) false) ++ nodeReads s o (a + 128) n
/-- The check of a node table waits for a page of an entry or of a successor array (R390, R419). -/
def tableWaits (s : State) (o : Nat) (a : Addr) : Nat → Bool
  | 0 => false
  | n + 1 =>
    s.ownerWaits o a false ||
    (match s.ownerLoc o a false with
     | none => false
     | some l =>
       let q := quadsOf 16 (s.readLoc l 128)
       let succ : Addr := (q.getD 4 0).setWidth 48
       (List.range (bits (qd q 5) 7 0)).any (fun i => s.ownerWaits o (succ + BitVec.ofNat 48 (2 * i)) false) || tableWaits s o (a + 128) n)
def recWaits (s : State) (o pmax : Nat) (q : List Word) : Bool :=
  rKind q == 3 && !recBad (s.nslot o) false q && decide (rPrio q ≤ pmax) && s.tableWaits o ((q.getD 4 0).setWidth 48) (bits (qd q 5) 12 0)
/-- The reads of a graph record's tables reach their homes, and are charged there (R306, R434). -/
def touchNodes (s : State) (o pmax : Nat) (q : List Word) : State :=
  if rKind q = 3 && !recBad (s.nslot o) false q && rPrio q ≤ pmax then (s.nodeReads o ((q.getD 4 0).setWidth 48) (bits (qd q 5) 12 0)).foldl (fun (s : State) l => s.chargeMem false l) s else s
/-- The checks of a record from cause 3 on. -/
def checkRec (s : State) (o pmax : Nat) (q : List Word) : Except Nat (List Node) :=
  if recBad (s.nslot o) false q then .error 3
  else if pmax < rPrio q then .error 5
  else if rKind q = 3 then s.readNodes o (s.nslot o) pmax (bits (qd q 5) 12 0) ((q.getD 4 0).setWidth 48) (bits (qd q 5) 12 0)
  else .ok [{ q := q }]
/-- Consecutive task ids, node by node (R284). -/
def assignTids (t : BitVec 32) : List Node → List Node × BitVec 32
  | [] => ([], t)
  | n :: ns => let r := assignTids (tidAdd t (rCount n.q)) ns; ({ n with tid := t } :: r.1, r.2)
/-- Acceptance: ids are assigned, and the record joins the tail of its queue. -/
def acceptRec (s : State) (o wq : Nat) (fn : Option Nat) (q : List Word) (ns : List Node) : State × BitVec 32 :=
  let t := (s.owner o).nextTid
  let r := assignTids t ns
  ((s.modOwner o (fun x => { x with nextTid := r.2 })).modGraph (fun g => { g with recs := g.recs ++ [{ q := q, nodes := r.1, wq := wq, fn := fn, o := o }] }), t)

/-- A spawn record is read where it arrives, and accepted or refused (R205, R283). -/
def spawnArrive (s : State) (r : Req) : State :=
  if s.locBad r.loc then s.answer r 0 (reqFault r 9 0)
  else
    let q := quadsOf 16 (s.readLoc r.loc 128)
    let s := s.chargeMem false r.loc
    let wq := bits (qd q 0) 17 8
    let c := s.wqcfg wq
    let o := r.pl.o
    let refuse (code : Nat) : State := (s.countRefused wq).answer r (BitVec.ofNat 128 (2 ^ 63 + code)) none
    if !bit c 63 || bits c 55 52 != o then refuse 1
    else if 64 ≤ s.occ wq then refuse 2
    else match s.checkRec o (bits c 57 56) q with
      | .error e => (refuse e).touchNodes o (bits c 57 56) q
      | .ok ns => let a := (s.touchNodes o (bits c 57 56) q).acceptRec o wq none q ns; a.1.answer r (a.2.setWidth 128) none

/-- A frozen function, or one whose owner is not the queue's, posts nothing (R360, R364). -/
def fnPosts (s : State) (fn o : Nat) : Bool :=
  match s.fn? fn with
  | some f => f.en && !f.frozen && f.o == o
  | none => false
/-- A spawn's record, or a host post, waits for the tables that its check reads, a refused post also for the page of its completion record. -/
def spawnWaits (s : State) (r : Req) : Bool :=
  let q := quadsOf 16 (s.readLoc r.loc 128)
  let wq := bits (qd q 0) 17 8
  let c := s.wqcfg wq
  bit c 63 && bits c 55 52 == r.pl.o && decide (s.occ wq < 64) && s.recWaits r.pl.o (bits c 57 56) q
def postWaits (s : State) (a : Arrival) : Bool :=
  let c := s.wqcfg a.wq
  let crec : Addr := (a.q.getD 12 0).setWidth 48
  bit c 63 && decide (s.occ a.wq < 64) && (match a.fn with | some f => s.fnPosts f (bits c 55 52) | none => false) &&
  (s.recWaits (bits c 55 52) (bits c 57 56) a.q ||
  ((match s.checkRec (bits c 55 52) (bits c 57 56) a.q with | .error _ => true | .ok _ => false) && crec != 0 && s.ownerWaits (bits c 55 52) crec true))
/-- A host post arrives at its queue (R280, R283, R360, R367); one to a queue of another owner than its function's is lost, and freezes the function with
cause 0x02 (R312, R360). -/
def hostArrive (s : State) (a : Arrival) : State :=
  let c := s.wqcfg a.wq
  let o := bits c 55 52
  let foreign := match a.fn.bind s.fn? with | some f => f.en && !f.frozen && f.o != o | none => false
  if foreign then (s.countDropped a.wq).freezeFn (a.fn.getD 0) 2
  else if !bit c 63 || decide (64 ≤ s.occ a.wq) || !(match a.fn with | some f => s.fnPosts f o | none => false) then s.countDropped a.wq
  else match s.checkRec o (bits c 57 56) a.q with
    | .ok ns => ((s.touchNodes o (bits c 57 56) a.q).acceptRec o a.wq a.fn a.q ns).1
    | .error e =>
      let s := (s.touchNodes o (bits c 57 56) a.q).countRefused a.wq
      let crec : Addr := (a.q.getD 12 0).setWidth 48
      if crec = 0 || crec.toNat % 64 != 0 || (s.ownerLoc o crec true).isNone then s
      else (s.ownerWrite o crec [BitVec.ofNat 64 (e * 256 + 3), 0, s.clk.quartz, 0, 0, 0, 0, 0]).signal (bits c 51 42)
        (1 + s.queueIdx (bits c 51 42) a.wq % 63)

/-! ### Rows and placement (R56, R207, R290 to R292, R202, R330) -/

/-- A launch with FUSE = 1, in its record or in a node that has dispatched, has dispatched and is not complete (R282, R292). -/
def fuseHolder (s : State) (o l : Nat) : Option Nat :=
  let sent (p : Node × NodeRun) : Bool := p.2.st != .waiting && p.2.st != .skipped && decide (p.2.undisp < rCount p.1.q)
  let fuse (q : List Word) : Bool := rFuse q && rHslot q == l
  (s.graph.launches.find? (fun x => x.r.o == o && (x.r.nodes.zip x.runs).any (fun p => sent p && (fuse x.r.q || fuse p.1.q)))).map (·.id)
/-- No other launch's task is placed in a slot that a fused launch holds. -/
def fuseOpen (s : State) (o l launch : Nat) : Bool := match s.fuseHolder o l with | some x => x == launch | none => true
/-- The cores of a search of R290, in their order. -/
def searchCores (s : State) (p : Placing) : List Place :=
  let n := s.nslot p.o
  let slots := if p.radius = 7 then (List.range n).map (fun i => (p.hslot + i) % n) else [p.hslot]
  (slots.filter (fun l => s.fuseOpen p.o l p.t.task.launch)).flatMap (fun l =>
    (tilesNear p.hx (min p.radius 6)).flatMap (fun x => (List.range 8).map (fun y => ⟨p.o, l, 16 * y + x⟩)))
/-- The core holds a free row that no dispatched task on its way will take (R290). -/
def rowIdle (s : State) (p : Place) : Bool := (s.freeRow p).isSome && decide (s.promised p + (s.mates p).length < 32)
/-- The cores of the search that give the task a row, in the order of R290: those that hold a free row, and where none does, those where an eviction frees one
for the resident owner (R290, R330). -/
def searchRows (s : State) (p : Placing) : List Place :=
  let cs := s.searchCores p
  let idle := cs.filter s.rowIdle
  if idle.isEmpty then cs.filter (fun c => s.hasRow c && s.roomFor c) else idle
/-- The first core of the search that has a row for the task. -/
def search (s : State) (p : Placing) : Option Place := (s.searchRows p).head?
/-- The reach of a stream (R206). -/
def reach (st : Stream) : List Place :=
  match st.layer with
  | some y => (List.range 16).map (fun x => ⟨st.o, st.l, 16 * y + x⟩)
  | none => (List.range 128).map (fun c => ⟨st.o, st.l, c⟩)
def overlaps (a b : Stream) : Bool := a.o == b.o && a.l == b.l && (a.layer.isNone || b.layer.isNone || a.layer == b.layer)
/-- Whether a core's stream context still lacks a row. -/
def wantsRow (s : State) (st : Stream) (p : Place) : Bool :=
  st.placed && !st.started && (reach st).contains p && !s.threads.any (fun t => t.strm == some st.id && t.pl == p)
/-- A core of a stream's reach takes one row for it (R207); the first full save area that a core meets freezes its owner (R329). -/
def streamRow (s : State) (st : Stream) (p : Place) : State :=
  match s.claimRow p with
  | some (k, s') =>
    { s'.bump with threads := s'.threads ++ [{ st.proto with uid := s'.newId, pl := p, row := k, strm := some st.id, readyAt := s'.nextBeat, lastB := s'.q }] }
  | none =>
    if (s.fullOwner p).isNone then s
    else
      let seen := ((s.stream? st.id).map (·.met)).getD []
      (s.evictFail p seen).modStream st.id (fun x => { x with met := s.metNow p seen })
/-- A stream leaves the placement queue: every core of its reach that has a row takes one (R207). -/
def placeStream (s : State) (sid : Nat) : State :=
  match s.stream? sid with
  | none => s
  | some st =>
    let s := s.modStream sid (fun x => { x with placed := true })
    (reach st).foldl (fun (s : State) p => s.streamRow { st with placed := true } p) s
def sameQueue (a b : Placing) : Bool := a.o == b.o && a.hslot == b.hslot && a.hx == b.hx
/-- The heads of the placement queues, in arrival order. -/
def queueHeads : List Placing → List Placing → List Placing
  | _, [] => []
  | seen, p :: ps => if seen.any (sameQueue p) then queueHeads seen ps else p :: queueHeads (p :: seen) ps
def heads (s : State) : List Placing := queueHeads [] s.graph.placing
def unqueue (s : State) (p : Placing) : State := s.modGraph (fun g => { g with placing := g.placing.filter (fun x => x.t.uid != p.t.uid) })
/-- A placed task travels to its core as a packet (R202). -/
def sendTask (s : State) (p : Placing) (c : Place) : State :=
  State.bump ((s.unqueue p).modGraph (fun g => { g with packets := g.packets ++ [{ id := s.newId, stage := .flight, t := { p.t with pl := c }, sent := true }] }))
/-- A head that can leave its queue now: a stream that no running stream overlaps and no fused launch keeps out, or a task whose search succeeds. -/
def placeHead (s : State) (p : Placing) : Option State :=
  match p.t.strm with
  | some sid =>
    (match s.stream? sid with
     | some st =>
       if s.graph.streams.any (fun x => x.id != sid && x.placed && overlaps x st) || !s.fuseOpen st.o st.l st.launch then none else some ((s.unqueue p).placeStream sid)
     | none => some (s.unqueue p))
  | none => (s.search p).map (fun c => s.sendTask p c)
/-- Streams at the head of their queues that can start now (R291, R292). -/
def pumpStreams (s : State) : Nat → State
  | 0 => s
  | n + 1 => match (s.heads.filter (fun p => p.t.strm.isSome)).findSome? (fun p => s.placeHead p) with | some s' => s'.pumpStreams n | none => s
/-- A search that finds no row has met a full save area where a row would have been evicted (R329); a head that has met one freezes no owner twice. -/
def searchFail (s : State) (p : Placing) : State :=
  if p.t.strm.isSome then s
  else match (s.searchCores p).find? (fun c => (s.fullOwner c).isSome) with
    | some c => (s.evictFail c p.t.met).modGraph (fun g => { g with placing := g.placing.map (fun x => if x.t.uid == p.t.uid then { x with t := { x.t with met := s.metNow c p.t.met } } else x) })
    | none => s
/-- A dispatched task joins its hint tile's queue when that is not empty, or when no core takes it; a stream waits there only for a stream that it overlaps
or for a fused launch (R291, R292). -/
def place (s : State) (p : Placing) : State :=
  let s1 := s.modGraph (fun g => { g with placing := g.placing ++ [p] })
  if p.t.strm.isNone && s.graph.placing.any (sameQueue p) then s1 else (s1.placeHead p).getD (s1.searchFail p)
/-- The rank of a placement queue head for a row of a place: the distance of its slot, of its tile, and its tile's position (R291). -/
def headRank (s : State) (p : Place) (h : Placing) : Option (Nat × Nat × Nat) :=
  let n := max 1 (s.nslot p.o)
  if h.o != p.o || h.t.strm.isSome || !s.fuseOpen p.o p.l h.t.task.launch then none
  else
    let d := tileDist h.hx (p.c % 16)
    if h.hslot == p.l && decide (d ≤ min h.radius 6) then some (0, d, h.hx)
    else if h.radius = 7 && h.hslot != p.l then some ((p.l + n - h.hslot) % n, d, h.hx)
    else none
def rankLess (a b : Nat × Nat × Nat) : Bool := a.1 < b.1 || (a.1 == b.1 && (a.2.1 < b.2.1 || (a.2.1 == b.2.1 && a.2.2 < b.2.2)))
/-- What is best by rank, the first where ranks are equal. -/
def bestOf {α : Type} (rank : α → Option (Nat × Nat × Nat)) (xs : List α) : Option α :=
  (xs.foldl (fun (a : Option ((Nat × Nat × Nat) × α)) h =>
    match rank h, a with
    | none, _ => a
    | some r, none => some (r, h)
    | some r, some b => if rankLess r b.1 then some (r, h) else a) none).map (·.2)
/-- The head and the core that meet where rows stand free for several heads at once: those of an owner that is resident there first, then by the rank of R291, then
in the order of R290 (log 50). -/
def bestOffer (s : State) : Option (Placing × Place) :=
  let xs := (s.heads.filter (fun h => h.t.strm.isNone)).flatMap (fun h => (s.searchRows h).map (fun c => (h, c)))
  let best (xs : List (Placing × Place)) : Option (Placing × Place) := bestOf (fun x => s.headRank x.2 x.1) xs
  (best (xs.filter (fun x => s.resident x.2.o x.2.l))).or (best xs)
/-- The placement queues are served while some head can leave, streams first: when a fused launch completes, and after a pause (R291, R292). -/
def pumpPlacing (s : State) : Nat → State
  | 0 => s
  | n + 1 =>
    match (s.heads.filter (fun p => p.t.strm.isSome)).findSome? (fun p => s.placeHead p) with
    | some s' => s'.pumpPlacing n
    | none => match s.bestOffer with
      | some (h, c) => (s.sendTask h c).pumpPlacing n
      | none => s
/-- The placement queues are served, and a head whose search meets a full save area freezes that area's owner (R329, R401). -/
def pumpHeads (s : State) : State :=
  let s := s.pumpPlacing s.graph.placing.length
  s.heads.foldl (fun (s : State) p => if (s.search p).isSome then s else s.searchFail p) s

/-- The logical places that stand on the physical core of a place, the resident owner's first, in whose order a freed row is offered: R202 does not say
(DESIGN CHOICE, log 113). -/
def placesAt (s : State) (p : Place) : List Place :=
  match s.idxOf p with
  | none => []
  | some i =>
    let ts := s.rot.tens.filter (fun t => t.idx == i)
    (ts.filter (fun t => s.resident t.o t.l) ++ ts.filter (fun t => !s.resident t.o t.l)).map (fun t => ⟨t.o, t.l, p.c⟩)
/-- The oldest evicted row of a place (R330). -/
def oldestEvicted (s : State) (p : Place) : Option Thread :=
  s.threads.foldl (fun (a : Option Thread) t =>
    match t.evicted with
    | some e => if t.pl == p then (match a with | some b => if e < b.evicted.getD 0 then some t else a | none => some t) else a
    | none => a) none
/-- A started stream's context, to which slot 0 is bound (R55, R207). -/
def strmStarted (s : State) (t : Thread) : Bool := ((t.strm.bind s.stream?).map (·.started)).getD false
/-- An evicted row comes back; it joins the run queue as it was, and a started stream's has slot 0 again (R55, R330). When it was last bound does not change. -/
def restoreRow (s : State) (u k : Nat) : State :=
  (s.charge ((s.thread? u).map (·.pl.o) |>.getD 0) 4 1024).modThread u (fun t =>
    { t with row := k, evicted := none, met := [], slot := if s.strmStarted t then some 0 else none, turns := 0, readyAt := s.nextBeat, since := 4 * (s.nextBeat * 8) + 1 })
/-- The oldest spilled packet addressed to a core, the first that was spilled (R202). -/
def oldestSpill (s : State) (p : Place) : Option Packet :=
  (s.graph.packets.filter (fun k => k.stage == .spilled && k.t.pl == p)).foldl (fun (a : Option Packet) k =>
    match a with | some b => if k.order < b.order then some k else a | none => some k) none
def dropPacket (s : State) (id : Nat) : State := s.modGraph (fun g => { g with packets := g.packets.filter (fun k => k.id != id) })
/-- A spilled packet is read back from its owner's ring and takes a row (R202, R434). -/
def takeSpill (s : State) (pk : Packet) (k : Nat) : State := ((s.charge pk.t.pl.o 4 256).dropPacket pk.id).takeRow pk.t k
/-- The placement queue head that a freed row of a place serves, in the order of R291. -/
def headFor (s : State) (p : Place) : Option Placing := bestOf (s.headRank p) s.heads
/-- ROW_FREE_OFFER (R202, R291, R330): a row that frees on a core goes to the oldest evicted row of the resident owner, a stream that waits for it,
the oldest spilled packet, or a placement queue head; a stream that is then the head of its queue starts (R292). -/
def offerRow (s : State) (p : Place) : State :=
  match s.freeRow p with
  | none => s
  | some k =>
    let ps := s.placesAt p
    match (ps.filter (fun x => s.resident x.o x.l)).findSome? (fun x => s.oldestEvicted x) with
    | some t => s.restoreRow t.uid k
    | none =>
      match ps.findSome? (fun x => (s.graph.streams.find? (fun st => s.wantsRow st x)).map (fun st => (st, x))) with
      | some (st, x) => s.streamRow st x
      | none =>
        match ps.findSome? (fun x => s.oldestSpill x) with
        | some pk => s.takeSpill pk k
        | none =>
          match ps.findSome? (fun x => (s.headFor x).map (fun h => (h, x))) with
          | some (h, x) => if s.roomFor x then let s := s.sendTask h x; s.pumpStreams s.graph.placing.length else s
          | none => s

/-! ### Tiles and cores (R21, R26 to R29, R400) -/

/-- A tile's slot position and row position (R21, R26, R28). -/
def tilePos (tile : Nat) : Nat := tile / 32 / 4 * 8 + tile % 32 / 4
def tileX (tile : Nat) : Nat := let v := tile / 32 % 4; 4 * v + (if v % 2 = 0 then tile % 4 else 3 - tile % 4)
/-- The raster index of a live position. -/
def idxAt (s : State) (pos : Nat) : Option Nat := (List.range s.nlive).find? (fun i => s.posOf i == pos)
/-- The place of the resident tenancy at a tile and logical layer. -/
def placeAt (s : State) (tile layer : Nat) : Option Place :=
  (s.idxAt (tilePos tile)).bind (fun i =>
    (s.rot.tens.find? (fun t => t.idx == i && t.k == alGet 0 i s.rot.cur)).map (fun t => ⟨t.o, t.l, 16 * layer + tileX tile⟩))
/-- A core whose logic has failed issues nothing until the pause that retires it (R400). -/
def coreDown (s : State) (p : Place) : Bool := match s.tileOf p with | some t => s.rot.down.contains (t, s.physLayer t (p.c / 16)) | none => false

/-! ### Starting and dispatching (R281, R286 to R289, R292, R295) -/

/-- A logical slot of the owner stands in no tenancy (R316). -/
def unplaced (s : State) (o : Nat) : Bool := (List.range (s.nslot o)).any (fun l => (s.tenancyOf o l).isNone)
def openLaunches (s : State) (o : Nat) : Nat := (s.graph.launches.filter (fun x => x.r.o == o)).length
/-- The graph unit may start and dispatch for an owner (R313, R316, R321, R409). -/
def graphRuns (s : State) (o : Nat) : Bool := s.rot.pause.isNone && !(s.owner o).frozen && !s.unplaced o
/-- The queues of an owner whose head record can start. -/
def startable (s : State) (o : Nat) : List Nat := ((s.graph.recs.filter (fun r => r.o == o)).map (·.wq)).eraseDups
/-- The queue whose turn it is among an owner's: round robin in queue number (R281). -/
def startTurn (s : State) (o : Nat) : Option Nat :=
  if !s.graphRuns o || ((s.owner o).stepped && bit (s.owner o).stepcfg.toNat 63) || decide (64 ≤ s.openLaunches o) then none
  else
    let last := alGet 0 o s.graph.rr
    let qs := s.startable o
    let up := qs.filter (fun q => decide (last ≤ q))
    let cs := if up.isEmpty then qs else up
    cs.foldl (fun (a : Option Nat) q => match a with | some b => some (min b q) | none => some q) none

/-- The predecessors of a node are all done (R286). -/
def predsDone (x : Launch) (k : Nat) : Bool :=
  ((x.r.nodes.zip x.runs).all (fun p => !p.1.succ.contains k || p.2.st == .done))
/-- A waiting node that a failed or skipped node reaches by an edge is skipped. -/
def skipOnce (x : Launch) : Launch :=
  { x with runs := (List.range x.runs.length).map (fun k =>
      let r := x.runs.getD k {}
      if r.st == .waiting && (x.r.nodes.zip x.runs).any (fun p => p.1.succ.contains k && (p.2.st == .failed || p.2.st == .skipped))
      then { r with st := .skipped } else r) }
def skipAll (x : Launch) : Nat → Launch
  | 0 => x
  | n + 1 => skipAll (skipOnce x) n
/-- Waiting nodes whose predecessors are all done, in ascending index (R286). -/
def newlyReady (x : Launch) : List Nat := (List.range x.runs.length).filter (fun k => (x.runs.getD k {}).st == .waiting && predsDone x k)
def readyNodes (x : Launch) (ks : List Nat) : Launch :=
  { x with runs := (List.range x.runs.length).map (fun k =>
      let r := x.runs.getD k {}
      if ks.contains k then { r with st := .ready, undisp := rCount (x.r.nodes.getD k { q := [] }).q } else r) }
def readyTasks (x : Launch) (ks : List Nat) : List Ready :=
  ks.flatMap (fun k =>
    let q := (x.r.nodes.getD k { q := [] }).q
    (List.range (rCount q)).map (fun i => { o := x.r.o, launch := x.id, node := k, k := i, prio := rPrio q }))
/-- The launch is complete: its status (R286, R294). -/
def endStatus (x : Launch) : Option Nat :=
  let idle (r : NodeRun) : Bool := r.undisp == 0 && r.live == 0
  if x.runs.all (fun r => r.st == .done || r.st == .skipped || (r.st == .failed && idle r)) then some (if x.fails = 0 then 0 else 1)
  else if x.runs.all (fun r => r.st == .waiting || r.st == .done || r.st == .skipped || (r.st == .failed && idle r)) then some 2
  else none
def launch? (s : State) (lid : Nat) : Option Launch := s.graph.launches.find? (fun x => x.id == lid)
def setLaunch (s : State) (x : Launch) : State := s.modGraph (fun g => { g with launches := g.launches.map (fun y => if y.id == x.id then x else y) })
/-- The quads of a completion record (R294). -/
def crecQuads (x : Launch) (status quartz : Nat) : List Word :=
  let w (n : Nat) : Word := BitVec.ofNat 64 n
  let f : FailRep := x.first.getD {}
  [w ((x.r.nodes.getD 0 { q := [] }).tid.toNat * 2 ^ 32 + status), w (x.fails * 2 ^ 32 + x.tasks), w quartz, w x.drops,
   w (f.stidx * 2 ^ 32 + f.lslot * 2 ^ 24 + f.lcore * 2 ^ 16 + f.fcode), f.fpc.setWidth 64, f.faddr.setWidth 64, f.tid.setWidth 64]
/-- LAUNCH_COMPLETE (R294, R367): the record, then the push, then the signal. A push to a slot the owner does not have finds no queue. -/
def completeLaunch (s : State) (x : Launch) (status : Nat) : State :=
  let o := x.r.o
  let q := crecQuads x status s.q
  let crec : Addr := (x.r.q.getD 12 0).setWidth 48
  let over_ := (x.r.nodes.zip x.runs).filterMap (fun p => if p.2.st == .waiting || p.2.st == .skipped then none else some (o, p.1.tid, rCount p.1.q - p.2.undisp))
  let s := s.modGraph (fun g => { g with launches := g.launches.filter (fun y => y.id != x.id), ready := g.ready.filter (fun r => r.launch != x.id), ended := g.ended ++ over_ })
  let s := { s with l1 := s.l1.filter (fun e => !(e.fused && e.pl.o == o && fuses x.r e.pl.l)) }
  let s := s.publishBy (fun w => w.1 == o && w.2.1 == x.id)
  let s := if crec = 0 then s else s.ownerWrite o crec q
  let qn := bits (qd x.r.q 13) 23 0
  let s := if bit (qd x.r.q 0) 7 && decide (bits qn 23 16 < s.nslot o) then
      s.unitPush ⟨o, bits qn 23 16, bits qn 14 8⟩ (bits qn 2 0) (BitVec.ofNat 128 (qd x.r.q 14 + (q.getD 0 0).toNat * 2 ^ 64)) else s
  let s := match x.r.fn with | some f => s.signal f (1 + s.queueIdx f x.r.wq % 63) | none => s
  if status = 4 then s.charge o 12 1 else s
/-- The completion record's page is still to be pulled (R419). -/
def crecWaits (s : State) (x : Launch) : Bool :=
  let crec : Addr := (x.r.q.getD 12 0).setWidth 48
  crec != 0 && s.ownerWaits x.r.o crec true
/-- A launch completes; a fused one leaves its slots to the placement queues (R292, R294). -/
def endLaunch (s : State) (x : Launch) (st : Nat) : State :=
  let fused := (List.range (s.nslot x.r.o)).any (fun l => fuses x.r l)
  let s := s.completeLaunch x st
  if fused then s.pumpHeads else s
/-- What follows a change of a launch: nodes become skipped or ready, or it completes (R286, R294). -/
def settle (s : State) (lid : Nat) : State :=
  match s.launch? lid with
  | none => s
  | some x =>
    let x := skipAll x x.runs.length
    let ks := newlyReady x
    let x := readyNodes x ks
    let s := (s.setLaunch x).modGraph (fun g => { g with ready := g.ready ++ readyTasks x ks })
    match endStatus x with
    | some st => if s.crecWaits x then s.setLaunch { x with ending := some st } else s.endLaunch x st
    | none => s
/-- A launch that has ended and whose record waited for its page completes (R294, R419). -/
def launchEnd (s : State) (lid : Nat) : State :=
  match s.launch? lid with
  | some x => (match x.ending with | some st => if s.crecWaits x then s else s.endLaunch x st | none => s)
  | none => s

/-- The inboxes of an owner (R295). -/
def inboxMax (s : State) (o : Nat) : Nat := s.platNat (s.regs.inbt.toNat + 16 * o + 8) 4
def inboxFree (s : State) (o : Nat) : Bool := decide ((s.graph.inboxes.filter (fun b => b.o == o)).length < s.inboxMax o)
/-- Which free inbox of its area a task takes no rule says: the lowest (DESIGN CHOICE, log 100). -/
def inboxPlace (s : State) (o : Nat) : Nat :=
  let used := (s.graph.inboxes.filter (fun b => b.o == o)).map (·.k)
  ((List.range (used.length + 1)).find? (fun k => !used.contains k)).getD 0
/-- The head of an owner's highest non-empty priority list (R288). -/
def readyHead (s : State) (o : Nat) : Option Ready :=
  [3, 2, 1, 0].findSome? (fun p => s.graph.ready.find? (fun r => r.o == o && r.prio == p))
/-- No task of another launch is live in a slot: in a row, a packet or a placement queue of it, or as a stream that is placed there (R292). -/
def slotClear (s : State) (o l lid : Nat) : Bool :=
  !s.threads.any (fun t => t.pl.o == o && t.pl.l == l && t.task.launch != lid) &&
  !s.graph.packets.any (fun k => k.t.pl.o == o && k.t.pl.l == l && k.t.task.launch != lid) &&
  !s.graph.placing.any (fun p => p.o == o && p.hslot == l && p.t.task.launch != lid) &&
  !s.graph.streams.any (fun t => t.o == o && t.l == l && t.placed && t.launch != lid)
/-- The task that the dispatcher would take for an owner. -/
def dispatchable (s : State) (o : Nat) : Option Ready :=
  if !s.graphRuns o || !s.inboxFree o then none
  else match s.readyHead o with
    | none => none
    | some r =>
      match s.launch? r.launch with
      | none => none
      | some x =>
        let q := (x.r.nodes.getD r.node { q := [] }).q
        let opens (q : List Word) : Bool := !rFuse q || (s.slotClear o (rHslot q) r.launch && s.fuseOpen o (rHslot q) r.launch)
        if opens x.r.q && opens q then some r else none
/-- The owner whose dispatch comes next: the rest of its round, or the next owner in ascending id (R288). -/
def dispTurn (s : State) : Option Nat :=
  let g := s.graph
  if g.dispLeft != 0 && (s.dispatchable g.dispOwner).isSome then some g.dispOwner
  else ((List.range 16).map (fun i => (g.dispOwner + 1 + i) % 16)).find? (fun o => (s.dispatchable o).isSome)
/-- The context that dispatch creates (R289). -/
def newThread (s : State) (x : Launch) (r : Ready) (n : Node) : Thread :=
  let q := n.q
  let kreg := bits (qd q 0) 27 24
  let t : Thread := { uid := s.newId, pl := ⟨x.r.o, rHslot q, rHx q⟩, pc := (q.getD 1 0).setWidth 48, trapb := (q.getD 2 0).setWidth 48 &&& ~~~3#48
                      tid := tidAdd n.tid r.k, task := { launch := x.id, node := r.node, prio := r.prio } }
  let t := { t with s := (((((t.s.set 1 (q.getD 6 0)).set 2 (q.getD 7 0)).set 3 (q.getD 8 0)).set 4 (q.getD 9 0)).set 5 (q.getD 10 0)).set 6 (q.getD 11 0) }
  if rKind q = 0 && kreg != 0 then { t with s := t.s.set (Fin.ofNat 16 kreg) (BitVec.ofNat 64 r.k) } else t
/-- The dispatch weights of a round: those that stand when it begins, at the first dispatch that wraps or follows an idle cycle (R288, R301). -/
def roundW (s : State) (o : Nat) : List Nat :=
  let g := s.graph
  if g.dispW.isEmpty || (decide (o ≤ g.dispOwner) && !(g.dispOwner == o && g.dispLeft != 0)) then (List.range 16).map (fun k => bits (s.owner k).cfg.toNat 55 48) else g.dispW
/-- A task leaves the ready list with an inbox, and is placed (R288 to R292, R295). -/
def dispatchTask (s : State) (o : Nat) (r : Ready) : State :=
  match s.launch? r.launch with
  | none => s
  | some x =>
    let n := x.r.nodes.getD r.node { q := [] }
    let t := s.newThread x r n
    let s := s.bump.modGraph (fun g =>
      { g with ready := g.ready.filter (fun y => !(y.launch == r.launch && y.node == r.node && y.k == r.k))
               inboxes := g.inboxes ++ [{ o := o, tid := t.tid, launch := x.id, k := s.inboxPlace o }]
               launches := g.launches.map (fun y => if y.id == x.id then
                 { y with runs := (List.range y.runs.length).map (fun k =>
                     let z := y.runs.getD k {}
                     if k == r.node then { z with undisp := z.undisp - 1, live := z.live + 1 } else z) } else y)
               dispLeft := (if g.dispOwner == o && g.dispLeft != 0 then g.dispLeft else max 1 ((s.roundW o).getD o 1)) - 1
               dispW := s.roundW o
               dispOwner := o })
    let q := n.q
    if rKind q = 0 then s.place { o := o, hslot := rHslot q, hx := rHx q, radius := if rFuse x.r.q then min 6 (rRadius q) else rRadius q, t := t }
    else
      let sid := s.newId
      let st : Stream := { id := sid, o := o, l := rHslot q, layer := if rKind q = 1 then some (bits (qd q 3) 18 16) else none
                           launch := x.id, node := r.node, tid := t.tid, proto := t }
      (s.bump.modGraph (fun g => { g with streams := g.streams ++ [st] })).place
        { o := o, hslot := rHslot q, hx := 0, radius := 0, t := { t with strm := some sid } }

/-! ### The end of a task (R293, R294, R296) -/

/-- TASK_END: the inbox goes, unread messages are charged to the launch, and the node may advance. -/
def taskEnd (s : State) (o : Nat) (tid : BitVec 32) (tk : Task) (fail : Option FailRep) : State :=
  let unread := (s.graph.inboxes.filter (fun b => b.o == o && b.tid == tid)).foldl (fun n b => n + b.msgs.length) 0
  let s := (s.modGraph (fun g => { g with inboxes := g.inboxes.filter (fun b => !(b.o == o && b.tid == tid)) })).chargeDrop tk.launch unread
  match s.launch? tk.launch with
  | none => s
  | some x =>
    let runs := (List.range x.runs.length).map (fun k =>
      let r := x.runs.getD k {}
      if k == tk.node then
        let r := { r with live := r.live - 1 }
        if fail.isSome then { r with st := .failed }
        else if r.st == .ready && r.live == 0 && r.undisp == 0 then { r with st := .done } else r
      else r)
    (s.setLaunch { x with runs := runs, tasks := x.tasks + 1, fails := x.fails + (if fail.isSome then 1 else 0)
                          first := x.first.orElse (fun _ => fail) }).settle tk.launch
/-- The report of a thread that ended as failed. -/
def threadFail (t : Thread) (f : FaultRec) : FailRep :=
  { lslot := t.pl.l, lcore := t.pl.c, fcode := f.code + f.sub * 256, fpc := f.fpc, faddr := f.faddr, tid := t.tid }
/-- Reservations of a thread that is gone are released, and the words' waiters are scanned (R185, R180). -/
def freeResvOf (s : State) (u : Nat) : State :=
  let ks := (s.mem.resv.filter (fun x => x.2 == u)).map (·.1)
  ks.foldl (fun (s : State) k => (s.freeResv k u).waiterScan k s.net.length) s
/-- Requests of an ended thread that wait for a condition go with it; posted writes and pushes are kept (R352). -/
def dropWaits (s : State) (u : Nat) : State :=
  { s with net := s.net.filter (fun r => !(r.uid == u && (match r.kind with
      | .ldfe | .ldff | .lrw | .barWait _ | .barSync _ | .mrecv _ | .wstat _ => true
      | .load _ _ _ => true
      | _ => false)))
           sfu := s.sfu.filter (fun x => x.uid != u) }
/-- A thread that holds a row ends: the row frees and is offered, and its task ends (R110, R291, R293). -/
def endThread (s : State) (t : Thread) (fail : Option FaultRec) : State :=
  let s := ((s.dropWaits t.uid).dropThread t.uid).freeResvOf t.uid
  let s := if t.evicted.isNone then s.offerRow t.pl else s
  s.taskEnd t.pl.o t.tid t.task (fail.map (threadFail t))

end State

/-- RECORD_ARRIVE (R280, R283, R362): a record of a spawn, or of a host post, reaches its queue; two posts of one function to one queue keep their order. -/
def execRecordArrive (id : Nat) (s : State) : Res :=
  match s.req? id with
  | some r =>
    (match r.kind, r.loc with
     | .spawn _ _, .scr p off =>
       if s.mayPerform r && p != r.pl && s.chanCheck p off 128 != .pass then .next s
       else if s.mayPerform r && !s.spawnWaits r then .next (s.spawnArrive r) else .next s
     | .spawn _ _, _ => if s.mayPerform r && !s.spawnWaits r then .next (s.spawnArrive r) else .next s
     | _, _ => .next s)
  | none =>
    match s.graph.arrivals.find? (fun a => a.id == id) with
    | some a =>
      if (s.graph.arrivals.takeWhile (fun b => b.id != id)).any (fun b => b.fn == a.fn && b.wq == a.wq) || s.postWaits a then .next s
      else .next ((s.modGraph (fun g => { g with arrivals := g.arrivals.filter (fun b => b.id != id) })).hostArrive a)
    | none => .next s
/-- LAUNCH_START (R281, R286): the head record of a queue whose turn it is starts as a launch. -/
def execLaunchStart (q : Nat) (s : State) : Res :=
  match s.graph.recs.find? (fun r => r.wq == q) with
  | none => .next s
  | some r =>
    if s.startTurn r.o = some q then
      let lid := s.newId
      let s := s.bump.modGraph (fun g =>
        { g with recs := g.recs.eraseP (fun x => x.wq == q), rr := alSet r.o (q + 1) g.rr
                 launches := g.launches ++ [{ id := lid, r := r, runs := r.nodes.map (fun _ => {}) }] })
      let s := { s with l1 := s.l1.filter (fun e => !(!e.fused && e.pl.o == r.o && State.fuses r e.pl.l)) }
      .next ((s.modOwner r.o (fun x => { x with launched := true })).settle lid)
    else .next s
/-- TASK_DISPATCH (R287, R288): the dispatcher takes the head of an owner's ready list, in that owner's part of the round. -/
def execTaskDispatch (o : Nat) (s : State) : Res :=
  if s.dispTurn = some o then
    match s.dispatchable o with
    | some r => .next (s.dispatchTask o r)
    | none => .next s
  else .next s

end Sys2Proof.Machine
end

