-- ==== Sys2Proof/Machine/Threads.lean ====
section
/-! DEFINITION. Threads: beat boundaries, waking, binding, special-function service, migration, packets, exit and restored rows
(R56 to R62, R110, R143 to R148, R200 to R203, R215, R330, R345, R348, R408). -/

namespace Sys2Proof.Machine

namespace State

/-! ### Waking (R59, R67, R345) -/

/-- Something that the parked threads of a core wait for has come about in this cycle: they are ready from the next beat boundary (R59). -/
def wakeParked (s : State) (p : Place) (k : Park) : State :=
  { s with threads := s.threads.map (fun (t : Thread) => if t.pl = p && t.park = k then { t with woken := true } else t) }
/-- The threads of a core whose channel condition has gone are woken (R165, R253). -/
def wakeChans (s : State) (p : Place) : State :=
  { s with threads := s.threads.map (fun (t : Thread) => match t.park with
      | .chan off n => if t.pl = p && s.chanCheck p off n != .park then { t with woken := true } else t
      | _ => t) }
/-- The wake condition of a parked thread holds, or has held in this beat (R59): an entry that frees or a range that opens marks its waiting threads
as it does so; what a freeze brings at this very boundary wakes from the next one. -/
def parkDone (s : State) (t : Thread) : Bool :=
  (match t.park with
   | .none => true
   | .pend => true
   | .sfu => t.woken || decide (s.sfuWaiting t.pl < 4)
   | .amo id | .bar id | .push id | .mfence id => !t.ops.any (fun o => o.id == id)
   | .chan off n => t.woken || s.chanCheck t.pl off n != .park
   | .acq => !t.ops.any (·.acq) && !s.ownRed t 0 65536
   | .redLimit => t.redpend != 32
   | .mailbox => t.woken || decide ((s.core t.pl).mbox.length < 4)
   | .dead _ => false
   | .frz o | .scrub o => t.woken && (s.owner o).qz != s.q
   | .publish k => t.woken && (s.owner t.pl.o).pairs.all (fun p => p.k != k || decide (p.qf < s.q))
   | _ => t.woken) &&
  (!t.wmark || t.pendMask == 0)
/-- Whether the wake is a point of reckoning: a wait marker, or the end of a returning atomic or an mfence. -/
def reckons (t : Thread) : Bool := t.wmark || (match t.park with | .amo _ | .mfence _ | .pend => true | _ => false)
/-- A thread becomes ready at a beat boundary (R59). The POISON of an amo is taken at the wake, before a qred that comes next is issued, which R196 leaves
open (DEDUCED, log 112). -/
def wakeThread (s : State) (t : Thread) : Thread :=
  let r := reckons t
  let t := { t with park := .none, woken := false, wmark := false, readyAt := s.beat, since := 4 * s.q }
  if r then t.reckon else t

/-- The freeze line of a stream holds in this beat: its owner is resident and not frozen (R214, R313, R326). -/
def lineOf? (s : State) (st : Stream) : Bool := st.frozen && st.started && s.resident st.o st.l
/-- A freeze line holds the physical core of a place (R214). -/
def lineAt (s : State) (p : Place) : Bool :=
  s.graph.streams.any (fun st => s.lineOf? st && (reach st).any (fun x => x.c == p.c && s.idxOf x == s.idxOf p && (s.idxOf x).isSome))
/-- A freeze line holds the physical core of a thread's row (R214, R215). -/
def lineHolds (s : State) (t : Thread) : Bool := s.lineAt t.pl
/-- TASKB and FRZC of a thread advance over a beat (R62, R215). -/
def countBeat (s : State) (t : Thread) : Thread :=
  if s.rot.pause.isSome || (s.owner t.pl.o).frozen then t
  else if s.lineHolds t then { t with frzc := t.frzc + (if t.evicted.isNone then 1 else 0) }
  else if s.resident t.pl.o t.pl.l then { t with taskb := t.taskb + 1 }
  else t
/-- One thread at a beat boundary. -/
def beatThread (s : State) (t : Thread) : Thread :=
  let t := s.countBeat t
  if t.park != Park.none && s.parkDone t then s.wakeThread t else t
/-- RESID and FROZEN count slot-beats; a teardown has produced the FINAL record as its freeze began, and counts none after it (R434, R439, R454). -/
def meterBeat (s : State) : State :=
  if s.rot.pause.isSome then s
  else s.rot.tens.foldl (fun (s : State) t =>
    if (s.owner t.o).inScrub then s
    else if (s.owner t.o).frozen then (if s.tenancyOf t.o t.l == some t && alGet 0 t.idx s.rot.cur == t.k then s.charge t.o 11 1 else s)
    else if s.resident t.o t.l then s.charge t.o 0 1 else s) s

/-! ### Binding (R57, R58) -/

/-- The core runs a placed stream: slot 0 is the stream's (R55, R207). -/
def slotTaken (s : State) (p : Place) : Bool := s.graph.streams.any (fun st => st.placed && (reach st).contains p)
/-- A row that a task slot may bind. -/
def bindable (s : State) (p : Place) (t : Thread) : Bool :=
  t.pl == p && t.slot.isNone && t.evicted.isNone && t.strm.isNone && t.park == .none && decide (t.readyAt ≤ s.beat) && s.resident p.o p.l
/-- The ready row that has waited longest; ties go to the lower row index. -/
def longest (s : State) (p : Place) : Option Thread :=
  s.threads.foldl (fun (a : Option Thread) t =>
    if s.bindable p t then
      (match a with
       | none => some t
       | some b => if t.since < b.since || (t.since == b.since && decide (t.row < b.row)) then some t else a)
    else a) none
/-- A free slot binds (THREAD_BIND). -/
def bindSlot (s : State) (p : Place) (slot : Nat) : State :=
  if slot = 0 && s.slotTaken p then s
  else if s.threads.any (fun t => t.pl == p && t.slot == some slot && t.strm.isNone) then s
  else match s.longest p with
    | some t => s.modThread t.uid (fun t => { t with slot := some slot, turns := 0, lastB := s.q })
    | none => s
/-- The end of a slot's turn (R58, R207): a parked thread gives way to a ready row, a thread that has issued in eight turns too
(but not between the words of an atomic region, which issue in consecutive turns, R188), and a stream takes slot 0, from a region's thread too: R207 makes no
exception (DESIGN CHOICE, log 130). With no ready row at the end of the
eighth turn the thread stays, and gives way at the end of a later turn once a row waits: R58 does not say (DESIGN CHOICE, log 91). -/
def endTurn (s : State) (p : Place) (slot : Nat) : State :=
  match s.threads.find? (fun t => t.pl == p && t.slot == some slot && t.strm.isNone) with
  | none => s.bindSlot p slot
  | some t =>
    let waits := (s.longest p).isSome
    let out := (slot == 0 && s.slotTaken p) || (waits && (t.park != .none || (decide (8 ≤ t.turns) && t.region.isNone)))
    if out then
      (s.modThread t.uid (fun t => { t with slot := none, turns := 0, lastB := s.q, since := if t.park = .none then 4 * s.q + 2 else t.since })).bindSlot p slot
    else s

/-! ### Packets (R200 to R203) -/

/-- What a packet carries: ten registers and the state of R201; the rest arrives as zero. Faults that a handler holds back travel too: R201 does not list them, and
R348 has them taken once FCODE is 0 (DEDUCED, log 131). -/
def carried (t : Thread) (dst : Place) : Thread :=
  { uid := t.uid, pl := dst, task := t.task, pc := t.pc, pw := t.pw
    s := Vector.ofFn (fun (k : Fin 16) => if k.val < 8 then t.s[k] else 0)
    v := Vector.ofFn (fun (k : Fin 16) => if k.val < 2 then t.v[k] else 0)
    tid := t.tid, fcsr := t.fcsr, trapb := t.trapb, taskb := t.taskb, frzc := t.frzc, step := t.step, qpos := t.qpos, thresh := t.thresh
    resv := t.resv, barRec := t.barRec, held := t.held }
def ringSize (s : State) (o : Nat) : Nat := s.platNat (s.regs.splt.toNat + 16 * o + 8) 4
def setStage (s : State) (pid : Nat) (g : PStage) : State :=
  s.modGraph (fun x => { x with packets := x.packets.map (fun k => if k.id == pid then { k with stage := g } else k) })
/-- A packet with no row is written to the spill ring, or is held and freezes its owner when the ring has no room (R202, R203, R312). Which entry it takes
is a free choice, and its 256 bytes are free: the layout is the device's own (R201). -/
def spill (s : State) (pk : Packet) : State :=
  let o := pk.t.pl.o
  let mine := s.graph.packets.filter (fun k => k.stage == .spilled && k.t.pl.o == o)
  if mine.length < s.ringSize o then
    let x := s.free.toNat
    let e := ((List.range (mine.length + 1)).map (fun i => (x + i) % s.ringSize o)).find? (fun e => !mine.any (fun k => k.entry == e))
    let bs := (List.range 4).flatMap (fun i => leBytes 64 (Config.freeBits (s.clk.draw + 1 + i)).toNat)
    let s := s.modGraph (fun g => { g with packets := g.packets.map (fun k => if k.id == pk.id then { k with stage := .spilled, entry := e.getD 0, order := s.newId } else k) })
    let s := { s with clk := { s.clk with id := s.clk.id + 1, draw := s.clk.draw + 5 } }
    (s.platWrite (s.platNat (s.regs.splt.toNat + 16 * o) 8 + 256 * e.getD 0) bs).charge o 5 256
  else (s.setStage pk.id .held).askFreeze pk.t.pl.o 1
/-- A packet that finds no row because of a full save area freezes that area's owner, once while it waits (R312, R329). -/
def packetMeets (s : State) (pk : Packet) : State :=
  if (s.fullOwner pk.t.pl).isNone then s
  else (s.evictFail pk.t.pl pk.t.met).modGraph (fun g => { g with packets := g.packets.map (fun k => if k.id == pk.id then { k with t := { k.t with met := s.metNow pk.t.pl pk.t.met } } else k) })
/-- What waits for a row of a core of a resident owner whose evicted rows are all back: a stream, or a spilled packet (R291, R330). -/
def waitsRow (s : State) (p : Place) : Bool :=
  s.resident p.o p.l && s.rot.pause.isNone && (s.oldestEvicted p).isNone && (s.graph.streams.any (fun st => s.wantsRow st p) || (s.oldestSpill p).isSome)
/-- It takes a free row, or one that an eviction frees; after a switch or a move this is the first chance (R330, R401). -/
def offerWaiting (s : State) (p : Place) : State :=
  if !s.waitsRow p then s
  else match s.graph.streams.find? (fun st => s.wantsRow st p) with
    | some st => s.streamRow st p
    | none => match s.oldestSpill p with
      | none => s
      | some pk => match s.claimRow p with
        | some (k, s') => s'.takeSpill pk k
        | none => s.packetMeets pk
/-- The places where something may wait for a row. -/
def waitPlaces (s : State) : List Place :=
  (((s.graph.packets.filter (fun k => k.stage == .spilled)).map (·.t.pl)) ++ s.graph.streams.flatMap (fun st => (reach st).filter (s.wantsRow st))).eraseDups
/-- A packet waits for a packet or a request that a pause captured before it on its way from the same source to the same core (R324). -/
def packetBehind (s : State) (pk : Packet) : Bool :=
  s.graph.packets.any (fun k => k.cap && k.stage == .flight && k.src == pk.src && k.t.pl == pk.t.pl && decide (k.id < pk.id)) ||
  (!pk.cap && s.net.any (fun x => x.cap && x.arrived.isNone && some x.pl == pk.src &&
    (match x.loc with | .scr p off => p == pk.t.pl && s.chanCheck p off x.kind.size == .pass | _ => false))) ||
  (!pk.cap && pk.src.any (fun q => s.unitCap q (.scr pk.t.pl 0)))
/-- An arriving packet (R202). -/
def arrive (s : State) (pk : Packet) : State :=
  let p := pk.t.pl
  if s.graph.packets.any (fun k => k.stage == .spilled && k.t.pl == p) then s.spill pk
  else match s.claimRow p with
    | some (k, s') => (s'.dropPacket pk.id).takeRow pk.t k
    | none => (s.packetMeets pk).spill pk
/-- Packets held under cause 0x01 are treated again as arriving when their owner is released (R203, R352). -/
def rearrive (s : State) (o : Nat) : State :=
  s.modGraph (fun g => { g with packets := g.packets.map (fun k => if k.stage == .held && k.t.pl.o == o then { k with stage := .flight } else k) })

/-- Rows of owners that are not resident, a frozen one among them, are unbound, and a stream that is resident again has slot 0 (R55, R57, R313); a row unbound
here waits from here on (R58). -/
def unbindRows (s : State) : State :=
  { s with threads := s.threads.map (fun (t : Thread) =>
      let here := s.resident t.pl.o t.pl.l
      if s.strmStarted t then { t with slot := if here && t.evicted.isNone then some 0 else none, lastB := if here || t.slot.isNone then t.lastB else s.q }
      else if t.slot.isSome && !here then { t with slot := none, turns := 0, lastB := s.q, since := if t.park = .none then 4 * s.q else t.since } else t) }
/-- Owners that are released resume at a beat boundary (R313, R352); their held packets arrive again. -/
def releaseOwners (s : State) : State :=
  let os := (List.range 16).filter (fun o => (s.owner o).releasing)
  if os.isEmpty then s
  else (os.foldl (fun (s : State) o => (s.modOwner o (fun x => { x with frozen := false, releasing := false })).rearrive o) s).unbindRows

/-! ### Ended threads -/

/-- A thread has ended as failed, and its row is not yet free. -/
def isDead (t : Thread) : Bool := match t.park with | .dead _ => true | _ => false
/-- What an ended thread waits for goes, with its operations and its reservation; its posted accesses stay on their way (R352). -/
def layOut (s : State) (t : Thread) : State :=
  let s := (s.dropWaits t.uid).freeResvOf t.uid
  s.modThread t.uid (fun t => { t with ops := t.ops.filter (fun o => s.net.any (fun r => r.id == o.id)), resv := .none, region := none })
/-- Threads that ended as failed leave their rows once their posted accesses are performed, so that none follows the end of their launch
(R347, R293, R294). -/
def buryDone (s : State) : Nat → State
  | 0 => s
  | n + 1 =>
    match s.threads.find? (fun t => isDead t && !s.net.any (fun r => r.uid == t.uid)) with
    | some t => (match t.park with | .dead f => (s.endThread t (some f)).buryDone n | _ => s)
    | none => s
def bury (s : State) (n : Nat) : State := ((s.threads.filter isDead).foldl State.layOut s).buryDone n

/-- The departure wait of R200 is over. -/
def departs (s : State) (t : Thread) : Bool := t.ops.isEmpty && !s.sawOpen t && !s.netHeld && !(s.owner t.pl.o).frozen && !t.woken && t.evicted.isNone

end State

/-- BEAT_BOUNDARY (R59, R62, R215): woken threads become ready, and the per-thread beat counters advance. -/
def execBeatBoundary (s : State) : Res :=
  let s := s.meterBeat
  .next (State.bury { s with threads := s.threads.map s.beatThread } s.threads.length)
/-- SFU_ACCEPT (R143, R144): in its layer's cycle a core offers its stream entry, or its oldest task entry, from the beat after its issue; a task entry that frees wakes
the threads that wait for one. -/
def execSfuAccept (o l c : Nat) (s : State) : Res :=
  let mine := s.sfu.filter (fun r => r.pl == ⟨o, l, c⟩ && r.land.isNone && decide (r.beat < s.beat))
  let pick := (mine.filter (·.strm) ++ mine.filter (fun r => !r.strm)).head?
  match pick with
  | some r =>
    if c / 16 = s.q % 8 then
      .next ((fun (t : State) => if r.strm then t else t.wakeParked ⟨o, l, c⟩ .sfu)
        (State.charge { s with sfu := s.sfu.map (fun (x : SfuReq) => if x.id == r.id then { x with land := some (s.beat + 4) } else x) } o 3 1))
    else .next s
  | none => .next s
/-- SFU_RESULT_LAND (R142, R145, R149): the four lanes land as one write with their flags; a timed result is present from here on (R148). -/
def execSfuResultLand (id : Nat) (s : State) : Res :=
  match s.sfu.find? (fun r => r.id == id) with
  | none => .next s
  | some r =>
    match r.land with
    | some b =>
      if s.beat < b then .next s
      else
        let x := vMap1 .f32 (fun y => y) (fun _ y => sfuLane r.f y) r.arg
        let s := State.finishOp { s with sfu := s.sfu.filter (fun (y : SfuReq) => y.id != id) } r.uid id x.1 x.2 none
        .next (if r.strm then s else s.modThread r.uid (fun t => match t.ops.find? (fun o => o.id == id) with | some o => State.landOp t o | none => t))
    | none => .next s
/-- MIGRATION_DEPART (R200, R408): the wait is over; a ready fault is taken at the migrating bundle, or the packet leaves and the row is offered.
A step departs in the same way, into its owner's save area as a stepped packet. -/
def execMigrationDepart (uid : Nat) (s : State) : Res :=
  match s.thread? uid with
  | none => .next s
  | some t =>
    if !s.departs t then .next s
    else
      match t.park with
      | .migrate dst =>
        if t.willTrap then .next ((s.modThread uid (fun t => { t.reckon with woken := true })).bury 1)
        else
          let pk : Packet := { id := s.newId, stage := .flight, t := State.carried t dst, src := some t.pl }
          .next (((State.bump ((s.dropThread uid).modGraph (fun g => { g with packets := g.packets ++ [pk] })))).offerRow t.pl)
      | .step =>
        if t.willTrap || t.pass == 1 then .next ((s.modThread uid Thread.passOn).bury 1)
        else if bit (s.owner t.pl.o).stepcfg.toNat 63 then
          let pk : Packet := { id := s.newId, stage := .stepped, t := State.carried t t.pl }
          .next (((State.bump (((s.dropThread uid).modGraph (fun g => { g with packets := g.packets ++ [pk] })).modOwner t.pl.o (fun x => { x with stepped := true }))).saveRow t.pl.o).offerRow t.pl)
        else .next (s.modThread uid (fun t => { t with woken := true }))
      | _ => .next s
/-- PACKET_ARRIVE (R202): a packet takes a row on its destination core, or is spilled or held. -/
def execPacketArrive (pid : Nat) (s : State) : Res :=
  match s.graph.packets.find? (fun k => k.id == pid) with
  | some pk => if pk.stage != .flight || s.netHeld || s.packetBehind pk then .next s else .next (s.arrive pk)
  | none => .next s
/-- EXIT_COMPLETE (R110, R345, R348): faults that are ready are taken at the exit; inside a handler they end the thread as failed; otherwise a pair is issued
again, its other half is performed, and the task ends. -/
def execExitComplete (uid : Nat) (s : State) : Res :=
  match s.thread? uid with
  | none => .next s
  | some t =>
    match t.park with
    | .exit =>
      if !s.departs t then .next s
      else if t.willTrap || (t.pass == 1 && t.held.isEmpty) then .next ((s.modThread uid Thread.passOn).bury 1)
      else .next (s.endThread t (firstHeld t.held))
    | _ => .next s
/-- ROW_RESTORE (R330): after a switch the oldest evicted row of a resident owner takes a row again. -/
def execRowRestore (uid : Nat) (s : State) : Res :=
  match s.thread? uid with
  | none => .next s
  | some t =>
    if t.evicted.isSome && s.resident t.pl.o t.pl.l && s.rot.pause.isNone && ((s.oldestEvicted t.pl).map (·.uid)) == some uid then
      match s.claimRow t.pl with
      | some (k, s') => .next (s'.restoreRow uid k)
      | none => .next (if (s.fullOwner t.pl).isSome then (s.evictFail t.pl t.met).modThread uid (fun x => { x with met := s.metNow t.pl t.met }) else s)
    else .next s

end Sys2Proof.Machine
end

