-- ==== Sys2Proof/Machine/Copy.lean ====
section
/-! DEFINITION. Copy: mailboxes, copy commands and their units, channels, and publish (R164 to R166, R243 to R257, R269, R270). -/

namespace Sys2Proof.Machine

namespace State

/-! ### Descriptors (R223, R244) -/

/-- The 64 bytes of a descriptor in the thread's own scratchpad: MISALIGNED, SCRATCH_RANGE, the channel condition, then its quads. -/
def withDesc (s : State) (a : Fin 16) (k : Addr → List Word → Res) : Res :=
  let ea := ea0 (s.rS a)
  if ea.toNat % 64 != 0 then .next (s.raise 3 0 ea)
  else match s.region s.me.pl ea with
    | .scr p off =>
      if p = s.me.pl then s.withOwn off 64 (s.withChan off 64 ea (k ea (quadsOf 8 (s.mem.read (scrKey p off) 64)))) else .next (s.raise 7 0 ea)
    | _ => .next (s.raise 7 0 ea)

/-- An address in the own scratchpad of a place, as an offset (R155). -/
def ownOff (s : State) (p : Place) (ea : Addr) : Option Nat :=
  match s.region p ea with
  | .scr q off => if q = p then some off else none
  | _ => none

end State

/-! ### Fields of a copy descriptor (R247): forms 0 cp.1d, 1 cp.2d, 2 cp.3d, 3 cp.gather, 4 cp.scatter, 5 cp.fill -/

def cSrc (q : List Word) : Nat := bits (qd q 0) 47 0
def cDst (q : List Word) : Nat := bits (qd q 1) 47 0
def cW (q : List Word) : Nat := bits (qd q 2) 23 0
def cRows (k : Nat) (q : List Word) : Nat := if k = 0 || k = 5 then 1 else bits (qd q 2) 39 24
def cPlanes (k : Nat) (q : List Word) : Nat := if k = 2 then bits (qd q 2) 55 40 else 1
def cSp (k : Nat) (q : List Word) : Nat := if k = 0 || k = 5 then 0 else bits (qd q 3) 31 0
def cDp (k : Nat) (q : List Word) : Nat := if k = 0 || k = 5 then 0 else bits (qd q 3) 63 32
def cSpp (k : Nat) (q : List Word) : Nat := if k = 2 then bits (qd q 4) 31 0 else 0
def cDpp (k : Nat) (q : List Word) : Nat := if k = 2 then bits (qd q 4) 63 32 else 0
def cCh (q : List Word) : Nat := bits (qd q 5) 1 0
def cChen (q : List Word) : Bool := bit (qd q 5) 2
def cTagen (q : List Word) : Bool := bit (qd q 5) 3
def cPush (q : List Word) : Bool := bit (qd q 5) 4
def cQname (q : List Word) : Nat := bits (qd q 5) 63 40
def isIndexed (k : Nat) : Bool := k == 3 || k == 4
/-- The units of a command (R248). -/
def cTotal (k : Nat) (q : List Word) : Nat := cW q / 16 * cRows k q * cPlanes k q
/-- Row, plane and unit of a unit number. -/
def cRow (k : Nat) (q : List Word) (n : Nat) : Nat := n / max 1 (cW q / 16) % max 1 (cRows k q)
def cPlane (k : Nat) (q : List Word) (n : Nat) : Nat := n / max 1 (cW q / 16 * cRows k q)
def cCol (q : List Word) (n : Nat) : Nat := 16 * (n % max 1 (cW q / 16))
/-- The source of a unit; cp.fill has none. -/
def Copy.srcAt (c : Copy) (n : Nat) : Option Addr :=
  let r := cRow c.kind c.q n
  let i := if c.kind = 3 then c.idx.getD r 0 else r
  if c.kind = 5 then none
  else some (BitVec.ofNat 48 (cSrc c.q + cPlane c.kind c.q n * cSpp c.kind c.q + i * cSp c.kind c.q + cCol c.q n))
/-- The destination of a unit. -/
def Copy.dstAt (c : Copy) (n : Nat) : Addr :=
  let r := cRow c.kind c.q n
  let i := if c.kind = 4 then c.idx.getD r 0 else r
  BitVec.ofNat 48 (cDst c.q + cPlane c.kind c.q n * cDpp c.kind c.q + i * cDp c.kind c.q + cCol c.q n)

namespace State

/-- Every destination byte lies in one core's scratchpad (R247): the last byte's offset stays below 64 KiB, since offsets only rise. -/
def oneCore (s : State) (k : Nat) (q : List Word) : Bool :=
  match s.region s.me.pl (BitVec.ofNat 48 (cDst q)) with
  | .scr _ off => k == 4 || decide (off + (cPlanes k q - 1) * cDpp k q + (cRows k q - 1) * cDp k q + cW q ≤ 65536)
  | _ => false
/-- The first quad of a copy descriptor with a field outside its limits (R247). -/
def copyBad (s : State) (k : Nat) (q : List Word) : Option Nat :=
  let w := cW q
  if k != 5 && cSrc q % 16 != 0 then some 0
  else if cDst q % 16 != 0 then some 1
  else if w % 16 != 0 || w == 0 || cRows k q == 0 || (isIndexed k && decide (16384 < cRows k q)) || cPlanes k q == 0 then some 2
  else if cSp k q % 16 != 0 || cDp k q % 16 != 0 then some 3
  else if cSpp k q % 16 != 0 || cDpp k q % 16 != 0 then some 4
  else if isIndexed k && (bits (qd q 4) 47 0 % 4 != 0 ||
      (match s.ownOff s.me.pl (BitVec.ofNat 48 (qd q 4)) with | some off => decide (65536 < off + 4 * cRows k q) | none => true)) then some 4
  else if cChen q && !s.oneCore k q then some 5
  else if bits (qd q 7) 47 0 != 0 && (bits (qd q 7) 47 0 % 8 != 0 || (s.ownOff s.me.pl (BitVec.ofNat 48 (qd q 7))).isNone) then some 7
  else none

/-- The lowest-numbered empty mailbox (R244). -/
def freeBox (c : Core) : Option Nat := (List.range 4).find? (fun k => !c.mbox.any (fun m => m.mb == k))
/-- The command in mailbox number 4 waits there for one of the four to empty, which it then takes (R246). -/
def takeBox (c : Core) : Core :=
  match freeBox c, c.mbox.find? (fun m => m.mb == 4) with
  | some k, some w => { c with mbox := c.mbox.map (fun m => if m.id == w.id then { m with mb := k } else m) }
  | _, _ => c
/-- A copy form (R244): the descriptor is checked and copied into a mailbox. In a stream a command that finds all four full, because a store has mended its
descriptor since the stream beat began, waits in a fifth place, and the freeze line holds until it has a mailbox (R246). -/
def copyForm (s : State) (k : Nat) (a : Fin 16) : Res :=
  s.withDesc a (fun ea q =>
    match s.copyBad k q with
    | some n => .next (s.raise 2 5 (ea + BitVec.ofNat 48 (8 * n)))
    | none =>
      if cPush q && decide (s.nslot s.me.pl.o ≤ bits (cQname q) 23 16) then .next (s.raise 5 0 (ea + 40))
      else
        let c := s.core s.me.pl
        let put (m : Nat) : Res := .next ((s.setCore { c with mbox := c.mbox ++ [{ mb := m, id := s.newId, uid := s.me.uid, kind := k, q := q }] }).bump)
        match freeBox c with
        | none => if s.inStream then put 4 else .next (s.rewind .mailbox)
        | some m => put m)

/-! ### The copy unit (R245, R248, R249) -/

/-- The command that the copy unit of a core performs, or performs next: the one submitted first. -/
def copyHead (s : State) (p : Place) : Option Copy :=
  (s.core p).mbox.foldl (fun (a : Option Copy) m => match a with | some b => if m.id < b.id then some m else a | none => some m) none
def setCopy (s : State) (p : Place) (m : Copy) : State :=
  let c := s.core p
  s.setCore { c with mbox := c.mbox.map (fun x => if x.id == m.id then m else x) }
/-- The copy unit of a place runs: its owner is resident and no pause is in progress (R313, R318, R331). -/
def unitRuns (s : State) (p : Place) : Bool := s.resident p.o p.l && s.rot.pause.isNone && !s.trust.tripped
/-- Every access of the submitting thread before the command is performed, and every completion that it reads has landed (R251, R265 to R267). -/
def submitted (s : State) (m : Copy) : Bool :=
  !s.net.any (fun r => r.uid == m.uid && decide (r.id < m.id)) &&
  (match s.thread? m.uid with
   | some t => !t.ops.any (fun o => decide (o.id < m.id) && (o.acc || o.acq)) && !s.sawOpen t
   | none => true)
/-- A destination in a buffer pair's range reaches the shadow that the command selects at its first write (R256). -/
def shadowed (s : State) (o : Nat) (sel : List (Nat × Nat)) (va : Nat) : Nat × List (Nat × Nat) :=
  match s.pairOf o va with
  | none => (va, sel)
  | some p =>
    match sel.find? (fun x => x.1 == p.k) with
    | some x => (backed p (x.2 == 1) va, sel)
    | none => (backed p (!p.cur) va, sel ++ [(p.k, if p.cur then 0 else 1)])
/-- A destination of a unit or a readout element, checked and located (R249, R237, R256). -/
def shadowLoc (s : State) (p : Place) (sel : List (Nat × Nat)) (ea : Addr) : Except (Nat × Nat) (Loc × List (Nat × Nat)) :=
  match s.region p ea with
  | .none => .error (7, 0)
  | .scr q off => .ok (.scr q off, sel)
  | .slice k off => .ok (.slice k off, sel)
  | .translated va =>
    let x := s.shadowed p.o sel va
    match s.xlate p x.1 with
    | .error sub => .error (4, sub)
    | .ok t =>
      match permit t .store (tlbLoc t x.1) with
        | .at l => if t.kind == .sync then .error (5, 0) else .ok (l, x.2)
        | .flt c sub => .error (c, sub)
        | .miss _ => .error (4, 1)
/-- A source of a unit (R249). -/
def sourceLoc (s : State) (p : Place) (ea : Addr) : Except (Nat × Nat) Loc :=
  match s.unitLoc p ea false with
  | .ok (.dram _ _ .sync) => .error (5, 0)
  | r => r

/-- Marks written bytes of a sector, 16 at a time; the whole sector written clears its poison (R164, R249). -/
def touch (ts : List (Nat × Nat)) (key : Nat) : List (Nat × Nat) := alSet (key / 128) (alGet 0 (key / 128) ts ||| 2 ^ (key % 128 / 16)) ts
def clearWhole (s : State) (ts : List (Nat × Nat)) (key : Nat) : State :=
  if alGet 0 (key / 128) ts = 255 then s.markPoison key false else s

/-- The source bytes of a unit: code and subcode, or the bytes. A peer's answer is a free draw (R376, log 15). -/
def unitRead (s : State) (l : Loc) : Except (Nat × Nat) (List Byte) × State :=
  match l with
  | .peer o k ia =>
    if (s.usable (s.peerDev o k)).isEmpty then (.error (9, 0), s)
    else
      let x := s.free
      let s := s.drawn.ixSend o k (ia / 1024) 16 (.load 16) ia
      match x.toNat / 2 ^ 256 % 4 with
      | 0 => (.error (9, 0), s)
      | 1 => (.error (5, 0), s)
      | _ => (.ok (leBytes 16 (x.toNat % 2 ^ 128)), s)
  | _ =>
    if s.locBad l then (.error (9, 0), s.chargeMem false l)
    else (.ok (s.readLoc l 16), s.chargeMem false l)
/-- The write of a unit. -/
def unitStore (s : State) (o : Nat) (l : Loc) (bs : List Byte) : Option (Nat × Nat) × State :=
  match l with
  | .peer _ k ia =>
    if (s.usable (s.peerDev o k)).isEmpty then (some (9, 0), s)
    else
      let x := s.free
      let s := s.drawn.ixSend o k (ia / 1024) 16 (.store bs) ia
      match x.toNat / 2 ^ 256 % 4 with
      | 0 => (some (9, 0), s)
      | 1 => (some (5, 0), s)
      | _ => (none, s)
  | .dram _ _ _ =>
    (none, ((s.chargeMem true l).invalL1 (s.locKey l / 128) none).writeDev (o, 0, 0) l bs)
  | _ => (none, s.writeLoc l bs)

/-- The scratchpad that CHEN = 1 names: the core of DST. -/
def chenCore (s : State) (p : Place) (m : Copy) : Option Place :=
  match s.region p (BitVec.ofNat 48 (cDst m.q)) with
  | .scr q _ => some q
  | _ => none
/-- A failure of translation or of permission, which R249 checks before the page kind. -/
def beforeKind (e : Nat × Nat) : Bool := e.1 == 4 || (e.1 == 5 && e.2 != 0)
/-- The failure of a unit whose windows are valid: translation and permission of both ends, then the kinds of both ends (R249). -/
def firstError {α β : Type} (src : Except (Nat × Nat) α) (to_ : Except (Nat × Nat) β) : Option (Nat × Nat) :=
  match src, to_ with
  | .error e, .error f => if beforeKind e || !beforeKind f then some e else some f
  | .error e, .ok _ => some e
  | .ok _, .error f => some f
  | .ok _, .ok _ => none
/-- The buffer pair of a destination whose shadow the command has yet to select (R256). -/
def openPair (s : State) (p : Place) (m : Copy) (ea : Addr) : Option Pair :=
  match s.region p ea with
  | .translated va => (s.pairOf p.o va).filter (fun x => !m.shadow.any (fun y => y.1 == x.k))
  | _ => none
/-- The place of a write is not yet fixed: its pair's shadow is still to be selected, or its page stood out then. -/
def unfixed (s : State) (p : Place) (m : Copy) (w : CWrite) : Bool := w.late || (s.openPair p m w.ea).isSome
/-- Where a write of the command goes: as it was sent, but within a buffer pair's range to the shadow that the command selects now with its first write there
(R256, R270). -/
def writeAt (s : State) (p : Place) (m : Copy) (w : CWrite) : Except (Nat × Nat) (Loc × List (Nat × Nat)) :=
  if s.unfixed p m w then s.shadowLoc p m.shadow w.ea else .ok (w.loc, m.shadow)
/-- The keys that a destination may come to: that of its location, or those of both backings while the shadow is still to be selected. -/
def keysAt (s : State) (p : Place) (m : Copy) (ea : Addr) (l : Loc) : List Nat :=
  match s.openPair p m ea, s.region p ea with
  | some x, .translated va =>
    s.locKey l :: [false, true].filterMap (fun b => match s.xlate p (backed x b va) with | .ok t => some (s.locKey (tlbLoc t (backed x b va))) | .error _ => none)
  | _, _ => [s.locKey l]
/-- A write's place is held back by a page pull or an install. -/
def copyHeld (s : State) (p : Place) (m : Copy) (w : CWrite) : Bool :=
  match s.writeAt p m w with
  | .ok (l, _) => s.heldBack l
  | .error e => e == (4, 0)
/-- The command fails at a unit: it stops there, and its later units are not written (R249). -/
def failUnit (m : Copy) (n : Nat) (e : Nat × Nat) : Copy :=
  if m.fail.isSome && decide (m.unit ≤ n) then m else { m with fail := some e, unit := n, finished := true, wq := m.wq.filter (fun w => decide (w.n < n)) }
/-- A command's first write to a buffer pair selects the shadow (R256): the writes of the pair that stand out are placed there, and the lowest unit that finds no
place there is where the command stops (R249). -/
def placeShadow (s : State) (p : Place) (m : Copy) : Copy :=
  m.wq.foldl (fun (a : Copy) w =>
    if (s.openPair p m w.ea).isSome then a
    else match (match s.region p w.ea with | .translated va => s.pairOf p.o va | _ => none) with
      | none => a
      | some _ => match s.shadowLoc p m.shadow w.ea with
        | .ok (l, _) => { a with wq := a.wq.map (fun x => if x.n = w.n then { x with loc := l } else x) }
        | .error (4, 0) => { a with wq := a.wq.map (fun x => if x.n = w.n then { x with late := true } else x) }
        | .error e => failUnit a w.n e) m
/-- The write of a unit is performed, unless the command has stopped before it (R249, R269). -/
def copyWrite (s : State) (p : Place) (m : Copy) (n : Nat) : State × Copy :=
  match m.wq.find? (fun w => w.n == n) with
  | none => (s, m)
  | some w =>
    let m := { m with wq := m.wq.filter (fun x => x.n != n) }
    if m.fail.isSome && decide (m.unit ≤ n) then (s, m)
    else match s.writeAt p { m with wq := [] } w with
    | .error e => (s, failUnit m n e)
    | .ok (l, sel) =>
      match s.unitStore p.o l w.bytes with
      | (some e, s) => (s, failUnit m n e)
      | (none, s) =>
        let ts := touch m.touched (s.locKey l)
        let m1 := { m with touched := ts, shadow := sel }
        (s.clearWhole ts (s.locKey l), if sel = m.shadow then m1 else s.placeShadow p m1)
/-- A captured write, or a captured request of the core, to the same destination stands before it (R324). -/
def copyBehind (s : State) (p : Place) (w : CWrite) : Bool := !w.cap && (s.unitCap p w.loc || s.reqCap p w.loc)
/-- The units whose writes are performed, in their order, of those that a choice selects and that nothing holds back (R269); behind a write whose place is not
yet fixed, and which may still stop the command at its unit, no later unit is written (R249). -/
def chosen (s : State) (p : Place) (m : Copy) (sel : Nat → Bool) : Bool → List (Nat × CWrite) → List Nat
  | _, [] => []
  | shut, w :: ws =>
    if sel w.1 && !shut && !s.copyHeld p m w.2 && !s.copyBehind p w.2 then w.2.n :: chosen s p m sel shut ws
    else chosen s p m sel (shut || s.unfixed p m w.2) ws
/-- The writes of a command that a choice selects are performed. -/
def copyWrites (s : State) (p : Place) (m : Copy) (sel : Nat → Bool) : State × Copy :=
  (s.chosen p m sel false ((List.range m.wq.length).zip m.wq)).foldl (fun (x : State × Copy) n => x.1.copyWrite p x.2 n) (s, m)
/-- A unit meets a write of the command that is not yet performed: at its destination's address or at a place that both may come to, where the units of a command
stand in order (R248), or, where it leaves at once, at any whose place is not yet fixed (R249). -/
def copyClash (s : State) (p : Place) (m : Copy) (dst : Addr) (l : Loc) : Bool :=
  let ks := s.keysAt p m dst l
  m.wq.any (fun w => w.ea == dst || (s.keysAt p m w.ea w.loc).any (fun k => ks.contains k) || (s.unfixed p m w && (match l with | .peer _ _ _ => true | _ => false)))
/-- A unit's source meets one. -/
def srcClash (s : State) (p : Place) (m : Copy) (l : Loc) : Bool := m.wq.any (fun w => (s.keysAt p m w.ea w.loc).contains (s.locKey l))
/-- A source in a poisoned sector into which a write of the command is not yet performed: an earlier unit's write may clear the mark (R248, R249). -/
def markClash (s : State) (p : Place) (m : Copy) (l : Loc) : Bool :=
  s.locBad l && m.wq.any (fun w => (s.keysAt p m w.ea w.loc).any (fun k => k / 128 == s.locKey l / 128))
/-- One unit (R247 to R249): read, then sent to be written; the first failure stops the command. None: a location is held back, and the unit waits. -/
def copyUnit (s : State) (p : Place) (m : Copy) : Option (State × Copy) :=
  let fail (e : Nat × Nat) : Option (State × Copy) := some (s, { m with fail := some e, finished := true })
  let dst := m.dstAt m.unit
  let stray := cChen m.q && (match s.region p dst, s.chenCore p m with | .scr q _, some c => q != c | _, _ => true)
  let invalid := (match m.srcAt m.unit with | some a => s.region p a == .none | none => false) || s.region p dst == .none || stray
  if invalid then fail (7, 0)
  else
    let src := match m.srcAt m.unit with | some a => (s.sourceLoc p a).map some | none => .ok none
    let to_ := s.shadowLoc p m.shadow dst
    match firstError src to_ with
    | some (4, 0) => none
    | some e => fail e
    | none =>
      match src, to_ with
      | .ok src, .ok (l, sel) =>
        let clash := s.copyClash p m dst l || (match src with | some x => s.srcClash p m x || s.markClash p m x | none => false)
        if s.heldBack l || (match src with | some x => s.heldBack x | none => false) ||
            (clash && m.wq.any (fun w => s.copyHeld p m w || s.copyBehind p w)) then none
        else
          let y := if clash then s.copyWrites p m (fun _ => true) else (s, m)
          let s := y.1
          let m := y.2
          if m.fail.isSome then some (s, m)
          else if clash && !m.wq.isEmpty then none
          else
          let r := match src with
            | some x => s.unitRead x
            | none => (.ok (leBytes 8 (qd m.q 0) ++ leBytes 8 (qd m.q 0)), s)
          match r with
          | (.error e, s') => some (s', { m with fail := some e, finished := true })
          | (.ok bs, s') =>
            let sent : Copy := { m with unit := m.unit + 1, finished := decide (cTotal m.kind m.q ≤ m.unit + 1) }
            match l with
            | .peer _ _ _ =>
              (match s'.unitStore p.o l bs with
               | (some e, s'') => some (s'', { m with fail := some e, finished := true })
               | (none, s'') => some (s'', { sent with touched := touch m.touched (s''.locKey l), shadow := sel }))
            | _ => some (s', { sent with wq := m.wq ++ [{ n := m.unit, ea := dst, loc := l, bytes := bs }] })
      | _, _ => none
/-- Up to n units. -/
def copyUnits (s : State) (p : Place) (m : Copy) : Nat → State × Copy
  | 0 => (s, m)
  | n + 1 =>
    if m.finished then (s, m)
    else match s.copyUnit p m with
      | none => (s, m)
      | some (s', m') => copyUnits s' p m' n

/-! ### Tags and channel marks (R166, R250, R252) -/

/-- The scratchpad sector that a unit still to come writes; with them those of the writes not yet performed. -/
def laterSector (s : State) (p : Place) (m : Copy) (n : Nat) : Option Nat :=
  match s.region p (m.dstAt n) with
  | .scr q off => some (scrKey q off / 128)
  | .slice k off => some (sliceKey k off / 128)
  | _ => none
def laterSectors (s : State) (p : Place) (m : Copy) : List Nat :=
  (m.wq.filterMap (fun w => match w.loc with | .scr _ _ => some (s.locKey w.loc / 128) | .slice _ _ => some (s.locKey w.loc / 128) | _ => none)) ++
  (List.range (cTotal m.kind m.q - m.unit)).filterMap (fun n => s.laterSector p m (m.unit + n))
/-- A sector of a core's scratchpad is marked in a channel's range; a sector outside the range marks nothing (CHANNEL_MARK, R252, R253). -/
def markSector (s : State) (p : Place) (ch sector : Nat) : State :=
  let c := s.core p
  let x := alGet ({} : Chan) ch c.chans
  let off := sector * 128 - scrKey p 0
  if decide (scrKey p 0 ≤ sector * 128) && decide (x.base ≤ off) && decide (off < x.base + x.size) then
    s.setCore { c with chans := alSet ch { x with marks := x.marks.set ((off - x.base) / 128) true } c.chans }
  else s
def isScratch (key : Nat) : Bool := decide (2 ^ 48 ≤ key) && decide (key < 2 ^ 53)
/-- Sectors of a scratchpad that the command has written, and into which it has no write left to make, performed or not (R252). -/
def doneSectors (s : State) (p : Place) (m : Copy) : List Nat :=
  let later := s.laterSectors p m
  ((m.touched.map (·.1)).filter (fun k => isScratch (k * 128))).filter (fun k => !later.contains k && !m.marked.contains k)
/-- Marks sectors in the channel that CHEN = 1 names. -/
def markAll (s : State) (p : Place) (m : Copy) (ks : List Nat) : State :=
  if cChen m.q then (match s.chenCore p m with | some c => ks.foldl (fun (s : State) k => s.markSector c (cCh m.q) k) s | none => s) else s
/-- The blocks and sectors that the command has done with take their tags and marks; under TAGEN the marks of a block follow its tag. -/
def settleMarks (s : State) (p : Place) (m : Copy) : State × Copy :=
  let later := s.laterSectors p m
  let whole (k : Nat) : Bool := !later.any (fun x => x / 8 == k / 8)
  let sectors := (s.doneSectors p m).filter (fun k => !cTagen m.q || whole k)
  let blocks := if cTagen m.q then ((((m.touched.map (·.1)).filter (fun k => isScratch (k * 128))).filter (fun k => whole k && !m.tagged.contains (k / 8))).map (· / 8)).eraseDups else []
  let s := blocks.foldl (fun (s : State) b => s.modMem (fun x => x.setTag (1024 * b) (BitVec.ofNat 16 (bits (qd m.q 5) 31 16)))) s
  (let s := s.markAll p m sectors; match s.chenCore p m with | some c => s.wakeChans c | none => s, { m with marked := m.marked ++ sectors, tagged := m.tagged ++ blocks })
/-- The status word (R250). -/
def copyStatus (m : Copy) : Word :=
  let f := m.fail.getD (0, 0)
  BitVec.ofNat 64 (m.unit * 2 ^ 32 + f.2 * 2 ^ 24 + f.1 * 2 ^ 16)
/-- Completion (R250, R252, R254): the tags that are left and the marks that follow them, the channel error, the status, the empty mailbox, the push. -/
def finishCopy (s : State) (p : Place) (m : Copy) : State :=
  let blocks := if cTagen m.q then (((m.touched.map (·.1)).filter (fun k => isScratch (k * 128) && !m.tagged.contains (k / 8))).map (· / 8)).eraseDups else []
  let s := blocks.foldl (fun (s : State) b => s.modMem (fun x => x.setTag (1024 * b) (BitVec.ofNat 16 (bits (qd m.q 5) 31 16)))) s
  let s := s.markAll p m (s.doneSectors p m)
  let s := match m.fail, cChen m.q, s.chenCore p m with
    | some e, true, some q =>
      let c := s.core q
      s.setCore { c with chans := alSet (cCh m.q) { alGet ({} : Chan) (cCh m.q) c.chans with err := some e } c.chans }
    | _, _, _ => s
  let st := copyStatus m
  let s := if bits (qd m.q 7) 47 0 = 0 then s
    else match s.ownOff p (BitVec.ofNat 48 (qd m.q 7)) with
      | some off => s.modMem (fun x => x.write (scrKey p off) (leBytes 8 st.toNat))
      | none => s
  let c := s.core p
  let s := (s.setCore (takeBox { c with mbox := c.mbox.filter (fun x => x.id != m.id) })).wakeParked p .mailbox
  let s := match s.chenCore p m with | some c => s.wakeChans c | none => s
  if cPush m.q then
    s.unitPush ⟨p.o, bits (cQname m.q) 23 16, bits (cQname m.q) 14 8⟩ (bits (cQname m.q) 2 0) (BitVec.ofNat 128 (qd m.q 6 + st.toNat * 2 ^ 64))
  else s

/-- A channel operand of 4 or more (R80). -/
def withChannel (s : State) (b : Fin 16) (k : Res) : Res := if 4 ≤ b.val then .next (s.raise 2 2 s.iss.b) else k

end State

/-- CP_1D (R244, R248). -/
def execCp1d (a : Fin 16) (s : State) : Res := s.copyForm 0 a
/-- CP_2D (R244, R248). -/
def execCp2d (a : Fin 16) (s : State) : Res := s.copyForm 1 a
/-- CP_3D (R244, R248). -/
def execCp3d (a : Fin 16) (s : State) : Res := s.copyForm 2 a
/-- CP_GATHER (R244, R248). -/
def execCpGather (a : Fin 16) (s : State) : Res := s.copyForm 3 a
/-- CP_SCATTER (R244, R248). -/
def execCpScatter (a : Fin 16) (s : State) : Res := s.copyForm 4 a
/-- CP_FILL (R244, R248). -/
def execCpFill (a : Fin 16) (s : State) : Res := s.copyForm 5 a
/-- CHSET (R253): the range is replaced, every mark is set to FULL, the error state is cleared, and the threads that the channel holds check again. Its
faults are those of R253 alone (R9), so a poisoned doubleword is read as it stands; it orders nothing (R261). -/
def execChset (b a : Fin 16) (s : State) : Res :=
  s.withChannel b
    (let ea := ea0 (s.rS a)
     if ea.toNat % 8 != 0 then .next (s.raise 3 0 ea)
     else match s.ownOff s.me.pl ea with
       | none => .next (s.raise 7 0 ea)
       | some off =>
         s.withChan off 8 ea
           (let key := scrKey s.me.pl off
            let w := leNat (s.mem.read key 8)
            let base := bits w 15 0
            let size := bits w 32 16
            if base % 128 != 0 || size % 128 != 0 || decide (65536 < base + size) then .next (s.raise 2 5 ea)
            else
              let c := s.core s.me.pl
              .next ((s.setCore { c with chans := alSet b.val { base := base, size := size, marks := List.replicate (size / 128) (bit w 33) } c.chans }).wakeChans s.me.pl)))
/-- CHQ (R255). -/
def execChq (d b : Fin 16) (s : State) : Res :=
  s.withChannel b
    (let x := alGet ({} : Chan) b.val (s.core s.me.pl).chans
     let e := x.err.getD (0, 0)
     .next (s.wS d (BitVec.ofNat 64 (e.2 * 2 ^ 40 + e.1 * 2 ^ 32 + x.wm))))
/-- PUBLISH (R257): a valid pair is named, and the thread parks until its exchange. -/
def execPublish (a : Fin 16) (s : State) : Res :=
  let k := bits (s.rS a).toNat 5 0
  if (s.owner s.me.pl.o).pairs.any (fun p => p.k == k) then .next (s.parkAfter (.publish k))
  else .next (s.raise 5 0 (ea0 (s.rS a)))
/-- PAIR_EXCHANGE (R257): every earlier access, copy and engine command of the thread is done; CUR changes at the next count Qf, after the turns of the
present one, and once in a count; the thread wakes. -/
def execPairExchange (uid : Nat) (s : State) : Res :=
  match s.thread? uid with
  | none => .next s
  | some t =>
    match t.park with
    | .publish k =>
      let busy := t.woken || t.ops.any (fun o => o.acc || o.cmd) || s.sawOpen t || s.cores.any (fun c => c.mbox.any (fun m => m.uid == uid)) || s.cmds.any (fun c => c.uid == uid)
      let split := !s.clk.todo.isEmpty || (s.owner t.pl.o).pairs.any (fun p => p.k == k && p.qf == s.q + 1)
      if busy || split || (s.owner t.pl.o).frozen then .next s
      else .next ((s.modOwner t.pl.o (fun x => { x with pairs := x.pairs.map (fun p => if p.k == k then { p with cur := !p.cur, qf := s.q + 1 } else p) })).modThread uid
        (fun t => { t with woken := true }))
    | _ => .next s
/-- COPY_COMMAND_BEGIN (R245, R248): the next command begins; an indexed form reads its index array, and a poisoned entry fails it before unit 0. -/
def execCopyCommandBegin (o l c : Nat) (s : State) : Res :=
  let p : Place := ⟨o, l, c⟩
  match s.copyHead p with
  | none => .next s
  | some m =>
    if m.begun || !s.unitRuns p || !s.submitted m then .next s
    else if isIndexed m.kind then
      match s.ownOff p (BitVec.ofNat 48 (qd m.q 4)) with
      | none => .next (s.setCopy p { m with begun := true, fail := some (7, 0), finished := true })
      | some off =>
        let key := scrKey p off
        let n := cRows m.kind m.q
        if (List.range n).any (fun i => s.mem.poisoned (key + 4 * i)) then .next (s.setCopy p { m with begun := true, fail := some (9, 0), finished := true })
        else .next (s.setCopy p { m with begun := true, idx := (List.range n).map (fun i => leNat (s.mem.read (key + 4 * i) 4)) })
    else .next (s.setCopy p { m with begun := true })
/-- COPY_UNIT_TURN (R245, R248, R252): in a turn of slot 7 up to 512 bytes of units, then the tags and marks they complete. -/
def execCopyUnitTurn (o l c : Nat) (s : State) : Res :=
  let p : Place := ⟨o, l, c⟩
  match s.copyHead p with
  | none => .next s
  | some m =>
    if !m.begun || m.finished || !s.unitRuns p then .next s
    else
      let r := s.copyUnits p m 32
      let r := r.1.settleMarks p r.2
      .next (r.1.setCopy p r.2)
/-- COPY_COMMAND_COMPLETE (R250). -/
def execCopyCommandComplete (o l c : Nat) (s : State) : Res :=
  let p : Place := ⟨o, l, c⟩
  match s.copyHead p with
  | some m =>
    if m.finished && s.unitRuns p && !m.wq.any (fun w => s.copyHeld p m w || s.copyBehind p w) then
      let r := s.copyWrites p m (fun _ => true)
      .next (r.1.finishCopy p r.2)
    else .next s
  | none => .next s
/-- Some writes of the command that the copy unit performs are performed, in an order that a free choice says (R269). -/
def execCopyWrite (p : Place) (s : State) : Res :=
  match s.copyHead p with
  | none => .next s
  | some m =>
    if s.netHeld then .next s
    else
      let x := s.free
      let r := State.copyWrites s.drawn p m (fun k => x.getLsbD (k % 512))
      let r := r.1.settleMarks p r.2
      .next (r.1.setCopy p r.2)

end Sys2Proof.Machine
end

