-- ==== Sys2Proof/Machine/Matrix.lean ====
section
/-! DEFINITION. Matrix: engine groups, capabilities, commands and their parts, exact accumulation and readout (R48 to R52, R218 to R242, R332). -/

namespace Sys2Proof.Machine

/-! ### Capabilities (R218 to R222) -/

def capSlot (c : Word) : Nat := bits c.toNat 31 24
def capX (c : Word) : Nat := bits c.toNat 19 16
def capGr (c : Word) : Nat := bits c.toNat 11 8 + 1
def capGc (c : Word) : Nat := bits c.toNat 2 0 + 1
/-- The fields of a capability; RSV bits are written as zero (R219, R222). -/
def capMask : Word := 0xFFFF0000FF0F0F07
/-- A capability-table entry accepts a command's capability (R220). -/
def capMatches (e c : Word) : Bool := bit e.toNat 47 && e &&& capMask == c &&& capMask
/-- The engines of a group, by ascending i and then ascending j (R218, R225). -/
def groupParts (c : Word) : List Part :=
  (List.range (capGr c)).flatMap (fun i => (List.range (capGc c)).map (fun j => { i := i, j := j }))

/-! ### Fields of the descriptors (R224, R230, R231, R235) -/

def mStart (q : List Word) : Nat := bits (qd q 7) 15 0
def mDue (q : List Word) : Nat := bits (qd q 7) 31 16
/-- Element kinds of an mma form: G8, INT8 or BF16. -/
inductive ElT | g8 | i8 | bf16
deriving DecidableEq, Repr
def ElT.size : ElT → Nat
  | .bf16 => 2
  | _ => 1
def typeA : Nat → ElT
  | 3 => .i8
  | 4 => .bf16
  | _ => .g8
def typeB : Nat → ElT
  | 3 => .i8
  | 4 | 5 => .bf16
  | _ => .g8
def mK (q : List Word) : Nat := bits (qd q 5) 15 0
def mAcc (form : Nat) (q : List Word) : Bool := if form = 6 || form = 7 then bit (qd q 3) 7 else bit (qd q 5) 16
/-- An operand of an mma command: element kind, base, pitch, uniform scale or scale array, expected tag. -/
structure Operand where
  ty : ElT
  base : Nat
  pitch : Nat
  uni : Bool
  scale : Int
  sbase : Nat
  spitch : Nat
  tag : Option (BitVec 16)
deriving DecidableEq, Repr
def opA (form : Nat) (q : List Word) : Operand :=
  { ty := typeA form, base := bits (qd q 0) 47 0, pitch := bits (qd q 4) 15 0, uni := bit (qd q 5) 17, scale := scale9 (bits (qd q 5) 40 32)
    sbase := bits (qd q 2) 47 0, spitch := bits (qd q 4) 47 32, tag := if bit (qd q 5) 19 then some (BitVec.ofNat 16 (qd q 6)) else none }
def opB (form : Nat) (q : List Word) : Operand :=
  { ty := typeB form, base := bits (qd q 1) 47 0, pitch := bits (qd q 4) 31 16, uni := bit (qd q 5) 18, scale := scale9 (bits (qd q 5) 56 48)
    sbase := bits (qd q 3) 47 0, spitch := bits (qd q 4) 63 48, tag := if bit (qd q 5) 20 then some (BitVec.ofNat 16 (qd q 6 / 65536)) else none }
/-- The scale array is read (R231). -/
def Operand.scaled (o : Operand) : Bool := o.ty == .g8 && !o.uni
/-- Readout targets: 0 FP32, 1 BF16, 2 G8, 3 INT32, 4 INT8 (R235, R236). -/
def rTarget (q : List Word) : Nat := bits (qd q 3) 3 0
def rSize (q : List Word) : Nat := match rTarget q with | 0 | 3 => 4 | 1 => 2 | _ => 1

namespace State

/-! ### Windows (R154, R223) -/

/-- A translated address. -/
def isVa (a : Nat) : Bool := decide (a % 2 ^ 48 < 2 ^ 47)
/-- The first address of a range that lies outside the one valid window of its base, and none when the range lies inside it. -/
def outside (s : State) (p : Place) (a len : Nat) : Option Addr :=
  let room := match s.region p (BitVec.ofNat 48 a) with
    | .none => 0
    | .translated va => 2 ^ 47 - va
    | .scr _ off => 65536 - off
    | .slice n off => s.sliceSize n - off
  if len ≤ room then none else some (BitVec.ofNat 48 (a + room))

/-- The first quad of a command's descriptor with a field outside its limits (R223, R224, R230, R231, R235): with fields of several quads outside, the lowest
(DESIGN CHOICE, log 134). The limits of a scale array's base and pitch hold where the array is read, and that of DSBASE for the target G8 (R231, R235; DESIGN
CHOICE, log 135). -/
def matBad (strm : Bool) (form : Nat) (cap : Word) (q : List Word) : Option Nat :=
  let opBad (o : Operand) (b sb : Nat) : Option Nat :=
    if o.base % 16 != 0 || isVa o.base then some b
    else if o.scaled && (o.sbase % 2 != 0 || isVa o.sbase) then some sb else none
  let pitchBad (o : Operand) : Bool :=
    o.pitch % 16 != 0 || decide (o.pitch < mK q * o.ty.size) || (o.scaled && (o.spitch % 2 != 0 || decide (o.spitch < mK q / 16)))
  let n := 128 * capGc cap
  let body : Option Nat :=
    if form = 1 then (if !bit (qd q 0) 32 && !bit (qd q 0) 33 then some 0 else none)
    else if form ≤ 5 then
      let a := opA form q
      let b := opB form q
      let ab := (opBad a 0 2).toList ++ (opBad b 1 3).toList
      if !ab.isEmpty then some (ab.foldl min 7)
      else if pitchBad a || pitchBad b then some 4
      else if mK q % 32 != 0 || mK q == 0 || decide ((if a.ty.size = 1 && b.ty.size = 1 then 512 else 256) < mK q) then some 5 else none
    else
      let g8 := rTarget q == 2
      if bits (qd q 0) 47 0 % 16 != 0 then some 0
      else if g8 && bits (qd q 1) 47 0 % 2 != 0 then some 1
      else if bits (qd q 2) 15 0 % 16 != 0 || decide (bits (qd q 2) 15 0 < n * rSize q) ||
          (g8 && (bits (qd q 2) 31 16 % 2 != 0 || decide (bits (qd q 2) 31 16 < n / 16))) then some 2
      else if 4 < rTarget q then some 3 else none
  match body with
  | some k => some k
  | none => if mStart q = 1 || (strm && decide (mDue q < mStart q)) then some 7 else none
/-- The range of a command that leaves its window (R223, cause 6): of several, the first in the order of A, B, the scales of A, the scales of B, or of DBASE and
DSBASE (DESIGN CHOICE, log 134). -/
def matRange (s : State) (p : Place) (form : Nat) (cap : Word) (q : List Word) : Option Addr :=
  let m := 128 * capGr cap
  let n := 128 * capGc cap
  let rows (a pitch len k : Nat) : Option Addr := s.outside p a ((k - 1) * pitch + len)
  if form = 1 then none
  else if form ≤ 5 then
    let a := opA form q
    let b := opB form q
    let sc (o : Operand) (k : Nat) : Option Addr := if o.scaled then rows o.sbase o.spitch (mK q / 16) k else none
    ((rows a.base a.pitch (mK q * a.ty.size) m).or (rows b.base b.pitch (mK q * b.ty.size) n)).or ((sc a m).or (sc b n))
  else
    (rows (bits (qd q 0) 47 0) (bits (qd q 2) 15 0) (n * rSize q) m).or
      (if rTarget q = 2 then rows (bits (qd q 1) 47 0) (bits (qd q 2) 31 16) (n / 16) m else none)

/-! ### Issue (R221 to R229) -/

/-- An engine-group operand of 4 or more (R80). -/
def withEg (s : State) (b : Fin 16) (k : Word → Res) : Res :=
  if h : b.val < 4 then k (s.me.eg[b.val]) else .next (s.raise 2 2 s.iss.b)
/-- A descriptor command issues (R223, R225, R229). -/
def matForm (s : State) (form : Nat) (d b a : Fin 16) : Res :=
  s.withEg b (fun cap => s.withDesc a (fun ea q =>
    match matBad s.inStream form cap q with
    | some n => .next (s.raise 2 5 (ea + BitVec.ofNat 48 (8 * n)))
    | none =>
      if s.inStream && mStart q == 0 then .next (s.raise 1 5 s.iss.b)
      else match s.matRange s.me.pl form cap q with
        | some x => .next (s.raise 7 0 x)
        | none =>
          if form = 7 && decide (s.nslot s.me.pl.o ≤ bits (qd q 4) 23 16) then .next (s.raise 5 0 (ea + 32))
          else if s.atLimit then .next (s.rewind .limit)
          else
            let o : Op := { s.newOp with dest := some (.s d), counts := true, acc := false, cmd := true, ea := ea, due := s.dueAt (mDue q) }
            let at_ : Option Word := if mStart q = 0 then none
              else if s.inStream then some (BitVec.ofNat 64 (s.streamBeat + mStart q)) else some (s.me.taskb + BitVec.ofNat 64 (mStart q))
            let c : Cmd := { id := s.newId, uid := s.me.uid, pl := s.me.pl, fpc := s.iss.b, desc := ea, form := form, cap := cap, q := q
                             strm := s.me.strm, startAt := at_, parts := groupParts cap }
            .next (State.bump { s with me := s.me.addOp o, cmds := s.cmds ++ [c] })))
/-- mstat and mfence send a marker to every engine of the group; the spec names no FADDR for their CAPABILITY fault, a free value (log 19). -/
def markForm (s : State) (form : Nat) (cap : Word) (o : Op) : State :=
  let c : Cmd := { id := s.newId, uid := s.me.uid, pl := s.me.pl, fpc := s.iss.b, desc := s.free.setWidth 48, form := form, cap := cap, q := [], parts := groupParts cap }
  State.bump { s.drawn with me := s.me.addOp o, cmds := s.cmds ++ [c] }

/-! ### Engines (R226, R242) -/

def cmd? (s : State) (cid : Nat) : Option Cmd := s.cmds.find? (fun c => c.id == cid)
def setCmd (s : State) (c : Cmd) : State := { s with cmds := s.cmds.map (fun x => if x.id == c.id then c else x) }
def Cmd.setPart (c : Cmd) (p : Part) : Cmd := { c with parts := c.parts.map (fun x => if x.i == p.i && x.j == p.j then p else x) }
def part? (c : Cmd) (i j : Nat) : Option Part := c.parts.find? (fun x => x.i == i && x.j == j)
/-- The engine of a part: its logical slot and its row position. -/
def engSlot (c : Cmd) (j : Nat) : Nat := capSlot c.cap + j
def engX (c : Cmd) (i : Nat) : Nat := capX c.cap + i
/-- The engine at a raster index and row position. -/
def engineAt (s : State) (idx x : Nat) : Engine := (s.engines.find? (fun e => e.idx == idx && e.x == x)).getD { idx := idx, x := x }
def setEngine (s : State) (e : Engine) : State :=
  { s with engines := if s.engines.any (fun f => f.idx == e.idx && f.x == e.x) then s.engines.map (fun f => if f.idx == e.idx && f.x == e.x then e else f)
                      else s.engines ++ [e] }
def engineOf (s : State) (c : Cmd) (i j : Nat) : Engine := s.engineAt (((s.tenancyOf c.pl.o (engSlot c j)).map (·.idx)).getD 0) (engX c i)
/-- Parts of other commands of the owner at the same engine. -/
def partsAt (s : State) (c : Cmd) (i j : Nat) : List (Cmd × Part) :=
  s.cmds.flatMap (fun d =>
    if d.pl.o != c.pl.o || d.id == c.id then []
    else (d.parts.filter (fun p => engSlot d p.j == engSlot c j && engX d p.i == engX c i)).map (fun p => (d, p)))
/-- The engine has an earlier part to finish (R226); for mfence, with its writes performed too (R240). -/
def engineBusy (s : State) (c : Cmd) (p : Part) : Bool :=
  (s.partsAt c p.i p.j).any (fun x => (!x.2.done || (c.form == 9 && x.1.wq.any (fun w => w.i == x.2.i && w.j == x.2.j))) &&
    (match x.2.arrived, p.arrived with | some a, some b => decide (a < b) | some _, none => true | none, _ => false))
/-- The engine's tiles may run: the owner is resident, and no pause or trip holds (R313, R318). -/
def engineRuns (s : State) (c : Cmd) (j : Nat) : Bool := s.resident c.pl.o (engSlot c j) && s.rot.pause.isNone && !s.trust.tripped
/-- The engine of a part holds another owner's tiles (R242). -/
def otherTag (s : State) (c : Cmd) (p : Part) : Bool := match (s.engineOf c p.i p.j).tag with | some o => o != c.pl.o | none => false
/-- A part meets the tiles of another owner: the first of its owner's at the engine raises event 0x05, and it waits (R242, R332). -/
def meetTag (s : State) (c : Cmd) (p : Part) : State :=
  let e := s.engineOf c p.i p.j
  let first := !s.cmds.any (fun d => d.pl.o == c.pl.o && d.parts.any (fun x => x.foreign && engSlot d x.j == engSlot c p.j && engX d x.i == engX c p.i))
  let s1 := s.setCmd (Cmd.setPart c { p with foreign := true })
  if first then s1.raiseEv { ty := 5, o := c.pl.o, data := BitVec.ofNat 64 (e.idx + e.x * 2 ^ 8 + c.pl.o * 2 ^ 12), src := 2 ^ 46 + e.idx * 16 + e.x } else s1
/-- The freeze line halts the sequencer of a command that a stream issued with a start offset (R214, R228). -/
def lineHalts (s : State) (c : Cmd) : Bool :=
  match c.strm, c.startAt with | some sid, some _ => ((s.stream? sid).map s.lineOf?).getD false | _, _ => false
/-- A part computes in this cycle (R228): its owner is resident and no pause holds, or it has yet to reach its next step boundary, 32 values of K
(R313, R318, R319); the freeze line halts a timed one of a stream (R214), and another owner's tiles halt any (R332). -/
def computes (s : State) (c : Cmd) (p : Part) : Bool :=
  p.started && !p.done && p.left != 0 && !p.foreign && !s.otherTag c p && !s.lineHalts c && ((s.resident c.pl.o (engSlot c p.j) && s.rot.pause.isNone) || p.left % 32 != 0)
/-- The engines compute for a cycle (R228); MAC counts it (R434). -/
def engineCycle (s : State) : State :=
  let run := s.cmds.flatMap (fun (c : Cmd) => (c.parts.filter (s.computes c)).map (fun _ => c.pl.o))
  run.foldl (fun (s : State) o => s.charge o 2 1)
    { s with cmds := s.cmds.map (fun (c : Cmd) => { c with parts := c.parts.map (fun (p : Part) =>
        if s.computes c p then { p with left := p.left - 1, done := decide (p.left ≤ 1) } else p) }) }

/-! ### Operand fetch (R228, R233, R234) -/

/-- A run of operand elements, or of scales: its address, its number of elements, their size, and the tag it expects. -/
structure Span where
  a : Nat
  n : Nat
  size : Nat := 2
  tag : Option (BitVec 16) := none
deriving DecidableEq, Repr
/-- The run of an operand row: operand 0 is A, 1 its scales, 2 B, 3 its scales (R231, R232). -/
def spanOf (c : Cmd) (k : Nat × Nat) : Span :=
  let o := if k.1 < 2 then opA c.form c.q else opB c.form c.q
  if k.1 % 2 = 0 then { a := o.base + k.2 * o.pitch, n := mK c.q, size := o.ty.size, tag := o.tag }
  else { a := o.sbase + k.2 * o.spitch, n := if o.scaled then mK c.q / 32 else 0 }
/-- The rows that a part needs (R233). -/
def partRows (c : Cmd) (p : Part) : List (Nat × Nat) :=
  if 2 ≤ c.form && c.form ≤ 5 then
    [(0, p.i), (1, p.i), (2, p.j), (3, p.j)].flatMap (fun k => (List.range 128).map (fun m => (k.1, 128 * k.2 + m)))
  else []
def rowOf (c : Cmd) (k : Nat × Nat) : FRow :=
  (c.rows.find? (fun x => x.op == k.1 && x.r == k.2)).getD { op := k.1, r := k.2, got := List.replicate (spanOf c k).n none }
def Cmd.setRow (c : Cmd) (x : FRow) : Cmd := { c with rows := c.rows.filter (fun y => !(y.op == x.op && y.r == x.r)) ++ [x] }
/-- A fetch of n bytes at a key: the value and its 1 KiB block, with a failure of a poisoned sector (R233). -/
def fetchKey (s : State) (key n a : Nat) : Nat × Nat × List (Nat × Nat × Nat) :=
  (leNat (s.mem.read key n), key / 1024, if s.mem.poisoned key then [(9, 0, a)] else [])
/-- A fetch of one element: none while a channel holds it, else its value, its block, and its failures as code, subcode and address
(R225, R228, R233, R254). -/
def elemGet (s : State) (p : Place) (x : Span) (k : Nat) : Option (Nat × Nat × List (Nat × Nat × Nat)) :=
  let a := x.a + k * x.size
  match s.region p (BitVec.ofNat 48 a) with
  | .scr q off =>
    match s.chanCheck q off x.size with
    | .park => none
    | .err c sub => some (0, 0, [(c, sub, a)])
    | .pass => some (s.fetchKey (scrKey q off) x.size a)
  | .slice n off => some (if s.sliceSize n < off + x.size then (0, 0, [(7, 0, a)]) else s.fetchKey (sliceKey n off) x.size a)
  | _ => some (0, 0, [(7, 0, a)])
/-- The elements of a row that lie in the 16-byte units that a fetch selects, and that it has not yet, are read (R259); a block's tag is compared at the
first read of it, poisoned or not (R234). -/
def fetchRow (s : State) (c : Cmd) (k : Nat × Nat) (sel : Nat → Bool) : Cmd :=
  let x := spanOf c k
  let row := rowOf c k
  let r := ((List.range x.n).zip row.got).foldl (fun (a : List (Option Nat) × List (Nat × Nat × Nat) × List ((Nat × Nat × Nat) × Bool)) (e : Nat × Option Nat) =>
    if e.2.isSome || !sel ((x.a + e.1 * x.size) / 16) then (a.1 ++ [e.2], a.2)
    else match s.elemGet c.pl x e.1 with
      | none => (a.1 ++ [none], a.2)
      | some (v, block, fs) =>
        match x.tag with
        | none => (a.1 ++ [some v], a.2.1 ++ fs, a.2.2)
        | some t =>
          let id := (k.1, k.2 / 128, block)
          let stray := fs.any (fun f => f.1 != 9)
          let known := a.2.2.find? (fun y => y.1 == id)
          let ok := match known with | some y => y.2 | none => s.mem.tag (1024 * block) == t
          (a.1 ++ [some v], a.2.1 ++ fs ++ (if ok || stray then [] else [(8, 1, x.a + e.1 * x.size)]),
            if known.isSome || stray then a.2.2 else a.2.2 ++ [(id, ok)])) ([], row.fails, c.checks)
  { Cmd.setRow c { row with got := r.1, fails := r.2.1 } with checks := r.2.2 }
/-- Whatever of a part's rows is not yet fetched, and no channel holds, is fetched. -/
def fetchPart (s : State) (c : Cmd) (p : Part) : Cmd := (partRows c p).foldl (fun c k => s.fetchRow c k (fun _ => true)) c
/-- The first operand byte of a part that has not been fetched. -/
def partAbsent (c : Cmd) (p : Part) : Option Nat :=
  (partRows c p).findSome? (fun k => ((rowOf c k).got.findIdx? (·.isNone)).map (fun n => (spanOf c k).a + n * (spanOf c k).size))
/-- The failures of what a part has fetched, in the order of its rows. -/
def partFails (c : Cmd) (p : Part) : List (Nat × Nat × Nat) := (partRows c p).flatMap (fun k => (rowOf c k).fails)
/-- The order in which one engine reports (R225). Of several failures of one rank it reports a tag mismatch first, and of like ones the first in the order of the
rows of A, the scales of A, the rows of B and the scales of B: R225 orders no further (DESIGN CHOICE, log 132). -/
def failRank : Nat → Nat
  | 0x0A => 0
  | 7 => 1
  | 8 => 2
  | 9 => 3
  | _ => 4
def firstFail (fs : List (Nat × Nat × Nat)) : Option (Nat × Nat × Nat) :=
  fs.foldl (fun (a : Option (Nat × Nat × Nat)) f => match a with | some b => if failRank f.1 < failRank b.1 then some f else a | none => some f) none
/-- An operand element, from the bits fetched and those of its scale (R232). -/
def elemVal (o : Operand) (x sc : Nat) : XR :=
  match o.ty with
  | .i8 => let v := laneInt 8 x; .fin (decide (v < 0)) v.natAbs 0
  | .bf16 => Fmt.bf16.val x
  | .g8 => g8Val x (if o.uni then o.scale else scale9 sc)
/-- The elements of an operand row as fetched. -/
def rowElems (c : Cmd) (o : Operand) (op r : Nat) : List XR :=
  let sc := (rowOf c (op + 1, r)).got
  ((List.range (mK c.q)).zip (rowOf c (op, r)).got).map (fun x => elemVal o (x.2.getD 0) ((sc.getD (x.1 / 32) none).getD 0))

/-! ### Accumulation (R48 to R50, R230, R232) -/

def accAt (a : Acc) (k : Nat) : Int := (alGet (0 : BitVec 128) k a.elems).toInt
/-- The terms of one element, added in turn. -/
def addTerms (anchor : Int) : List XR → Int × Bool × Bool → Int × Bool × Bool
  | [], r => r
  | p :: ps, r => let t := accTerm anchor r.1 p; addTerms anchor ps (t.1, r.2.1 || t.2.1, r.2.2 || t.2.2)
/-- C := C + A · Bᵀ on one engine, from the rows fetched (R232). -/
def accumulate (c : Cmd) (p : Part) (t : Acc) : Acc :=
  let k := mK c.q
  let as := (List.range 128).map (fun m => rowElems c (opA c.form c.q) 0 (128 * p.i + m))
  let bs := (List.range 128).map (fun n => rowElems c (opB c.form c.q) 2 (128 * p.j + n))
  let rs := (List.range 128).flatMap (fun m => (List.range 128).map (fun n =>
    (128 * m + n, addTerms t.anchor (((as.getD m []).zip (bs.getD n [])).map (fun x => (x.1.mul x.2).1)) (accAt t (128 * m + n), false, false))))
  { anchor := t.anchor, inexact := t.inexact || rs.any (fun r => r.2.2.1)
    range := t.range || rs.any (fun r => r.2.2.2) || decide (2 ^ 15 < t.count + k), count := t.count + k
    elems := rs.filterMap (fun r => let v := BitVec.ofInt 128 r.2.1; if v = 0 then none else some (r.1, v)) }
def tile (e : Engine) (a1 : Bool) : Acc := if a1 then e.a1 else e.a0
def setTile (e : Engine) (a1 : Bool) (t : Acc) : Engine := if a1 then { e with a1 := t } else { e with a0 := t }
/-- RANGE and INEXACT of a tile in the status word (R225). -/
def tileInfo (t : Acc) : Nat := (if t.range then 512 else 0) + (if t.inexact then 256 else 0)
/-- RANGE and INEXACT of the tiles that a command selects: those that CLR0 and CLR1 name for mclr, else the one of its ACC field (R225, R230). -/
def selInfo (c : Cmd) (e : Engine) : Nat :=
  if c.form = 1 then (if bit (qd c.q 0) 32 then tileInfo e.a0 else 0) ||| (if bit (qd c.q 0) 33 then tileInfo e.a1 else 0)
  else tileInfo (tile e (mAcc c.form c.q))
/-- The word bits that one engine adds to an mstat result (R239). -/
def statInfo (e : Engine) (first : Bool) : Nat :=
  let f (t : Acc) : Nat := (if t.range then 2 else 0) + (if t.inexact then 1 else 0)
  f e.a1 * 2 ^ 34 + f e.a0 * 2 ^ 32 + (if first then (e.a1.anchor % 2048).toNat * 2 ^ 16 + (e.a0.anchor % 2048).toNat else 0)

/-! ### Readout (R51, R235 to R237) -/

/-- A byte run to write: its address and its bytes. -/
abbrev Write := Nat × List Byte
/-- The exact values of a row of a tile, with ReLU (R51). -/
def rowValues (t : Acc) (relu : Bool) (m : Nat) : List XR :=
  (List.range 128).map (fun n =>
    let v := accAt t (128 * m + n)
    if relu && decide (v < 0) then .fin false 0 0 else .fin (decide (v < 0)) v.natAbs t.anchor)
/-- The writes of a row and the flags it raises (R236). -/
def rowWrites (q : List Word) (t : Acc) (i j m : Nat) : List Write × Flags :=
  let mode : RM := bits (qd q 3) 5 4
  let vs := rowValues t (bit (qd q 3) 6) m
  let row := 128 * i + m
  let at_ (n : Nat) : Nat := bits (qd q 0) 47 0 + row * bits (qd q 2) 15 0 + (128 * j + n) * rSize q
  let plain (f : XR → Nat × Flags) : List Write × Flags :=
    let rs := vs.map f
    ((List.range 128).map (fun n => (at_ n, leBytes (rSize q) (rs.getD n (0, 0)).1)), rs.foldl (fun a r => a ||| r.2) 0)
  match rTarget q with
  | 0 => plain (Fmt.f32.round mode)
  | 1 => plain (Fmt.bf16.round mode)
  | 3 => plain (fun v => let r := roundToInt mode 32 true v; ((r.1 % 2 ^ 32).toNat, r.2))
  | 4 => plain (fun v => let r := roundToInt mode 8 true v; ((r.1 % 2 ^ 8).toNat, r.2))
  | _ =>
    let bs := (List.range 4).map (fun b =>
      let blk := (vs.drop (32 * b)).take 32
      let sc := g8BlockScale blk
      (sc, blk.map (fun v => g8Encode mode (v.scale (-sc)))))
    let es := bs.flatMap (fun b => b.2)
    ((List.range 128).map (fun n => (at_ n, leBytes 1 (es.getD n (0, 0)).1)) ++
     (List.range 4).map (fun b => (bits (qd q 1) 47 0 + row * bits (qd q 2) 31 16 + 2 * (4 * j + b), leBytes 2 ((bs.getD b (0, [])).1 % 2 ^ 16).toNat)),
     es.foldl (fun a r => a ||| r.2) 0)
/-- Marks n written bytes of a sector. -/
def touchBytes (ts : List (Nat × Nat)) (key n : Nat) : List (Nat × Nat) :=
  alSet (key / 128) (alGet 0 (key / 128) ts ||| ((2 ^ n - 1) * 2 ^ (key % 128))) ts
/-- A part reports the first of its failures in the order of R225. -/
def Cmd.noteFail (c : Cmd) (w : PWrite) (code sub : Nat) : Cmd :=
  { c with parts := c.parts.map (fun (p : Part) =>
      if p.i == w.i && p.j == w.j && (p.code == 0 || decide (failRank code < failRank p.code)) then { p with code := code, sub := sub, faddr := BitVec.ofNat 48 w.a } else p) }
/-- A write of a readout is performed, on the shadow of a buffer pair (R237), with the L1 copies of its sector invalidated (R163); an element on a faulting page is
not written. -/
def readoutWrite (s : State) (c : Cmd) (w : PWrite) : State × Cmd :=
  match s.shadowLoc c.pl c.shadow (BitVec.ofNat 48 w.a) with
  | .error e => (s, Cmd.noteFail c w e.1 e.2)
  | .ok (.peer _ _ _, _) => (s, Cmd.noteFail c w 5 0)
  | .ok (l, sel) =>
    let key := s.locKey l
    let ts := touchBytes c.touched key w.bytes.length
    let s := match l with | .dram _ _ _ => (if alGet 0 (key / 128) c.touched = 0 then s.chargeMem true l else s).invalL1 (key / 128) none | _ => s
    let s := s.writeDev (c.pl.o, 0, 0) l w.bytes
    (if alGet 0 (key / 128) ts = 2 ^ 128 - 1 then s.markPoison key false else s, { c with touched := ts, shadow := sel })
/-- An earlier command of the thread at the same group is not yet done: a readout has writes that are not performed or still to come, or an mma has still to fetch
operands at some engine. The writes of a later command, and its status, stand behind it (R226, R265, notes 4 and 5). -/
def writesAhead (s : State) (c : Cmd) : Bool :=
  s.cmds.any (fun d => d.uid == c.uid && decide (d.id < c.id) && d.cap &&& capMask == c.cap &&& capMask && (d.form == 6 || d.form == 7) &&
    (!d.wq.isEmpty || !d.parts.all (·.done))) ||
  ((c.form == 6 || c.form == 7) && s.cmds.any (fun d => d.uid == c.uid && decide (d.id < c.id) && d.cap &&& capMask == c.cap &&& capMask &&
    decide (2 ≤ d.form) && decide (d.form ≤ 5) && !d.parts.all (fun p => p.started || p.done)))
/-- A write's destination is held back by a page pull or an install. -/
def writeHeld (s : State) (c : Cmd) (w : PWrite) : Bool :=
  match s.shadowLoc c.pl c.shadow (BitVec.ofNat 48 w.a) with
  | .ok (l, _) => s.heldBack l
  | .error e => e == (4, 0)
/-- A captured write of the same engine to the same destination stands before a write that set out after the pause (R324). -/
def writeBehind (s : State) (c : Cmd) (w : PWrite) : Bool :=
  let at_ (d : Cmd) (x : PWrite) : Option Loc := match s.shadowLoc d.pl d.shadow (BitVec.ofNat 48 x.a) with | .ok (l, _) => some l | .error _ => none
  !w.cap && s.cmds.any (fun d => d.pl.o == c.pl.o && d.wq.any (fun x => x.cap && engSlot d x.j == engSlot c w.j && engX d x.i == engX c w.i &&
    (match at_ d x, at_ c w with | some a, some b => s.sameDest a b && !s.heldBack a | _, _ => false)))
/-- The writes of a command that a choice selects, and that nothing holds back, are performed (R269). -/
def readoutWrites (s : State) (c : Cmd) (sel : Nat → Bool) : State × Cmd :=
  let ws := (List.range c.wq.length).zip c.wq
  let go (w : Nat × PWrite) : Bool := sel w.1 && !s.writeHeld c w.2 && !s.writeBehind c w.2
  (ws.filter go).foldl (fun (x : State × Cmd) w => x.1.readoutWrite x.2 w.2) (s, { c with wq := (ws.filter (fun w => !go w)).map (·.2) })

/-! ### Running a part (R226 to R240) -/

/-- A part ends with a code; one whose capability the engine rejects adds nothing to RANGE and INEXACT of the status (R225; DESIGN CHOICE, log 133). -/
def failPart (s : State) (c : Cmd) (p : Part) (f : Nat × Nat × Nat) (info : Nat) : State :=
  s.setCmd (Cmd.setPart c { p with started := true, done := true, code := f.1, sub := f.2.1, faddr := BitVec.ofNat 48 f.2.2, info := info })
/-- The engine begins its part: mclr and the markers are one step; an mma fetches what it has not yet, adds its terms and computes for K cycles, or fails and
adds none; a readout goes on by steps (R226, R228, R319). -/
def runPart (s : State) (c : Cmd) (p : Part) : State :=
  let e := s.engineOf c p.i p.j
  let q := c.q
  let begun (info left : Nat) : Part := { p with started := true, done := left == 0, left := left, info := info }
  if c.form = 1 then
    let anc (x : Nat) : Int := laneInt 11 x
    let e := if bit (qd q 0) 32 then { e with a0 := { anchor := anc (bits (qd q 0) 10 0) } } else e
    let e := if bit (qd q 0) 33 then { e with a1 := { anchor := anc (bits (qd q 0) 26 16) } } else e
    (s.setEngine e).setCmd (Cmd.setPart c (begun 0 0))
  else if c.form ≤ 5 then
    let t := tile e (mAcc c.form q)
    let c := s.fetchPart c p
    match firstFail (partFails c p ++ ((partAbsent c p).map (fun a => (8, 3, a))).toList) with
    | some f => s.failPart c p f (tileInfo t)
    | none =>
      let t := accumulate c p t
      (s.setEngine (setTile e (mAcc c.form q) t)).setCmd (Cmd.setPart c (begun (tileInfo t) (mK q)))
  else if c.form ≤ 7 then s.setCmd (Cmd.setPart c { p with started := true, info := tileInfo (tile e (mAcc c.form q)) })
  else if c.form = 8 then s.setCmd (Cmd.setPart c (begun (statInfo e (p.i == 0 && p.j == 0)) 0))
  else s.setCmd (Cmd.setPart c (begun 0 0))
/-- A readout step: 16 result rows are read from the tile, and their writes are sent (R236, R319). -/
def stepPart (s : State) (c : Cmd) (p : Part) : State :=
  let t := tile (s.engineOf c p.i p.j) (mAcc c.form c.q)
  let rs := (List.range 16).map (fun m => rowWrites c.q t p.i p.j (p.row + m))
  let fl := rs.foldl (fun (a : Flags) r => a ||| r.2) 0
  let ws := rs.flatMap (fun r => r.1.map (fun (w : Write) => ({ i := p.i, j := p.j, a := w.1, bytes := w.2 } : PWrite)))
  s.setCmd (Cmd.setPart { c with wq := c.wq ++ ws } { p with row := p.row + 16, done := decide (128 ≤ p.row + 16), info := p.info ||| fl.toNat, stopped := s.rot.pause.isSome })
/-- Everything a start needs is in place (R228). -/
def partReady (s : State) (c : Cmd) (p : Part) : Bool :=
  p.arrived.isSome && !p.foreign && !s.otherTag c p && s.engineRuns c p.j && !s.engineBusy c p && (partAbsent (s.fetchPart c p) p).isNone
/-- A part starts: untimed, and timed in a stream by the stream beat, when all is in place; timed outside a stream exactly at its beat, or with SCHEDULE. -/
def startPart (s : State) (c : Cmd) (p : Part) : State :=
  if p.started || p.done || !s.engineRuns c p.j then s
  else match c.startAt, c.strm.isSome with
    | some b, false =>
      let late : Nat × Nat × Nat := (8, 2, c.desc.toNat)
      (match s.thread? c.uid with
       | none => s.failPart c p late 0
       | some t =>
         if t.taskb.toNat < b.toNat then s
         else if t.taskb != b || p.arrived.isNone || p.foreign || s.otherTag c p || s.engineBusy c p then
           s.failPart c p ((firstFail (partFails c p ++ [late])).getD late) (if s.otherTag c p then 0 else selInfo c (s.engineOf c p.i p.j))
         else s.runPart c p)
    | _, _ => if s.partReady c p then s.runPart c p else s
/-- The part that the status reports (R225): the lowest i, then the lowest j. -/
def failedPart (c : Cmd) : Option Part := c.parts.find? (fun p => p.code != 0)
/-- The status word (R225), or the word of mstat (R239). -/
def statusWord (c : Cmd) : Word :=
  let info := c.parts.foldl (fun a p => a ||| p.info) 0
  let f := failedPart c
  if c.form = 8 then BitVec.ofNat 64 (if f.isSome then 0x0A * 2 ^ 56 else info)
  else match f with
    | some p => BitVec.ofNat 64 (p.sub * 2 ^ 24 + p.code * 2 ^ 16 + info)
    | none => BitVec.ofNat 64 info
def cmdFault (c : Cmd) : Option FaultRec := (failedPart c).map (fun p => { op := c.id, code := p.code, sub := p.sub, fpc := c.fpc, faddr := p.faddr })
def dropCmd (s : State) (cid : Nat) : State := { s with cmds := s.cmds.filter (fun (x : Cmd) => x.id != cid) }
/-- The tags of a readout are set after its writes (R237). -/
def readoutTags (s : State) (c : Cmd) : State :=
  let blocks := (((c.touched.map (·.1)).filter (fun k => isScratch (k * 128))).map (· / 8)).eraseDups
  blocks.foldl (fun (s : State) b => s.modMem (fun x => x.setTag (1024 * b) (BitVec.ofNat 16 (bits (qd c.q 2) 47 32)))) s
/-- The status lands, or waits for its due beat in a stream (R225, R229). -/
def landStatus (s : State) (c : Cmd) : State :=
  let w := statusWord c
  let fl : Flags := if c.form = 8 then 0 else BitVec.ofNat 5 w.toNat
  let s := (s.dropCmd c.id).finishOp c.uid c.id (w.setWidth 128) fl (cmdFault c)
  if c.strm.isSome then s
  else s.modThread c.uid (fun t => match t.ops.find? (fun o => o.id == c.id) with | some o => landOp t o | none => t)

/-- A command leaves its core: a release waits for the earlier accesses of its thread and for the completions that it reads, a marker for its earlier acquires
(R227, R240, R265 to R267). -/
def cmdWaits (s : State) (c : Cmd) : Bool :=
  match s.thread? c.uid with
  | some t => if c.form ≤ 7 then t.ops.any (fun o => decide (o.id < c.id) && (o.acc || o.acq)) || s.sawOpen t else t.ops.any (fun o => decide (o.id < c.id) && o.acq)
  | none => false
/-- An earlier part of the thread is still on its way to the engine (R265). -/
def partBehind (s : State) (c : Cmd) (i j : Nat) : Bool :=
  (s.partsAt c i j).any (fun x => x.1.uid == c.uid && decide (x.1.id < c.id) && x.2.arrived.isNone && !x.2.done)

end State

/-- MGRP (R222): with slots and row positions both outside their limits it raises PROTECTION, since R222 gives no order (DESIGN CHOICE, log 136). -/
def execMgrp (e a : Fin 16) (s : State) : Res :=
  if h : e.val < 4 then
    let c := s.rS a &&& capMask
    if s.nslot s.me.pl.o < capSlot c + capGc c then .next (s.raise 5 0 0)
    else if 16 < capX c + capGr c then .next (s.raise 2 3 s.iss.b)
    else .next (s.modMe (fun t => { t with eg := t.eg.set e.val c }))
  else .next (s.raise 2 2 s.iss.b)
/-- MCLR (R225, R230). -/
def execMclr (d a b : Fin 16) (s : State) : Res := s.matForm 1 d b a
/-- MMA_G8 (R225, R231). -/
def execMmaG8 (d a b : Fin 16) (s : State) : Res := s.matForm 2 d b a
/-- MMA_I8 (R225, R231). -/
def execMmaI8 (d a b : Fin 16) (s : State) : Res := s.matForm 3 d b a
/-- MMA_BF16 (R225, R231). -/
def execMmaBf16 (d a b : Fin 16) (s : State) : Res := s.matForm 4 d b a
/-- MMA_G8BF (R225, R231). -/
def execMmaG8bf (d a b : Fin 16) (s : State) : Res := s.matForm 5 d b a
/-- MRD (R225, R235). -/
def execMrd (d a b : Fin 16) (s : State) : Res := s.matForm 6 d b a
/-- MRDQ (R225, R235, R238). -/
def execMrdq (d a b : Fin 16) (s : State) : Res := s.matForm 7 d b a
/-- MSTAT (R239, R263): long, an acquire. -/
def execMstat (d b : Fin 16) (s : State) : Res :=
  s.withEg b (fun cap =>
    if s.me.full then .next (s.rewind .limit)
    else .next (s.markForm 8 cap { s.newOp with dest := some (.s d), counts := true, acc := false, acq := true, cmd := true }))
/-- MFENCE (R240): the thread parks until every engine has finished what reached it before the marker. -/
def execMfence (b : Fin 16) (s : State) : Res :=
  s.withEg b (fun cap => .next ((s.markForm 9 cap { s.newOp with acc := false, cmd := true }).parkAfter (.mfence s.newId)))
/-- ENGINE_COMMAND_ARRIVE (R220, R226, R227, R242): the capability is checked, the part queues; a foreign tag raises event 0x05 and the part waits. A part whose
capability is rejected adds 0 to the status (DESIGN CHOICE, log 133). -/
def execEngineCommandArrive (cid i j : Nat) (s : State) : Res :=
  match s.cmd? cid with
  | none => .next s
  | some c =>
    match State.part? c i j with
    | none => .next s
    | some p =>
      let after := !p.cap && (s.partsAt c i j).any (fun x => x.2.cap && x.1.pl == c.pl && x.2.arrived.isNone && !x.2.done)
      let here : Part := { p with arrived := some s.newId, cap := false }
      if p.arrived.isSome || p.done || s.cmdWaits c || s.partBehind c i j || after || s.netHeld then .next s
      else if !s.caps.any (fun e => e.o == c.pl.o && e.l == State.engSlot c j && e.x == State.engX c i && capMatches e.val c.cap) then
        .next (s.failPart c here (0x0A, 0, c.desc.toNat) 0).bump
      else if s.otherTag c p then .next (s.meetTag c here).bump
      else .next ((s.setEngine { s.engineOf c i j with tag := some c.pl.o }).setCmd (State.Cmd.setPart c here)).bump
/-- ENGINE_COMMAND_START (R228, R332): a part that meets another owner's tiles waits; a part that a stream has timed starts with its stream beat. -/
def execEngineCommandStart (cid i j : Nat) (s : State) : Res :=
  match s.cmd? cid with
  | none => .next s
  | some c =>
    match State.part? c i j with
    | some p =>
      if p.arrived.isSome && !p.done && !p.foreign && s.engineRuns c p.j && s.otherTag c p then .next (s.meetTag c p)
      else if c.strm.isSome && c.startAt.isSome then .next s
      else .next (s.startPart c p)
    | none => .next s
/-- A fetch unit reads some of the elements of one row of a command that has arrived, which a free choice says, by whole 16-byte units (R227, R233, R259). -/
def execEngineFetch (cid : Nat) (s : State) : Res :=
  match s.cmd? cid with
  | none => .next s
  | some c =>
    let rows := (c.parts.filter (fun p => p.arrived.isSome && !p.started && !p.done && s.engineRuns c p.j)).flatMap (State.partRows c)
    match rows[s.free.toNat % max 1 rows.length]? with
    | some k => let x := s.drawn.free; .next (State.setCmd s.drawn.drawn (s.fetchRow c k (fun e => x.getLsbD (e % 512))))
    | none => .next s
/-- A readout goes on by a step (R319); in a pause a step in progress runs to its end; another owner's tiles stop it (R242). -/
def execEngineStep (cid i j : Nat) (s : State) : Res :=
  match s.cmd? cid with
  | none => .next s
  | some c =>
    match State.part? c i j with
    | some p =>
      let runs := match s.rot.pause with
        | none => s.resident c.pl.o (State.engSlot c j)
        | some x => x.phase == .stop && !p.stopped
      if !(c.form == 6 || c.form == 7) || !p.started || p.done || p.foreign || s.lineHalts c || !runs || s.trust.tripped then .next s
      else if s.otherTag c p then .next (s.meetTag c p)
      else .next (s.stepPart c p)
    | none => .next s
/-- Some writes of a readout are performed, in an order that a free choice says (R269). -/
def execEngineWrite (cid : Nat) (s : State) : Res :=
  match s.cmd? cid with
  | none => .next s
  | some c =>
    if s.netHeld || s.writesAhead c then .next s
    else
      let x := s.free
      let y := s.drawn.free
      let r := State.readoutWrites s.drawn.drawn c (fun k => x.getLsbD (k % 512) && y.getLsbD (k / 512 % 512))
      .next (r.1.setCmd r.2)
/-- ENGINE_COMMAND_COMPLETE (R225, R237, R238): the last engine is done, and the last writes are performed; the tags are set, the push of mrdq is accepted, the
status lands. -/
def execEngineCommandComplete (cid : Nat) (s : State) : Res :=
  match s.cmd? cid with
  | none => .next s
  | some c =>
    if !c.parts.all (·.done) || c.form == 9 || s.rot.pause.isSome || (s.owner c.pl.o).frozen || s.writesAhead c || c.wq.any (fun w => s.writeHeld c w || s.writeBehind c w) then .next s
    else match c.pushed with
      | some r => if s.net.any (fun x => x.id == r) then .next s else .next (s.landStatus c)
      | none =>
        let r := s.readoutWrites c (fun _ => true)
        let s := r.1
        let c := r.2
        let s := if c.form = 6 || c.form = 7 then s.readoutTags c else s
        if c.form = 7 then
          let qn := bits (qd c.q 4) 23 0
          .next ((s.setCmd { c with pushed := some s.newId }).unitPush ⟨c.pl.o, bits qn 23 16, bits qn 14 8⟩ (bits qn 2 0)
            (BitVec.ofNat 128 (qd c.q 5 + (State.statusWord c).toNat * 2 ^ 64)))
        else .next (s.landStatus c)
/-- MFENCE_COMPLETE (R240): every engine has finished; a rejected capability is raised as the thread wakes. -/
def execMfenceComplete (uid : Nat) (s : State) : Res :=
  match s.cmds.find? (fun c => c.uid == uid && c.form == 9) with
  | some c => if c.parts.all (·.done) then .next ((s.dropCmd c.id).finishOp uid c.id 0 0 (State.cmdFault c)) else .next s
  | none => .next s

end Sys2Proof.Machine
end

