-- ==== Sys2Proof/Machine/Owners.lean ====
section
/-! DEFINITION. Owners: owner descriptors and their checks, capabilities, range registers, freezes, the way partition (R298 to R313, R381, R440). -/

namespace Sys2Proof.Machine

namespace State

/-- The owner that OWNSEL names (R299). -/
def ownsel (s : State) : Nat := bits s.regs.ownsel.toNat 3 0

/-! ### OWNCFG (R299 to R301) -/

/-- Runs of extents up to the first count 0 (R300). -/
def readRuns (s : State) (a : Nat) : Nat → List (Nat × Nat)
  | 0 => []
  | n + 1 =>
    let w := s.platNat a 8
    if bits w 49 32 = 0 then [] else (bits w 17 0, bits w 49 32) :: readRuns s (a + 8) n
/-- The descriptor of an owner, as the device copies it (R300). -/
def readDescr (s : State) (o : Nat) : Descr :=
  let b := s.regs.owntb.toNat + 4096 * o
  { mica := (List.range (min 64 (s.platNat (b + 64) 2))).map (fun i => s.platNat (b + i) 1)
    dram := (List.range (min 1024 (s.platNat (b + 66) 2))).map (fun i => s.platNat (b + 2048 + 2 * i) 2)
    ibudget := s.platNat (b + 72) 8, debug := bit (s.platNat (b + 80) 1) 0, runs := s.readRuns (b + 128) 16, raw := s.platRead b 4096 }
def hasDup : List Nat → Bool
  | [] => false
  | x :: xs => xs.contains x || hasDup xs
def extents (d : Descr) : List Nat := d.runs.flatMap (fun r => (List.range r.2).map (fun i => r.1 + i))
/-- Runs share an extent. -/
def runsMeet (a b : Descr) : Bool := a.runs.any (fun x => b.runs.any (fun y => decide (x.1 < y.1 + y.2) && decide (y.1 < x.1 + x.2)))
def listsMeet (a b : List Nat) : Bool := a.any (fun x => b.contains x)
def dkey (cfg : Nat) : Nat := bits cfg 39 35
def fkey (cfg : Nat) : Nat := bits cfg 34 30
def others (o : Nat) : List Nat := (List.range 16).filter (· != o)
/-- The key slots of an owner: those that OWNCFG names, and in scrub those of the tenancy that is torn down (R311, R440). -/
def keysNamed (s : State) (o : Nat) : List Nat :=
  match (if (s.owner o).inScrub then s.trust.pendings.find? (fun p => p.o == o) else none) with
  | some p => p.keys
  | none => [dkey (s.owner o).cfg.toNat, fkey (s.owner o).cfg.toNat]
/-- The refusal code of a write of EN = 1, and 0 where it is accepted (R301). -/
def enableCode (s : State) (o cfg : Nat) : Nat :=
  let b := s.regs.owntb.toNat + 4096 * o
  let d := s.readDescr o
  let nslice := s.platNat (b + 64) 2
  let nstack := s.platNat (b + 66) 2
  let stg := (s.owner o).stgcfg.toNat
  let limits :=
    decide (64 < bits cfg 62 56) || nslice == 0 || decide (64 < nslice) || nstack == 0 || decide (1024 < nstack) ||
    d.mica.any (fun x => decide (63 < x)) || d.dram.any (fun x => decide (1023 < x)) || d.runs.any (fun r => decide (262144 < r.1 + r.2)) ||
    (bits stg 15 0 != 0 && decide (2 ^ 27 * nstack < bits stg 47 24 * 2 ^ 24 + bits stg 15 0 * 2 ^ 18))
  let ks := [dkey cfg, fkey cfg]
  let meets (y : Nat) : Bool :=
    let e := (s.owner y).desc
    listsMeet d.mica e.mica || listsMeet d.dram e.dram || runsMeet d e
  if limits then 1
  else if d.mica.any (fun x => !bit s.regs.slicemap.toNat x) || hasDup d.mica then 2
  else if (s.owner o).inScrub || (others o).any (fun y => (s.owner y).inScrub && (meets y || listsMeet ks (s.keysNamed y))) then 6
  else if hasDup d.dram || (others o).any (fun y => s.enabled y && meets y) then 3
  else if ks.any (fun k => !(s.trust.keys.map (·.1)).contains k) || (others o).any (fun y => s.enabled y && listsMeet ks (s.keysNamed y)) then 4
  else if 4 * s.nlive < (List.range 16).foldl (fun a y => a + (if y = o then bits cfg 62 56 else if s.enabled y then s.nslot y else 0)) 0 then 5
  else 0
/-- Every extent of the runs becomes incomplete (R381). -/
def incomplete (s : State) (d : Descr) : State :=
  (extents d).foldl (fun (s : State) e => s.setExtent { s.extent e with complete := false, progd := [] }) s
/-- The owner is enabled: its descriptor is kept, and what counts from its enabling starts again (R284, R301, R381, R387, R392, R409, R434). -/
def enableOwner (s : State) (o : Nat) (cfg : Word) : State :=
  let d := s.readDescr o
  (s.modOwner o (fun x =>
    { x with cfg := cfg, err := 0, desc := d, nextTid := 1, nextInst := 1, ibused := 0, num := 0, meter := Vector.replicate 14 0
             local_ := false, held := false, stepped := false, tokens := [], frozen := false, freezing := none, causes := [], releasing := false, pullFailed := false
             launched := false })).incomplete d
/-- OWNCFG is written for the OWNSEL owner: a write of EN = 1 is checked, and while EN = 1 only DISPW, HOSTW and RETWAYS take a write (R301). -/
def writeOwncfg (s : State) (v : Word) : State :=
  let o := s.ownsel
  let m : Word := 0xFFFFFFFFFC000000
  if s.enabled o then
    let f : Word := 0x00FFFF003C000000
    s.modOwner o (fun x => { x with cfg := (x.cfg &&& ~~~f) ||| (v &&& f) })
  else if bit v.toNat 63 then
    let c := s.enableCode o v.toNat
    if c = 0 then s.enableOwner o (v &&& m) else s.modOwner o (fun x => { x with cfg := v &&& m &&& 0x7FFFFFFFFFFFFFFF, err := c })
  else s.modOwner o (fun x => { x with cfg := v &&& m })
/-- OWNSTAT (R299). -/
def readOwnstat (s : State) : Word :=
  let x := s.owner s.ownsel
  BitVec.ofNat 64 ((if x.frozen then 2 ^ 63 else 0) + x.fn % 1024 * 2 ^ 48 + x.vcause % 256 * 2 ^ 40 + x.err % 256)

/-! ### Capabilities (R302, R303) and ranges (R306) -/

/-- CAPENT is written: the selected entry is replaced, but for V = 1 with CHECK = 0 and an LSLOT of NSLOT or more. -/
def writeCapent (s : State) (v : Word) : State :=
  let sel := s.regs.capsel.toNat
  let o := s.ownsel
  let l := bits sel 15 8
  let v := v &&& 0xFFFF8000FF0F0F07
  if (bit v.toNat 47 && bits v.toNat 63 48 == 0) || decide (s.nslot o ≤ l) then s
  else
    let e : Cap := { o := o, l := l, x := bits sel 7 4, k := bits sel 2 0, val := v }
    { s with caps := s.caps.filter (fun (c : Cap) => !(c.o == e.o && c.l == e.l && c.x == e.x && c.k == e.k)) ++ [e] }
def readCapent (s : State) : Word :=
  let sel := s.regs.capsel.toNat
  ((s.caps.find? (fun c => c.o == s.ownsel && c.l == bits sel 15 8 && c.x == bits sel 7 4 && c.k == bits sel 2 0)).map (·.val)).getD 0
/-- A range register is written: its counters are zeroed in every slice (R306). -/
def writeRrange (s : State) (k : Nat) (v : Word) : State :=
  let o := s.ownsel
  let s := s.modOwner o (fun x => { x with rrange := x.rrange.set (Fin.ofNat 8 k) (v &&& 0x80FFFFFFFFFFFFF0) })
  { s with slices := s.slices.map (fun (x : Slice) => { x with ctr := x.ctr.filter (fun c => c.1 != o * 8 + k % 8) }) }

/-! ### The way partition (R308, R309) -/


/-- WAYPART of the selected slice. -/
def readWaypart (s : State) : Word :=
  let x := s.slice (bits s.regs.slsel.toNat 5 0)
  BitVec.ofNat 64 ((if x.target.isSome then 16 else 0) + x.ways)
/-- The threads that wait on a slice are woken. -/
def wakeWaypart (s : State) (n : Nat) : State :=
  { s with threads := s.threads.map (fun (t : Thread) => if t.park == .waypart n then { t with woken := true } else t) }
/-- The end of a change: the ways that it takes are walked, and their lines are written back and leave; surrendered ways lose their contents and return
empty, added offsets read as zero with tag 0 and no poison (R309). -/
def endWaypart (s : State) (n : Nat) : State :=
  let x := s.slice n
  match x.target with
  | none => s
  | some (a, b) =>
    let lo := min a b
    let walked := x.lines.filter (fun c => decide (16 - b ≤ c.way))
    let s := walked.foldl (fun (s : State) c => s.evictLine c) s
    let s := s.modMem (fun m => m.clear (sliceKey n (lo * 2 ^ 20)) ((max a b - lo) * 2 ^ 20))
    (s.setSlice { s.slice n with ways := b, size := b, target := none }).wakeWaypart n

/-! ### Freezes (R312, R313) -/

/-- Threads that wait for a freeze are woken (R352). -/
def wakeFrz (s : State) (o : Nat) : State :=
  { s with threads := s.threads.map (fun (t : Thread) => if t.park == .frz o then { t with woken := true } else t) }

end State

/-- OWNER_ENABLE (R301): a write of EN = 1 to OWNCFG of the OWNSEL owner. -/
def execOwnerEnable (v : BitVec 64) (s : State) : Res := if bit v.toNat 63 then .next (s.writeOwncfg v) else .next s
/-- CAPENT_WRITE (R303). -/
def execCapentWrite (v : BitVec 64) (s : State) : Res := .next (s.writeCapent v)
/-- RRANGE_WRITE (R306). -/
def execRrangeWrite (k : Nat) (v : BitVec 64) (s : State) : Res := .next (s.writeRrange k v)
/-- WAYPART (R309): the change begins at once; a second change to the slice waits for the first. -/
def execWaypart (a b : Fin 16) (s : State) : Res :=
  let n := bits (s.rS a).toNat 5 0
  let w := bits (s.rS b).toNat 3 0
  let x := s.slice n
  if 12 < w then .next (s.raise 2 3 s.iss.b)
  else if !bit s.regs.slicemap.toNat n then .next s
  else if x.target.isSome then .next (s.rewind (.waypart n))
  else .next ((s.setSlice { x with target := some (x.ways, w), size := min x.ways w }).parkAfter (.waypart n))
/-- WAYPART_COMPLETE (R309): the accesses accepted before Qa, those of copy units among them, are performed, and the change ends. -/
def execWaypartComplete (n : Nat) (s : State) : Res :=
  let here (l : Loc) : Bool := match l with | .slice k _ => k == n | _ => false
  if s.net.any (fun r => here r.loc) || s.cores.any (fun c => c.mbox.any (fun m => m.wq.any (fun w => here w.loc))) then .next s else .next (s.endWaypart n)

end Sys2Proof.Machine
end

