-- ==== Sys2Proof/Machine/Streams.lean ====
section
/-! DEFINITION. Streams: the start of a row stream or sheet, its fetch units, its links, its beats with the freeze line, and its end
(R206 to R217, R229, R246, R254). -/

namespace Sys2Proof.Machine

/-- A guard holds over a predicate word (R70). -/
def guardOn (pw : BitVec 8) (g : BitVec 4) : Bool := predBit pw (g.toNat % 8) == decide (g.toNat < 8)

/-- The access of a form to memory that the channel condition bears on: base register, offset, bytes (R165, R214). -/
def instrAccess : Instr → Option (Fin 16 × Word × Nat)
  | .ldB _ a i => some (a, sx i, 1)
  | .ldH _ a i => some (a, sx i, 2)
  | .ldW _ a i => some (a, sx i, 4)
  | .ldD _ a i => some (a, sx i, 8)
  | .ldnB _ a i => some (a, sx i, 1)
  | .ldnH _ a i => some (a, sx i, 2)
  | .ldnW _ a i => some (a, sx i, 4)
  | .vld _ a i => some (a, sx i, 16)
  | .stB _ a i => some (a, sx i, 1)
  | .stH _ a i => some (a, sx i, 2)
  | .stW _ a i => some (a, sx i, 4)
  | .stD _ a i => some (a, sx i, 8)
  | .vst _ a i => some (a, sx i, 16)
  | .vldBc _ a t => some (a, 0, 2 ^ t.code)
  | .vldk _ a _ => some (a, 0, 16)
  | .ldt _ a _ => some (a, 0, 8)
  | .vldt _ a _ => some (a, 0, 16)
  | .mclr _ a _ => some (a, 0, 64)
  | .mmaG8 _ a _ => some (a, 0, 64)
  | .mmaI8 _ a _ => some (a, 0, 64)
  | .mmaBf16 _ a _ => some (a, 0, 64)
  | .mmaG8bf _ a _ => some (a, 0, 64)
  | .mrd _ a _ => some (a, 0, 64)
  | .mrdq _ a _ => some (a, 0, 64)
  | .cp1d a => some (a, 0, 64)
  | .cp2d a => some (a, 0, 64)
  | .cp3d a => some (a, 0, 64)
  | .cpGather a => some (a, 0, 64)
  | .cpScatter a => some (a, 0, 64)
  | .cpFill a => some (a, 0, 64)
  | .chset a _ => some (a, 0, 8)
  | _ => none
/-- A copy form, which full mailboxes hold (R246), as the numbers of R247. -/
def copyInstr : Instr → Option Nat
  | .cp1d _ => some 0
  | .cp2d _ => some 1
  | .cp3d _ => some 2
  | .cpGather _ => some 3
  | .cpScatter _ => some 4
  | .cpFill _ => some 5
  | _ => none

/-- A load or store that a translated address serves: any but the forms that name a scratchpad byte (R169, R223, R244, R253). -/
def mappedAccess : Instr → Bool
  | .vldk _ _ _ => false
  | .mclr _ _ _ => false
  | .mmaG8 _ _ _ => false
  | .mmaI8 _ _ _ => false
  | .mmaBf16 _ _ _ => false
  | .mmaG8bf _ _ _ => false
  | .mrd _ _ _ => false
  | .mrdq _ _ _ => false
  | .chset _ _ => false
  | i => (copyInstr i).isNone

namespace State

def streamThreads (s : State) (sid : Nat) : List Thread := s.threads.filter (fun t => t.strm == some sid)
/-- Stream beats may begin: a boundary, the owner resident, no pause (R208, R214). -/
def streamLive (s : State) (st : Stream) : Bool := s.q % 8 == 0 && s.resident st.o st.l && s.rot.pause.isNone && !s.trust.tripped
/-- Every core of the reach holds its stream row from an earlier beat on, and no task thread keeps slot 0 (R59, R207). -/
def streamReady (s : State) (st : Stream) : Bool :=
  st.placed && !st.started && st.fail.isNone &&
  (reach st).all (fun p => s.threads.any (fun t => t.strm == some st.id && t.pl == p && t.evicted.isNone && decide (t.readyAt ≤ s.beat)) && !s.threads.any (fun t => t.pl == p && t.slot == some 0 && t.strm.isNone))
/-- The origin core (R206). -/
def origin (st : Stream) : Place := ⟨st.o, st.l, match st.layer with | some y => 16 * y | none => 0⟩

/-! ### Links (R209) -/

/-- A core's registers as its stream bundle reads them: the links hold the neighbours' values from before this stream beat. -/
def linked (s : State) (st : Stream) (t : Thread) : Thread :=
  let at_ (c : Nat) : Links := ((s.threads.find? (fun x => x.strm == some st.id && x.pl.c == c)).map (·.linksPrev)).getD {}
  let w : Links := if t.pl.c % 16 = 0 then {} else at_ (t.pl.c - 1)
  let d : Links := if st.layer.isSome || decide (t.pl.c < 16) then {} else at_ (t.pl.c - 16)
  { t with s := (t.s.set 15 w.e).set 14 d.u, v := (t.v.set 15 w.ev).set 14 d.uv }

/-! ### Fetch units (R208, R210, R211) -/

/-- The control form of a bundle, if it has one. -/
def control (x : SBundle) : Option Instr := (decoded x.w).head?.map (·.i)
/-- The fetch unit moves on from the last bundle that it has injected. -/
def advance (st : Stream) : Stream :=
  match st.inj.getLast? with
  | none => st
  | some x =>
    let after := x.b + BitVec.ofNat 48 (4 * x.w.length)
    match control x with
    | some (.br o) => { st with fpc := target x.b o }
    | some (.sloop _ _) =>
      (match st.loops with
       | l :: ls => if l.left = 0 then { st with loops := ls, fpc := l.past } else { st with fpc := after }
       | [] => { st with fpc := after })
    | some .send =>
      (match st.loops with
       | l :: ls => if 1 < l.left then { st with loops := { l with left := l.left - 1 } :: ls, fpc := l.start } else { st with loops := ls, fpc := after }
       | [] => { st with fpc := after })
    | some .exit => { st with closed := true }
    | _ => { st with fpc := after }
/-- A fetch that walks at once on a miss (log 13). -/
def fetchNow (s : State) (p : Place) (b : Addr) : State × FetchRes :=
  match s.fetchBundle p b with
  | .miss va =>
    (match s.walkFill p va with
     | (.error 0, s) => (s, .held)
     | (.error sub, s) => (s, .flt 4 sub)
     | (.ok _, s) => (s, s.fetchBundle p b))
  | r => (s, r)
/-- The word at the offset of a sloop is a send: the address after the bundle that holds it, or none where it is no send; no answer yet while its page is
still held back (R419). A word that cannot be fetched counts as no send, so that the loop raises subcode 6 (R211; DESIGN CHOICE, log 137). -/
def pastSend (s : State) (p : Place) (a : Addr) : Option (Option Addr) :=
  let r := s.fetchNow p a
  match r.2 with
  | .held => none
  | _ =>
    match r.1.fetchWord p a with
    | .word w =>
      some (match decodeWord w with
        | .ok d => if d.i = .send then some (a + (if d.p then 8 else 4)) else none
        | .error _ => none)
    | _ => some none
/-- What the fetch unit finds in a bundle that it injects: the loop that it opens, and a fault of its own (R210, R211); none while it waits for a page. -/
def unitChecks (s : State) (st : Stream) (x : Bundle) : Option (Stream × Option (Nat × Nat × Addr)) :=
  let bad : Stream × Option (Nat × Nat × Addr) := (st, some (1, 6, x.b))
  match control { b := x.b, w := x.ws } with
  | some (.br o) =>
    some (match st.loops with
      | l :: _ => let t := target x.b o; if l.start ≤ t && t ≤ l.sendb then (st, none) else bad
      | [] => (st, none))
  | some (.sloop _ o) =>
    if o = 0 then some (st, none)
    else if st.loops.length = 4 then some bad
    else
      let sb := x.b + 4 * o.setWidth 48
      (s.pastSend (origin st) sb).map (fun r => match r with
        | some past => ({ st with loops := { start := x.b + BitVec.ofNat 48 x.z, sendb := sb, past := past, left := 0 } :: st.loops }, none)
        | none => bad)
  | some .send =>
    some (match st.loops with
      | l :: _ => if l.sendb = x.b then (st, none) else bad
      | [] => bad)
  | _ => some (st, none)
/-- The next bundle of a stream is injected, or the fetch unit does not hold it yet (R214, condition 3). A fetch or pairing fault of the bundle is the fetch unit's, and
the origin core alone raises it: R211 does not list it (DESIGN CHOICE, log 138). -/
def inject (s : State) (st : Stream) : Option (State × Stream) :=
  let st := advance st
  if st.closed then some (s, st)
  else
    let r := s.fetchNow (origin st) st.fpc
    let r := (r.1.fetchTouch (origin st) st.fpc, r.2)
    let add (st : Stream) (ws : List (BitVec 32)) (f : Option (Nat × Nat × Addr)) : Option (State × Stream) :=
      some (r.1, { st with inj := st.inj ++ [{ b := st.fpc, w := ws, flt := f }] })
    match r.2 with
    | .ok x => (r.1.unitChecks st x).bind (fun u => add u.1 x.ws u.2)
    | .flt c n => add st [] (some (c, n, st.fpc))
    | .pairing a => add st [] (some (1, 3, a))
    | .miss _ => none
    | .held => none

/-! ### Timed results (R209, R213, R216) -/

def dueOps (t : Thread) (b : Nat) : List Op := t.ops.filter (fun o => o.due == some b)
/-- The results due at a stream beat land; those of a core that has exited are discarded (R212). -/
def landDue (st : Stream) (b : Nat) (t : Thread) : Thread :=
  (dueOps t b).foldl (fun (t : Thread) o => landOp t { o with res := if o.fault.isSome then some 0 else o.res, fault := none, disc := o.disc || st.exited.contains t.pl.c }) t
/-- Their faults are raised, by the stream index of the issuing bundle (R216). -/
def dueFaults (ts : List Thread) (b : Nat) (st : Stream) : Stream :=
  ts.foldl (fun (st : Stream) t => (dueOps t b).foldl (fun (st : Stream) o =>
    match o.fault with | some f => st.noteFault t.pl.c o.sidx t.pl.l f | none => st) st) st

/-! ### The freeze line (R214) -/

/-- The bundle that a core performs at a stream beat (R208). -/
def bundleAt (st : Stream) (c b : Nat) : Option SBundle :=
  if b < streamOff st c || st.exited.contains c then none else st.inj[b - streamOff st c]?
/-- A copy form whose descriptor stands at an offset of the own scratchpad reaches cause 6 of R244 with every mailbox full. -/
def copyHolds (s : State) (k : Nat) (off : Nat) : Bool :=
  let q := quadsOf 8 (s.mem.read (scrKey s.me.pl off) 64)
  (s.copyBad k q).isNone && !(cPush q && decide (s.nslot s.me.pl.o ≤ bits (cQname q) 23 16)) && (freeBox (s.core s.me.pl)).isNone
/-- A bundle that raises a fault of its words, or one that its fetch unit has found, meets no condition of R214 (R82). -/
def bundleFaults (s : State) (st : Stream) (x : SBundle) : Bool :=
  (firstWord wordSub 0 x.w).isSome || (s.formFault x.b (decoded x.w)).isSome || (x.flt.isSome && streamOff st s.me.pl.c == 0)
/-- An aligned access of the thread in me meets a channel condition, a copy form meets full mailboxes once no earlier cause of R244 holds, or a load or store
has a walk that waits for a page to be pulled (R174, R214, R246, R419). -/
def accessHolds (s : State) (st : Stream) (i : Instr) : Bool :=
  match instrAccess i with
  | none => false
  | some (a, o, n) =>
    let ea := ea0 ((s.linked st s.me).s[a] + o)
    ea.toNat % n == 0 &&
    (match s.region s.me.pl ea with
     | .scr p off =>
       p == s.me.pl && (s.chanCheck p off n == .park || (s.chanCheck p off n == .pass && (match copyInstr i with | some k => s.copyHolds k off | none => false)))
     | .translated va =>
       let va := s.viaPair s.me.pl.o va
       mappedAccess i && (s.tlbHit s.me.pl va).isNone &&
         (match s.walk s.me.pl.o s.me.pl.l va with | .error 0 => true | _ => false)
     | _ => false)
/-- The bundle of a core meets a condition of R214 that its form names (conditions 2 and 4), or a copy of it still waits for a mailbox (R246). -/
def coreHolds (s : State) (st : Stream) (b : Nat) (t : Thread) : Bool :=
  (s.core t.pl).mbox.any (fun m => m.mb == 4) ||
  match bundleAt st t.pl.c b with
  | none => false
  | some x =>
    match (decoded x.w).head? with
    | none => false
    | some d => let s := { s with me := t }; guardOn t.pw d.g && !s.bundleFaults st x && s.accessHolds st d.i
/-- The parts of commands that start at a stream beat. -/
def startingParts (s : State) (sid b : Nat) : List (Nat × Nat × Nat) :=
  s.cmds.flatMap (fun c => if c.strm == some sid && c.startAt == some (BitVec.ofNat 64 b) then
    (c.parts.filter (fun p => !p.started && !p.done)).map (fun p => (c.id, p.i, p.j)) else [])
def partAt (s : State) (k : Nat × Nat × Nat) : Option (Cmd × Part) :=
  (s.cmd? k.1).bind (fun c => (part? c k.2.1 k.2.2).map (fun p => (c, p)))
/-- What a stream beat does before its bundles are injected: due results land, the links of the beat before are kept, and due faults are noted. -/
def beatOpens (s : State) (st : Stream) (b : Nat) : State × Stream :=
  ({ s with threads := s.threads.map (fun (t : Thread) => if t.strm == some st.id then landDue st b { t with linksPrev := t.links } else t) },
   dueFaults (s.streamThreads st.id) b { st with beat := some b, began := s.beat, frozen := false })
/-- The stream beat begins, with everything it does at its boundary; none while a condition of R214 fails, a row of the stream is still evicted or came back at this
boundary (R59, R330), or a core of it has failed or still owes its bundle of the present stream beat (R400): the line holds then too (DEDUCED, log 114). -/
def beginBeat (s : State) (st : Stream) : Option State :=
  let b := match st.beat with | some x => x + 1 | none => 0
  let ts := s.streamThreads st.id
  if ts.any (fun t => (dueOps t b).any (·.res.isNone) || t.evicted.isSome || decide (s.beat < t.readyAt) || t.owed || s.coreDown t.pl) then none
  else
    let x := s.beatOpens st b
    match x.1.inject x.2 with
    | none => none
    | some (s2, st2) =>
      let ks := s2.startingParts st.id b
      if (s2.streamThreads st.id).any (s2.coreHolds st2 b) || ks.any (fun k => match s2.partAt k with | some x => !s2.partReady x.1 x.2 | none => false) then none
      else
        let s3 := s2.modStream st.id (fun _ => st2)
        some (ks.foldl (fun (s : State) k => match s.partAt k with | some x => s.startPart x.1 x.2 | none => s) s3)

/-! ### The end (R212, R216, R294) -/

/-- Every core has performed its exit bundle, every timed result has landed (R212). -/
def streamDone (s : State) (st : Stream) : Bool :=
  (reach st).all (fun p => st.exited.contains p.c) && (s.streamThreads st.id).all (fun t => !t.ops.any (·.due.isSome))
def storesDone (s : State) (st : Stream) : Bool :=
  !s.net.any (fun r => (match r.kind with | .store _ => true | _ => false) && (s.streamThreads st.id).any (fun t => t.uid == r.uid))
/-- The stream ends: its rows free, its commands that have not begun are given up, its task ends. -/
def endStream (s : State) (st : Stream) (fail : Option FailRep) : State :=
  let ts := s.streamThreads st.id
  let s := ts.foldl (fun (s : State) t => (s.dropWaits t.uid).dropThread t.uid) s
  let s := { s with cmds := s.cmds.map (fun (c : Cmd) => if c.strm == some st.id && c.startAt.isSome then
    { c with parts := c.parts.map (fun (p : Part) => if p.started then p else { p with started := true, done := true, code := 8, sub := 2 }) } else c) }
  let s := s.modGraph (fun g => { g with streams := g.streams.filter (fun x => x.id != st.id), placing := g.placing.filter (fun p => p.t.strm != some st.id) })
  let s := ts.foldl (fun (s : State) t => s.offerRow t.pl) (s.pumpStreams s.graph.placing.length)
  s.taskEnd st.o st.tid { launch := st.launch, node := st.node } fail

end State

/-- STREAM_START (R207): stream beat 0 is fixed at this boundary. -/
def execStreamStart (sid : Nat) (s : State) : Res :=
  match s.stream? sid with
  | some st =>
    if s.streamReady st && s.streamLive st then
      .next { s.modStream sid (fun x => { x with started := true, fpc := x.proto.pc }) with
              threads := s.threads.map (fun (t : Thread) => if t.strm == some sid then { t with slot := some 0 } else t) }
    else .next s
  | none => .next s
/-- STREAM_BEAT_BEGIN (R214): the next stream beat begins, or the freeze line holds for this beat. -/
def execStreamBeatBegin (sid : Nat) (s : State) : Res :=
  match s.stream? sid with
  | some st =>
    if st.started && st.fail.isNone && s.streamLive st then
      match s.beginBeat st with
      | some s' => .next s'
      | none => .next (s.modStream sid (fun x => { x with frozen := true }))
    else .next s
  | none => .next s
/-- STREAM_END (R212, R216): at the end of a stream beat, when no core owes its bundle of it (R400) and all is done, a fault was raised or frz has ended it (FCODE 0), and the
posted stores are performed. -/
def execStreamEnd (sid : Nat) (s : State) : Res :=
  match s.stream? sid with
  | some st =>
    let ended := match st.fail with | some f => f.2.fcode == 0 | none => false
    let here := st.started || (st.fail.isSome && (State.reach st).all (fun p => (s.streamThreads sid).any (fun t => t.pl == p)))
    if here && (s.streamLive st || ended) && (ended || !(s.streamThreads sid).any (·.owed)) && s.storesDone st && (st.fail.isSome || s.streamDone st) then .next (s.endStream st (st.fail.map (·.2))) else .next s
  | none => .next s

end Sys2Proof.Machine
end

