-- ==== Sys2Proof/Machine/Monitor.lean ====
section
/-! DEFINITION. Monitor: the monitor forms but scrub, page walks and invalidations, and the event arbiter
(R256, R314 to R317, R332, R341 to R344, R350 to R356, R431 to R433). -/

namespace Sys2Proof.Machine

namespace State

/-! ### Page walks and invalidation (R256, R334, R341 to R344) -/

/-- A walk holds one of the sixteen walkers of its slot (R342). -/
def walking (s : State) (w : Walk) : Bool :=
  decide ((s.walks.filter (fun x => x.o == w.o && x.l == w.l && decide (x.id < w.id))).length < 16)
def dropWalk (s : State) (id : Nat) : State := { s with walks := s.walks.filter (fun (w : Walk) => w.id != id) }
/-- The threads that wait on a walk are woken; a failed walk faults at their bundles (R342, R345). -/
def wakeWalk (s : State) (id : Nat) (fault : Option Nat) : State :=
  { s with threads := s.threads.map (fun (t : Thread) =>
      match t.park with
      | .walk k ea _ =>
        if k != id then t
        else (match fault with
          | none => { t with woken := true }
          | some sub => { t with woken := true }.takeFault { op := 0, code := 4, sub := sub, fpc := t.pc, faddr := ea })
      | _ => t) }
/-- The cores whose threads wait on a walk. -/
def walkCores (s : State) (id : Nat) : List Nat :=
  ((s.threads.filter (fun t => match t.park with | .walk k _ _ => k == id | _ => false)).map (·.pl.c)).eraseDups
/-- A walk ends: its entries are read at their homes, and a success fills the TLBs of the cores that wait and of the slot, and the walk caches (R337, R341, R342). -/
def walkEnd (s : State) (w : Walk) : Except Nat Tlb × State :=
  match s.walkCores w.id with
  | [] => s.walkFill ⟨w.o, w.l, 0⟩ w.va
  | c :: cs =>
    match s.walkFill ⟨w.o, w.l, c⟩ w.va with
    | (.ok t, s) => (.ok t, cs.foldl (fun (s : State) c => s.putTlb 64 { t with c := some c }) s)
    | r => r
/-- Buffer-pair entries as the table holds them now (R256); an entry that has not changed keeps its CUR. -/
def readPairs (s : State) (o : Nat) : List Pair :=
  (List.range 64).filterMap (fun k =>
    let b := s.regs.bptb.toNat + 2048 * o + 32 * k
    let q0 := s.platNat b 8
    if !bit q0 0 then none
    else
      let p : Pair := { k := k, vbase := bits q0 47 16 * 65536, size := s.platNat (b + 8) 8, back0 := s.platNat (b + 16) 8, back1 := s.platNat (b + 24) 8 }
      match (s.owner o).pairs.find? (fun x => x.k == k) with
      | some x => some (if { x with cur := false, qf := 0 } = p then x else p)
      | none => some p)
/-- The owners that an invalidation covers (R344). -/
def covered (kind own o : Nat) : Bool := kind == 4 || o == own
/-- Fetches see what has been written so far: in one page of an owner after kind 0, in every page of the covered owners after kinds 1, 3 and 4 (R340). -/
def sweepCode (s : State) (kind own page : Nat) : State :=
  match kind with
  | 0 => s.modMem (fun m => { m with swept := m.swept ++ [(own, page, s.newId)] })
  | 2 => s
  | _ => s.modMem (fun m => { m with swept := m.swept.filter (fun x => !covered kind own x.1), code := m.code.filter (fun c => !covered kind own c.1) })
/-- Steps 2 and 3 of an invalidation: the generations rise, the entries go; kinds 3 and 4 take the roots and the pairs (R334, R344). -/
def invalidate (s : State) (kind own page : Nat) : State :=
  let s := s.sweepCode kind own page
  let s := { s with wcache := s.wcache.filter (fun (w : WEnt) => !(covered kind own w.o &&
    (if kind = 0 then w.stage == 1 && w.tag == page / 2 ^ w.lo else kind != 2 || w.stage == 1 || w.tag == page / 2 ^ w.lo))) }
  let s := { s with tlb := s.tlb.filter (fun (t : Tlb) => !(covered kind own t.o && (kind != 0 || tlbNames t page))) }
  (List.range 16).foldl (fun (s : State) o =>
    if covered kind own o then
      let s := s.modOwner o (fun x => { x with gen := x.gen + 1 })
      if 3 ≤ kind then let ps := s.readPairs o; s.modOwner o (fun x => { x with s1act := x.s1rt, s2act := x.s2rt, pairs := ps }) else s
    else s) s
/-- The entries that an invalidation of kind 0 removes, as page and size, with the page that it names. -/
def removed (s : State) (own page : Nat) : List (Nat × Nat) :=
  (page, 16) :: ((s.tlb.filter (fun t => t.o == own && tlbNames t page)).map tlbPage).eraseDups
/-- Translated accesses of the covered owners from before the advance, for kind 0 those to a page whose entries went, are still on their way, the words of an
atomic region that is being issued among them, and so are writes of copy units (R344, step 4). -/
def draining (s : State) (kind own stamp : Nat) (invs : List (Nat × Nat)) : Bool :=
  let used (o : Nat) (ea : Addr) : Bool :=
    decide (ea.toNat < 2 ^ 47) && (kind != 0 || (let va := s.viaPair o ea.toNat; invs.any (fun x => decide (x.1 ≤ va) && decide (va < x.1 + 2 ^ x.2))))
  s.walks.any (fun w => covered kind own w.o && w.gen != (s.owner w.o).gen) ||
  s.allThreads.any (fun t => covered kind own t.pl.o && (match t.region with | some r => decide (r.grp < stamp) && r.words.any (fun w => used t.pl.o w.ea) | none => false)) ||
  s.allThreads.any (fun t => covered kind own t.pl.o && t.ops.any (fun o => o.acc && decide (o.id < stamp) && o.n != 0 && used t.pl.o o.ea)) ||
  s.cores.any (fun c => covered kind own c.pl.o && c.mbox.any (fun m => m.wq.any (fun w => match w.loc with | .dram _ _ _ => true | .flash _ _ => true | _ => false)))

/-! ### Key slots (R431 to R433) -/

def blockedKey (s : State) (k : Nat) : Bool :=
  (List.range 16).any (fun o => (s.enabled o || (s.owner o).inScrub) && (s.keysNamed o).contains k)
def putKey (s : State) (k : Nat) (x : BitVec 512) : State := s.modTrust (fun t => { t with keys := alSet k x t.keys })
def emptyKey (s : State) (k : Nat) : State := s.modTrust (fun t => { t with keys := t.keys.filter (fun x => x.1 != k) })

/-! ### rotctl and slotctl (R317, R332) -/

/-- rotctl by s[a][3:0]. -/
def rotctl (s : State) (a : Fin 16) : Res :=
  match bits (s.rS a).toNat 3 0 with
  | 0 => .next (s.modRegs (fun r => { r with rotiv := r.rotiv ||| 0x8000000000000000 }))
  | 1 => .next (s.modRegs (fun r => { r with rotiv := r.rotiv &&& 0x7FFFFFFFFFFFFFFF }))
  | 2 => .next (s.modRot (fun r => { r with extraRot := true }))
  | 3 => .next (s.modRot (fun r => { r with extraSw := true }))
  | _ => .next (s.raise 2 3 s.iss.b)
/-- A tenancy that a pending slotctl will place counts as placed. -/
def placedSoon (s : State) : List Tenancy :=
  s.rot.tens ++ s.rot.changes.filterMap (fun c => match c with | .place t => some t | .remove _ _ => none)
/-- The tiles of an engine go to the save area of their tag owner, and those of owner o come in (R332), both at owner 0's charge (R434). -/
def spillEngine (s : State) (idx x o : Nat) : State :=
  let e := s.engineAt idx x
  let keep := s.rot.spilled.filter (fun p => !(p.1 == o && p.2.1 == idx * 16 + x))
  let kept := match e.tag with
    | some t => if t = o then keep else keep.filter (fun p => !(p.1 == t && p.2.1 == idx * 16 + x)) ++ [(t, idx * 16 + x, e)]
    | none => keep
  let e' := match s.rot.spilled.find? (fun p => p.1 == o && p.2.1 == idx * 16 + x) with
    | some p => { p.2.2 with idx := idx, x := x, tag := some o }
    | none => if e.tag = some o then e else { idx := idx, x := x, tag := some o }
  let out := match e.tag with | some t => t != o | none => false
  let back := s.rot.spilled.any (fun p => p.1 == o && p.2.1 == idx * 16 + x)
  let s := match e.tag with | some t => if t = o then s else s.saveOut t 512 | none => s
  let s := (s.charge 0 5 (if out then 2 ^ 19 else 0)).charge 0 4 (if back then 2 ^ 19 else 0)
  let s := (s.setEngine e').modRot (fun r => { r with spilled := kept })
  { s with cmds := s.cmds.map (fun (c : Cmd) =>
      if c.pl.o != o then c
      else { c with parts := c.parts.map (fun (p : Part) =>
        if ((s.tenancyOf o (engSlot c p.j)).map (·.idx)) == some idx && engX c p.i == x then { p with foreign := false } else p) }) }
/-- slotctl by s[a][3:0]. -/
def slotctl (s : State) (a b : Fin 16) : Res :=
  let v := (s.rS b).toNat
  let idx := bits v 5 0
  match bits (s.rS a).toNat 3 0 with
  | 0 =>
    let o := bits v 9 6
    let l := bits v 15 10
    let k := bits v 17 16
    if s.nlive ≤ idx || (s.placedSoon).any (fun t => (t.idx == idx && t.k == k) || (t.o == o && t.l == l)) || !s.enabled o || decide (s.nslot o ≤ l) then
      .next (s.raise 2 3 s.iss.b)
    else .next (s.modRot (fun r => { r with changes := r.changes ++ [.place { idx := idx, k := k, o := o, l := l }] }))
  | 1 =>
    let k := bits v 17 16
    if s.rot.tens.any (fun t => t.idx == idx && t.k == k && s.enabled t.o) then .next (s.raise 2 3 s.iss.b)
    else .next (s.modRot (fun r => { r with changes := r.changes ++ [.remove idx k] }))
  | 2 => .next (s.spillEngine idx (bits v 9 6) (bits v 13 10))
  | _ => .next (s.raise 2 3 s.iss.b)

/-! ### frz (R352) -/

/-- The report of a thread that frz ends: FCODE 0, its PC. -/
def endedRep (t : Thread) : FaultRec := { op := 0, code := 0, sub := 0, fpc := t.pc, faddr := 0 }
/-- Every thread of a task ends as failed, wherever it is: in a row, in a packet, in a placement queue, or as a stream (OP 4), which ends once its posted stores are
performed (R294). -/
def endTask (s : State) (o : Nat) (tid : BitVec 32) : State :=
  let mine (t : Thread) : Bool := t.pl.o == o && t.tid == tid
  match s.graph.streams.find? (fun st => st.o == o && st.tid == tid) with
  | some st =>
    let pc := ((s.streamThreads st.id).head?.map (·.pc)).getD st.proto.pc
    let rep : FailRep := { lslot := st.l, lcore := (origin st).c, fpc := pc, tid := tid }
    if s.storesDone st then s.endStream st (some rep) else s.modStream st.id (fun x => { x with fail := some (0, rep) })
  | none =>
    let s := (s.allThreads.filter mine).foldl (fun (s : State) t => s.modThread t.uid (fun t => { t with park := .dead (endedRep t) })) s
    let s := s.bury s.threads.length
    let s := (s.graph.packets.filter (fun k => mine k.t)).foldl (fun (s : State) k =>
      ((s.dropPacket k.id).freeResvOf k.t.uid).taskEnd o tid k.t.task (some (threadFail k.t (endedRep k.t)))) s
    (s.graph.placing.filter (fun p => mine p.t)).foldl (fun (s : State) p =>
      let s := (s.unqueue p).taskEnd o tid p.t.task (some (threadFail p.t (endedRep p.t)))
      s.pumpStreams s.graph.placing.length) s
/-- A freeze of an owner's slots by software (R313, R352). -/
def freezeOwner (s : State) (o : Nat) : State := s.askFreeze o 0x80
/-- A release; it is ignored for an owner that is not frozen or is in scrub (R352, R442). -/
def releaseOwner (s : State) (o : Nat) : State :=
  if (s.owner o).frozen && !(s.owner o).inScrub then s.modOwner o (fun x => { x with releasing := true }) else s
/-- The function belongs to the owner. -/
def fnOf (s : State) (fn o : Nat) : Bool := match s.fn? fn with | some f => f.en && f.o == o | none => false
/-- frz by s[a][3:0]. -/
def frz (s : State) (a : Fin 16) : Res :=
  let v := (s.rS a).toNat
  let o := bits v 11 8
  let fn := bits v 25 16
  let op := bits v 3 0
  if 4 < op || (o == 0 && decide (op ≤ 1)) then .next (s.raise 2 3 s.iss.b)
  else match op with
    | 0 => if (s.owner o).frozen then .next (s.freezeOwner o) else .next ((s.freezeOwner o).parkAfter (.frz o))
    | 1 => .next (s.releaseOwner o)
    | 2 => .next (if s.fnOf fn o then s.freezeFn fn 0x80 else s)
    | 3 => .next (if s.fnOf fn o then s.modFn fn (fun f => { f with frozen := false }) else s)
    | _ => .next (s.endTask o (BitVec.ofNat 32 (bits v 63 32)))

/-! ### The event arbiter (R354 to R356, R367) -/

def ringRoom (s : State) : Bool :=
  let n := bits s.regs.evrn.toNat 15 0
  n != 0 && (s.regs.evtl.toNat + 1) % n != s.regs.evhd.toNat
/-- Accepted events that wait for the ring. -/
def heldEvs (s : State) : List Ev := s.trust.events.filter (·.seq.isSome)
def evQ1 (e : Ev) : Word := BitVec.ofNat 64 (e.ty % 256 + e.o % 16 * 2 ^ 8 + e.cause % 256 * 2 ^ 16 + e.fn % 1024 * 2 ^ 32)
/-- The record is written, the tail moves, the notice and the host's signal follow. -/
def writeEv (s : State) (e : Ev) : State :=
  let n := max 1 (bits s.regs.evrn.toNat 15 0)
  let sq := e.seq.getD 0
  let a := s.regs.evrb.toNat + 32 * s.regs.evtl.toNat
  let s := s.unitWrite (.dram 0 a .cacheable) (quadBytes [sq, evQ1 e, BitVec.ofNat 64 e.q, e.data])
  let s := s.modRegs (fun r => { r with evtl := BitVec.ofNat 64 ((r.evtl.toNat + 1) % n) })
  let nq := s.regs.evnq.toNat
  let s := if bit nq 63 then
    s.unitPush ⟨0, bits nq 23 16, bits nq 14 8⟩ (bits nq 2 0) (BitVec.ofNat 128 (sq.toNat + (evQ1 e).toNat * 2 ^ 64)) else s
  s.signal 0 0
/-- The arbiter takes event k: a raised one that is the first of its source is accepted, and written when the ring has room and none waits; an accepted
one that waits first in order is written when the ring has room. -/
def takeEv (s : State) (k : Nat) : State :=
  match s.trust.events[k]? with
  | none => s
  | some e =>
    let held := s.heldEvs
    let drop (s : State) : State := s.modTrust (fun t => { t with events := t.events.eraseIdx k })
    match e.seq with
    | some sq => if s.ringRoom && held.all (fun x => decide (sq.toNat ≤ (x.seq.getD 0).toNat)) then (drop s).writeEv e else s
    | none =>
      if (s.trust.events.take k).any (fun x => x.seq.isNone && x.src == e.src) || decide ((if e.ty = 4 then 65 else 64) ≤ held.length) then s
      else
        let e := { e with seq := some s.trust.evseq, q := s.q }
        let s := s.modTrust (fun t => { t with evseq := t.evseq + 1 })
        if s.ringRoom && held.isEmpty then (drop s).writeEv e
        else s.modTrust (fun t => { t with events := t.events.set k e })

end State

/-- TLB_WALK_END (R342, R343): the walk restarts when its owner's generation has moved, else it fills the TLBs or faults. -/
def execTlbWalkEnd (wid : Nat) (s : State) : Res :=
  match s.walks.find? (fun w => w.id == wid) with
  | none => .next s
  | some w =>
    if !s.walking w || s.rot.pause.isSome then .next s
    else if w.gen != (s.owner w.o).gen then
      .next { s with walks := s.walks.map (fun (x : Walk) => if x.id == wid then { x with gen := (s.owner w.o).gen } else x) }
    else
      match s.walkEnd w with
      | (.ok _, s) => .next ((s.dropWalk wid).wakeWalk wid none)
      | (.error 0, _) => .next s
      | (.error sub, s) => let s := (s.dropWalk wid).wakeWalk wid (some sub); .next (s.bury s.threads.length)
/-- TLBINV (R344): a release; what follows it stands in TLBINV_ACK. -/
def execTlbinv (a : Fin 16) (s : State) : Res :=
  let v := (s.rS a).toNat
  let kind := bits v 63 60
  if 4 < kind then .next (s.raise 2 3 s.iss.b)
  else .next (s.parkAfter (.tlbinv kind (bits v 59 56) (bits v 47 16 * 65536) false 0))
/-- TLBINV_ACK (R344): after the release at system scope the generations rise and the entries go; after the drain, also at system scope, the thread is woken. -/
def execTlbinvAck (uid : Nat) (s : State) : Res :=
  match s.thread? uid with
  | none => .next s
  | some t =>
    match t.park with
    | .tlbinv kind own page adv stamp =>
      if t.woken then .next s
      else if !adv then
        if t.ops.any (·.acc) || s.sawOpen t then .next s
        else .next (State.bump (((s.publishBy (fun w => w.2.2 == uid || w.2.2 == 0 || State.covered kind own w.1)).invalidate kind own page).modThread uid (fun t => { t with park := .tlbinv kind own page true s.newId, invs := if kind = 0 then s.removed own page else [] })))
      else if State.draining s kind own stamp t.invs then .next s
      else .next ((s.publishBy (fun w => State.covered kind own w.1)).modThread uid (fun t => { t with woken := true }))
    | _ => .next s
/-- KEYLD (R432): the block is read, the slot filled, the block zeroed; the thread goes on at the next beat boundary.
A poisoned block's POISON is completion-time (R346): its FPC names the keyld (R345), and a handler holds it (R348). -/
def execKeyld (a b : Fin 16) (s : State) : Res :=
  let k := bits (s.rS a).toNat 4 0
  let at_ := ea0 (s.rS b)
  let blk := s.platRead at_.toNat 64
  let read := s.chargeMem false (.dram 0 at_.toNat .cacheable)
  if at_.toNat % 64 != 0 then .next (s.raise 3 0 at_)
  else if s.blockedKey k then .next (s.raise 5 0 (BitVec.ofNat 48 k))
  else if s.platPoisoned at_.toNat then
    let f : FaultRec := { op := s.newId, code := 9, sub := 0, fpc := s.iss.b, faddr := at_ }
    .next (((read.emptyKey k).modMe (fun t => if t.fcode = 0 then { t with next := some f } else { t with held := t.held ++ [f] })).bump)
  else if blk.take 32 = blk.drop 32 then .next (read.raise 2 5 at_)
  else
    let s := (read.putKey k (BitVec.ofNat 512 (leNat blk))).unitWrite (.dram 0 at_.toNat .cacheable) (List.replicate 64 0)
    .next ((s.parkAfter (.keyld k at_)).modMe (fun t => { t with woken := true }))
/-- KEYZAP (R433). -/
def execKeyzap (a : Fin 16) (s : State) : Res :=
  let k := bits (s.rS a).toNat 4 0
  if (List.range 16).any (fun o => s.enabled o && (s.keysNamed o).contains k) then .next (s.raise 5 0 (BitVec.ofNat 48 k))
  else .next (s.emptyKey k)
/-- EVPOST (R353): posted, a release at system scope. -/
def execEvpost (a : Fin 16) (s : State) : Res :=
  .next (s.issueOp { s.newOp with rel := true } (s.newReq (.evpost (s.rS a)) (.peer s.me.pl.o 0 0) 0))
/-- ROTCTL with s[a][3:0] = 0 (R317). -/
def execRotctlSuspend (a : Fin 16) (s : State) : Res := s.rotctl a
/-- ROTCTL with s[a][3:0] = 1 (R317). -/
def execRotctlResume (a : Fin 16) (s : State) : Res := s.rotctl a
/-- ROTCTL with s[a][3:0] = 2 (R317). -/
def execRotctlExtraRotation (a : Fin 16) (s : State) : Res := s.rotctl a
/-- ROTCTL with s[a][3:0] = 3 (R317). -/
def execRotctlExtraSwitch (a : Fin 16) (s : State) : Res := s.rotctl a
/-- SLOTCTL with s[a][3:0] = 0 (R317). -/
def execSlotctlPlace (a b : Fin 16) (s : State) : Res := s.slotctl a b
/-- SLOTCTL with s[a][3:0] = 1 (R317). -/
def execSlotctlRemove (a b : Fin 16) (s : State) : Res := s.slotctl a b
/-- SLOTCTL with s[a][3:0] = 2 (R332). -/
def execSlotctlSpill (a b : Fin 16) (s : State) : Res := s.slotctl a b
/-- FRZ with OP 0 (R352). -/
def execFrzFreezeOwner (a : Fin 16) (s : State) : Res := s.frz a
/-- FRZ with OP 1 (R352). -/
def execFrzReleaseOwner (a : Fin 16) (s : State) : Res := s.frz a
/-- FRZ with OP 2 (R352). -/
def execFrzFreezeFunction (a : Fin 16) (s : State) : Res := s.frz a
/-- FRZ with OP 3 (R352). -/
def execFrzReleaseFunction (a : Fin 16) (s : State) : Res := s.frz a
/-- FRZ with OP 4 (R352). -/
def execFrzEndTask (a : Fin 16) (s : State) : Res := s.frz a
/-- EVENT_ACCEPT (R354 to R356). -/
def execEventAccept (k : Nat) (s : State) : Res := .next (s.takeEv k)

end Sys2Proof.Machine
end

