-- ==== Sys2Proof/Machine/Flash.lean ====
section
/-! DEFINITION. Flash: winst, wstat, the install unit, wear and retirement (R380 to R394, R420). -/

namespace Sys2Proof.Machine

/-! ### The descriptor of winst (R385) -/

def iSrc (q : List Word) : Nat := bits (qd q 0) 47 0
def iDst (q : List Word) : Nat := bits (qd q 1) 47 0
def iLen (q : List Word) : Nat := bits (qd q 2) 24 0
def iCrec (q : List Word) : Nat := bits (qd q 3) 47 0
def iPush (q : List Word) : Bool := bit (qd q 4) 0
def iQname (q : List Word) : Nat := bits (qd q 4) 63 40
/-- The pages that an install programs. -/
def iPages (q : List Word) : Nat := iLen q / 16384

namespace State

def install? (s : State) (rid : Nat) : Option Install := s.flash.installs.find? (fun x => x.rid == rid)
def setInstall (s : State) (x : Install) : State :=
  s.modFlash (fun f => { f with installs := f.installs.map (fun y => if y.rid == x.rid then x else y) })
/-- The installs of an owner that are accepted and not complete (R387). -/
def openInstalls (s : State) (o : Nat) : Nat :=
  (s.flash.installs.filter (fun x => x.o == o && x.inst != 0 && x.st != .ended)).length
def failInstall (s : State) (x : Install) (c : Nat) : State := s.setInstall { x with code := c }

/-! ### Wear (R388, R393, R394) -/

/-- Spare blocks left in a stack's pool; a new stack has 2,048 (R380). -/
def spares (s : State) (stack : Nat) : Nat := alGet 2048 stack s.flash.spares
def eraseCount (s : State) (block : Nat) : Nat := alGet 0 block s.flash.erases
def stackOf (e : Nat) : Nat := e / 32768
/-- A block is retired and replaced by a spare of its stack, with its events (R394). The spare's own count starts at 0. -/
def retireBlock (s : State) (o e block : Nat) : State :=
  let k := stackOf e
  let left := s.spares k - 1
  let s := s.modFlash (fun f => { f with spares := alSet k left f.spares, erases := alSet block 0 f.erases })
  let x := s.extent e
  let s := s.setExtent { x with retired := x.retired + 1 }
  let s := s.raiseEv { ty := 0x20, o := o, data := BitVec.ofNat 64 (e + left * 2 ^ 32), src := 16 + k }
  if left = 0 then s.raiseEv { ty := 0x21, o := o, data := BitVec.ofNat 64 k, src := 16 + k } else s
def countErase (s : State) (block : Nat) : State := s.modFlash (fun f => { f with erases := alSet block (alGet 0 block f.erases + 1) f.erases })
/-- Bytes of an extent are erased; flash keeps no poison mark (R388, R465). -/
def eraseBytes (s : State) (e off n : Nat) : State :=
  (s.modMem (fun m => m.clear (extKey e off) n)).modFlash (fun f => { f with bad := f.bad.filter (fun k => decide (k * 1024 < extKey e off) || decide (extKey e off + n ≤ k * 1024)) })
/-- WXSTAT of an extent (R393). -/
def wxstat (s : State) (e : Nat) : Word :=
  let x := s.extent e
  BitVec.ofNat 64 (s.spares (stackOf e) * 2 ^ 48 + min 255 x.retired * 2 ^ 40 + (if x.complete then 2 ^ 32 else 0) + max (s.eraseCount (2 * e)) (s.eraseCount (2 * e + 1)) % 2 ^ 32)

/-! ### The install unit (R387 to R390) -/

/-- The address of a shadow destination: within a pair, the backing that is not current (R256). -/
def viaShadow (s : State) (o va : Nat) : Nat :=
  match s.pairOf o va with
  | some p => backed p (!p.cur) va
  | none => va
/-- The flash offset that DST translates to, when it is a writable weight page and a whole extent (R387). -/
def installDst (s : State) (x : Install) : Option Nat :=
  if 2 ^ 47 ≤ iDst x.q then none
  else
    let va := s.viaShadow x.o (iDst x.q)
    match s.xlate { x.pl with o := x.o } va with
    | .error _ => none
    | .ok t =>
      match tlbLoc t va with
      | .flash _ f => if t.kind == .weight && t.w && f % 2 ^ 24 == 0 then some f else none
      | _ => none
/-- A page of the source: a cacheable page over SPACE 0 (R387). -/
def installSrc (s : State) (x : Install) (off : Nat) : Option Loc :=
  match s.unitLoc x.pl (BitVec.ofNat 48 (iSrc x.q + off)) false with
  | .ok (.dram o p .cacheable) => if iSrc x.q + off < 2 ^ 47 then some (.dram o p .cacheable) else none
  | _ => none
/-- A translation that the request needs waits for a table page to be pulled (R419). -/
def installWaits (s : State) (x : Install) : Bool :=
  (List.range (iPages x.q)).any (fun i => match s.unitLoc x.pl (BitVec.ofNat 48 (iSrc x.q + 16384 * i)) false with | .error (4, 0) => true | _ => false) ||
  (match s.xlate { x.pl with o := x.o } (s.viaShadow x.o (iDst x.q)) with | .error 0 => true | _ => false)
/-- The refusal code of R387, and 0 where the request is accepted. -/
def installCode (s : State) (x : Install) : Nat :=
  if (s.owner x.o).inScrub then 8
  else if 16 ≤ s.openInstalls x.o then 9
  else if iSrc x.q % 16384 != 0 || iLen x.q % 16384 != 0 || iDst x.q % 2 ^ 24 != 0 then 1
  else if (List.range (iPages x.q)).any (fun i => (s.installSrc x (16384 * i)).isNone) || (s.installDst x).isNone then 2
  else if (s.owner x.o).ibused.toNat = (s.owner x.o).desc.ibudget then 3
  else 0
/-- The request reaches the install unit, which accepts or refuses it. -/
def installArrive (s : State) (x : Install) : State :=
  let c := s.installCode x
  if c != 0 then s.failInstall x c
  else
    let e := match s.installDst x with | some f => (extentOf (s.owner x.o).desc.runs (f / 2 ^ 24)).getD 0 | none => 0
    let n := (s.owner x.o).nextInst
    (s.setInstall { x with st := .waiting, inst := n, ext := e, src := s.newId }).bump.modOwner x.o
      (fun w => { w with nextInst := if n + 1 = 0 then 1 else n + 1, ibused := w.ibused + 1 })
/-- An earlier accepted install acts on the same extent (R390). -/
def extentBusy (s : State) (x : Install) : Bool :=
  s.flash.installs.any (fun y => y.ext == x.ext && y.inst != 0 && y.st != .ended && decide (y.src < x.src))
/-- Wear and key checks, then the erase begins (R388, steps 1 to 3). -/
def installChecks (s : State) (x : Install) : State :=
  let worn := [2 * x.ext, 2 * x.ext + 1].filter (fun b => decide (bits s.regs.wlim.toNat 31 0 ≤ s.eraseCount b))
  if s.spares (stackOf x.ext) < worn.length then s.failInstall x 4
  else
    let s := worn.foldl (fun (s : State) b => s.retireBlock x.o x.ext b) s
    let x := { x with retired := x.retired + worn.length }
    if !(s.trust.keys.map (·.1)).contains (fkey (s.owner x.o).cfg.toNat) then s.failInstall x 7
    else
      let y := s.extent x.ext
      (s.setExtent { y with complete := false, progd := [] }).setInstall { x with st := .erasing }
/-- Copies of the extent in the L1s, in Mica and in the staging caches go: at step 5 of R388, and at the erase, after which reads follow R381. -/
def dropInstalled (s : State) (x : Install) : State :=
  let lo := extKey x.ext 0 / 128
  let s := { s with l1 := s.l1.filter (fun e => decide (e.line < lo) || decide (lo + 2 ^ 17 ≤ e.line))
                    slices := s.slices.map (fun (y : Slice) => { y with lines := y.lines.filter (fun c => decide (8 * c.line < lo) || decide (lo + 2 ^ 17 ≤ 8 * c.line)) }) }
  s.modFlash (fun f => { f with staged := f.staged.filter (fun g => g.o != x.o || extentOf (s.owner x.o).desc.runs (g.page / 1024) != some x.ext) })
/-- The erase of both blocks is done (R388, step 3). -/
def installErased (s : State) (x : Install) : State :=
  ((((s.dropInstalled x).eraseBytes x.ext 0 (2 ^ 24)).countErase (2 * x.ext)).countErase (2 * x.ext + 1)).setInstall { x with st := .programming }
/-- One page is read at its homes (R388, R434), and programmed and verified, or its block is retired and programmed again (R388, step 4). -/
def installPage (s : State) (x : Install) (ok : Bool) : State :=
  let i := x.pages
  let e := s.extent x.ext
  match s.installSrc x (16384 * i) with
  | none => s.failInstall x 2
  | some l =>
    let key (k : Nat) : Nat := match l with | .dram o p _ => s.dramKey o (p + 128 * k) | l => s.locKey l + 128 * k
    match (List.range 128).find? (fun k => s.poisonedKey (key k)) with
    | some k => s.setInstall { x with code := 6, faddr := BitVec.ofNat 48 (iSrc x.q + 16384 * i + 128 * k) }
    | none =>
      let s := (List.range 128).foldl (fun (s : State) k => s.chargeMem false (match l with | .dram o p kd => .dram o (p + 128 * k) kd | l => l)) s
      if ok then
        let bs := (List.range 128).flatMap (fun k => s.mem.read (key k) 128)
        ((((s.modMem (fun m => m.write (extKey x.ext (16384 * i)) bs)).setExtent { e with progd := setIns e.progd i }).charge x.o 7 1).setInstall { x with pages := i + 1 })
      else if s.spares (stackOf x.ext) = 0 then s.failInstall x 5
      else
        let b := 512 * (i / 512)
        let s := ((s.retireBlock x.o x.ext (2 * x.ext + i / 512)).countErase (2 * x.ext + i / 512)).eraseBytes x.ext (16384 * b) (2 ^ 23)
        let e := s.extent x.ext
        (s.setExtent { e with progd := e.progd.filter (fun k => decide (k < b)) }).setInstall { x with pages := b, retired := x.retired + 1 }
/-- The install has programmed all its pages, or has a code, or its outcome has yet to land. -/
def installOver (x : Install) : Bool := (x.st != .ended && (x.code != 0 || (x.st == .programming && x.pages == iPages x.q))) || x.pushed.isSome
/-- Copies of the extent go, and the extent is complete (R388, step 5). -/
def installDone (s : State) (x : Install) : State :=
  let s := s.dropInstalled x
  let y := s.extent x.ext
  s.setExtent { y with complete := true, len := iLen x.q }
/-- The quads of the completion record (R389). -/
def installRec (s : State) (x : Install) : List Word :=
  [BitVec.ofNat 64 (x.code * 2 ^ 32 + x.inst.toNat), BitVec.ofNat 64 (x.retired * 2 ^ 32 + x.pages), s.clk.quartz, x.faddr.setWidth 64,
   BitVec.ofNat 64 (if x.inst = 0 then 0 else x.ext), 0, 0, 0]
/-- Where the record goes: the own scratchpad window or a cacheable page (R385). -/
def installCrec (s : State) (x : Install) : Option Loc :=
  match s.unitLoc x.pl (BitVec.ofNat 48 (iCrec x.q)) true with
  | .ok (.scr q off) => if q = x.pl then some (.scr q off) else none
  | .ok (.dram o p .cacheable) => some (.dram o p .cacheable)
  | _ => none
/-- An owner keeps its last 64 ended installs, which stand in the order of their ends (R391); one whose s[d] has yet to land stays until it has. -/
def trimInstalls (s : State) (o : Nat) : State :=
  let done := s.flash.installs.filter (fun x => x.o == o && x.st == .ended && x.inst != 0)
  if done.length ≤ 64 then s
  else match done.find? (fun x => x.pushed.isNone) with
    | some x => s.modFlash (fun f => { f with installs := f.installs.filter (fun y => y.rid != x.rid) })
    | none => s
/-- The outcome of an install is written: the record and the push first, and from then on the install has ended (R390, R391); s[d] lands once the push is accepted
(R193, R389). A request refused in scrub makes no push (R442). -/
def installEnd (s : State) (x : Install) : State :=
  match x.pushed with
  | none =>
    let s := if x.code = 0 then s.installDone x else s
    let rec_ := s.installRec x
    let s := if iCrec x.q = 0 then s else match s.installCrec x with | some l => s.unitWrite l (quadBytes rec_) | none => s
    let id := s.newId
    let s := s.modFlash (fun f => { f with installs := f.installs.filter (fun y => y.rid != x.rid) ++ [{ x with st := .ended, pushed := some id }] })
    if iPush x.q && decide (bits (iQname x.q) 23 16 < s.nslot x.o) && !(x.inst == 0 && (s.owner x.o).inScrub) then
      s.unitPush ⟨x.o, bits (iQname x.q) 23 16, bits (iQname x.q) 14 8⟩ (bits (iQname x.q) 2 0) (BitVec.ofNat 128 (qd x.q 5 + (rec_.getD 0 0).toNat * 2 ^ 64))
    else s.bump
  | some r =>
    if s.net.any (fun y => y.id == r) then s
    else
      let s := s.finishOp x.uid x.rid (((s.installRec x).getD 0 0).setWidth 128) 0 none
      let s := s.modFlash (fun f => { f with installs := (f.installs.filter (fun y => y.rid != x.rid || x.inst != 0)).map (fun y => if y.rid == x.rid then { y with pushed := none } else y) })
      s.trimInstalls x.o
/-- The word that wstat reads (R391). -/
def wstatWord (s : State) (o id : Nat) : Word :=
  match s.flash.installs.find? (fun x => x.o == o && x.inst.toNat == id && id != 0) with
  | none => 0
  | some x =>
    let st := match x.st with | .requested => 0 | .waiting => 1 | .checks => 2 | .erasing => 3 | .programming => 4 | .ended => 5
    BitVec.ofNat 64 (x.pages * 2 ^ 24 + st * 2 ^ 8 + (if x.st == .ended then x.code else 0))
/-- Earlier accesses of the thread are performed: an install request is a release (R386). -/
def earlierDone (s : State) (uid id : Nat) : Bool :=
  match s.thread? uid with | some t => !t.ops.any (fun o => decide (o.id < id) && (o.acc || o.acq)) && !s.sawOpen t | none => true

end State

/-- WINST (R386): the descriptor is read and checked, and the request goes to the install unit. -/
def execWinst (d a : Fin 16) (s : State) : Res :=
  s.withDesc a (fun ea q =>
    if iLen q = 0 || decide (2 ^ 24 < iLen q) then .next (s.raise 2 5 (ea + 16))
    else if iCrec q % 64 != 0 then .next (s.raise 2 5 (ea + 24))
    else if iPush q && decide (s.nslot s.me.pl.o ≤ bits (iQname q) 23 16) then .next (s.raise 5 0 (ea + 32))
    else if s.atLimit then .next (s.rewind .limit)
    else
      let o : Op := { s.newOp with dest := some (.s d), counts := true, acc := false, cmd := true, ea := ea }
      .next (State.bump { (s.modFlash (fun f => { f with installs := f.installs ++ [{ rid := s.newId, uid := s.me.uid, pl := s.me.pl, o := s.me.pl.o, q := q }] })) with me := s.me.addOp o }))
/-- WSTAT (R391): long, an acquire. -/
def execWstat (d a : Fin 16) (s : State) : Res :=
  if s.atLimit then .next (s.rewind .limit)
  else
    .next (s.issueOp { s.newOp with dest := some (.s d), counts := true, acc := false, acq := true, cmd := true }
      (s.newReq (.wstat (bits (s.rS a).toNat 31 0)) (.peer s.me.pl.o 0 0) 0))
/-- INSTALL_REQUEST_ARRIVE (R387, R391): the install unit accepts or refuses a request, or answers a wstat. -/
def execInstallRequestArrive (id : Nat) (s : State) : Res :=
  match s.install? id with
  | some x =>
    if x.st == .requested && x.code == 0 && s.earlierDone x.uid id && !s.netHeld && !(s.installCode x == 2 && s.installWaits x) then .next (s.installArrive x) else .next s
  | none =>
    s.withReq id (fun r => match r.kind with | .wstat n => .next (s.answer r ((s.wstatWord r.pl.o n).setWidth 128) none) | _ => .next s)
/-- INSTALL_PAGE_PROGRAMMED (R388): the next part of an accepted install: the checks, the erase, or one page. -/
def execInstallPageProgrammed (id : Nat) (ok : Bool) (s : State) : Res :=
  match s.install? id with
  | none => .next s
  | some x =>
    if x.code != 0 then .next s
    else match x.st with
      | .waiting => .next (if s.extentBusy x then s else s.setInstall { x with st := .checks })
      | .checks => .next (s.installChecks x)
      | .erasing => .next (s.installErased x)
      | .programming =>
        if x.pages = iPages x.q || s.unitWaits x.pl (BitVec.ofNat 48 (iSrc x.q + 16384 * x.pages)) false then .next s
        else .next (s.installPage x ok)
      | _ => .next s
/-- INSTALL_END (R389). -/
def execInstallEnd (id : Nat) (s : State) : Res :=
  match s.install? id with
  | some x =>
    if State.installOver x && !(iCrec x.q != 0 && x.pushed.isNone && s.unitWaits x.pl (BitVec.ofNat 48 (iCrec x.q)) true) then .next (s.installEnd x) else .next s
  | none => .next s

end Sys2Proof.Machine
end

