-- ==== Sys2Proof/Machine/Reliability.lean ====
section
/-! DEFINITION. Reliability: uncorrectable errors and the patrol, column states and rebuilds, failing cores and lanes, heat (R32, R395 to R406, R465). -/

namespace Sys2Proof.Machine

namespace State

/-! ### Poison under R395 and its event (R396, R406) -/

def poisonEv (s : State) (data : Nat) : State := s.raiseEv { ty := 0x10, data := BitVec.ofNat 64 data, src := 2 ^ 40 + data / 2 ^ 24 }
def shaleEv (s : State) (stack layer sector : Nat) : State := s.poisonEv (sector + stack * 2 ^ 24 + layer * 2 ^ 34)
/-- The key of a sector of a data layer. -/
def layerKey (stack layer sector : Nat) : Nat := stackKey stack (layer * 2 ^ 24 + sector * 128)
def poisonShale (s : State) (stack layer sector : Nat) : State :=
  ((s.modMem (fun m => m.setPoison (layerKey stack layer sector))).markStaged (layerKey stack layer sector)).shaleEv stack layer sector
/-- The flash reads that failed correction post the events of their sectors (R396). -/
def flashErrs (s : State) : State := s.flash.errs.foldl State.poisonEv (s.modFlash (fun f => { f with errs := [] }))

/-! ### Column states (R398, R399) -/

def colEv (s : State) (ty : Nat) (c : Column) : State := s.raiseEv { ty := ty, data := BitVec.ofNat 64 (c.k + c.lost * 2 ^ 16), src := 2 ^ 41 + c.k }
/-- The core of a layer, the spare's too, is to be retired at the next pause (R29, R400). -/
def retireSoon (s : State) (tile layer : Nat) : State :=
  if s.rot.failed.contains (tile, layer) || s.rot.retired.contains (tile, layer) then s else s.modRot (fun r => { r with failed := r.failed ++ [(tile, layer)] })
/-- A layer of a column is lost (R399). -/
def loseLayer (s : State) (k layer : Nat) : State :=
  let c := s.column k
  let s := if layer != c.lost then s.retireSoon k layer else s
  match c.st with
  | 0 =>
    if layer < 8 then let c := { c with st := 1, lost := layer, rbpos := 0 }; (s.setColumn c).colEv 0x11 c
    else s.setColumn { c with st := 2, lost := 15 }
  | 1 => if layer = c.lost then s else let c := { c with st := 3, lost2 := layer }; (s.setColumn c).colEv 0x13 c
  | 2 => if layer = c.lost || (layer == 8 && c.lost == 15) then s else let c := { c with st := 3, lost2 := layer }; (s.setColumn c).colEv 0x13 c
  | _ => s
/-- The length of a patrol pass, in which every part reads each of its sectors once (R397). -/
def passLen (s : State) : Nat := max 1 (bits s.regs.pscfg.toNat 31 0) * 2 ^ 20
/-- The number of the patrol pass (R397). -/
def passNo (s : State) : Nat := s.q / s.passLen
/-- The uncorrectable errors of a layer are counted; 64 in one pass lose the layer (R399). -/
def countError (s : State) (k layer : Nat) : State :=
  let c := s.column k
  let key := 9 * s.passNo + layer
  let n := alGet 0 key c.errs + 1
  let s := s.setColumn { c with errs := alSet key n (c.errs.filter (fun e => decide (9 * s.passNo ≤ e.1))) }
  if n = 64 then s.loseLayer k layer else s
/-- The parity byte that layer 8 of a column holds at an offset: the XOR of the eight data layers there, of which it is a view (R398). -/
def parityAt (s : State) (k off : Nat) : Byte := (List.range 8).foldl (fun b y => b ^^^ s.mem.getB (stackKey k (y * 2 ^ 24 + off))) 0
/-- A byte of a data layer as the other seven and parity give it back (R399). -/
def rebuiltAt (s : State) (k layer off : Nat) : Byte :=
  ((List.range 8).filter (· != layer)).foldl (fun b y => b ^^^ s.mem.getB (stackKey k (y * 2 ^ 24 + off))) (s.parityAt k off)
/-- An uncorrectable error in a Shale sector: reconstructed where parity covers it and no second sector fails, else poisoned; a sector of the lost layer that is still reconstructed
from it is poisoned with it (R395, R396, R399). -/
def shaleError (s : State) (k layer sector : Nat) (two : Bool) : State :=
  let c := s.column k
  let s1 :=
    if c.st = 0 then (if two && decide (layer < 8) then s.poisonShale k layer sector else s)
    else if layer = 8 then (if c.lost < 8 then s.poisonShale k c.lost sector else s)
    else if layer = c.lost then s
    else
      let s := s.poisonShale k layer sector
      if c.st = 1 && c.lost < 8 && c.rbpos ≤ sector then s.poisonShale k c.lost sector else s
  s1.countError k layer

/-- An uncorrectable error that a unit meets: 0 Shale, 1 Mica and slice scratchpads, 2 core scratchpads, 3 flash, 4 context store, 5 accumulators, 6 Shale where
a second sector of the reconstruction fails too, 7 an L1 line, which is filled again from its home (R395). A stream whose row is lost fails (R293), and that core
issues no bundle more. A 1 KiB of flash that fails stays as it is: each read of it from then on, by the patrol or for a miss, poisons its eight sectors in what it
returns and posts an event for each (R396, R465; patrolTo, stagingRead). -/
def memError (s : State) (unit n : Nat) : State :=
  match unit with
  | 0 => let g := n / 131072; s.shaleError (g / 9 % 1024) (g % 9) (n % 131072) false
  | 6 => let g := n / 131072; s.shaleError (g / 9 % 1024) (g % 9) (n % 131072) true
  | 7 => { s with l1 := s.l1.eraseIdx n }
  | 1 =>
    let k := n / 131072 % 64
    let way := n % 131072 / 8192
    let set := n % 8192 / 8
    let at_ := n % 8
    let s := s.poisonEv (1 * 2 ^ 48 + k * 2 ^ 24 + n % 131072)
    if 16 ≤ way + (s.slice k).ways then s.modMem (fun m => m.setPoison (sliceKey k ((15 - way) * 2 ^ 20 + set * 1024 + at_ * 128)))
    else
      let x := s.slice k
      s.setSlice { x with lines := x.lines.map (fun (c : MicaLine) => if c.way == way && c.set == set && c.secs.contains at_ then { c with bad := setIns c.bad at_ } else c) }
  | 2 =>
    let tile := n / 512 / 9 % 1024
    let layer := n / 512 % 9
    (match ((List.range 8).find? (fun y => s.physLayer tile y == layer)).bind (fun y => s.placeAt tile y) with
     | some p => (s.modMem (fun m => m.setPoison (scrKey p (n % 512 * 128)))).poisonEv (2 * 2 ^ 48 + layer * 2 ^ 34 + tile * 2 ^ 24 + n % 512)
     | none => s)
  | 3 => s.modFlash (fun f => { f with bad := setIns f.bad (extKey (n / 131072 % 262144) (n % 131072 * 128) / 1024) })
  | 4 =>
    (match s.threads.find? (fun t => t.uid == n) with
     | some t =>
       match t.strm with
       | some sid => s.modStream sid (fun st => { st.noteFault t.pl.c (streamIdx st t.pl.c) t.pl.l { op := 0, code := 9, sub := 0, fpc := t.pc, faddr := 0 } with exited := st.exited ++ [t.pl.c] })
       | none => (s.modThread n (fun t => { t with park := .dead { op := 0, code := 9, sub := 0, fpc := t.pc, faddr := 0 } })).bury s.threads.length
     | none => s)
  | _ =>
    let key := n % 16384
    let e := s.engineAt (n / 2 ^ 19) (n / 2 ^ 15 % 16)
    let fix (a : Acc) : Acc := { a with range := true, elems := a.elems.filter (fun x => x.1 != key) }
    s.setEngine (if n / 2 ^ 14 % 2 = 1 then { e with a1 := fix e.a1 } else { e with a0 := fix e.a0 })

/-! ### The patrol (R397) -/

/-- The part that a patrol read belongs to, and its sector there: a Shale bank group, a Mica slice or a flash stack. -/
def patrolPart (unit n : Nat) : Nat × Nat :=
  match unit with
  | 1 => (10000 + n / 131072 % 64, n % 131072)
  | 3 => (20000 + n / 131072 % 262144 / 32768, n / 131072 % 32768 * 131072 + n % 131072)
  | _ => (n / 131072 % 9216, n % 131072)
/-- The next sector of a part in the pass of now. -/
def patrolAt (s : State) (part : Nat) : Nat :=
  match s.rot.patrol.find? (fun x => x.1 == part) with
  | some x => if x.2.1 = s.passNo then x.2.2 else 0
  | none => 0
/-- The patrol of a part reads on from its position to a sector, in Shale at owner 0's charge (R397, R434); in a FAILED column each sector of a lost layer that it
reads posts event 0x10 (R399), and so does each flash sector that fails correction (R465). -/
def patrolTo (s : State) (unit part sector : Nat) : State :=
  let a := s.patrolAt part
  let n := sector + 1 - a
  let s := s.modRot (fun r => { r with patrol := r.patrol.filter (fun x => x.1 != part) ++ [(part, s.passNo, sector + 1)] })
  if unit = 3 then ((s.flash.bad.flatMap (fun k => (List.range 8).map (fun i => 8 * k + i - 2 ^ 37))).filter (fun x =>
      decide (20000 + x / 2 ^ 32 = part) && decide (a ≤ x % 2 ^ 32) && decide (x % 2 ^ 32 ≤ sector))).foldl (fun (s : State) x => s.poisonEv (3 * 2 ^ 48 + x / 131072 * 2 ^ 24 + x % 131072)) s
  else if unit != 0 then s
  else
    let c := s.column (part / 9)
    let s := s.charge 0 4 (128 * n)
    if colGone c (part % 9) then (List.range n).foldl (fun (s : State) i => s.shaleEv (part / 9) (part % 9) (a + i)) s else s

/-- The last sector of a part, and the unit that a part belongs to. -/
def partEnd (part : Nat) : Nat := if 20000 ≤ part then 2 ^ 32 - 1 else 131071
def partUnit (part : Nat) : Nat := if 20000 ≤ part then 3 else if 10000 ≤ part then 1 else 0
/-- Every part that the patrol reads: the bank groups, the Mica slices, the flash stacks (R397). -/
def patrolParts : List Nat := List.range 9216 ++ (List.range 64).map (· + 10000) ++ (List.range 8).map (· + 20000)
/-- The patrol of some part reads on by some sectors, which free values choose: in a pass the rule fixes the order of a part's sectors and no count at which one is
read (R397; DESIGN CHOICE, log 140). -/
def patrolRead (s : State) : State :=
  let part := patrolParts.getD (s.free.toNat % 9288) 0
  let s := s.drawn
  let a := s.patrolAt part
  if a ≤ partEnd part then s.drawn.patrolTo (partUnit part) part (a + s.free.toNat % (partEnd part + 1 - a)) else s
/-- The pass ends: each part has read what was left of it (R397). -/
def patrolEnd (s : State) : State :=
  patrolParts.foldl (fun (s : State) part => if s.patrolAt part ≤ partEnd part then s.patrolTo (partUnit part) part (partEnd part) else s) s

/-! ### Lanes (R402, R403) -/

def regionSpares (s : State) (tile region : Nat) : Nat :=
  ((s.rot.spares.find? (fun x => x.1 == tile && x.2.1 == region)).map (fun x => x.2.2)).getD (if region ≤ 8 then 8 else 4)
def laneEv (s : State) (ty tile region : Nat) : State := s.raiseEv { ty := ty, data := BitVec.ofNat 64 (tile + region * 2 ^ 16), src := 2 ^ 42 + tile }
/-- A vertical bus runs at 128 bits from the next beat boundary (R403). -/
def halve (s : State) (tile region : Nat) : State := if region ≤ 8 then let c := s.column tile; s.setColumn { c with halfDue := true } else s
/-- One lane's traffic moves onto a spare (R403). -/
def applyRepair (s : State) (r : Repair) : State :=
  let n := s.regionSpares r.tile r.region
  if n = 0 then (s.laneEv 0x18 r.tile r.region).halve r.tile r.region
  else (s.modRot (fun x => { x with spares := x.spares.filter (fun y => !(y.1 == r.tile && y.2.1 == r.region)) ++ [(r.tile, r.region, n - 1)] })).laneEv 0x17 r.tile r.region

end State

/-- PATROL_SCRUB_READ (R395 to R397): the patrol reads a part up to a sector, in ascending order and each sector once in a pass, and finds the last one good or
bad; the units that no patrol reads, and the others with 8 added, stand for an error that an access meets, whatever PSCFG says. -/
def execPatrolScrubRead (unit sector : Nat) (bad : Bool) (s : State) : Res :=
  let u := if unit = 6 then 0 else unit
  if u = 0 || u = 1 || u = 3 then
    let p := State.patrolPart u sector
    if !bit s.regs.pscfg.toNat 63 || decide (p.2 < s.patrolAt p.1) then .next s
    else
      let lost := u == 0 && State.colGone (s.column (p.1 / 9)) (p.1 % 9)
      .next (if u = 3 then ((if bad then s.memError 3 sector else s).patrolTo u p.1 p.2)
        else if bad && !lost then (s.patrolTo u p.1 p.2).memError unit sector else s.patrolTo u p.1 p.2)
  else .next (if bad then s.memError (unit % 8) sector else s)
/-- LAYER_LOST (R399). -/
def execLayerLost (stack layer : Nat) (s : State) : Res := .next (if stack < 1024 && layer ≤ 8 then s.loseLayer stack layer else s)
/-- REBUILD_SECTOR (R399): one sector of the lost layer goes to layer 8 with its poison mark. -/
def execRebuildSector (stack : Nat) (bad : Bool) (s : State) : Res :=
  let c := s.column stack
  if c.st != 1 then .next s
  else
    let s := if bad then s.poisonShale stack c.lost c.rbpos else s
    if c.rbpos + 1 = 131072 then let c := { c with st := 2, rbpos := 131072 }; .next ((s.setColumn c).colEv 0x12 c)
    else .next (s.setColumn { c with rbpos := c.rbpos + 1 })
/-- CORE_LOGIC_FAILURE (R400): the core is to be retired, and issues nothing until then; a core whose layer alone is lost goes on issuing. -/
def execCoreLogicFailure (tile layer : Nat) (s : State) : Res :=
  .next (if 1024 ≤ tile || 8 < layer || s.rot.retired.contains (tile, layer) then s
    else (s.retireSoon tile layer).modRot (fun r => { r with down := if r.down.contains (tile, layer) then r.down else r.down ++ [(tile, layer)] }))
/-- LANE_FAILURE (R402, R403): in a pause a canary's drift schedules a repair; a lane that fails with no spare, or before its repair, halves its bus at the next
beat boundary: any failure outside a pause, where no canary is measured, and in a pause one whose region has 16 added. -/
def execLaneFailure (tile k : Nat) (s : State) : Res :=
  let region := k % 16
  if 1024 ≤ tile || 10 < region || 32 ≤ k then .next s
  else if s.rot.pause.isSome && decide (k < 16) then
    .next ((s.modRot (fun r => { r with repairs := r.repairs ++ [{ tile := tile, region := region }] })).laneEv 0x16 tile region)
  else if s.regionSpares tile region = 0 then .next ((s.laneEv 0x18 tile region).halve tile region)
  else .next (s.halve tile region)
/-- REFRESH_RATE_CHANGE (R404). -/
def execRefreshRateChange (stack layer : Nat) (hot : Bool) (s : State) : Res :=
  let c := s.column stack
  if 1024 ≤ stack || 8 < layer || bit c.hot layer == hot then .next s
  else
    .next ((s.setColumn { c with hot := if hot then c.hot + 2 ^ layer else c.hot - 2 ^ layer }).raiseEv
      { ty := 0x19, data := BitVec.ofNat 64 (stack + layer * 2 ^ 16 + (if hot then 2 ^ 24 else 0)), src := 2 ^ 43 + stack })
/-- The sensor of a slot position: one in each Shale layer, and 15 is the one in the Basalt die (R32, R354). -/
def sensor (layer : Nat) : Bool := decide (layer % 16 ≤ 8) || layer % 16 == 15
/-- THERMAL_EVENT (R32); a layer number that has no sensor names none. -/
def execThermalEvent (pos layer : Nat) (s : State) : Res :=
  if !sensor layer then .next s
  else .next (s.raiseEv { ty := 3, data := BitVec.ofNat 64 (pos % 64 + layer % 16 * 2 ^ 8), src := 64 + pos % 64 * 16 + layer % 16 })
/-- THERMAL_TRIP (R32, R326): issue and engines stop at the next beat boundary, where a pause in progress is abandoned; only a reset recovers. -/
def execThermalTrip (pos layer : Nat) (s : State) : Res :=
  if !sensor layer then .next s
  else .next ((s.modTrust (fun t => { t with tripDue := true })).raiseEv
    { ty := 4, data := BitVec.ofNat 64 (pos % 64 + layer % 16 * 2 ^ 8), src := 2 ^ 16 + pos % 64 * 16 + layer % 16 })

end Sys2Proof.Machine
end

