-- ==== Sys2Proof/Machine/Slate.lean ====
section
/-! DEFINITION. Slate: step and the step stop, Slate images and their restore, post-copy pulls (R407 to R421). -/

namespace Sys2Proof.Machine

namespace State

/-! ### The step stop (R409 to R411) -/

def stepEn (s : State) (o : Nat) : Bool := bit (s.owner o).stepcfg.toNat 63
/-- The peer entries that name the members of a step group. -/
def stepPeers (s : State) (o : Nat) : List Nat := (List.range 16).filter (fun k => bit (s.owner o).stepcfg.toNat k)
/-- Bytes of a peer entry of an owner (R373): its device and the remote owner. -/
def peerRown (s : State) (o k : Nat) : Nat := s.platNat (s.regs.ixtb.toNat + 4096 + 512 * o + 32 * k + 25) 1 % 16
/-- The conditions of the local stop (R409). -/
def stopReady (s : State) (o : Nat) : Bool :=
  let x := s.owner o
  s.stepEn o && x.stepped && !x.local_ && !x.held &&
  !s.allThreads.any (fun t => t.pl.o == o) && s.graph.packets.all (fun k => k.t.pl.o != o || k.stage == .stepped) &&
  !s.graph.placing.any (fun p => p.o == o) && !s.graph.streams.any (fun t => t.o == o) && !s.graph.ready.any (fun r => r.o == o) &&
  !s.cmds.any (fun c => c.pl.o == o) && !s.cores.any (fun c => c.pl.o == o && !c.mbox.isEmpty) &&
  !s.flash.installs.any (fun i => i.o == o && (i.st != .ended || i.pushed.isSome)) && !s.graph.launches.any (fun x => x.r.o == o && x.ending.isSome) && !(s.trust.slateOp != 0 && s.trust.slateOwner == o) &&
  !s.net.any (fun r => r.pl.o == o && r.uid != 0)
/-- The global stop: every member's token with the next number is here (R410). -/
def globalStop (s : State) (o : Nat) : State :=
  let x := s.owner o
  let n := x.num + 1
  if x.local_ && !x.held && (s.stepPeers o).all (fun k => x.tokens.contains (s.peerDev o k, n.toNat)) then
    (s.modOwner o (fun x => { x with held := true, num := n, tokens := x.tokens.filter (fun t => decide (n.toNat < t.2)) })).raiseEv
      { ty := 0x29, o := o, data := n.setWidth 64, src := 3 }
  else s
/-- The local stop: every write of the owner is performed at system scope; its event, and a ready token to each member (R409, R410). -/
def localStop (s : State) (o : Nat) : State :=
  let n := ((s.owner o).num + 1).toNat
  let s := ((s.publishBy (fun w => w.1 == o)).modOwner o (fun x => { x with local_ := true })).raiseEv { ty := 0x28, o := o, src := 3 }
  let s := (s.stepPeers o).foldl (fun (s : State) k => if (s.usable (s.peerDev o k)).isEmpty then s.ixDrop else s.send (.token (s.peerDev o k) n)) s
  s.globalStop o
/-- A write of STEPST.RESUME (R411); it waits until every slot of the owner is placed (R316). -/
def stepResume (s : State) (o : Nat) : State :=
  if (s.owner o).held && s.unplaced o then s.modOwner o (fun x => { x with resumeWait := true })
  else if (s.owner o).held then
    let n := (s.owner o).num.setWidth 64
    (s.modOwner o (fun x => { x with held := false, local_ := false, stepped := false })).modGraph (fun g =>
      { g with packets := g.packets.map (fun k => if k.stage == .stepped && k.t.pl.o == o then { k with stage := .flight, t := { k.t with step := n } } else k) })
  else s

/-! ### The manifest (R413) -/

/-- The key of a byte at an owner IA that lies in SPACE 0. -/
def iaKey (s : State) (o ia : Nat) : Option Nat :=
  match s.stage2 o (ia % 2 ^ 48) with
  | .ok r => if r.space = 0 then some (s.dramKey o r.out) else none
  | .error _ => none
/-- n quads at an owner IA, and none where they cannot be read or are poisoned. -/
def iaQuads (s : State) (o : Nat) : Nat → Nat → Option (List Word)
  | _, 0 => some []
  | ia, n + 1 =>
    match s.iaKey o ia with
    | none => none
    | some k => if s.poisonedKey k then none else (iaQuads s o (ia + 8) n).map (fun r => BitVec.ofNat 64 (leNat (s.mem.read k 8)) :: r)
/-- A shard of a manifest or of an image's table. -/
structure Shard where
  q : List Word
deriving DecidableEq, Repr
def Shard.kind (e : Shard) : Nat := bits (qd e.q 0) 3 0
def Shard.base (e : Shard) : Nat := bits (qd e.q 1) 47 0
def Shard.arr (e : Shard) : Nat × Nat × Nat := (bits (qd e.q 2) 31 0, bits (qd e.q 2) 39 32, qd e.q 3)
def Shard.esize (e : Shard) : Nat := bits (qd e.q 2) 39 32
def Shard.row0 (e : Shard) : Nat := bits (qd e.q 4) 31 0
def Shard.col0 (e : Shard) : Nat := bits (qd e.q 4) 63 32
def Shard.nrows (e : Shard) : Nat := bits (qd e.q 5) 31 0
def Shard.ncols (e : Shard) : Nat := bits (qd e.q 5) 63 32
def Shard.pitch (e : Shard) : Nat := bits (qd e.q 6) 31 0
def Shard.size (e : Shard) : Nat := e.nrows * e.pitch
def Shard.data (e : Shard) : Nat := qd e.q 7
/-- The key of byte i of a shard in the machine. -/
def shardKey (s : State) (o : Nat) (e : Shard) (i : Nat) : Option Nat :=
  match e.kind with
  | 0 => s.iaKey o (e.base + i)
  | 1 => some (scrKey ⟨o, bits (qd e.q 0) 15 8, bits (qd e.q 0) 22 16⟩ (e.base + i))
  | _ => some (sliceKey ((s.owner o).desc.mica.getD (bits (qd e.q 0) 29 24) 0) (e.base + i))
/-- The location of a sector of a shard, for its charges. -/
def shardLoc (s : State) (o : Nat) (e : Shard) (i : Nat) : Loc :=
  match e.kind with
  | 0 => (match s.stage2 o ((e.base + i) % 2 ^ 48) with | .ok r => .dram o r.out .cacheable | .error _ => .slice 0 0)
  | _ => .slice 0 0
/-- An entry lies inside its limits (R413). -/
def shardOk (s : State) (o : Nat) (e : Shard) : Bool :=
  decide (e.kind ≤ 2) && e.base % 128 == 0 && [1, 2, 4, 8, 16].contains e.esize &&
  decide (e.row0 + e.nrows ≤ bits (qd e.q 3) 31 0) && decide (e.col0 + e.ncols ≤ bits (qd e.q 3) 63 32) &&
  e.pitch % 128 == 0 && decide (e.ncols * e.esize ≤ e.pitch) &&
  (match e.kind with
   | 0 => decide (e.base + e.size ≤ 2 ^ 48) && (List.range (e.size / 65536 + 2)).all (fun i => decide (e.size ≤ 65536 * i) || (s.iaKey o (e.base + 65536 * i)).isSome) &&
          (e.size == 0 || (s.iaKey o (e.base + e.size - 1)).isSome)
   | 1 => decide (bits (qd e.q 0) 15 8 < s.nslot o) && decide (e.base + e.size ≤ 65536)
   | _ =>
     let d := (s.owner o).desc.mica
     decide (bits (qd e.q 0) 29 24 < d.length) && decide (e.base + e.size ≤ s.sliceSize (d.getD (bits (qd e.q 0) 29 24) 0)))
/-- The manifest of an owner, and none for MANIFEST (R414, code 2). -/
def manifest (s : State) (o : Nat) : Option (List Shard) :=
  let a := (s.owner o).slman.toNat
  match s.iaQuads o a 1 with
  | some [n] =>
    if n.toNat = 0 || decide (4096 < n.toNat) then none
    else
      let es := (List.range n.toNat).map (fun k => s.iaQuads o (a + 64 + 64 * k) 8)
      if es.any (·.isNone) then none
      else
        let es : List Shard := es.map (fun e => ⟨e.getD []⟩)
        if es.all (s.shardOk o) then some es else none
  | _ => none

/-! ### The graph section (R412, R415): the device's own layout, a list of quads (DESIGN CHOICE, log 21) -/

abbrev Parse (α : Type) := List Nat → Option (α × List Nat)
def grab (n : Nat) : Parse (List Nat) := fun xs => if xs.length < n then none else some (xs.take n, xs.drop n)
def parseMany {α : Type} (p : Parse α) : Nat → Parse (List α)
  | 0, xs => some ([], xs)
  | n + 1, xs =>
    match p xs with
    | none => none
    | some (a, ys) => (parseMany p n ys).map (fun r => (a :: r.1, r.2))
def parseList {α : Type} (p : Parse α) : Parse (List α)
  | [] => none
  | n :: ys => if ys.length < n then none else parseMany p n ys
def putList {α : Type} (f : α → List Nat) (xs : List α) : List Nat := xs.length :: xs.flatMap f
def putV (v : VWord) : List Nat := [v.toNat % 2 ^ 64, v.toNat / 2 ^ 64]
def getV (xs : List Nat) (k : Nat) : VWord := BitVec.ofNat 128 (xs.getD k 0 + xs.getD (k + 1) 0 * 2 ^ 64)
def nodeCode : NodeState → Nat
  | .waiting => 0
  | .ready => 1
  | .done => 2
  | .failed => 3
  | .skipped => 4
def codeNode : Nat → NodeState
  | 0 => .waiting
  | 1 => .ready
  | 2 => .done
  | 3 => .failed
  | _ => .skipped
def putNode (p : Node × NodeRun) : List Nat :=
  (List.range 16).map (qd p.1.q) ++ [p.1.tid.toNat, nodeCode p.2.st, p.2.undisp, p.2.live] ++ putList (fun n => [n]) p.1.succ
def getNode : Parse (Node × NodeRun) := fun xs =>
  match grab 20 xs with
  | none => none
  | some (a, ys) =>
    (parseList (fun zs => (grab 1 zs).map (fun r => (r.1.getD 0 0, r.2))) ys).map (fun r =>
      (({ q := (a.take 16).map (BitVec.ofNat 64), succ := r.1, tid := BitVec.ofNat 32 (a.getD 16 0) },
        { st := codeNode (a.getD 17 0), undisp := a.getD 18 0, live := a.getD 19 0 }), r.2))
def putFirst : Option FailRep → List Nat
  | none => [0, 0, 0, 0, 0, 0, 0, 0]
  | some f => [1, f.stidx, f.lslot, f.lcore, f.fcode, f.fpc.toNat, f.faddr.toNat, f.tid.toNat]
def getFirst (a : List Nat) : Option FailRep :=
  if a.getD 0 0 = 0 then none
  else some { stidx := a.getD 1 0, lslot := a.getD 2 0, lcore := a.getD 3 0, fcode := a.getD 4 0, fpc := BitVec.ofNat 48 (a.getD 5 0)
              faddr := BitVec.ofNat 48 (a.getD 6 0), tid := BitVec.ofNat 32 (a.getD 7 0) }
def putLaunch (x : Launch) : List Nat :=
  [x.id, x.r.wq, (match x.r.fn with | some f => f + 1 | none => 0), x.tasks, x.fails, x.drops] ++ putFirst x.first ++ (List.range 16).map (qd x.r.q) ++
  putList putNode (x.r.nodes.zip x.runs)
def getLaunch (o : Nat) : Parse Launch := fun xs =>
  match grab 30 xs with
  | none => none
  | some (a, ys) =>
    (parseList getNode ys).map (fun r =>
      ({ id := a.getD 0 0
         r := { q := ((a.drop 14).take 16).map (BitVec.ofNat 64), nodes := r.1.map (·.1), wq := a.getD 1 0
                fn := if a.getD 2 0 = 0 then none else some (a.getD 2 0 - 1), o := o }
         runs := r.1.map (·.2), tasks := a.getD 3 0, fails := a.getD 4 0, drops := a.getD 5 0, first := getFirst (a.drop 6) }, r.2))
/-- A stepped packet: what R201 lets it carry. -/
def putPacket (k : Packet) : List Nat :=
  let t := k.t
  [t.pl.l, t.pl.c, t.task.launch, t.task.node, t.task.prio, t.pc.toNat, t.pw.toNat, t.tid.toNat, t.fcsr.toNat, t.trapb.toNat, t.taskb.toNat, t.frzc.toNat,
   t.step.toNat, t.qpos.toNat, t.thresh.toNat] ++ (t.s.toList.take 8).map (·.toNat) ++ (t.v.toList.take 2).flatMap putV ++
  (match t.barRec with | some (n, g) => [1, n, g] | none => [0, 0, 0])
def getPacket (o : Nat) : Parse Packet := fun xs =>
  (grab 30 xs).map (fun r =>
    let a := r.1
    let n (k : Nat) : Nat := a.getD k 0
    let t : Thread :=
      { pl := ⟨o, n 0, n 1 % 128⟩, task := { launch := n 2, node := n 3, prio := n 4 }, pc := BitVec.ofNat 48 (n 5), pw := BitVec.ofNat 8 (n 6) ||| 0x80
        tid := BitVec.ofNat 32 (n 7), fcsr := BitVec.ofNat 64 (n 8), trapb := BitVec.ofNat 48 (n 9), taskb := BitVec.ofNat 64 (n 10)
        frzc := BitVec.ofNat 64 (n 11), step := BitVec.ofNat 64 (n 12), qpos := BitVec.ofNat 16 (n 13), thresh := BitVec.ofNat 8 (n 14)
        s := Vector.ofFn (fun (k : Fin 16) => if k.val < 8 then BitVec.ofNat 64 (n (15 + k.val)) else 0)
        v := Vector.ofFn (fun (k : Fin 16) => if k.val < 2 then getV a (23 + 2 * k.val) else 0)
        barRec := if n 27 = 0 then none else some (n 28, n 29) }
    ({ id := 0, stage := .stepped, t := t }, r.2))
def putInbox (b : Inbox) : List Nat := [b.tid.toNat, b.launch] ++ putList putV b.msgs
def getInbox (o : Nat) : Parse Inbox := fun xs =>
  match grab 2 xs with
  | none => none
  | some (a, ys) =>
    (parseList (fun zs => (grab 2 zs).map (fun r => (getV r.1 0, r.2))) ys).map (fun r =>
      ({ o := o, tid := BitVec.ofNat 32 (a.getD 0 0), launch := a.getD 1 0, msgs := r.1 }, r.2))
def putGraph (g : GraphPos) : List Nat := putList putLaunch g.launches ++ putList putPacket g.packets ++ putList putInbox g.inboxes ++ [g.maxTid.toNat]
def getGraph (o : Nat) (num : BitVec 32) (xs : List Nat) : Option GraphPos :=
  match parseList (getLaunch o) xs with
  | none => none
  | some (ls, ys) =>
    match parseList (getPacket o) ys with
    | none => none
    | some (ps, zs) =>
      match parseList (getInbox o) zs with
      | none => none
      | some (bs, ws) => some { num := num, launches := ls, packets := ps, inboxes := bs, maxTid := BitVec.ofNat 32 (ws.getD 0 0) }
/-- The graph positions of an owner at a step stop. -/
def graphPos (s : State) (o : Nat) : GraphPos :=
  { num := (s.owner o).num, launches := s.graph.launches.filter (fun x => x.r.o == o)
    packets := s.graph.packets.filter (fun k => k.t.pl.o == o && k.stage == .stepped), inboxes := s.graph.inboxes.filter (fun b => b.o == o)
    maxTid := (s.owner o).nextTid - 1 }

/-! ### The image area (R415) -/

def ceil4k (n : Nat) : Nat := (n + 4095) / 4096 * 4096
/-- The bytes that a shard takes in an image: its data, its poison bits, and for KIND 0 its F bits. -/
def shardBytes (e : Shard) : Nat := e.size + (e.size / 128 + 7) / 8 + (if e.kind = 0 then e.size / 64 else 0)
/-- Data offsets of the shards in turn, and the offset after them. -/
def layout : Nat → List Shard → List Nat × Nat
  | a, [] => ([], a)
  | a, e :: es => let r := layout (ceil4k (a + shardBytes e)) es; (a :: r.1, r.2)
/-- Eight bits as bytes, the lowest first. -/
def packBits : Nat → List Bool → List Byte
  | 0, _ => []
  | n + 1, bs => BitVec.ofNat 8 (((bs.take 8).zip [1, 2, 4, 8, 16, 32, 64, 128]).foldl (fun a x => a + (if x.1 then x.2 else 0)) 0) :: packBits n (bs.drop 8)
def areaBase (s : State) : Nat := bits s.regs.sldst.toNat 47 12 * 4096
def areaSize (s : State) : Nat := bits s.regs.sldst.toNat 63 48 * 2 ^ 20
def imageKey (s : State) (o : Nat) : Option (BitVec 512) := (s.trust.keys.find? (fun k => k.1 == dkey (s.owner o).cfg.toNat)).map (·.2)
/-- The tweak of an image sector (R415). -/
def imageTweak (o sector : Nat) : Nat := o * 2 ^ 64 + 2 ^ 69 + sector % 2 ^ 48
/-- The data of a shard as it stands in the machine. -/
def shardImage (s : State) (o : Nat) (e : Shard) : List Byte :=
  let at_ (i : Nat) : Nat := (s.shardKey o e i).getD 0
  (List.range e.size).map (fun i => s.mem.getB (at_ i)) ++
  packBits ((e.size / 128 + 7) / 8) ((List.range (e.size / 128)).map (fun i => s.poisonedKey (at_ (128 * i)))) ++
  (if e.kind = 0 then packBits (e.size / 64) ((List.range (e.size / 8)).map (fun i => s.mem.f (at_ (8 * i)))) else [])
def padTo (n : Nat) (bs : List Byte) : List Byte := bs ++ List.replicate (n - bs.length) 0
/-- Writes bytes of an image from an offset on, a sector at a time; all after the header is encrypted. -/
def imageWrite (s : State) (o : Nat) (key : BitVec 512) (base : Nat) : Nat → Nat → List Byte → State
  | 0, _, _ => s
  | n + 1, off, bs =>
    let x := bs.take 128
    let y := if off < 4096 then x else xtsEnc key (imageTweak o (off / 128)) x
    imageWrite (s.unitWrite (.dram 0 (base + off) .cacheable) y) o key base n (off + 128) (bs.drop 128)
/-- The plain bytes of n sectors of an image from an offset on. -/
def imageRead (s : State) (o : Nat) (key : BitVec 512) (base : Nat) : Nat → Nat → List Byte
  | 0, _ => []
  | n + 1, off =>
    let x := s.platRead (base + off) 128
    (if off < 4096 then x else xtsDec key (imageTweak o (off / 128)) x) ++ imageRead s o key base n (off + 128)
/-- The commit offset of a valid header at the base of the area. -/
def headerC (s : State) : Option Nat :=
  let c := s.platNat (s.areaBase + 48) 8
  if s.platNat s.areaBase 8 = 0x54414C53 && c % 4096 == 0 && decide (c + 4096 ≤ s.areaSize) then some c else none
def zero4k (s : State) (a : Nat) : State :=
  (List.range 32).foldl (fun (s : State) i => s.unitWrite (.dram 0 (a + 128 * i) .cacheable) (List.replicate 128 0)) s
/-- The header, the table, the shards and the graph section of an image: its plain bytes before the commit record (R415). -/
def imageBody (s : State) (o : Nat) (es : List Shard) : List Byte :=
  let lay := layout (ceil4k (4096 + 64 * es.length)) es
  let g := quadBytes ((putGraph (s.graphPos o)).map (BitVec.ofNat 64))
  let c := ceil4k (lay.2 + g.length)
  let hdr := quadBytes ([0x54414C53, o + (s.owner o).num.toNat * 2 ^ 32, bits s.regs.ixcfg.toNat 7 0 + bits (s.owner o).stepcfg.toNat 15 0 * 2 ^ 16,
    es.length, lay.2, g.length, c].map (BitVec.ofNat 64))
  let tab := (es.zip lay.1).flatMap (fun x => quadBytes (x.1.q.take 7) ++ leBytes 8 x.2)
  let body := es.foldl (fun (b : List Byte) e => padTo (ceil4k (b.length + shardBytes e)) (b ++ s.shardImage o e)) (padTo (ceil4k (4096 + 64 * es.length)) (padTo 4096 hdr ++ tab))
  padTo c (body ++ g)

/-! ### Slate commands (R414 to R418). slateOp: 0 idle, 1 and 2 a command to be checked, 3 and 4 an image write after its steps 1 and 2, 100 + code its end -/

def slateEnd (s : State) (code : Nat) : State := s.modTrust (fun t => { t with slateOp := 100 + code })
/-- The checks of an image write, and step 1 (R414, R416). -/
def imageStart (s : State) (o : Nat) : State :=
  if !(s.owner o).held then s.slateEnd 1
  else if (s.imageKey o).isNone then s.slateEnd 5
  else match s.manifest o with
    | none => s.slateEnd 2
    | some es =>
      if s.areaSize < (s.imageBody o es).length + 4096 then s.slateEnd 3
      else
        let s := match s.headerC with | some c => s.zero4k (s.areaBase + c) | none => s
        (s.zero4k (s.areaBase + s.areaSize - 4096)).modTrust (fun t => { t with slateOp := 3 })
/-- Step 2: header, table, shards and graph section (R416). -/
def imageFill (s : State) (o : Nat) : State :=
  match s.manifest o, s.imageKey o with
  | none, _ => s.slateEnd 2
  | _, none => s.slateEnd 5
  | some es, some key =>
    let b := s.imageBody o es
    if s.areaSize < b.length + 4096 then s.slateEnd 3
    else
      let s := es.foldl (fun (s : State) e => (List.range (e.size / 128)).foldl (fun (s : State) i => s.chargeMem false (s.shardLoc o e (128 * i))) s) s
      (s.imageWrite o key s.areaBase (b.length / 128) 0 b).modTrust (fun t => { t with slateOp := 4 })
/-- The plain bytes of a commit record. -/
def commitRec (s : State) (o c : Nat) (body : List Byte) : List Byte :=
  let head := padTo 64 (quadBytes ([0x544D4D43, (s.owner o).num.toNat, c].map (BitVec.ofNat 64))) ++ leBytes 64 (shake256 body).toNat
  padTo 4096 (head ++ s.aliasSign head)
/-- Step 3: the commit record (R416). -/
def imageCommit (s : State) (o : Nat) : State :=
  match s.headerC, s.imageKey o with
  | some c, some key =>
    let body := s.imageRead o key s.areaBase (c / 128) 0
    (s.imageWrite o key s.areaBase 32 c (s.commitRec o c body)).slateEnd 0
  | _, _ => s.slateEnd 5

/-! ### Restore (R417) -/

/-- The public key that verifies an image (R430). -/
def slateKey (s : State) : List Byte :=
  if s.regs.slvk.toNat = 0 then aliasPublic s.trust.payload else s.platRead s.regs.slvk.toNat 1952
/-- The plain bytes of the image that stands in the area, when its commit record verifies and its header names the owner (R414, code 4). -/
def verified (s : State) (o : Nat) (key : BitVec 512) : Option (List Byte) :=
  match s.headerC with
  | none => none
  | some c =>
    if (List.range (c / 128 + 32)).any (fun i => s.platPoisoned (s.areaBase + 128 * i)) then none
    else
      let b := s.imageRead o key s.areaBase (c / 128) 0
      let r := s.imageRead o key s.areaBase 32 c
      let q (n : Nat) (l : List Byte) : Nat := leNat ((l.drop (8 * n)).take 8)
      if q 0 r = 0x544D4D43 && q 2 r == c && q 1 r == q 1 b / 2 ^ 32 && leBytes 64 (shake256 b).toNat == (r.drop 64).take 64 && q 1 b % 16 == o &&
          verifies s.slateKey (r.take 128) ((r.drop 128).take 3309) then some b else none
def quadAt (b : List Byte) (a : Nat) : Nat := leNat ((b.drop a).take 8)
/-- The shard table of an image. -/
def imageTable (b : List Byte) : List Shard := (List.range (quadAt b 24)).map (fun k => ⟨quadsOf 8 (b.drop (4096 + 64 * k))⟩)
def bitAt (b : List Byte) (a i : Nat) : Bool := bit (b.getD (a + i / 8) 0).toNat (i % 8)
/-- The first source shard that holds an element (R417). -/
def sourceOf (tab : List Shard) (e : Shard) (r c : Nat) : Option Shard :=
  tab.find? (fun x => x.arr == e.arr && decide (x.row0 ≤ r) && decide (r < x.row0 + x.nrows) && decide (x.col0 ≤ c) && decide (c < x.col0 + x.ncols))
/-- A byte to write: its offset in the target shard, its value, the poison of its source sector, the F bit of its source doubleword. -/
structure SByte where
  i : Nat
  b : Byte
  p : Bool
  f : Bool
deriving DecidableEq, Repr
/-- The bytes of one element, in ascending offset. -/
def elemBytes (img : List Byte) (e x : Shard) (r c : Nat) : List SByte :=
  (List.range e.esize).map (fun n =>
    let i := (r - x.row0) * x.pitch + (c - x.col0) * x.esize + n
    { i := (r - e.row0) * e.pitch + (c - e.col0) * e.esize + n, b := img.getD (x.data + i) 0, p := bitAt img (x.data + x.size) (i / 128)
      f := x.kind == 0 && bitAt img (x.data + x.size + (x.size / 128 + 7) / 8) (i / 8) })
def elems (e : Shard) : List (Nat × Nat) := (List.range e.nrows).flatMap (fun r => (List.range e.ncols).map (fun c => (e.row0 + r, e.col0 + c)))
/-- One target shard is written (R417, step 4); a restore's own writes are charged to owner 0 (R454). -/
def restoreShard (s : State) (o : Nat) (img : List Byte) (tab : List Shard) (e : Shard) : State :=
  let bs := (elems e).flatMap (fun x => match sourceOf tab e x.1 x.2 with | some y => elemBytes img e y x.1 x.2 | none => [])
  let at_ (i : Nat) : Nat := (s.shardKey o e i).getD 0
  let sectors := (bs.map (fun (x : SByte) => x.i / 128)).eraseDups
  let s := if e.kind = 0 then sectors.foldl (fun (s : State) k => (s.charge 0 5 128).invalL1 (at_ (128 * k) / 128) none) s else s
  let s := bs.foldl (fun (s : State) x => let k := at_ x.i; if s.lostKey k && (s.micaHas k).isNone then s else s.modMem (fun m => m.setB k x.b)) s
  let s := sectors.foldl (fun (s : State) k =>
    let mine := bs.filter (fun x => x.i / 128 == k)
    if mine.any (·.p) then s.markPoison (at_ (128 * k)) true
    else if mine.length = 128 then s.markPoison (at_ (128 * k)) false else s) s
  if e.kind = 0 then
    ((bs.map (fun (x : SByte) => x.i / 8)).eraseDups).foldl (fun (s : State) k =>
      match bs.find? (fun x => x.i / 8 == k) with
      | some x => s.modMem (fun m => m.setF (at_ (8 * k)) x.f)
      | none => s) s
  else s
/-- The launches and stepped packets that the owner held before the restore go (R417, step 5). -/
def dropGraph (s : State) (o : Nat) : State :=
  let s := (s.graph.inboxes.filter (fun b => b.o == o)).foldl (fun (s : State) b => s.chargeDrop b.launch b.msgs.length) s
  let s := s.modGraph (fun g => { g with packets := g.packets.filter (fun k => !(k.t.pl.o == o && k.stage == .stepped)), inboxes := g.inboxes.filter (fun b => b.o != o) })
  (s.graph.launches.filter (fun x => x.r.o == o)).foldl (fun (s : State) x => s.completeLaunch x 4) s
/-- A restored inbox takes a free place of its owner's area, and its messages the first entries there, encrypted as every message is (R295, R310, R417). -/
def restoreInbox (s : State) (x : Inbox) : State :=
  let b : Inbox := { x with k := s.inboxPlace x.o, count := x.msgs.length }
  let s := (List.range x.msgs.length).foldl (fun (s : State) i => (s.drawn.charge 0 5 128).platWrite (s.inboxAt { b with count := i }) (leBytes 16 s.free.toNat)) s
  s.modGraph (fun h => { h with inboxes := h.inboxes ++ [b] })
/-- The graph positions of an image take their place, under fresh names. -/
def putGraphPos (s : State) (o : Nat) (g : GraphPos) : State :=
  let base := s.newId
  let ids := g.launches.map (·.id)
  let re (l : Nat) : Nat := base + (ids.idxOf l)
  let b2 := base + ids.length
  let ps := (List.range g.packets.length).zip g.packets
  let s := { s with clk := { s.clk with id := b2 + 2 * ps.length } }
  let s := (s.modGraph (fun h =>
    { h with launches := h.launches ++ g.launches.map (fun (x : Launch) => { x with id := re x.id })
             packets := h.packets ++ ps.map (fun (p : Nat × Packet) => { p.2 with id := b2 + 2 * p.1, t := { p.2.t with uid := b2 + 2 * p.1 + 1, task := { p.2.t.task with launch := re p.2.t.task.launch } } }) }))
  let s := g.inboxes.foldl (fun (s : State) (x : Inbox) => s.restoreInbox { x with launch := re x.launch }) s
  s.modOwner o (fun x =>
    { x with num := g.num, held := true, stepped := true, launched := true, nextTid := if g.maxTid + 1 = 0 then 1 else g.maxTid + 1 })
/-- What no image holds is as at enable (R412): the lines of the owner in Mica are written back and leave, and pushes of its ended launches find no queue. -/
def asEnabled (s : State) (o : Nat) : State :=
  let s := (s.slices.flatMap (fun x => x.lines.filter (fun c => c.o == o))).foldl (fun (s : State) c => s.evictLine c) s
  let clr (e : Engine) : Engine := if e.tag = some o then { e with a0 := {}, a1 := {} } else e
  let scratch (k : Nat) : Bool :=
    (decide (scrKey ⟨o, 0, 0⟩ 0 ≤ 1024 * k) && decide (1024 * k < scrKey ⟨o + 1, 0, 0⟩ 0)) ||
    (s.owner o).desc.mica.any (fun n => decide (sliceKey n 0 ≤ 1024 * k) && decide (1024 * k < sliceKey (n + 1) 0))
  { (s.modMem (fun m => { m with tags := m.tags.filter (fun t => !scratch t.1) })).modRot (fun r =>
      { r with spilled := r.spilled.filter (fun x => x.1 != o) }) with
    net := s.net.filter (fun (r : Req) => !(r.uid == 0 && (match r.kind, r.loc with | .push _ _, .scr p _ => p.o == o | _, _ => false)))
    engines := s.engines.map clr, cores := s.cores.filter (fun (c : Core) => c.pl.o != o), tlb := s.tlb.filter (fun (t : Tlb) => t.o != o), wcache := s.wcache.filter (fun (w : WEnt) => w.o != o)
    l1 := s.l1.filter (fun (x : L1Line) => x.o != o) }
/-- A restore (R414, R417). -/
def restore (s : State) (o : Nat) : State :=
  if !(s.owner o).held && (!s.enabled o || (s.owner o).launched) then s.slateEnd 1
  else match s.imageKey o with
    | none => s.slateEnd 5
    | some key =>
      match s.verified o key with
      | none => s.slateEnd 4
      | some img =>
        match getGraph o (BitVec.ofNat 32 (quadAt img 8 / 2 ^ 32)) ((quadsOf (quadAt img 40 / 8) (img.drop (quadAt img 32))).map (·.toNat)) with
        | none => s.slateEnd 4
        | some g =>
          match s.manifest o with
          | none => s.slateEnd 2
          | some es =>
            let tab := imageTable img
            if es.any (fun e => (elems e).any (fun x => (sourceOf tab e x.1 x.2).isNone)) || g.packets.any (fun k => decide (s.nslot o ≤ k.t.pl.l)) then s.slateEnd 6
            else
              let s := es.foldl (fun (s : State) e => s.restoreShard o img tab e) s
              (((s.dropGraph o).asEnabled o).putGraphPos o g).slateEnd 0

/-! ### Page pulls (R419, R420) -/

def pullEn (s : State) (o : Nat) : Bool := bit (s.owner o).pullcfg.toNat 63
def pullEntry (s : State) (o : Nat) : Nat := bits (s.owner o).pullcfg.toNat 51 48
def pullMap (s : State) (o : Nat) : Nat := bits (s.owner o).pullcfg.toNat 47 12 * 4096
/-- The 64 KiB pages of an owner's DRAM whose bit is 1. -/
def pullLeft (s : State) (o : Nat) : List Nat := (List.range (s.dramSize o / 65536)).filter (fun p => bit (s.platNat (s.pullMap o + p / 8) 1) (p % 8))
def readPullst (s : State) (o : Nat) : Word := BitVec.ofNat 64 ((if (s.owner o).pullFailed then 2 ^ 63 else 0) + (s.pullLeft o).length % 2 ^ 32)
def pullFlying (s : State) (o page : Nat) : Bool := s.trust.pulls.any (fun x => x.o == o && x.page == page)
/-- The page's bit is cleared, and the last one posts event 0x2C. -/
def pullClear (s : State) (o page : Nat) : State :=
  let a := s.pullMap o + page / 8
  let s := s.modTrust (fun t => { t with pulls := t.pulls.filter (fun x => !(x.o == o && x.page == page)) })
  let s := s.platWrite a [BitVec.ofNat 8 (s.platNat a 1 - (if bit (s.platNat a 1) (page % 8) then 2 ^ (page % 8) else 0))]
  if (s.pullLeft o).isEmpty then s.raiseEv { ty := 0x2C, o := o, src := 4 } else s
/-- The Ixnar port holds tokens and pull traffic in arrival order while a pause lasts, and what finds others held (R318, R321). -/
def ixHolds (s : State) : Bool := s.rot.pause.isSome || !s.host.ixHeld.isEmpty
def holdIx (s : State) (x : IxIn) : State := s.modHost (fun h => { h with ixHeld := h.ixHeld ++ [x] })
/-- The page that an access waits for. -/
def onPage (o page : Nat) : Loc → Bool
  | .dram x p _ => x == o && p / 65536 == page
  | _ => false
/-- A request that waited for a page whose pull failed, in the order of the waiters, so that a load behind a store of its own meets the failure too (R420). -/
def pullMeet (s : State) (r : Req) : State :=
  let flt := reqFault r 0x0B 0
  match r.kind with
  | .load _ _ _ | .amo _ _ _ _ | .ldfe | .ldff | .lrw | .spawn _ _ => s.answer r 0 flt
  | .region ws => (ws.foldl (fun (s : State) w => match w.load with | some (_, id) => s.finishOp r.uid id 0 0 none | none => s) s).answer r 0 flt
  | .red op n x => ((s.homeWrite (s.writer r) r.loc (leBytes n (redVal op n (leNat (s.mem.read (s.locKey r.loc) n)) (x.toNat % 2 ^ (8 * n))))).redDone r none)
  | .redF x => ((s.homeWrite (s.writer r) r.loc (leBytes 4 (faddVal (leNat (s.mem.read (s.locKey r.loc) 4)) x.toNat))).redDone r none)
  | .store bs => s.storePerform r bs
  | .stfe _ | .stf _ | .feClr | .scq _ | .rsvRel => s.syncArrive r
  | _ => s
/-- A copy that waits for the page, with the unit it would send or with a write that stands out, ends at that unit with code 0x0B. -/
def pullCopies (s : State) (o page : Nat) : State :=
  let waits (p : Place) (m : Copy) : Bool :=
    (match m.srcAt m.unit with | some a => (match s.sourceLoc p a with | .ok l => onPage o page l | .error _ => false) | none => false) ||
    (match s.shadowLoc p m.shadow (m.dstAt m.unit) with | .ok x => onPage o page x.1 | .error _ => false)
  let stands (p : Place) (m : Copy) (w : CWrite) : Bool := match s.writeAt p m w with | .ok (l, _) => onPage o page l | .error _ => false
  (s.cores.filter (fun c => c.pl.o == o)).foldl (fun (s : State) c =>
    match s.copyHead c.pl with
    | some m =>
      let m1 := if m.begun && !m.finished && waits c.pl m then failUnit m m.unit (0x0B, 0) else m
      s.setCopy c.pl ((m.wq.filter (stands c.pl m)).foldl (fun (a : Copy) w => failUnit a w.n (0x0B, 0)) m1)
    | none => s) s
/-- The writes of readouts that wait for the page are not made, and their commands report code 0x0B. -/
def pullCmds (s : State) (o page : Nat) : State :=
  let waits (c : Cmd) (w : PWrite) : Bool :=
    match s.shadowLoc c.pl c.shadow (BitVec.ofNat 48 w.a) with | .ok (l, _) => onPage o page l | .error _ => false
  { s with cmds := s.cmds.map (fun (c : Cmd) => if c.pl.o = o then
      (c.wq.filter (waits c)).foldl (fun (d : Cmd) w => Cmd.noteFail d w 0x0B 0) { c with wq := c.wq.filter (fun w => !waits c w) } else c) }
/-- An install that waits for a page of its source ends with code 0x0B. -/
def pullInstalls (s : State) (o page : Nat) : State :=
  s.modFlash (fun f => { f with installs := f.installs.map (fun (x : Install) =>
    if x.o = o && x.st == .programming && x.code == 0 && (match s.installSrc x (16384 * x.pages) with | some l => onPage o page l | none => false) then { x with code := 0x0B } else x) })
/-- A pull fails: the page is zeroed and poisoned, and what waited for it meets R420. -/
def pullFail (s : State) (o page : Nat) : State :=
  let s := ((s.pullCopies o page).pullCmds o page).pullInstalls o page
  let held := s.net.filter (fun r => onPage o page r.loc)
  let keys := (List.range 512).map (fun i => s.dramKey o (65536 * page + 128 * i))
  let s := keys.foldl (fun (s : State) k => if s.lostKey k && (s.micaHas k).isNone then s else (s.modMem (fun m => m.write k (List.replicate 128 0))).markPoison k true) s
  let s := ((s.modOwner o (fun x => { x with pullFailed := true })).raiseEv { ty := 0x2B, o := o, data := BitVec.ofNat 64 page, src := 4 }).pullClear o page
  held.foldl (fun (s : State) r => match s.req? r.id with | some r => if s.mayPerform r then s.pullMeet r else s | none => s) s
/-- A pull of a page begins: a request to the source over the link of R375 for its page, or a failure when no link is up. -/
def pullStart (s : State) (o page : Nat) : State :=
  let dev := s.peerDev o (s.pullEntry o)
  if (s.usable dev).isEmpty then s.pullFail o page
  else (s.modTrust (fun t => { t with pulls := t.pulls ++ [{ o := o, page := page, start := s.q }] })).send
    (.pullReq (linkFor (s.usable dev) page) dev (s.peerRown o (s.pullEntry o)) page)

/-- A ready token arrives, and may complete the owner's global stop (R410). -/
def tokenArrives (s : State) (o dev num : Nat) : State := (s.modOwner o (fun x => { x with tokens := x.tokens ++ [(dev, num)] })).globalStop o

end State

/-- STEP (R408): a thread with a reservation or in a handler may not step; otherwise it departs as a migrating thread does. -/
def execStep (s : State) : Res :=
  if s.me.resv != .none || s.me.fcode != 0 then .next (s.raise 2 6 s.iss.b) else .next (s.parkAfter .step)
/-- LOCAL_STOP (R409, R410): at a beat boundary. -/
def execLocalStop (o : Nat) (s : State) : Res := if s.q % 8 == 0 && s.stopReady (o % 16) then .next (s.localStop (o % 16)) else .next s
/-- STEP_READY_TOKEN (R410): the Ixnar port holds one that arrives in a pause (R318, R321). -/
def execStepReadyToken (o dev num : Nat) (s : State) : Res :=
  .next (if s.ixHolds then s.holdIx (.token o dev num) else s.tokenArrives o dev num)
/-- STEP_RESUME (R411). -/
def execStepResume (o : Nat) (s : State) : Res := .next (s.stepResume o)
/-- SLATE_WRITE_IMAGE (R416): the next step of an image write; a pause holds it (R418). -/
def execSlateWriteImage (s : State) : Res :=
  if s.rot.pause.isSome then .next s
  else
    match s.trust.slateOp with
    | 1 => .next (s.imageStart s.trust.slateOwner)
    | 3 => .next (s.imageFill s.trust.slateOwner)
    | 4 => .next (s.imageCommit s.trust.slateOwner)
    | _ => .next s
/-- SLATE_RESTORE (R417, R418). -/
def execSlateRestore (s : State) : Res :=
  if s.rot.pause.isSome || s.trust.slateOp != 2 then .next s else .next (s.restore s.trust.slateOwner)
/-- SLATE_COMMAND_END (R414). -/
def execSlateCommandEnd (code : Nat) (s : State) : Res :=
  if s.trust.slateOp = 100 + code && !s.rot.pause.isSome then
    .next (((s.modTrust (fun t => { t with slateOp := 0 })).modRegs (fun r => { r with slcmd := BitVec.ofNat 64 (code % 256 * 256 + bits r.slcmd.toNat 7 4 * 16) })).raiseEv
      { ty := 0x2A, o := s.trust.slateOwner, data := BitVec.ofNat 64 code, src := 3 })
  else .next s

end Sys2Proof.Machine
end

