-- ==== Sys2Proof/Machine/Trust.lean ====
section
/-! DEFINITION. Trust: freezes as they start, the metering chain, teardown, power-on reset, boot, recovery and the management port
(R313, R423 to R446). -/

namespace Sys2Proof.Machine

namespace State

/-! ### The metering chain (R434 to R437) -/

/-- Bytes 0 to 255 of a record (R435). -/
def recHead (r : MRec) : List Byte :=
  padTo 192 (quadBytes ([BitVec.ofNat 64 0x5254454D, BitVec.ofNat 64 (r.o + (if r.final then 256 else 0) + (if r.lost then 512 else 0) + r.oseq * 2 ^ 32),
    BitVec.ofNat 64 r.q, BitVec.ofNat 64 r.dev] ++ r.ctr.toList)) ++ leBytes 64 r.prev.toNat
def meterCount (s : State) : Nat := bits s.regs.metring.toNat 11 0
def meterTail (s : State) : Nat := bits s.regs.metptr.toNat 11 0
def meterHead (s : State) : Nat := bits s.regs.metptr.toNat 27 16
/-- The ring has room for one more record (R437). -/
def meterRoom (s : State) : Bool := s.meterCount != 0 && (s.meterTail + 1) % s.meterCount != s.meterHead
/-- Records that wait on a full ring, or with no ring, post event 0x30 once, until all have been written (R437). -/
def ringNotice (s : State) : State :=
  if s.meterRoom || s.trust.ringFull then s
  else (s.modTrust (fun t => { t with ringFull := true })).raiseEv { ty := 0x30, src := 5 }
/-- A record is produced: the chain head moves before the record is written, and it waits in Obsidian (R436, R437). -/
def produce (s : State) (o : Nat) (final lost : Bool) : State :=
  let h := s.trust.heads.find? (fun h => h.1 == o)
  let r : MRec := { o := o, oseq := (match h with | some h => h.2.1 + 1 | none => 0), final := final, lost := lost, q := s.q, dev := bits s.regs.ixcfg.toNat 7 0
                    payload := s.trust.payload, ctr := if lost then Vector.replicate 14 0 else (s.owner o).meter, prev := (match h with | some h => h.2.2 | none => 0) }
  let s := s.modTrust (fun t => { t with heads := t.heads.filter (fun h => h.1 != o) ++ [(o, r.oseq, shake256 (recHead r))], waiting := t.waiting ++ [r] })
  s.ringNotice
/-- The bytes of a record, signed under the alias key (R435). -/
def recBytes (r : MRec) : List Byte :=
  let h := recHead r
  padTo 4096 (h ++ signFor (aliasPublic r.payload) h)
/-- The record that waits first is written into the ring (R437). -/
def writeRec (s : State) : State :=
  match s.trust.waiting with
  | [] => s
  | r :: rs =>
    let bs := recBytes r
    let a := bits s.regs.metring.toNat 47 12 * 4096 + 4096 * s.meterTail
    let s := (List.range 32).foldl (fun (s : State) i => s.unitWrite (.dram 0 (a + 128 * i) .cacheable) ((bs.drop (128 * i)).take 128)) s
    let tl := (s.meterTail + 1) % max 1 s.meterCount
    let s := (s.modRegs (fun m => { m with metptr := BitVec.ofNat 64 (bits m.metptr.toNat 27 16 * 2 ^ 16 + tl) })).modTrust (fun t =>
      { t with waiting := rs, ringFull := t.ringFull && !rs.isEmpty })
    if rs.isEmpty then s else s.ringNotice

/-! ### Teardown (R438 to R442, R446) -/

/-- SCRUBPROG. -/
def setProg (s : State) (busy : Bool) (o stage total done : Nat) : State :=
  s.modRegs (fun r => { r with scrubprog := BitVec.ofNat 64 ((if busy then 2 ^ 63 else 0) + o * 2 ^ 59 + stage * 2 ^ 56 + total % 2 ^ 24 * 2 ^ 32 + done % 2 ^ 24) })
def progBusy (s : State) : Bool := bit s.regs.scrubprog.toNat 63
def progOwner (s : State) : Nat := bits s.regs.scrubprog.toNat 62 59
def progStage (s : State) : Nat := bits s.regs.scrubprog.toNat 58 56
def progTotal (s : State) : Nat := bits s.regs.scrubprog.toNat 55 32
/-- The areas of an owner in platform memory: base and bytes, from SAVT, SPLT and INBT (R203, R295, R329). -/
def areasOf (s : State) (o : Nat) : List (Nat × Nat) :=
  let at_ (t : Word) (unit : Nat) : Nat × Nat := (s.platNat (t.toNat + 16 * o) 8 % 2 ^ 48, s.platNat (t.toNat + 16 * o + 8) 4 * unit)
  [at_ s.regs.savt (2 ^ 20), at_ s.regs.splt 256, at_ s.regs.inbt 512]
def areaUnits (as : List (Nat × Nat)) : Nat := as.foldl (fun n a => n + (a.2 + 65535) / 65536) 0
/-- The platform address of a byte of a column stack (R333). -/
def platOf (s : State) (key : Nat) : Option Nat :=
  let d := (s.owner 0).desc.dram
  let i := d.idxOf (key / 2 ^ 27)
  if key < 2 ^ 37 && decide (i < d.length) then some ((key % 2 ^ 27 / 1024 * d.length + i) * 1024 + key % 1024) else none
/-- Zeros are written over a range of platform memory; hosts and peers read them at once (R442). -/
def clearPlat (s : State) (a n : Nat) : State :=
  let inn (k : Nat) : Bool := match s.platOf k with | some p => decide (a ≤ p) && decide (p < a + n) | none => false
  let whole (k : Nat) : Bool := inn (128 * k) && inn (128 * k + 127)
  { s.modMem (fun m => { m with cells := m.cells.filter (fun c => !inn c.1), poison := m.poison.filter (fun k => !whole k) }) with
    l1 := s.l1.filter (fun (x : L1Line) => !inn (128 * x.line) && !inn (128 * x.line + 127))
    host := { s.host with outer := s.host.outer.filter (fun x => !inn (16 * x.block)) }
    slices := s.slices.map (fun (y : Slice) => { y with lines := y.lines.map (fun (c : MicaLine) => { c with bad := c.bad.filter (fun k => !whole (8 * c.line + k)) }) }) }
/-- The bytes that hosts and peers still read of a range of byte keys go with what is zeroed there (R442). -/
def dropOuter (s : State) (lo n : Nat) : State :=
  s.modHost (fun h => { h with outer := h.outer.filter (fun x => !(decide (lo ≤ 16 * x.block) && decide (16 * x.block < lo + n))) })
def clearStacks (s : State) (d : List Nat) : State :=
  d.foldl (fun (s : State) k => (s.dropOuter (stackKey k 0) (2 ^ 27)).modMem (fun m => { m.clear (stackKey k 0) (2 ^ 27) with
    resv := m.resv.filter (fun x => decide (x.1 < stackKey k 0) || decide (stackKey (k + 1) 0 ≤ x.1)) })) s
def wakeScrub (s : State) (p : Nat → Bool) : State :=
  { s with threads := s.threads.map (fun (t : Thread) => match t.park with | .scrub o => if p o then { t with woken := true } else t | _ => t) }
/-- Stage 1 begins (R439, R441): at a beat boundary the owner is disabled and in scrub, its rows are unbound; its queued records go, its installs and its
Slate command end, its pulls stop. -/
def drainOwner (s : State) (o : Nat) : State :=
  let s := ((s.owner o).causes.filter (· != 0x81)).foldl (fun (s : State) c => s.raiseEv { ty := 1, o := o, cause := c, data := s.clk.quartz, src := 1 }) s
  let s := (s.modOwner o (fun x => { x with cfg := x.cfg &&& 0x7FFFFFFFFFFFFFFF, inScrub := true, frozen := true, freezing := none, causes := [], releasing := false, vcause := 0x81, qz := s.q
                                            pullcfg := x.pullcfg &&& 0x7FFFFFFFFFFFFFFF })).raiseEv { ty := 1, o := o, cause := 0x81, data := s.clk.quartz, src := 1 }
  let s := (s.host.fns.filter (fun f => f.en && f.o == o)).foldl (fun (s : State) f => s.freezeFn f.k 0x81) s
  let s := s.modGraph (fun g => { g with recs := g.recs.filter (fun r => r.o != o) })
  let s := s.modFlash (fun f => { f with installs := f.installs.map (fun (x : Install) => if x.o = o && x.st != .ended && x.st != .requested && x.code == 0 && x.pushed.isNone then { x with code := 8 } else x) })
  let s := s.modTrust (fun t =>
    { t with slateOp := if t.slateOwner = o && t.slateOp != 0 && decide (t.slateOp < 100) then 107 else t.slateOp
             pulls := t.pulls.filter (fun x => x.o != o) })
  s.unbindRows.wakeFrz o
/-- A request that could be performed but for a channel, an entry, or a page that only its owner's own activity could give it (R165, R181, R419). -/
def reqStuck (s : State) (r : Req) : Bool :=
  match r.kind, r.loc with
  | .load n _ _, .scr p off => s.chanCheck p off n == .park
  | .store bs, l => s.chanHolds l bs.length
  | .amo _ n _ _, l => s.chanHolds l n
  | .red _ n _, l => s.chanHolds l n
  | .redF _, l => s.chanHolds l 4
  | .spawn _ _, .scr p off => (p != r.pl && s.chanHolds (.scr p off) 128) || s.spawnWaits r
  | .spawn _ _, _ => s.spawnWaits r
  | .push q _, .scr p _ => !(decide (((s.core p).queue q).length < 16) && (s.heldPush p q).isNone) && !s.entryFree r
  | .ldfe, l | .ldff, l | .stfe _, l => !s.syncCond r.kind (s.locKey l) && !s.entryFree r
  | .lrw, _ => !s.entryFree r
  | _, _ => false
/-- The accepted requests of an owner are complete: the network can perform none more, the writes that its units sent are performed, and its aborted installs and
its Slate command have ended (R439). What waits for a condition that only the owner's own threads could meet does not hold stage 1. -/
def drained (s : State) (o : Nat) : Bool :=
  !s.netHeld && !s.net.any (fun r => r.pl.o == o && r.arrived.isNone && s.mayPerform r && !s.reqStuck r) &&
  !s.cores.any (fun c => c.pl.o == o && c.mbox.any (fun m => !m.wq.isEmpty)) && !s.cmds.any (fun c => c.pl.o == o && !c.wq.isEmpty) &&
  !s.flash.installs.any (fun x => x.o == o && x.st != .requested && x.pushed.isNone && x.st != .ended) &&
  !(s.trust.slateOwner == o && s.trust.slateOp != 0)
/-- Stage 1 ends (R439, R441): each started launch completes with STATUS 4, and the FINAL record is produced; the scrub pause is due (stage 2). -/
def drainEnd (s : State) (o : Nat) : State :=
  let s := s.modGraph (fun g => { g with recs := g.recs.filter (fun r => r.o != o) })
  let s := (s.graph.launches.filter (fun x => x.r.o == o)).foldl (fun (s : State) x => s.completeLaunch x 4) s
  let s := (s.produce o true false).modTrust (fun t =>
    { t with pendings := t.pendings.map (fun p => if p.o = o then { p with final := true } else p), scrubPause := true })
  (s.setProg true o 2 s.progTotal 0).wakeScrub (· == o)
/-- Stage 1 of the teardown in progress ends once its owner is drained. -/
def drainPump (s : State) : State :=
  if s.progBusy && s.progStage == 1 && (s.owner s.progOwner).inScrub && s.drained s.progOwner then s.drainEnd s.progOwner else s
/-- Stage 2 (R439, R442): nothing of the owner is left in the tiles, and no install of it is known. -/
def clearTiles (s : State) (o : Nat) : State :=
  let gone := (s.threads.filter (fun t => t.pl.o == o)).map (·.uid)
  let s := s.modMem (fun m => { m.clear (scrKey ⟨o, 0, 0⟩ 0) (scrKey ⟨o + 1, 0, 0⟩ 0 - scrKey ⟨o, 0, 0⟩ 0) with resv := m.resv.filter (fun x => !gone.contains x.2) })
  let s := s.modRot (fun r => { r with tens := r.tens.filter (fun t => t.o != o), spilled := r.spilled.filter (fun x => x.1 != o)
                                       changes := r.changes.filter (fun c => match c with | .place t => t.o != o | .remove _ _ => true) })
  let s := s.modGraph (fun g =>
    { g with ready := g.ready.filter (fun x => x.o != o), placing := g.placing.filter (fun x => x.o != o), inboxes := g.inboxes.filter (fun x => x.o != o)
             ended := g.ended.filter (fun x => x.1 != o), packets := g.packets.filter (fun x => x.t.pl.o != o), streams := g.streams.filter (fun x => x.o != o) })
  { s with
    threads := s.threads.filter (fun (t : Thread) => t.pl.o != o), net := s.net.filter (fun (r : Req) => r.pl.o != o), sfu := s.sfu.filter (fun (r : SfuReq) => r.pl.o != o)
    walks := s.walks.filter (fun (w : Walk) => w.o != o), tlb := s.tlb.filter (fun (t : Tlb) => t.o != o), wcache := s.wcache.filter (fun (w : WEnt) => w.o != o), cores := s.cores.filter (fun (c : Core) => c.pl.o != o)
    caps := s.caps.filter (fun (c : Cap) => c.o != o), cmds := s.cmds.filter (fun (c : Cmd) => c.pl.o != o)
    engines := s.engines.map (fun (e : Engine) => if e.tag = some o then { e with tag := none, a0 := {}, a1 := {} } else e)
    flash := { s.flash with installs := s.flash.installs.filter (fun x => x.o != o) } }
/-- Stage 3. -/
def clearSlices (s : State) (o : Nat) : State :=
  let d := (s.owner o).desc.mica
  let s := d.foldl (fun (s : State) n =>
    ((s.modMem (fun m => m.clear (sliceKey n 0) (2 ^ 24))).setSlice { s.slice n with ways := 0, size := 0, target := none, lines := (s.slice n).lines.filter (fun c => c.o != o) }).wakeWaypart n) s
  let s := (List.range 8).foldl (fun (s : State) k =>
    { s.modOwner o (fun x => { x with rrange := x.rrange.set (Fin.ofNat 8 k) 0 }) with
      slices := s.slices.map (fun (x : Slice) => { x with ctr := x.ctr.filter (fun c => c.1 != o * 8 + k) }) }) s
  { s.modFlash (fun f => { f with staged := f.staged.filter (fun x => x.o != o) }) with l1 := s.l1.filter (fun (x : L1Line) => x.o != o) }
/-- The doubled units of R446 that are done after stage 3 and after stage 4. -/
def sliceUnits (s : State) (o : Nat) : Nat := 256 * (s.owner o).desc.mica.length
def stackUnits (s : State) (o : Nat) : Nat := 2048 * (s.owner o).desc.dram.length
def progDone (s : State) : Nat := bits s.regs.scrubprog.toNat 23 0
/-- The areas of a teardown, as its pending entry holds them, and their units of at most 64 KiB in turn. -/
def progAreas (s : State) (o : Nat) : List (Nat × Nat) := ((s.trust.pendings.find? (fun p => p.o == o)).map (·.areas)).getD []
def areaChunks (as : List (Nat × Nat)) : List (Nat × Nat) :=
  as.flatMap (fun a => (List.range ((a.2 + 65535) / 65536)).map (fun i => (a.1 + 65536 * i, min 65536 (a.2 - 65536 * i))))
def areaBytes (as : List (Nat × Nat)) : Nat := as.foldl (fun n a => n + a.2) 0
/-- Pumice zeroes the next 64 KiB unit of stage 3, 4 or 5, and DONE rises by one; its Shale writes are charged to owner 0 (R434, R439, R446). -/
def scrubUnit (s : State) : State :=
  let o := s.progOwner
  let d := (s.owner o).desc
  let n := s.progDone
  let a := s.sliceUnits o
  let b := a + s.stackUnits o
  let up (s : State) : State := (s.setProg true o s.progStage s.progTotal (n + 1)).modTrust (fun t => { t with scrubAt := s.q })
  if !s.progBusy then s
  else match s.progStage with
    | 3 => if n < a then up (s.modMem (fun m => m.clear (sliceKey (d.mica.getD (n / 256) 0) (n % 256 * 65536)) 65536)) else s
    | 4 =>
      let lo := stackKey (d.dram.getD ((n - a) / 2048) 0) ((n - a) % 2048 * 65536)
      if n < b then up (((s.dropOuter lo 65536).modMem (fun m => m.clear lo 65536)).charge 0 5 65536) else s
    | 5 => (match (areaChunks (s.progAreas o))[n - b]? with
        | some x => up ((s.clearPlat x.1 x.2).charge 0 5 x.2)
        | none => s)
    | _ => s
/-- The units of the stage in progress that are still to do. -/
def unitsLeft (s : State) : Bool :=
  let o := s.progOwner
  let b := s.sliceUnits o + s.stackUnits o
  match s.progStage with
  | 3 => decide (s.progDone < s.sliceUnits o)
  | 4 => decide (s.progDone < b)
  | 5 => decide (s.progDone - b < (areaChunks (s.progAreas o)).length)
  | _ => false
/-- Pumice goes on outside the pause of stage 2, a unit of 64 KiB in 1,024 cycles at most: a column's bus carries 64 bytes a cycle (R23), and no rule gives stages
3 and 5 a rate of their own (DESIGN CHOICE, log 126). -/
def scrubGoes (s : State) : Bool :=
  s.progBusy && decide (s.trust.scrubAt + 1024 ≤ s.q) && !(match s.rot.pause with | some p => p.tiled | none => false)
/-- Stage 6 (R439, R446): the key slots of the owner are emptied. -/
def scrubKeys (s : State) (o : Nat) : State :=
  ((s.keysNamed o).foldl (fun (s : State) k => s.emptyKey k) s).setProg true o 7 s.progTotal s.progTotal
/-- Stage 7 (R439, R446): the owner's functions are no longer frozen with it (DEDUCED, log 22). -/
def endScrub (s : State) (o : Nat) : State :=
  let s := s.modOwner o (fun x => { x with inScrub := false, frozen := false })
  let s := s.modHost (fun h => { h with fns := h.fns.map (fun (f : Fn) => if f.en && f.o == o then { f with frozen := false } else f) })
  let s := s.modTrust (fun t => { t with pendings := t.pendings.filter (fun p => p.o != o) })
  ((s.setProg false o 7 s.progTotal s.progTotal).raiseEv { ty := 0x32, o := o, src := 6 }).wakeScrub (fun _ => true)

/-! ### Power-on reset (R423) -/

/-- The machine after a reset: what R423 keeps is kept, all else takes its reset value. The bytes of the column stacks stay where power does, under keys that no
longer exist (R310), so that each byte written before reads as a free value; after power is applied they are not defined, and read as zero (log 125). -/
def afterReset (s : State) (applied : Bool) : State :=
  let stay (k : Nat) : Bool := (decide (2 ^ 44 ≤ k) && decide (k < 2 ^ 48)) || (decide (2 ^ 53 ≤ k) && decide (k < 2 ^ 54))
  let left (k : Nat) (b : Byte) : Byte := if stay k then b else if !applied && decide (k < 2 ^ 37) then Config.lostByte s.clk.draw k else 0
  { State.reset with
    clk := { id := s.clk.id, draw := s.clk.draw + 1, inputs := s.clk.inputs }
    mem := { cells := (s.mem.cells.map (fun c => (c.1, left c.1 c.2))).filter (fun c => c.2 != 0)
             poison := if applied then [] else s.mem.poison.filter (fun k => decide (128 * k < 2 ^ 37))
             fbit := if applied then [] else s.mem.fbit.filter (fun k => decide (8 * k < 2 ^ 37)) }
    regs := { livemap := s.regs.livemap, slicemap := s.regs.slicemap }
    rot := { retired := s.rot.retired, hollow := s.rot.hollow, failed := s.rot.failed, down := s.rot.down, spares := s.rot.spares }
    flash := { exts := s.flash.exts, erases := s.flash.erases, spares := s.flash.spares, bad := s.flash.bad }
    cols := s.cols.map (fun (c : Column) => { c with rbpos := 0, hot := 0, errs := [] })
    host := { sent := s.host.sent }
    trust := { applied := applied, fusedSvn := s.trust.fusedSvn, recoveryRec := s.trust.recoveryRec, heads := s.trust.heads, waiting := s.trust.waiting
               pendings := s.trust.pendings } }
/-- A reset that needs power. -/
def resetNow (s : State) : State := if s.trust.power then s.afterReset false else s

/-! ### Boot (R424, R425) -/

/-- A descriptor from its bytes (R300). -/
def runsOf (b : List Byte) : Nat → Nat → List (Nat × Nat)
  | _, 0 => []
  | a, n + 1 => let w := quadAt b a; if bits w 49 32 = 0 then [] else (bits w 17 0, bits w 49 32) :: runsOf b (a + 8) n
def descrOf (b : List Byte) : Descr :=
  let w (a n : Nat) : Nat := leNat ((b.drop a).take n)
  { mica := (List.range (min 64 (w 64 2))).map (fun i => w i 1), dram := (List.range (min 1024 (w 66 2))).map (fun i => w (2048 + 2 * i) 2)
    ibudget := w 72 8, debug := bit (w 80 1) 0, runs := runsOf b 128 16, raw := fit 4096 b }
/-- The checks of R425 on an image, as the ERR of R427: 0 where it passes. -/
def imageErr (s : State) (img : List Byte) : Nat :=
  let len := quadAt img 16
  let pk := (img.drop 4096).take 1952
  if quadAt img 0 != 0x544F4F42 || len % 4096 != 0 || decide (2 ^ 26 < len + 8192) || quadAt img 24 % 65536 != 0 then 1
  else if shake256 pk != Config.vendorDigest then 2
  else if !verifies pk (img.take 128) ((img.drop 128).take 3309) then 3
  else if leBytes 64 (shake256 ((img.drop 8192).take len)).toNat != (img.drop 64).take 64 then 4
  else if bits (quadAt img 8) 31 0 < s.trust.fusedSvn then 5 else 0
def bootImage (s : State) : List Byte := s.mem.read (bootKey 0) (2 ^ 26)
/-- Pending scrubs are completed before the first task runs (R441). -/
def finishPending (s : State) (p : Pending) : State :=
  let s := if p.final then s else s.produce p.o true true
  let s := ((p.areas.foldl (fun (s : State) a => s.clearPlat a.1 a.2) (s.clearStacks p.desc.dram)).incomplete p.desc).charge 0 5 (p.desc.dram.length * 2 ^ 27 + areaBytes p.areas)
  (s.modTrust (fun t => { t with pendings := t.pendings.filter (fun x => x.o != p.o) })).raiseEv { ty := 0x32, o := p.o, data := 1, src := 6 }
/-- The translation of the first task: LOAD and ENTRY are platform addresses, so until the monitor lays down its own tables its slots find every address
of owner 0's DRAM at itself (DESIGN CHOICE, log 23). -/
def bootTlb (n nstack : Nat) : List Tlb :=
  (List.range n).flatMap (fun l => (List.range nstack).map (fun i =>
    { o := 0, l := l, page := i * 2 ^ 27, size := 27, space := 0, out := i * 2 ^ 27, ia := i * 2 ^ 27, kind := .cacheable, w := true, x := true }))
/-- An accepted image is loaded and the first task dispatched (R425). -/
def bootWith (s : State) (img : List Byte) : State :=
  let len := quadAt img 16
  let pay := (img.drop 8192).take len
  let d := descrOf (pay.drop (quadAt img 40))
  let svn := bits (quadAt img 8) 31 0
  let n := 1 + s.free.toNat % 64
  let s := s.drawn
  let key0 := s.free
  let s := s.drawn.modTrust (fun t => { t with fusedSvn := if bit (quadAt img 8) 32 then max t.fusedSvn svn else t.fusedSvn, svn := svn, payload := shake256 pay, boot := false })
  let s := (s.putKey 0 key0).putKey 1 Config.slotOneKey
  let s := s.modOwner 0 (fun x => { x with cfg := BitVec.ofNat 64 (2 ^ 63 + n * 2 ^ 56 + 2 ^ 30), desc := d })
  let s := s.modRot (fun r => { r with
    tens := (List.range n).map (fun l => { idx := l % max 1 s.nlive, k := l / max 1 s.nlive, o := 0, l := l }), cur := [] })
  let scrubs := s.trust.pendings
  let s := scrubs.foldl finishPending s
  let s := s.platWrite (quadAt img 24) pay
  let cause : Word := (if s.trust.recoveryRec then 1 else 0) + (if scrubs.isEmpty then 0 else 2)
  let s := { s.modTrust (fun t => { t with recoveryRec := false }) with tlb := bootTlb n d.dram.length }
  let t : Thread := { uid := s.newId, pc := BitVec.ofNat 48 (quadAt img 24 + quadAt img 32), s := (Vector.replicate 16 0).set 1 cause }
  let s := s.bump
  State.bump (s.modGraph (fun g => { g with packets := g.packets ++ [{ id := s.newId, stage := .flight, t := t }] }))

/-! ### Recovery (R426, R427) -/

def rfail (s : State) (e : Nat) : State := s.modTrust (fun t => { t with rstate := 4, rerr := e })
/-- A command that STATE does not list; STATE 2 and 3 ignore it. -/
def rorder (s : State) : State := if s.trust.rstate = 2 || s.trust.rstate = 3 then s else s.rfail 8
/-- The end of the verification: the write of the boot partition begins, or the image has failed (R425, R427). -/
def verifyImage (s : State) : State :=
  if !s.trust.recovery || s.trust.rstate != 2 then s
  else
    let e := s.imageErr s.trust.rimage
    if e != 0 then s.rfail e
    else if quadAt s.trust.rimage 16 + 8192 != s.trust.rlen then s.rfail 6
    else s.modTrust (fun t => { t with rstate := 3 })
/-- A read of n bytes of the recovery mailbox, at either port: RSTAT, and zero at every other offset (R426, R427). -/
def mailbox (s : State) (off n : Nat) : List Byte :=
  leBytes (min n 8) (if off = 0 then s.trust.rstate + s.trust.rerr * 2 ^ 8 + s.trust.received * 2 ^ 32 else 0)
def rbytes (s : State) : List Byte := (List.range 4096).map (cellsGet s.trust.rbuf)
def putRbuf : List Host.Cell → Nat → List Byte → List Host.Cell
  | cs, _, [] => cs
  | cs, a, b :: bs => putRbuf (cellsSet cs a b) (a + 1) bs

/-! ### The management port (R443) -/

/-- A read of a frozen owner is served when its descriptor consented. -/
def debugOk (s : State) (o : Nat) : Bool := (s.owner o).frozen && (o == 0 || (s.owner o).desc.debug)
def debugRead (s : State) (o data : Nat) (bs : List Byte) : State :=
  ((s.charge o 13 1).raiseEv { ty := 0x33, o := o, data := BitVec.ofNat 64 data, src := 7 }).send (.debug o bs)
/-- Registers as READREG numbers them: 0 to 15 s, 16 to 31 v, 32 the predicate word, 33 the PC, 34 on the special registers of R61, then the capability handles
(the encoding is the device's own). -/
def regBytes (s : State) (t : Thread) (r : Nat) : List Byte :=
  if r < 16 then leBytes 8 (t.s[Fin.ofNat 16 r]).toNat
  else if r < 32 then leBytes 16 (t.v[Fin.ofNat 16 r]).toNat
  else leBytes 8 (([t.pw.toNat, t.pc.toNat, t.tid.toNat, t.taskb.toNat, t.frzc.toNat, t.step.toNat, t.redpend.toNat, t.qpos.toNat, t.fcsr.toNat, t.trapb.toNat,
    t.fpc.toNat, t.fcode.toNat, t.faddr.toNat, t.tslot.toNat * 2 ^ 24 + t.tcore.toNat * 2 ^ 16 + t.run.toNat * 2 ^ 8 + t.thresh.toNat,
    t.pl.c % 128, t.pl.l % 256, s.nslot t.pl.o, s.rot.seq.toNat, t.pendMask] ++ t.eg.toList.map (·.toNat)).getD (r - 32) 0)
/-- Bytes at a platform address or in a window of the owner. -/
def debugBytes (s : State) (o a n : Nat) : List Byte :=
  match s.region ⟨o, 0, 0⟩ (BitVec.ofNat 48 a) with
  | .scr p off => s.mem.read (scrKey p off) (min n (65536 - off))
  | .slice k off => s.mem.read (sliceKey k off) (min n (s.sliceSize k - off))
  | .translated p => s.platRead p n
  | .none => []

end State

/-- FREEZE_START (R313, R439): at a beat boundary that lies in no pause, the owner's slots are frozen, and event 0x01 is raised; a teardown begins stage 1. -/
def execFreezeStart (o : Nat) (s : State) : Res :=
  match (s.owner o).freezing with
  | some c =>
    if s.rot.pause.isSome || s.q % 8 != 0 then .next s
    else if c = 0x81 then .next (s.drainOwner o)
    else
      let s := (s.owner o).causes.dropLast.foldl (fun (s : State) c => s.raiseEv { ty := 1, o := o, cause := c, data := s.clk.quartz, src := 1 }) s
      .next ((((s.modOwner o (fun x => { x with frozen := true, freezing := none, causes := [], vcause := c, qz := s.q })).raiseEv
        { ty := 1, o := o, cause := c, data := s.clk.quartz, src := 1 }).unbindRows).wakeFrz o)
  | none => .next s
/-- SCRUB (R438, R441): SCRUBPROG shows stage 1, and Obsidian writes the pending entry, so that no reset from here on loses it. -/
def execScrub (a : Fin 16) (s : State) : Res :=
  let o := bits (s.rS a).toNat 3 0
  let d := (s.owner o).desc
  if o = 0 then .next (s.raise 2 3 s.iss.b)
  else if (s.owner o).inScrub || (s.owner o).freezing == some 0x81 || !s.enabled o then .next s
  else if s.progBusy then .next (s.rewind (.scrub o))
  else
    let total := 256 * d.mica.length + 2048 * d.dram.length + State.areaUnits (s.areasOf o)
    let entry : Pending := { o := o, desc := d, areas := s.areasOf o, keys := [State.dkey (s.owner o).cfg.toNat, State.fkey (s.owner o).cfg.toNat] }
    let s := s.modTrust (fun t => { t with pendings := t.pendings ++ [entry] })
    .next ((((s.setProg true o 1 total 0).modOwner o (fun x => { x with freezing := some 0x81 })).raiseEv { ty := 0x31, o := o, src := 6 }).parkAfter (.scrub o))
/-- TEARDOWN_TILES (R439, stage 2): inside the pause that Pumice causes. -/
def execTeardownTiles (s : State) : Res :=
  match s.rot.pause with
  | some p =>
    if p.scrub && s.progBusy && s.progStage == 2 then
      let o := s.progOwner
      let rows := (s.threads.filter (fun t => t.pl.o == o && t.evicted.isNone)).filterMap (fun t => (s.placesAt t.pl).find? (fun x => x.o != o))
      .next ((((s.clearTiles o).modRot (fun r => { r with pause := some { p with scrub := false, tiled := true, freed := rows } })).modTrust (fun t =>
        { t with scrubAt := s.q })).setProg true o 3 s.progTotal 0)
    else .next s
  | none => .next s
/-- TEARDOWN_SLICES (R439, stage 3). -/
def execTeardownSlices (s : State) : Res :=
  let o := s.progOwner
  if s.progBusy && s.progStage == 3 then .next ((s.clearSlices o).setProg true o 4 s.progTotal (s.sliceUnits o)) else .next s
/-- TEARDOWN_DRAM (R439, stage 4). -/
def execTeardownDram (s : State) : Res :=
  let o := s.progOwner
  if s.progBusy && s.progStage == 4 then
    let s := (s.clearStacks (s.owner o).desc.dram).modMem (fun m => { m with code := m.code.filter (fun c => c.1 != o), swept := m.swept.filter (fun x => x.1 != o) })
    let n := s.sliceUnits o + s.stackUnits o
    .next ((s.charge 0 5 ((n - s.progDone) * 65536)).setProg true o 5 s.progTotal n)
  else .next s
/-- TEARDOWN_AREAS (R439, stage 5): the areas as the pending entry holds them. -/
def execTeardownAreas (s : State) : Res :=
  let o := s.progOwner
  if s.progBusy && s.progStage == 5 then
    let as := s.progAreas o
    let left := (State.areaChunks as).drop (s.progDone - (s.sliceUnits o + s.stackUnits o))
    let s := (as.foldl (fun (s : State) a => s.clearPlat a.1 a.2) s).incomplete (s.owner o).desc
    .next ((s.charge 0 5 (State.areaBytes left)).setProg true o 6 s.progTotal s.progTotal)
  else .next s
/-- TEARDOWN_KEYS (R439, R446): stage 6, then stage 7. -/
def execTeardownKeys (s : State) : Res :=
  if !s.progBusy then .next s
  else match s.progStage with
    | 6 => .next (s.scrubKeys s.progOwner)
    | 7 => .next (s.endScrub s.progOwner)
    | _ => .next s
/-- METERING_INTERVAL (R436): at a multiple of the interval, a record of every enabled owner. -/
def execMeteringInterval (s : State) : Res :=
  let iv := max 1 (bits s.regs.metcfg.toNat 15 0) * 2 ^ 20
  if bit s.regs.metcfg.toNat 63 && s.clk.quartz.toNat % iv == 0 then
    .next ((List.range 16).foldl (fun (s : State) o => if s.enabled o then s.produce o false false else s) s)
  else .next s
/-- METERING_RECORD_WRITE (R437). -/
def execMeteringRecordWrite (s : State) : Res := if s.meterRoom && !s.netHeld then .next s.writeRec else .next s
/-- POWER_ON_RESET (R423): power is applied, or PERST# is asserted on a device that has power. -/
def execPowerOnReset (applied : Bool) (s : State) : Res := if applied then .next (s.afterReset true) else .next s.resetNow
/-- POWER_LOSS (R423). -/
def execPowerLoss (s : State) : Res := .next ((s.afterReset true).modTrust (fun t => { t with power := false, boot := false }))
/-- MGMT_RESET (R423): the management port's RESET outside recovery. -/
def execMgmtReset (s : State) : Res := if s.trust.recovery then .next s else .next s.resetNow
/-- OBSIDIAN_BOOT (R424 to R426): the image of the boot partition is verified and its monitor dispatched, or the device enters recovery. -/
def execObsidianBoot (s : State) : Res :=
  if s.trust.boot && s.trust.power then
    let img := s.bootImage
    if s.imageErr img = 0 then .next (s.bootWith img)
    else .next (s.modTrust (fun t => { t with boot := false, recovery := true }))
  else .next s
/-- RECOVERY_BEGIN (R427). -/
def execRecoveryBegin (len : Nat) (s : State) : Res :=
  if !s.trust.recovery then .next s
  else if s.trust.rstate = 0 || s.trust.rstate = 4 || s.trust.rstate = 5 then
    if len % 4096 = 0 && decide (12288 ≤ len) && decide (len ≤ 2 ^ 26) then
      .next (s.modTrust (fun t => { t with rstate := 1, rerr := 0, received := 0, rlen := len, rimage := [] }))
    else .next (s.rfail 6)
  else .next s.rorder
/-- RECOVERY_APPEND (R427). -/
def execRecoveryAppend (s : State) : Res :=
  if !s.trust.recovery then .next s
  else if s.trust.rstate = 1 then
    if s.trust.rlen < s.trust.received + 4096 then .next (s.rfail 8)
    else .next (s.modTrust (fun t => { t with received := t.received + 4096, rimage := t.rimage ++ s.rbytes }))
  else .next s.rorder
/-- RECOVERY_COMMIT (R427): the image is to be verified. -/
def execRecoveryCommit (s : State) : Res :=
  if !s.trust.recovery then .next s
  else if s.trust.rstate = 1 && s.trust.received == s.trust.rlen then .next (s.modTrust (fun t => { t with rstate := 2 }))
  else .next s.rorder
/-- RECOVERY_WRITE_DONE (R426, R427): the image is in the boot partition, the persistent record says so, and a reset follows. -/
def execRecoveryWriteDone (ok : Bool) (s : State) : Res :=
  if s.trust.recovery && s.trust.rstate == 3 then
    if ok then
      .next ((s.modMem (fun m => (m.clear (bootKey 0) (2 ^ 26)).write (bootKey 0) s.trust.rimage)).modTrust (fun t =>
        { t with rstate := 5, recoveryRec := true, rreset := true }))
    else .next (s.rfail 7)
  else .next s
/-- RECOVERY_ABORT (R427). -/
def execRecoveryAbort (s : State) : Res :=
  if !s.trust.recovery then .next s
  else if s.trust.rstate = 2 || s.trust.rstate = 3 then .next s
  else .next (s.modTrust (fun t => { t with rstate := 0, rerr := 0, received := 0, rimage := [] }))
/-- RECOVERY_RESET (R427): in STATE 3 it waits until the write ends. -/
def execRecoveryReset (s : State) : Res :=
  if !s.trust.recovery then .next s
  else if s.trust.rstate = 3 then .next (s.modTrust (fun t => { t with rreset := true }))
  else .next s.resetNow
/-- RECOVERY_BUFFER_WRITE (R427). -/
def execRecoveryBufferWrite (off : Nat) (v : BitVec 64) (s : State) : Res :=
  if s.trust.recovery && s.trust.rstate == 1 && decide (off < 4096) && off % 8 == 0 then
    .next (s.modTrust (fun t => { t with rbuf := State.putRbuf t.rbuf off (leBytes 8 v.toNat) }))
  else .next s
/-- MGMT_FREEZE (R443). -/
def execMgmtFreeze (o : Nat) (s : State) : Res := if o % 16 = 0 then .next s else .next (s.freezeOwner (o % 16))
/-- MGMT_RELEASE (R443). -/
def execMgmtRelease (o : Nat) (s : State) : Res := if o % 16 = 0 then .next s else .next (s.releaseOwner (o % 16))
/-- MGMT_READREG (R443): core is the logical core in its owner, 128 LSLOT + LCORE. -/
def execMgmtReadreg (o core row reg : Nat) (s : State) : Res :=
  let o := o % 16
  if s.debugOk o then
    match s.threads.find? (fun t => t.pl == ⟨o, core / 128, core % 128⟩ && t.row == row && t.evicted.isNone) with
    | some t => .next (s.debugRead o core (s.regBytes t reg))
    | none => .next (s.debugRead o core (leBytes 8 0))
  else .next (s.send (.debugNo o))
/-- MGMT_READMEM (R443); in recovery the port has the mailbox alone, and the address is an offset of it (R426, R427; the framing is the device's own). -/
def execMgmtReadmem (o addr len : Nat) (s : State) : Res :=
  let o := o % 16
  if s.trust.recovery then .next (s.send (.debug o (s.mailbox addr len)))
  else if s.debugOk o then .next (s.debugRead o addr (s.debugBytes o addr len)) else .next (s.send (.debugNo o))

end Sys2Proof.Machine
end

