-- ==== Sys2Proof/Machine/Rotation.lean ====
section
/-! DEFINITION. Rotation: the pauses of rotations and switches, cycle by cycle, with the retirement and the repairs done in them
(R314 to R331, R400 to R403). -/

namespace Sys2Proof.Machine

namespace State

/-- An interval rotation or the extra rotation of rotctl 2 falls due at a count (R314, R317). -/
def rotationAt (s : State) (q : Nat) : Bool :=
  let v := s.regs.rotiv.toNat
  let iv := bits v 15 0
  decide (0 < q) && ((!bit v 63 && iv != 0 && q % (iv * 2 ^ 20) == 0) || (s.rot.extraRot && q % 2 ^ 20 == 0))
/-- A rotation falls due at this count. -/
def rotationDue (s : State) : Bool := s.rotationAt s.clk.quartz.toNat
/-- Some index holds two or more valid tenancies. -/
def shared (s : State) : Bool := (List.range s.nlive).any (fun i => decide (2 ≤ (s.rot.tens.filter (fun t => t.idx == i)).length))
/-- A time-sharing switch falls due at a count (R317, R327). -/
def switchAt (s : State) (q : Nat) : Bool :=
  let ts := bits s.regs.tsiv.toNat 15 0
  decide (0 < q) && ((ts != 0 && q % (ts * 2 ^ 16) == 0 && s.shared) || (s.rot.extraSw && q % 2 ^ 16 == 0))
/-- A switch falls due at this count. -/
def switchDue (s : State) : Bool := s.switchAt s.clk.quartz.toNat
/-- Pumice's own pause falls due (R439, stage 2). -/
def scrubDue (s : State) : Bool := decide (0 < s.q) && s.trust.scrubPause && s.q % 2 ^ 16 == 0
/-- A pause with this start; the failures known by then are retired in it (R400). -/
def newPause (s : State) (moves switch scrub : Bool) : Pause := { q0 := s.q, moves := moves, switch := switch, scrub := scrub, retire := s.rot.failed.length }
def setPause (s : State) (p : Pause) : State := s.modRot (fun r => { r with pause := some p })
/-- The positions that are hollow once the retirements of a pause that moves are done (R401). -/
def hollowThen (s : State) (p : Pause) : List Nat :=
  let fs := s.rot.failed.take p.retire
  s.rot.hollow ++ ((List.range fs.length).filter (fun i =>
    let f := fs.getD i (0, 0)
    s.rot.retired.any (fun x => x.1 == f.1) || (fs.take i).any (fun x => x.1 == f.1))).map (fun i => tilePos (fs.getD i (0, 0)).1)
/-- A tenancy enters or leaves a hollow position in this pause's move (R401). -/
def crossesHollow (s : State) (p : Pause) : Bool :=
  let h := s.hollowThen p
  p.moves && s.rot.tens.any (fun t => s.rot.hollow.contains (s.posOf t.idx) != h.contains (s.posOf ((t.idx + 1) % max 1 s.nlive)))
/-- A pause whose Qm may come up to 150,000 cycles after Q0 (R325). -/
def widePause (s : State) (p : Pause) : Bool := p.switch || p.scrub || s.crossesHollow p
/-- A rotation count that falls in a pause that does not move yet, and that leaves its move no time before Q0 + 150,000: the pause must end before it, so
that Qm keeps its bound (R325, R326). -/
def lateRotation (s : State) (p : Pause) : Option Nat :=
  let n := (p.q0 / 2 ^ 20 + 1) * 2 ^ 20
  if !p.moves && s.rotationAt (n % 2 ^ 64) && decide (n ≤ p.q0 + 151024) &&
      decide (p.q0 + 149984 < n + 49152 + 1024 * min 16 s.rot.repairs.length) then some n else none
/-- The latest Qm of a wide pause (R325, R326). -/
def lastQm (s : State) (p : Pause) : Nat := match s.lateRotation p with | some n => n - 1032 | none => p.q0 + 149984
/-- The end of a pause is not begun where a rotation or switch count would fall between Qm and Qr, because that pause then performs both before Qm (R326). -/
def joinsSoon (s : State) (p : Pause) : Bool :=
  let n := (s.q / 2 ^ 16 + 1) * 2 ^ 16
  decide (n < s.q + 1032) && ((!p.switch && s.switchAt (n % 2 ^ 64)) || (!p.moves && (s.lateRotation p).isNone && s.rotationAt (n % 2 ^ 64)))

/-! ### The slot-map switch (R315, R317, R322, R324, R327) -/

/-- The state of a logical slot is discarded, or starts empty. -/
def emptySlot (s : State) (o l : Nat) : State :=
  { s.modMem (fun m => m.clear (scrKey ⟨o, l, 0⟩ 0) (128 * 65536)) with cores := s.cores.filter (fun (c : Core) => !(c.pl.o == o && c.pl.l == l)) }
/-- A slotctl change takes effect, at the index as it stands before the move (DEDUCED, log 24). -/
def applyChange (s : State) : SlotChange → State
  | .place t => (s.modRot (fun r => { r with tens := r.tens ++ [t] })).emptySlot t.o t.l
  | .remove i k =>
    match s.rot.tens.find? (fun t => t.idx == i && t.k == k) with
    | none => s
    | some t =>
      let s := { s with threads := s.threads.filter (fun (x : Thread) => !(x.pl.o == t.o && x.pl.l == t.l)) }
      (s.modRot (fun r => { r with tens := r.tens.filter (fun x => !(x.idx == i && x.k == k)) })).emptySlot t.o t.l
/-- Every tenancy moves to the next raster index, with its engines and their spilled tiles. -/
def moveOn (s : State) : State :=
  let n := max 1 s.nlive
  let nx (i : Nat) : Nat := (i + 1) % n
  { (s.modRot (fun r => { r with seq := r.seq + 1, tens := r.tens.map (fun (t : Tenancy) => { t with idx := nx t.idx }), cur := r.cur.map (fun c => (nx c.1, c.2))
                                 spilled := r.spilled.map (fun x => (x.1, nx (x.2.1 / 16) * 16 + x.2.1 % 16, { x.2.2 with idx := nx x.2.2.idx })) })) with
    engines := s.engines.map (fun (e : Engine) => { e with idx := nx e.idx }) }
/-- CUR goes to the next valid tenancy above it, cyclically, at each index with two or more. -/
def advanceCur (s : State) : State :=
  (List.range s.nlive).foldl (fun (s : State) i =>
    let ks := (s.rot.tens.filter (fun t => t.idx == i)).map (·.k)
    if ks.length < 2 then s
    else
      let c := alGet 0 i s.rot.cur
      match ((List.range 4).map (fun n => (c + 1 + n) % 4)).find? (fun k => ks.contains k) with
      | some k => s.modRot (fun r => { r with cur := alSet i k r.cur })
      | none => s) s
/-- A core that is known to have failed: its column's spare serves, or its position becomes hollow (R29, R400, R401). LIVEMAP is not asked: R25 does not say whether
a column of a position that is not live retires cores too (DESIGN CHOICE, log 115). -/
def retireOne (s : State) (moves : Bool) (f : Nat × Nat) : State :=
  let done (s : State) : State := s.modRot (fun r => { r with failed := r.failed.filter (· != f), down := r.down.filter (· != f) })
  if s.rot.retired.any (fun x => x.1 == f.1) then
    let pos := tilePos f.1
    if s.rot.hollow.contains pos then done s
    else if moves then ((done s).modRot (fun r => { r with hollow := setIns r.hollow pos })).raiseEv { ty := 0x15, data := BitVec.ofNat 64 pos, src := 2 ^ 45 + pos }
    else s
  else
    ((done s).modRot (fun r => { r with retired := r.retired ++ [f] })).raiseEv { ty := 0x14, data := BitVec.ofNat 64 (f.1 + f.2 * 2 ^ 16), src := 2 ^ 44 + f.1 }
/-- A tenancy that a switch or a hollow position puts out is written to its owner's save area, and one that returns is read back; what is charged for it is the
device's own affair: a free value of at most 24 MiB (R328, R329, R401, R434). -/
def chargeSaves (s : State) (was : List Tenancy) : State :=
  s.rot.tens.foldl (fun (s : State) t =>
    let out := was.any (fun x => x.o == t.o && x.l == t.l)
    if s.savedOut t == out then s
    else State.charge (if out then s.drawn else s.drawn.saveOut t.o 12288) t.o (if out then 4 else 5) (s.free.toNat % 196609 * 128)) s
/-- Once a position is hollow, an enabled owner without a save area, or with one too small for what is saved there, is frozen (R401). -/
def needSaves (s : State) : State :=
  if s.rot.hollow.isEmpty then s
  else (List.range 16).foldl (fun (s : State) o =>
    if s.enabled o && (s.saveSize o == 0 || decide (s.saveSize o < s.saveUsed o)) && !(s.owner o).frozen && (s.owner o).freezing.isNone then s.askFreeze o 3 else s) s
/-- Translations and L1s are emptied; a walk in progress is abandoned and its threads walk again (R161, R341). -/
def emptyCaches (s : State) : State :=
  { s with tlb := [], wcache := [], l1 := [], walks := []
           threads := s.threads.map (fun (t : Thread) => match t.park with | .walk _ _ _ => { t with woken := true } | _ => t) }
/-- Qm (R318, R324). -/
def mapSwitch (s : State) (p : Pause) : State :=
  let s := (s.rot.changes.foldl applyChange s).modRot (fun r => { r with changes := [] })
  let was := s.rot.tens.filter s.savedOut
  let s := (s.rot.failed.take p.retire).foldl (fun (s : State) f => s.retireOne p.moves f) s
  let s := if p.moves then s.moveOn else s
  let s := if p.switch then s.advanceCur else s
  ((s.chargeSaves was).unbindRows.emptyCaches.needSaves).setPause { p with phase := .switched, endAt := s.q }
/-- What is on its way when the network is flushed stands in save buffers: requests, replies, packets, the parts of engine
commands, and the writes of engines and of copy units (R320, R324). -/
def capture (s : State) : State :=
  let ops (t : Thread) : Thread := { t with ops := t.ops.map (fun (o : Op) => { o with cap := o.res.isSome && o.due.isNone }) }
  let part (c : Cmd) (p : Part) : Part := { p with cap := p.arrived.isNone && !p.done && !s.cmdWaits c && !s.partBehind c p.i p.j }
  let out (c : Cmd) (w : PWrite) : PWrite := { w with cap := !s.writesAhead c && !s.writeHeld c w }
  let copy (p : Place) (m : Copy) : Copy := { m with wq := m.wq.map (fun (w : CWrite) => { w with cap := !s.copyHeld p m w }) }
  { s with net := s.net.map (fun (r : Req) => { r with cap := r.arrived.isNone && s.mayPerform r })
           threads := s.threads.map ops
           cmds := s.cmds.map (fun (c : Cmd) => { c with parts := c.parts.map (part c), wq := c.wq.map (out c) })
           cores := s.cores.map (fun (c : Core) => { c with mbox := c.mbox.map (copy c.pl) })
           graph := { s.graph with packets := s.graph.packets.map (fun (k : Packet) => { k with cap := k.stage == .flight }) } }
/-- No turn of the pause issued, so no run of eight goes on over it, and a parked thread whose turns have passed gives way to a ready row (R58). -/
def turnsBroken (s : State) : State :=
  let bound := s.threads.filterMap (fun t => if t.strm.isNone && t.evicted.isNone then t.slot.map (fun k => (t.pl, k)) else none)
  bound.foldl (fun (s : State) x => s.endTurn x.1 x.2)
    { s with threads := s.threads.map (fun (t : Thread) => if t.slot.isSome && t.strm.isNone then { t with turns := 0 } else t) }
/-- Qr (R318, R316): issue resumes; what waited for the end of the pause goes on. -/
def resumeIssue (s : State) (p : Pause) : State :=
  let s := s.modRot (fun r => { r with pause := none })
  let s := s.turnsBroken
  let s := s.modTrust (fun t => { t with pulls := t.pulls.map (fun (x : Pull) => { x with start := x.start + (s.q - max p.q0 x.start) }) })
  let s := { s with cmds := s.cmds.map (fun (c : Cmd) => { c with parts := c.parts.map (fun (x : Part) => { x with stopped := false }) }) }
  let s := (List.range 16).foldl (fun (s : State) o => if (s.owner o).resumeWait && !s.unplaced o then (s.modOwner o (fun x => { x with resumeWait := false })).stepResume o else s) s
  let s := p.freed.foldl (fun (s : State) x => s.offerRow x) s
  s.pumpHeads

end State

/-- ROTATION_DUE (R314, R318, R326): the stop of a pause begins, or a switch pause in progress performs the move too. -/
def execRotationDue (s : State) : Res :=
  if !s.rotationDue then .next s
  else
    let s := s.modRot (fun r => { r with extraRot := if s.q % 2 ^ 20 = 0 then false else r.extraRot })
    match s.rot.pause with
    | none => .next (s.setPause (s.newPause true false false))
    | some p => if p.moves || p.phase == .switched then .next s else .next (s.setPause { p with moves := true })
/-- SWITCH_DUE (R326, R327, R439): a switch or a scrub pause begins, or a pause in progress performs it too; no pause performs two switches. -/
def execSwitchDue (s : State) : Res :=
  if !s.switchDue && !s.scrubDue then .next s
  else
    let sw := s.switchDue
    let sc := s.scrubDue
    let s := s.modRot (fun r => { r with extraSw := false })
    match s.rot.pause with
    | none => .next ((s.setPause (s.newPause false sw sc)).modTrust (fun t => { t with scrubPause := t.scrubPause && !sc }))
    | some p =>
      if p.phase = .switched then .next s
      else .next ((s.setPause { p with switch := p.switch || sw, scrub := p.scrub || sc }).modTrust (fun t => { t with scrubPause := t.scrubPause && !sc }))
/-- ENGINE_STEP_STOP (R319). -/
def execEngineStepStop (cid i j : Nat) (s : State) : Res :=
  match s.cmd? cid, s.rot.pause with
  | some c, some _ =>
    (match State.part? c i j with
     | some p => if p.started && !p.done then .next (s.setCmd (State.Cmd.setPart c { p with stopped := true })) else .next s
     | none => .next s)
  | _, _ => .next s
/-- ROUTER_FLUSH (R320): from here on the network holds every flit; those that were on their way stand in save buffers. -/
def execRouterFlush (s : State) : Res :=
  match s.rot.pause with
  | some p =>
    if p.phase == .stop && decide (p.q0 + 512 ≤ s.q) then
      .next (s.capture.setPause { p with phase := .flushed })
    else .next s
  | none => .next s
/-- MEMORY_DRAIN_END (R321). -/
def execMemoryDrainEnd (s : State) : Res :=
  match s.rot.pause with
  | some p => .next (s.setPause { p with drained := true })
  | none => .next s
/-- ROTATION_MOVE (R318, R323, R403): the move takes 49,152 cycles, and up to 16 repairs 1,024 cycles each. -/
def execRotationMove (s : State) : Res :=
  match s.rot.pause with
  | some p =>
    if p.moves && p.phase == .flushed && decide (p.q0 + 520 ≤ s.q) then
      let n := min 16 s.rot.repairs.length
      .next (s.setPause { p with phase := .moving, repairs := n, endAt := s.q + 49152 + 1024 * n })
    else .next s
  | none => .next s
/-- MOVE_END (R318, R403): the repairs of this pause are done. -/
def execMoveEnd (s : State) : Res :=
  match s.rot.pause with
  | some p =>
    if p.phase == .moving && decide (p.endAt ≤ s.q) then
      let s := (s.rot.repairs.take p.repairs).foldl (fun (s : State) r => s.applyRepair r) s
      .next ((s.modRot (fun r => { r with repairs := r.repairs.drop p.repairs })).setPause { p with phase := .moved })
    else .next s
  | none => .next s
/-- SLOT_MAP_SWITCH (R318, R324): Qm. -/
def execSlotMapSwitch (s : State) : Res :=
  match s.rot.pause with
  | some p =>
    let ready := p.phase == .moved || (p.phase == .flushed && !p.moves && decide (p.q0 + 520 ≤ s.q))
    if ready && p.drained && !p.scrub && s.q % 8 == 0 && !s.joinsSoon p then .next (s.mapSwitch p) else .next s
  | none => .next s
/-- ISSUE_RESUME (R318, R324): Qr, a beat boundary from Qm + 8 on. -/
def execIssueResume (s : State) : Res :=
  match s.rot.pause with
  | some p => if p.phase == .switched && s.q % 8 == 0 && decide (p.endAt + 8 ≤ s.q) then .next (s.resumeIssue p) else .next s
  | none => .next s

end Sys2Proof.Machine
end

