-- ==== Sys2Proof/Machine/HostPort.lean ====
section
/-! DEFINITION. HostPort: posts, memory windows, function resets, configuration, interrupts and attestation of the host port, and the
requests of peers (R271, R321, R357 to R377). -/

namespace Sys2Proof.Machine

namespace State

/-- The host port serves more than the recovery mailbox and configuration (R423, R426). -/
def portUp (s : State) : Bool := s.host.up && s.trust.power && !s.trust.boot && !s.trust.recovery
/-- An enabled function that is there (R359, R361). -/
def fnThere (s : State) (fn : Nat) : Option Fn :=
  match s.fn? fn with
  | some f => if f.present && (f.en || fn == 0) then some f else none
  | none => none
/-- Memory space is open: enabled, in D0 (R357, R365, R366). -/
def fnOpen (f : Fn) : Bool := f.memEn && !f.d3

/-! ### Memory windows (R358, R363) -/

/-- The bytes that a window access names, sector by sector: offset and count. -/
def pieces : Nat → Nat → Nat → List (Nat × Nat)
  | 0, _, _ => []
  | fuel + 1, a, n => if n = 0 then [] else let k := min n (128 - a % 128); (a, k) :: pieces fuel (a + k) (n - k)
/-- The home of a window offset: platform memory for the PF and for the HDM range, the owner's stage 2 for a VF (R358, R363). -/
def windowLoc (s : State) (f : Fn) (a : Nat) (write : Bool) : Option Loc :=
  if f.k = 0 then (if a < s.dramSize 0 then some (.dram 0 a .cacheable) else none)
  else match s.stage2 f.o a with
    | .ok r => if r.space = 0 && (!write || r.w) then some (.dram f.o r.out (if r.sync then .sync else .cacheable)) else none
    | .error _ => none
/-- The pieces of an access with their homes, and none where some byte fails. -/
def windowLocs (s : State) (f : Fn) (a n : Nat) (write : Bool) : Option (List (Loc × Nat × Nat)) :=
  let ps := (pieces (n + 1) a n).map (fun p => (s.windowLoc f p.1 write, p.1, p.2))
  if ps.any (fun p => p.1.isNone) then none else some (ps.map (fun p => (p.1.getD (.slice 0 0), p.2.1, p.2.2)))
/-- A piece as read at its home. What a host reads of a poisoned sector the manual does not say: a free value. -/
def readPiece (s : State) (l : Loc) (n : Nat) : List Byte :=
  if s.poisonedKey (s.locKey l) then leBytes n (s.free.toNat) else s.readOut l n
/-- A piece is written at its home, after every L1 copy is invalidated (R271); a poison mark stays, since only a copy, a readout and Pumice clear one (R164). -/
def writePiece (s : State) (l : Loc) (bs : List Byte) : State := s.unitWrite l bs
def readPieces : State → List (Loc × Nat × Nat) → List Byte → State × List Byte
  | s, [], bs => (s, bs)
  | s, p :: ps, bs => readPieces ((s.chargeMem false p.1).drawn) ps (bs ++ s.readPiece p.1 p.2.2)
def writePieces (base : Nat) (bytes : List Byte) : State → List (Loc × Nat × Nat) → State
  | s, [] => s
  | s, p :: ps => writePieces base bytes (s.writePiece p.1 ((bytes.drop (p.2.1 - base)).take p.2.2)) ps

/-! ### Requests at the ports -/

/-- Signals that a function may send now leave its PBA (R366, R367). -/
def sendPending (s : State) (fn : Nat) : State :=
  match s.fn? fn with
  | some f =>
    if f.present && f.msixEn then
      let go := f.pba.filter (fun v => !f.masked.contains v)
      go.foldl (fun (s : State) v => s.send (.msix fn v)) (s.modFn fn (fun f => { f with pba := f.pba.filter (fun v => f.masked.contains v) }))
    else s
  | none => s

/-- The space of a host access, which the quotient of its offset by 2^48 names: 0 the memory window of BAR2, 1 BAR0, 2 BAR4, 3 configuration space, and any
other the HDM range under CXL.mem (R358, R361, log 102). -/
def hostSpace (off : Nat) : Nat := off / 2 ^ 48
/-- The size of a function's BAR2 (R361). -/
def barSize (f : Fn) : Nat := if f.k = 0 then 2 ^ 37 else 2 ^ 36
/-- A post (R360, R362, R364 to R366): dropped and counted where its function does not take it, or had its memory space closed when it reached the port. -/
def servePost (s : State) (fn off : Nat) (bytes : List Byte) (kept : Bool) : State :=
  match (if off < 131072 then s.queueOf fn (off / 128) else none) with
  | none => s
  | some q =>
    match s.fnThere fn with
    | none => s.countDropped q
    | some f =>
      if f.frozen || !kept || bytes.length != 128 || off % 128 != 0 then s.countDropped q
      else State.bump ((s.modGraph (fun g => { g with arrivals := g.arrivals ++ [{ id := s.newId, q := quadsOf 16 bytes, wq := q, fn := some fn, o := f.o }] })).charge f.o 8 128)
/-- An Unsupported Request, which the error status of AER shows (R357; the bit is PCI Express's own). -/
def unsupported (s : State) (fn : Nat) : State := (s.send (.unsupported fn)).modFn fn (fun f => { f with aer := f.aer ||| 2 ^ 20 })
/-- A read of memory at the offsets of a window, and none while a page that it needs is still to be pulled (R363, R419). -/
def windowRead (s : State) (f : Fn) (fn off len : Nat) : Option State :=
  match s.windowLocs f off (min len 4096) false with
  | none => some ((s.unsupported fn).freezeFn fn 2)
  | some ps =>
    if ps.any (fun p => s.heldBack p.1) then none
    else
      let r := readPieces s ps []
      some ((r.1.send (.readDone fn r.2)).charge f.o 9 r.2.length)
def windowWrite (s : State) (f : Fn) (fn off : Nat) (bytes : List Byte) : Option State :=
  let bs := bytes.take 512
  match s.windowLocs f off bs.length true with
  | none => some (s.freezeFn fn 2)
  | some ps => if ps.any (fun p => s.heldBack p.1) then none else some ((writePieces off bs s ps).charge f.o 8 bs.length)
/-- A byte of BAR4: the MSI-X table, 16 bytes a vector with its address, its data and its mask bit, and the PBA at 0x8000 (R361, R367; the layout of an
entry is PCI Express's own). -/
def msixByte (f : Fn) (a : Nat) : Byte :=
  if a < 1024 then (if a % 16 < 12 then cellsGet f.table a else if a % 16 = 12 && f.masked.contains (a / 16) then 1 else 0)
  else if 0x8000 ≤ a && decide (a < 0x8008) then ((List.range 8).foldl (fun (b : Byte) k => if f.pba.contains (8 * (a - 0x8000) + k) then b ||| (1 <<< k) else b) 0)
  else 0
def msixWrite (f : Fn) (a : Nat) (b : Byte) : Fn :=
  if a < 1024 then
    (if a % 16 < 12 then { f with table := cellsSet f.table a b }
     else if a % 16 = 12 then { f with masked := if b.getLsbD 0 then setIns f.masked (a / 16) else f.masked.filter (· != a / 16) } else f)
  else f

/-! ### Configuration space (R357, R359, R366, R369, R370) -/

/-- The body of the Lanipex DVSEC from offset 0x0C on (R370). -/
def dvsecBody (s : State) (f : Fn) : List Byte :=
  let pf := f.k = 0
  let ups := ((List.range 18).filter (fun k => bit s.regs.ixup.toNat k)).length
  leBytes 4 ((if s.host.cxlCache then 1 else 0) + (if pf && s.host.hdm != 0 then 2 else 0) + (if pf then 4 else 0) + ups * 2 ^ 8 + s.nlive * 2 ^ 16) ++
  leBytes 2 ((List.range 1024).filter (fun q => s.fnOfQueue q == f.k)).length ++ leBytes 2 64 ++ leBytes 1 (bits s.regs.ixcfg.toNat 7 0)
/-- The size of a function's BARs: BAR0, BAR2 and BAR4 (R361). -/
def barBits (f : Fn) (i : Nat) : Nat := if i = 0 then 17 else if i = 1 then (if f.k = 0 then 37 else 36) else 16
/-- A BAR as it reads: its address in units of its size, and its type, 64-bit, BAR2 prefetchable (R361). -/
def readBar (f : Fn) (i : Nat) : Nat := (f.bars[Fin.ofNat 3 i]).toNat / 2 ^ barBits f i * 2 ^ barBits f i + (if i = 1 then 12 else 4)
/-- The head of an extended capability: its id, its version 1, and the next pointer. -/
def extHead (id next : Nat) : List Byte := leBytes 4 (id + 2 ^ 16 + next * 2 ^ 20)
/-- The head of a DVSEC: its vendor, its length and its id (R370). -/
def dvsecHead (next : Nat) (vendor : List Byte) (len id : Nat) : List Byte := extHead 0x23 next ++ vendor ++ leBytes 2 (len * 2 ^ 4) ++ leBytes 2 id
/-- The bytes of a function's configuration space that rules fix, as runs: the header with the BARs (R361), the standard list from 0x34 and the extended list from
0x100, in the order of R369. Where a capability stands is the device's own; the places of its fields are PCI Express's and CXL's own (PRESUMED, log 102). -/
def configRuns (s : State) (f : Fn) : List (Nat × List Byte) :=
  let pf := f.k == 0
  let after := if pf then 0x180 else 0x300
  [(0x04, [if f.memEn then 2 else 0, 0]), (0x06, [0x10, 0]), (0x10, (List.range 3).flatMap (fun i => leBytes 8 (readBar f i))), (0x34, [0x40]),
   (0x40, [0x01, 0x50]), (0x44, [if f.d3 then 3 else 0]), (0x50, [0x10, 0xB0]),
   (0xB0, [0x11, 0x00, 63, if f.msixEn then 0x80 else 0] ++ leBytes 4 4 ++ leBytes 4 0x8004),
   (0x100, extHead 0x01 0x160 ++ leBytes 4 f.aer), (0x160, extHead 0x0E after),
   (0x300, dvsecHead 0 [Config.configByte f.k 0, Config.configByte f.k 1] 0x18 1 ++ leBytes 2 0 ++ s.dvsecBody f)] ++
  (if pf then
    [(0x180, extHead 0x10 0x200), (0x188, [if s.host.vfEnable then 1 else 0]), (0x18E, leBytes 2 512), (0x194, leBytes 2 1 ++ leBytes 2 1),
     (0x200, extHead 0x2E 0x240), (0x240, dvsecHead 0x280 [0x98, 0x1E] 0x3C 0), (0x280, dvsecHead 0x2A0 [0x98, 0x1E] 0x20 7), (0x2A0, dvsecHead 0x300 [0x98, 0x1E] 0x24 8)]
   else [])
/-- A byte of configuration space: what the rules fix, else a byte that is fixed for the device (R369). -/
def configByte (s : State) (f : Fn) (off : Nat) : Byte :=
  ((s.configRuns f).findSome? (fun x => if x.1 ≤ off then x.2[off - x.1]? else none)).getD (Config.configByte f.k off)
/-- A configuration read: a VF that is not assigned answers all ones (R359). -/
def configRead (s : State) (fn off len : Nat) : State :=
  match s.fnThere fn with
  | none => s.send (.readDone fn (List.replicate (min len 4) 0xFF))
  | some f => s.send (.readDone fn ((List.range (min len 4)).map (fun k => s.configByte f (off % 4096 + k))))

/-! ### Accesses of the host -/

/-- A read of a window, a BAR, or the HDM range, and none while it must wait (R358, R361, R363, R364, R419). -/
def serveRead (s : State) (fn off len : Nat) : Option State :=
  match s.fnThere fn with
  | none => some s
  | some f =>
    let a := off % 2 ^ 48
    match hostSpace off with
    | 0 => if f.frozen || !fnOpen f || decide (barSize f < a + min len 4096) then some (s.unsupported fn) else s.windowRead f fn off len
    | 1 => some (if f.frozen || !fnOpen f then s.unsupported fn else s.send (.readDone fn (List.replicate (min len 4096) 0)))
    | 2 => some (if !fnOpen f then s.unsupported fn else s.send (.readDone fn ((List.range (min len 4096)).map (fun k => msixByte f (a + k)))))
    | 3 => some (s.configRead fn off len)
    | _ => if fn != 0 || f.frozen || decide (s.host.hdm < a + min len 4096) then some (s.unsupported fn) else s.windowRead f fn a len
/-- A write of a window of at most 512 bytes, of BAR0, where it is a post, of the MSI-X table, or of the HDM range. -/
def serveWrite (s : State) (fn off : Nat) (bytes : List Byte) (kept : Bool) : Option State :=
  match s.fnThere fn with
  | none => some s
  | some f =>
    let a := off % 2 ^ 48
    match hostSpace off with
    | 0 => if f.frozen || !fnOpen f || decide (barSize f < a + bytes.length) then some s else s.windowWrite f fn off bytes
    | 2 =>
      if !fnOpen f then some s
      else some (((List.range (min bytes.length 512)).foldl (fun (s : State) k => s.modFn fn (fun f => msixWrite f (a + k) (bytes.getD k 0))) s).sendPending fn)
    | 1 => some (s.servePost fn a bytes kept)
    | 3 => some s
    | _ => if fn != 0 || f.frozen || decide (s.host.hdm < a + bytes.length) then some s else s.windowWrite f fn a bytes

/-! ### Requests of peers (R376, R377) -/

/-- The target owner holds a valid entry that names the source device and owner; for an address it must cover it (R376). -/
def admits (s : State) (r : IxReq) (ia : Option Nat) : Bool :=
  s.enabled r.own &&
  (List.range 16).any (fun k =>
    let b := s.regs.ixtb.toNat + 4096 + 512 * r.own + 32 * k
    let q0 := s.platNat b 8
    let base := bits q0 47 16 * 65536
    bit q0 0 && s.peerDev r.own k == r.dev && s.peerRown r.own k == r.sown &&
    (match ia with | some a => decide (base ≤ a) && decide (a < base + s.platNat (b + 8) 8) | none => true))
/-- The home of an admitted request, as a window access is served (R363). -/
def inboundLoc (s : State) (r : IxReq) (write : Bool) : Option Loc :=
  match s.stage2 r.own r.ia with
  | .ok x => if x.space = 0 && (!write || x.w) then some (.dram r.own x.out (if x.sync then .sync else .cacheable)) else none
  | .error _ => none
def IxOpWrites : IxOp → Bool
  | .load _ => false
  | _ => true
/-- The reply to the source device. -/
def ixAnswer (s : State) (r : IxReq) (ok : Bool) (bs : List Byte) : State := s.send (.ixReply r.dev ok bs)
/-- An admitted request at its home. A poisoned sector answers a load or an atomic as failed (R164); a lost layer takes no write. -/
def inboundDo (s : State) (r : IxReq) (l : Loc) : State :=
  let key := s.locKey l
  let bad := s.poisonedKey key
  match r.op with
  | .load n => if bad then s.ixAnswer r false [] else ((s.chargeMem false l).ixAnswer r true (s.readOut l n)).charge r.own 10 n
  | .store bs => (s.unitWrite l bs).ixAnswer r true []
  | .amo op n x e =>
    if bad then s.ixAnswer r false []
    else
      let old := leNat (s.mem.read key n)
      (((s.chargeOld l).outWrite l (leBytes n (amoVal op n old (x.toNat % 2 ^ (8 * n)) (e.toNat % 2 ^ (8 * n))))).ixAnswer r true (leBytes n old)).charge r.own 10 n
  | .red op n x =>
    if bad then s.ixAnswer r false []
    else ((s.chargeOld l).outWrite l (leBytes n (redVal op n (leNat (s.mem.read key n)) (x.toNat % 2 ^ (8 * n))))).ixAnswer r true []
  | .redF x =>
    if bad then s.ixAnswer r false [] else ((s.chargeOld l).outWrite l (leBytes 4 (faddVal (leNat (s.mem.read key 4)) x.toNat))).ixAnswer r true []
  | .msg _ _ => s
/-- A request of a peer: admitted, translated and performed, or refused (R376, R377). -/
def servePeer (s : State) (r : IxReq) : Option State :=
  if !s.trust.power || s.trust.boot || s.trust.recovery then some s
  else match r.op with
    | .msg t v => some (if s.admits r none then (s.deliver r.own t v 0).ixAnswer r true [] else s.ixAnswer r false [])
    | _ =>
      if !s.admits r (some r.ia) then some (s.ixAnswer r false [])
      else match s.inboundLoc r (IxOpWrites r.op) with
        | none => some (s.ixAnswer r false [])
        | some l => if s.heldBack l then none else some (s.inboundDo r l)

/-- The recovery mailbox as the PF reads it (R426, R427). -/
def recoveryRead (s : State) (fn off len : Nat) : State :=
  if hostSpace off = 3 then s.configRead fn off len
  else if fn = 0 && hostSpace off = 1 then s.send (.readDone fn (s.mailbox (off % 2 ^ 48) len))
  else s.unsupported fn
/-- A request is served, and none while it must wait. -/
def serveHost (s : State) (kept : Bool) : HostReq → Option State
  | .post fn off bs => some (if s.portUp then s.servePost fn off bs kept else s)
  | .read fn off len =>
    if s.portUp then s.serveRead fn off len
    else some (if s.host.up && s.trust.power && !s.trust.boot && s.trust.recovery then s.recoveryRead fn off len else s)
  | .write fn off bs => if s.portUp then s.serveWrite fn off bs kept else some s
  | .peer r => s.servePeer r

/-! ### Waiting requests (R271, R304, R321) -/

/-- The function of a host's request, and none for a peer's. -/
def HostReq.fn? : HostReq → Option Nat
  | .post fn _ _ => some fn
  | .read fn _ _ => some fn
  | .write fn _ _ => some fn
  | .peer _ => none
/-- A read moves outward, a post or a write inward. -/
def HostReq.inward : HostReq → Bool
  | .read _ _ _ => false
  | _ => true
def HostReq.size : HostReq → Nat
  | .post _ _ bs => bs.length
  | .read _ _ len => min len 4096
  | .write _ _ bs => min bs.length 512
  | .peer _ => 0
/-- The owner whose traffic a function's is (R359). -/
def ownerOfFn (s : State) (fn : Nat) : Nat := ((s.fn? fn).map (·.o)).getD 0
/-- A request waits behind another: a host's behind an earlier post or write of its function, a peer's behind an earlier one of its device (R271). -/
def heldBehind (x y : HeldReq) : Bool :=
  match x.r, y.r with
  | .peer a, .peer b => a.dev == b.dev
  | .peer _, _ => false
  | _, .peer _ => false
  | a, b => HostReq.fn? a == HostReq.fn? b && HostReq.inward b
/-- The first held request of those that satisfy a condition that can move: nothing before it holds it, and it is served. -/
def heldMove (s : State) (f : HeldReq → Bool) : Option (Nat × HeldReq × State) :=
  ((List.range s.host.held.length).zip s.host.held).findSome? (fun x =>
    if f x.2 && !(s.host.held.take x.1).any (heldBehind x.2) then
      (serveHost { s with host := { s.host with held := s.host.held.eraseIdx x.1 } } x.2.kept x.2.r).map (fun t => (x.1, x.2, t))
    else none)
/-- The traffic of an owner in a direction. -/
def trafficOf (s : State) (o : Nat) (inw : Bool) (x : HeldReq) : Bool := match HostReq.fn? x.r with | some fn => s.ownerOfFn fn == o && HostReq.inward x.r == inw | none => false
/-- HOSTW times 256 bytes; a weight of 0 is read as 1 (R299, R304). -/
def hostShare (s : State) (o : Nat) : Nat := 256 * max 1 (bits (s.owner o).cfg.toNat 47 40)
/-- A direction's round goes on: the owner whose turn it is, or the next in ascending id that has traffic to move, moves bytes of its first request, which is
served once all of it has moved (R304). A round keeps the weights that stood when it began; it ends where no owner has traffic (R301). -/
def roundStep (s : State) (inw : Bool) : State :=
  let r := if inw then s.host.roundIn else s.host.roundOut
  let ws := if inw then s.host.shareIn else s.host.shareOut
  let put (s : State) (o left : Nat) (ws : List Nat) : State :=
    s.modHost (fun h => if inw then { h with roundIn := (o, left), shareIn := ws } else { h with roundOut := (o, left), shareOut := ws })
  let shares (o : Nat) : List Nat := if ws.isEmpty || decide (o ≤ r.1) then (List.range 16).map s.hostShare else ws
  let turn : Option (Nat × Nat × List Nat × Nat × HeldReq × State) :=
    match (if r.2 = 0 then none else s.heldMove (s.trafficOf r.1 inw)) with
    | some m => some (r.1, r.2, ws, m)
    | none => ((List.range 16).map (fun i => (r.1 + 1 + i) % 16)).findSome? (fun o =>
        (s.heldMove (s.trafficOf o inw)).map (fun m => (o, (shares o).getD o 256, shares o, m)))
  match turn with
  | none => put s r.1 0 []
  | some (o, left, ws, k, x, t) =>
    let n := HostReq.size x.r - x.moved
    let goes := t.host.held.any (fun y => (HostReq.fn? y.r).isSome && HostReq.inward y.r == inw)
    if n ≤ left then (if goes then put t o (left - n) ws else put t o 0 [])
    else put (s.modHost (fun h => { h with held := h.held.set k { x with moved := x.moved + left } })) o 0 ws
/-- The memory space of a request's function is open as it reaches the port (R365, R366). -/
def spaceOpen (s : State) (x : HostReq) : Bool :=
  match HostReq.fn? x with
  | some fn => (match s.fnThere fn with | some f => fnOpen f | none => false)
  | none => false
/-- At a port that holds nothing no round is in progress: the next one takes the weights that stand when it begins (R301). -/
def idlePort (s : State) : State :=
  if s.host.held.isEmpty then s.modHost (fun h => { h with roundIn := (h.roundIn.1, 0), shareIn := [], roundOut := (h.roundOut.1, 0), shareOut := [] }) else s
/-- A request arrives at its port: in a pause it is held in arrival order (R321), and so is one that must wait or that finds others waiting. -/
def takeHost (s : State) (x : HostReq) : State :=
  let s := s.idlePort
  let hold : State := s.modHost (fun h => { h with held := h.held ++ [{ r := x, kept := s.spaceOpen x }] })
  if s.rot.pause.isSome || !s.host.held.isEmpty then hold
  else match s.serveHost (s.spaceOpen x) x with
    | some s' => s'
    | none => hold
/-- The ports go on with what waits: a peer's request, and a turn of each direction of the host port. -/
def hostPump (s : State) : State :=
  if s.rot.pause.isSome then s
  else
    let s := ((s.heldMove (fun x => (HostReq.fn? x.r).isNone)).map (fun m => m.2.2)).getD s
    (s.roundStep true).roundStep false

/-! ### Resets of functions (R365, R366) -/

/-- Unstarted records of functions' queues are discarded, those of spawns too. -/
def dropRecs (s : State) (p : Nat → Bool) : State :=
  s.modGraph (fun g => { g with recs := g.recs.filter (fun r => !p (s.fnOfQueue r.wq)) })
def resetVf (f : Fn) : Fn := { f with memEn := false, msixEn := false, masked := List.range 64, table := [], pba := [], d3 := false, bars := Vector.replicate 3 0 }
/-- What an FLR of the PF, a hot reset and a link-down do (R366): requests not yet forwarded are dropped, and CXL.cache holds no line after it. The pending
bits of a removed VF wait until it exists again. -/
def resetPf (s : State) : State :=
  (s.dropRecs (fun _ => true)).modHost (fun h =>
    { h with vfEnable := false, spdm := 0, cxlCache := false, hdm := 0, held := h.held.filter (fun x => (HostReq.fn? x.r).isNone)
             fns := h.fns.map (fun (f : Fn) => if f.k = 0 then resetVf f else { resetVf f with present := false, pba := f.pba }) })
/-! ### Attestation (R371, R429) -/

/-- The measurement blocks 1 to 5. -/
def measurements (s : State) : List Byte :=
  leBytes 64 Config.romDigest.toNat ++ leBytes 64 s.trust.payload.toNat ++ leBytes 4 s.trust.svn ++ leBytes 4 s.trust.fusedSvn ++
  leBytes 64 (shake256 (quadBytes [s.regs.livemap, s.regs.slicemap])).toNat ++
  leBytes 64 (shake256 (((List.range 16).filter s.enabled).flatMap (fun o => (s.owner o).desc.raw))).toNat
/-- The response of the responder to a request (SPDM 1.3 numbers, PRESUMED; bits 15 to 8 of the request number name a certificate slot): its code and its body.
ML-DSA-65 and SHAKE256 are chosen, slot 0 holds the chain and every other is empty, a challenge and the measurements are signed under the alias key
(R371, R428, R429); the fields that no rule gives are free values (log 59). -/
def spdmAnswer (s : State) (code : Nat) : Nat × List Byte :=
  let free : List Byte := leBytes 64 s.free.toNat
  let chain := Config.certChain s.trust.payload
  match code % 256 with
  | 0x84 => (0x04, [0x13])
  | 0xE1 => (0x61, free)
  | 0xE3 => (0x63, [65, 1])
  | 0x81 => (0x01, 1 :: leBytes 64 (shake256 chain).toNat)
  | 0x82 => if code / 256 % 256 = 0 then (0x02, chain) else (0x7F, [0x01])
  | 0x83 => if code / 256 % 256 = 0 then (0x03, free ++ s.aliasSign free) else (0x7F, [0x01])
  | 0xE0 => (0x60, s.measurements ++ s.aliasSign s.measurements)
  | _ => (0x7F, [0x07])

end State

/-- HOST_POST (R360, R362, R364): a whole record in a queue's post window is one arrival; any other write to BAR0 is lost. -/
def execHostPost (fn off : Nat) (bytes : List (BitVec 8)) (s : State) : Res := .next (s.takeHost (.post fn off bytes))
/-- HOST_MEMORY_READ (R358, R359, R361, R363, R364, R370, R427): the port itself answers configuration reads, in a pause too. -/
def execHostMemoryRead (fn off len : Nat) (s : State) : Res :=
  if State.hostSpace off = 3 && s.portUp then .next (s.configRead fn off len) else .next (s.takeHost (.read fn off len))
/-- HOST_MEMORY_WRITE (R271, R358, R361, R363, R364). -/
def execHostMemoryWrite (fn off : Nat) (bytes : List (BitVec 8)) (s : State) : Res := .next (s.takeHost (.write fn off bytes))
/-- VF_FLR (R365): posts that have reached the port go on. -/
def execVfFlr (fn : Nat) (s : State) : Res :=
  match s.fn? fn with
  | none => .next s
  | some f =>
    if fn = 0 || 512 < fn || !f.present then .next s
    else .next ((s.dropRecs (· == fn)).modFn fn State.resetVf)
/-- PF_FLR (R366). -/
def execPfFlr (s : State) : Res := .next s.resetPf
/-- HOT_RESET (R366). -/
def execHotReset (s : State) : Res := .next s.resetPf
/-- LINK_DOWN (R366). -/
def execLinkDown (s : State) : Res := .next (s.resetPf.modHost (fun h => { h with up := false }))
/-- LINK_UP (R357). -/
def execLinkUp (s : State) : Res := .next (if s.trust.power then s.modHost (fun h => { h with up := true }) else s)
/-- SPDM_REQUEST (R371). -/
def execSpdmRequest (code : Nat) (s : State) : Res :=
  if !s.portUp then .next s
  else
    let a := s.spdmAnswer code
    .next ((s.drawn.modHost (fun h => { h with spdm := code })).send (.spdm a.1 a.2))
/-- CONFIGURATION_WRITE (R357, R365, R366): what is 0 memory space, 1 VF Enable with its count, 2 the power state, 3 MSI-X Enable, 4 the mask of a vector,
5 CXL of the PF (bit 0 CXL.cache, the rest the HDM range in units of 256 MiB, at most 128 GiB), 6 error status bits to clear, 7 to 9 BAR0, BAR2 and BAR4 (R361);
a VF that is not assigned takes none (R359). -/
def execConfigurationWrite (fn what val : Nat) (s : State) : Res :=
  if !s.host.up || !s.trust.power then .next s
  else if what = 1 then
    if fn != 0 then .next s
    else if val = 0 then
      .next ((s.dropRecs (· != 0)).modHost (fun h =>
        { h with vfEnable := false, fns := h.fns.map (fun (f : Fn) => if f.k = 0 then f else { State.resetVf f with present := false, pba := f.pba }) }))
    else
      .next ((((List.range (min val 512)).foldl (fun (s : State) k => s.modFn (k + 1) (fun f => { f with present := true })) s)).modHost (fun h => { h with vfEnable := true }))
  else match s.fnThere fn with
    | none => .next s
    | some _ =>
      match what with
      | 0 => .next (s.modFn fn (fun f => { f with memEn := val % 2 == 1 }))
      | 2 => .next (s.modFn fn (fun f => { f with d3 := val % 4 == 3 }))
      | 3 => .next ((s.modFn fn (fun f => { f with msixEn := val % 2 == 1 })).sendPending fn)
      | 4 => .next (s.modFn fn (fun f => { f with masked := setIns f.masked (val % 64) }))
      | 5 => .next (if fn = 0 then s.modHost (fun h => { h with cxlCache := val % 2 == 1, hdm := min (val / 2 * 2 ^ 28) (2 ^ 37) }) else s)
      | 7 | 8 | 9 => .next (s.modFn fn (fun f => { f with bars := f.bars.set (Fin.ofNat 3 (what - 7)) (BitVec.ofNat 64 val) }))
      | 6 => .next (s.modFn fn (fun f => { f with aer := f.aer &&& (2 ^ 32 - 1 - val % 2 ^ 32) }))
      | _ => .next s
/-- MSIX_VECTOR_UNMASK (R367): a pending vector is sent. -/
def execMsixVectorUnmask (fn vec : Nat) (s : State) : Res :=
  match s.fnThere fn with
  | some _ => .next ((s.modFn fn (fun f => { f with masked := f.masked.filter (· != vec) })).sendPending fn)
  | none => .next s

end Sys2Proof.Machine
end

