-- ==== Sys2Proof/Machine/Pulls.lean ====
section
/-! DEFINITION. Pulls: the pages that accesses wait for, the pull unit, and what it and its source receive (R419, R420). -/

namespace Sys2Proof.Machine

namespace State

/-- The page that an access at a location waits for, and that of an access of a place to an address, at the address itself or at a table of its walk. -/
def locPage (s : State) (o : Nat) (l : Loc) : List Nat := match l with | .dram x p _ => if x = o && s.pullPending o p then [p / 65536] else [] | _ => []
def vaPage (s : State) (p : Place) (ea : Addr) : List Nat :=
  match s.region p ea with
  | .translated va =>
    let va := s.viaPair p.o va
    (match s.tlbHit p va with
     | some t => s.locPage p.o (tlbLoc t va)
     | none => match s.walkT p.o p.l va with
       | (.ok t, _) => s.locPage p.o (tlbLoc t va)
       | (.error 0, t) => t.held.toList
       | _ => [])
  | _ => []
/-- The pages that the check of a node table waits for, at its entries and at their successor arrays (R283). -/
def tablePages (s : State) (o : Nat) (a : Addr) : Nat → List Nat
  | 0 => []
  | n + 1 =>
    s.vaPage ⟨o, 0, 0⟩ a ++
    (match s.ownerLoc o a false with
     | none => []
     | some l =>
       let q := quadsOf 16 (s.readLoc l 128)
       let succ : Addr := (q.getD 4 0).setWidth 48
       (List.range (bits (qd q 5) 7 0)).flatMap (fun i => s.vaPage ⟨o, 0, 0⟩ (succ + BitVec.ofNat 48 (2 * i))) ++ tablePages s o (a + 128) n)
def recPages (s : State) (o : Nat) (q : List Word) : List Nat := s.tablePages o ((q.getD 4 0).setWidth 48) (bits (qd q 5) 12 0)
/-- The pages that the record of a spawn, or of a host post, waits for. -/
def spawnPages (s : State) (o : Nat) (r : Req) : List Nat :=
  match r.kind with
  | .spawn _ _ => if r.pl.o = o && s.spawnWaits r then s.recPages o (quadsOf 16 (s.readLoc r.loc 128)) else []
  | _ => []
def postPages (s : State) (o : Nat) (a : Arrival) : List Nat :=
  let c := s.wqcfg a.wq
  if bits c 55 52 = o && s.postWaits a then
    (if s.recWaits o (bits c 57 56) a.q then s.recPages o a.q else s.vaPage ⟨o, 0, 0⟩ ((a.q.getD 12 0).setWidth 48))
  else []
/-- The page that a write of a unit waits for: at its place, or at a table of its walk. -/
def shadowPage (s : State) (p : Place) (sel : List (Nat × Nat)) (ea : Addr) : List Nat :=
  match s.shadowLoc p sel ea with
  | .ok (l, _) => s.locPage p.o l
  | .error (4, 0) => (match s.region p ea with
    | .translated va => (s.walkT p.o p.l (s.shadowed p.o sel va).1).2.held.toList
    | _ => [])
  | .error _ => []
/-- The pages that a copy unit waits for: of the unit to be sent, and of the writes that are not yet performed. -/
def copyPages (s : State) (p : Place) (m : Copy) : List Nat :=
  (if m.finished then [] else ((m.srcAt m.unit).map (fun a => s.vaPage p a)).getD [] ++ s.shadowPage p m.shadow (m.dstAt m.unit)) ++
  m.wq.flatMap (fun w => match s.writeAt p m w with | .ok (l, _) => s.locPage p.o l | .error _ => s.shadowPage p m.shadow w.ea)
/-- The pages that hold a stream's freeze line: of its fetch, and of the plain accesses of its next stream beat (R174, R214). -/
def streamPages (s : State) (st : Stream) : List Nat :=
  let b := match st.beat with | some x => x + 1 | none => 0
  let x := s.beatOpens st b
  s.vaPage (origin st) st.fpc ++
  (match x.1.inject x.2 with
   | none => []
   | some (s2, st2) => (s2.streamThreads st.id).flatMap (fun t =>
       match (bundleAt st2 t.pl.c b).bind (fun y => (decoded y.w).head?) with
       | none => []
       | some d =>
         let s3 := { s2 with me := t }
         if !s3.accessHolds st2 d.i then []
         else match instrAccess d.i with
           | some (a, o, _) => s3.vaPage t.pl (ea0 ((s3.linked st2 t).s[a] + o))
           | none => []))
/-- The pages that a held request of a host or of a peer waits for. -/
def heldPages (s : State) (o : Nat) (x : HostReq) : List Nat :=
  let window (fn off n : Nat) : List Nat :=
    match s.fnThere fn with
    | none => []
    | some f => if hostSpace off = 1 || hostSpace off = 2 || hostSpace off = 3 then []
                else (pieces (n + 1) (off % 2 ^ 48) n).flatMap (fun p => match s.windowLoc f p.1 false with | some l => s.locPage o l | none => [])
  match x with
  | .post _ _ _ => []
  | .read fn off len => window fn off (min len 4096)
  | .write fn off bs => window fn off (min bs.length 512)
  | .peer r => if r.own = o && s.admits r (some r.ia) then (match s.inboundLoc r (IxOpWrites r.op) with | some l => s.locPage o l | none => []) else []
/-- Pages that an access waits for: requests, walks, fetches, streams, spawn records and posts, copy units, readouts, installs, completion records, and what the
ports hold (R419). -/
def pullDemands (s : State) (o : Nat) : List Nat :=
  (s.net.flatMap (fun r => s.locPage o r.loc ++ s.spawnPages o r) ++
   (s.walks.filter (·.o == o)).flatMap (fun w => (s.walkT w.o w.l w.va).2.held.toList) ++
   (s.threads.filter (fun t => t.pl.o == o && t.slot.isSome && t.park == .none)).flatMap (fun t => s.vaPage t.pl t.pc) ++
   (s.graph.streams.filter (fun t => t.o == o && t.started)).flatMap s.streamPages ++
   s.graph.arrivals.flatMap (s.postPages o) ++
   (s.cores.filter (·.pl.o == o)).flatMap (fun c => match s.copyHead c.pl with | some m => s.copyPages c.pl m | none => []) ++
   (s.cmds.filter (·.pl.o == o)).flatMap (fun c => c.wq.flatMap (fun w => s.shadowPage c.pl c.shadow (BitVec.ofNat 48 w.a))) ++
   (s.flash.installs.filter (fun x => x.o == o && x.st != .ended)).flatMap (fun x =>
     s.vaPage x.pl (BitVec.ofNat 48 (iSrc x.q + 16384 * x.pages)) ++ s.vaPage x.pl (BitVec.ofNat 48 (iCrec x.q))) ++
   (s.graph.launches.filter (fun x => x.r.o == o && x.ending.isSome)).flatMap (fun x => s.vaPage ⟨o, 0, 0⟩ ((x.r.q.getD 12 0).setWidth 48)) ++
   s.host.held.flatMap (fun x => s.heldPages o x.r)).eraseDups
/-- The pull unit of an owner: demanded pages first, then the bitmap in ascending order with at most 16 in flight. In a pause it starts none: what a failed pull
leaves to its waiters could not be performed before Qr (R420). -/
def pullPump (s : State) (o : Nat) : State :=
  if !s.pullEn o || (s.owner o).inScrub || s.rot.pause.isSome then s
  else
    let s := (s.pullDemands o).foldl (fun (s : State) p => if s.pullFlying o p then s else s.pullStart o p) s
    (s.pullLeft o).foldl (fun (s : State) p =>
      if s.pullFlying o p || decide (16 ≤ (s.trust.pulls.filter (fun x => x.o == o)).length) then s else s.pullStart o p) s
def pullPumpAll (s : State) : State := (List.range 16).foldl (fun (s : State) o => s.pullPump o) s
/-- PULLCFG is written: pulls in flight end when EN falls. -/
def writePullcfg (s : State) (v : Word) : State :=
  let o := s.ownsel
  let s := s.modOwner o (fun x => { x with pullcfg := v &&& 0x800FFFFFFFFFF000 })
  if s.pullEn o then s.pullPump o else s.modTrust (fun t => { t with pulls := t.pulls.filter (fun x => x.o != o) })

/-- The source serves a page while its owner is held and PEERS names an entry with the requester's device and owner (R419). -/
def pullServe (s : State) (o dev rown p : Nat) : State :=
  if (s.owner o).held && (s.stepPeers o).any (fun k => s.peerDev o k == dev && s.peerRown o k == rown) && decide (65536 * (p + 1) ≤ s.dramSize o) then
    let s := (List.range 512).foldl (fun (s : State) i => s.chargeMem false (.dram o (65536 * p + 128 * i) .cacheable)) s
    let keys := (List.range 512).map (fun i => s.dramKey o (65536 * p + 128 * i))
    (s.send (.pullPage dev rown p (keys.flatMap (fun k => s.mem.read k 128) ++ State.packBits 64 (keys.map s.poisonedKey)))).charge o 10 65536
  else s.send (.pullNo dev rown p)
/-- A page arrives: it is written with the poison marks of its source, its bit is cleared, and what waited may be performed (R419). -/
def pageArrives (s : State) (o page : Nat) (bytes marks : List Byte) : State :=
  if !s.pullFlying o page then s
  else
    let s := (List.range 512).foldl (fun (s : State) i =>
      let k := s.dramKey o (65536 * page + 128 * i)
      let s := s.chargeMem true (.dram o (65536 * page + 128 * i) .cacheable)
      if s.lostKey k && (s.micaHas k).isNone then s
      else (s.modMem (fun m => m.write k (fit 128 (bytes.drop (128 * i))))).markPoison k (State.bitAt marks 0 i)) s
    (s.pullClear o page).pullPump o
/-- The source refuses (R420). -/
def pageRefused (s : State) (o page : Nat) : State := if s.pullFlying o page then (s.pullFail o page).pullPump o else s
/-- What an Ixnar port lets in. -/
def ixDo (s : State) : IxIn → State
  | .token o dev num => s.tokenArrives o dev num
  | .serve o dev rown p => s.pullServe (o % 16) dev rown p
  | .page o page bytes marks => s.pageArrives (o % 16) page bytes marks
  | .refused o page => s.pageRefused (o % 16) page
/-- After a pause the ports go on with what they hold, in arrival order: the first token or piece of pull traffic, and what the hosts and the peers wait for. -/
def portPump (s : State) : State :=
  if s.rot.pause.isSome then s
  else match s.host.ixHeld with
    | x :: xs => ((s.modHost (fun h => { h with ixHeld := xs })).ixDo x).hostPump
    | [] => s.hostPump

end State

/-- PULL_REQUEST_SERVE (R419); the port holds one that arrives in a pause (R318, R321). -/
def execPullRequestServe (o dev rown p : Nat) (s : State) : Res :=
  .next (if s.ixHolds then s.holdIx (.serve o dev rown p) else s.pullServe (o % 16) dev rown p)
/-- PULL_REPLY (R419); the port holds one that arrives in a pause. -/
def execPullReply (o page : Nat) (bytes marks : List (BitVec 8)) (s : State) : Res :=
  .next (if s.ixHolds then s.holdIx (.page o page bytes marks) else s.pageArrives (o % 16) page bytes marks)
/-- PULL_TIMEOUT (R420): no reply in 2^24 target cycles outside pauses. -/
def execPullTimeout (o page : Nat) (s : State) : Res :=
  let o := o % 16
  if s.trust.pulls.any (fun x => x.o == o && x.page == page && decide (x.start + 2 ^ 24 ≤ s.q)) && s.rot.pause.isNone then .next ((s.pullFail o page).pullPump o) else .next s
/-- PULL_REFUSAL (R420); the port holds one that arrives in a pause. -/
def execPullRefusal (o page : Nat) (s : State) : Res :=
  .next (if s.ixHolds then s.holdIx (.refused o page) else s.pageRefused (o % 16) page)

end Sys2Proof.Machine
end

