-- ==== Sys2Proof/Machine/Ixnar.lean ====
section
/-! DEFINITION. Ixnar: requests that arrive from peers, and the state of the links (R372 to R377). -/

namespace Sys2Proof.Machine

/-- IXNAR_INBOUND_REQUEST (R376, R377): held in a pause (R321); admitted, translated and performed, or refused. -/
def execIxnarInboundRequest (r : IxReq) (s : State) : Res := .next (s.takeHost (.peer r))
/-- IXNAR_LINK_STATE_CHANGE (R372, R375). -/
def execIxnarLinkStateChange (k : Nat) (up : Bool) (s : State) : Res :=
  if 18 ≤ k || !s.trust.power then .next s
  else .next (s.modRegs (fun m => { m with ixup := if up then m.ixup ||| BitVec.ofNat 18 (2 ^ k) else m.ixup &&& ~~~(BitVec.ofNat 18 (2 ^ k)) }))

end Sys2Proof.Machine
end

