-- ==== Sys2Proof/Machine/SpecialRegs.lean ====
section
/-! DEFINITION. SpecialRegs: the special registers, as rsr reads and wsr writes them (R11, R61, R113 to R115, and the maps of the other chapters). -/

namespace Sys2Proof.Machine

namespace State

/-! ### Per-thread registers (R61, R113) -/

/-- A per-thread register as its bundle reads it (R68, R115). R42 has a read of FCSR include the flags of every earlier bundle, long ones too, and R115 gives
the value that stands at issue; the model follows R115: flags of results that have not landed are not in it (DESIGN CHOICE, log 123). -/
def readThread (s : State) (n : Nat) : Word :=
  let t := s.iss.src
  match n with
  | 0x000 => t.tid.setWidth 64
  | 0x001 => BitVec.ofNat 64 (t.pl.c % 128)
  | 0x002 => BitVec.ofNat 64 (t.pl.l % 256)
  | 0x003 => BitVec.ofNat 64 (s.nslot t.pl.o)
  | 0x004 => BitVec.ofNat 64 (s.beat * 8)
  | 0x008 => t.taskb
  | 0x009 => t.frzc
  | 0x00A => s.rot.seq
  | 0x010 => (t.pw ||| 0x80).setWidth 64
  | 0x011 => BitVec.ofNat 64 t.pendMask
  | 0x012 => t.redpend.setWidth 64
  | 0x013 => t.qpos.setWidth 64
  | 0x014 => BitVec.ofNat 64 (t.tslot.toNat * 2 ^ 24 + t.tcore.toNat * 2 ^ 16 + t.run.toNat * 2 ^ 8 + t.thresh.toNat)
  | 0x018 => t.fcsr
  | 0x020 => t.trapb.setWidth 64
  | 0x021 => t.fpc.setWidth 64
  | 0x022 => t.fcode.setWidth 64
  | 0x023 => t.faddr.setWidth 64
  | 0x028 => t.step
  | _ => 0
/-- A per-thread register is written under its access code (R11, R40, R60, R114). -/
def writeThread (t : Thread) (n : Nat) (v : Word) : Thread :=
  match n with
  | 0x010 => { t with pw := v.setWidth 8 ||| 0x80 }
  | 0x013 => { t with qpos := v.setWidth 16 }
  | 0x014 => { t with thresh := v.setWidth 8 }
  | 0x018 => { t with fcsr := v &&& 0x31F }
  | 0x020 => { t with trapb := v.setWidth 48 &&& ~~~3#48 }
  | 0x021 => { t with fpc := v.setWidth 48 &&& ~~~3#48 }
  | 0x022 => { t with fcode := v.setWidth 16 }
  | 0x023 => { t with faddr := v.setWidth 48 }
  | _ => t

/-! ### Monitor registers that are views -/

/-- WQSTAT (R279). -/
def readWqstat (s : State) : Word :=
  let q := bits s.regs.wqsel.toNat 9 0
  BitVec.ofNat 64 (alGet 0 q s.graph.refused % 65536 * 2 ^ 32 + alGet 0 q s.graph.dropped % 65536 * 2 ^ 16 + s.occ q)
/-- A tenancy field of SLOTMAP (R316). -/
def tenField (s : State) (i k : Nat) : Nat :=
  match s.rot.tens.find? (fun t => t.idx == i && t.k == k) with
  | some t => 2 ^ 10 + t.o % 16 * 2 ^ 6 + t.l % 64
  | none => 0
/-- SLOTMAP (R316). -/
def readSlotmap (s : State) : Word :=
  let i := bits s.regs.slotsel.toNat 5 0
  BitVec.ofNat 64 (alGet 0 i s.rot.cur % 4 * 2 ^ 46 + s.tenField i 3 * 2 ^ 33 + s.tenField i 2 * 2 ^ 22 + s.tenField i 1 * 2 ^ 11 + s.tenField i 0)
/-- FNCFG (R359). -/
def readFncfg (s : State) : Word :=
  let k := bits s.regs.fnsel.toNat 9 0
  if 512 < k then 0
  else match s.fn? k with
    | some f => BitVec.ofNat 64 ((if f.en || k == 0 then 2 ^ 63 else 0) + (if f.frozen then 2 ^ 62 else 0) + (if k = 0 then 0 else f.o % 16 * 2 ^ 52))
    | none => 0
/-- FNCFG is written; the PF's, and that of a function of an owner in scrub, ignore it (R359, R440). -/
def writeFncfg (s : State) (v : Word) : State :=
  let k := bits s.regs.fnsel.toNat 9 0
  let held := match s.fn? k with | some f => f.en && (s.owner f.o).inScrub | none => false
  if k = 0 || 512 < k || held then s else s.modFn k (fun f => { f with en := bit v.toNat 63, o := bits v.toNat 55 52 })
/-- COLSTAT (R398); of RBPOS the 17 bits of its field are read, so that its last value 131,072, which they do not hold, reads as 0 (DESIGN CHOICE, log 127). -/
def readColstat (s : State) : Word :=
  let k := bits s.regs.colsel.toNat 9 0
  let c := s.column k
  let spare := ((s.rot.retired.find? (fun x => x.1 == k && decide (x.2 < 8))).map (·.2)).getD 15
  BitVec.ofNat 64 (c.rbpos % 131072 * 2 ^ 32 + c.st * 2 ^ 26 + (if c.half then 2 ^ 25 else 0) + c.lost % 16 * 2 ^ 20 + spare % 16 * 2 ^ 16 + c.hot % 512)
/-- KEYSTAT (R431). -/
def readKeystat (s : State) : Word :=
  (List.range 32).foldl (fun (w : Word) k =>
    w ||| BitVec.ofNat 64 ((if s.blockedKey k then 2 ^ (32 + k) else 0) + (if (s.trust.keys.map (·.1)).contains k then 2 ^ k else 0))) 0
/-- STEPST (R408). -/
def readStepst (s : State) : Word :=
  let x := s.owner s.ownsel
  BitVec.ofNat 64 (x.num.toNat * 2 ^ 32 + (if x.held then 4 else 0) + (if x.local_ then 2 else 0))
/-- SLCMD is written: OWNER takes the value; OP 1 or 2 starts a command unless one is in progress; one of an owner whose teardown has
begun ends with CODE 7 (R414). -/
def writeSlcmd (s : State) (v : Word) : State :=
  let op := bits v.toNat 3 0
  let o := bits v.toNat 7 4
  let busy := bit s.regs.slcmd.toNat 63
  let go := !busy && (op == 1 || op == 2)
  let s := s.modRegs (fun r => { r with slcmd := BitVec.ofNat 64 ((if busy || go then 2 ^ 63 else 0) + bits r.slcmd.toNat 15 8 * 256 + o * 16) })
  let torn := (s.owner o).inScrub || (s.owner o).freezing == some 0x81
  if go then s.modTrust (fun t => { t with slateOp := if torn then 107 else op, slateOwner := o }) else s
/-- A root is written: at once for an owner that is not enabled, else at the next invalidation (R334). -/
def writeRoot (s : State) (one : Bool) (v : Word) : State :=
  let o := s.ownsel
  let v := v &&& 0x0000FFFFFFFFF001
  let s := s.modOwner o (fun x => if one then { x with s1rt := v } else { x with s2rt := v })
  if s.enabled o then s else s.modOwner o (fun x => if one then { x with s1act := v } else { x with s2act := v })

/-! ### Monitor registers by number -/

def readMon (s : State) (n : Nat) : Word :=
  let x := s.owner s.ownsel
  match n with
  | 0x800 => s.regs.livemap
  | 0x801 => s.regs.slicemap
  | 0x840 => s.regs.wovb
  | 0x841 => s.regs.wovn
  | 0x844 => s.regs.splt
  | 0x848 => s.regs.bptb
  | 0x850 => s.regs.wqsel
  | 0x853 => s.regs.inbt
  | 0x860 => s.regs.ownsel
  | 0x863 => s.regs.owntb
  | 0x864 => s.regs.capsel
  | 0x870 => s.regs.slsel
  | 0x880 => s.regs.rotiv
  | 0x881 => s.regs.slotsel
  | 0x883 => s.regs.tsiv
  | 0x884 => s.regs.savt
  | 0x890 => s.regs.evrb
  | 0x891 => s.regs.evrn
  | 0x892 => s.regs.evhd
  | 0x894 => s.regs.evnq
  | 0x8A0 => s.regs.fnsel
  | 0x8B0 => s.regs.ixcfg
  | 0x8B2 => s.regs.ixtb
  | 0x8C0 => s.regs.wlim
  | 0x8C1 => s.regs.wxsel
  | 0x8D0 => s.regs.colsel
  | 0x8D4 => s.regs.pscfg
  | 0x8E9 => s.regs.sldst
  | 0x904 => s.regs.metcfg
  | 0x905 => s.regs.metring
  | 0x90E => s.regs.slvk
  | 0x851 => alGet 0 (bits s.regs.wqsel.toNat 9 0) s.graph.wqcfg
  | 0x852 => s.readWqstat
  | 0x861 => x.cfg
  | 0x862 => s.readOwnstat
  | 0x865 => s.readCapent
  | 0x866 => x.s1rt
  | 0x867 => x.s2rt
  | 0x868 => x.rrange[0]
  | 0x869 => x.rrange[1]
  | 0x86A => x.rrange[2]
  | 0x86B => x.rrange[3]
  | 0x86C => x.rrange[4]
  | 0x86D => x.rrange[5]
  | 0x86E => x.rrange[6]
  | 0x86F => x.rrange[7]
  | 0x871 => s.readWaypart
  | 0x882 => s.readSlotmap
  | 0x893 => s.regs.evtl
  | 0x8A1 => s.readFncfg
  | 0x8B1 => BitVec.ofNat 64 (s.regs.ixdrops.toNat * 2 ^ 32 + s.regs.ixup.toNat)
  | 0x8C2 => s.wxstat (bits s.regs.wxsel.toNat 17 0)
  | 0x8C3 => x.ibused.setWidth 64
  | 0x8C4 => x.stgcfg
  | 0x8D1 => s.readColstat
  | 0x8D2 => let c := s.column (bits s.regs.colsel.toNat 9 0); Config.vlat c.k c.st c.half c.hot &&& 0xFFFFFFFF
  | 0x8D3 => (s.rot.hollow.foldl (fun (w : Word) k => w ||| BitVec.ofNat 64 (2 ^ k)) 0)
  | 0x8E0 => x.stepcfg
  | 0x8E1 => s.readStepst
  | 0x8E8 => s.regs.slcmd
  | 0x8EC => x.slman
  | 0x8F0 => x.pullcfg
  | 0x8F1 => s.readPullst s.ownsel
  | 0x900 => s.readKeystat
  | 0x906 => s.regs.metptr
  | 0x90C => s.regs.scrubprog
  | _ => 0
/-- A monitor register is written under its access codes; registers that are read only take no write. -/
def writeMon (s : State) (n : Nat) (v : Word) : State :=
  match n with
  | 0x840 => s.modRegs (fun r => { r with wovb := v &&& 0x0000FFFFFFFFF000 })
  | 0x841 => s.modRegs (fun r => { r with wovn := v &&& 0x00000000FFFFFFFF })
  | 0x844 => s.modRegs (fun r => { r with splt := v &&& 0x0000FFFFFFFFF000 })
  | 0x848 => s.modRegs (fun r => { r with bptb := v &&& 0x0000FFFFFFFF8000 })
  | 0x850 => s.modRegs (fun r => { r with wqsel := v &&& 0x00000000000003FF })
  | 0x853 => s.modRegs (fun r => { r with inbt := v &&& 0x0000FFFFFFFFF000 })
  | 0x860 => s.modRegs (fun r => { r with ownsel := v &&& 0x000000000000000F })
  | 0x863 => s.modRegs (fun r => { r with owntb := v &&& 0x0000FFFFFFFF0000 })
  | 0x864 => s.modRegs (fun r => { r with capsel := v &&& 0x000000000000FFF7 })
  | 0x870 => s.modRegs (fun r => { r with slsel := v &&& 0x000000000000003F })
  | 0x880 => s.modRegs (fun r => { r with rotiv := v &&& 0x800000000000FFFF })
  | 0x881 => s.modRegs (fun r => { r with slotsel := v &&& 0x000000000000003F })
  | 0x883 => s.modRegs (fun r => { r with tsiv := v &&& 0x000000000000FFFF })
  | 0x884 => s.modRegs (fun r => { r with savt := v &&& 0x0000FFFFFFFFF000 })
  | 0x890 => s.modRegs (fun r => { r with evrb := v &&& 0x0000FFFFFFFFF000 })
  | 0x891 => s.modRegs (fun r => { r with evrn := v &&& 0x000000000000FFFF })
  | 0x892 => s.modRegs (fun r => { r with evhd := v &&& 0x000000000000FFFF })
  | 0x894 => s.modRegs (fun r => { r with evnq := v &&& 0x8000000000FFFFFF })
  | 0x8A0 => s.modRegs (fun r => { r with fnsel := v &&& 0x00000000000003FF })
  | 0x8B0 => s.modRegs (fun r => { r with ixcfg := v &&& 0x000003FFFF0000FF })
  | 0x8B2 => s.modRegs (fun r => { r with ixtb := v &&& 0x0000FFFFFFFFF000 })
  | 0x8C0 => s.modRegs (fun r => { r with wlim := v &&& 0x00000000FFFFFFFF })
  | 0x8C1 => s.modRegs (fun r => { r with wxsel := v &&& 0x000000000003FFFF })
  | 0x8D0 => s.modRegs (fun r => { r with colsel := v &&& 0x00000000000003FF })
  | 0x8D4 => s.modRegs (fun r => { r with pscfg := v &&& 0x80000000FFFFFFFF })
  | 0x8E9 => s.modRegs (fun r => { r with sldst := v &&& 0xFFFFFFFFFFFFF000 })
  | 0x904 => s.modRegs (fun r => { r with metcfg := v &&& 0x800000000000FFFF })
  | 0x905 => s.modRegs (fun r => { r with metring := v &&& 0x0000FFFFFFFFFFFF })
  | 0x90E => s.modRegs (fun r => { r with slvk := v &&& 0x0000FFFFFFFFFFC0 })
  | 0x851 => s.modGraph (fun g => { g with wqcfg := alSet (bits s.regs.wqsel.toNat 9 0) (v &&& 0x83FFFC0000000000) g.wqcfg })
  | 0x861 => s.writeOwncfg v
  | 0x865 => s.writeCapent v
  | 0x866 => s.writeRoot true v
  | 0x867 => s.writeRoot false v
  | 0x868 => s.writeRrange 0 v
  | 0x869 => s.writeRrange 1 v
  | 0x86A => s.writeRrange 2 v
  | 0x86B => s.writeRrange 3 v
  | 0x86C => s.writeRrange 4 v
  | 0x86D => s.writeRrange 5 v
  | 0x86E => s.writeRrange 6 v
  | 0x86F => s.writeRrange 7 v
  | 0x8A1 => s.writeFncfg v
  | 0x8C4 => s.modOwner s.ownsel (fun x => { x with stgcfg := v &&& 0x0000FFFFFF00FFFF })
  | 0x8E0 => s.modOwner s.ownsel (fun x => { x with stepcfg := v &&& 0x800000000000FFFF })
  | 0x8E1 => if bit v.toNat 0 then s.stepResume s.ownsel else s
  | 0x8E8 => s.writeSlcmd v
  | 0x8EC => s.modOwner s.ownsel (fun x => { x with slman := v &&& 0x0000FFFFFFFFFFC0 })
  | 0x8F0 => s.writePullcfg v
  | 0x906 => s.modRegs (fun r => { r with metptr := BitVec.ofNat 64 (bits v.toNat 27 16 * 2 ^ 16 + bits r.metptr.toNat 11 0) })
  | _ => s

end State

/-- RSR (R113 to R115). -/
def execRsr (d : Fin 16) (n : BitVec 12) (s : State) : Res :=
  if n.toNat < 0x800 then .next (s.wS d (s.readThread n.toNat))
  else if s.monitorLevel then .next (s.wS d (s.readMon n.toNat))
  else .next (s.raise 5 0 (n.setWidth 48))
/-- WSR (R113 to R115); a write that enables an owner parks the thread until its check ends (R445). -/
def execWsr (a : Fin 16) (n : BitVec 12) (s : State) : Res :=
  let v := s.rS a
  if n.toNat < 0x800 then .next { s with me := State.writeThread s.me n.toNat v }
  else if !s.monitorLevel then .next (s.raise 5 0 (n.setWidth 48))
  else if n.toNat = 0x861 && bit v.toNat 63 && !s.enabled s.ownsel then
    .next (((s.writeMon n.toNat v).parkAfter .enable).modMe (fun t => { t with woken := true }))
  else .next (s.writeMon n.toNat v)
/-- REGISTER_WRITE (R11). -/
def execRegisterWrite (n : Nat) (v : BitVec 64) (s : State) : Res :=
  .next (if n < 0x800 then { s with me := State.writeThread s.me n v } else s.writeMon n v)

end Sys2Proof.Machine
end

