-- ==== Sys2Proof/Machine/Vector.lean ====
section
/-! DEFINITION. Vector: the vector instructions (R116 to R139; 06_vector.md). Every result is short, flags of the lanes are ORed into FCSR (R117). -/

namespace Sys2Proof.Machine

/-- A vector result with its flags (R41, R117). -/
def vRes (s : State) (d : Fin 16) (r : VWord × Flags) : Res := .next ((s.wV d r.1).orF r.2)

/-- VSEL (R126). -/
def execVsel (d a b c : Fin 16) (s : State) : Res := .next (s.wV d ((s.rV a &&& s.rV c) ||| (s.rV b &&& ~~~(s.rV c))))
/-- VFMA (R124). -/
def execVfma (d a b c : Fin 16) (t : FltT) (s : State) : Res := vRes s d (vFmaL s.rm t (s.rV a) (s.rV b) (s.rV c))
/-- VFMS (R124). -/
def execVfms (d a b c : Fin 16) (t : FltT) (s : State) : Res := vRes s d (vFmsL s.rm t (s.rV a) (s.rV b) (s.rV c))
/-- VDOTG8 (R132). -/
def execVdotG8 (d a b c : Fin 16) (s : State) : Res := vRes s d (vDotG8L s.rm (s.rV d) (s.rV a) (s.rV b) (s.rS c))
/-- VDOTBF16 (R133). -/
def execVdotBf16 (d a b : Fin 16) (s : State) : Res := vRes s d (vDotBf16L s.rm (s.rV d) (s.rV a) (s.rV b))
/-- VDOTI8 (R134). -/
def execVdotI8 (d a b : Fin 16) (s : State) : Res := .next (s.wV d (vDotI8L (s.rV d) (s.rV a) (s.rV b)))
/-- VADD (R119, R122). -/
def execVadd (d a b : Fin 16) (t : LaneT) (s : State) : Res := vRes s d (vAddL s.rm t (s.rV a) (s.rV b))
/-- VSUB (R119, R122). -/
def execVsub (d a b : Fin 16) (t : LaneT) (s : State) : Res := vRes s d (vSubL s.rm t (s.rV a) (s.rV b))
/-- VMUL (R119, R122). -/
def execVmul (d a b : Fin 16) (t : LaneT) (s : State) : Res := vRes s d (vMulL s.rm t (s.rV a) (s.rV b))
/-- VNEG (R119, R122). -/
def execVneg (d a : Fin 16) (t : LaneT) (s : State) : Res := vRes s d (vNegL t (s.rV a))
/-- VABS (R119, R122). -/
def execVabs (d a : Fin 16) (t : LaneT) (s : State) : Res := vRes s d (vAbsL t (s.rV a))
/-- VMIN (R119, R123). -/
def execVmin (d a b : Fin 16) (t : LaneT) (s : State) : Res := vRes s d (vMinL t (s.rV a) (s.rV b))
/-- VMAX (R119, R123). -/
def execVmax (d a b : Fin 16) (t : LaneT) (s : State) : Res := vRes s d (vMaxL t (s.rV a) (s.rV b))
/-- VAND (R120). -/
def execVand (d a b : Fin 16) (_t : LaneT) (s : State) : Res := .next (s.wV d (s.rV a &&& s.rV b))
/-- VOR (R120). -/
def execVor (d a b : Fin 16) (_t : LaneT) (s : State) : Res := .next (s.wV d (s.rV a ||| s.rV b))
/-- VXOR (R120). -/
def execVxor (d a b : Fin 16) (_t : LaneT) (s : State) : Res := .next (s.wV d (s.rV a ^^^ s.rV b))
/-- VANDN (R120). -/
def execVandn (d a b : Fin 16) (_t : LaneT) (s : State) : Res := .next (s.wV d (s.rV a &&& ~~~(s.rV b)))
/-- VSHL (R120). -/
def execVshl (d a b : Fin 16) (t : LaneT) (s : State) : Res := .next (s.wV d (vShiftL t iShl (s.rV a) (fun j => lane (LaneT.width t) (s.rV b) j)))
/-- VSHR (R120). -/
def execVshr (d a b : Fin 16) (t : LaneT) (s : State) : Res := .next (s.wV d (vShiftL t (fun _ x n => iShr x n) (s.rV a) (fun j => lane (LaneT.width t) (s.rV b) j)))
/-- VSAR (R120). -/
def execVsar (d a b : Fin 16) (t : LaneT) (s : State) : Res := .next (s.wV d (vShiftL t iSar (s.rV a) (fun j => lane (LaneT.width t) (s.rV b) j)))
/-- VCMPEQ (R125). -/
def execVcmpEq (d a b : Fin 16) (t : LaneT) (s : State) : Res := vRes s d (vCmpL 0 t (s.rV a) (s.rV b))
/-- VCMPLT (R125). -/
def execVcmpLt (d a b : Fin 16) (t : LaneT) (s : State) : Res := vRes s d (vCmpL 1 t (s.rV a) (s.rV b))
/-- VCMPLE (R125). -/
def execVcmpLe (d a b : Fin 16) (t : LaneT) (s : State) : Res := vRes s d (vCmpL 2 t (s.rV a) (s.rV b))
/-- VSUM (R131). -/
def execVsum (d a : Fin 16) (t : LaneT) (s : State) : Res := vRes s d (vSumL s.rm t (s.rV a))
/-- VBCAST (R127). -/
def execVbcast (d a : Fin 16) (t : LaneT) (s : State) : Res := .next (s.wV d (vBcastL t (s.rS a)))
/-- VEXT (R127). -/
def execVext (d a b : Fin 16) (t : LaneT) (s : State) : Res := .next (s.wS d (vExtL t (s.rV a) b.val))
/-- VINS (R127). -/
def execVins (d a b : Fin 16) (t : LaneT) (s : State) : Res := .next (s.wV d (vInsL t (s.rV d) (s.rS a) b.val))
/-- VPERM (R128). -/
def execVperm (d a b : Fin 16) (t : LaneT) (s : State) : Res := .next (s.wV d (vPermL t (s.rV a) (s.rV b)))
/-- VROUND (R136). -/
def execVround (d a : Fin 16) (t : LaneT) (s : State) : Res := vRes s d (vRoundL s.rm t (s.rV a))
/-- VSCALE (R137). -/
def execVscale (d a b : Fin 16) (t : LaneT) (s : State) : Res := vRes s d (vScaleL s.rm t (s.rV a) (s.rV b))
/-- VEXPO (R138). -/
def execVexpo (d a : Fin 16) (t : LaneT) (s : State) : Res := vRes s d (vExpoL t (s.rV a))
/-- VRCPA (R139). -/
def execVrcpa (d a : Fin 16) (s : State) : Res := vRes s d (ofLanesF 32 4 (fun j => vrcpaLane (lane 32 (s.rV a) j)))
/-- VRSQRTA (R139). -/
def execVrsqrta (d a : Fin 16) (s : State) : Res := vRes s d (ofLanesF 32 4 (fun j => vrsqrtaLane (lane 32 (s.rV a) j)))
/-- VSAT (R121). -/
def execVsat (d a : Fin 16) (t : LaneT) (s : State) : Res := .next (s.wV d (vSatL t (s.rV a)))
/-- VPACK (R129). -/
def execVpack (d a b : Fin 16) (t : LaneT) (s : State) : Res := vRes s d (vPackL s.rm t (s.rV a) (s.rV b))
/-- VUNPACK (R130). -/
def execVunpack (d a b : Fin 16) (t : LaneT) (s : State) : Res := vRes s d (vUnpackL t (s.rV a) b.val)
/-- VSHLI (R120). -/
def execVshli (d a : Fin 16) (t : LaneT) (k : BitVec 6) (s : State) : Res := .next (s.wV d (vShiftL t iShl (s.rV a) (fun _ => k.toNat)))
/-- VCVT (R135). -/
def execVcvt (d a b : Fin 16) (ts t : LaneT) (s : State) : Res := vRes s d (vCvtL s.rm t ts (s.rV a) (s.rS b))

end Sys2Proof.Machine
end

