-- ==== Sys2Proof/Machine/Dispatch.lean ====
section
/-! DEFINITION. Dispatch: one arm per row of the opcode table. -/

namespace Sys2Proof.Machine

open Sys2Proof

def exec (i : Instr) (s : State) : Host.Outcome State Fault Refusal :=
  match i with
  | .br o => Sys2Proof.Machine.execBr o s
  | .call o => Sys2Proof.Machine.execCall o s
  | .dbnz d o => Sys2Proof.Machine.execDbnz d o s
  | .jmp a => Sys2Proof.Machine.execJmp a s
  | .ret a => Sys2Proof.Machine.execRet a s
  | .send => Sys2Proof.Machine.execSend s
  | .exit => Sys2Proof.Machine.execExit s
  | .yield => Sys2Proof.Machine.execYield s
  | .trap n => Sys2Proof.Machine.execTrap n s
  | .brk => Sys2Proof.Machine.execBrk s
  | .rte => Sys2Proof.Machine.execRte s
  | .rsr d n => Sys2Proof.Machine.execRsr d n s
  | .wsr a n => Sys2Proof.Machine.execWsr a n s
  | .sloop d o => Sys2Proof.Machine.execSloop d o s
  | .ldB d a imm => Sys2Proof.Machine.execLdB d a imm s
  | .ldH d a imm => Sys2Proof.Machine.execLdH d a imm s
  | .ldW d a imm => Sys2Proof.Machine.execLdW d a imm s
  | .ldD d a imm => Sys2Proof.Machine.execLdD d a imm s
  | .ldnB d a imm => Sys2Proof.Machine.execLdnB d a imm s
  | .ldnH d a imm => Sys2Proof.Machine.execLdnH d a imm s
  | .ldnW d a imm => Sys2Proof.Machine.execLdnW d a imm s
  | .vld d a imm => Sys2Proof.Machine.execVld d a imm s
  | .stB d a imm => Sys2Proof.Machine.execStB d a imm s
  | .stH d a imm => Sys2Proof.Machine.execStH d a imm s
  | .stW d a imm => Sys2Proof.Machine.execStW d a imm s
  | .stD d a imm => Sys2Proof.Machine.execStD d a imm s
  | .vst d a imm => Sys2Proof.Machine.execVst d a imm s
  | .vldBc d a t => Sys2Proof.Machine.execVldBc d a t s
  | .vldk d a b => Sys2Proof.Machine.execVldk d a b s
  | .pref a => Sys2Proof.Machine.execPref a s
  | .prefR a => Sys2Proof.Machine.execPrefR a s
  | .fenceK => Sys2Proof.Machine.execFenceK s
  | .fenceS => Sys2Proof.Machine.execFenceS s
  | .fenceO => Sys2Proof.Machine.execFenceO s
  | .fenceY => Sys2Proof.Machine.execFenceY s
  | .ldfe d a => Sys2Proof.Machine.execLdfe d a s
  | .ldff d a => Sys2Proof.Machine.execLdff d a s
  | .stfe a b => Sys2Proof.Machine.execStfe a b s
  | .stf a b => Sys2Proof.Machine.execStf a b s
  | .feClr a => Sys2Proof.Machine.execFeClr a s
  | .lrw d a => Sys2Proof.Machine.execLrw d a s
  | .scq a b => Sys2Proof.Machine.execScq a b s
  | .rsvRel a => Sys2Proof.Machine.execRsvRel a s
  | .amoD d a b o => Sys2Proof.Machine.execAmoD d a b o s
  | .amoW d a b o => Sys2Proof.Machine.execAmoW d a b o s
  | .redD a b o => Sys2Proof.Machine.execRedD a b o s
  | .redW a b o => Sys2Proof.Machine.execRedW a b o s
  | .redFaddF32 a b => Sys2Proof.Machine.execRedFaddF32 a b s
  | .areg n => Sys2Proof.Machine.execAreg n s
  | .barInit a b => Sys2Proof.Machine.execBarInit a b s
  | .barArrive a => Sys2Proof.Machine.execBarArrive a s
  | .barWait a => Sys2Proof.Machine.execBarWait a s
  | .barSync a => Sys2Proof.Machine.execBarSync a s
  | .qpush a b => Sys2Proof.Machine.execQpush a b s
  | .qpop d a => Sys2Proof.Machine.execQpop d a s
  | .qpeek d a => Sys2Proof.Machine.execQpeek d a s
  | .qredI32 d a b => Sys2Proof.Machine.execQredI32 d a b s
  | .qredI64 d a b => Sys2Proof.Machine.execQredI64 d a b s
  | .qredF32 d a b => Sys2Proof.Machine.execQredF32 d a b s
  | .msg a b => Sys2Proof.Machine.execMsg a b s
  | .mrecv d => Sys2Proof.Machine.execMrecv d s
  | .go a => Sys2Proof.Machine.execGo a s
  | .spawn d a => Sys2Proof.Machine.execSpawn d a s
  | .step => Sys2Proof.Machine.execStep s
  | .fexp2 d a u => Sys2Proof.Machine.execFexp2 d a u s
  | .flog2 d a u => Sys2Proof.Machine.execFlog2 d a u s
  | .frcp d a u => Sys2Proof.Machine.execFrcp d a u s
  | .frsqrt d a u => Sys2Proof.Machine.execFrsqrt d a u s
  | .fsqrt d a u => Sys2Proof.Machine.execFsqrt d a u s
  | .fsinp d a u => Sys2Proof.Machine.execFsinp d a u s
  | .fcosp d a u => Sys2Proof.Machine.execFcosp d a u s
  | .ftanh d a u => Sys2Proof.Machine.execFtanh d a u s
  | .fsigm d a u => Sys2Proof.Machine.execFsigm d a u s
  | .mgrp d a => Sys2Proof.Machine.execMgrp d a s
  | .mclr d a b => Sys2Proof.Machine.execMclr d a b s
  | .mmaG8 d a b => Sys2Proof.Machine.execMmaG8 d a b s
  | .mmaI8 d a b => Sys2Proof.Machine.execMmaI8 d a b s
  | .mmaBf16 d a b => Sys2Proof.Machine.execMmaBf16 d a b s
  | .mmaG8bf d a b => Sys2Proof.Machine.execMmaG8bf d a b s
  | .mrd d a b => Sys2Proof.Machine.execMrd d a b s
  | .mrdq d a b => Sys2Proof.Machine.execMrdq d a b s
  | .mstat d b => Sys2Proof.Machine.execMstat d b s
  | .mfence b => Sys2Proof.Machine.execMfence b s
  | .cp1d a => Sys2Proof.Machine.execCp1d a s
  | .cp2d a => Sys2Proof.Machine.execCp2d a s
  | .cp3d a => Sys2Proof.Machine.execCp3d a s
  | .cpGather a => Sys2Proof.Machine.execCpGather a s
  | .cpScatter a => Sys2Proof.Machine.execCpScatter a s
  | .cpFill a => Sys2Proof.Machine.execCpFill a s
  | .chset a b => Sys2Proof.Machine.execChset b a s
  | .chq d b => Sys2Proof.Machine.execChq d b s
  | .publish a => Sys2Proof.Machine.execPublish a s
  | .winst d a => Sys2Proof.Machine.execWinst d a s
  | .wstat d a => Sys2Proof.Machine.execWstat d a s
  | .tlbinv a => Sys2Proof.Machine.execTlbinv a s
  | .keyld a b => Sys2Proof.Machine.execKeyld a b s
  | .keyzap a => Sys2Proof.Machine.execKeyzap a s
  | .scrub a => Sys2Proof.Machine.execScrub a s
  | .evpost a => Sys2Proof.Machine.execEvpost a s
  | .rotctlSuspend a => Sys2Proof.Machine.execRotctlSuspend a s
  | .rotctlResume a => Sys2Proof.Machine.execRotctlResume a s
  | .rotctlExtraRotation a => Sys2Proof.Machine.execRotctlExtraRotation a s
  | .rotctlExtraSwitch a => Sys2Proof.Machine.execRotctlExtraSwitch a s
  | .slotctlPlace a b => Sys2Proof.Machine.execSlotctlPlace a b s
  | .slotctlRemove a b => Sys2Proof.Machine.execSlotctlRemove a b s
  | .slotctlSpill a b => Sys2Proof.Machine.execSlotctlSpill a b s
  | .waypart a b => Sys2Proof.Machine.execWaypart a b s
  | .frzFreezeOwner a => Sys2Proof.Machine.execFrzFreezeOwner a s
  | .frzReleaseOwner a => Sys2Proof.Machine.execFrzReleaseOwner a s
  | .frzFreezeFunction a => Sys2Proof.Machine.execFrzFreezeFunction a s
  | .frzReleaseFunction a => Sys2Proof.Machine.execFrzReleaseFunction a s
  | .frzEndTask a => Sys2Proof.Machine.execFrzEndTask a s
  | .ldt d a u => Sys2Proof.Machine.execLdt d a u s
  | .vldt d a u => Sys2Proof.Machine.execVldt d a u s
  | .hint n => Sys2Proof.Machine.execHint n s
  | .nop n => Sys2Proof.Machine.execNop n s
  | .add d a b => Sys2Proof.Machine.execAdd d a b s
  | .sub d a b => Sys2Proof.Machine.execSub d a b s
  | .mul d a b => Sys2Proof.Machine.execMul d a b s
  | .mulh d a b => Sys2Proof.Machine.execMulh d a b s
  | .mulhn d a b => Sys2Proof.Machine.execMulhn d a b s
  | .div d a b => Sys2Proof.Machine.execDiv d a b s
  | .divn d a b => Sys2Proof.Machine.execDivn d a b s
  | .rem d a b => Sys2Proof.Machine.execRem d a b s
  | .remn d a b => Sys2Proof.Machine.execRemn d a b s
  | .and d a b => Sys2Proof.Machine.execAnd d a b s
  | .or d a b => Sys2Proof.Machine.execOr d a b s
  | .xor d a b => Sys2Proof.Machine.execXor d a b s
  | .andn d a b => Sys2Proof.Machine.execAndn d a b s
  | .orn d a b => Sys2Proof.Machine.execOrn d a b s
  | .shl d a b => Sys2Proof.Machine.execShl d a b s
  | .shr d a b => Sys2Proof.Machine.execShr d a b s
  | .sar d a b => Sys2Proof.Machine.execSar d a b s
  | .rotl d a b => Sys2Proof.Machine.execRotl d a b s
  | .min d a b => Sys2Proof.Machine.execMin d a b s
  | .max d a b => Sys2Proof.Machine.execMax d a b s
  | .minn d a b => Sys2Proof.Machine.execMinn d a b s
  | .maxn d a b => Sys2Proof.Machine.execMaxn d a b s
  | .clz d a => Sys2Proof.Machine.execClz d a s
  | .ctz d a => Sys2Proof.Machine.execCtz d a s
  | .popc d a => Sys2Proof.Machine.execPopc d a s
  | .mov d a => Sys2Proof.Machine.execMov d a s
  | .cmpEq d a b => Sys2Proof.Machine.execCmpEq d a b s
  | .cmpNe d a b => Sys2Proof.Machine.execCmpNe d a b s
  | .cmpLt d a b => Sys2Proof.Machine.execCmpLt d a b s
  | .cmpLe d a b => Sys2Proof.Machine.execCmpLe d a b s
  | .cmpLtn d a b => Sys2Proof.Machine.execCmpLtn d a b s
  | .cmpLen d a b => Sys2Proof.Machine.execCmpLen d a b s
  | .pset d b => Sys2Proof.Machine.execPset d b s
  | .pand d a b => Sys2Proof.Machine.execPand d a b s
  | .por d a b => Sys2Proof.Machine.execPor d a b s
  | .pnot d a => Sys2Proof.Machine.execPnot d a s
  | .addi d a imm => Sys2Proof.Machine.execAddi d a imm s
  | .andi d a imm => Sys2Proof.Machine.execAndi d a imm s
  | .ori d a imm => Sys2Proof.Machine.execOri d a imm s
  | .xori d a imm => Sys2Proof.Machine.execXori d a imm s
  | .shli d a k => Sys2Proof.Machine.execShli d a k s
  | .shri d a k => Sys2Proof.Machine.execShri d a k s
  | .sari d a k => Sys2Proof.Machine.execSari d a k s
  | .roti d a k => Sys2Proof.Machine.execRoti d a k s
  | .bfx d a q e => Sys2Proof.Machine.execBfx d a q e s
  | .bfxn d a q e => Sys2Proof.Machine.execBfxn d a q e s
  | .bfi d a q e => Sys2Proof.Machine.execBfi d a q e s
  | .li d imm => Sys2Proof.Machine.execLi d imm s
  | .lis d imm => Sys2Proof.Machine.execLis d imm s
  | .sel d a b c => Sys2Proof.Machine.execSel d a b c s
  | .vsel d a b c => Sys2Proof.Machine.execVsel d a b c s
  | .vfma d a b c t => Sys2Proof.Machine.execVfma d a b c t s
  | .vfms d a b c t => Sys2Proof.Machine.execVfms d a b c t s
  | .vdotG8 d a b c => Sys2Proof.Machine.execVdotG8 d a b c s
  | .vdotBf16 d a b => Sys2Proof.Machine.execVdotBf16 d a b s
  | .vdotI8 d a b => Sys2Proof.Machine.execVdotI8 d a b s
  | .cmpiEq d a imm => Sys2Proof.Machine.execCmpiEq d a imm s
  | .cmpiNe d a imm => Sys2Proof.Machine.execCmpiNe d a imm s
  | .cmpiLt d a imm => Sys2Proof.Machine.execCmpiLt d a imm s
  | .cmpiLe d a imm => Sys2Proof.Machine.execCmpiLe d a imm s
  | .cmpiLtn d a imm => Sys2Proof.Machine.execCmpiLtn d a imm s
  | .cmpiLen d a imm => Sys2Proof.Machine.execCmpiLen d a imm s
  | .vadd d a b t => Sys2Proof.Machine.execVadd d a b t s
  | .vsub d a b t => Sys2Proof.Machine.execVsub d a b t s
  | .vmul d a b t => Sys2Proof.Machine.execVmul d a b t s
  | .vneg d a t => Sys2Proof.Machine.execVneg d a t s
  | .vabs d a t => Sys2Proof.Machine.execVabs d a t s
  | .vmin d a b t => Sys2Proof.Machine.execVmin d a b t s
  | .vmax d a b t => Sys2Proof.Machine.execVmax d a b t s
  | .vand d a b t => Sys2Proof.Machine.execVand d a b t s
  | .vor d a b t => Sys2Proof.Machine.execVor d a b t s
  | .vxor d a b t => Sys2Proof.Machine.execVxor d a b t s
  | .vandn d a b t => Sys2Proof.Machine.execVandn d a b t s
  | .vshl d a b t => Sys2Proof.Machine.execVshl d a b t s
  | .vshr d a b t => Sys2Proof.Machine.execVshr d a b t s
  | .vsar d a b t => Sys2Proof.Machine.execVsar d a b t s
  | .vcmpEq d a b t => Sys2Proof.Machine.execVcmpEq d a b t s
  | .vcmpLt d a b t => Sys2Proof.Machine.execVcmpLt d a b t s
  | .vcmpLe d a b t => Sys2Proof.Machine.execVcmpLe d a b t s
  | .vsum d a t => Sys2Proof.Machine.execVsum d a t s
  | .vbcast d a t => Sys2Proof.Machine.execVbcast d a t s
  | .vext d a b t => Sys2Proof.Machine.execVext d a b t s
  | .vins d a b t => Sys2Proof.Machine.execVins d a b t s
  | .vperm d a b t => Sys2Proof.Machine.execVperm d a b t s
  | .vround d a t => Sys2Proof.Machine.execVround d a t s
  | .vscale d a b t => Sys2Proof.Machine.execVscale d a b t s
  | .vexpo d a t => Sys2Proof.Machine.execVexpo d a t s
  | .vrcpa d a => Sys2Proof.Machine.execVrcpa d a s
  | .vrsqrta d a => Sys2Proof.Machine.execVrsqrta d a s
  | .vsat d a t => Sys2Proof.Machine.execVsat d a t s
  | .vpack d a b t => Sys2Proof.Machine.execVpack d a b t s
  | .vunpack d a b t => Sys2Proof.Machine.execVunpack d a b t s
  | .vshli d a t k => Sys2Proof.Machine.execVshli d a t k s
  | .vcvt d a b ts t => Sys2Proof.Machine.execVcvt d a b ts t s
  | .beatBoundary => Sys2Proof.Machine.execBeatBoundary s
  | .longResultLand uid id => Sys2Proof.Machine.execLongResultLand uid id s
  | .sfuAccept o l c => Sys2Proof.Machine.execSfuAccept o l c s
  | .sfuResultLand id => Sys2Proof.Machine.execSfuResultLand id s
  | .migrationDepart uid => Sys2Proof.Machine.execMigrationDepart uid s
  | .packetArrive pid => Sys2Proof.Machine.execPacketArrive pid s
  | .exitComplete uid => Sys2Proof.Machine.execExitComplete uid s
  | .fenceComplete uid => Sys2Proof.Machine.execFenceComplete uid s
  | .streamStart sid => Sys2Proof.Machine.execStreamStart sid s
  | .streamBeatBegin sid => Sys2Proof.Machine.execStreamBeatBegin sid s
  | .streamEnd sid => Sys2Proof.Machine.execStreamEnd sid s
  | .remoteLoadServe id => Sys2Proof.Machine.execRemoteLoadServe id s
  | .storePerform id => Sys2Proof.Machine.execStorePerform id s
  | .syncOpArrive id => Sys2Proof.Machine.execSyncOpArrive id s
  | .amoPerform id => Sys2Proof.Machine.execAmoPerform id s
  | .reductionPerform id => Sys2Proof.Machine.execReductionPerform id s
  | .atomicRegionPerform id => Sys2Proof.Machine.execAtomicRegionPerform id s
  | .barrierOpArrive id => Sys2Proof.Machine.execBarrierOpArrive id s
  | .queuePushArrive id => Sys2Proof.Machine.execQueuePushArrive id s
  | .messageArrive id => Sys2Proof.Machine.execMessageArrive id s
  | .tlbWalkEnd wid => Sys2Proof.Machine.execTlbWalkEnd wid s
  | .tlbinvAck uid => Sys2Proof.Machine.execTlbinvAck uid s
  | .engineCommandArrive cid imm j => Sys2Proof.Machine.execEngineCommandArrive cid imm j s
  | .engineCommandStart cid imm j => Sys2Proof.Machine.execEngineCommandStart cid imm j s
  | .engineCommandComplete cid => Sys2Proof.Machine.execEngineCommandComplete cid s
  | .mfenceComplete uid => Sys2Proof.Machine.execMfenceComplete uid s
  | .copyCommandBegin o l c => Sys2Proof.Machine.execCopyCommandBegin o l c s
  | .copyUnitTurn o l c => Sys2Proof.Machine.execCopyUnitTurn o l c s
  | .copyCommandComplete o l c => Sys2Proof.Machine.execCopyCommandComplete o l c s
  | .pairExchange uid => Sys2Proof.Machine.execPairExchange uid s
  | .recordArrive id => Sys2Proof.Machine.execRecordArrive id s
  | .launchStart q => Sys2Proof.Machine.execLaunchStart q s
  | .taskDispatch o => Sys2Proof.Machine.execTaskDispatch o s
  | .ownerEnable v => Sys2Proof.Machine.execOwnerEnable v s
  | .capentWrite v => Sys2Proof.Machine.execCapentWrite v s
  | .rrangeWrite k v => Sys2Proof.Machine.execRrangeWrite k v s
  | .registerWrite n v => Sys2Proof.Machine.execRegisterWrite n v s
  | .freezeStart o => Sys2Proof.Machine.execFreezeStart o s
  | .rotationDue => Sys2Proof.Machine.execRotationDue s
  | .switchDue => Sys2Proof.Machine.execSwitchDue s
  | .engineStepStop cid imm j => Sys2Proof.Machine.execEngineStepStop cid imm j s
  | .routerFlush => Sys2Proof.Machine.execRouterFlush s
  | .memoryDrainEnd => Sys2Proof.Machine.execMemoryDrainEnd s
  | .rotationMove => Sys2Proof.Machine.execRotationMove s
  | .moveEnd => Sys2Proof.Machine.execMoveEnd s
  | .slotMapSwitch => Sys2Proof.Machine.execSlotMapSwitch s
  | .issueResume => Sys2Proof.Machine.execIssueResume s
  | .rowRestore uid => Sys2Proof.Machine.execRowRestore uid s
  | .waypartComplete n => Sys2Proof.Machine.execWaypartComplete n s
  | .hostPost fn off bytes => Sys2Proof.Machine.execHostPost fn off bytes s
  | .hostMemoryRead fn off len => Sys2Proof.Machine.execHostMemoryRead fn off len s
  | .hostMemoryWrite fn off bytes => Sys2Proof.Machine.execHostMemoryWrite fn off bytes s
  | .vfFlr fn => Sys2Proof.Machine.execVfFlr fn s
  | .pfFlr => Sys2Proof.Machine.execPfFlr s
  | .hotReset => Sys2Proof.Machine.execHotReset s
  | .linkDown => Sys2Proof.Machine.execLinkDown s
  | .spdmRequest code => Sys2Proof.Machine.execSpdmRequest code s
  | .ixnarInboundRequest r => Sys2Proof.Machine.execIxnarInboundRequest r s
  | .ixnarLinkStateChange k up => Sys2Proof.Machine.execIxnarLinkStateChange k up s
  | .stepReadyToken o dev num => Sys2Proof.Machine.execStepReadyToken o dev num s
  | .localStop o => Sys2Proof.Machine.execLocalStop o s
  | .stepResume o => Sys2Proof.Machine.execStepResume o s
  | .slateWriteImage => Sys2Proof.Machine.execSlateWriteImage s
  | .slateRestore => Sys2Proof.Machine.execSlateRestore s
  | .slateCommandEnd code => Sys2Proof.Machine.execSlateCommandEnd code s
  | .pullRequestServe o dev rown p => Sys2Proof.Machine.execPullRequestServe o dev rown p s
  | .pullReply o page bytes marks => Sys2Proof.Machine.execPullReply o page bytes marks s
  | .pullTimeout o page => Sys2Proof.Machine.execPullTimeout o page s
  | .installRequestArrive id => Sys2Proof.Machine.execInstallRequestArrive id s
  | .installEnd id => Sys2Proof.Machine.execInstallEnd id s
  | .patrolScrubRead unit sector bad => Sys2Proof.Machine.execPatrolScrubRead unit sector bad s
  | .layerLost stack layer => Sys2Proof.Machine.execLayerLost stack layer s
  | .rebuildSector stack bad => Sys2Proof.Machine.execRebuildSector stack bad s
  | .coreLogicFailure tile layer => Sys2Proof.Machine.execCoreLogicFailure tile layer s
  | .laneFailure tile region => Sys2Proof.Machine.execLaneFailure tile region s
  | .refreshRateChange stack layer hot => Sys2Proof.Machine.execRefreshRateChange stack layer hot s
  | .thermalEvent pos layer => Sys2Proof.Machine.execThermalEvent pos layer s
  | .thermalTrip pos layer => Sys2Proof.Machine.execThermalTrip pos layer s
  | .eventAccept k => Sys2Proof.Machine.execEventAccept k s
  | .meteringInterval => Sys2Proof.Machine.execMeteringInterval s
  | .meteringRecordWrite => Sys2Proof.Machine.execMeteringRecordWrite s
  | .teardownTiles => Sys2Proof.Machine.execTeardownTiles s
  | .teardownSlices => Sys2Proof.Machine.execTeardownSlices s
  | .teardownDram => Sys2Proof.Machine.execTeardownDram s
  | .teardownAreas => Sys2Proof.Machine.execTeardownAreas s
  | .teardownKeys => Sys2Proof.Machine.execTeardownKeys s
  | .powerOnReset applied => Sys2Proof.Machine.execPowerOnReset applied s
  | .obsidianBoot => Sys2Proof.Machine.execObsidianBoot s
  | .recoveryBegin len => Sys2Proof.Machine.execRecoveryBegin len s
  | .recoveryAppend => Sys2Proof.Machine.execRecoveryAppend s
  | .recoveryCommit => Sys2Proof.Machine.execRecoveryCommit s
  | .recoveryWriteDone ok => Sys2Proof.Machine.execRecoveryWriteDone ok s
  | .recoveryAbort => Sys2Proof.Machine.execRecoveryAbort s
  | .recoveryReset => Sys2Proof.Machine.execRecoveryReset s
  | .mgmtFreeze o => Sys2Proof.Machine.execMgmtFreeze o s
  | .mgmtRelease o => Sys2Proof.Machine.execMgmtRelease o s
  | .mgmtReadreg o core row reg => Sys2Proof.Machine.execMgmtReadreg o core row reg s
  | .mgmtReadmem o addr len => Sys2Proof.Machine.execMgmtReadmem o addr len s
  | .unassignedWord w => Sys2Proof.Machine.execUnassignedWord w s
  | .instructionFetchFault code sub => Sys2Proof.Machine.execInstructionFetchFault code sub s
  | .powerLoss => Sys2Proof.Machine.execPowerLoss s
  | .mgmtReset => Sys2Proof.Machine.execMgmtReset s
  | .configurationWrite fn what val => Sys2Proof.Machine.execConfigurationWrite fn what val s
  | .msixVectorUnmask fn vec => Sys2Proof.Machine.execMsixVectorUnmask fn vec s
  | .recoveryBufferWrite off v => Sys2Proof.Machine.execRecoveryBufferWrite off v s
  | .pullRefusal o page => Sys2Proof.Machine.execPullRefusal o page s
  | .installPageProgrammed id ok => Sys2Proof.Machine.execInstallPageProgrammed id ok s
  | .linkUp => Sys2Proof.Machine.execLinkUp s

end Sys2Proof.Machine
end

