-- ==== Sys2Proof/Machine/Issue.lean ====
section
/-! DEFINITION. Issue: the turn of a slot: binding, the fetch of a bundle and its checks, the source reads, the halves, the words of an atomic
region, the wait marker, and the turn of a stream's core (R54, R58, R64 to R71, R74, R82, R188, R189, R208 to R212, R345). -/

namespace Sys2Proof.Machine

/-- Reads of pending registers (R65): a long result that is performed and has not landed is read or not, as an open value says; each register is read
as a whole. A stream's results are timed and are never read early (R213). -/
def pendReads (n : Nat) : List Op → Thread → Thread
  | [], t => t
  | o :: os, t =>
    pendReads (n + 1) os
      (match o.dest, o.res with
       | some (.s k), some x => if !o.disc && o.due.isNone && Config.pendRead n then { t with s := t.s.set k (x.setWidth 64) } else t
       | some (.v k), some x => if !o.disc && o.due.isNone && Config.pendRead n then { t with v := t.v.set k x } else t
       | _, _ => t)

/-- A plain load or store of R167, the only words of an atomic region (R188). -/
def plainAccess : Instr → Bool
  | .ldB _ _ _ => true
  | .ldH _ _ _ => true
  | .ldW _ _ _ => true
  | .ldD _ _ _ => true
  | .ldnB _ _ _ => true
  | .ldnH _ _ _ => true
  | .ldnW _ _ _ => true
  | .vld _ _ _ => true
  | .stB _ _ _ => true
  | .stH _ _ _ => true
  | .stW _ _ _ => true
  | .stD _ _ _ => true
  | .vst _ _ _ => true
  | _ => false
/-- A control form that the fetch unit acts on in a stream, whatever its guard reads (R210, log 25). -/
def unitControl : Instr → Bool
  | .sloop _ _ => true
  | .send => true
  | .exit => true
  | _ => false
/-- A W bit of 1 in either word (R74). -/
def waits (ds : List Decoded) : Bool := ds.any (·.w)

namespace State

/-- The bundle that issues: its address, its size, whether it is a pair, and the registers as its halves read them (R68). -/
def latch (s : State) (b : Addr) (z : Nat) (src : Thread) : State :=
  { s with iss := { b := b, z := z, pair := z == 8, src := src, status := .running } }
/-- The source registers of the thread's next bundle; a draw of the open values of R65 is spent when a result is performed and has not landed. -/
def sources (s : State) : Thread := pendReads (32 * s.clk.draw) s.me.ops s.me
def readPending (s : State) : State := if s.me.ops.any (fun o => o.res.isSome && o.dest.isSome) then s.drawn else s

/-- A word is performed when its guard holds over the predicates that the bundle read (R70, R71). -/
def performWord (s : State) (d : Decoded) : Res :=
  if guardOn s.iss.src.pw d.g || (s.inStream && unitControl d.i) then exec d.i s else .next s
/-- The parks at which a completion-time fault leaves the whole bundle unperformed (R345). -/
def wholePark : Park → Bool
  | .fence _ => true
  | .exit => true
  | .step => true
  | _ => false
/-- The first half of a pair is an exit, a fence or a step: neither half is performed until its wait is over, and then a fence waits no more (R110, R345;
log 73). -/
def pairWait (s s' : State) : State :=
  if !wholePark s'.me.park then s'
  else if s.me.pass != 2 then (s.modMe (fun t => { t with pass := 1 })).rewind s'.me.park
  else match s'.me.park with
    | .fence _ => s.modMe (fun t => { t with pass := 0 })
    | _ => s'.modMe (fun t => { t with pass := 0 })
/-- Both halves in turn; when the first has not been performed, the second is not (R74, R82). -/
def performBundle (s : State) : List Decoded → Res
  | [] => .next s
  | [d] => s.performWord d
  | d :: ds =>
    match s.performWord d with
    | .next s' =>
      let t := if s'.iss.status = .running then s.pairWait s' else s'
      if t.iss.status = .running then t.performBundle ds else .next t
    | r => r

/-- After a bundle with W = 1 the thread parks until PEND reads zero; with none pending, its ready faults are taken at once (R67, R345). -/
def waitMark (s : State) (w : Bool) : State :=
  if !w || s.inStream then s
  else if s.me.pendMask != 0 || s.me.park != .none then
    s.modMe (fun t => { t with wmark := true, woken := if t.park = .none then false else t.woken, park := if t.park = .none then .pend else t.park })
  else s.modMe Thread.reckon
/-- The end of a bundle that was performed. In an atomic region the words are counted, the last one ships it, and W takes effect then (R188). -/
def afterBundle (s : State) (before : Option Region) (w : Bool) : State :=
  if s.iss.status != .running then s
  else match before, s.me.region with
    | none, none => s.waitMark w
    | none, some r => s.modMe (fun t => { t with region := some { r with wait := w } })
    | some r0, _ =>
      let r := s.me.region.getD r0
      let r : Region := { r with left := r0.left - 1, wait := r0.wait || w }
      if r.left = 0 then (s.shipRegion r).waitMark r.wait else s.modMe (fun t => { t with region := some r })

/-! ### The end of a turn -/

/-- The issuing thread goes back to its core. -/
def putBack (s : State) : State :=
  { s with threads := if s.me.uid = 0 then s.threads else s.threads ++ [s.me], me := {}, iss := {} }
/-- The turn is over: threads that ended leave, and the slot may bind (R58). -/
def overTurn (s : State) (p : Place) (slot : Nat) (stream : Bool) : State :=
  let s := s.putBack
  let s := s.bury s.threads.length
  if stream then s else s.endTurn p slot
/-- A bundle has issued: its turn counts toward the eight of R58 and toward ISSUED (R434). -/
def countIssue (s : State) (o : Nat) : State := (s.modMe (fun t => { t with turns := t.turns + 1 })).charge o 1 1
/-- What follows a turn in which a bundle issued. -/
def turnDone (p : Place) (slot : Nat) (stream : Bool) : Res → Res
  | .next s => .next ((s.countIssue p.o).overTurn p slot stream)
  | r => r
/-- What follows a turn in which no bundle was formed: the thread has not issued, so its run of consecutive turns is broken (R58). -/
def closeTurn (p : Place) (slot : Nat) : Res → Res
  | .next s => .next ((s.modMe (fun t => { t with turns := 0 })).overTurn p slot false)
  | r => r

/-! ### A task thread's turn -/

/-- A bundle whose words are all assigned and admitted is performed (R82, place 8 on). -/
def performDecoded (s : State) (b : Addr) (ds : List Decoded) : Res :=
  let z := 4 * ds.length
  let src := s.sources
  let s := ((s.readPending).latch b z src).setPc (b + BitVec.ofNat 48 z)
  let before := s.me.region
  let stray := before.isSome && (decide (1 < ds.length) || ds.any (fun d => !plainAccess d.i))
  if stray then .next (s.raise 1 6 b)
  else match s.performBundle ds with
    | .next s' => .next (s'.afterBundle before (waits ds))
    | r => r
/-- A formed bundle: places 2 to 7 of R82, then its halves. -/
def performFormed (s : State) (x : Bundle) : Res :=
  match firstWord wordSub 0 x.ws with
  | some (k, _) => execUnassignedWord (x.ws.getD k 0) (s.latch x.b (4 * (k + 1)) s.me)
  | none =>
    let ds := decoded x.ws
    match s.formFault x.b ds with
    | some (c, n, a) => .next ((s.latch x.b x.z s.me).raise c n a)
    | none => s.performDecoded x.b ds
/-- The turn of the task thread that stands in me: a fault that waits for its next bundle, a page that is still held back, or a bundle (R54, R345, R432). -/
def taskTurn (s : State) : Res :=
  let p := s.me.pl
  let slot := s.me.slot.getD 0
  match s.me.next with
  | some f => closeTurn p slot (.next { s with me := { s.me with next := none }.takeFault f })
  | none =>
    match s.fetchBundle p s.me.pc with
    | .held => closeTurn p slot (.next s)
    | .miss va => closeTurn p slot (.next ((s.latch s.me.pc 4 s.me).missAt va s.me.pc true))
    | .flt c n => closeTurn p slot (execInstructionFetchFault c n (s.latch s.me.pc 4 s.me))
    | .pairing a => closeTurn p slot (.next ((s.latch s.me.pc 4 s.me).raise 1 3 a))
    | .ok x => turnDone p slot false (s.performFormed x)

/-! ### A stream core's turn (R208 to R212, R216) -/

/-- A core performs its bundle of the present stream beat: the checks of R82, then a fault that the fetch unit found, at the origin core. -/
def streamTurn (s : State) (st : Stream) : Res :=
  let p := s.me.pl
  match bundleAt st p.c (st.beat.getD 0) with
  | none => .next (s.overTurn p 0 true)
  | some x =>
    let z := 4 * x.w.length
    let s := (s.latch x.b z (s.linked st s.me)).setPc (x.b + BitVec.ofNat 48 z)
    turnDone p 0 true
      (match firstWord wordSub 0 x.w with
       | some (k, _) => execUnassignedWord (x.w.getD k 0) (s.latch x.b (4 * (k + 1)) s.me)
       | none =>
         match s.formFault x.b (decoded x.w) with
         | some (c, n, a) => .next (s.raise c n a)
         | none =>
           match x.flt with
           | some (c, n, a) => if streamOff st p.c = 0 then .next (s.raise c n a) else .next s
           | none => s.performBundle (decoded x.w))

/-- The bundle of the thread that stands in me. -/
def issueTurn (s : State) : Res :=
  match s.me.strm with
  | none => s.taskTurn
  | some sid =>
    match s.stream? sid with
    | some st => s.streamTurn st
    | none => .next (s.overTurn s.me.pl 0 true)

/-! ### The turn of a slot (R54, R55) -/

/-- A core issues: its owner is resident, no pause and no trip holds, and its logic has not failed. -/
def coreIssues (s : State) (p : Place) : Bool := s.resident p.o p.l && s.rot.pause.isNone && !s.trust.tripped && !s.coreDown p
/-- The stream context that slot 0 issues in this beat: its stream beat has begun at this boundary, or it owes its bundle of the present one, which its core missed
as it failed (R400, log 114). -/
def streamAt (s : State) (p : Place) : Option Thread :=
  s.threads.find? (fun t => t.pl == p && t.evicted.isNone && decide (t.readyAt ≤ s.beat) &&
    (match t.strm.bind s.stream? with | some st => st.started && st.beat.isSome && (st.began == s.beat || t.owed) | none => false))
/-- The thread that a task slot issues: its bound one, or the one that it binds at the start of the turn (R58). -/
def boundAt (s : State) (p : Place) (slot : Nat) : State × Option Thread :=
  let s := s.bindSlot p slot
  (s, s.threads.find? (fun t => t.pl == p && t.slot == some slot && t.strm.isNone))
/-- The thread becomes the issuing one. -/
def takeUp (s : State) (t : Thread) : State :=
  { s with me := t, threads := s.threads.filter (fun x => x.uid != t.uid), clk := { s.clk with ctl := .issue } }
/-- A turn in which nothing issues because a line holds the core or its logic has failed: it breaks a run of eight, and a parked thread may give way (R54, R58). -/
def idleTurn (s : State) (x : Turn) : State :=
  State.endTurn { s with threads := s.threads.map (fun (t : Thread) => if t.pl == x.pl && t.slot == some x.slot && t.strm.isNone then { t with turns := 0 } else t) } x.pl x.slot
/-- A core that has failed misses the bundle of its stream in this beat, which it then owes (R400). -/
def missTurn (s : State) (x : Turn) : State :=
  match (if x.slot = 0 then s.streamAt x.pl else none) with
  | some t => s.modThread t.uid (fun t => { t with owed := true })
  | none => s
/-- A turn begins: a thread issues, or the cycle is idle. -/
def beginTurn (s : State) (x : Turn) : State :=
  if !s.coreIssues x.pl then (if s.rot.pause.isNone && !s.trust.tripped && s.resident x.pl.o x.pl.l then (s.missTurn x).idleTurn x else s)
  else match (if x.slot = 0 then s.streamAt x.pl else none) with
    | some t => s.takeUp { t with owed := false }
    | none =>
      if s.lineAt x.pl then s.idleTurn x
      else
        let r := s.boundAt x.pl x.slot
        match r.2 with
        | none => r.1
        | some t =>
          if t.park = .none && t.readyAt ≤ s.beat then (r.1.fetchTouch t.pl t.pc).takeUp t
          else (r.1.modThread t.uid (fun t => { t with turns := 0 })).endTurn x.pl x.slot

end State

end Sys2Proof.Machine
end

