-- ==== Sys2Proof/Machine/Events.lean ====
section
/-! DEFINITION. Events: what the device does of its own accord: the meaning of each such step, those that a quartz count makes due, and those that may
happen next; no rule orders the steps of different parties (R54, R187, R199, R214, R297, R318 to R327). -/

namespace Sys2Proof.Machine

/-- Rows that an outside party or the hardware's own health causes: hosts, peers, the management port, recovery, flash, heat, failures. -/
def isInput : Instr → Bool
  | .hostPost _ _ _ => true
  | .hostMemoryRead _ _ _ => true
  | .hostMemoryWrite _ _ _ => true
  | .vfFlr _ => true
  | .pfFlr => true
  | .hotReset => true
  | .linkDown => true
  | .linkUp => true
  | .spdmRequest _ => true
  | .configurationWrite _ _ _ => true
  | .msixVectorUnmask _ _ => true
  | .ixnarInboundRequest _ => true
  | .ixnarLinkStateChange _ _ => true
  | .stepReadyToken _ _ _ => true
  | .pullRequestServe _ _ _ _ => true
  | .pullReply _ _ _ _ => true
  | .pullRefusal _ _ => true
  | .patrolScrubRead _ _ _ => true
  | .layerLost _ _ => true
  | .rebuildSector _ _ => true
  | .coreLogicFailure _ _ => true
  | .laneFailure _ _ => true
  | .refreshRateChange _ _ _ => true
  | .thermalEvent _ _ => true
  | .thermalTrip _ _ => true
  | .powerOnReset _ => true
  | .powerLoss => true
  | .mgmtReset => true
  | .mgmtFreeze _ => true
  | .mgmtRelease _ => true
  | .mgmtReadreg _ _ _ _ => true
  | .mgmtReadmem _ _ _ => true
  | .recoveryBegin _ => true
  | .recoveryAppend => true
  | .recoveryCommit => true
  | .recoveryAbort => true
  | .recoveryReset => true
  | .recoveryBufferWrite _ _ => true
  | .recoveryWriteDone _ => true
  | _ => false

namespace State

/-! ### The meaning of each step -/

/-- A request reaches the place that performs it. -/
def runRequest (s : State) (id : Nat) : Res :=
  match s.req? id with
  | none => .next s
  | some r =>
    match r.kind with
    | .load _ _ _ => execRemoteLoadServe id s
    | .store _ | .evpost _ => execStorePerform id s
    | .ldfe | .ldff | .stfe _ | .stf _ | .feClr | .lrw | .scq _ | .rsvRel => execSyncOpArrive id s
    | .amo _ _ _ _ => execAmoPerform id s
    | .red _ _ _ | .redF _ => execReductionPerform id s
    | .region _ => execAtomicRegionPerform id s
    | .barInit _ _ | .barArrive _ | .barWait _ | .barSync _ => execBarrierOpArrive id s
    | .push _ _ => execQueuePushArrive id s
    | .msg _ _ _ _ | .mrecv _ => execMessageArrive id s
    | .spawn _ _ => execRecordArrive id s
    | .wstat _ => execInstallRequestArrive id s
/-- The TLBs and walk caches may drop an entry to make room for others (R341). Owner 0's stay while it has no tables to walk (log 23). -/
def tlbMayDrop (s : State) (t : Tlb) : Bool := t.o != 0 || bit (s.owner 0).s2act.toNat 0
def evictTlb (s : State) (k : Nat) : State :=
  match s.tlb[k]? with
  | some t => if s.tlbMayDrop t then { s with tlb := s.tlb.eraseIdx k } else s
  | none => { s with wcache := s.wcache.eraseIdx (k - s.tlb.length) }
/-- The meaning of a step of the device. -/
def run (s : State) : Due → Res
  | .issueResume => execIssueResume s
  | .rotationDue => execRotationDue s
  | .switchDue => execSwitchDue s
  | .slotMapSwitch => execSlotMapSwitch s
  | .moveEnd => execMoveEnd s
  | .rotationMove => execRotationMove s
  | .routerFlush => execRouterFlush s
  | .memoryDrainEnd => execMemoryDrainEnd s
  | .engineStepStop cid i j => execEngineStepStop cid i j s
  | .freezeStart o => execFreezeStart o s
  | .sfuResultLand id => execSfuResultLand id s
  | .sfuAccept o l c => execSfuAccept o l c s
  | .streamEnd sid => execStreamEnd sid s
  | .streamStart sid => execStreamStart sid s
  | .streamBeatBegin sid => execStreamBeatBegin sid s
  | .beatBoundary => execBeatBoundary s
  | .engineArrive cid i j => execEngineCommandArrive cid i j s
  | .engineStart cid i j => execEngineCommandStart cid i j s
  | .engineFetch cid => execEngineFetch cid s
  | .engineStep cid i j => execEngineStep cid i j s
  | .engineWrite cid => execEngineWrite cid s
  | .copyWrite p => execCopyWrite p s
  | .engineComplete cid => execEngineCommandComplete cid s
  | .mfenceComplete uid => execMfenceComplete uid s
  | .meteringInterval => execMeteringInterval s
  | .meteringWrite => execMeteringRecordWrite s
  | .drainEnd => .next s.drainPump
  | .launchEnd lid => .next (s.launchEnd lid)
  | .verify => .next s.verifyImage
  | .copyBegin p => execCopyCommandBegin p.o p.l p.c s
  | .copyTurn p => execCopyUnitTurn p.o p.l p.c s
  | .copyComplete p => execCopyCommandComplete p.o p.l p.c s
  | .land uid id => execLongResultLand uid id s
  | .depart uid => execMigrationDepart uid s
  | .arrive pid => execPacketArrive pid s
  | .exit uid => execExitComplete uid s
  | .fence uid => execFenceComplete uid s
  | .request id => s.runRequest id
  | .record id => execRecordArrive id s
  | .launch q => execLaunchStart q s
  | .dispatch => (match s.dispTurn with | some o => execTaskDispatch o s | none => .next (s.modGraph (fun g => { g with dispW := [], dispLeft := 0 })))
  | .walkEnd wid => execTlbWalkEnd wid s
  | .evict k => .next (s.evictTlb k)
  | .outward k => .next (s.modHost (fun h => { h with outer := h.outer.eraseIdx k }))
  | .tlbinvAck uid => execTlbinvAck uid s
  | .pairExchange uid => execPairExchange uid s
  | .waypart n => execWaypartComplete n s
  | .restore uid => execRowRestore uid s
  | .rowOffer p => .next (s.offerWaiting p)
  | .installArrive id => execInstallRequestArrive id s
  | .installPage id => execInstallPageProgrammed id (s.free.getLsbD 0) s.drawn
  | .installEnd id => execInstallEnd id s
  | .accept k => execEventAccept k s
  | .localStop o => execLocalStop o s
  | .slateWrite => execSlateWriteImage s
  | .slateRestore => execSlateRestore s
  | .slateEnd code => execSlateCommandEnd code s
  | .tiles => execTeardownTiles s
  | .slices => execTeardownSlices s
  | .dram => execTeardownDram s
  | .areas => execTeardownAreas s
  | .keys => execTeardownKeys s
  | .scrubUnit => .next s.scrubUnit
  | .pullTimeout o page => execPullTimeout o page s
  | .pullPump => .next s.pullPumpAll
  | .hostPump => .next s.portPump
  | .patrolRead => .next s.patrolRead
  | .patrolEnd => .next s.patrolEnd
  | .flashErrs => .next s.flashErrs
  | .boot => execObsidianBoot s
  | .reset => .next s.resetNow

/-! ### What a quartz count makes due -/

/-- Matrix parts that satisfy a condition. -/
def partsWhere (s : State) (f : Cmd → Part → Bool) : List (Nat × Nat × Nat) :=
  s.cmds.flatMap (fun c => (c.parts.filter (f c)).map (fun p => (c.id, p.i, p.j)))
/-- The end of the slot-map switch of a pause that performs only a move is the first boundary that allows it (R318, R325). -/
def mapReady (p : Pause) : Bool := (p.phase == .moved || (p.phase == .flushed && !p.moves)) && p.drained && !p.scrub
/-- Steps of a pause that its quartz counts force (R318 to R326). -/
def pauseDue (s : State) (p : Pause) : List Due :=
  let q := s.q
  let wide := s.widePause p
  let late := decide (s.lastQm p ≤ q)
  (if p.phase == .stop && decide (p.q0 + 512 ≤ q) then
     (s.partsWhere (fun _ x => x.started && !x.done && !x.stopped)).map (fun k => Due.engineStepStop k.1 k.2.1 k.2.2) ++ [.routerFlush] else []) ++
  (if p.phase == .flushed && p.moves && decide (p.q0 + 520 ≤ q) then [.rotationMove] else []) ++
  (if p.phase == .moving && decide (p.endAt ≤ q) then [.moveEnd] else []) ++
  (if !p.drained && decide (p.q0 + 78976 ≤ q) then [.memoryDrainEnd] else []) ++
  (if p.scrub && late then [.tiles] else []) ++
  (if q % 8 == 0 && ((p.phase == .flushed && !p.moves && decide (p.q0 + 520 ≤ q)) || p.phase == .moved || p.phase == .moving) && (!wide || late) then [.slotMapSwitch] else [])
/-- Qr falls at this beat boundary (R318, R324): at Qm + 8 where the pause lasts exactly 49,680 cycles (R325), by Qm + 1,024 in any case, and in between
when the save buffers are empty, which a free value says. -/
def resumesNow (s : State) : Bool :=
  match s.rot.pause with
  | some p =>
    p.phase == .switched && s.q % 8 == 0 && decide (p.endAt + 8 ≤ s.q) &&
    ((!s.widePause p && p.endAt == p.q0 + 49672) || decide (p.endAt + 1024 ≤ s.q) || Config.choose s.clk.draw % 2 == 0)
  | none => false
/-- A load of an own scratchpad by ldt or vldt outside a stream: it is performed and lands at the next beat boundary, neither earlier nor later (R170). -/
def ownLoad (s : State) (r : Req) : Bool :=
  match r.kind, r.loc with
  | .load _ _ _, .scr p _ => p == r.pl && !((s.thread? r.uid).bind (·.strm)).isSome
  | _, _ => false
def ownLoads (s : State) : List Due := (s.net.filter s.ownLoad).flatMap (fun r => [Due.request r.id, Due.land r.uid r.id])
/-- The special-function results whose beat has come, a stream's or the others' (R145). -/
def sfuLandings (s : State) (strm : Bool) : List Due :=
  (s.sfu.filter (fun r => r.strm == strm && (match r.land with | some b => decide (b ≤ s.beat) | none => false))).map (fun r => Due.sfuResultLand r.id)
/-- What a beat boundary makes due, in its order. A stream's results are present when its stream beat begins (R148); those of the other threads come
after the boundary's own step, so that a thread that they wake is ready from the next boundary (R59, R145). -/
def boundaryDue (s : State) : List Due :=
  (if s.rotationDue then [.rotationDue] else []) ++ (if s.switchDue || s.scrubDue then [.switchDue] else []) ++
  ((List.range 16).filter (fun o => (s.owner o).freezing.isSome)).map Due.freezeStart ++
  (s.sfuLandings true) ++
  (s.graph.streams.map (fun t => Due.streamEnd t.id)) ++ (s.graph.streams.map (fun t => Due.streamStart t.id)) ++
  (s.graph.streams.map (fun t => Due.streamBeatBegin t.id)) ++ [.beatBoundary] ++ s.sfuLandings false ++ s.ownLoads ++
  ((s.partsWhere (fun c p => c.startAt.isSome && c.strm.isNone && !p.started && !p.done)).map (fun k => Due.engineStart k.1 k.2.1 k.2.2)) ++
  (if bit s.regs.metcfg.toNat 63 && s.clk.quartz.toNat % (max 1 (bits s.regs.metcfg.toNat 15 0) * 2 ^ 20) == 0 then [.meteringInterval] else []) ++
  ((List.range 16).filter (fun o => s.stepEn o && (s.owner o).stepped && !(s.owner o).local_ && !(s.owner o).held)).map Due.localStop
/-- The cores that hold something for the turn of a unit. -/
def corePlaces (s : State) : List Place := ((s.sfu.filter (·.land.isNone)).map (·.pl)).eraseDups
/-- What the quartz count just reached makes due (R144, R245, R420); issue resumes before anything else of its beat boundary (R318). An SFU takes its entry
before the slot turns of the cycle, so the entry is free for a request that a slot issues in that same cycle, which R143 leaves open (DESIGN CHOICE, log 94). The dispatcher dispatches one task in a
cycle (R288), after what else the cycle brings, and the graph unit gives each owner's queues one turn in a cycle: R297 bounds a start by turns and gives a turn no length (DESIGN CHOICE, log 101). -/
def dueNow (s : State) : List Due :=
  (if s.resumesNow then [.issueResume] else []) ++
  (match s.rot.pause with | some p => s.pauseDue p | none => []) ++ (if s.q % 8 == 0 then s.boundaryDue else []) ++
  ((s.corePlaces.filter (fun p => p.c / 16 == s.q % 8)).map (fun p => Due.sfuAccept p.o p.l p.c)) ++
  (if s.q % 8 == 7 then (s.cores.filter (fun c => !c.mbox.isEmpty)).map (fun c => Due.copyTurn c.pl) else []) ++
  ((s.trust.pulls.filter (fun x => decide (x.start + 2 ^ 24 ≤ s.q))).map (fun x => Due.pullTimeout x.o x.page)) ++
  (if bit s.regs.pscfg.toNat 63 && (s.q + 1) % s.passLen == 0 then [.patrolEnd] else []) ++
  ((List.range 16).filterMap (fun o => (s.startTurn o).map Due.launch)) ++ (if s.graph.launches.isEmpty && s.graph.recs.isEmpty && s.graph.dispW.isEmpty then [] else [.dispatch])
/-- The slot turns of the cycle: every core with rows takes the turn of slot c mod 8 (R54, R55). -/
def turnsNow (s : State) : List Turn :=
  if s.q % 8 = 7 || (s.rot.pause.isSome && !s.resumesNow) then []
  else (((s.threads.filter (·.evicted.isNone)).map (·.pl)).eraseDups).map (fun p => { pl := p, slot := s.q % 8 })
/-- A thermal trip stops issue and engines at the next beat boundary, and abandons a pause (R32, R326). -/
def tripNow (s : State) : State :=
  if s.trust.tripDue then (s.modTrust (fun t => { t with tripped := true, tripDue := false })).modRot (fun r => { r with pause := none }) else s
/-- Buses that lost a lane run at 128 bits from here on (R403). -/
def halveNow (s : State) : State := { s with cols := s.cols.map (fun (c : Column) => if c.halfDue then { c with half := true, halfDue := false } else c) }
/-- What a beat boundary brings before its steps: a trip takes effect, buses halve, and released owners resume (R32, R313, R403). -/
def atBoundary (s : State) : State := if s.q % 8 == 0 then s.tripNow.halveNow.releaseOwners else s
/-- The steps that cores, engines, special-function and copy units and the device's pauses take: those that a thermal trip stops (R32, R326). The memory
parts, the ports, the install units, the arbiter, Pumice, Obsidian, Slate and the graph unit stay powered (DEDUCED, log 76). -/
def ofCompute : Due → Bool
  | .sfuResultLand _ | .sfuAccept _ _ _ => true
  | .streamEnd _ | .streamStart _ | .streamBeatBegin _ => true
  | .engineArrive _ _ _ | .engineStart _ _ _ | .engineFetch _ | .engineStep _ _ _ | .engineStepStop _ _ _ | .engineComplete _ => true
  | .copyBegin _ | .copyTurn _ | .copyComplete _ => true
  | .depart _ | .arrive _ | .exit _ | .restore _ => true
  | .rotationDue | .switchDue | .issueResume | .slotMapSwitch | .moveEnd | .rotationMove | .routerFlush | .memoryDrainEnd | .tiles => true
  | _ => false
/-- What of these steps is still taken: after a thermal trip, all that compute does not take itself (R32). -/
def powered (s : State) (ds : List Due) : List Due := if s.trust.tripped then ds.filter (fun d => !ofCompute d) else ds
/-- The next quartz count, with what it makes due and its turns; the count runs through pauses, freezes and a trip (R5). -/
def tick (s : State) : State :=
  let s := if s.trust.tripped then s else s.engineCycle
  let s := State.atBoundary { s with clk := { s.clk with quartz := s.clk.quartz + 1, wraps := s.clk.wraps + (if s.clk.quartz + 1 = 0 then 1 else 0) } }
  let s := { s with clk := { s.clk with due := s.powered s.dueNow, todo := if s.trust.tripped then [] else s.turnsNow } }
  if s.rot.pause.isSome then s.drawn else s

/-! ### What may happen next -/

/-- Steps of threads that wait: departures, exits, fences, invalidations, publications, landings. -/
def threadEvents (t : Thread) : List Due :=
  (match t.park with
   | .migrate _ => if t.woken then [] else [.depart t.uid]
   | .step => if t.woken then [] else [.depart t.uid]
   | .exit => if t.woken then [] else [.exit t.uid]
   | .fence _ => if t.woken then [] else [.fence t.uid]
   | .tlbinv _ _ _ _ _ => if t.woken then [] else [.tlbinvAck t.uid]
   | .publish _ => if t.woken then [] else [.pairExchange t.uid]
   | _ => []) ++
  (t.ops.filter (fun o => o.res.isSome && o.due.isNone)).map (fun o => Due.land t.uid o.id)
/-- Steps of the pause that may come before they are forced. -/
def pauseEvents (s : State) : List Due :=
  match s.rot.pause with
  | none => []
  | some p =>
    (if p.drained then [] else [.memoryDrainEnd]) ++ (if p.scrub then [.tiles] else []) ++
    (if mapReady p && s.q % 8 == 0 then [.slotMapSwitch] else [])
/-- Steps of engines, copy units, the pair unit and the way partition. -/
def unitEvents (s : State) : List Due :=
  (s.partsWhere (fun _ p => p.arrived.isNone && !p.done)).map (fun k => Due.engineArrive k.1 k.2.1 k.2.2) ++
  (s.partsWhere (fun c p => p.arrived.isSome && !p.done && ((!p.started && c.startAt.isNone) || (!p.foreign && s.otherTag c p)))).map (fun k => Due.engineStart k.1 k.2.1 k.2.2) ++
  (s.partsWhere (fun c p => (c.form == 6 || c.form == 7) && p.started && !p.done)).map (fun k => Due.engineStep k.1 k.2.1 k.2.2) ++
  ((s.cmds.filter (fun c => decide (2 ≤ c.form) && decide (c.form ≤ 5) && c.parts.any (fun p => p.arrived.isSome && !p.started && !p.done))).map (fun c => Due.engineFetch c.id)) ++
  ((s.cmds.filter (fun c => !c.wq.isEmpty)).map (fun c => Due.engineWrite c.id)) ++
  ((s.cores.filter (fun c => c.mbox.any (fun m => !m.wq.isEmpty))).map (fun c => Due.copyWrite c.pl)) ++
  ((s.cmds.filter (fun c => c.parts.all (·.done))).map (fun c => if c.form = 9 then Due.mfenceComplete c.uid else Due.engineComplete c.id)) ++
  (s.cores.flatMap (fun c => match s.copyHead c.pl with
    | some m => if !m.begun then [Due.copyBegin c.pl] else if m.finished then [Due.copyComplete c.pl] else []
    | none => [])) ++
  ((s.slices.filter (·.target.isSome)).map (fun x => Due.waypart x.n))
/-- Steps of the graph unit, the dispatcher and the rows. -/
def graphEvents (s : State) : List Due :=
  ((s.graph.packets.filter (fun k => k.stage == .flight)).map (fun k => Due.arrive k.id)) ++ (s.graph.arrivals.map (fun a => Due.record a.id)) ++
  ((s.threads.filter (fun t => t.evicted.isSome && s.resident t.pl.o t.pl.l)).map (fun t => Due.restore t.uid)) ++ ((s.waitPlaces.filter s.waitsRow).map Due.rowOffer) ++
  ((s.graph.launches.filter (·.ending.isSome)).map (fun x => Due.launchEnd x.id))
/-- Steps of the install unit, Slate, Pumice, Obsidian, the arbiter, the ports, the pull unit and the patrol. -/
def trustEvents (s : State) : List Due :=
  (s.flash.installs.flatMap (fun x =>
    if installOver x then [Due.installEnd x.rid] else if x.st == .requested then [Due.installArrive x.rid] else if x.st == .ended then [] else [Due.installPage x.rid])) ++
  ((List.range s.trust.events.length).map Due.accept) ++
  (if s.trust.slateOp = 2 then [.slateRestore] else if s.trust.slateOp = 0 then [] else if s.trust.slateOp < 100 then [.slateWrite] else [.slateEnd (s.trust.slateOp - 100)]) ++
  (if s.progBusy then (match s.progStage with
    | 1 => [.drainEnd]
    | 3 => if !s.scrubGoes then [] else if s.unitsLeft then [.scrubUnit] else [.slices]
    | 4 => if !s.scrubGoes then [] else if s.unitsLeft then [.scrubUnit] else [.dram]
    | 5 => if !s.scrubGoes then [] else if s.unitsLeft then [.scrubUnit] else [.areas]
    | 6 => [.keys]
    | 7 => [.keys]
    | _ => []) else []) ++
  (if s.trust.recovery && s.trust.rstate == 2 then [.verify] else []) ++
  (if s.trust.waiting.isEmpty then [] else [.meteringWrite]) ++ (if s.host.held.isEmpty && s.host.ixHeld.isEmpty then [] else [.hostPump]) ++
  (if (List.range 16).any s.pullEn then [.pullPump] else []) ++
  (if bit s.regs.pscfg.toNat 63 then [.patrolRead] else []) ++ (if s.flash.errs.isEmpty then [] else [.flashErrs])
/-- Every step that may happen next, beside the clock, the turns and the inputs. -/
def mayHappen (s : State) : List Due :=
  (s.net.filter (fun r => (r.arrived.isNone || (match r.kind with | .mrecv _ => true | _ => false)) && !s.ownLoad r)).map (fun r => Due.request r.id) ++
  s.walks.map (fun w => Due.walkEnd w.id) ++ (List.range (s.tlb.length + s.wcache.length)).map Due.evict ++ (List.range s.host.outer.length).map Due.outward ++ s.threads.flatMap threadEvents ++ s.pauseEvents ++ s.unitEvents ++ s.graphEvents ++ s.trustEvents

/-! ### The choice of a step -/

/-- What a pick may choose: the clock or the next turn, a step of the device, the next input. -/
inductive Pick
  | clock
  | turn (x : Turn)
  | due (d : Due)
  | input (i : Instr)
deriving DecidableEq, Repr
/-- What may be picked: with compute tripped, what the units that stay powered do (R32); a device without power has only its inputs (R423). -/
def picks (s : State) : List Pick :=
  (s.clk.inputs.head?.map Pick.input).toList ++
  (if !s.trust.power then []
   else (match s.clk.todo with | x :: _ => [.turn x] | [] => [.clock]) ++ (s.powered s.mayHappen).map Pick.due)
/-- What must come first, and what is then still due: a reset, the boot, then what the quartz count made due. -/
def forced (s : State) : Option (Due × List Due) :=
  if !s.trust.power then none
  else if s.trust.rreset && s.trust.rstate != 3 then some (.reset, s.clk.due)
  else if s.trust.boot then some (.boot, s.clk.due)
  else match s.clk.due with
    | d :: ds => some (d, ds)
    | [] => none
/-- An ended thread leaves after whatever step ended it. -/
def buried : Res → Res
  | .next s => .next (s.bury s.threads.length)
  | r => r
/-- An input is taken: only the rows of outside parties are inputs. -/
def takeInput (s : State) (i : Instr) : Res :=
  let s := { s with clk := { s.clk with inputs := s.clk.inputs.tail } }
  if isInput i then exec i s else .next s
/-- A pick is performed. -/
def perform (s : State) : Pick → Res
  | .clock => .next s.tick
  | .turn x => .next ({ s with clk := { s.clk with todo := s.clk.todo.tail } }.beginTurn x)
  | .due d => buried (s.run d)
  | .input i => buried (s.takeInput i)
/-- The next step of the device, when no thread stands at issue. -/
def pickStep (s : State) : Res :=
  match s.forced with
  | some (d, ds) => buried ({ s with clk := { s.clk with due := ds } }.run d)
  | none =>
    match s.picks with
    | [] => .fault .unpowered
    | x :: xs => s.drawn.perform ((x :: xs).getD (Config.choose s.clk.draw % (x :: xs).length) x)

/-! ### A word where step fetches next (log 26) -/

/-- The word's bytes at offset 0 of owner 0's DRAM, in a page that owner 0's slot 0 translates at VA 0 and may execute. -/
def placeWord (s : State) (w : Nat) : State :=
  let s := (s.modMem (fun m => m.write (s.dramKey 0 0) (wordBytes w))).markPoison (s.dramKey 0 0) false
  let t : Tlb := { o := 0, l := 0, page := 0, size := 16, space := 0, out := 0, ia := 0, kind := .cacheable, w := true, x := true }
  { s.modMem (fun m => { m with code := m.code.filter (fun c => c.1 != 0) }) with tlb := t :: s.tlb }
/-- A thread of owner 0 at PC 0, bound to slot 1 of core 0 of owner 0's slot 0, which stands at raster index 0, is at issue; the boot is over. -/
def monitorAtIssue (s : State) : State :=
  let s := s.putBack
  let s := s.modOwner 0 (fun x => { x with cfg := x.cfg ||| 0x8100000000000000, pairs := [], pullcfg := 0, frozen := false })
  let s := s.modRot (fun r => { r with tens := { idx := 0, k := 0, o := 0, l := 0 } :: r.tens.filter (fun t => !(t.idx == 0 && t.k == 0)), cur := alSet 0 0 r.cur, pause := none })
  let s := s.modTrust (fun t => { t with boot := false })
  State.bump { s with me := { uid := s.newId, slot := some 1 }, clk := { s.clk with ctl := .issue } }

end State

end Sys2Proof.Machine
end

