-- ==== Sys2Proof/Machine/Step.lean ====
section
/-! DEFINITION. Step: one step of the machine, and the placing of an instruction where step fetches next. -/

namespace Sys2Proof.Machine

/-- One step: the bundle of the thread at issue, or the next step of the device. -/
def step (s : State) : Host.Outcome State Fault Refusal :=
  match s.clk.ctl with
  | .issue => State.issueTurn { s with clk := { s.clk with ctl := .pick } }
  | .pick => s.pickStep

/-- The machine with an instruction where step fetches next: a monitor thread stands at issue at the address of the word (log 26). -/
def State.withFetchWord (s : State) (_nbits w : Nat) : State := s.monitorAtIssue.placeWord w

end Sys2Proof.Machine
end

