-- ==== Sys2Proof/Safety.lean ====
section
/-! DEFINITION. Safety: what a safe state and a safe run are, and what an instruction writes and leaves, in the terms that claims use. -/

namespace Sys2Proof.Safety

open Sys2Proof.Machine

/-! ### States and runs -/

/-- Memory stands in its one canonical form: equal memories are equal lists. -/
def MemOk (s : State) : Prop := s.mem.wf = true
/-- q7 of a predicate word reads 1 (R60). -/
def Q7 (t : Thread) : Prop := t.pw.getLsbD 7 = true
/-- Power is applied and compute is not tripped (R32, R423). -/
def Live (s : State) : Prop := s.trust.power = true ∧ s.trust.tripped = false
/-- A run of n steps that ends in a next state. -/
def Runs (s : State) : Nat → State → Prop
  | 0, t => t = s
  | n + 1, t => ∃ m, Runs s n m ∧ step m = .next t

/-! ### Results and frames -/

/-- The answer is a next state of which P holds. -/
def Next (r : Host.Outcome State Fault Refusal) (P : State → Prop) : Prop := ∃ t, r = .next t ∧ P t
/-- Every byte of memory reads as before. -/
def SameBytes (s t : State) : Prop := ∀ a, t.mem.getB a = s.mem.getB a
/-- The state is unchanged but for the issuing thread, and so is every byte of memory. -/
def OnlyThread (s t : State) : Prop := t = { s with me := t.me } ∧ SameBytes s t
/-- The long results still addressed to a register are discarded (R65); every operation of the thread is otherwise as before. -/
def superseded (d : Dest) (ops : List Op) : List Op := ops.map (fun o => if o.dest = some d then { o with disc := true } else o)

/-- s[d] takes x (R97), nothing else changes but what R65 discards; in a stream s15 and s14 are the values of the links (R209). -/
def WroteS (s t : State) (d : Fin 16) (x : Word) : Prop :=
  OnlyThread s t ∧
  t.me = { s.me with s := t.me.s, links := t.me.links, ops := superseded (.s d) s.me.ops } ∧
  (∀ k, k ≠ d → t.me.s[k] = s.me.s[k]) ∧
  (if s.me.strm.isSome ∧ d = 15 then t.me.s = s.me.s ∧ t.me.links = { s.me.links with e := x }
   else if s.me.strm.isSome ∧ d = 14 then t.me.s = s.me.s ∧ t.me.links = { s.me.links with u := x }
   else t.me.s[d] = x ∧ t.me.links = s.me.links)
/-- v[d] takes x and the flags f are ORed into FCSR (R117), nothing else changes but what R65 discards; v15 and v14 are link values in a stream. -/
def WroteV (s t : State) (d : Fin 16) (x : VWord) (f : Flags) : Prop :=
  OnlyThread s t ∧
  t.me = { s.me with v := t.me.v, links := t.me.links, ops := superseded (.v d) s.me.ops, fcsr := s.me.fcsr ||| f.setWidth 64 } ∧
  (∀ k, k ≠ d → t.me.v[k] = s.me.v[k]) ∧
  (if s.me.strm.isSome ∧ d = 15 then t.me.v = s.me.v ∧ t.me.links = { s.me.links with ev := x }
   else if s.me.strm.isSome ∧ d = 14 then t.me.v = s.me.v ∧ t.me.links = { s.me.links with uv := x }
   else t.me.v[d] = x ∧ t.me.links = s.me.links)
/-- q[d] takes x for d below 7; a write to q7 is ignored, and q7 reads 1 (R60, R105). Nothing else changes. -/
def WroteP (s t : State) (d : Fin 16) (x : Bool) : Prop :=
  OnlyThread s t ∧ t.me = { s.me with pw := t.me.pw } ∧ t.me.pw.getLsbD 7 = true ∧
  (∀ k, k < 7 → k ≠ d.val → t.me.pw.getLsbD k = s.me.pw.getLsbD k) ∧ (d.val < 7 → t.me.pw.getLsbD d.val = x)
/-- Lane j of a register is g j for every j below n, and 0 from n on; a lane keeps its low w bits (R116). -/
def LanesAre (w n : Nat) (r : VWord) (g : Nat → Nat) : Prop := (∀ j, j < n → lane w r j = g j % 2 ^ w) ∧ ∀ j, n ≤ j → lane w r j = 0
/-- v[d] takes n lanes of width w, each with the flags that it raises, which are all ORed into FCSR (R41, R117). -/
def WroteLanes (s t : State) (d : Fin 16) (w n : Nat) (g : Nat → Nat × Flags) : Prop :=
  ∃ r f, WroteV s t d r f ∧ LanesAre w n r (fun j => (g j).1) ∧ ∀ k, f.getLsbD k = true ↔ ∃ j, j < n ∧ (g j).2.getLsbD k = true
/-- v[d] takes n lanes of width w, and no flag is raised. -/
def WroteInts (s t : State) (d : Fin 16) (w n : Nat) (g : Nat → Nat) : Prop := ∃ r, WroteV s t d r 0 ∧ LanesAre w n r g

/-- The parts of t that an access at a home, a walk or a prefetch may leave different, in s. -/
def settling (s t : State) : State :=
  { s with slices := t.slices, owners := t.owners, flash := { s.flash with staged := t.flash.staged, errs := t.flash.errs }, clk := { s.clk with id := t.clk.id, draw := t.clk.draw },
           l1 := t.l1, tlb := t.tlb, wcache := t.wcache, mem := { s.mem with poison := t.mem.poison } }
/-- The caches, the TLBs and what a walk or a prefetch leaves in them may differ, with the metering counters (R434), the marks of evicted sectors (R164), the
staging cache, the flash sectors whose event is still to be posted (R396), and the open values drawn; every register, every byte of memory and all else is as before. -/
def Settles (s t : State) : Prop := t = settling s t ∧ ∀ o, t.owner o = { s.owner o with meter := (t.owner o).meter }

/-! ### Faults, parking and requests -/

/-- A fault of the bundle is taken (R345, R347): to the handler at TRAPB with the three fault registers written, or, with no handler or inside one, the
thread ends as failed with this report. No source, result, predicate or flag register and no byte of memory changes. -/
def TookFault (s t : State) (code sub : Nat) (fpc faddr : Addr) : Prop :=
  t = { s with me := t.me, iss := { s.iss with status := .trapped } } ∧ SameBytes s t ∧
  t.me.s = s.me.s ∧ t.me.v = s.me.v ∧ t.me.pw = s.me.pw ∧ t.me.fcsr = s.me.fcsr ∧ t.me.ops = s.me.ops ∧ t.me.trapb = s.me.trapb ∧
  (if s.me.trapb = 0 ∨ s.me.fcode ≠ 0 then
     (∃ f : FaultRec, t.me.park = .dead f ∧ f.code = code ∧ f.sub = sub ∧ f.fpc = fpc ∧ f.faddr = faddr) ∧
     t.me.fcode = s.me.fcode ∧ t.me.fpc = s.me.fpc ∧ t.me.faddr = s.me.faddr
   else t.me.park = s.me.park ∧ t.me.pc = s.me.trapb ∧ t.me.fcode = BitVec.ofNat 16 (code + 256 * sub) ∧ t.me.fpc = fpc &&& ~~~3#48 ∧ t.me.faddr = faddr)
/-- The thread parks, and the bundle is performed; nothing else changes. -/
def Parked (s t : State) (p : Park) : Prop := t = { s with me := { s.me with park := p, woken := false } } ∧ SameBytes s t
/-- The bundle is not performed: the thread goes back to it and parks (R59, R66); nothing else changes. -/
def Rewound (s t : State) (p : Park) : Prop :=
  t = { s with me := { s.me with pc := s.iss.b, park := p, woken := false, region := none }, iss := { s.iss with status := .parked } } ∧ SameBytes s t
/-- An operation joins the thread and its request sets out to a location (R64, R158); nothing else changes, and no byte of memory. -/
def Issued (s t : State) (o : Op → Prop) (k : ReqKind) (l : Loc) : Prop :=
  ∃ x r, t = { s with me := s.me.addOp x, net := s.net ++ [r], clk := { s.clk with id := s.clk.id + 1 } } ∧ SameBytes s t ∧
    x.id = s.clk.id ∧ x.fpc = s.iss.b ∧ x.res = none ∧ x.fault = none ∧ o x ∧
    r.id = s.clk.id ∧ r.uid = s.me.uid ∧ r.pl = s.me.pl ∧ r.kind = k ∧ r.loc = l ∧ r.arrived = none
/-- The issuing thread is a task's, and no atomic region is open. -/
def PlainTask (s : State) : Prop := s.me.strm = none ∧ s.me.region = none
/-- EA names an aligned access of n bytes at an offset of the thread's own scratchpad that no channel holds back, with no acquire and no reduction on those
bytes outstanding (R199, R266). -/
def OwnScratch (s : State) (ea : Addr) (n off : Nat) : Prop :=
  s.me.region = none ∧ ea.toNat % n = 0 ∧ s.region s.me.pl ea = .scr s.me.pl off ∧ s.chanAt s.me.pl off n = none ∧
    s.me.ops.any (·.acq) = false ∧ s.ownRed s.me off n = false
/-- EA names an aligned access of n bytes that the TLB places, with the permission that its use needs. -/
def Translates (s : State) (ea : Addr) (n : Nat) (u : State.Use) (l : Loc) : Prop :=
  ∃ va t, ea.toNat % n = 0 ∧ s.region s.me.pl ea = .translated va ∧ s.tlbHit s.me.pl (s.viaPair s.me.pl.o va) = some t ∧
    State.permit t u (State.tlbLoc t (s.viaPair s.me.pl.o va)) = .at l
/-- Fewer than 64 accepted events wait for the ring, so no source holds one back, and what is raised joins the arbiter's queue (R354, R356). -/
def EvRoom (s : State) : Prop := (s.trust.events.filter (·.seq.isSome)).length < 64
/-- No byte changes outside the save area of owner o, which is taken in pieces of 1 KiB, and none at all where the owner has no save area (R329; what is
written there is the device's own affair, log 16). -/
def OutsideSave (s t : State) (o : Nat) : Prop :=
  (s.saveSize o = 0 → SameBytes s t) ∧
  (MemOk s → ∀ a, (∀ k, k < s.saveSize o / 1024 →
    let key := s.dramKey 0 (s.platNat (s.regs.savt.toNat + 16 * o) 8 + 1024 * k)
    a < key ∨ key + 1024 ≤ a) → t.mem.getB a = s.mem.getB a)
/-- Memory after a store: the bytes go to consecutive keys from key on, and every other byte reads as before. -/
def Stored (s t : State) (key : Nat) (bs : List Byte) : Prop :=
  (∀ i, i < bs.length → t.mem.getB (key + i) = bs.getD i 0) ∧ ∀ a, (a < key ∨ key + bs.length ≤ a) → t.mem.getB a = s.mem.getB a

/-- Thread number u becomes x; no other thread, no byte of memory, and no state outside the threads changes. -/
def OnThread (s t : State) (u : Nat) (x : Thread) : Prop :=
  t = { s with me := t.me, threads := t.threads } ∧ SameBytes s t ∧ t.thread? u = some x ∧ ∀ k, k ≠ u → t.thread? k = s.thread? k
/-- A request has left the network, and the operation behind it has this result and no fault; its thread is otherwise as g makes it, and no other thread
changes, but that a thread parked at the limit of R66 may be woken. A result with a register waits for its landing (R65); an operation with none is over. -/
def AnsweredAs (g : Thread → Thread) (s t : State) (r : Req) (res : VWord) : Prop :=
  t.net = s.net.filter (fun x => x.id != r.id) ∧ (∀ u, u ≠ r.uid → t.thread? u = s.thread? u) ∧
  ∀ x, s.thread? r.uid = some x → ∃ y, t.thread? r.uid = some y ∧ y = { g x with ops := y.ops, woken := y.woken } ∧
    (x.park ≠ .limit → y.woken = (g x).woken) ∧
    (∀ o ∈ x.ops, o.id = r.id → o.dest ≠ none → { o with res := some res, flags := 0, fault := none } ∈ y.ops) ∧
    (∀ o ∈ x.ops, o.id ≠ r.id → o ∈ y.ops) ∧ ∀ o ∈ y.ops, o.id = r.id → o.dest ≠ none ∧ o.res = some res
def Answered (s t : State) (r : Req) (res : VWord) : Prop := AnsweredAs id s t r res
/-- A request waits where it has arrived, behind those that arrived before it, in the list of the bank group that it joined (R180); nothing else changes. -/
def Awaits (s t : State) (r : Req) : Prop :=
  t = { s with net := s.net.map (fun x => if x.id = r.id then { x with arrived := some s.clk.id, bank := s.bankOf x } else x), clk := { s.clk with id := s.clk.id + 1 } }
/-- The request with this number stands in the network, and it may be performed. -/
def Arriving (s : State) (id : Nat) (r : Req) : Prop := s.req? id = some r ∧ s.mayPerform r = true

end Sys2Proof.Safety
end

