-- ==== Sys2Proof/Certificates/Slice0/Obligations.lean ====
section
/-! DEFINITION. Obligations: the statements for the provers. In each, s is the state in which an instruction is performed: s.iss.src holds the registers
as its bundle read them (R68), s.me is the thread that issues, and exec's answer is what the instruction does. -/

open Sys2Proof Sys2Proof.Machine Sys2Proof.Safety

/-! ### Scalar arithmetic, logic, shifts, fields, constants, compares (05_scalar_control.md) -/

/-- R99: sums, differences, products and the high halves of products; each completes, writes s[d] and nothing else.
R34, R99: div and rem truncate toward zero, divn and remn are unsigned, a zero divisor gives quotient 0 and remainder a, −2^63 by −1 gives −2^63 and 0. -/
def Obligations.SumsProductsQuotients : Prop :=
  (∀ (s : State) (d a b : Fin 16) (i : BitVec 12),
      let x := s.iss.src.s[a]
      let y := s.iss.src.s[b]
      Next (exec (.add d a b) s) (fun t => WroteS s t d (x + y)) ∧
      Next (exec (.sub d a b) s) (fun t => WroteS s t d (x - y)) ∧
      Next (exec (.addi d a i) s) (fun t => WroteS s t d (x + i.signExtend 64)) ∧
      Next (exec (.mul d a b) s) (fun t => WroteS s t d (x * y)) ∧
      Next (exec (.mulh d a b) s) (fun t => ∃ h : Word, WroteS s t d h ∧ h.toInt = x.toInt * y.toInt / 2 ^ 64) ∧
      Next (exec (.mulhn d a b) s) (fun t => ∃ h : Word, WroteS s t d h ∧ h.toNat = x.toNat * y.toNat / 2 ^ 64)) ∧
  (∀ (s : State) (d a b : Fin 16),
      let x := s.iss.src.s[a]
      let y := s.iss.src.s[b]
      Next (exec (.div d a b) s) (fun t => ∃ q : Word, WroteS s t d q ∧
        (y = 0 → q = 0) ∧ (x = BitVec.intMin 64 → y = -1 → q = x) ∧
        (y ≠ 0 → ¬(x = BitVec.intMin 64 ∧ y = -1) → q.toInt = x.toInt.tdiv y.toInt)) ∧
      Next (exec (.rem d a b) s) (fun t => ∃ r : Word, WroteS s t d r ∧ (y = 0 → r = x) ∧ (y ≠ 0 → r.toInt = x.toInt.tmod y.toInt)) ∧
      Next (exec (.divn d a b) s) (fun t => ∃ q : Word, WroteS s t d q ∧ (y = 0 → q = 0) ∧ (y ≠ 0 → q.toNat = x.toNat / y.toNat)) ∧
      Next (exec (.remn d a b) s) (fun t => ∃ r : Word, WroteS s t d r ∧ (y = 0 → r = x) ∧ (y ≠ 0 → r.toNat = x.toNat % y.toNat)))

/-- R100: the bitwise forms and mov.
R100: the smaller and larger value, signed and unsigned, and the counts of zeros and ones. -/
def Obligations.LogicMinMaxCounts : Prop :=
  (∀ (s : State) (d a b : Fin 16) (i : BitVec 12),
      let x := s.iss.src.s[a]
      let y := s.iss.src.s[b]
      Next (exec (.and d a b) s) (fun t => WroteS s t d (x &&& y)) ∧
      Next (exec (.or d a b) s) (fun t => WroteS s t d (x ||| y)) ∧
      Next (exec (.xor d a b) s) (fun t => WroteS s t d (x ^^^ y)) ∧
      Next (exec (.andn d a b) s) (fun t => WroteS s t d (x &&& ~~~y)) ∧
      Next (exec (.orn d a b) s) (fun t => WroteS s t d (x ||| ~~~y)) ∧
      Next (exec (.andi d a i) s) (fun t => WroteS s t d (x &&& i.setWidth 64)) ∧
      Next (exec (.ori d a i) s) (fun t => WroteS s t d (x ||| i.setWidth 64)) ∧
      Next (exec (.xori d a i) s) (fun t => WroteS s t d (x ^^^ i.setWidth 64)) ∧
      Next (exec (.mov d a) s) (fun t => WroteS s t d x)) ∧
  (∀ (s : State) (d a b : Fin 16),
      let x := s.iss.src.s[a]
      let y := s.iss.src.s[b]
      Next (exec (.min d a b) s) (fun t => ∃ r : Word, WroteS s t d r ∧ r.toInt = min x.toInt y.toInt) ∧
      Next (exec (.max d a b) s) (fun t => ∃ r : Word, WroteS s t d r ∧ r.toInt = max x.toInt y.toInt) ∧
      Next (exec (.minn d a b) s) (fun t => ∃ r : Word, WroteS s t d r ∧ r.toNat = min x.toNat y.toNat) ∧
      Next (exec (.maxn d a b) s) (fun t => ∃ r : Word, WroteS s t d r ∧ r.toNat = max x.toNat y.toNat) ∧
      Next (exec (.clz d a) s) (fun t => ∃ r : Word, WroteS s t d r ∧ r.toNat ≤ 64 ∧ (x = 0 → r = 64) ∧
        (x ≠ 0 → x.getLsbD (63 - r.toNat) = true) ∧ ∀ k, 64 - r.toNat ≤ k → x.getLsbD k = false) ∧
      Next (exec (.ctz d a) s) (fun t => ∃ r : Word, WroteS s t d r ∧ r.toNat ≤ 64 ∧ (x = 0 → r = 64) ∧
        (x ≠ 0 → x.getLsbD r.toNat = true) ∧ ∀ k, k < r.toNat → x.getLsbD k = false) ∧
      Next (exec (.popc d a) s) (fun t => ∃ r : Word, WroteS s t d r ∧ r.toNat = ((List.range 64).filter (fun k => x.getLsbD k)).length))

/-- R35, R101: shifts and rotates by n mod 64 or by the immediate.
R102: the field in use is bits p + e − 1 to p with e = min (w, 64 − p), where the word holds w − 1; R103: li and lis. -/
def Obligations.ShiftsFieldsConstants : Prop :=
  (∀ (s : State) (d a b : Fin 16) (k : BitVec 6),
      let x := s.iss.src.s[a]
      let n := s.iss.src.s[b].toNat % 64
      Next (exec (.shl d a b) s) (fun t => WroteS s t d (x <<< n)) ∧
      Next (exec (.shr d a b) s) (fun t => WroteS s t d (x >>> n)) ∧
      Next (exec (.sar d a b) s) (fun t => ∃ r : Word, WroteS s t d r ∧ r.toInt = x.toInt / 2 ^ n) ∧
      Next (exec (.rotl d a b) s) (fun t => WroteS s t d (x.rotateLeft n)) ∧
      Next (exec (.shli d a k) s) (fun t => WroteS s t d (x <<< k.toNat)) ∧
      Next (exec (.shri d a k) s) (fun t => WroteS s t d (x >>> k.toNat)) ∧
      Next (exec (.sari d a k) s) (fun t => ∃ r : Word, WroteS s t d r ∧ r.toInt = x.toInt / 2 ^ k.toNat) ∧
      Next (exec (.roti d a k) s) (fun t => WroteS s t d (x.rotateLeft k.toNat))) ∧
  (∀ (s : State) (d a : Fin 16) (p m : BitVec 6) (i : BitVec 16),
      let x := s.iss.src.s[a]
      let y := s.iss.src.s[d]
      let e := min (m.toNat + 1) (64 - p.toNat)
      Next (exec (.bfx d a p m) s) (fun t => ∃ r : Word, WroteS s t d r ∧
        ∀ k, k < 64 → r.getLsbD k = x.getLsbD (p.toNat + min k (e - 1))) ∧
      Next (exec (.bfxn d a p m) s) (fun t => ∃ r : Word, WroteS s t d r ∧
        ∀ k, k < 64 → r.getLsbD k = (decide (k < e) && x.getLsbD (p.toNat + k))) ∧
      Next (exec (.bfi d a p m) s) (fun t => ∃ r : Word, WroteS s t d r ∧
        ∀ k, k < 64 → r.getLsbD k = if p.toNat ≤ k ∧ k < p.toNat + e then x.getLsbD (k - p.toNat) else y.getLsbD k) ∧
      Next (exec (.li d i) s) (fun t => WroteS s t d (i.signExtend 64)) ∧
      Next (exec (.lis d i) s) (fun t => WroteS s t d (y <<< 16 ||| i.setWidth 64)))

/-- R104: every compare writes whether its condition holds into q[d], and a write to q7 is ignored.
R105: the predicate forms; R106: sel reads q[c] as the bundle read it; R78: hint and nop do nothing. -/
def Obligations.ComparesPredicatesSelect : Prop :=
  (∀ (s : State) (d a b : Fin 16) (i : BitVec 12),
      let x := s.iss.src.s[a]
      let y := s.iss.src.s[b]
      let si := (i.signExtend 64 : Word)
      Next (exec (.cmpEq d a b) s) (fun t => WroteP s t d (decide (x = y))) ∧
      Next (exec (.cmpNe d a b) s) (fun t => WroteP s t d (decide (x ≠ y))) ∧
      Next (exec (.cmpLt d a b) s) (fun t => WroteP s t d (decide (x.toInt < y.toInt))) ∧
      Next (exec (.cmpLe d a b) s) (fun t => WroteP s t d (decide (x.toInt ≤ y.toInt))) ∧
      Next (exec (.cmpLtn d a b) s) (fun t => WroteP s t d (decide (x.toNat < y.toNat))) ∧
      Next (exec (.cmpLen d a b) s) (fun t => WroteP s t d (decide (x.toNat ≤ y.toNat))) ∧
      Next (exec (.cmpiEq d a i) s) (fun t => WroteP s t d (decide (x = si))) ∧
      Next (exec (.cmpiNe d a i) s) (fun t => WroteP s t d (decide (x ≠ si))) ∧
      Next (exec (.cmpiLt d a i) s) (fun t => WroteP s t d (decide (x.toInt < i.toInt))) ∧
      Next (exec (.cmpiLe d a i) s) (fun t => WroteP s t d (decide (x.toInt ≤ i.toInt))) ∧
      Next (exec (.cmpiLtn d a i) s) (fun t => WroteP s t d (decide (x.toNat < i.toNat))) ∧
      Next (exec (.cmpiLen d a i) s) (fun t => WroteP s t d (decide (x.toNat ≤ i.toNat)))) ∧
  (∀ (s : State) (d a b c : Fin 16) (n : BitVec 20),
      let pr := fun (k : Fin 16) => decide (k = 7) || s.iss.src.pw.getLsbD k.val
      Next (exec (.pset d b) s) (fun t => WroteP s t d (decide (b = 1))) ∧
      Next (exec (.pand d a b) s) (fun t => WroteP s t d (pr a && pr b)) ∧
      Next (exec (.por d a b) s) (fun t => WroteP s t d (pr a || pr b)) ∧
      Next (exec (.pnot d a) s) (fun t => WroteP s t d (!pr a)) ∧
      Next (exec (.sel d a b c) s) (fun t => WroteS s t d (if pr c then s.iss.src.s[a] else s.iss.src.s[b])) ∧
      exec (.hint n) s = .next s ∧ exec (.nop n) s = .next s)

/-! ### Vectors (06_vector.md, 02_numbers.md) -/

/-- R119: lane sums, differences, products and negations modulo 2^w on integer lanes, vabs on signed lanes; R122: on floating lanes the exact result is
rounded once, and vneg and vabs touch the sign.
R119, R123, R125: the smaller and larger lane and the lane compares, over integers as the type reads them and over floating values. The sign of an exact zero that a
floating difference gives (fSub) is the model's reading (log 122, DEDUCED). -/
def Obligations.LaneArithmeticAndOrder : Prop :=
  (∀ (s : State) (d a b : Fin 16) (t : LaneT),
      let w := LaneT.width t
      let n := LaneT.count t
      let x := fun j => lane w s.iss.src.v[a] j
      let y := fun j => lane w s.iss.src.v[b] j
      let f := LaneT.fmt t
      let rm := s.iss.src.rm
      (t.isInt = true →
        Next (exec (.vadd d a b t) s) (fun u => WroteInts s u d w n (fun j => x j + y j)) ∧
        Next (exec (.vsub d a b t) s) (fun u => WroteInts s u d w n (fun j => x j + 2 ^ w - y j)) ∧
        Next (exec (.vmul d a b t) s) (fun u => WroteInts s u d w n (fun j => x j * y j)) ∧
        Next (exec (.vneg d a t) s) (fun u => WroteInts s u d w n (fun j => 2 ^ w - x j))) ∧
      (t.isI = true → Next (exec (.vabs d a t) s) (fun u => WroteInts s u d w n (fun j => if x j < 2 ^ (w - 1) then x j else 2 ^ w - x j))) ∧
      (t.isF = true →
        Next (exec (.vadd d a b t) s) (fun u => WroteLanes s u d w n (fun j => fAdd f rm (x j) (y j))) ∧
        Next (exec (.vsub d a b t) s) (fun u => WroteLanes s u d w n (fun j => fSub f rm (x j) (y j))) ∧
        Next (exec (.vmul d a b t) s) (fun u => WroteLanes s u d w n (fun j => fMul f rm (x j) (y j))) ∧
        Next (exec (.vneg d a t) s) (fun u => WroteLanes s u d w n (fun j => fNeg f (x j))) ∧
        Next (exec (.vabs d a t) s) (fun u => WroteLanes s u d w n (fun j => fAbs f (x j))))) ∧
  (∀ (s : State) (d a b : Fin 16) (t : LaneT),
      let w := LaneT.width t
      let n := LaneT.count t
      let x := fun j => lane w s.iss.src.v[a] j
      let y := fun j => lane w s.iss.src.v[b] j
      let f := LaneT.fmt t
      let ones := fun (c : Bool) => if c then 2 ^ w - 1 else 0
      (t.isInt = true →
        Next (exec (.vmin d a b t) s) (fun u => WroteInts s u d w n (fun j => if laneVal t (x j) < laneVal t (y j) then x j else y j)) ∧
        Next (exec (.vmax d a b t) s) (fun u => WroteInts s u d w n (fun j => if laneVal t (x j) < laneVal t (y j) then y j else x j)) ∧
        Next (exec (.vcmpEq d a b t) s) (fun u => WroteInts s u d w n (fun j => ones (decide (x j = y j)))) ∧
        Next (exec (.vcmpLt d a b t) s) (fun u => WroteInts s u d w n (fun j => ones (decide (laneVal t (x j) < laneVal t (y j))))) ∧
        Next (exec (.vcmpLe d a b t) s) (fun u => WroteInts s u d w n (fun j => ones (decide (laneVal t (x j) ≤ laneVal t (y j)))))) ∧
      (t.isF = true →
        Next (exec (.vmin d a b t) s) (fun u => WroteLanes s u d w n (fun j => fMinMax f false (x j) (y j))) ∧
        Next (exec (.vmax d a b t) s) (fun u => WroteLanes s u d w n (fun j => fMinMax f true (x j) (y j))) ∧
        Next (exec (.vcmpEq d a b t) s) (fun u => WroteLanes s u d w n (fun j => (ones (fCmp f 0 (x j) (y j)).1, (fCmp f 0 (x j) (y j)).2))) ∧
        Next (exec (.vcmpLt d a b t) s) (fun u => WroteLanes s u d w n (fun j => (ones (fCmp f 1 (x j) (y j)).1, (fCmp f 1 (x j) (y j)).2))) ∧
        Next (exec (.vcmpLe d a b t) s) (fun u => WroteLanes s u d w n (fun j => (ones (fCmp f 2 (x j) (y j)).1, (fCmp f 2 (x j) (y j)).2)))))

/-- R120, R126: the bitwise vector forms; R120: lane shifts by an amount taken modulo w; R121: saturation to half the width.
R127 to R130: broadcast, extract, insert and permute lanes, whose numbers count modulo the lane count; pack narrows, unpack widens one half. -/
def Obligations.LaneLogicShiftsMoves : Prop :=
  (∀ (s : State) (d a b c : Fin 16) (t : LaneT) (k : BitVec 6), t.isInt = true →
      let w := LaneT.width t
      let n := LaneT.count t
      let p := s.iss.src.v[a]
      let q := s.iss.src.v[b]
      let m := fun j => lane w q j % w
      Next (exec (.vand d a b t) s) (fun u => WroteV s u d (p &&& q) 0) ∧
      Next (exec (.vor d a b t) s) (fun u => WroteV s u d (p ||| q) 0) ∧
      Next (exec (.vxor d a b t) s) (fun u => WroteV s u d (p ^^^ q) 0) ∧
      Next (exec (.vandn d a b t) s) (fun u => WroteV s u d (p &&& ~~~q) 0) ∧
      Next (exec (.vsel d a b c) s) (fun u => ∃ r, WroteV s u d r 0 ∧
        ∀ i, i < 128 → r.getLsbD i = if s.iss.src.v[c].getLsbD i then p.getLsbD i else q.getLsbD i) ∧
      Next (exec (.vshl d a b t) s) (fun u => WroteInts s u d w n (fun j => lane w p j * 2 ^ m j)) ∧
      Next (exec (.vshr d a b t) s) (fun u => WroteInts s u d w n (fun j => lane w p j / 2 ^ m j)) ∧
      Next (exec (.vsar d a b t) s) (fun u => ∃ r, WroteV s u d r 0 ∧ ∀ j, j < n → laneInt w (lane w r j) = laneInt w (lane w p j) / 2 ^ m j) ∧
      Next (exec (.vshli d a t k) s) (fun u => WroteInts s u d w n (fun j => lane w p j * 2 ^ (k.toNat % w))) ∧
      Next (exec (.vsat d a t) s) (fun u => ∃ r, WroteV s u d r 0 ∧ ∀ j, j < n →
        laneVal t (lane w r j) = max (rangeLo t.isI (w / 2)) (min (rangeHi t.isI (w / 2)) (laneVal t (lane w p j))))) ∧
  (∀ (s : State) (d a b : Fin 16) (t : LaneT),
      let w := LaneT.width t
      let n := LaneT.count t
      let p := s.iss.src.v[a]
      let q := s.iss.src.v[b]
      (t.isInt = true →
        Next (exec (.vbcast d a t) s) (fun u => WroteInts s u d w n (fun _ => s.iss.src.s[a].toNat)) ∧
        Next (exec (.vext d a b t) s) (fun u => ∃ r : Word, WroteS s u d r ∧ r = BitVec.ofInt 64 (laneVal t (lane w p (b.val % n)))) ∧
        Next (exec (.vins d a b t) s) (fun u => WroteInts s u d w n (fun j => if j = b.val % n then s.iss.src.s[a].toNat else lane w s.iss.src.v[d] j)) ∧
        Next (exec (.vperm d a b t) s) (fun u => WroteInts s u d w n (fun j => lane w p (lane w q j % n)))) ∧
      (t.isPack = true →
        Next (exec (.vpack d a b t) s) (fun u => WroteLanes s u d (w / 2) (2 * n)
          (fun j => narrow s.iss.src.rm t (if j < n then lane w p j else lane w q (j - n))))) ∧
      (t.isUnpack = true →
        Next (exec (.vunpack d a b t) s) (fun u => WroteLanes s u d (2 * w) (n / 2)
          (fun j => let x := lane w p (n / 2 * (b.val % 2) + j); if t.isF then bf16ToF32 x else (lowBits (2 * w) (laneVal t x), 0)))))

/-- R124, R131 to R134: fused multiply-add and -subtract, the dot products, and the sum of lanes, whose integer total is taken modulo 2^w.
R135 to R139: rounding to an integer, scaling by a power of two, the exponent, conversions, and the reciprocal estimates, lane by lane. The sign of an exact zero of
a fused subtraction (fFms; log 122), and what the sums of vdot.bf16 and vdot.g8 do with NaN terms (log 104), are the model's readings (DEDUCED). -/
def Obligations.FusedDotSumConversions : Prop :=
  (∀ (s : State) (d a b c : Fin 16) (ft : FltT) (t : LaneT),
      let rm := s.iss.src.rm
      let p := s.iss.src.v[a]
      let q := s.iss.src.v[b]
      let r := s.iss.src.v[c]
      let o := s.iss.src.v[d]
      let f := fltFmt ft
      Next (exec (.vfma d a b c ft) s) (fun u => WroteLanes s u d f.w (128 / f.w) (fun j => fFma f rm (lane f.w p j) (lane f.w q j) (lane f.w r j))) ∧
      Next (exec (.vfms d a b c ft) s) (fun u => WroteLanes s u d f.w (128 / f.w) (fun j => fFms f rm (lane f.w p j) (lane f.w q j) (lane f.w r j))) ∧
      Next (exec (.vdotG8 d a b c) s) (fun u => let x := vDotG8L rm o p q s.iss.src.s[c]; WroteV s u d x.1 x.2) ∧
      Next (exec (.vdotBf16 d a b) s) (fun u => WroteLanes s u d 32 4 (fun j =>
        fSumProd .f32 rm [(Fmt.bf16.val (lane 16 p (2 * j))).mul (Fmt.bf16.val (lane 16 q (2 * j))),
          (Fmt.bf16.val (lane 16 p (2 * j + 1))).mul (Fmt.bf16.val (lane 16 q (2 * j + 1)))] (Fmt.f32.val (lane 32 o j)))) ∧
      Next (exec (.vdotI8 d a b) s) (fun u => WroteInts s u d 32 4 (fun j =>
        (((lane 32 o j : Int) + laneInt 8 (lane 8 p (4 * j)) * laneInt 8 (lane 8 q (4 * j)) + laneInt 8 (lane 8 p (4 * j + 1)) * laneInt 8 (lane 8 q (4 * j + 1)) +
          laneInt 8 (lane 8 p (4 * j + 2)) * laneInt 8 (lane 8 q (4 * j + 2)) + laneInt 8 (lane 8 p (4 * j + 3)) * laneInt 8 (lane 8 q (4 * j + 3))) % 2 ^ 32).toNat)) ∧
      (t.isInt = true → Next (exec (.vsum d a t) s) (fun u => WroteInts s u d (LaneT.width t) 1 (fun _ =>
        ((List.range (LaneT.count t)).map (fun j => lane (LaneT.width t) p j)).sum))) ∧
      Next (exec (.vsum d a .f32) s) (fun u => let x := vSumL rm .f32 p; WroteV s u d x.1 x.2)) ∧
  (∀ (s : State) (d a b : Fin 16) (t ts : LaneT),
      let rm := s.iss.src.rm
      let p := s.iss.src.v[a]
      let w := LaneT.width t
      let n := LaneT.count t
      (t.isF = true →
        Next (exec (.vround d a t) s) (fun u => WroteLanes s u d w n (fun j => fRound (LaneT.fmt t) rm (lane w p j))) ∧
        Next (exec (.vscale d a b t) s) (fun u => WroteLanes s u d w n (fun j => fScale (LaneT.fmt t) rm (lane w p j) (laneInt w (lane w s.iss.src.v[b] j)))) ∧
        Next (exec (.vexpo d a t) s) (fun u => WroteLanes s u d w n (fun j => fExpo (LaneT.fmt t) (lane w p j)))) ∧
      ((Instr.vcvt d a b ts t).assigned = true →
        Next (exec (.vcvt d a b ts t) s) (fun u => WroteLanes s u d w (min (LaneT.count ts) n)
          (fun j => cvtLane rm t ts (laneInt 9 (s.iss.src.s[b].toNat % 512)) (lane (LaneT.width ts) p j)))) ∧
      Next (exec (.vrcpa d a) s) (fun u => WroteLanes s u d 32 4 (fun j => vrcpaLane (lane 32 p j))) ∧
      Next (exec (.vrsqrta d a) s) (fun u => WroteLanes s u d 32 4 (fun j => vrsqrtaLane (lane 32 p j))))

/-- R38: a value that the format holds rounds to itself in every mode, and raises no flag. -/
def Obligations.RoundingKeepsRepresentable : Prop :=
  ∀ (f : Fmt) (rm : RM) (b : Nat), (f = .f32 ∨ f = .bf16) → rm < 4 → b < 2 ^ f.w → (f.val b).isNan = false → f.round rm (f.val b) = (b, 0)

/-! ### Control, faults and special registers (05_scalar_control.md, 20_translation_traps.md) -/

/-- R107: each control form sets the PC from the bundle address B and size Z; call writes s13, dbnz its counter; R108: a misaligned jump faults.
R112: trap n and brk fault at their bundle with FADDR = B + Z; R349: rte sets PC := FPC and FCODE := 0. -/
def Obligations.TransfersTrapsReturn : Prop :=
  (∀ (s : State) (d a : Fin 16) (o : BitVec 20) (p : BitVec 16), PlainTask s →
      let b := s.iss.b
      let far := b + 4 * o.signExtend 48
      let near := b + 4 * p.signExtend 48
      let x := s.iss.src.s[d] - 1
      let j : Addr := s.iss.src.s[a].setWidth 48
      exec (.br o) s = .next { s with me := { s.me with pc := far } } ∧
      Next (exec (.call o) s) (fun t => ∃ u, WroteS s u 13 ((b + BitVec.ofNat 48 s.iss.z).setWidth 64) ∧ t = { u with me := { u.me with pc := far } }) ∧
      Next (exec (.dbnz d p) s) (fun t => ∃ u, WroteS s u d x ∧ t = if x = 0 then u else { u with me := { u.me with pc := near } }) ∧
      ∀ i, i = Instr.jmp a ∨ i = Instr.ret a →
        (j.toNat % 4 = 0 → exec i s = .next { s with me := { s.me with pc := j } }) ∧
        (j.toNat % 4 ≠ 0 → Next (exec i s) (fun t => TookFault s t 3 0 b j))) ∧
  (∀ (s : State) (n : BitVec 8), PlainTask s →
      let b := s.iss.b
      let past := b + BitVec.ofNat 48 s.iss.z
      Next (exec (.trap n) s) (fun t => TookFault s t 0x0E n.toNat b past) ∧
      Next (exec .brk s) (fun t => TookFault s t 0x0F 0 b past) ∧
      exec .rte s = .next { s with me := { s.me with pc := s.me.fpc, fcode := 0 } })

/-- R110: exit parks a task until nothing is pending, and in a stream its core performs no later bundle (R212); R111: yield; R204: go, which to the thread's own
core completes with no effect, on RUN of MIGT neither (log 124, DEDUCED: R159 alone would have every go set it to 0); R211: send and sloop. -/
def Obligations.EndYieldGoAndLoops : Prop :=
  ∀ (s : State) (d a : Fin 16) (o : BitVec 16),
    let dst : Place := ⟨s.me.pl.o, bits s.iss.src.s[a].toNat 23 16, bits s.iss.src.s[a].toNat 14 8⟩
    (s.me.strm = none → Next (exec .exit s) (fun t => Parked s t .exit)) ∧
    (∀ sid, s.me.strm = some sid → Next (exec .exit s) (fun t =>
      t = { s with graph := { s.graph with streams := t.graph.streams } } ∧ SameBytes s t ∧
      t.graph.streams.length = s.graph.streams.length ∧ (∀ st ∈ t.graph.streams, st.id = sid → s.me.pl.c ∈ st.exited) ∧
      ∀ st ∈ s.graph.streams, st.id ≠ sid → st ∈ t.graph.streams)) ∧
    Next (exec .yield s) (fun t => t = if s.readyWaits s.me.pl then { s with me := { s.me with turns := 8 } } else s) ∧
    (dst.l < s.nslot s.me.pl.o → Next (exec (.go a) s) (fun t =>
      if dst = s.me.pl then t = s else t = { s with me := { s.me with run := 0, park := .migrate dst, woken := false } })) ∧
    (PlainTask s → s.nslot s.me.pl.o ≤ dst.l → Next (exec (.go a) s) (fun t => TookFault s t 5 0 s.iss.b (s.iss.src.s[a].setWidth 48))) ∧
    (∀ sid, s.me.strm = some sid → exec .send s = .next s ∧ (o ≠ 0 → 
      let opened := fun (l : SLoop) => if l.start = s.iss.b + BitVec.ofNat 48 s.iss.z ∧ l.left = 0 then { l with left := s.iss.src.s[d].toNat } else l
      let streams := s.graph.streams.map (fun st =>
        if st.id = sid ∧ State.streamOff st s.me.pl.c = 0 then { st with loops := st.loops.map opened } else st)
      exec (.sloop d o) s = .next { s with graph := { s.graph with streams := streams } }))

/-- R113, R114: rsr returns each per-thread register zero-extended, as the bundle's source reads see it (R115). FCSR is returned as it stands at issue, without the
flags of results that are still to land (R115; log 123, DESIGN CHOICE: the last sentence of R42 says otherwise). Bits 63 to 32 of PEND read 0: no long instruction
names a predicate, and the bits above QP are reserved (R64).
R113, R114, R11: wsr writes the bits that its register's access allows, and nothing to one that is read only; FCSR keeps RM and the five flags (R40). -/
def Obligations.ThreadRegisters : Prop :=
  (∀ (s : State) (d : Fin 16),
      let t := s.iss.src
      (∀ p ∈ ([(0x000, t.tid.setWidth 64), (0x003, BitVec.ofNat 64 (bits (s.owner t.pl.o).cfg.toNat 62 56)), (0x004, BitVec.ofNat 64 (s.q / 8 * 8)),
          (0x008, t.taskb), (0x009, t.frzc), (0x00A, s.rot.seq), (0x010, (t.pw ||| 0x80).setWidth 64), (0x012, t.redpend.setWidth 64), (0x013, t.qpos.setWidth 64),
          (0x018, t.fcsr), (0x020, t.trapb.setWidth 64), (0x021, t.fpc.setWidth 64), (0x022, t.fcode.setWidth 64), (0x023, t.faddr.setWidth 64), (0x028, t.step),
          (0x014, t.tslot.setWidth 64 <<< 24 ||| t.tcore.setWidth 64 <<< 16 ||| t.run.setWidth 64 <<< 8 ||| t.thresh.setWidth 64)] : List (BitVec 12 × Word)),
        Next (exec (.rsr d p.1) s) (fun u => WroteS s u d p.2)) ∧
      Next (exec (.rsr d 0x001) s) (fun u => ∃ r, WroteS s u d r ∧ r.toNat = t.pl.c % 128) ∧
      Next (exec (.rsr d 0x002) s) (fun u => ∃ r, WroteS s u d r ∧ r.toNat = t.pl.l % 256) ∧
      Next (exec (.rsr d 0x011) s) (fun u => ∃ r, WroteS s u d r ∧
        ∀ k : Fin 16, (r.getLsbD k.val = t.ops.any (fun o => o.dest == some (.s k))) ∧ (r.getLsbD (16 + k.val) = t.ops.any (fun o => o.dest == some (.v k))) ∧ r.toNat < 2 ^ 32)) ∧
  (∀ (s : State) (a : Fin 16),
      let v := s.iss.src.s[a]
      let m := s.me
      (∀ p ∈ ([(0x010, { m with pw := v.setWidth 8 ||| 0x80 }), (0x013, { m with qpos := v.setWidth 16 }), (0x014, { m with thresh := v.setWidth 8 }),
          (0x018, { m with fcsr := v &&& 0x31F }), (0x020, { m with trapb := v.setWidth 48 &&& ~~~3#48 }), (0x021, { m with fpc := v.setWidth 48 &&& ~~~3#48 }),
          (0x022, { m with fcode := v.setWidth 16 }), (0x023, { m with faddr := v.setWidth 48 })] : List (BitVec 12 × Thread)),
        exec (.wsr a p.1) s = .next { s with me := p.2 }) ∧
      ∀ n ∈ ([0x000, 0x001, 0x002, 0x003, 0x004, 0x008, 0x009, 0x00A, 0x011, 0x012, 0x028] : List (BitVec 12)), exec (.wsr a n) s = .next s)

/-- A monitor register of the maps keeps the bits that are its fields, and rsr returns them (R11, R114); a wsr of it changes no other state.
R114, R350: below the monitor level an rsr or wsr of a monitor register raises PROTECTION with FADDR the number. -/
def Obligations.MonitorRegisters : Prop :=
  (∀ (s : State) (a d : Fin 16), s.me.pl.o = 0 →
      ∀ p ∈ ([(0x840, 0x0000FFFFFFFFF000), (0x841, 0xFFFFFFFF), (0x844, 0x0000FFFFFFFFF000), (0x848, 0x0000FFFFFFFF8000), (0x850, 0x3FF),
          (0x853, 0x0000FFFFFFFFF000), (0x860, 0xF), (0x863, 0x0000FFFFFFFF0000), (0x864, 0xFFF7), (0x870, 0x3F), (0x880, 0x800000000000FFFF),
          (0x881, 0x3F), (0x883, 0xFFFF), (0x884, 0x0000FFFFFFFFF000), (0x890, 0x0000FFFFFFFFF000), (0x891, 0xFFFF), (0x892, 0xFFFF),
          (0x894, 0x8000000000FFFFFF), (0x8A0, 0x3FF), (0x8B0, 0x000003FFFF0000FF), (0x8B2, 0x0000FFFFFFFFF000), (0x8C0, 0xFFFFFFFF), (0x8C1, 0x3FFFF),
          (0x8D0, 0x3FF), (0x8D4, 0x80000000FFFFFFFF), (0x8E9, 0xFFFFFFFFFFFFF000), (0x904, 0x800000000000FFFF), (0x905, 0x0000FFFFFFFFFFFF),
          (0x90E, 0x0000FFFFFFFFFFC0)] : List (BitVec 12 × Word)),
        Next (exec (.wsr a p.1) s) (fun t => t = { s with regs := t.regs } ∧ SameBytes s t ∧
          Next (exec (.rsr d p.1) t) (fun u => WroteS t u d (s.iss.src.s[a] &&& p.2)))) ∧
  (∀ (s : State) (a : Fin 16) (n : BitVec 12), PlainTask s → s.me.pl.o ≠ 0 → 0x800 ≤ n.toNat →
      Next (exec (.rsr a n) s) (fun t => TookFault s t 5 0 s.iss.b (n.setWidth 48)) ∧
      Next (exec (.wsr a n) s) (fun t => TookFault s t 5 0 s.iss.b (n.setWidth 48)))

/-! ### Memory (09_memory_and_access.md) -/

/-- R153, R158, R168: a load of the own scratchpad is short; s[d] or v[d] takes its bytes, lowest first, extended as the form says.
R158, R168: a store to the own scratchpad is performed at issue; the low bytes of s[d], or v[d], land at EA, lowest first, and no other byte changes. -/
def Obligations.OwnScratchpadAccesses : Prop :=
  (∀ (s : State) (d a : Fin 16) (i : BitVec 12) (off : Nat),
      let ea : Addr := (s.iss.src.s[a] + i.signExtend 64).setWidth 48
      let e0 : Addr := s.iss.src.s[a].setWidth 48
      let k := scrKey s.me.pl off
      let m := fun n => s.mem.getB (k + n)
      let h : BitVec 16 := m 1 ++ m 0
      let w : BitVec 32 := (m 3 ++ m 2 : BitVec 16) ++ h
      let x : BitVec 64 := ((m 7 ++ m 6 : BitVec 16) ++ (m 5 ++ m 4 : BitVec 16) : BitVec 32) ++ w
      let u := { s with me := { s.me with run := 0 } }
      s.mem.poisoned k = false →
      (OwnScratch s ea 1 off → Next (exec (.ldB d a i) s) (fun t => WroteS u t d ((m 0).signExtend 64)) ∧
        Next (exec (.ldnB d a i) s) (fun t => WroteS u t d ((m 0).setWidth 64))) ∧
      (OwnScratch s ea 2 off → Next (exec (.ldH d a i) s) (fun t => WroteS u t d (h.signExtend 64)) ∧
        Next (exec (.ldnH d a i) s) (fun t => WroteS u t d (h.setWidth 64))) ∧
      (OwnScratch s ea 4 off → Next (exec (.ldW d a i) s) (fun t => WroteS u t d (w.signExtend 64)) ∧
        Next (exec (.ldnW d a i) s) (fun t => WroteS u t d (w.setWidth 64))) ∧
      (OwnScratch s ea 8 off → Next (exec (.ldD d a i) s) (fun t => WroteS u t d x)) ∧
      (OwnScratch s ea 16 off → Next (exec (.vld d a i) s) (fun t => ∃ r, WroteV u t d r 0 ∧ ∀ j, j < 16 → lane 8 r j = (m j).toNat)) ∧
      (OwnScratch s e0 1 off → Next (exec (.vldBc d a .i8) s) (fun t => ∃ r, WroteV u t d r 0 ∧ ∀ j, j < 16 → lane 8 r j = (m 0).toNat)) ∧
      (OwnScratch s e0 2 off → Next (exec (.vldBc d a .i16) s) (fun t => ∃ r, WroteV u t d r 0 ∧ ∀ j, j < 8 → lane 16 r j = h.toNat)) ∧
      (OwnScratch s e0 4 off → Next (exec (.vldBc d a .i32) s) (fun t => ∃ r, WroteV u t d r 0 ∧ ∀ j, j < 4 → lane 32 r j = w.toNat)) ∧
      (OwnScratch s e0 8 off → Next (exec (.vldBc d a .i64) s) (fun t => ∃ r, WroteV u t d r 0 ∧ ∀ j, j < 2 → lane 64 r j = x.toNat))) ∧
  (∀ (s : State) (d a : Fin 16) (i : BitVec 12) (off : Nat), MemOk s →
      let ea : Addr := (s.iss.src.s[a] + i.signExtend 64).setWidth 48
      let x := s.iss.src.s[d]
      ∀ p ∈ ([(.stB d a i, (List.range 1).map (fun k => x.extractLsb' (8 * k) 8)), (.stH d a i, (List.range 2).map (fun k => x.extractLsb' (8 * k) 8)),
          (.stW d a i, (List.range 4).map (fun k => x.extractLsb' (8 * k) 8)), (.stD d a i, (List.range 8).map (fun k => x.extractLsb' (8 * k) 8)),
          (.vst d a i, (List.range 16).map (fun k => s.iss.src.v[d].extractLsb' (8 * k) 8))] : List (Instr × List Byte)),
        OwnScratch s ea p.2.length off →
          Next (exec p.1 s) (fun t => t = { s with mem := { s.mem with cells := t.mem.cells } } ∧ Stored s t (scrKey s.me.pl off) p.2))

/-- R64, R66, R158: a load elsewhere is long: its destination becomes pending and its request sets out; at sixteen operations the thread rewinds and parks.
R158: a store elsewhere is posted: no register becomes pending, and its request sets out with the bytes; no byte changes until it is performed.
R159: a plain load of another core's scratchpad moves the thread there once its run reaches MIGT.THRESH, and is served there below it, or where THRESH is 0;
a load of the slice window is served at the slice and ends the run. -/
def Obligations.LongLoadsAndStoresIssue : Prop :=
  (∀ (s : State) (d a : Fin 16) (i : BitVec 12) (l : Loc), PlainTask s → (∀ p off, l ≠ .scr p off) →
      let ea : Addr := (s.iss.src.s[a] + i.signExtend 64).setWidth 48
      let u := { s with me := { s.me with run := 0 } }
      ∀ p ∈ ([(.ldB d a i, 1, .sx, .s d), (.ldH d a i, 2, .sx, .s d), (.ldW d a i, 4, .sx, .s d), (.ldD d a i, 8, .sx, .s d), (.ldnB d a i, 1, .zx, .s d),
          (.ldnH d a i, 2, .zx, .s d), (.ldnW d a i, 4, .zx, .s d), (.vld d a i, 16, .vec, .v d)] : List (Instr × Nat × LdFmt × Dest)),
        Translates s ea p.2.1 .load l →
          ((s.me.ops.filter (·.counts)).length < 16 → Next (exec p.1 s) (fun t =>
            Issued u t (fun o => o.dest = some p.2.2.2 ∧ o.counts = true ∧ o.due = none ∧ o.ea = ea ∧ o.n = p.2.1) (.load p.2.1 p.2.2.1 none) l)) ∧
          (16 ≤ (s.me.ops.filter (·.counts)).length → Next (exec p.1 s) (fun t => Rewound s t .limit))) ∧
  (∀ (s : State) (d a : Fin 16) (i : BitVec 12) (l : Loc), PlainTask s → (∀ off, l ≠ .scr s.me.pl off) →
      let ea : Addr := (s.iss.src.s[a] + i.signExtend 64).setWidth 48
      let x := s.iss.src.s[d]
      ∀ p ∈ ([(.stB d a i, leBytes 1 x.toNat), (.stH d a i, leBytes 2 x.toNat), (.stW d a i, leBytes 4 x.toNat), (.stD d a i, leBytes 8 x.toNat),
          (.vst d a i, leBytes 16 s.iss.src.v[d].toNat)] : List (Instr × List Byte)),
        Translates s ea p.2.length .store l →
          Next (exec p.1 s) (fun t => Issued s t (fun o => o.dest = none ∧ o.counts = false ∧ o.ea = ea ∧ o.n = p.2.length) (.store p.2) l)) ∧
  (∀ (s : State) (d a : Fin 16) (i : BitVec 12) (p : Place) (k off : Nat), PlainTask s →
      let ea : Addr := (s.iss.src.s[a] + i.signExtend 64).setWidth 48
      let x := s.iss.src.s[d]
      let room := (s.me.ops.filter (·.counts)).length < 16
      let n := if s.me.run ≠ 0 ∧ s.me.tslot.toNat = p.l ∧ s.me.tcore.toNat = p.c then s.me.run.toNat + 1 else 1
      let went := fun (m : Thread) (y : Instr × Nat × LdFmt × Dest) (l : Loc) => Next (exec y.1 s) (fun t => Issued { s with me := m } t
        (fun o => o.dest = some y.2.2.2 ∧ o.counts = true ∧ o.due = none ∧ o.ea = ea ∧ o.n = y.2.1) (.load y.2.1 y.2.2.1 none) l)
      (∀ y ∈ ([(.ldB d a i, 1, .sx, .s d), (.ldH d a i, 2, .sx, .s d), (.ldW d a i, 4, .sx, .s d), (.ldD d a i, 8, .sx, .s d), (.ldnB d a i, 1, .zx, .s d),
          (.ldnH d a i, 2, .zx, .s d), (.ldnW d a i, 4, .zx, .s d), (.vld d a i, 16, .vec, .v d)] : List (Instr × Nat × LdFmt × Dest)), ea.toNat % y.2.1 = 0 →
        (s.region s.me.pl ea = .scr p off → p ≠ s.me.pl →
          (s.me.thresh = 0 → room → went s.me y (.scr p off)) ∧
          (s.me.thresh ≠ 0 → s.me.thresh.toNat ≤ n → Next (exec y.1 s) (fun t =>
            Rewound { s with me := { s.me with run := 0, tslot := 0, tcore := 0 } } t (.migrate p))) ∧
          (s.me.thresh ≠ 0 → n < s.me.thresh.toNat → room →
            went { s.me with run := BitVec.ofNat 8 n, tslot := BitVec.ofNat 8 p.l, tcore := BitVec.ofNat 7 p.c } y (.scr p off))) ∧
        (s.region s.me.pl ea = .slice k off → room → went { s.me with run := 0 } y (.slice k off))) ∧
      (∀ y ∈ ([(.stB d a i, leBytes 1 x.toNat), (.stH d a i, leBytes 2 x.toNat), (.stW d a i, leBytes 4 x.toNat), (.stD d a i, leBytes 8 x.toNat),
          (.vst d a i, leBytes 16 s.iss.src.v[d].toNat)] : List (Instr × List Byte)), ea.toNat % y.2.length = 0 →
        ∀ l, (s.region s.me.pl ea = .scr p off ∧ p ≠ s.me.pl ∧ l = .scr p off) ∨ (s.region s.me.pl ea = .slice k off ∧ l = .slice k off) →
          Next (exec y.1 s) (fun t => Issued s t (fun o => o.dest = none ∧ o.counts = false ∧ o.ea = ea ∧ o.n = y.2.length) (.store y.2) l)))

/-- R169, R166: vldk loads only where the block's tag agrees, and otherwise faults with TAG_MISMATCH; R170: ldt and vldt are long, and a due of 0 faults.
R174, R82: a misaligned load or store faults with MISALIGNED, FADDR = EA, before anything else of its address is looked at; inside an atomic region
the fault is precise at the areg bundle (R189). -/
def Obligations.TaggedTimedMisaligned : Prop :=
  (∀ (s : State) (d a b : Fin 16) (n : BitVec 12) (off : Nat),
      let ea : Addr := s.iss.src.s[a].setWidth 48
      let k := scrKey s.me.pl off
      let u := { s with me := { s.me with run := 0 } }
      s.me.strm = none →
      (OwnScratch s ea 16 off → s.mem.tag k = s.iss.src.s[b].setWidth 16 → s.mem.poisoned k = false →
        Next (exec (.vldk d a b) s) (fun t => ∃ r, WroteV u t d r 0 ∧ ∀ j, j < 16 → lane 8 r j = (s.mem.getB (k + j)).toNat)) ∧
      (OwnScratch s ea 16 off → s.mem.tag k ≠ s.iss.src.s[b].setWidth 16 → s.mem.poisoned k = false →
        Next (exec (.vldk d a b) s) (fun t => TookFault s t 8 1 s.iss.b ea)) ∧
      (OwnScratch s ea 16 off → s.mem.tag k = s.iss.src.s[b].setWidth 16 → s.mem.poisoned k = true →
        Next (exec (.vldk d a b) s) (fun t => TookFault s t 9 0 s.iss.b ea)) ∧
      (OwnScratch s ea 16 off → s.mem.tag k ≠ s.iss.src.s[b].setWidth 16 → s.mem.poisoned k = true →
        Next (exec (.vldk d a b) s) (fun t => TookFault s t 8 1 s.iss.b ea ∨ TookFault s t 9 0 s.iss.b ea)) ∧
      (OwnScratch s ea 8 off → n ≠ 0 → (s.me.ops.filter (·.counts)).length < 16 → Next (exec (.ldt d a n) s) (fun t =>
        Issued u t (fun o => o.dest = some (.s d) ∧ o.counts = true ∧ o.ea = ea) (.load 8 .zx none) (.scr s.me.pl off))) ∧
      (OwnScratch s ea 16 off → n ≠ 0 → (s.me.ops.filter (·.counts)).length < 16 → Next (exec (.vldt d a n) s) (fun t =>
        Issued u t (fun o => o.dest = some (.v d) ∧ o.counts = true ∧ o.ea = ea) (.load 16 .vec none) (.scr s.me.pl off))) ∧
      (s.me.region = none → Next (exec (.ldt d a 0) s) (fun t => TookFault s t 2 3 s.iss.b s.iss.b) ∧
        Next (exec (.vldt d a 0) s) (fun t => TookFault s t 2 3 s.iss.b s.iss.b))) ∧
  (∀ (s : State) (d a : Fin 16) (i : BitVec 12), s.me.strm = none →
      let ea : Addr := (s.iss.src.s[a] + i.signExtend 64).setWidth 48
      let at_ := match s.me.region with | some r => r.b | none => s.iss.b
      ∀ p ∈ ([(.ldH d a i, 2), (.ldW d a i, 4), (.ldD d a i, 8), (.ldnH d a i, 2), (.ldnW d a i, 4), (.vld d a i, 16), (.stH d a i, 2), (.stW d a i, 4),
          (.stD d a i, 8), (.vst d a i, 16)] : List (Instr × Nat)),
        ea.toNat % p.2 ≠ 0 → Next (exec p.1 s) (fun t => t.me.region = none ∧ SameBytes s t ∧
          ((∀ r, s.me.region = some r → r.late = []) → t.me.s = s.me.s ∧ t.me.v = s.me.v) ∧
          (if s.me.trapb = 0 ∨ s.me.fcode ≠ 0 then ∃ f : FaultRec, t.me.park = .dead f ∧ f.code = 3 ∧ f.sub = 0 ∧ f.fpc = at_ ∧ f.faddr = ea
           else t.me.pc = s.me.trapb ∧ t.me.fcode = 3 ∧ t.me.fpc = at_ &&& ~~~3#48 ∧ t.me.faddr = ea)))

/-- R171: pref and pref.r change no register and no byte of memory, and fault nowhere; what they move stands in caches and counters; R172: a fence parks the thread for its scope; R188: areg opens a region of n words; R408: step
parks the thread until it departs, and faults while a reservation is held or inside a handler. -/
def Obligations.PrefetchFenceRegionStep : Prop :=
  ∀ (s : State) (a n : Fin 16),
    Next (exec (.pref a) s) (fun t => Settles s t ∧ SameBytes s t) ∧ Next (exec (.prefR a) s) (fun t => Settles s t ∧ SameBytes s t) ∧
    (∀ p ∈ ([(.fenceK, 0), (.fenceS, 1), (.fenceO, 2), (.fenceY, 3)] : List (Instr × Nat)), Next (exec p.1 s) (fun t => Parked s t (.fence p.2))) ∧
    (1 ≤ n.val → n.val ≤ 8 → s.iss.pair = false →
      exec (.areg n) s = .next { s with me := { s.me with region := some { b := s.iss.b, left := n.val, wait := false, words := [], grp := s.clk.id } },
                                        clk := { s.clk with id := s.clk.id + 1 } }) ∧
    (s.me.resv = .none → s.me.fcode = 0 → Next (exec .step s) (fun t => Parked s t .step)) ∧
    (PlainTask s → s.me.resv ≠ .none ∨ s.me.fcode ≠ 0 → Next (exec .step s) (fun t => TookFault s t 2 6 s.iss.b s.iss.b))

/-! ### Synchronisation (10_synchronisation.md) -/

/-- R183, R199: the full/empty forms send their request to the sync word; ldfe and ldff are acquires with a long result, the others releases.
R184, R185: lrw asks for a reservation, scq and rsv.rel need one held on their word and give it up at issue; any other use faults.
That ldfe, ldff and lrw leave MIGT as it is, and the run of remote loads with it, is the model's choice (log 95). -/
def Obligations.FullEmptyAndReservationIssue : Prop :=
  (∀ (s : State) (d a b : Fin 16) (l : Loc), (s.me.ops.filter (·.counts)).length < 16 →
      let ea : Addr := s.iss.src.s[a].setWidth 48
      let x := s.iss.src.s[b]
      (Translates s ea 8 .syncRd l → ∀ p ∈ ([(.ldfe d a, .ldfe), (.ldff d a, .ldff)] : List (Instr × ReqKind)),
        Next (exec p.1 s) (fun t => Issued s t (fun o => o.dest = some (.s d) ∧ o.acq = true ∧ o.rel = false ∧ o.counts = true) p.2 l)) ∧
      (Translates s ea 8 .syncWr l → ∀ p ∈ ([(.stfe a b, .stfe x, true), (.stf a b, .stf x, false), (.feClr a, .feClr, false)] : List (Instr × ReqKind × Bool)),
        Next (exec p.1 s) (fun t => Issued s t (fun o => o.dest = none ∧ o.acq = false ∧ o.rel = true ∧ o.counts = p.2.2) p.2.1 l))) ∧
  (∀ (s : State) (d a b : Fin 16) (l : Loc),
      let ea : Addr := s.iss.src.s[a].setWidth 48
      (Translates s ea 8 .syncRd l → s.me.resv = .none → (s.me.ops.filter (·.counts)).length < 16 → Next (exec (.lrw d a) s) (fun t =>
        Issued { s with me := { s.me with resv := .requested ea } } t (fun o => o.dest = some (.s d) ∧ o.acq = true ∧ o.counts = true) .lrw l)) ∧
      (Translates s ea 8 .syncRd l → PlainTask s → s.me.resv ≠ .none → Next (exec (.lrw d a) s) (fun t => ∃ x, TookFault s t 2 4 s.iss.b x)) ∧
      (Translates s ea 8 .syncWr l → s.me.resv = .held ea → Next (exec (.scq a b) s) (fun t =>
        Issued { s with me := { s.me with resv := .none } } t (fun o => o.dest = none ∧ o.rel = true) (.scq s.iss.src.s[b]) l)) ∧
      (Translates s ea 8 .syncRd l → s.me.resv = .held ea → Next (exec (.rsvRel a) s) (fun t =>
        Issued { s with me := { s.me with resv := .none } } t (fun o => o.dest = none ∧ o.rel = true) .rsvRel l)) ∧
      (Translates s ea 8 .syncWr l → PlainTask s → s.me.resv ≠ .held ea → Next (exec (.scq a b) s) (fun t => TookFault s t 2 4 s.iss.b ea)) ∧
      (Translates s ea 8 .syncRd l → PlainTask s → s.me.resv ≠ .held ea → Next (exec (.rsvRel a) s) (fun t => TookFault s t 2 4 s.iss.b ea)))

/-- R186: a returning atomic is sent home and its thread leaves the issue turn until the old value lands; R187: a reduction is posted and counts in REDPEND,
and at 32 outstanding the thread rewinds and parks.
R190, R191, R193: barrier forms and qpush go to the core that their name gives within the owner; those that wait leave the issue turn; a name beyond the
owner's slots raises PROTECTION. -/
def Obligations.AtomicsBarriersPushesIssue : Prop :=
  (∀ (s : State) (d a b : Fin 16) (o : AmoOp) (r : RedOp) (l : Loc), (∀ off, l ≠ .scr s.me.pl off) →
      let ea : Addr := s.iss.src.s[a].setWidth 48
      let x := s.iss.src.s[b]
      let more := { s with me := { s.me with redpend := s.me.redpend + 1 } }
      (∀ p ∈ ([(.amoD d a b o, 8), (.amoW d a b o, 4)] : List (Instr × Nat)), Translates s ea p.2 .atomic l → (s.me.ops.filter (·.counts)).length < 16 →
        Next (exec p.1 s) (fun t => ∃ u, Issued s u (fun y => y.dest = some (.s d) ∧ y.acq = true ∧ y.rel = true) (.amo o p.2 x s.iss.src.s[d]) l ∧
          t = { u with me := { u.me with park := .amo s.clk.id, woken := false } })) ∧
      ∀ p ∈ ([(.redD a b r, 8, .red r 8 x), (.redW a b r, 4, .red r 4 x), (.redFaddF32 a b, 4, .redF (x.setWidth 32))] : List (Instr × Nat × ReqKind)),
        Translates s ea p.2.1 .atomic l →
          (s.me.redpend ≠ 32 → Next (exec p.1 s) (fun t => Issued more t (fun y => y.dest = none ∧ y.red = true) p.2.2 l)) ∧
          (PlainTask s → s.me.redpend = 32 → Next (exec p.1 s) (fun t => Rewound s t .redLimit))) ∧
  (∀ (s : State) (a b : Fin 16),
      let x := s.iss.src.s[a]
      let home : Place := ⟨s.me.pl.o, bits x.toNat 23 16, bits x.toNat 14 8⟩
      let k := x.toNat % 128
      let forms : List (Instr × ReqKind × Option Park) := [(.barInit a b, .barInit k (s.iss.src.s[b].toNat % 65536), none), (.barArrive a, .barArrive k, none),
        (.barWait a, .barWait k, some (.bar s.clk.id)), (.barSync a, .barSync k, some (.bar s.clk.id)),
        (.qpush a b, .push (x.toNat % 8) s.iss.src.v[b], some (.push s.clk.id))]
      (home.l < s.nslot s.me.pl.o → ∀ p ∈ forms, Next (exec p.1 s) (fun t => ∃ u, Issued s u (fun o => o.dest = none) p.2.1 (.scr home 0) ∧
        t = match p.2.2 with | some w => { u with me := { u.me with park := w, woken := false } } | none => u)) ∧
      (PlainTask s → s.nslot s.me.pl.o ≤ home.l → ∀ p ∈ forms, Next (exec p.1 s) (fun t => TookFault s t 5 0 s.iss.b (x.setWidth 48))))

/-- R194, R195: qpop takes the head entry, qpeek leaves it, qred adds one entry a turn and its PC stays on the bundle until QPOS reaches the count; all park on
an empty queue; at the count, QPOS is 0 again and the thread goes on. R199: while an acquire of the thread is pending, they wait at their bundle (that the wait
is there, as an access that is performed at issue, is log 18, DEDUCED).
R197, R198, R205: msg is posted toward the inbox of a task, mrecv waits for a message with a long result, spawn sends a launch record. -/
def Obligations.QueuesMessagesSpawn : Prop :=
  (∀ (s : State) (d a b : Fin 16) (e : VWord) (es : List VWord), a.val < 8 → s.me.strm = none →
      let home := s.core s.me.pl
      let q := alGet [] a.val home.queues
      (s.me.ops.any (·.acq) = false → q = e :: es → s.heldPush s.me.pl a.val = none → Next (exec (.qpop d a) s) (fun t => ∃ u, WroteV s u d e 0 ∧ t = { u with cores := t.cores } ∧
        alGet [] a.val (t.core s.me.pl).queues = es)) ∧
      (s.me.ops.any (·.acq) = false → q = e :: es → (∀ t' ∈ s.allThreads, ∀ k n, t'.park ≠ .queue k n) → Next (exec (.qpeek d a) s) (fun t => WroteV s t d e 0)) ∧
      (s.me.ops.any (·.acq) = true → s.me.region = none → ∀ i, i = Instr.qpop d a ∨ i = Instr.qpeek d a → Next (exec i s) (fun t => Rewound s t .acq)) ∧
      (s.me.ops.any (·.acq) = false → q = [] → s.me.region = none → ∀ i, i = Instr.qpop d a ∨ i = Instr.qpeek d a → Next (exec i s) (fun t =>
        ∃ u, Rewound s u (.queue a.val s.clk.id) ∧ t = { u with clk := { u.clk with id := u.clk.id + 1 } })) ∧
      (s.me.ops.any (·.acq) = false → q = e :: es → s.heldPush s.me.pl a.val = none → s.iss.pair = false → s.me.qpos.toNat + 1 < s.iss.src.s[b].toNat % 65536 →
        ∀ p ∈ ([(.qredI32 d a b, .i32, 0), (.qredI64 d a b, .i64, 0), (.qredF32 d a b, .f32, s.iss.src.rm)] : List (Instr × LaneT × Nat)),
          Next (exec p.1 s) (fun t =>
            let r := vAddL p.2.2 p.2.1 s.iss.src.v[d] e
            ∃ u, WroteV s u d r.1 r.2 ∧
              t = { u with me := { u.me with qpos := s.me.qpos + 1, pc := s.iss.b }, iss := { s.iss with status := .rewound }, cores := t.cores } ∧
              alGet [] a.val (t.core s.me.pl).queues = es)) ∧
      (s.iss.pair = false → ∀ p ∈ ([(.qredI32 d a b, .i32, 0), (.qredI64 d a b, .i64, 0), (.qredF32 d a b, .f32, s.iss.src.rm)] : List (Instr × LaneT × Nat)),
        let count := s.iss.src.s[b].toNat % 65536
        (s.me.ops.any (·.acq) = true → s.me.region = none → s.me.qpos.toNat < count → Next (exec p.1 s) (fun t => Rewound s t .acq)) ∧
        (s.me.ops.any (·.acq) = false → q = [] → s.me.region = none → s.me.qpos.toNat < count → Next (exec p.1 s) (fun t =>
          ∃ u, Rewound s u (.queue a.val s.clk.id) ∧ t = { u with clk := { u.clk with id := u.clk.id + 1 } })) ∧
        (s.me.ops.any (·.acq) = false → q = e :: es → s.heldPush s.me.pl a.val = none → s.me.qpos.toNat + 1 = count → Next (exec p.1 s) (fun t =>
          let r := vAddL p.2.2 p.2.1 s.iss.src.v[d] e
          ∃ u, WroteV s u d r.1 r.2 ∧ t = { u with me := { u.me with qpos := 0 }, cores := t.cores } ∧ alGet [] a.val (t.core s.me.pl).queues = es)) ∧
        (count ≤ s.me.qpos.toNat → exec p.1 s = .next { s with me := { s.me with qpos := 0 } }))) ∧
  (∀ (s : State) (d a b : Fin 16) (l : Loc),
      let x := s.iss.src.s[a]
      Next (exec (.msg a b) s) (fun t => Issued s t (fun o => o.dest = none ∧ o.rel = true)
        (.msg (x.toNat / 2 ^ 32 % 16) (x.setWidth 32) s.iss.src.v[b] s.me.task.launch) (.peer s.me.pl.o 0 0)) ∧
      ((s.me.ops.filter (·.counts)).length < 16 →
        Next (exec (.mrecv d) s) (fun t => Issued s t (fun o => o.dest = some (.v d) ∧ o.acq = true ∧ o.counts = true) (.mrecv s.me.tid) (.peer s.me.pl.o 0 0)) ∧
        (Translates s (x.setWidth 48) 128 .load l → (∀ p off, l ≠ .scr p off) → (∀ o n ia, l ≠ .peer o n ia) →
          Next (exec (.spawn d a) s) (fun t => Issued s t (fun o => o.dest = some (.s d) ∧ o.rel = true ∧ o.counts = true) (.spawn 0 []) l))))

/-! ### Special functions (07_special_functions.md) -/

/-- R142, R143, R66: a special-function request joins its core's buffer with the lanes of v[a], and v[d] becomes pending; with four requests waiting, or
sixteen operations in flight, the thread rewinds and parks. -/
def Obligations.SpecialFunctionRequests : Prop :=
  ∀ (s : State) (d a : Fin 16) (u : BitVec 8), PlainTask s →
    let waiting := (s.sfu.filter (fun r => r.pl = s.me.pl && !r.strm && r.land.isNone)).length
    ∀ p ∈ ([(.fexp2 d a u, 0), (.flog2 d a u, 1), (.frcp d a u, 2), (.frsqrt d a u, 3), (.fsqrt d a u, 4), (.fsinp d a u, 5), (.fcosp d a u, 6),
        (.ftanh d a u, 7), (.fsigm d a u, 8)] : List (Instr × Nat)),
      ((s.me.ops.filter (·.counts)).length < 16 → waiting < 4 → Next (exec p.1 s) (fun t => ∃ x r,
        t = { s with me := s.me.addOp x, sfu := s.sfu ++ [r], clk := { s.clk with id := s.clk.id + 1 } } ∧ SameBytes s t ∧
        x.id = s.clk.id ∧ x.dest = some (.v d) ∧ x.counts = true ∧ x.res = none ∧ x.due = none ∧
        r.id = s.clk.id ∧ r.uid = s.me.uid ∧ r.pl = s.me.pl ∧ r.f = p.2 ∧ r.arg = s.iss.src.v[a] ∧ r.strm = false ∧ r.land = none)) ∧
      ((s.me.ops.filter (·.counts)).length < 16 → 4 ≤ waiting → Next (exec p.1 s) (fun t => Rewound s t .sfu)) ∧
      (16 ≤ (s.me.ops.filter (·.counts)).length → Next (exec p.1 s) (fun t => Rewound s t .limit))

/-! ### Matrix, movement and flash (12_matrix.md, 13_copy_and_publish.md, 23_weight_flash.md) -/

/-- R222: mgrp keeps the fields of a capability whose engines lie in the owner's slots and in one row, or faults.
R223, R225: a matrix command is the 64 bytes of its descriptor with the capability of its group register; it goes to every engine of the group, and s[d]
becomes pending. A field outside its limits faults with FADDR the first bad quad.
R239, R240: mstat and mfence send a marker to every engine of the group; mstat's s[d] becomes pending, mfence parks its thread. -/
def Obligations.EngineCommandsIssue : Prop :=
  (∀ (s : State) (d : Fin 4) (a : Fin 16),
      let c := s.iss.src.s[a] &&& 0xFFFF0000FF0F0F07
      let slot := c.toNat / 2 ^ 24 % 256
      let cols := c.toNat % 8 + 1
      let x := c.toNat / 2 ^ 16 % 16
      let rows := c.toNat / 2 ^ 8 % 16 + 1
      (slot + cols ≤ s.nslot s.me.pl.o → x + rows ≤ 16 → exec (.mgrp (d.castLE (by omega)) a) s = .next { s with me := { s.me with eg := s.me.eg.set d.val c } }) ∧
      (PlainTask s → s.nslot s.me.pl.o < slot + cols → Next (exec (.mgrp (d.castLE (by omega)) a) s) (fun t => TookFault s t 5 0 s.iss.b 0)) ∧
      (PlainTask s → slot + cols ≤ s.nslot s.me.pl.o → 16 < x + rows → Next (exec (.mgrp (d.castLE (by omega)) a) s) (fun t => TookFault s t 2 3 s.iss.b s.iss.b))) ∧
  (∀ (s : State) (d a : Fin 16) (b : Fin 4) (off : Nat), PlainTask s →
      let ea : Addr := s.iss.src.s[a].setWidth 48
      let g : Fin 16 := b.castLE (by omega)
      let cap := s.me.eg[b]
      let q := quadsOf 8 (s.mem.read (scrKey s.me.pl off) 64)
      OwnScratch s ea 64 off →
      ∀ p ∈ ([(.mclr d a g, 1), (.mmaG8 d a g, 2), (.mmaI8 d a g, 3), (.mmaBf16 d a g, 4), (.mmaG8bf d a g, 5), (.mrd d a g, 6), (.mrdq d a g, 7)] : List (Instr × Nat)),
        (∀ n, State.matBad false p.2 cap q = some n → Next (exec p.1 s) (fun t => TookFault s t 2 5 s.iss.b (ea + BitVec.ofNat 48 (8 * n)))) ∧
        (State.matBad false p.2 cap q = none → s.matRange s.me.pl p.2 cap q = none → (p.2 = 7 → bits (qd q 4) 23 16 < s.nslot s.me.pl.o) →
          ((s.me.ops.filter (·.counts)).length < 16 → Next (exec p.1 s) (fun t => ∃ x c,
            t = { s with me := s.me.addOp x, cmds := s.cmds ++ [c], clk := { s.clk with id := s.clk.id + 1 } } ∧ SameBytes s t ∧
            x.id = s.clk.id ∧ x.dest = some (.s d) ∧ x.counts = true ∧ x.cmd = true ∧ x.res = none ∧
            c.id = s.clk.id ∧ c.uid = s.me.uid ∧ c.form = p.2 ∧ c.cap = cap ∧ c.q = q ∧ c.desc = ea ∧ c.parts = groupParts cap ∧
            c.startAt = if bits (qd q 7) 15 0 = 0 then none else some (s.me.taskb + BitVec.ofNat 64 (bits (qd q 7) 15 0)))) ∧
          (16 ≤ (s.me.ops.filter (·.counts)).length → Next (exec p.1 s) (fun t => Rewound s t .limit)))) ∧
  (∀ (s : State) (d : Fin 16) (b : Fin 4),
      let g : Fin 16 := b.castLE (by omega)
      let sent := fun (t : State) (x : Op) (form : Nat) => ∃ c,
        t.cmds = s.cmds ++ [c] ∧ SameBytes s t ∧ c.id = s.clk.id ∧ c.uid = s.me.uid ∧ c.form = form ∧ c.cap = s.me.eg[b] ∧ c.parts = groupParts s.me.eg[b] ∧
        t = { s with me := t.me, cmds := t.cmds, clk := { s.clk with id := s.clk.id + 1, draw := s.clk.draw + 1 } } ∧ x.id = s.clk.id
      ((s.me.ops.filter (·.counts)).length < 16 → Next (exec (.mstat d g) s) (fun t => ∃ x, sent t x 8 ∧ t.me = s.me.addOp x ∧ x.dest = some (.s d) ∧ x.acq = true)) ∧
      Next (exec (.mfence g) s) (fun t => ∃ x, sent t x 9 ∧ t.me = { s.me.addOp x with park := .mfence s.clk.id, woken := false } ∧ x.dest = none))

/-- R244: a copy form puts its descriptor into the lowest-numbered empty mailbox of its core; with all four full the thread rewinds and parks.
R253, R255: chset gives a channel its range, every mark at FULL and no error, and wakes the threads of its core that no channel holds any more; chq reads the watermark and the error; R257: publish names a valid pair. -/
def Obligations.CopiesChannelsPublish : Prop :=
  (∀ (s : State) (a : Fin 16) (off : Nat), PlainTask s →
      let ea : Addr := s.iss.src.s[a].setWidth 48
      let q := quadsOf 8 (s.mem.read (scrKey s.me.pl off) 64)
      let box := (s.core s.me.pl).mbox
      OwnScratch s ea 64 off →
      ∀ p ∈ ([(.cp1d a, 0), (.cp2d a, 1), (.cp3d a, 2), (.cpGather a, 3), (.cpScatter a, 4), (.cpFill a, 5)] : List (Instr × Nat)),
        (∀ n, s.copyBad p.2 q = some n → Next (exec p.1 s) (fun t => TookFault s t 2 5 s.iss.b (ea + BitVec.ofNat 48 (8 * n)))) ∧
        (s.copyBad p.2 q = none → (bit (qd q 5) 4 = true → bits (qd q 5) 63 40 / 2 ^ 16 % 256 < s.nslot s.me.pl.o) →
          (∀ k, k < 4 → (∃ m ∈ box, m.mb = k)) → Next (exec p.1 s) (fun t => Rewound s t .mailbox)) ∧
        (s.copyBad p.2 q = none → (bit (qd q 5) 4 = true → bits (qd q 5) 63 40 / 2 ^ 16 % 256 < s.nslot s.me.pl.o) →
          ∀ k, k < 4 → (∀ m ∈ box, m.mb ≠ k) → (∀ j, j < k → ∃ m ∈ box, m.mb = j) → Next (exec p.1 s) (fun t =>
            t = { s with cores := t.cores, clk := { s.clk with id := s.clk.id + 1 } } ∧ SameBytes s t ∧
            (t.core s.me.pl).mbox = box ++ [{ mb := k, id := s.clk.id, uid := s.me.uid, kind := p.2, q := q }]))) ∧
  (∀ (s : State) (d a : Fin 16) (b : Fin 4) (off : Nat),
      let ea : Addr := s.iss.src.s[a].setWidth 48
      let g : Fin 16 := b.castLE (by omega)
      let w := leNat (s.mem.read (scrKey s.me.pl off) 8)
      let base := w % 65536
      let size := w / 2 ^ 16 % 2 ^ 17
      let x := alGet ({} : Chan) b.val (s.core s.me.pl).chans
      let k := s.iss.src.s[a].toNat % 64
      (ea.toNat % 8 = 0 → s.region s.me.pl ea = .scr s.me.pl off → s.chanAt s.me.pl off 8 = none → base % 128 = 0 → size % 128 = 0 → base + size ≤ 65536 →
        Next (exec (.chset a g) s) (fun t => SameBytes s t ∧ (∃ xs, t.cores = (s.setCore { s.core s.me.pl with chans := xs }).cores ∧ ∀ j, j ≠ b.val → alGet ({} : Chan) j xs = alGet ({} : Chan) j (s.core s.me.pl).chans) ∧
          t = { s with cores := t.cores, threads := s.threads.map (fun y => match y.park with
            | .chan i n => if y.pl = s.me.pl ∧ t.chanCheck s.me.pl i n ≠ .park then { y with woken := true } else y
            | _ => y) } ∧
          alGet ({} : Chan) b.val (t.core s.me.pl).chans =
            { base := base, size := size, marks := List.replicate (size / 128) (bit w 33), err := none })) ∧
      Next (exec (.chq d g) s) (fun t => WroteS s t d (BitVec.ofNat 64 ((x.err.getD (0, 0)).2 * 2 ^ 40 + (x.err.getD (0, 0)).1 * 2 ^ 32 + x.wm))) ∧
      ((∃ p ∈ (s.owner s.me.pl.o).pairs, p.k = k) → Next (exec (.publish a) s) (fun t => Parked s t (.publish k))) ∧
      (PlainTask s → (∀ p ∈ (s.owner s.me.pl.o).pairs, p.k ≠ k) → Next (exec (.publish a) s) (fun t => TookFault s t 5 0 s.iss.b ea)))

/-- R386, R391: winst sends a checked descriptor to the install unit, or faults at its first bad quad; wstat asks for an install's word; each makes s[d]
pending. -/
def Obligations.InstallFormsIssue : Prop :=
  ∀ (s : State) (d a : Fin 16) (off : Nat), PlainTask s → (s.me.ops.filter (·.counts)).length < 16 →
    let ea : Addr := s.iss.src.s[a].setWidth 48
    let q := quadsOf 8 (s.mem.read (scrKey s.me.pl off) 64)
    let len := bits (qd q 2) 24 0
    (OwnScratch s ea 64 off → 1 ≤ len → len ≤ 2 ^ 24 → bits (qd q 3) 47 0 % 64 = 0 → (bit (qd q 4) 0 = true → bits (qd q 4) 63 40 / 2 ^ 16 % 256 < s.nslot s.me.pl.o) →
      Next (exec (.winst d a) s) (fun t => ∃ x,
        t = { s with me := s.me.addOp x, clk := { s.clk with id := s.clk.id + 1 }, flash := { s.flash with installs := s.flash.installs ++
          [{ rid := s.clk.id, uid := s.me.uid, pl := s.me.pl, o := s.me.pl.o, q := q }] } } ∧ SameBytes s t ∧
        x.id = s.clk.id ∧ x.dest = some (.s d) ∧ x.counts = true ∧ x.cmd = true)) ∧
    (OwnScratch s ea 64 off → (len = 0 ∨ 2 ^ 24 < len) → Next (exec (.winst d a) s) (fun t => TookFault s t 2 5 s.iss.b (ea + 16))) ∧
    (OwnScratch s ea 64 off → 1 ≤ len → len ≤ 2 ^ 24 →
      (bits (qd q 3) 47 0 % 64 ≠ 0 → Next (exec (.winst d a) s) (fun t => TookFault s t 2 5 s.iss.b (ea + 24))) ∧
      (bits (qd q 3) 47 0 % 64 = 0 → bit (qd q 4) 0 = true → s.nslot s.me.pl.o ≤ bits (qd q 4) 63 40 / 2 ^ 16 % 256 →
        Next (exec (.winst d a) s) (fun t => TookFault s t 5 0 s.iss.b (ea + 32)))) ∧
    Next (exec (.wstat d a) s) (fun t => Issued s t (fun o => o.dest = some (.s d) ∧ o.acq = true ∧ o.counts = true)
      (.wstat (s.iss.src.s[a].toNat % 2 ^ 32)) (.peer s.me.pl.o 0 0))

/-! ### Monitor forms (18 to 20, 24, 26) -/

/-- R350, R79, R82: a monitor form below the monitor level is not performed, and its bundle raises ILLEGAL_INSTRUCTION, subcode 4.
R79 to R82: an unassigned word raises ILLEGAL_INSTRUCTION with 1 or 2, a reserved field ILLEGAL_OPERAND with 2 or 3, a pair that writes one register twice
ILLEGAL_OPERAND with 1, before either half is performed.
R79, R340, R345: an unassigned word raises ILLEGAL_INSTRUCTION and a failed fetch raises its code, each precise at the bundle. -/
def Obligations.EncodingLevelFetchFaults : Prop :=
  (∀ (s : State) (b : Addr) (w : BitVec 32) (d : Decoded), PlainTask s → s.me.pl.o ≠ 0 → decodeWord w = .ok d → instrIsMonitor d.i = true →
      Next (s.performFormed ⟨b, [w]⟩) (fun t => TookFault (s.latch b 4 s.me) t 1 4 b b)) ∧
  (∀ (s : State) (b : Addr) (w v : BitVec 32) (d e : Decoded), PlainTask s →
      (decodeWord w = .error .major → Next (s.performFormed ⟨b, [w]⟩) (fun t => TookFault (s.latch b 4 s.me) t 1 1 b b)) ∧
      (decodeWord w = .error .function → Next (s.performFormed ⟨b, [w]⟩) (fun t => TookFault (s.latch b 4 s.me) t 1 2 b b)) ∧
      (decodeWord w = .ok d → ∀ n, d.i.reservedSub = some n → s.me.pl.o = 0 ∨ instrIsMonitor d.i = false → streamForm d.i = false →
        Next (s.performFormed ⟨b, [w]⟩) (fun t => TookFault (s.latch b 4 s.me) t 2 n b b)) ∧
      (decodeWord w = .ok d → decodeWord v = .ok e → instrIsMonitor d.i = false → instrIsMonitor e.i = false → streamForm d.i = false → streamForm e.i = false →
        d.i.reservedSub = none → e.i.reservedSub = none → (∃ r ∈ instrWrites d.i, r ∈ instrWrites e.i) →
        Next (s.performFormed ⟨b, [w, v]⟩) (fun t => TookFault (s.latch b 8 s.me) t 2 1 b b))) ∧
  (∀ (s : State) (w : BitVec 32) (code sub : Nat), PlainTask s →
      (decodeWord w = .error .major → s.iss.z = 4 → Next (exec (.unassignedWord w) s) (fun t => TookFault s t 1 1 s.iss.b s.iss.b)) ∧
      (decodeWord w = .error .function → s.iss.z = 4 → Next (exec (.unassignedWord w) s) (fun t => TookFault s t 1 2 s.iss.b s.iss.b)) ∧
      (decodeWord w = .error .function → s.iss.z = 8 → Next (exec (.unassignedWord w) s) (fun t => TookFault s t 1 2 s.iss.b (s.iss.b + 4))) ∧
      Next (exec (.instructionFetchFault code sub) s) (fun t => TookFault s t code sub s.iss.b s.iss.b))

/-- R317: rotctl suspends or resumes rotation or asks for one more rotation or switch; slotctl places or removes a tenancy at the next pause. Every row of
either form acts by s[a][3:0].
R332: a spill writes the tiles to the save area of their tag owner, and no byte elsewhere (in what layout, log 16).
R352: frz by OP in s[a][3:0]: freeze or release an owner's slots, freeze or release a function that belongs to the owner, end a task. Owner 0 is never frozen. -/
def Obligations.RotationSlotFreezeControl : Prop :=
  (∀ (s : State) (a b : Fin 16) (i : Instr),
      let sel := s.iss.src.s[a].toNat % 16
      let v := s.iss.src.s[b].toNat
      let ten : Tenancy := { idx := v % 64, k := v / 2 ^ 16 % 4, o := v / 2 ^ 6 % 16, l := v / 2 ^ 10 % 64 }
      ((i = .rotctlSuspend a ∨ i = .rotctlResume a ∨ i = .rotctlExtraRotation a ∨ i = .rotctlExtraSwitch a) →
        (sel = 0 → exec i s = .next { s with regs := { s.regs with rotiv := s.regs.rotiv ||| 0x8000000000000000 } }) ∧
        (sel = 1 → exec i s = .next { s with regs := { s.regs with rotiv := s.regs.rotiv &&& 0x7FFFFFFFFFFFFFFF } }) ∧
        (sel = 2 → exec i s = .next { s with rot := { s.rot with extraRot := true } }) ∧
        (sel = 3 → exec i s = .next { s with rot := { s.rot with extraSw := true } }) ∧
        (PlainTask s → 4 ≤ sel → Next (exec i s) (fun t => TookFault s t 2 3 s.iss.b s.iss.b))) ∧
      ((i = .slotctlPlace a b ∨ i = .slotctlRemove a b ∨ i = .slotctlSpill a b) →
        (sel = 0 → ten.idx < s.nlive → s.enabled ten.o = true → ten.l < s.nslot ten.o →
          (∀ t ∈ s.placedSoon, ¬(t.idx = ten.idx ∧ t.k = ten.k) ∧ ¬(t.o = ten.o ∧ t.l = ten.l)) →
          exec i s = .next { s with rot := { s.rot with changes := s.rot.changes ++ [.place ten] } }) ∧
        (sel = 1 → (∀ t ∈ s.rot.tens, t.idx = ten.idx → t.k = ten.k → s.enabled t.o = false) →
          exec i s = .next { s with rot := { s.rot with changes := s.rot.changes ++ [.remove ten.idx ten.k] } }) ∧
        (sel = 2 → Next (exec i s) (fun t => t.me = s.me ∧ (t.engineAt (v % 64) (v / 2 ^ 6 % 16)).tag = some (v / 2 ^ 10 % 16) ∧
          match (s.engineAt (v % 64) (v / 2 ^ 6 % 16)).tag with
          | some o => if o = v / 2 ^ 10 % 16 then SameBytes s t else OutsideSave s t o
          | none => SameBytes s t)) ∧
        (PlainTask s → 3 ≤ sel → Next (exec i s) (fun t => TookFault s t 2 3 s.iss.b s.iss.b)))) ∧
  (∀ (s : State) (a : Fin 16) (i : Instr),
      (i = .frzFreezeOwner a ∨ i = .frzReleaseOwner a ∨ i = .frzFreezeFunction a ∨ i = .frzReleaseFunction a ∨ i = .frzEndTask a) →
      let v := s.iss.src.s[a].toNat
      let op := v % 16
      let o := v / 2 ^ 8 % 16
      let f := v / 2 ^ 16 % 2 ^ 10
      (op = 0 → o ≠ 0 → (s.owner o).frozen = false → (s.owner o).freezing = none → Next (exec i s) (fun t =>
        Parked (s.setOwner o { s.owner o with freezing := some 0x80, causes := (s.owner o).causes ++ [0x80] }) t (.frz o))) ∧
      (op = 1 → o ≠ 0 → (s.owner o).frozen = true → (s.owner o).inScrub = false → exec i s = .next (s.setOwner o { s.owner o with releasing := true })) ∧
      (op = 1 → o ≠ 0 → ((s.owner o).frozen = false ∨ (s.owner o).inScrub = true) → exec i s = .next s) ∧
      (op = 2 → s.fnOf f o = true → Next (exec i s) (fun t => SameBytes s t ∧ t.me = s.me ∧ (t.fn? f).map (·.frozen) = some true)) ∧
      (op = 3 → s.fnOf f o = true → Next (exec i s) (fun t => SameBytes s t ∧ t.me = s.me ∧ t.owners = s.owners ∧ (t.fn? f).map (·.frozen) = some false)) ∧
      (op = 2 ∨ op = 3 → s.fnOf f o = false → exec i s = .next s) ∧
      (op = 4 → (∀ t ∈ s.threads, ¬(t.pl.o = o ∧ t.tid.toNat = v / 2 ^ 32) ∧ ∀ f, t.park ≠ .dead f) → ¬(s.me.uid ≠ 0 ∧ s.me.pl.o = o ∧ s.me.tid.toNat = v / 2 ^ 32) →
        s.graph.streams = [] → s.graph.packets = [] → s.graph.placing = [] → exec i s = .next s) ∧
      (op = 4 → exec i s = .next (s.endTask o (BitVec.ofNat 32 (v / 2 ^ 32)))) ∧
      (PlainTask s → (4 < op ∨ (o = 0 ∧ op ≤ 1)) → Next (exec i s) (fun t => TookFault s t 2 3 s.iss.b s.iss.b)))

/-- R317, R332, R352, R79, R340, R420, R107, R108: each row of rotctl, slotctl and frz completes with the effect that its table gives its own value of
s[a][3:0]; the rows for an unassigned word and a failed fetch complete with their exception; a refusal or a timeout of a pull completes with its failure;
jmp and ret complete at an aligned target. What a spill leaves in the save area is the device's own affair (log 16). -/
def Obligations.ControlFormsComplete : Prop :=
  ∀ (s : State) (a b : Fin 16) (w : BitVec 32) (code sub o p : Nat) (x : Thread),
    let u := s.iss.src.s[a].toNat
    let v := s.iss.src.s[b].toNat
    let j : Addr := s.iss.src.s[a].setWidth 48
    let ten : Tenancy := { idx := v % 64, k := v / 2 ^ 16 % 4, o := v / 2 ^ 6 % 16, l := v / 2 ^ 10 % 64 }
    let own := u / 2 ^ 8 % 16
    let fn := u / 2 ^ 16 % 2 ^ 10
    let fresh := fun (n x : Nat) => ({ idx := n, x := x, tag := some (v / 2 ^ 10 % 16) } : Engine)
    (u % 16 = 0 → exec (.rotctlSuspend a) s = .next { s with regs := { s.regs with rotiv := s.regs.rotiv ||| 0x8000000000000000 } }) ∧
    (u % 16 = 1 → exec (.rotctlResume a) s = .next { s with regs := { s.regs with rotiv := s.regs.rotiv &&& 0x7FFFFFFFFFFFFFFF } }) ∧
    (u % 16 = 2 → exec (.rotctlExtraRotation a) s = .next { s with rot := { s.rot with extraRot := true } }) ∧
    (u % 16 = 3 → exec (.rotctlExtraSwitch a) s = .next { s with rot := { s.rot with extraSw := true } }) ∧
    (u % 16 = 0 → ten.idx < s.nlive → s.enabled ten.o = true → ten.l < s.nslot ten.o →
      (∀ t ∈ s.placedSoon, ¬(t.idx = ten.idx ∧ t.k = ten.k) ∧ ¬(t.o = ten.o ∧ t.l = ten.l)) →
      exec (.slotctlPlace a b) s = .next { s with rot := { s.rot with changes := s.rot.changes ++ [.place ten] } }) ∧
    (u % 16 = 1 → (∀ t ∈ s.rot.tens, t.idx = ten.idx → t.k = ten.k → s.enabled t.o = false) →
      exec (.slotctlRemove a b) s = .next { s with rot := { s.rot with changes := s.rot.changes ++ [.remove ten.idx ten.k] } }) ∧
    (u % 16 = 2 → Next (exec (.slotctlSpill a b) s) (fun t => t.me = s.me ∧ t.threads = s.threads ∧
      (match (s.engineAt (v % 64) (v / 2 ^ 6 % 16)).tag with
       | some o => if o = v / 2 ^ 10 % 16 then SameBytes s t else OutsideSave s t o
       | none => SameBytes s t) ∧
      (t.engineAt (v % 64) (v / 2 ^ 6 % 16)).tag = some (v / 2 ^ 10 % 16) ∧
      ((s.engineAt (v % 64) (v / 2 ^ 6 % 16)).tag ≠ some (v / 2 ^ 10 % 16) → s.rot.spilled = [] →
        t.engineAt (v % 64) (v / 2 ^ 6 % 16) = fresh (v % 64) (v / 2 ^ 6 % 16) ∧
        (∀ k, (s.engineAt (v % 64) (v / 2 ^ 6 % 16)).tag = some k →
          t.rot.spilled = [(k, v % 64 * 16 + v / 2 ^ 6 % 16, s.engineAt (v % 64) (v / 2 ^ 6 % 16))])))) ∧
    (u % 16 = 0 → own ≠ 0 → (s.owner own).frozen = false → (s.owner own).freezing = none → Next (exec (.frzFreezeOwner a) s) (fun t =>
      Parked (s.setOwner own { s.owner own with freezing := some 0x80, causes := (s.owner own).causes ++ [0x80] }) t (.frz own))) ∧
    (u % 16 = 1 → own ≠ 0 → (s.owner own).frozen = true → (s.owner own).inScrub = false →
      exec (.frzReleaseOwner a) s = .next (s.setOwner own { s.owner own with releasing := true })) ∧
    (u % 16 = 2 → s.fnOf fn own = true → Next (exec (.frzFreezeFunction a) s) (fun t => SameBytes s t ∧ t.me = s.me ∧ (t.fn? fn).map (·.frozen) = some true)) ∧
    (u % 16 = 3 → s.fnOf fn own = true → Next (exec (.frzReleaseFunction a) s) (fun t =>
      SameBytes s t ∧ t.me = s.me ∧ t.owners = s.owners ∧ (t.fn? fn).map (·.frozen) = some false)) ∧
    (u % 16 = 4 → s.threads = [x] → x.uid ≠ 0 → s.me.uid ≠ x.uid → x.pl.o = own → x.tid.toNat = u / 2 ^ 32 → ¬(s.me.pl.o = own ∧ s.me.tid.toNat = u / 2 ^ 32) →
      s.net = [] → s.graph.streams = [] → s.graph.packets = [] → s.graph.placing = [] → s.graph.launches = [] →
      Next (exec (.frzEndTask a) s) (fun t => SameBytes s t ∧ t.me = s.me ∧ t.threads = [] ∧ ∀ k, (k, x.uid) ∉ t.mem.resv)) ∧
    (PlainTask s → s.iss.z = 4 ∨ s.iss.z = 8 →
      (decodeWord w = .error .major → Next (exec (.unassignedWord w) s) (fun t => TookFault s t 1 1 s.iss.b (s.iss.b + BitVec.ofNat 48 (s.iss.z - 4)))) ∧
      (decodeWord w = .error .function → Next (exec (.unassignedWord w) s) (fun t => TookFault s t 1 2 s.iss.b (s.iss.b + BitVec.ofNat 48 (s.iss.z - 4))))) ∧
    (PlainTask s → Next (exec (.instructionFetchFault code sub) s) (fun t => TookFault s t code sub s.iss.b s.iss.b)) ∧
    (o < 16 → s.rot.pause = none → s.host.ixHeld = [] → EvRoom s → s.pullFlying o p = true → Next (exec (.pullRefusal o p) s) (fun t =>
      (t.owner o).pullFailed = true ∧ ∃ y ∈ t.trust.events, y.ty = 0x2B ∧ y.o = o ∧ y.data = BitVec.ofNat 64 p)) ∧
    (o < 16 → s.rot.pause = none → EvRoom s → (∃ y ∈ s.trust.pulls, y.o = o ∧ y.page = p ∧ y.start + 2 ^ 24 ≤ s.q) → Next (exec (.pullTimeout o p) s) (fun t =>
      (t.owner o).pullFailed = true ∧ ∃ y ∈ t.trust.events, y.ty = 0x2B ∧ y.o = o ∧ y.data = BitVec.ofNat 64 p)) ∧
    (PlainTask s → j.toNat % 4 = 0 →
      exec (.jmp a) s = .next { s with me := { s.me with pc := j } } ∧ exec (.ret a) s = .next { s with me := { s.me with pc := j } })

/-- R344, R431 to R433, R353, R438, R309: tlbinv parks until its invalidation is done; keyld fills a key slot and zeroes its block, keyzap empties one; evpost
posts an event; scrub starts a teardown; waypart starts a change of a slice's ways. That keyld takes its whole effect at issue, and its thread is ready again at
the next boundary, is log 37 (R432 gives three steps while the thread is parked). -/
def Obligations.MonitorServices : Prop :=
  ∀ (s : State) (a b : Fin 16),
    let x := s.iss.src.s[a]
    let y := s.iss.src.s[b]
    let blk := s.platRead (y.toNat % 2 ^ 48) 64
    let o := x.toNat % 16
    let n := x.toNat % 64
    (x.toNat / 2 ^ 60 ≤ 4 → Next (exec (.tlbinv a) s) (fun t =>
      Parked s t (.tlbinv (x.toNat / 2 ^ 60) (x.toNat / 2 ^ 56 % 16) (x.toNat % 2 ^ 48 / 65536 * 65536) false 0))) ∧
    (y.toNat % 64 = 0 → s.blockedKey (x.toNat % 32) = false → s.platPoisoned (y.toNat % 2 ^ 48) = false → blk.take 32 ≠ blk.drop 32 →
      Next (exec (.keyld a b) s) (fun t => t.trust.keys = alSet (x.toNat % 32) (BitVec.ofNat 512 (leNat blk)) s.trust.keys ∧
        t.me = { s.me with park := .keyld (x.toNat % 32) (y.setWidth 48), woken := true } ∧ t.regs = s.regs ∧
        (MemOk s → s.lostKey (s.dramKey 0 (y.toNat % 2 ^ 48)) = false → t.platRead (y.toNat % 2 ^ 48) 64 = List.replicate 64 0))) ∧
    ((∀ k, k < 16 → s.enabled k = true → x.toNat % 32 ∉ s.keysNamed k) →
      exec (.keyzap a) s = .next { s with trust := { s.trust with keys := s.trust.keys.filter (fun p => p.1 != x.toNat % 32) } }) ∧
    Next (exec (.evpost a) s) (fun t => Issued s t (fun p => p.dest = none ∧ p.rel = true) (.evpost x) (.peer s.me.pl.o 0 0)) ∧
    (o ≠ 0 → (s.owner o).inScrub = false → (s.owner o).freezing = none → s.enabled o = true → s.progBusy = false → Next (exec (.scrub a) s) (fun t =>
      (t.owner o).freezing = some 0x81 ∧ t.me = { s.me with park := .scrub o, woken := false } ∧ SameBytes s t ∧ t.progBusy = true ∧ t.progOwner = o ∧
      (∃ q, t.trust.pendings = s.trust.pendings ++ [q] ∧ q.o = o ∧ q.desc = (s.owner o).desc ∧ q.final = false) ∧
      (EvRoom s → ∃ e ∈ t.trust.events, e.ty = 0x31 ∧ e.o = o))) ∧
    (y.toNat % 16 ≤ 12 → bit s.regs.slicemap.toNat n = true → (s.slice n).target = none → Next (exec (.waypart a b) s) (fun t =>
      (t.slice n).target = some ((s.slice n).ways, y.toNat % 16) ∧ (t.slice n).size = min (s.slice n).ways (y.toNat % 16) ∧
      t = { s with slices := t.slices, me := { s.me with park := .waypart n, woken := false } } ∧ SameBytes s t))

/-! ### What the device does: beats, results, requests (04, 07, 09 to 11) -/

/-- R59, R62, R215: at a beat boundary a thread whose wait is over becomes ready, TASKB counts the beat of a resident thread, and FRZC counts it where a freeze
line holds the thread's core; no other part of a thread changes.
R65, R41: a long result lands in its register, or is discarded where a later write has taken the register, and its flags are ORed; R172, R345: a fence whose
thread has no access left is over; R110: so is an exit of a thread with nothing left, which then leaves its row; a pair that holds it is first issued again,
its other half is performed, and the row is left at the second exit. Model's choices: TASKB counts at the beat boundary (log 72), a pair that holds an exit is
issued twice (log 73), and the since stamp orders the ready threads (log 74). -/
def Obligations.BeatsResultsFences : Prop :=
  (∀ (s : State), s.rot.pause = none → (∀ x ∈ s.threads, x.held = [] ∧ ∀ f, x.park ≠ .dead f) →
      let counted := fun (x : Thread) =>
        if (s.owner x.pl.o).frozen then x
        else if s.lineHolds x then { x with frzc := x.frzc + (if x.evicted.isNone then 1 else 0) }
        else if s.resident x.pl.o x.pl.l then { x with taskb := x.taskb + 1 } else x
      Next (exec .beatBoundary s) (fun t => SameBytes s t ∧ t.me = s.me ∧ t.net = s.net ∧ t.graph = s.graph ∧
        t.threads = s.threads.map (fun x => if x.park ≠ .none ∧ s.parkDone (counted x) = true
          then { counted x with park := .none, woken := false, wmark := false, readyAt := s.beat, since := 4 * s.q } else counted x))) ∧
  (∀ (s : State) (uid id : Nat) (x : Thread), s.thread? uid = some x → s.rot.pause = none →
      (∀ o d v, (∀ y ∈ s.allThreads, ∀ p ∈ y.ops, p.cap = false) → x.ops.find? (fun p => p.id == id) = some o → o.grp = 0 → o.due = none → o.rsv = false → o.res = some v → o.fault = none → x.strm = none →
        o.dest = some d →
        let y := { x with ops := x.ops.filter (fun p => p.id != id), fcsr := x.fcsr ||| o.flags.setWidth 64, woken := x.woken || x.park == Park.limit }
        let kept := match x.region with
          | some r => if r.discs.contains id then { y with region := some { r with late := r.late ++ [o] } } else y
          | none => y
        Next (exec (.longResultLand uid id) s) (fun t => OnThread s t uid
          (if o.disc then kept else match d with | .s k => { y with s := x.s.set k (v.setWidth 64) } | .v k => { y with v := x.v.set k v }))) ∧
      (∀ k, x.park = .fence k → (∀ o ∈ x.ops, o.acc = false) → (∀ i ∈ x.saw, ∀ r ∈ s.net, r.id ≠ i.1) → x.held = [] →
        Next (exec (.fenceComplete uid) s) (fun t =>
          OnThread { s with host := { s.host with outer := t.host.outer } } t uid { x with woken := true, pass := if x.pass = 1 then 2 else 0 } ∧
          (k ≠ 3 → t.host = s.host))) ∧
      (x.park = .exit → x.ops = [] → x.saw = [] → x.held = [] → x.woken = false → (s.owner x.pl.o).frozen = false → x.evicted = none → x.pass = 1 →
        (∀ y ∈ s.threads, ∀ f, y.park ≠ .dead f) → Next (exec (.exitComplete uid) s) (fun t => OnThread s t uid { x with woken := true, pass := 2 })) ∧
      (x.park = .exit → x.ops = [] → x.saw = [] → x.held = [] → x.woken = false → (s.owner x.pl.o).frozen = false → x.evicted = none → x.pass ≠ 1 →
        s.graph.packets = [] → s.graph.placing = [] → s.graph.streams = [] → (∀ l ∈ s.graph.launches, l.id ≠ x.task.launch) → (∀ p ∈ s.mem.resv, p.2 ≠ uid) →
        Next (exec (.exitComplete uid) s) (fun t => SameBytes s t ∧ (∀ y ∈ t.threads, y.uid ≠ uid) ∧
          t.graph.inboxes = s.graph.inboxes.filter (fun b => !(b.o == x.pl.o && b.tid == x.tid)))))

/-- R142, R144, R145: in the cycle of its layer a core offers its stream's request, or else its oldest, which frees an entry for the threads that wait for one (R143), and the pipeline returns its four lanes four beats later,
as one write with their flags. -/
def Obligations.SpecialFunctionService : Prop :=
  ∀ (s : State) (o l c id : Nat) (r : SfuReq),
    (s.sfu.find? (fun x => x.pl = ⟨o, l, c⟩ && x.land.isNone && decide (x.beat < s.beat)) = some r → (∀ x ∈ s.sfu, x.strm = false) → c / 16 = s.q % 8 →
      Next (exec (.sfuAccept o l c) s) (fun t => SameBytes s t ∧ t = { s with sfu := t.sfu, owners := t.owners, threads := t.threads } ∧
        t.sfu = s.sfu.map (fun x => if x.id = r.id then { x with land := some (s.beat + 4) } else x) ∧
        (∀ k, t.owner k = { s.owner k with meter := (t.owner k).meter }) ∧
        t.threads = s.threads.map (fun x => if x.pl = ⟨o, l, c⟩ ∧ x.park = .sfu then { x with woken := true } else x))) ∧
    (∀ x y b k, s.sfu.find? (fun x => x.id == id) = some r → r.strm = false → r.land = some b → b ≤ s.beat → s.thread? r.uid = some x → x.strm = none →
      x.ops = [y] → y.id = id → y.dest = some (.v k) → y.disc = false → y.rsv = false →
      Next (exec (.sfuResultLand id) s) (fun t => SameBytes s t ∧ t.sfu = s.sfu.filter (fun z => z.id != id) ∧
        ∃ z v, t.thread? r.uid = some z ∧ z = { x with ops := [], v := x.v.set k v, fcsr := z.fcsr, woken := x.woken || x.park == Park.limit } ∧
          (∀ j, j < 4 → lane 32 v j = (sfuLane r.f (lane 32 r.arg j)).1 % 2 ^ 32) ∧
          ∀ n, n < 5 → (z.fcsr.getLsbD n = true ↔ (x.fcsr.getLsbD n = true ∨ ∃ j, j < 4 ∧ (sfuLane r.f (lane 32 r.arg j)).2.getLsbD n = true))))

/-- R159, R164, R260: a load is performed where its bytes lie and answers them, lowest first; a store is performed at its home; an evpost reaches the arbiter
(R353), or waits at its source while the arbiter holds one of it back (R356). Nothing else of memory changes. -/
def Obligations.LoadsAndStoresPerformed : Prop :=
  ∀ (s : State) (id : Nat) (r : Req), Arriving s id r →
    let key := s.locKey r.loc
    (∀ n f, r.kind = .load n f none → (∃ p off, r.loc = .scr p off ∧ s.chanAt p off n = none) ∨ (∃ k off, r.loc = .slice k off) → s.mem.poisoned key = false →
      Next (exec (.remoteLoadServe id) s) (fun t => Answered s t r (loadVal f (s.mem.read key n)) ∧ SameBytes s t)) ∧
    (∀ n f o p k, r.kind = .load n f none → r.loc = .dram o p k → s.inOwnL1 r.pl (key / 128) = false → s.poisonedKey key = false →
      Next (exec (.remoteLoadServe id) s) (fun t => Answered s t r (loadVal f (s.mem.read key n)) ∧ SameBytes s t)) ∧
    (∀ n f, r.kind = .load n f none → ((∃ p off, r.loc = .scr p off ∧ s.chanAt p off n = none) ∨ (∃ k off, r.loc = .slice k off)) ∧ s.mem.poisoned key = true ∨
        (∃ o p k, r.loc = .dram o p k) ∧ s.inOwnL1 r.pl (key / 128) = false ∧ s.poisonedKey key = true →
      Next (exec (.remoteLoadServe id) s) (fun t => t.net = s.net.filter (fun x => x.id != id) ∧ SameBytes s t ∧ ∀ x, s.thread? r.uid = some x →
        ∃ y, t.thread? r.uid = some y ∧ y.s = x.s ∧ y.v = x.v ∧ ∀ o ∈ x.ops, o.id = r.id → o.dest ≠ none →
          ∃ g : FaultRec, g.code = 9 ∧ g.sub = 0 ∧ g.fpc = r.fpc ∧ g.faddr = r.ea ∧ { o with res := some 0, flags := 0, fault := some g } ∈ y.ops)) ∧
    (∀ bs, r.kind = .store bs → MemOk s → s.lostKey key = false → (∀ p off, r.loc = .scr p off → s.chanAt p off bs.length = none) → (∀ o k ia, r.loc ≠ .peer o k ia) →
      Next (exec (.storePerform id) s) (fun t => Answered s t r 0 ∧ Stored s t key bs)) ∧
    (∀ d, r.kind = .evpost d → s.evpostHeld r = true → exec (.storePerform id) s = .next s) ∧
    (∀ d, r.kind = .evpost d → s.evpostHeld r = false → Next (exec (.storePerform id) s) (fun t => Answered s t r 0 ∧ SameBytes s t ∧
      t.trust.events = s.trust.events ++ [{ ty := 0x40, o := r.pl.o, data := d, src := 2 ^ 32 + r.uid, q := s.q }]))

/-- R179 to R185: a request at its sync word is performed when its condition holds: F, the word and the reservation change as its form says; otherwise it joins
the waiters of its bank group, and is not accepted while neither its list nor the overflow table has an entry free; an lrw takes an entry in any case.
R186, R187: an atomic reads, computes and writes its 4 or 8 bytes as one, and answers the old value; a reduction answers nothing and lowers REDPEND. -/
def Obligations.SyncWordsAndAtomicsPerformed : Prop :=
  (∀ (s : State) (id : Nat) (r : Req) (o p : Nat), Arriving s id r → r.loc = .dram o p .sync → r.arrived = none → (∀ x ∈ s.net, x.arrived = none) →
      s.poisonedKey (s.dramKey o p) = false → MemOk s →
      let key := s.dramKey o p
      let word : VWord := BitVec.ofNat 128 (leNat (s.mem.read key 8))
      let resv := fun (t : State) => t.mem.resv
      (r.kind = .ldfe → s.mem.f key = true → Next (exec (.syncOpArrive id) s) (fun t => Answered s t r word ∧ SameBytes s t ∧
        t.mem.fbit = setDel s.mem.fbit (key / 8) ∧ resv t = resv s)) ∧
      (r.kind = .ldff → s.mem.f key = true → Next (exec (.syncOpArrive id) s) (fun t => Answered s t r word ∧ t.mem = s.mem)) ∧
      (∀ x, (r.kind = .stfe x ∧ s.mem.f key = false) ∨ r.kind = .stf x → Next (exec (.syncOpArrive id) s) (fun t => Answered s t r 0 ∧
        Stored s t key (leBytes 8 x.toNat) ∧ t.mem.fbit = setIns s.mem.fbit (key / 8) ∧ resv t = resv s)) ∧
      (r.kind = .feClr → Next (exec (.syncOpArrive id) s) (fun t => Answered s t r 0 ∧ SameBytes s t ∧ t.mem.fbit = setDel s.mem.fbit (key / 8))) ∧
      (r.kind = .lrw → (∀ x ∈ s.mem.resv, x.1 ≠ key) → s.entryFree r = true → Next (exec (.syncOpArrive id) s) (fun t => Answered s t r word ∧ SameBytes s t ∧
        t.mem.fbit = s.mem.fbit ∧ resv t = resv s ++ [(key, r.uid)])) ∧
      (∀ x, r.kind = .scq x → Next (exec (.syncOpArrive id) s) (fun t => Answered s t r 0 ∧ Stored s t key (leBytes 8 x.toNat) ∧ t.mem.fbit = s.mem.fbit ∧
        resv t = (resv s).filter (fun y => y.1 != key || y.2 != r.uid))) ∧
      (r.kind = .rsvRel → Next (exec (.syncOpArrive id) s) (fun t => Answered s t r 0 ∧ SameBytes s t ∧ resv t = (resv s).filter (fun y => y.1 != key || y.2 != r.uid))) ∧
      (((r.kind = .ldfe ∨ r.kind = .ldff) ∧ s.mem.f key = false) ∨ (∃ x, r.kind = .stfe x ∧ s.mem.f key = true) ∨ (r.kind = .lrw ∧ ∃ x ∈ s.mem.resv, x.1 = key) →
        (s.entryFree r = true → Next (exec (.syncOpArrive id) s) (fun t => Awaits s t r)) ∧ (s.entryFree r = false → exec (.syncOpArrive id) s = .next s)) ∧
      (r.kind = .lrw → s.entryFree r = false → exec (.syncOpArrive id) s = .next s)) ∧
  (∀ (s : State) (id n : Nat) (r : Req) (x e : Word) (b : BitVec 32), Arriving s id r → MemOk s → (n = 4 ∨ n = 8) → (∀ o k ia, r.loc ≠ .peer o k ia) →
      (∀ p off, r.loc = .scr p off → s.chanAt p off n = none) → s.poisonedKey (s.locKey r.loc) = false →
      s.lostKey (s.locKey r.loc) = false →
      let key := s.locKey r.loc
      let w := 8 * n
      let old := leNat (s.mem.read key n)
      let v := x.toNat % 2 ^ w
      let so := laneInt w old
      let sv := laneInt w v
      let lower := fun (y : Thread) => { y with redpend := y.redpend - 1 }
      (∀ p ∈ ([(.add, (old + v) % 2 ^ w), (.min, if so < sv then old else v), (.max, if so < sv then v else old), (.minn, min old v), (.maxn, max old v),
          (.and, old &&& v), (.or, old ||| v), (.xor, old ^^^ v), (.swap, v), (.cas, if old = e.toNat % 2 ^ w then v else old)] : List (AmoOp × Nat)),
        r.kind = .amo p.1 n x e → Next (exec (.amoPerform id) s) (fun t => Stored s t key (leBytes n p.2) ∧
          Answered s t r (if p.1 = .minn ∨ p.1 = .maxn then BitVec.ofNat 128 old else (BitVec.ofInt 64 so).setWidth 128))) ∧
      (∀ p ∈ ([(.add, (old + v) % 2 ^ w), (.min, if so < sv then old else v), (.max, if so < sv then v else old), (.and, old &&& v), (.or, old ||| v),
          (.xor, old ^^^ v)] : List (RedOp × Nat)),
        r.kind = .red p.1 n x → Next (exec (.reductionPerform id) s) (fun t => Stored s t key (leBytes n p.2) ∧ AnsweredAs lower s t r 0)) ∧
      (r.kind = .redF b → n = 4 → Next (exec (.reductionPerform id) s) (fun t => Stored s t key (leBytes 4 (fAdd .f32 0 old b.toNat).1) ∧ AnsweredAs lower s t r 0)))

/-- R188: the stores of an atomic region are performed in program order at the region's home, and its one load answers what it finds there. -/
def Obligations.RegionsPerformed : Prop :=
  ∀ (s : State) (id o p : Nat) (k : Kind) (r : Req) (ws : List RWord), Arriving s id r → r.kind = .region ws → r.loc = .dram o p k →
    s.poisonedKey (s.locKey r.loc) = false → s.lostKey (s.locKey r.loc) = false →
    let base := s.locKey r.loc / 128 * 128
    Next (exec (.atomicRegionPerform id) s) (fun t => t.net = s.net.filter (fun x => x.id != r.id) ∧
      t.mem.cells = (ws.foldl (fun m w => match w.store with | some bs => m.write (base + w.ea.toNat % 128) bs | none => m) s.mem).cells ∧
      ∀ w d k x o, ws = [w] → w.store = none → w.load = some (d, k) → s.thread? r.uid = some x → x.ops = [o] → o.id = k → o.dest = some d → r.id ≠ k →
        ∃ y, t.thread? r.uid = some y ∧
          y.ops = [{ o with res := some (loadVal w.fmt (s.mem.read (base + w.ea.toNat % 128) w.n)), flags := 0, fault := none }])

/-- R191: bar.init sets N and A; an arrival that does not fill a generation raises A, the one that fills it sets A to 0, steps G and releases every waiter; a
wait ends at once when N = 0 or the generation recorded by the thread has passed, and otherwise waits.
R193: a push joins the tail of its queue when an entry is free and no earlier push is held, and wakes one parked thread; otherwise it is held, or not
accepted while no entry of the waiter list or the overflow table is free (R181); R296: a message joins the inbox of its task, or answers its waiting mrecv; an
mrecv takes the oldest message. The entry of the owner's area that a message takes is log 100, and that what a reader finds there is free bytes is log 46. -/
def Obligations.BarriersPushesMessagesArrive : Prop :=
  (∀ (s : State) (id k n : Nat) (r : Req) (p : Place) (x : Thread), Arriving s id r → r.loc = .scr p 0 → r.arrived = none → s.thread? r.uid = some x →
      let b := ((s.core p).bars.find? (fun c => c.k == k)).getD { k := k }
      let now := fun (t : State) => ((t.core p).bars.find? (fun c => c.k == k)).getD { k := k }
      let marked := fun (y : Thread) => { y with barRec := some ((p.l * 128 + p.c) * 128 + k, b.g) }
      (r.kind = .barInit k n → Next (exec (.barrierOpArrive id) s) (fun t => Answered s t r 0 ∧ now t = { b with n := n, a := 0 } ∧ SameBytes s t)) ∧
      (r.kind = .barArrive k → b.n ≠ 0 → b.a + 1 ≠ b.n → Next (exec (.barrierOpArrive id) s) (fun t => AnsweredAs marked s t r 0 ∧
        now t = { b with a := b.a + 1 } ∧ SameBytes s t)) ∧
      (r.kind = .barArrive k → b.n = 0 → Next (exec (.barrierOpArrive id) s) (fun t => AnsweredAs marked s t r 0 ∧ t.cores = s.cores ∧ SameBytes s t)) ∧
      (r.kind = .barArrive k ∨ r.kind = .barSync k → b.n ≠ 0 → b.a + 1 = b.n → Next (exec (.barrierOpArrive id) s) (fun t =>
        now t = { b with a := 0, g := (b.g + 1) % 65536 } ∧ SameBytes s t ∧ (∀ y ∈ t.net, y.id ≠ r.id) ∧
        ∀ y ∈ t.net, ¬(y.arrived.isSome ∧ y.loc = .scr p 0 ∧ y.kind.bar? = some k))) ∧
      (r.kind = .barWait k → (b.n = 0 ∨ ∃ g, x.barRec = some ((p.l * 128 + p.c) * 128 + k, g) ∧ g ≠ b.g) →
        Next (exec (.barrierOpArrive id) s) (fun t => Answered s t r 0 ∧ t.cores = s.cores ∧ SameBytes s t)) ∧
      (r.kind = .barWait k → b.n ≠ 0 → (∀ g, x.barRec = some ((p.l * 128 + p.c) * 128 + k, g) → g = b.g) →
        Next (exec (.barrierOpArrive id) s) (fun t => Awaits s t r)) ∧
      (r.kind = .barSync k → b.n ≠ 0 → b.a + 1 ≠ b.n → Next (exec (.barrierOpArrive id) s) (fun t => now t = { b with a := b.a + 1 } ∧ SameBytes s t ∧
        t.net = s.net.map (fun y => if y.id = r.id then { y with arrived := some s.clk.id } else y) ∧ t.thread? r.uid = some (marked x)))) ∧
  (∀ (s : State) (id q : Nat) (r : Req) (p : Place) (v : VWord) (tid : BitVec 32) (lch : Nat) (b : Inbox), Arriving s id r → r.arrived = none →
      let es := alGet [] q (s.core p).queues
      (r.kind = .push q v → r.loc = .scr p 0 → es.length < 16 → s.heldPush p q = none → (∀ x ∈ s.allThreads, ∀ n, x.park ≠ .queue q n) →
        Next (exec (.queuePushArrive id) s) (fun t => Answered s t r 0 ∧ alGet [] q (t.core p).queues = es ++ [v] ∧ SameBytes s t)) ∧
      (∀ x n, r.kind = .push q v → r.loc = .scr p 0 → es.length < 16 → s.heldPush p q = none → s.me.uid = 0 → s.threads = [x] → x.park = .queue q n → x.pl = p →
        x.woken = false → x.uid ≠ 0 → Next (exec (.queuePushArrive id) s) (fun t => alGet [] q (t.core p).queues = es ++ [v] ∧ t.threads.map (·.woken) = [true])) ∧
      (r.kind = .push q v → r.loc = .scr p 0 → 16 ≤ es.length →
        (s.entryFree r = true → Next (exec (.queuePushArrive id) s) (fun t => Awaits s t r)) ∧ (s.entryFree r = false → exec (.queuePushArrive id) s = .next s)) ∧
      (s.graph.inboxes.find? (fun y => y.o == r.pl.o && y.tid == tid) = some b →
        (r.kind = .msg 0 tid v lch → (∀ x ∈ s.net, x.arrived = none) → b.msgs.length < 32 → Next (exec (.messageArrive id) s) (fun t =>
          Answered s t r 0 ∧ (MemOk s → ∀ a, (∀ i, i < 16 → a ≠ s.dramKey 0 (s.inboxAt b + i)) → t.mem.getB a = s.mem.getB a) ∧ t.graph.launches = s.graph.launches ∧
          t.graph.inboxes = s.graph.inboxes.map (fun y => if y.o == r.pl.o && y.tid == tid then { y with msgs := y.msgs ++ [v], count := y.count + 1 } else y))) ∧
        (∀ w ws, r.kind = .mrecv tid → b.msgs = w :: ws → Next (exec (.messageArrive id) s) (fun t => Answered s t r w ∧ SameBytes s t ∧
          t.graph.inboxes = s.graph.inboxes.map (fun y => if y.o == r.pl.o && y.tid == tid then { y with msgs := ws } else y))) ∧
        (r.kind = .mrecv tid → b.msgs = [] → Next (exec (.messageArrive id) s) (fun t => Awaits s t r))))

/-- R341 to R343: a walk that ends fills the TLBs of its slot and of the cores that wait, and wakes their threads, one whose owner's generation has moved starts again; R344: an invalidation raises
the generations of the owners that it covers, removes their entries, and wakes its thread once the accesses from before have drained. Which TLBs a walk fills, the
second-level TLB of its slot and those of the cores whose threads wait, is the model's choice (log 78): R343 says only that it fills the TLBs. -/
def Obligations.WalksAndInvalidations : Prop :=
  ∀ (s : State) (wid uid : Nat) (w : Walk) (e : Tlb) (x : Thread) (kind own page stamp : Nat), s.rot.pause = none →
    (s.walks = [w] → w.id = wid →
      (w.gen ≠ (s.owner w.o).gen → Next (exec (.tlbWalkEnd wid) s) (fun t => t = { s with walks := [{ w with gen := (s.owner w.o).gen }] })) ∧
      (w.gen = (s.owner w.o).gen → s.walk w.o w.l w.va = .ok e → Next (exec (.tlbWalkEnd wid) s) (fun t =>
        (∃ u, Settles s u ∧ t = { u with walks := [], threads := t.threads }) ∧ SameBytes s t ∧ { e with c := none } ∈ t.tlb ∧
        (∀ y ∈ s.threads, ∀ a b, y.park = .walk wid a b → { e with c := some y.pl.c } ∈ t.tlb) ∧
        t.threads = s.threads.map (fun y => match y.park with | .walk k _ _ => if k = wid then { y with woken := true } else y | _ => y)))) ∧
    (s.thread? uid = some x → x.park = .tlbinv kind own page false 0 → x.woken = false → x.saw = [] → (∀ o ∈ x.ops, o.acc = false) → own < 16 →
      Next (exec (.tlbinvAck uid) s) (fun t => SameBytes s t ∧ t.thread? uid = some { x with park := .tlbinv kind own page true s.clk.id, invs := if kind = 0 then s.removed own page else [] } ∧
        (∀ o, o < 16 → (t.owner o).gen = (s.owner o).gen + (if kind = 4 ∨ o = own then 1 else 0)) ∧
        (3 ≤ kind → (t.owner own).s1act = (s.owner own).s1rt ∧ (t.owner own).s2act = (s.owner own).s2rt) ∧
        (kind < 3 → (t.owner own).s1act = (s.owner own).s1act ∧ (t.owner own).s2act = (s.owner own).s2act) ∧
        t.tlb = s.tlb.filter (fun y => !((kind == 4 || y.o == own) && (kind != 0 || State.tlbNames y page))))) ∧
    (s.thread? uid = some x → x.park = .tlbinv kind own page true stamp → x.woken = false → s.walks = [] → (∀ y ∈ s.allThreads, y.region = none ∧ ∀ o ∈ y.ops, o.acc = false) →
      (∀ c ∈ s.cores, ∀ m ∈ c.mbox, m.wq = []) →
      Next (exec (.tlbinvAck uid) s) (fun t => OnThread { s with host := { s.host with outer := t.host.outer } } t uid { x with woken := true }))

/-- R200 to R202: a migrating thread whose accesses are done and which has no fault to take leaves its row as a packet with the registers that travel; an
arriving packet takes a free row of its core (which one, log 92), whether or not its owner is resident, as a ready thread from the next boundary on; R408: a step departs into its owner's stepped packets. Model's
choices: what a stepped packet leaves in the save area (log 16), and the since stamp of the thread that arrives (log 74). -/
def Obligations.MigrationAndArrival : Prop :=
  ∀ (s : State) (uid pid n : Nat) (x : Thread) (dst : Place) (k : Packet), s.rot.pause = none →
    let out := fun (y : Thread) (d : Place) => y.pl = d ∧ y.task = x.task ∧ y.pc = x.pc ∧ y.pw = x.pw ∧ y.tid = x.tid ∧ y.fcsr = x.fcsr ∧ y.trapb = x.trapb ∧
      y.taskb = x.taskb ∧ y.frzc = x.frzc ∧ y.step = x.step ∧ y.qpos = x.qpos ∧ y.thresh = x.thresh ∧ y.resv = x.resv ∧ y.barRec = x.barRec ∧
      (∀ i : Fin 16, y.s[i] = if i.val < 8 then x.s[i] else 0) ∧ (∀ i : Fin 16, y.v[i] = if i.val < 2 then x.v[i] else 0)
    let idle := s.thread? uid = some x ∧ x.ops = [] ∧ x.saw = [] ∧ x.held = [] ∧ x.woken = false ∧ x.evicted = none ∧ (s.owner x.pl.o).frozen = false ∧
      s.graph.packets = [] ∧ s.graph.placing = [] ∧ s.graph.streams = []
    (idle → x.park = .migrate dst → Next (exec (.migrationDepart uid) s) (fun t => SameBytes s t ∧ (∀ y ∈ t.threads, y.uid ≠ uid) ∧
      ∃ y, t.graph.packets = [y] ∧ y.stage = .flight ∧ out y.t dst)) ∧
    (idle → x.park = .step → x.pass ≠ 1 → bit (s.owner x.pl.o).stepcfg.toNat 63 = true → Next (exec (.migrationDepart uid) s) (fun t => OutsideSave s t x.pl.o ∧
      (∀ y ∈ t.threads, y.uid ≠ uid) ∧ (t.owner x.pl.o).stepped = true ∧ ∃ y, t.graph.packets = [y] ∧ y.stage = .stepped ∧ out y.t x.pl)) ∧
    (s.graph.packets = [k] → k.id = pid → k.stage = .flight → (∀ y ∈ s.net, y.cap = false) → (∀ y ∈ s.cores, ∀ m ∈ y.mbox, ∀ w ∈ m.wq, w.cap = false) → s.freeRow k.t.pl = some n →
      Next (exec (.packetArrive pid) s) (fun t => SameBytes s t ∧ t.graph.packets = [] ∧ 
        t.threads = s.threads ++ [{ k.t with row := n, slot := none, evicted := none, met := [], turns := 0, readyAt := s.q / 8 + 1, since := 4 * ((s.q / 8 + 1) * 8) + 1, lastB := s.q }])) ∧
    (s.thread? uid = some x → s.me.uid ≠ uid → x.evicted = some n → (∀ y ∈ s.threads, y.evicted ≠ none → y = x) → x ∈ s.threads → x.uid = uid →
      s.resident x.pl.o x.pl.l = true → ∀ m, s.freeRow x.pl = some m → Next (exec (.rowRestore uid) s) (fun t => SameBytes s t ∧ ∃ y,
        t.thread? uid = some y ∧ y.row = m ∧ y.evicted = none ∧ y.slot = (if s.strmStarted x then some 0 else none) ∧ y.lastB = x.lastB ∧ y.s = x.s ∧ y.v = x.v ∧ y.pc = x.pc ∧ y.ops = x.ops))

/-- R206 to R216: a stream starts once every core of its reach holds its row and slot 0 is free there; a stream beat that begins steps the beat, and injects the
next bundle at the origin; a core's turn performs the bundle that the beat gives it, with its neighbours' links read (R208, R209); the stream ends once its
cores have exited, its timed results have landed and its stores are performed. -/
def Obligations.StreamsAdvance : Prop :=
  ∀ (s : State) (sid : Nat) (st : Stream), s.graph.streams = [st] → st.id = sid → s.q % 8 = 0 → s.resident st.o st.l = true → s.rot.pause = none →
    s.trust.tripped = false →
    (st.placed = true → st.started = false → st.fail = none →
      (∀ p ∈ State.reach st, (∃ x ∈ s.threads, x.strm = some sid ∧ x.pl = p ∧ x.evicted = none ∧ x.readyAt ≤ s.beat) ∧ ∀ x ∈ s.threads, x.pl = p → x.strm = none → x.slot ≠ some 0) →
      Next (exec (.streamStart sid) s) (fun t => SameBytes s t ∧ t.graph.streams = [{ st with started := true, fpc := st.proto.pc }] ∧
        t.threads = s.threads.map (fun x => if x.strm = some sid then { x with slot := some 0 } else x))) ∧
    (st.started = true → st.fail = none → st.closed = true → st.inj = [] → (∀ x ∈ s.threads, x.ops = [] ∧ x.evicted = none ∧ x.readyAt ≤ s.beat ∧ x.owed = false ∧ s.coreDown x.pl = false) → s.cmds = [] →
      (∀ c ∈ s.cores, ∀ m ∈ c.mbox, m.mb ≠ 4) →
      Next (exec (.streamBeatBegin sid) s) (fun t => SameBytes s t ∧
        t.graph.streams = [{ st with beat := match st.beat with | some b => some (b + 1) | none => some 0, began := s.beat, frozen := false }] ∧
        t.threads = s.threads.map (fun x => if x.strm = some sid then { x with linksPrev := x.links } else x))) ∧
    (∀ x : Bundle, st.started = true → st.fail = none → st.closed = false → st.inj = [] → (∀ y ∈ s.threads, y.ops = [] ∧ y.evicted = none ∧ y.readyAt ≤ s.beat ∧ y.owed = false ∧ s.coreDown y.pl = false) →
      s.cmds = [] → (∀ c ∈ s.cores, ∀ m ∈ c.mbox, m.mb ≠ 4) → s.fetchBundle (State.origin st) st.fpc = .ok x →
      (∀ i, State.control { b := x.b, w := x.ws } = some i → instrAccess i = none ∧ i ≠ .send ∧ (∀ o, i ≠ .br o) ∧ ∀ d o, i ≠ .sloop d o) →
      Next (exec (.streamBeatBegin sid) s) (fun t => SameBytes s t ∧
        t.graph.streams = [{ st with beat := match st.beat with | some b => some (b + 1) | none => some 0, began := s.beat, frozen := false,
                                     inj := [{ b := st.fpc, w := x.ws, flt := none }] }] ∧
        t.threads = s.threads.map (fun y => if y.strm = some sid then { y with linksPrev := y.links } else y))) ∧
    (∀ x : SBundle, s.clk.ctl = .issue → s.me.strm = some sid → State.bundleAt st s.me.pl.c (st.beat.getD 0) = some x → x.flt = none → firstWord wordSub 0 x.w = none →
      let s0 : State := { s with clk := { s.clk with ctl := .pick } }
      let s1 := (s0.latch x.b (4 * x.w.length) (s0.linked st s0.me)).setPc (x.b + BitVec.ofNat 48 (4 * x.w.length))
      s1.formFault x.b (decoded x.w) = none → step s = State.turnDone s.me.pl 0 true (s1.performBundle (decoded x.w))) ∧
    (st.started = true → st.fail = none →
      (∃ x ∈ s.threads, x.strm = some sid ∧ ∃ o ∈ x.ops, o.due = (match st.beat with | some b => some (b + 1) | none => some 0) ∧ o.res = none) →
      Next (exec (.streamBeatBegin sid) s) (fun t => t = { s with graph := { s.graph with streams := [{ st with frozen := true }] } })) ∧
    (st.started = true → st.fail = none → (∀ p ∈ State.reach st, p.c ∈ st.exited) → (∀ x ∈ s.threads, x.strm = some sid → x.ops = [] ∧ x.owed = false) → s.net = [] →
      s.graph.placing = [] → s.graph.packets = [] → s.graph.launches = [] →
      Next (exec (.streamEnd sid) s) (fun t => SameBytes s t ∧ t.graph.streams = [] ∧ ∀ x ∈ t.threads, x.strm ≠ some sid))

/-! ### What the device does: engines, copy units, launches (12, 13, 15 to 17) -/

/-- R220, R226 to R232, R242, R225: a command's part queues at its engine where a capability-table entry accepts it, and a free engine takes the owner's tag; mclr
clears the tiles that it names, and an mma whose rows are all there adds their products into its tile and computes for K cycles; when every part is done the status lands in s[d] with its flags and its fault. -/
def Obligations.EnginesPerform : Prop :=
  ∀ (s : State) (cid i j : Nat) (c : Cmd) (p : Part) (x : Thread), s.cmds = [c] → c.id = cid → c.parts = [p] → p.i = i → p.j = j → s.rot.pause = none →
    s.thread? c.uid = some x → c.strm = none → s.trust.tripped = false →
    let e := s.engineOf c i j
    let parts := fun (t : State) (y : Part) => t.cmds = [{ c with parts := [y] }]
    let accepted := ∃ a ∈ s.caps, a.o = c.pl.o ∧ a.l = State.engSlot c j ∧ a.x = State.engX c i ∧ capMatches a.val c.cap = true
    (p.arrived = none → p.done = false → (∀ o ∈ x.ops, o.acc = false ∧ (o.id < cid → o.acq = false)) → x.saw = [] →
      (accepted → e.tag = none ∨ e.tag = some c.pl.o → Next (exec (.engineCommandArrive cid i j) s) (fun t => SameBytes s t ∧
        parts t { p with arrived := some s.clk.id, cap := false } ∧ t.engineOf c i j = { e with tag := some c.pl.o })) ∧
      (accepted → p.foreign = false → (∃ o, e.tag = some o ∧ o ≠ c.pl.o) → Next (exec (.engineCommandArrive cid i j) s) (fun t => SameBytes s t ∧
        parts t { p with arrived := some s.clk.id, foreign := true, cap := false } ∧ t.engineOf c i j = e ∧
        (EvRoom s → ∃ v ∈ t.trust.events, v.ty = 0x05 ∧ v.o = c.pl.o))) ∧
      (¬accepted → Next (exec (.engineCommandArrive cid i j) s) (fun t => SameBytes s t ∧ t.engines = s.engines ∧
        parts t { p with arrived := some s.clk.id, cap := false, started := true, done := true, code := 0x0A, sub := 0, faddr := BitVec.ofNat 48 c.desc.toNat, info := 0 }))) ∧
    (p.arrived.isSome = true → p.done = false → p.started = false → p.foreign = false → c.startAt = none → s.resident c.pl.o (State.engSlot c j) = true →
      (e.tag = none ∨ e.tag = some c.pl.o) →
      (c.form = 1 → Next (exec (.engineCommandStart cid i j) s) (fun t => SameBytes s t ∧ parts t { p with started := true, done := true, left := 0, info := 0 } ∧
        t.engineOf c i j = { e with a0 := if bit (qd c.q 0) 32 then { anchor := laneInt 11 (bits (qd c.q 0) 10 0) } else e.a0,
                                    a1 := if bit (qd c.q 0) 33 then { anchor := laneInt 11 (bits (qd c.q 0) 26 16) } else e.a1 })) ∧
      (2 ≤ c.form → c.form ≤ 5 → 1 ≤ bits (qd c.q 5) 15 0 → State.partAbsent (s.fetchPart c p) p = none → State.partFails (s.fetchPart c p) p = [] →
        let a1 := bit (qd c.q 5) 16
        let old := if a1 then e.a1 else e.a0
        Next (exec (.engineCommandStart cid i j) s) (fun t => SameBytes s t ∧ ∃ new,
          t.engineOf c i j = (if a1 then { e with a1 := new } else { e with a0 := new }) ∧ new = State.accumulate (s.fetchPart c p) p old ∧
          new.anchor = old.anchor ∧ new.count = old.count + bits (qd c.q 5) 15 0 ∧ (old.range = true → new.range = true) ∧ (old.inexact = true → new.inexact = true) ∧
          t.cmds = [{ s.fetchPart c p with parts := [{ p with started := true, done := false, left := bits (qd c.q 5) 15 0, info := State.tileInfo new }] }]))) ∧
    (∀ o d, p.done = true → c.wq = [] → c.pushed = none → (s.owner c.pl.o).frozen = false → c.form ≠ 6 → c.form ≠ 7 → c.form ≠ 9 → x.ops = [o] → o.id = cid → o.dest = some (.s d) →
      o.disc = false → o.rsv = false → x.strm = none →
      (p.code = 0 → Next (exec (.engineCommandComplete cid) s) (fun t => SameBytes s t ∧ t.cmds = [] ∧ 
        t.thread? c.uid = some { x with ops := [], s := x.s.set d (BitVec.ofNat 64 p.info), fcsr := x.fcsr ||| (if c.form = 8 then 0 else (BitVec.ofNat 5 p.info).setWidth 64), woken := x.woken || x.park == Park.limit })) ∧
      (p.code ≠ 0 → c.form ≠ 8 → Next (exec (.engineCommandComplete cid) s) (fun t => SameBytes s t ∧ t.cmds = [] ∧
        ∃ y, t.thread? c.uid = some y ∧ y.s[d] = BitVec.ofNat 64 (p.sub * 2 ^ 24 + p.code * 2 ^ 16 + p.info) ∧
          y.held = x.held ++ [{ op := cid, code := p.code, sub := p.sub, fpc := c.fpc, faddr := p.faddr }]))) ∧
    (∀ o, p.done = true → p.code = 0 → c.form = 9 → x.ops = [o] → o.id = cid → o.dest = none → o.counts = false →
      Next (exec (.mfenceComplete c.uid) s) (fun t => SameBytes s t ∧ t.cmds = [] ∧ t.thread? c.uid = some { x with ops := [] }))

/-- R245, R248, R250, R251: a command begins when its turn comes and every earlier access of its thread is performed; a turn of the copy unit reads units of 16 bytes
and sends each to be written; a command completes once its writes are performed: its status word is stored and its mailbox is empty. -/
def Obligations.CopyUnitsMove : Prop :=
  ∀ (s : State) (o l c : Nat) (m : Copy) (src dst off : Nat) (bs : List Byte),
    let p : Place := ⟨o, l, c⟩
    (s.core p).mbox = [m] → s.resident o l = true → s.rot.pause = none → s.trust.tripped = false →
    (m.begun = false → (∀ x, s.thread? m.uid = some x → x.saw = [] ∧ ∀ y ∈ x.ops, y.acc = false ∧ y.acq = false) → (∀ r ∈ s.net, r.uid = m.uid → m.id ≤ r.id) →
      (m.kind ≠ 3 → m.kind ≠ 4 → Next (exec (.copyCommandBegin o l c) s) (fun t => SameBytes s t ∧ (t.core p).mbox = [{ m with begun := true }])) ∧
      (m.kind = 3 ∨ m.kind = 4 → s.region p (BitVec.ofNat 48 (qd m.q 4)) = .scr p off →
        let n := bits (qd m.q 2) 39 24
        (∀ i, i < n → s.mem.poisoned (scrKey p off + 4 * i) = false) →
        Next (exec (.copyCommandBegin o l c) s) (fun t => SameBytes s t ∧
          (t.core p).mbox = [{ m with begun := true, idx := (List.range n).map (fun i => leNat (s.mem.read (scrKey p off + 4 * i) 4)) }]))) ∧
    (m.begun = true → m.finished = false → m.mb < 4 → m.kind = 0 → m.unit = 0 → m.touched = [] → m.wq = [] → m.fail = none → bits (qd m.q 2) 23 0 = 16 → bits (qd m.q 5) 4 2 = 0 →
      s.region p (BitVec.ofNat 48 (bits (qd m.q 0) 47 0)) = .scr p src → s.region p (BitVec.ofNat 48 (bits (qd m.q 1) 47 0)) = .scr p dst →
      s.poisonedKey (scrKey p src) = false →
      Next (exec (.copyUnitTurn o l c) s) (fun t => t.mem = s.mem ∧ ∃ k, (t.core p).mbox = [k] ∧ k.id = m.id ∧ k.unit = 1 ∧ k.finished = true ∧ k.fail = none ∧
        k.wq = [{ n := 0, ea := BitVec.ofNat 48 (bits (qd m.q 1) 47 0), loc := .scr p dst, bytes := s.mem.read (scrKey p src) 16 }])) ∧
    (MemOk s → (∀ y ∈ s.net, y.cap = false) → m.finished = true → m.fail = none → m.touched = [] → bits (qd m.q 5) 4 2 = 0 →
      (bits (qd m.q 7) 47 0 = 0 → m.wq = [] → Next (exec (.copyCommandComplete o l c) s) (fun t => SameBytes s t ∧ (t.core p).mbox = [])) ∧
      (∀ w, bits (qd m.q 7) 47 0 = 0 → m.wq = [w] → w.late = false → w.loc = .scr p dst → w.bytes = bs → s.region p w.ea = .scr p dst → Next (exec (.copyCommandComplete o l c) s) (fun t =>
        Stored s t (scrKey p dst) bs ∧ t.mem.poison = s.mem.poison ∧ (t.core p).mbox = [])) ∧
      (bits (qd m.q 7) 47 0 ≠ 0 → m.wq = [] → s.region p (BitVec.ofNat 48 (qd m.q 7)) = .scr p off → Next (exec (.copyCommandComplete o l c) s) (fun t =>
        Stored s t (scrKey p off) (leBytes 8 (m.unit * 2 ^ 32)) ∧ (t.core p).mbox = [])))

/-- R257: once every earlier access, copy and engine command of the thread is done, and the turns of the present count are over, the pair's CUR changes at the next
count, once in a count, and the thread wakes; no byte moves. -/
def Obligations.PairsExchange : Prop :=
  ∀ (s : State) (uid k : Nat) (x : Thread), s.thread? uid = some x → x.park = .publish k → x.woken = false → x.saw = [] → (∀ o ∈ x.ops, o.acc = false ∧ o.cmd = false) →
    (∀ c ∈ s.cores, ∀ m ∈ c.mbox, m.uid ≠ uid) → (∀ c ∈ s.cmds, c.uid ≠ uid) → (s.owner x.pl.o).frozen = false →
    (s.clk.todo ≠ [] ∨ (∃ p ∈ (s.owner x.pl.o).pairs, p.k = k ∧ p.qf = s.q + 1) → exec (.pairExchange uid) s = .next s) ∧
    (s.clk.todo = [] → (∀ p ∈ (s.owner x.pl.o).pairs, p.k = k → p.qf ≠ s.q + 1) → Next (exec (.pairExchange uid) s) (fun t => SameBytes s t ∧ t.thread? uid = some { x with woken := true } ∧ t.mem = s.mem ∧
      t.owner x.pl.o = { s.owner x.pl.o with pairs := (s.owner x.pl.o).pairs.map (fun p => if p.k = k then { p with cur := !p.cur, qf := s.q + 1 } else p) }))

/-- R205, R280 to R284: a spawned record is refused with its code, counted in REFUSED, or accepted: it joins its queue, COUNT ids are assigned, and the answer is the
first of them. Model's choices: how a unit with no core of its own reaches the record (log 17), which fields are checked for its KIND (log 48), that a refused
spawn counts in REFUSED (log 49). -/
def Obligations.RecordsArrive : Prop :=
  ∀ (s : State) (id w o p : Nat) (ws : List Word) (r : Req) (k : Kind), Arriving s id r → r.kind = .spawn w ws → r.loc = .dram o p k → s.locBad r.loc = false →
    let q := quadsOf 16 (s.mem.read (s.dramKey o p) 128)
    let wq := bits (qd q 0) 17 8
    let cfg := (alGet 0 wq s.graph.wqcfg).toNat
    let waiting := (s.graph.recs.filter (fun x => x.wq == wq)).length
    let refused := fun (code : Nat) => Next (exec (.recordArrive id) s) (fun t => SameBytes s t ∧ Answered s t r (BitVec.ofNat 128 (2 ^ 63 + code)) ∧
      t.graph.recs = s.graph.recs ∧ alGet 0 wq t.graph.refused = (alGet 0 wq s.graph.refused + 1) % 65536)
    (bit cfg 63 = false ∨ bits cfg 55 52 ≠ r.pl.o → refused 1) ∧
    (bit cfg 63 = true → bits cfg 55 52 = r.pl.o →
      (64 ≤ waiting → refused 2) ∧
      (waiting < 64 → recBad (s.nslot r.pl.o) false q = true → refused 3) ∧
      (waiting < 64 → recBad (s.nslot r.pl.o) false q = false → bits cfg 57 56 < bits (qd q 0) 5 4 → refused 5) ∧
      (waiting < 64 → recBad (s.nslot r.pl.o) false q = false → bits (qd q 0) 5 4 ≤ bits cfg 57 56 → bits (qd q 0) 3 0 = 0 →
        let tid := (s.owner r.pl.o).nextTid
        Next (exec (.recordArrive id) s) (fun t => SameBytes s t ∧ Answered s t r (tid.setWidth 128) ∧ t.graph.refused = s.graph.refused ∧
          t.graph.recs = s.graph.recs ++ [{ q := q, nodes := [{ q := q, tid := tid }], wq := wq, fn := none, o := r.pl.o }] ∧
          let n := tid.toNat + bits (qd q 0) 47 32
          (t.owner r.pl.o).nextTid = if n < 2 ^ 32 then BitVec.ofNat 32 n else BitVec.ofNat 32 (n + 1))))

/-- R281, R286: the head record of the queue whose turn it is starts, and its node is ready with COUNT tasks; R287 to R290, R295: the dispatcher gives the head task an
inbox (which one, log 100) and the context that its record describes, and places it. -/
def Obligations.LaunchesStartAndDispatch : Prop :=
  ∀ (s : State) (q o : Nat) (r : Rec) (n : Node) (x : Launch) (y : Machine.Ready), s.rot.pause = none → o < 16 → (s.owner o).frozen = false → s.unplaced o = false →
    r.o = o → r.nodes = [n] → n.succ = [] →
    (s.graph.recs = [r] → r.wq = q → (s.owner o).stepped = false → s.graph.launches = [] → Next (exec (.launchStart q) s) (fun t => SameBytes s t ∧
      t.graph.recs = [] ∧ (t.owner o).launched = true ∧ t.threads = s.threads ∧
      t.graph.launches = [{ id := s.clk.id, r := r, runs := [{ st := .ready, undisp := rCount n.q, live := 0 }] }] ∧
      t.graph.ready = s.graph.ready ++ (List.range (rCount n.q)).map (fun i => { o := o, launch := s.clk.id, node := 0, k := i, prio := bits (qd n.q 0) 5 4 }))) ∧
    (s.graph.ready = [y] → y.o = o → y.prio < 4 → y.node = 0 → s.graph.launches = [x] → x.id = y.launch → x.r = r → s.inboxFree o = true → s.graph.placing = [] →
      bits (qd n.q 0) 3 0 = 0 → bit (qd n.q 0) 6 = false → bit (qd r.q 0) 6 = false →
      let tid := tidAdd n.tid y.k
      let ctx := fun (t : Thread) => t.pc = (n.q.getD 1 0).setWidth 48 ∧ t.trapb = (n.q.getD 2 0).setWidth 48 &&& ~~~3#48 ∧ t.tid = tid ∧ t.pw = 0x80 ∧ t.fcsr = 0 ∧
        t.taskb = 0 ∧ t.ops = [] ∧ t.park = .none ∧ t.task = { launch := x.id, node := 0, prio := y.prio } ∧ (∀ i : Fin 16, t.v[i] = 0) ∧
        ∀ i : Fin 16, t.s[i] = if i.val ≠ 0 ∧ i.val = bits (qd n.q 0) 27 24 then BitVec.ofNat 64 y.k else if 1 ≤ i.val ∧ i.val ≤ 6 then n.q.getD (i.val + 5) 0 else 0
      Next (exec (.taskDispatch o) s) (fun t => SameBytes s t ∧ t.graph.ready = [] ∧ t.threads = s.threads ∧
        t.graph.inboxes = s.graph.inboxes ++ [{ o := o, tid := tid, launch := x.id, k := s.inboxPlace o }] ∧
        ((∃ k, t.graph.packets = s.graph.packets ++ [k] ∧ k.stage = .flight ∧ ctx k.t ∧ t.graph.placing = []) ∨
         (∃ k, t.graph.placing = [k] ∧ ctx k.t ∧ t.graph.packets = s.graph.packets))))

/-! ### What the device does: owners, pauses, ports (15, 16, 18, 19, 21, 22) -/

/-- R301, R303, R306, R11, R313, R309, R354, R356: an owner is enabled or its write refused with a code, a capability entry and a range register are written, a
freeze starts at a boundary, a change of ways ends, and the arbiter accepts an event and writes its record. Model's choices: the fields of a refused write of
OWNCFG (log 32), the code of a carve-out that does not fit (log 33), the lines that a change of ways keeps (log 14), a source that holds an event (log 105). -/
def Obligations.OwnersAndEvents : Prop :=
  ∀ (s : State) (v : Word) (k n o : Nat),
    let w := s.regs.ownsel.toNat % 16
    let sel := s.regs.capsel.toNat
    let cap := v &&& 0xFFFF8000FF0F0F07
    (bit v.toNat 63 = true → s.enabled w = false →
      (s.enableCode w v.toNat = 0 → Next (exec (.ownerEnable v) s) (fun t => SameBytes s t ∧ (t.owner w).cfg = v &&& 0xFFFFFFFFFC000000 ∧ (t.owner w).err = 0 ∧
        (t.owner w).desc = s.readDescr w ∧ (t.owner w).nextTid = 1 ∧ (t.owner w).meter = Vector.replicate 14 0 ∧ (t.owner w).frozen = false ∧
        (∀ x ∈ (s.readDescr w).mica, bit s.regs.slicemap.toNat x = true) ∧ ∀ e ∈ State.extents (s.readDescr w), (t.extent e).complete = false)) ∧
      (s.enableCode w v.toNat ≠ 0 → Next (exec (.ownerEnable v) s) (fun t =>
        t = s.setOwner w { s.owner w with cfg := v &&& 0x7FFFFFFFFC000000, err := s.enableCode w v.toNat }))) ∧
    ((bit cap.toNat 47 = true ∧ bits cap.toNat 63 48 = 0) ∨ s.nslot w ≤ bits sel 15 8 → exec (.capentWrite v) s = .next s) ∧
    (¬(bit cap.toNat 47 = true ∧ bits cap.toNat 63 48 = 0) → bits sel 15 8 < s.nslot w → Next (exec (.capentWrite v) s) (fun t =>
      let mine := fun (c : Cap) => c.o == w && c.l == bits sel 15 8 && c.x == bits sel 7 4 && c.k == bits sel 2 0
      t = { s with caps := t.caps } ∧ (t.caps.find? mine).map (·.val) = some cap ∧ t.caps.filter (fun c => !mine c) = s.caps.filter (fun c => !mine c))) ∧
    (∀ h : k < 8, Next (exec (.rrangeWrite k v) s) (fun t => SameBytes s t ∧
      t.owner w = { s.owner w with rrange := (s.owner w).rrange.set k (v &&& 0x80FFFFFFFFFFFFF0) } ∧ ∀ x ∈ t.slices, alGet 0 (w * 8 + k) x.ctr = 0)) ∧
    exec (.registerWrite 0x018 v) s = .next { s with me := { s.me with fcsr := v &&& 0x31F } } ∧
    exec (.registerWrite 0x880 v) s = .next { s with regs := { s.regs with rotiv := v &&& 0x800000000000FFFF } } ∧
    exec (.registerWrite 0x893 v) s = .next s ∧
    (∀ c, (s.owner o).freezing = some c → o < 16 → s.rot.pause = none → s.q % 8 = 0 →
      (∀ cs, EvRoom s → c ≠ 0x81 → (s.owner o).causes = cs ++ [c] → Next (exec (.freezeStart o) s) (fun t => SameBytes s t ∧
        t.owner o = { s.owner o with frozen := true, freezing := none, causes := [], vcause := c, qz := s.q } ∧
        t.trust.events = s.trust.events ++ (cs ++ [c]).map (fun x => { ty := 0x01, o := o, cause := x, data := s.clk.quartz, src := 1, q := s.q }))) ∧
      (c = 0x81 → Next (exec (.freezeStart o) s) (fun t => (t.owner o).cfg.getLsbD 63 = false ∧ (t.owner o).inScrub = true ∧ (t.owner o).frozen = true ∧
        (t.owner o).vcause = 0x81 ∧ (∀ r ∈ t.graph.recs, r.o ≠ o) ∧ t.graph.launches = s.graph.launches ∧ t.progStage = s.progStage ∧
        t.trust.pendings = s.trust.pendings))) ∧
    (∀ a b, (s.slice n).target = some (a, b) → (∀ r ∈ s.net, ∀ off, r.loc ≠ .slice n off) →
      (∀ c ∈ s.cores, ∀ m ∈ c.mbox, ∀ w ∈ m.wq, ∀ off, w.loc ≠ .slice n off) → Next (exec (.waypartComplete n) s) (fun t =>
      (∃ ls, t.slice n = { s.slice n with ways := b, size := b, target := none, lines := ls } ∧ ∀ x ∈ ls, x ∈ (s.slice n).lines ∧ x.way < 16 - b) ∧
      (∀ j, (if sliceKey n (min a b * 2 ^ 20) ≤ j ∧ j < sliceKey n (max a b * 2 ^ 20) then t.mem.getB j = 0 else t.mem.getB j = s.mem.getB j)) ∧
      ∀ x ∈ t.threads, x.park = .waypart n → x.woken = true)) ∧
    (∀ e, s.trust.events = [e] → e.seq = none → MemOk s →
      let m := bits s.regs.evrn.toNat 15 0
      let a := s.regs.evrb.toNat + 32 * s.regs.evtl.toNat
      m ≠ 0 → (s.regs.evtl.toNat + 1) % m ≠ s.regs.evhd.toNat → bit s.regs.evnq.toNat 63 = false → s.lostKey (s.dramKey 0 a) = false →
      Next (exec (.eventAccept 0) s) (fun t => Stored s t (s.dramKey 0 a)
          (quadBytes [s.trust.evseq, BitVec.ofNat 64 (e.ty % 256 + e.o % 16 * 2 ^ 8 + e.cause % 256 * 2 ^ 16 + e.fn % 1024 * 2 ^ 32),
            s.clk.quartz, e.data]) ∧
        t.regs.evtl = BitVec.ofNat 64 ((s.regs.evtl.toNat + 1) % m) ∧ t.trust.evseq = s.trust.evseq + 1 ∧ t.trust.events = []))

/-- R314, R317 to R326: a rotation or a switch falls due and its pause begins, engines stop, the routers flush, the memory side drains, the tenancies move, the
slot map switches with every tenancy at the next raster index, and issue resumes. -/
def Obligations.PausesAdvance : Prop :=
  ∀ (s : State) (p : Pause) (cid : Nat) (c : Cmd) (x : Part),
    let q := s.q
    let z := s.clk.quartz.toNat
    let iv := bits s.regs.rotiv.toNat 15 0
    let ts := bits s.regs.tsiv.toNat 15 0
    let at_ := fun (y : Pause) => { s with rot := { s.rot with pause := some y } }
    (0 < z → bit s.regs.rotiv.toNat 63 = false → iv ≠ 0 → z % (iv * 2 ^ 20) = 0 → s.rot.pause = none → Next (exec .rotationDue s) (fun t => SameBytes s t ∧
      t.rot.pause = some { q0 := q, moves := true, switch := false, retire := s.rot.failed.length } ∧ t.threads = s.threads ∧ t.rot.tens = s.rot.tens)) ∧
    (0 < z → ts ≠ 0 → z % (ts * 2 ^ 16) = 0 → s.shared = true → s.trust.scrubPause = false →
      (s.rot.pause = none → Next (exec .switchDue s) (fun t => SameBytes s t ∧ t.threads = s.threads ∧
        t.rot.pause = some { q0 := q, moves := false, switch := true, retire := s.rot.failed.length })) ∧
      (s.rot.pause = some p → p.phase ≠ .switched → Next (exec .switchDue s) (fun t => SameBytes s t ∧ t.threads = s.threads ∧
        t.rot.pause = some { p with switch := true }))) ∧
    (s.rot.pause = some p →
      (s.cmds = [c] → c.id = cid → c.parts = [x] → x.started = true → x.done = false →
        exec (.engineStepStop cid x.i x.j) s = .next { s with cmds := [{ c with parts := [{ x with stopped := true }] }] }) ∧
      (p.phase = .stop → p.q0 + 512 ≤ q → Next (exec .routerFlush s) (fun t => SameBytes s t ∧ t.rot = { s.rot with pause := some { p with phase := .flushed } } ∧
        t = { s with rot := t.rot, net := t.net, threads := t.threads, cmds := t.cmds, cores := t.cores, graph := { s.graph with packets := t.graph.packets } } ∧
        t.net = s.net.map (fun r => { r with cap := r.arrived.isNone && s.mayPerform r }) ∧
        t.threads = s.threads.map (fun x => { x with ops := x.ops.map (fun o => { o with cap := o.res.isSome && o.due.isNone }) }) ∧
        t.graph.packets = s.graph.packets.map (fun k => { k with cap := k.stage == .flight }) ∧
        let bare := fun (c : Cmd) => { c with parts := c.parts.map (fun (x : Part) => { x with cap := false }), wq := c.wq.map (fun (w : PWrite) => { w with cap := false }) }
        t.cmds.map bare = s.cmds.map bare ∧
        t.cores = s.cores.map (fun c => { c with mbox := c.mbox.map (fun (m : Copy) => { m with wq := m.wq.map (fun (w : CWrite) => { w with cap := !s.copyHeld c.pl m w }) }) }))) ∧
      exec .memoryDrainEnd s = .next (at_ { p with drained := true }) ∧
      (p.moves = true → p.phase = .flushed → p.q0 + 520 ≤ q →
        let n := min 16 s.rot.repairs.length
        exec .rotationMove s = .next (at_ { p with phase := .moving, repairs := n, endAt := q + 49152 + 1024 * n })) ∧
      (p.phase = .moving → p.endAt ≤ q → Next (exec .moveEnd s) (fun t => SameBytes s t ∧ t.rot.pause = some { p with phase := .moved } ∧
        t.rot.repairs = s.rot.repairs.drop p.repairs)) ∧
      ((∀ y ∈ s.rot.tens, y.idx < s.nlive) → (∀ y ∈ s.rot.cur, y.1 < s.nlive) → p.phase = .moved → p.moves = true → p.switch = false → p.drained = true → p.scrub = false → q % 8 = 0 → s.joinsSoon p = false → s.rot.changes = [] → s.rot.failed = [] → s.rot.hollow = [] →
        Next (exec .slotMapSwitch s) (fun t => SameBytes s t ∧ t.rot.seq = s.rot.seq + 1 ∧ t.tlb = [] ∧ t.wcache = [] ∧ t.l1 = [] ∧ t.walks = [] ∧
          t.rot.tens = s.rot.tens.map (fun y => { y with idx := (y.idx + 1) % max 1 s.nlive }) ∧ t.rot.pause = some { p with phase := .switched, endAt := q })) ∧
      (p.phase = .switched → q % 8 = 0 → p.endAt + 8 ≤ q → p.freed = [] → s.graph.placing = [] → (∀ o, o < 16 → (s.owner o).resumeWait = false) →
        Next (exec .issueResume s) (fun t => SameBytes s t ∧ t.rot.pause = none ∧ t.threads.length = s.threads.length ∧
          (∀ y ∈ s.threads, ∃ w ∈ t.threads, w = { y with slot := w.slot, turns := w.turns, since := w.since, lastB := w.lastB } ∧ (y.slot ≠ none → y.strm = none → w.turns = 0)) ∧ t.rot.tens = s.rot.tens ∧ ∀ d ∈ t.cmds, ∀ y ∈ d.parts, y.stopped = false)))

/-- R357 to R367, R371, R376, R375: a post becomes one arrival, a window access is served at its home, resets of functions discard what they must, a pending
vector is sent once unmasked, an SPDM request is answered, an admitted request of a peer is performed and another is refused. Model's choices: the spaces of
a host access (log 102), the fields of CONFIGURATION_WRITE (log 58), the SPDM bodies (log 59), pending bits of a removed function (log 60), what DROPPED counts
(log 61), when hosts see the device's writes (log 98), and the values of a function that has been reset (log 9, PRESUMED). -/
def Obligations.HostAndPeers : Prop :=
  ∀ (s : State) (fn off j len what val code : Nat) (bytes : List Byte) (f : Fn) (r : IxReq) (up : Bool), s.host.up = true → s.trust.power = true → s.trust.boot = false →
    s.trust.recovery = false → s.rot.pause = none → s.host.held = [] → s.fn? fn = some f → f.present = true → f.en = true →
    let live := f.frozen = false ∧ f.memEn = true ∧ f.d3 = false
    let key := s.dramKey 0 off
    let cleared := fun (g : Fn) => { g with memEn := false, msixEn := false, masked := List.range 64, table := [], d3 := false, bars := Vector.replicate 3 0 }
    (live → off < 131072 → off % 128 = 0 → bytes.length = 128 → s.queueOf fn (off / 128) = some j → Next (exec (.hostPost fn off bytes) s) (fun t => SameBytes s t ∧
      t.graph.arrivals = s.graph.arrivals ++ [{ id := s.clk.id, q := quadsOf 16 bytes, wq := j, fn := some fn, o := f.o }])) ∧
    (live → fn = 0 → off < s.dramSize 0 → s.heldBack (.dram 0 off .cacheable) = false →
      (0 < len → off % 128 + len ≤ 128 → off + len ≤ 2 ^ 37 → s.poisonedKey key = false → Next (exec (.hostMemoryRead fn off len) s) (fun t => SameBytes s t ∧
        t.host.sent = s.host.sent ++ [.readDone fn (s.readOut (.dram 0 off .cacheable) len)])) ∧
      (bytes ≠ [] → off % 128 + bytes.length ≤ 128 → off + bytes.length ≤ 2 ^ 37 → s.lostKey key = false → MemOk s → Next (exec (.hostMemoryWrite fn off bytes) s) (fun t => Stored s t key bytes))) ∧
    (0 < fn → fn ≤ 512 → Next (exec (.vfFlr fn) s) (fun t => SameBytes s t ∧ t.fn? fn = some { cleared f with pba := [] } ∧
      t.graph.recs = s.graph.recs.filter (fun x => s.fnOfQueue x.wq != fn))) ∧
    (∀ i ∈ ([(.pfFlr, true), (.hotReset, true), (.linkDown, false)] : List (Instr × Bool)), Next (exec i.1 s) (fun t => SameBytes s t ∧ t.host.up = i.2 ∧
      t.host.vfEnable = false ∧ t.graph.recs = [] ∧
      t.host.fns = s.host.fns.map (fun g => if g.k = 0 then { cleared g with pba := [] } else { cleared g with present := false }))) ∧
    exec .linkUp s = .next { s with host := { s.host with up := true } } ∧
    Next (exec (.spdmRequest code) s) (fun t => SameBytes s t ∧ ∃ a b, t.host.sent = s.host.sent ++ [.spdm a b]) ∧
    (what = 0 → Next (exec (.configurationWrite fn what val) s) (fun t => SameBytes s t ∧ t.fn? fn = some { f with memEn := val % 2 == 1 })) ∧
    (what = 7 ∨ what = 8 ∨ what = 9 → Next (exec (.configurationWrite fn what val) s) (fun t => SameBytes s t ∧
      t.fn? fn = some { f with bars := f.bars.set (Fin.ofNat 3 (what - 7)) (BitVec.ofNat 64 val) })) ∧
    (what = 2 → Next (exec (.configurationWrite fn what val) s) (fun t => SameBytes s t ∧ t.fn? fn = some { f with d3 := val % 4 == 3 })) ∧
    (f.msixEn = true → f.pba = [j] → Next (exec (.msixVectorUnmask fn j) s) (fun t => SameBytes s t ∧ t.host.sent = s.host.sent ++ [.msix fn j] ∧
      t.fn? fn = some { f with masked := f.masked.filter (· != j), pba := [] })) ∧
    (∀ n l, r.op = .load n →
      (s.admits r (some r.ia) = false → Next (exec (.ixnarInboundRequest r) s) (fun t => t = { s with host := { s.host with sent := s.host.sent ++ [.ixReply r.dev false []], roundIn := t.host.roundIn, roundOut := t.host.roundOut, shareIn := t.host.shareIn, shareOut := t.host.shareOut } })) ∧
      (s.admits r (some r.ia) = true → s.inboundLoc r false = some l → s.heldBack l = false → s.poisonedKey (s.locKey l) = false →
        Next (exec (.ixnarInboundRequest r) s) (fun t => SameBytes s t ∧ t.host.sent = s.host.sent ++ [.ixReply r.dev true (s.readOut l n)]))) ∧
    (j < 18 → Next (exec (.ixnarLinkStateChange j up) s) (fun t => t = { s with regs := { s.regs with ixup := t.regs.ixup } } ∧
      t.regs.ixup.getLsbD j = up ∧ ∀ i, i ≠ j → t.regs.ixup.getLsbD i = s.regs.ixup.getLsbD i))

/-! ### What the device does: steps, images, pulls, flash, failures, trust (23 to 26) -/

/-- R408 to R411, R414 to R420: tokens are kept, an owner at its local stop posts its event and tells its group, RESUME sends the stepped packets on; the commands of
Slate go through their steps and end with a code; a pulled page is served, written when it arrives, and fails when refused or late; in a pause the Ixnar port
holds tokens and pull traffic (R318, R321). Model's choices: the graph
section's order (log 21), the code of a poisoned or undecodable image (log 52), STEPST after a restore (log 53), and the steps in which an image is written and
read and a page lands (log 63). -/
def Obligations.StepsImagesAndPulls : Prop :=
  ∀ (s : State) (o dev num rown p code : Nat) (bytes marks : List Byte) (es : List State.Shard) (g : GraphPos) (key : BitVec 512), o < 16 → s.rot.pause = none → s.host.ixHeld = [] →
    let x := s.owner o
    let so := s.trust.slateOwner
    ((x.local_ = false ∨ x.held = true) → exec (.stepReadyToken o dev num) s = .next (s.setOwner o { x with tokens := x.tokens ++ [(dev, num)] })) ∧
    (s.q % 8 = 0 → s.stopReady o = true → s.stepPeers o = [] → Next (exec (.localStop o) s) (fun t => SameBytes s t ∧ (t.owner o).local_ = true ∧
      (t.owner o).held = true ∧ (t.owner o).num = x.num + 1 ∧
      (EvRoom s → (∃ e ∈ t.trust.events, e.ty = 0x28 ∧ e.o = o) ∧ ∃ e ∈ t.trust.events, e.ty = 0x29 ∧ e.o = o))) ∧
    (x.held = true → s.unplaced o = false → Next (exec (.stepResume o) s) (fun t => SameBytes s t ∧
      t.owner o = { x with held := false, local_ := false, stepped := false } ∧ t.graph.packets = s.graph.packets.map (fun k =>
        if k.stage = .stepped ∧ k.t.pl.o = o then { k with stage := .flight, t := { k.t with step := x.num.setWidth 64 } } else k))) ∧
    (s.trust.slateOp = 1 → (s.owner so).held = false → exec .slateWriteImage s = .next { s with trust := { s.trust with slateOp := 101 } }) ∧
    (s.trust.slateOp = 1 → (s.owner so).held = true → (s.imageKey so).isSome = true → s.manifest so = some es → (s.imageBody so es).length + 4096 ≤ s.areaSize →
      Next (exec .slateWriteImage s) (fun t => t.trust.slateOp = 3 ∧ t.threads = s.threads ∧ t.host = { s.host with outer := t.host.outer })) ∧
    (s.trust.slateOp = 3 → s.imageKey so = some key → s.manifest so = some es → (s.imageBody so es).length + 4096 ≤ s.areaSize →
      Next (exec .slateWriteImage s) (fun t => t.trust.slateOp = 4 ∧ t.threads = s.threads ∧ t.host = { s.host with outer := t.host.outer })) ∧
    (s.trust.slateOp = 4 → s.imageKey so = some key → s.headerC.isSome = true → Next (exec .slateWriteImage s) (fun t => t.trust.slateOp = 100 ∧ t.threads = s.threads)) ∧
    (s.trust.slateOp = 2 → (s.owner so).held = true → s.imageKey so = some key →
      match s.verified so key with
      | none => exec .slateRestore s = .next { s with trust := { s.trust with slateOp := 104 } }
      | some img => s.manifest so = some es → (∀ e ∈ es, ∀ y ∈ State.elems e, (State.sourceOf (State.imageTable img) e y.1 y.2).isSome = true) →
        State.getGraph so (BitVec.ofNat 32 (State.quadAt img 8 / 2 ^ 32))
          ((quadsOf (State.quadAt img 40 / 8) (img.drop (State.quadAt img 32))).map (·.toNat)) = some g → (∀ k ∈ g.packets, k.t.pl.l < s.nslot so) →
        Next (exec .slateRestore s) (fun t => t.trust.slateOp = 100 ∧ (t.owner so).held = true ∧ (t.owner so).stepped = true ∧ (t.owner so).num = g.num)) ∧
    (s.trust.slateOp = 100 + code → Next (exec (.slateCommandEnd code) s) (fun t => SameBytes s t ∧ t.trust.slateOp = 0 ∧
      t.regs.slcmd = BitVec.ofNat 64 (code % 256 * 256 + bits s.regs.slcmd.toNat 7 4 * 16) ∧ (EvRoom s → ∃ e ∈ t.trust.events, e.ty = 0x2A ∧ e.o = so ∧ e.data = BitVec.ofNat 64 code))) ∧
    (x.held = false → exec (.pullRequestServe o dev rown p) s = .next { s with host := { s.host with sent := s.host.sent ++ [.pullNo dev rown p] } }) ∧
    (x.held = true → (∃ k ∈ s.stepPeers o, s.peerDev o k = dev ∧ s.peerRown o k = rown) → 65536 * (p + 1) ≤ s.dramSize o →
      Next (exec (.pullRequestServe o dev rown p) s) (fun t => SameBytes s t ∧ ∃ b, t.host.sent = s.host.sent ++ [.pullPage dev rown p b])) ∧
    (s.pullFlying o p = true → MemOk s → x.desc.dram.Nodup → bytes.length = 65536 → (∀ j, j < 512 → s.lostKey (s.dramKey o (65536 * p + 128 * j)) = false) →
      Next (exec (.pullReply o p bytes marks) s) (fun t => ∃ u : State, t = (u.pullClear o p).pullPump o ∧ u.trust = s.trust ∧ u.threads = s.threads ∧
        ∀ j i, j < 512 → i < 128 → u.mem.getB (s.dramKey o (65536 * p + 128 * j) + i) = bytes.getD (128 * j + i) 0)) ∧
    (∀ i, (i = Instr.pullRefusal o p ∧ s.pullFlying o p = true) ∨
        (i = Instr.pullTimeout o p ∧ ∃ y ∈ s.trust.pulls, y.o = o ∧ y.page = p ∧ y.start + 2 ^ 24 ≤ s.q) →
      Next (exec i s) (fun t => (t.owner o).pullFailed = true ∧ (EvRoom s → ∃ e ∈ t.trust.events, e.ty = 0x2B ∧ e.o = o ∧ e.data = BitVec.ofNat 64 p))) ∧
    (∀ (z : State) (y : Pause), z.rot.pause = some y →
      let kept := fun (i : Instr) (k : IxIn) => exec i z = .next { z with host := { z.host with ixHeld := z.host.ixHeld ++ [k] } }
      kept (.stepReadyToken o dev num) (.token o dev num) ∧ kept (.pullRequestServe o dev rown p) (.serve o dev rown p) ∧
      kept (.pullReply o p bytes marks) (.page o p bytes marks) ∧ kept (.pullRefusal o p) (.refused o p))

/-- R386 to R391: an install is accepted with the next number or ends with a code, its blocks are erased, its pages are programmed, and its end writes the extent's
state and gives the operation behind it quad 0 of its record, which lands in s[d] as other long results do. Model's choices: where a wstat is answered (log 39),
when the two ends are translated (log 40), the counts of a spare block (log 41), and whether a page verifies at once (log 83). -/
def Obligations.InstallsRun : Prop :=
  ∀ (s : State) (id p n : Nat) (x : Install) (r : Req), s.rot.pause = none → s.flash.installs = [x] → x.rid = id → x.code = 0 →
    let e := x.ext
    let w := s.owner x.o
    (x.st = .requested → (∀ y, s.thread? x.uid = some y → y.saw = [] ∧ ∀ z ∈ y.ops, z.acc = false) →
      (s.installCode x = 0 → Next (exec (.installRequestArrive id) s) (fun t => SameBytes s t ∧ (∃ y, t.flash.installs = [y] ∧ y.st = .waiting ∧ y.inst = w.nextInst ∧ y.q = x.q) ∧
        (t.owner x.o).nextInst = (if w.nextInst + 1 = 0 then 1 else w.nextInst + 1) ∧ (t.owner x.o).ibused = w.ibused + 1)) ∧
      (w.inScrub = false → (bits (qd x.q 0) 47 0 % 16384 ≠ 0 ∨ bits (qd x.q 2) 24 0 % 16384 ≠ 0 ∨ bits (qd x.q 1) 47 0 % 2 ^ 24 ≠ 0) →
        exec (.installRequestArrive id) s = .next { s with flash := { s.flash with installs := [{ x with code := 1 }] } })) ∧
    (Arriving s n r → n ≠ id → r.kind = .wstat p → Next (exec (.installRequestArrive n) s) (fun t => SameBytes s t ∧
      Answered s t r ((s.wstatWord r.pl.o p).setWidth 128))) ∧
    (x.st = .erasing → Next (exec (.installPageProgrammed id true) s) (fun t => t.flash.installs = [{ x with st := .programming }] ∧
      (∀ j, j < 2 ^ 24 → t.mem.getB (extKey e j) = 0) ∧ (∀ a, a < extKey e 0 ∨ extKey e 0 + 2 ^ 24 ≤ a → t.mem.getB a = s.mem.getB a) ∧
      t.eraseCount (2 * e) = s.eraseCount (2 * e) + 1 ∧ t.eraseCount (2 * e + 1) = s.eraseCount (2 * e + 1) + 1)) ∧
    (x.st = .programming → x.pages ≠ bits (qd x.q 2) 24 0 / 16384 → MemOk s → s.installSrc x (16384 * x.pages) = some (.dram x.o p .cacheable) →
      s.unitWaits x.pl (BitVec.ofNat 48 (bits (qd x.q 0) 47 0 + 16384 * x.pages)) false = false → (∀ k, k < 128 → s.poisonedKey (s.dramKey x.o (p + 128 * k)) = false) →
      Next (exec (.installPageProgrammed id true) s) (fun t => t.flash.installs = [{ x with pages := x.pages + 1 }] ∧ x.pages ∈ (t.extent e).progd ∧
        Stored s t (extKey e (16384 * x.pages)) ((List.range 128).flatMap (fun k => s.mem.read (s.dramKey x.o (p + 128 * k)) 128)))) ∧
    (x.st = .programming → x.pages = bits (qd x.q 2) 24 0 / 16384 → bits (qd x.q 3) 47 0 = 0 → bit (qd x.q 4) 0 = false → x.pushed = none →
      Next (exec (.installEnd id) s) (fun t => SameBytes s t ∧ t.flash.installs = [{ x with st := .ended, pushed := some s.clk.id }] ∧ (t.extent e).complete = true ∧
        (t.extent e).len = bits (qd x.q 2) 24 0)) ∧
    (x.st = .ended → bits (qd x.q 3) 47 0 = 0 → (∃ k, x.pushed = some k) → s.net = [] → x.inst ≠ 0 →
      Next (exec (.installEnd id) s) (fun t => SameBytes s t ∧ t.flash.installs = [{ x with pushed := none }] ∧
        ∀ y o, s.thread? x.uid = some y → o ∈ y.ops → o.id = id → o.dest ≠ none → ∃ z, t.thread? x.uid = some z ∧
          { o with res := some (BitVec.ofNat 128 x.inst.toNat), flags := 0, fault := none } ∈ z.ops))

/-- R395 to R406, R32: the patrol corrects or poisons, a lost layer steps its column's state, a rebuild goes on sector by sector, a failed core is to be retired, a
failing lane is repaired or halves its bus, heat changes the refresh rate, posts its event, or trips compute. The patrol reads each part in ascending order,
once in a pass (R397); an event that its source holds one of is not raised (R356, log 105). Model's choices: the layer of a byte (log 11), the sector of a bad
line of Mica (log 42), the units of PATROL_SCRUB_READ (log 43), lanes in a pause (log 44), the loss of layer 8 (log 45), a failed core (log 75), when a
trip takes effect and what it leaves at work (log 76), and that no column is left out whatever LIVEMAP says (log 115). After a trip no core or engine takes a step
(R32). -/
def Obligations.FailuresAndHeat : Prop :=
  ∀ (s : State) (k layer sector region : Nat) (hot : Bool),
    let c := s.column k
    let posted := fun (t : State) (ty data : Nat) => EvRoom s → ∃ e ∈ t.trust.events, e.ty = ty ∧ e.data = BitVec.ofNat 64 data
    let part := State.patrolPart 3 sector
    (part.2 < s.patrolAt part.1 ∨ bit s.regs.pscfg.toNat 63 = false → ∀ b, exec (.patrolScrubRead 3 sector b) s = .next s) ∧
    (bit s.regs.pscfg.toNat 63 = true → s.patrolAt part.1 ≤ part.2 →
      let kib := extKey (sector / 131072 % 262144) (sector % 131072 * 128) / 1024
      let told := fun (t : State) => SameBytes s t ∧ t.patrolAt part.1 = part.2 + 1 ∧ posted t 0x10 (3 * 2 ^ 48 + sector / 131072 % 262144 * 2 ^ 24 + sector % 131072)
      (s.flash.bad = [] → Next (exec (.patrolScrubRead 3 sector false) s) (fun t =>
        t = { s with rot := { s.rot with patrol := t.rot.patrol } } ∧ t.patrolAt part.1 = part.2 + 1)) ∧
      (kib ∈ s.flash.bad → Next (exec (.patrolScrubRead 3 sector false) s) (fun t => told t ∧ t.flash = s.flash)) ∧
      Next (exec (.patrolScrubRead 3 sector true) s) (fun t => told t ∧ kib ∈ t.flash.bad)) ∧
    (∀ x st, s.threads.find? (fun y => y.uid == sector) = some x → x.strm = some st.id → s.graph.streams = [st] → st.fail = none →
      Next (exec (.patrolScrubRead 4 sector true) s) (fun t => SameBytes s t ∧ t.threads = s.threads ∧ ∃ f i rep, t.graph.streams = [f] ∧ f.fail = some (i, rep) ∧
        rep.fcode = 9 ∧ rep.fpc = x.pc ∧ rep.faddr = 0)) ∧
    (bit s.regs.pscfg.toNat 63 = true → c.st = 0 → k < 1024 → layer < 9 → sector < 131072 →
      Next (exec (.patrolScrubRead 0 ((9 * k + layer) * 131072 + sector) true) s) (fun t => t.mem = s.mem)) ∧
    (bit s.regs.pscfg.toNat 63 = true → c.st = 0 → k < 1024 → layer < 8 → sector < 131072 → s.patrolAt (9 * k + layer) ≤ sector →
      Next (exec (.patrolScrubRead 6 ((9 * k + layer) * 131072 + sector) true) s) (fun t => SameBytes s t ∧
        t.mem.poisoned (stackKey k (layer * 2 ^ 24 + sector * 128)) = true ∧ posted t 0x10 (sector + k * 2 ^ 24 + layer * 2 ^ 34))) ∧
    (k < 1024 → layer < 8 →
      (c.st = 0 → c.lost ≠ layer → Next (exec (.layerLost k layer) s) (fun t => SameBytes s t ∧ t.column k = { c with st := 1, lost := layer, rbpos := 0 } ∧
        posted t 0x11 (k + layer * 2 ^ 16) ∧ ((k, layer) ∈ t.rot.failed ∨ (k, layer) ∈ t.rot.retired))) ∧
      (c.st = 1 ∨ c.st = 2 → layer ≠ c.lost → Next (exec (.layerLost k layer) s) (fun t => SameBytes s t ∧ t.column k = { c with st := 3, lost2 := layer } ∧
        posted t 0x13 (k + c.lost * 2 ^ 16)))) ∧
    (k < 1024 →
      (c.st = 1 ∨ c.st = 2 → c.lost < 8 → Next (exec (.layerLost k 8) s) (fun t => SameBytes s t ∧ t.column k = { c with st := 3, lost2 := 8 } ∧
        posted t 0x13 (k + c.lost * 2 ^ 16))) ∧
      (c.st = 0 → c.lost ≠ 8 → Next (exec (.layerLost k 8) s) (fun t => SameBytes s t ∧ t.column k = { c with st := 2, lost := 15 } ∧
        ((k, 8) ∈ t.rot.failed ∨ (k, 8) ∈ t.rot.retired))) ∧
      (layer ≤ 8 → Next (exec (.coreLogicFailure k layer) s) (fun t => t = { s with rot := { s.rot with failed := t.rot.failed, down := t.rot.down } } ∧
        (((k, layer) ∈ t.rot.failed ∧ (k, layer) ∈ t.rot.down) ∨ (k, layer) ∈ t.rot.retired) ∧ ∀ y ∈ s.rot.failed, y ∈ t.rot.failed))) ∧
    (c.st = 1 →
      (c.rbpos + 1 ≠ 131072 → Next (exec (.rebuildSector k false) s) (fun t => t = { s with cols := t.cols } ∧ t.column k = { c with rbpos := c.rbpos + 1 })) ∧
      (c.rbpos + 1 = 131072 → Next (exec (.rebuildSector k false) s) (fun t => SameBytes s t ∧ t.column k = { c with st := 2, rbpos := 131072 } ∧
        posted t 0x12 (k + c.lost * 2 ^ 16))) ∧
      Next (exec (.rebuildSector k true) s) (fun t => SameBytes s t ∧ t.mem.poisoned (stackKey k (c.lost * 2 ^ 24 + c.rbpos * 128)) = true)) ∧
    (k < 1024 → region ≤ 10 →
      (∀ p, s.rot.pause = some p → Next (exec (.laneFailure k region) s) (fun t => SameBytes s t ∧ t.rot.repairs = s.rot.repairs ++ [{ tile := k, region := region }] ∧
        posted t 0x16 (k + region * 2 ^ 16))) ∧
      (∀ p, s.rot.pause = some p → region ≤ 8 → Next (exec (.laneFailure k (region + 16)) s) (fun t => SameBytes s t ∧ (t.column k).halfDue = true)) ∧
      (s.rot.pause = none → s.regionSpares k region = 0 → Next (exec (.laneFailure k region) s) (fun t => SameBytes s t ∧ posted t 0x18 (k + region * 2 ^ 16) ∧
        (region ≤ 8 → (t.column k).halfDue = true))) ∧
      (s.rot.pause = none → s.regionSpares k region ≠ 0 → Next (exec (.laneFailure k region) s) (fun t => t = { s with cols := t.cols } ∧
        (region ≤ 8 → (t.column k).halfDue = true)))) ∧
    (c.halfDue = true → s.q % 8 = 0 → (s.atBoundary.column k).half = true) ∧
    (k < 1024 → layer ≤ 8 → bit c.hot layer ≠ hot → Next (exec (.refreshRateChange k layer hot) s) (fun t => SameBytes s t ∧ bit (t.column k).hot layer = hot ∧
      posted t 0x19 (k + layer * 2 ^ 16 + (if hot then 2 ^ 24 else 0)))) ∧
    (layer % 16 ≤ 8 ∨ layer % 16 = 15 →
      Next (exec (.thermalEvent k layer) s) (fun t => t = { s with trust := { s.trust with events := t.trust.events } } ∧ posted t 0x03 (k % 64 + layer % 16 * 2 ^ 8)) ∧
      Next (exec (.thermalTrip k layer) s) (fun t => t = { s with trust := { s.trust with events := t.trust.events, tripDue := true } } ∧
        posted t 0x04 (k % 64 + layer % 16 * 2 ^ 8))) ∧
    (8 < layer % 16 → layer % 16 ≠ 15 → exec (.thermalEvent k layer) s = .next s ∧ exec (.thermalTrip k layer) s = .next s) ∧
    (State.heldKind s.trust { ty := 3, src := 64 + k % 64 * 16 + layer % 16 } = true → exec (.thermalEvent k layer) s = .next s) ∧
    (s.trust.tripDue = true → s.q % 8 = 0 → s.atBoundary.trust.tripped = true ∧ s.atBoundary.rot.pause = none) ∧
    (s.trust.tripped = true → s.tick.clk.todo = [] ∧ ∀ d ∈ s.tick.clk.due, State.ofCompute d = false)

/-- R436, R437: at each metering interval every enabled owner gets a record that chains to its last one, and the waiting record is written when the ring has room;
R438 to R442, R446: stage 1 ends once the owner's requests are complete, and each later stage of a teardown leaves nothing of the owner where it acts. Model's
choices: functions at the end of a teardown (log 22), the key that signs a record (log 54), what stage 1 waits for (log 62), and a stage as one step (log 63). -/
def Obligations.MeteringAndTeardown : Prop :=
  ∀ (s : State) (r : MRec) (rs : List MRec) (p : Pause),
    let iv := bits s.regs.metcfg.toNat 15 0
    let o := s.regs.scrubprog.toNat / 2 ^ 59 % 16
    let d := (s.owner o).desc
    let busy := fun (n : Nat) => bit s.regs.scrubprog.toNat 63 = true ∧ bits s.regs.scrubprog.toNat 58 56 = n
    (bit s.regs.metcfg.toNat 63 = true → iv ≠ 0 → s.clk.quartz.toNat % (iv * 2 ^ 20) = 0 → Next (exec .meteringInterval s) (fun t => SameBytes s t ∧
      ∀ k, k < 16 → s.enabled k = true → ∃ y ∈ t.trust.waiting, y.o = k ∧ y.final = false ∧ y.q = s.q ∧ y.ctr = (s.owner k).meter ∧
        y.oseq = (match s.trust.heads.find? (fun h => h.1 == k) with | some h => h.2.1 + 1 | none => 0) ∧
        y.prev = (match s.trust.heads.find? (fun h => h.1 == k) with | some h => h.2.2 | none => 0))) ∧
    (s.trust.waiting = r :: rs → s.rot.pause = none → bits s.regs.metring.toNat 11 0 ≠ 0 →
      (bits s.regs.metptr.toNat 11 0 + 1) % bits s.regs.metring.toNat 11 0 ≠ bits s.regs.metptr.toNat 27 16 → Next (exec .meteringRecordWrite s) (fun t =>
        t.trust.waiting = rs ∧ t.threads = s.threads ∧ t.regs.metptr = BitVec.ofNat 64 (bits s.regs.metptr.toNat 27 16 * 2 ^ 16 +
          (bits s.regs.metptr.toNat 11 0 + 1) % bits s.regs.metring.toNat 11 0))) ∧
    (busy 1 → (s.owner o).inScrub = true → s.drained o = true → (s.drainPump).progStage = 2 ∧ (s.drainPump).trust.scrubPause = true ∧
      ∀ y ∈ (s.drainPump).trust.pendings, y.o = o → y.final = true) ∧
    (busy 2 → s.rot.pause = some p → p.scrub = true → Next (exec .teardownTiles s) (fun t => t.progStage = 3 ∧ (∃ rows, t.rot.pause = some { p with scrub := false, tiled := true, freed := rows }) ∧
      (∀ l c i, l < 64 → c < 128 → i < 65536 → t.mem.getB (scrKey ⟨o, l, c⟩ i) = 0) ∧ (∀ y ∈ t.threads, y.pl.o ≠ o) ∧ (∀ y ∈ t.rot.tens, y.o ≠ o) ∧
      (∀ y ∈ t.tlb, y.o ≠ o) ∧ (∀ y ∈ t.cores, y.pl.o ≠ o) ∧ (∀ y ∈ t.caps, y.o ≠ o) ∧ (∀ y ∈ t.engines, y.tag ≠ some o) ∧ ∀ y ∈ t.graph.packets, y.t.pl.o ≠ o)) ∧
    (busy 3 → Next (exec .teardownSlices s) (fun t => t.progStage = 4 ∧ (t.owner o).rrange = Vector.replicate 8 0 ∧ (∀ y ∈ t.l1, y.o ≠ o) ∧
      ∀ n ∈ d.mica, (t.slice n).ways = 0 ∧ (t.slice n).size = 0 ∧ (∀ c ∈ (t.slice n).lines, c.o ≠ o) ∧ ∀ i, i < 2 ^ 24 → t.mem.getB (sliceKey n i) = 0)) ∧
    (busy 4 → Next (exec .teardownDram s) (fun t => t.progStage = 5 ∧ ∀ n ∈ d.dram, ∀ i, i < 2 ^ 27 → t.mem.getB (stackKey n i) = 0 ∧ t.mem.poisoned (stackKey n i) = false)) ∧
    (busy 5 → Next (exec .teardownAreas s) (fun t => t.progStage = 6 ∧ (∀ e ∈ State.extents d, (t.extent e).complete = false) ∧
      ∀ y, s.trust.pendings.find? (fun z => z.o == o) = some y → ∀ a ∈ y.areas, ∀ k x, s.platOf k = some x → a.1 ≤ x → x < a.1 + a.2 → t.mem.getB k = 0)) ∧
    (busy 6 → Next (exec .teardownKeys s) (fun t => SameBytes s t ∧ t.progBusy = true ∧ t.progStage = 7 ∧ ∀ y ∈ t.trust.keys, y.1 ∉ s.keysNamed o)) ∧
    (busy 7 → Next (exec .teardownKeys s) (fun t => SameBytes s t ∧ t.progBusy = false ∧ t.progStage = 7 ∧ (t.owner o).inScrub = false ∧ (t.owner o).frozen = false ∧
      (EvRoom s → ∃ e ∈ t.trust.events, e.ty = 0x32 ∧ e.o = o)))

/-- R423 to R425: a reset empties the machine but for flash, fuses and what Obsidian keeps, and the scratchpads of the tiles and slices read 0; of the bytes of
Shale, which stay or are not defined (R423, log 125), it says nothing; Obsidian then dispatches the monitor of a verified image, or enters recovery. Model's choices:
the quartz count is 0 (log 4), a scratchpad byte that nothing has written reads 0 (log 6), and every register for which no rule states a reset value is 0 (log 27). -/
def Obligations.ResetsAndBoot : Prop :=
  ∀ (s : State) (applied : Bool),
    let fresh := fun (t : State) => t.threads = [] ∧ t.me = {} ∧ t.net = [] ∧ t.tlb = [] ∧ t.graph = {} ∧ t.clk.quartz = 0 ∧ t.owners = Vector.replicate 16 {} ∧
      t.regs = { livemap := s.regs.livemap, slicemap := s.regs.slicemap } ∧ t.trust.keys = [] ∧ t.trust.heads = s.trust.heads ∧ t.trust.pendings = s.trust.pendings ∧
      t.trust.fusedSvn = s.trust.fusedSvn ∧
      (MemOk s → ∀ a, ((2 ^ 44 ≤ a ∧ a < 2 ^ 48) ∨ (2 ^ 53 ≤ a ∧ a < 2 ^ 54) → t.mem.getB a = s.mem.getB a) ∧ (2 ^ 48 ≤ a → a < 2 ^ 53 → t.mem.getB a = 0))
    (s.trust.power = true ∨ applied = true → Next (exec (.powerOnReset applied) s) (fun t => fresh t ∧ t.trust.power = true ∧ t.trust.boot = true ∧ t.trust.tripped = false)) ∧
    Next (exec .powerLoss s) (fun t => fresh t ∧ t.trust.power = false ∧ t.trust.boot = false) ∧
    (s.trust.recovery = false → s.trust.power = true → Next (exec .mgmtReset s) (fun t => fresh t ∧ t.trust.power = true ∧ t.trust.boot = true)) ∧
    (s.trust.boot = true → s.trust.power = true →
      if s.imageErr s.bootImage ≠ 0 then exec .obsidianBoot s = .next { s with trust := { s.trust with boot := false, recovery := true } }
      else s.trust.pendings = [] →
        let img := s.bootImage
        let pay := (img.drop 8192).take (State.quadAt img 16)
        Next (exec .obsidianBoot s) (fun t => t.trust.boot = false ∧ t.trust.recovery = s.trust.recovery ∧ t.trust.recoveryRec = false ∧ t.trust.payload = shake256 pay ∧
          t.trust.svn = bits (State.quadAt img 8) 31 0 ∧ t.enabled 0 = true ∧ (∃ a, (0, a) ∈ t.trust.keys) ∧ (∃ b, (1, b) ∈ t.trust.keys) ∧
          ∃ k, t.graph.packets = s.graph.packets ++ [k] ∧ k.stage = .flight ∧ k.t.pl = ⟨0, 0, 0⟩ ∧
            k.t.pc = BitVec.ofNat 48 (State.quadAt img 24 + State.quadAt img 32) ∧ k.t.s[1] = if s.trust.recoveryRec then 1 else 0))

/-- R426, R427, R443: the recovery mailbox takes an image block by block, verifies it and writes the boot partition; the management port freezes and releases owners,
and reads a frozen owner that consents, or in recovery the mailbox. Model's choices: the reset after a recovery (log 55), the numbers and the framing of the
management port (log 56), and the quartz count of 0 after that reset (log 4). -/
def Obligations.RecoveryAndManagement : Prop :=
  ∀ (s : State) (len off o core row reg addr i : Nat) (v : Word) (ok : Bool) (x : Thread),
    let r := s.trust
    (r.recovery = true →
      (r.rstate = 0 ∨ r.rstate = 4 ∨ r.rstate = 5 →
        (len % 4096 = 0 → 12288 ≤ len → len ≤ 2 ^ 26 → exec (.recoveryBegin len) s =
          .next { s with trust := { r with rstate := 1, rerr := 0, received := 0, rlen := len, rimage := [] } }) ∧
        (len % 4096 ≠ 0 ∨ len < 12288 ∨ 2 ^ 26 < len → exec (.recoveryBegin len) s = .next { s with trust := { r with rstate := 4, rerr := 6 } })) ∧
      (r.rstate = 1 → r.received + 4096 ≤ r.rlen → exec .recoveryAppend s =
        .next { s with trust := { r with received := r.received + 4096, rimage := r.rimage ++ (List.range 4096).map (cellsGet r.rbuf) } }) ∧
      (r.rstate = 1 → r.received = r.rlen →
        exec .recoveryCommit s = .next { s with trust := { r with rstate := 2 } }) ∧
      (r.rstate = 2 →
        if s.imageErr r.rimage ≠ 0 then s.verifyImage = { s with trust := { r with rstate := 4, rerr := s.imageErr r.rimage } }
        else State.quadAt r.rimage 16 + 8192 = r.rlen → s.verifyImage = { s with trust := { r with rstate := 3 } }) ∧
      (r.rstate = 3 →
        (MemOk s → Next (exec (.recoveryWriteDone true) s) (fun t => t.trust = { r with rstate := 5, recoveryRec := true, rreset := true } ∧
          ∀ j, j < r.rimage.length → t.mem.getB (bootKey j) = r.rimage.getD j 0)) ∧
        exec (.recoveryWriteDone false) s = .next { s with trust := { r with rstate := 4, rerr := 7 } } ∧
        exec .recoveryReset s = .next { s with trust := { r with rreset := true } }) ∧
      (r.rstate ≠ 2 → r.rstate ≠ 3 → exec .recoveryAbort s = .next { s with trust := { r with rstate := 0, rerr := 0, received := 0, rimage := [] } }) ∧
      (r.rstate ≠ 3 → r.power = true → Next (exec .recoveryReset s) (fun t => t.trust.boot = true ∧ t.trust.recovery = false ∧ t.threads = [] ∧ t.clk.quartz = 0)) ∧
      (r.rstate = 1 → off < 4096 → off % 8 = 0 → cellsWfFrom none r.rbuf = true → Next (exec (.recoveryBufferWrite off v) s) (fun t =>
        t = { s with trust := { r with rbuf := t.trust.rbuf } } ∧ ∀ j, cellsGet t.trust.rbuf j =
          if off ≤ j ∧ j < off + 8 then v.extractLsb' (8 * (j - off)) 8 else cellsGet r.rbuf j)) ∧
      (r.rstate ≠ 1 → exec (.recoveryBufferWrite off v) s = .next s)) ∧
    (o < 16 →
      (o ≠ 0 → (s.owner o).frozen = false → (s.owner o).freezing = none → exec (.mgmtFreeze o) s =
        .next (s.setOwner o { s.owner o with freezing := some 0x80, causes := (s.owner o).causes ++ [0x80] })) ∧
      (o ≠ 0 → (s.owner o).frozen = true → (s.owner o).inScrub = false → exec (.mgmtRelease o) s = .next (s.setOwner o { s.owner o with releasing := true })) ∧
      ((s.owner o).frozen = true → o = 0 ∨ (s.owner o).desc.debug = true →
        (reg < 16 → s.threads.find? (fun t => t.pl == ⟨o, core / 128, core % 128⟩ && t.row == row && t.evicted.isNone) = some x →
          Next (exec (.mgmtReadreg o core row reg) s) (fun t => SameBytes s t ∧ t.host.sent = s.host.sent ++ [.debug o (leBytes 8 (x.s[Fin.ofNat 16 reg]).toNat)] ∧
            (EvRoom s → ∃ e ∈ t.trust.events, e.ty = 0x33 ∧ e.o = o))) ∧
        (r.recovery = false → s.region ⟨o, 0, 0⟩ (BitVec.ofNat 48 addr) = .scr ⟨o, 0, i⟩ off → off + len ≤ 65536 →
          Next (exec (.mgmtReadmem o addr len) s) (fun t => SameBytes s t ∧ t.host.sent = s.host.sent ++ [.debug o (s.mem.read (scrKey ⟨o, 0, i⟩ off) len)] ∧
            (EvRoom s → ∃ e ∈ t.trust.events, e.ty = 0x33 ∧ e.o = o)))) ∧
      (r.recovery = true → exec (.mgmtReadmem o addr len) s = .next { s with host := { s.host with sent := s.host.sent ++ [.debug o (s.mailbox addr len)] } }) ∧
      ((s.owner o).frozen = false → ∀ j, j = Instr.mgmtReadreg o core row reg ∨ (r.recovery = false ∧ j = Instr.mgmtReadmem o addr len) →
        exec j s = .next { s with host := { s.host with sent := s.host.sent ++ [.debugNo o] } }))

/-! ### The whole machine -/

/-- R69, R83 to R92: every assigned instruction that stands for its own word, under every guard, wait and pair bit, has a word, and that word decodes to it. -/
def Obligations.DecodeUndoesEncode : Prop :=
  ∀ x : Decoded, x.i.assigned = true → x.i.canonical = true → ∃ w, encode x = some w ∧ decodeWord w = .ok x

/-- R69, R79: whatever decodes is an assigned instruction with a word of its own, and the decoder reads its guard, wait and pair fields from bits 23 to 20, 30 and 31. -/
def Obligations.DecodedTermsAreAssigned : Prop :=
  ∀ (w : BitVec 32) (x : Decoded), decodeWord w = .ok x →
    x.i.assigned = true ∧ x.i.canonical = true ∧ x.i.hasWord = true ∧
    x.g = w.extractLsb' 20 4 ∧ x.w = w.getLsbD 30 ∧ x.p = w.getLsbD 31

/-- R69 to R93: words written out from the maps decode to what they stand for, and words that the maps leave out are refused. -/
def Obligations.WordsDecode : Prop :=
  decodeWord 0x2971042F = .ok { p := false, w := false, g := 7, i := .li 1 1071 } ∧
  decodeWord 0x20712300 = .ok { p := false, w := false, g := 7, i := .add 1 2 3 } ∧
  decodeWord 0x82700004 = .ok { p := true, w := false, g := 7, i := .call 4 } ∧
  decodeWord 0x0410D001 = .ok { p := false, w := false, g := 1, i := .ret 13 } ∧
  decodeWord 0x011FFFFB = .ok { p := false, w := false, g := 1, i := .br 0xFFFFB } ∧
  decodeWord 0x2D712000 = .ok { p := false, w := false, g := 7, i := .cmpiNe 1 2 0 } ∧
  decodeWord 0x04700007 = .ok { p := false, w := false, g := 7, i := .rte } ∧
  decodeWord 0x3F000000 = .ok { p := false, w := false, g := 0, i := .nop 0 } ∧
  decodeWord 0x32712309 = .ok { p := false, w := false, g := 7, i := .vadd 1 2 3 .f32 } ∧
  decodeWord 0x5C701000 = .ok { p := false, w := true, g := 7, i := .tlbinv 1 } ∧
  decodeWord 0x36000000 = .error .major ∧ decodeWord 0 = .error .major ∧ decodeWord 0x04700009 = .error .function

/-- R54, R68, R70 to R74: where the bytes at the PC form a bundle whose words all decode and pass every check, a step performs that bundle: its sources are read, the
PC moves past its words, the words run in order with their guards, W takes effect, and the turn ends. -/
def Obligations.StepRunsDecoded : Prop :=
  ∀ (s : State) (b : Bundle),
    s.clk.ctl = .issue → s.me.strm = none → s.me.next = none → s.me.region = none →
    s.fetchBundle s.me.pl s.me.pc = .ok b → firstWord wordSub 0 b.ws = none →
    let s0 : State := { s with clk := { s.clk with ctl := .pick } }
    s0.formFault b.b (decoded b.ws) = none →
      let s1 := ((s0.readPending).latch b.b (4 * (decoded b.ws).length) s0.sources).setPc (b.b + BitVec.ofNat 48 (4 * (decoded b.ws).length))
      step s = State.turnDone s.me.pl (s.me.slot.getD 0) false
        (match s1.performBundle (decoded b.ws) with
         | .next t => .next (t.afterBundle none (waits (decoded b.ws)))
         | r => r) ∧
      (∀ d, decoded b.ws = [d] → s1.performBundle [d] = (match (if guardOn s0.sources.pw d.g then exec d.i s1 else .next s1) with
        | .next t => .next t
        | r => r))

/-- R423, R60: what reset leaves. The values that the spec gives: q7, MIGT.THRESH, and the registers whose maps state a Reset value; every list of what runs is empty.
That registers without a stated value, and memory, hold zero is the model's choice (log 6, log 27). -/
def Obligations.ResetValues : Prop :=
  let t := State.reset
  t.me.pw = 0x80 ∧ t.me.thresh = 1 ∧ t.threads = [] ∧ t.net = [] ∧ t.cmds = [] ∧ t.tlb = [] ∧ t.wcache = [] ∧ t.l1 = [] ∧ t.slices = [] ∧ t.caps = [] ∧ t.trust.keys = [] ∧
  t.regs.rotiv = 80 ∧ t.regs.wlim = 10000 ∧ t.regs.pscfg = 0x8000000000001000 ∧ t.regs.metcfg = 0x8000000000002580 ∧
  t.trust.power = true ∧ t.trust.boot = true ∧ t.clk.quartz = 0 ∧ (∀ a, t.mem.getB a = 0) ∧ ∀ o, t.enabled o = false

/-- Memory stands in its canonical form at reset. -/
def Obligations.ResetMemoryOk : Prop := Safety.MemOk State.reset

/-- Every step keeps memory in its canonical form. -/
def Obligations.StepKeepsMemoryOk : Prop :=
  ∀ s t : State, Safety.MemOk s → step s = .next t → Safety.MemOk t

/-- Every instruction and every event answers a next state from every state: none stops the machine. -/
def Obligations.EveryMeaningAnswersNext : Prop :=
  ∀ (i : Instr) (s : State), ∃ t, exec i s = .next t

/-- R423: a step is refused never, and it stops only where the device has no power and no input waits; that a device without power stops there is the model's choice (log 77). -/
def Obligations.StepStopsOnlyUnpowered : Prop :=
  ∀ s : State, (∃ t, step s = .next t) ∨
    (step s = .fault .unpowered ∧ s.clk.ctl = .pick ∧ s.clk.inputs = [] ∧ s.trust.power = false)

/-- R93, R115, R350: whatever a thread below the monitor level executes, the registers of the monitor, the owners' records but for their metering counters, the rotation, the host port, the trust
unit, the columns and the capability tables stay as they were. -/
def Obligations.UserCodeLeavesMonitorState : Prop :=
  ∀ (i : Instr) (s t : State),
    s.me.pl.o ≠ 0 → i.hasWord = true → instrIsMonitor i = false → exec i s = .next t →
      t.regs = s.regs ∧ (∀ o, t.owner o = { s.owner o with meter := (t.owner o).meter }) ∧ t.rot = s.rot ∧ t.host = s.host ∧ t.trust = s.trust ∧ t.cols = s.cols ∧ t.caps = s.caps
end

