-- ==== Sys2Proof/Laws/Memory.lean ====
section
/-! SUPPORT. Memory: the canonical form is kept by every operation on memory, a read after a write, and what an operation leaves alone. -/

namespace Sys2Proof.Laws

open Sys2Proof.Machine

/-! ### The list of cells -/

/-- A read after a write: the written address gives the byte written, every other address what it gave. -/
theorem cellsGet_cellsSet (cs : List Host.Cell) (a k : Nat) (b : Byte) (lo : Option Nat) (h : cellsWfFrom lo cs = true) :
    cellsGet (cellsSet cs a b) k = if k = a then b else cellsGet cs k := by
  induction cs generalizing lo with
  | nil => simp only [cellsSet]; split <;> simp_all [cellsGet, unlisted]; simp [eq_comm]
  | cons c cs ih =>
    obtain ⟨i, x⟩ := c
    simp only [cellsWfFrom, Bool.and_eq_true] at h
    have gone : ∀ l, cellsWfFrom (some l) cs = true → ∀ k, k ≤ l → cellsGet cs k = unlisted k := by
      clear ih h
      induction cs with
      | nil => intro l _ k _; rfl
      | cons d ds ih =>
        intro l hl k hk
        obtain ⟨j, y⟩ := d
        simp only [cellsWfFrom, Bool.and_eq_true, decide_eq_true_eq] at hl
        simp only [cellsGet, if_neg (show ¬j = k by omega)]
        exact ih j hl.2 k (by omega)
    simp only [cellsSet]
    split
    · rename_i hlt
      have ha : cellsGet ((i, x) :: cs) a = unlisted a := by
        simp only [cellsGet, if_neg (show ¬i = a by omega)]; exact gone i h.2 a (by omega)
      split
      · rename_i hb; split
        · rename_i hk; rw [hk, ha, hb]
        · rfl
      · rw [show cellsGet ((a, b) :: (i, x) :: cs) k = if a = k then b else cellsGet ((i, x) :: cs) k from rfl]; simp [eq_comm]
    · split
      · rename_i hlt heq
        subst heq
        split
        · rename_i hb; split
          · rename_i hk; rw [hk, gone a h.2 a (by omega), hb]
          · rename_i hk; simp only [cellsGet, if_neg (show ¬a = k from fun e => hk e.symm)]
        · simp only [cellsGet]; by_cases hk : k = a
          · simp [hk]
          · rw [if_neg (show ¬a = k from fun e => hk e.symm), if_neg hk, if_neg (show ¬a = k from fun e => hk e.symm)]
      · simp only [cellsGet, ih _ h.2]
        by_cases hi : i = k
        · simp only [if_pos hi]; rw [if_neg (by omega)]
        · simp only [if_neg hi]

/-- A write keeps the canonical form. -/
theorem cellsSet_wf (cs : List Host.Cell) (a : Nat) (b : Byte) :
    ∀ lo : Option Nat, cellsWfFrom lo cs = true → (∀ l, lo = some l → l < a) → cellsWfFrom lo (cellsSet cs a b) = true := by
  induction cs with
  | nil =>
    intro lo _ hl
    simp only [cellsSet]; split
    · rfl
    · cases lo with
      | none => simp_all [cellsWfFrom]
      | some l => simp_all [cellsWfFrom]
  | cons c cs ih =>
    obtain ⟨i, x⟩ := c
    intro lo h hl
    have weaken : ∀ p q : Nat, p ≤ q → ∀ ds, cellsWfFrom (some q) ds = true → cellsWfFrom (some p) ds = true := by
      intro p q hpq ds hd
      cases ds with
      | nil => rfl
      | cons d ds => simp only [cellsWfFrom, Bool.and_eq_true, decide_eq_true_eq] at hd ⊢; exact ⟨⟨by omega, hd.1.2⟩, hd.2⟩
    have drop : cellsWfFrom (some i) cs = true → cellsWfFrom lo cs = true := by
      intro hc
      cases lo with
      | none => cases cs with
        | nil => rfl
        | cons d ds => simp only [cellsWfFrom, Bool.and_eq_true] at hc ⊢; exact ⟨⟨trivial, hc.1.2⟩, hc.2⟩
      | some l => simp only [cellsWfFrom, Bool.and_eq_true, decide_eq_true_eq] at h; exact weaken l i (by omega) cs hc
    have h' := h
    simp only [cellsWfFrom, Bool.and_eq_true] at h'
    have here : ∀ z : Byte, ¬z = unlisted a → ∀ ds, cellsWfFrom (some a) ds = true → cellsWfFrom lo ((a, z) :: ds) = true := by
      intro z hz ds hd
      simp only [cellsWfFrom, Bool.and_eq_true]
      refine ⟨⟨?_, by simpa using hz⟩, hd⟩
      cases lo with
      | none => rfl
      | some l => simpa using hl l rfl
    simp only [cellsSet]
    split
    · rename_i hlt; split
      · exact h
      · rename_i hb; apply here b hb
        simp only [cellsWfFrom, Bool.and_eq_true, decide_eq_true_eq]; exact ⟨⟨hlt, h'.1.2⟩, h'.2⟩
    · split
      · rename_i heq; subst heq; split
        · exact drop h'.2
        · rename_i hb; exact here b hb cs h'.2
      · rename_i h1 h2
        simp only [cellsWfFrom, Bool.and_eq_true]
        exact ⟨h'.1, ih (some i) h'.2 (by intro l e; injection e with e; omega)⟩

/-- Dropping cells keeps the canonical form. -/
theorem cellsFilter_wf (p : Host.Cell → Bool) (cs : List Host.Cell) : ∀ lo, cellsWfFrom lo cs = true → cellsWfFrom lo (cs.filter p) = true := by
  induction cs with
  | nil => exact fun _ _ => rfl
  | cons c cs ih =>
    obtain ⟨i, x⟩ := c
    intro lo h
    have h' := h
    simp only [cellsWfFrom, Bool.and_eq_true] at h'
    rw [List.filter_cons]
    split
    · simp only [cellsWfFrom, Bool.and_eq_true]; exact ⟨h'.1, ih _ h'.2⟩
    · apply ih
      cases cs with
      | nil => rfl
      | cons d ds =>
        have h2 := h'.2
        simp only [cellsWfFrom, Bool.and_eq_true, decide_eq_true_eq] at h2
        simp only [cellsWfFrom, Bool.and_eq_true]
        refine ⟨⟨?_, h2.1.2⟩, h2.2⟩
        cases lo with
        | none => rfl
        | some l => have := h'.1.1; simp only [decide_eq_true_eq] at this ⊢; omega

/-- A dropped cell reads as unlisted, a kept one as before. -/
theorem cellsGet_filter (p : Nat → Bool) (cs : List Host.Cell) (a : Nat) :
    cellsGet (cs.filter (fun c => p c.1)) a = if p a then cellsGet cs a else unlisted a := by
  induction cs with
  | nil => simp [cellsGet]
  | cons c cs ih =>
    obtain ⟨i, x⟩ := c
    rw [List.filter_cons]
    by_cases hi : i = a
    · subst hi; cases hp : p i <;> simp_all [cellsGet]
    · cases hp : p i <;> simp_all [cellsGet]

/-! ### Memory -/

/-- Reset memory has the canonical form. -/
theorem empty_wf : ({} : Mem).wf = true := rfl
/-- A byte written keeps the canonical form. -/
theorem setB_wf (m : Mem) (a : Nat) (b : Byte) (h : m.wf = true) : (m.setB a b).wf = true := cellsSet_wf m.cells a b none h nofun
/-- A run of bytes written keeps the canonical form. -/
theorem write_wf (bs : List Byte) : ∀ (m : Mem) (a : Nat), m.wf = true → (m.write a bs).wf = true := by
  induction bs with
  | nil => exact fun _ _ h => h
  | cons b bs ih => exact fun m a h => ih _ _ (setB_wf m a b h)
/-- Clearing a range keeps the canonical form. -/
theorem clear_wf (m : Mem) (lo n : Nat) (h : m.wf = true) : (m.clear lo n).wf = true := cellsFilter_wf _ m.cells none h
/-- Only cells bear on the canonical form. -/
theorem wf_congr {m n : Mem} (h : n.cells = m.cells) : n.wf = m.wf := by unfold Mem.wf; rw [h]

/-- A read after a write of one byte. -/
theorem getB_setB (m : Mem) (a k : Nat) (b : Byte) (h : m.wf = true) : (m.setB a b).getB k = if k = a then b else m.getB k :=
  cellsGet_cellsSet m.cells a k b none h
/-- A read after a write of a run of bytes. -/
theorem getB_write (bs : List Byte) : ∀ (m : Mem) (a k : Nat), m.wf = true →
    (m.write a bs).getB k = if a ≤ k ∧ k < a + bs.length then bs.getD (k - a) 0 else m.getB k := by
  induction bs with
  | nil => intro m a k _; rw [if_neg (by simp)]; rfl
  | cons b bs ih =>
    intro m a k h
    rw [Mem.write, ih _ _ _ (setB_wf m a b h), getB_setB m a k b h]
    by_cases hk : k = a
    · subst hk; simp
    · by_cases hin : a + 1 ≤ k ∧ k < a + 1 + bs.length
      · rw [if_pos hin, if_pos (by simp; omega), show k - a = (k - (a + 1)) + 1 by omega]; rfl
      · rw [if_neg hin, if_neg hk, if_neg (by simp; omega)]
/-- A cleared byte reads as unlisted, and every other as before. -/
theorem getB_clear (m : Mem) (lo n k : Nat) : (m.clear lo n).getB k = if lo ≤ k ∧ k < lo + n then 0 else m.getB k := by
  unfold Mem.getB Mem.clear
  rw [cellsGet_filter (fun c => !(decide (lo ≤ c) && decide (c < lo + n)))]
  by_cases h : lo ≤ k ∧ k < lo + n
  · simp [h, unlisted]
  · rw [if_neg h, if_pos]; simp; omega
/-- A read of n bytes is the n bytes from there on. -/
theorem read_eq (m : Mem) (n : Nat) : ∀ a, m.read a n = (List.range n).map (fun i => m.getB (a + i)) := by
  induction n with
  | zero => exact fun _ => rfl
  | succ n ih =>
    intro a
    rw [Mem.read, ih, List.range_succ_eq_map, List.map_cons, List.map_map]
    congr 1
    apply List.map_congr_left
    intro i _
    simp only [Function.comp]; congr 1; omega
@[simp] theorem read_length (m : Mem) (a n : Nat) : (m.read a n).length = n := by rw [read_eq]; simp
/-- Writing then reading the same run gives the bytes. -/
theorem read_write (m : Mem) (a : Nat) (bs : List Byte) (h : m.wf = true) : (m.write a bs).read a bs.length = bs := by
  rw [read_eq]
  apply List.ext_getElem
  · simp
  · intro i h1 h2
    rw [List.getElem_map, List.getElem_range, getB_write bs m a (a + i) h, if_pos (by omega), Nat.add_sub_cancel_left]
    simp [List.getD_eq_getElem?_getD, h2]
/-- A run outside what was written reads as before. -/
theorem read_write_other (m : Mem) (a k n : Nat) (bs : List Byte) (h : m.wf = true) (hd : k + n ≤ a ∨ a + bs.length ≤ k) : (m.write a bs).read k n = m.read k n := by
  rw [read_eq, read_eq]
  apply List.map_congr_left
  intro i hi
  rw [List.mem_range] at hi
  rw [getB_write bs m a (k + i) h, if_neg (by omega)]

/-- Two memories in canonical form that read alike hold the same cells: the form is one. -/
theorem cells_ext (cs : List Host.Cell) : ∀ (lo : Option Nat) (ds : List Host.Cell), cellsWfFrom lo cs = true → cellsWfFrom lo ds = true →
    (∀ a, cellsGet cs a = cellsGet ds a) → cs = ds := by
  have gone : ∀ (cs : List Host.Cell) l, cellsWfFrom (some l) cs = true → ∀ k, k ≤ l → cellsGet cs k = unlisted k := by
    intro cs
    induction cs with
    | nil => intro l _ k _; rfl
    | cons d ds ih =>
      intro l hl k hk
      obtain ⟨j, y⟩ := d
      simp only [cellsWfFrom, Bool.and_eq_true, decide_eq_true_eq] at hl
      simp only [cellsGet, if_neg (show ¬j = k by omega)]
      exact ih j hl.2 k (by omega)
  induction cs with
  | nil =>
    intro lo ds _ hd he
    cases ds with
    | nil => rfl
    | cons d ds =>
      obtain ⟨j, y⟩ := d
      simp only [cellsWfFrom, Bool.and_eq_true] at hd
      have := he j; simp [cellsGet] at this; simp [this] at hd
  | cons c cs ih =>
    intro lo ds hc hd he
    obtain ⟨i, x⟩ := c
    simp only [cellsWfFrom, Bool.and_eq_true] at hc
    cases ds with
    | nil => have := he i; simp [cellsGet] at this; simp [this] at hc
    | cons d ds =>
      obtain ⟨j, y⟩ := d
      simp only [cellsWfFrom, Bool.and_eq_true] at hd
      have hij : i = j := by
        rcases Nat.lt_trichotomy i j with h | h | h
        · have e := he i
          simp only [cellsGet, if_neg (show ¬j = i by omega), gone ds j hd.2 i (by omega), if_true] at e; simp [e] at hc
        · exact h
        · have e := he j
          simp only [cellsGet, if_neg (show ¬i = j by omega), gone cs i hc.2 j (by omega), if_true] at e; simp [← e] at hd
      subst hij
      have hxy : x = y := by have e := he i; simpa [cellsGet] using e
      subst hxy
      congr 1
      apply ih (some i) ds hc.2 hd.2
      intro a
      by_cases ha : a ≤ i
      · rw [gone cs i hc.2 a ha, gone ds i hd.2 a ha]
      · have e := he a; simpa [cellsGet, show ¬i = a by omega] using e

/-! ### What marks and tags leave alone -/

@[simp] theorem setPoison_cells (m : Mem) (a : Nat) : (m.setPoison a).cells = m.cells := rfl
@[simp] theorem clrPoison_cells (m : Mem) (a : Nat) : (m.clrPoison a).cells = m.cells := rfl
@[simp] theorem setF_cells (m : Mem) (a : Nat) (x : Bool) : (m.setF a x).cells = m.cells := rfl
@[simp] theorem setTag_cells (m : Mem) (a : Nat) (t : BitVec 16) : (m.setTag a t).cells = m.cells := rfl
@[simp] theorem setPoison_wf (m : Mem) (a : Nat) : (m.setPoison a).wf = m.wf := rfl
@[simp] theorem clrPoison_wf (m : Mem) (a : Nat) : (m.clrPoison a).wf = m.wf := rfl
@[simp] theorem setF_wf (m : Mem) (a : Nat) (x : Bool) : (m.setF a x).wf = m.wf := rfl
@[simp] theorem setTag_wf (m : Mem) (a : Nat) (t : BitVec 16) : (m.setTag a t).wf = m.wf := rfl
theorem setB_frame (m : Mem) (a : Nat) (b : Byte) : m.setB a b = { m with cells := (m.setB a b).cells } := rfl
/-- A write changes bytes and nothing else of memory. -/
theorem write_frame (bs : List Byte) : ∀ (m : Mem) (a : Nat), m.write a bs = { m with cells := (m.write a bs).cells } := by
  induction bs with
  | nil => exact fun _ _ => rfl
  | cons b bs ih => intro m a; rw [Mem.write, ih]; rfl
@[simp] theorem write_poison (m : Mem) (a : Nat) (bs : List Byte) : (m.write a bs).poison = m.poison := by rw [write_frame]
@[simp] theorem write_fbit (m : Mem) (a : Nat) (bs : List Byte) : (m.write a bs).fbit = m.fbit := by rw [write_frame]
@[simp] theorem write_tags (m : Mem) (a : Nat) (bs : List Byte) : (m.write a bs).tags = m.tags := by rw [write_frame]
@[simp] theorem write_resv (m : Mem) (a : Nat) (bs : List Byte) : (m.write a bs).resv = m.resv := by rw [write_frame]
@[simp] theorem write_code (m : Mem) (a : Nat) (bs : List Byte) : (m.write a bs).code = m.code := by rw [write_frame]

/-! ### Marks -/

theorem mem_setIns (ks : List Nat) (a k : Nat) : k ∈ setIns ks a ↔ k = a ∨ k ∈ ks := by
  induction ks with
  | nil => simp [setIns]
  | cons i ks ih =>
    simp only [setIns]; split
    · simp
    · split
      · rename_i h; subst h; simp
      · simp only [List.mem_cons, ih]; tauto
/-- A sector marked is poisoned, and no other sector's mark changes. -/
theorem poisoned_setPoison (m : Mem) (a k : Nat) : (m.setPoison a).poisoned k = (decide (k / 128 = a / 128) || m.poisoned k) := by
  unfold Mem.poisoned Mem.setPoison
  rw [Bool.eq_iff_iff]; simp [mem_setIns]
theorem poisoned_clrPoison (m : Mem) (a k : Nat) : (m.clrPoison a).poisoned k = (m.poisoned k && !decide (k / 128 = a / 128)) := by
  unfold Mem.poisoned Mem.clrPoison setDel
  rw [Bool.eq_iff_iff]; simp
/-- The F bit of a doubleword after it is set. -/
theorem f_setF (m : Mem) (a k : Nat) (x : Bool) : (m.setF a x).f k = if k / 8 = a / 8 then x else m.f k := by
  unfold Mem.f Mem.setF setDel
  cases x
  · simp only [Bool.false_eq_true, if_false]; split <;> rename_i h <;> rw [Bool.eq_iff_iff] <;> simp [h]
  · simp only [if_true]; split <;> rename_i h <;> rw [Bool.eq_iff_iff] <;> simp [mem_setIns, h]
theorem alGet_alSet {β : Type} (d x : β) (k i : Nat) (xs : List (Nat × β)) : alGet d i (alSet k x xs) = if i = k then x else alGet d i xs := by
  induction xs with
  | nil => simp only [alSet, alGet, eq_comm]
  | cons y ys ih =>
    obtain ⟨j, z⟩ := y
    simp only [alSet]
    split
    · rename_i h; subst h; simp only [alGet]
      by_cases h : i = j
      · simp [h]
      · rw [if_neg (show ¬j = i from fun e => h e.symm), if_neg h, if_neg (show ¬j = i from fun e => h e.symm)]
    · rename_i h; simp only [alGet, ih]
      by_cases h2 : j = i
      · subst h2; simp [h]
      · simp [h2]
/-- The tag of a block after it is set. -/
theorem tag_setTag (m : Mem) (a k : Nat) (t : BitVec 16) : (m.setTag a t).tag k = if k / 1024 = a / 1024 then t else m.tag k := alGet_alSet _ _ _ _ _

end Sys2Proof.Laws
end

