-- ==== Sys2Proof/Laws/State.lean ====
section
/-! SUPPORT. State: what each update of a field leaves and sets, one lemma per field, so that no proof unfolds a record update. -/

namespace Sys2Proof.Machine

namespace State

@[simp] theorem setOwner_clk (s : State) (o : Nat) (x : Owner) : (s.setOwner o x).clk = s.clk := rfl
@[simp] theorem setOwner_me (s : State) (o : Nat) (x : Owner) : (s.setOwner o x).me = s.me := rfl
@[simp] theorem setOwner_iss (s : State) (o : Nat) (x : Owner) : (s.setOwner o x).iss = s.iss := rfl
@[simp] theorem setOwner_threads (s : State) (o : Nat) (x : Owner) : (s.setOwner o x).threads = s.threads := rfl
@[simp] theorem setOwner_mem (s : State) (o : Nat) (x : Owner) : (s.setOwner o x).mem = s.mem := rfl
@[simp] theorem setOwner_net (s : State) (o : Nat) (x : Owner) : (s.setOwner o x).net = s.net := rfl
@[simp] theorem setOwner_sfu (s : State) (o : Nat) (x : Owner) : (s.setOwner o x).sfu = s.sfu := rfl
@[simp] theorem setOwner_walks (s : State) (o : Nat) (x : Owner) : (s.setOwner o x).walks = s.walks := rfl
@[simp] theorem setOwner_tlb (s : State) (o : Nat) (x : Owner) : (s.setOwner o x).tlb = s.tlb := rfl
@[simp] theorem setOwner_wcache (s : State) (o : Nat) (x : Owner) : (s.setOwner o x).wcache = s.wcache := rfl
@[simp] theorem setOwner_l1 (s : State) (o : Nat) (x : Owner) : (s.setOwner o x).l1 = s.l1 := rfl
@[simp] theorem setOwner_cores (s : State) (o : Nat) (x : Owner) : (s.setOwner o x).cores = s.cores := rfl
@[simp] theorem setOwner_engines (s : State) (o : Nat) (x : Owner) : (s.setOwner o x).engines = s.engines := rfl
@[simp] theorem setOwner_caps (s : State) (o : Nat) (x : Owner) : (s.setOwner o x).caps = s.caps := rfl
@[simp] theorem setOwner_cmds (s : State) (o : Nat) (x : Owner) : (s.setOwner o x).cmds = s.cmds := rfl
@[simp] theorem setOwner_graph (s : State) (o : Nat) (x : Owner) : (s.setOwner o x).graph = s.graph := rfl
@[simp] theorem setOwner_owners (s : State) (o : Nat) (x : Owner) : (s.setOwner o x).owners = s.owners.set (Fin.ofNat 16 o) x := rfl
@[simp] theorem setOwner_regs (s : State) (o : Nat) (x : Owner) : (s.setOwner o x).regs = s.regs := rfl
@[simp] theorem setOwner_rot (s : State) (o : Nat) (x : Owner) : (s.setOwner o x).rot = s.rot := rfl
@[simp] theorem setOwner_flash (s : State) (o : Nat) (x : Owner) : (s.setOwner o x).flash = s.flash := rfl
@[simp] theorem setOwner_cols (s : State) (o : Nat) (x : Owner) : (s.setOwner o x).cols = s.cols := rfl
@[simp] theorem setOwner_slices (s : State) (o : Nat) (x : Owner) : (s.setOwner o x).slices = s.slices := rfl
@[simp] theorem setOwner_host (s : State) (o : Nat) (x : Owner) : (s.setOwner o x).host = s.host := rfl
@[simp] theorem setOwner_trust (s : State) (o : Nat) (x : Owner) : (s.setOwner o x).trust = s.trust := rfl
@[simp] theorem modOwner_clk (s : State) (o : Nat) (f : Owner → Owner) : (s.modOwner o f).clk = s.clk := rfl
@[simp] theorem modOwner_me (s : State) (o : Nat) (f : Owner → Owner) : (s.modOwner o f).me = s.me := rfl
@[simp] theorem modOwner_iss (s : State) (o : Nat) (f : Owner → Owner) : (s.modOwner o f).iss = s.iss := rfl
@[simp] theorem modOwner_threads (s : State) (o : Nat) (f : Owner → Owner) : (s.modOwner o f).threads = s.threads := rfl
@[simp] theorem modOwner_mem (s : State) (o : Nat) (f : Owner → Owner) : (s.modOwner o f).mem = s.mem := rfl
@[simp] theorem modOwner_net (s : State) (o : Nat) (f : Owner → Owner) : (s.modOwner o f).net = s.net := rfl
@[simp] theorem modOwner_sfu (s : State) (o : Nat) (f : Owner → Owner) : (s.modOwner o f).sfu = s.sfu := rfl
@[simp] theorem modOwner_walks (s : State) (o : Nat) (f : Owner → Owner) : (s.modOwner o f).walks = s.walks := rfl
@[simp] theorem modOwner_tlb (s : State) (o : Nat) (f : Owner → Owner) : (s.modOwner o f).tlb = s.tlb := rfl
@[simp] theorem modOwner_wcache (s : State) (o : Nat) (f : Owner → Owner) : (s.modOwner o f).wcache = s.wcache := rfl
@[simp] theorem modOwner_l1 (s : State) (o : Nat) (f : Owner → Owner) : (s.modOwner o f).l1 = s.l1 := rfl
@[simp] theorem modOwner_cores (s : State) (o : Nat) (f : Owner → Owner) : (s.modOwner o f).cores = s.cores := rfl
@[simp] theorem modOwner_engines (s : State) (o : Nat) (f : Owner → Owner) : (s.modOwner o f).engines = s.engines := rfl
@[simp] theorem modOwner_caps (s : State) (o : Nat) (f : Owner → Owner) : (s.modOwner o f).caps = s.caps := rfl
@[simp] theorem modOwner_cmds (s : State) (o : Nat) (f : Owner → Owner) : (s.modOwner o f).cmds = s.cmds := rfl
@[simp] theorem modOwner_graph (s : State) (o : Nat) (f : Owner → Owner) : (s.modOwner o f).graph = s.graph := rfl
@[simp] theorem modOwner_owners (s : State) (o : Nat) (f : Owner → Owner) : (s.modOwner o f).owners = s.owners.set (Fin.ofNat 16 o) (f (s.owner o)) := rfl
@[simp] theorem modOwner_regs (s : State) (o : Nat) (f : Owner → Owner) : (s.modOwner o f).regs = s.regs := rfl
@[simp] theorem modOwner_rot (s : State) (o : Nat) (f : Owner → Owner) : (s.modOwner o f).rot = s.rot := rfl
@[simp] theorem modOwner_flash (s : State) (o : Nat) (f : Owner → Owner) : (s.modOwner o f).flash = s.flash := rfl
@[simp] theorem modOwner_cols (s : State) (o : Nat) (f : Owner → Owner) : (s.modOwner o f).cols = s.cols := rfl
@[simp] theorem modOwner_slices (s : State) (o : Nat) (f : Owner → Owner) : (s.modOwner o f).slices = s.slices := rfl
@[simp] theorem modOwner_host (s : State) (o : Nat) (f : Owner → Owner) : (s.modOwner o f).host = s.host := rfl
@[simp] theorem modOwner_trust (s : State) (o : Nat) (f : Owner → Owner) : (s.modOwner o f).trust = s.trust := rfl
@[simp] theorem modRegs_clk (s : State) (f : MonRegs → MonRegs) : (s.modRegs f).clk = s.clk := rfl
@[simp] theorem modRegs_me (s : State) (f : MonRegs → MonRegs) : (s.modRegs f).me = s.me := rfl
@[simp] theorem modRegs_iss (s : State) (f : MonRegs → MonRegs) : (s.modRegs f).iss = s.iss := rfl
@[simp] theorem modRegs_threads (s : State) (f : MonRegs → MonRegs) : (s.modRegs f).threads = s.threads := rfl
@[simp] theorem modRegs_mem (s : State) (f : MonRegs → MonRegs) : (s.modRegs f).mem = s.mem := rfl
@[simp] theorem modRegs_net (s : State) (f : MonRegs → MonRegs) : (s.modRegs f).net = s.net := rfl
@[simp] theorem modRegs_sfu (s : State) (f : MonRegs → MonRegs) : (s.modRegs f).sfu = s.sfu := rfl
@[simp] theorem modRegs_walks (s : State) (f : MonRegs → MonRegs) : (s.modRegs f).walks = s.walks := rfl
@[simp] theorem modRegs_tlb (s : State) (f : MonRegs → MonRegs) : (s.modRegs f).tlb = s.tlb := rfl
@[simp] theorem modRegs_wcache (s : State) (f : MonRegs → MonRegs) : (s.modRegs f).wcache = s.wcache := rfl
@[simp] theorem modRegs_l1 (s : State) (f : MonRegs → MonRegs) : (s.modRegs f).l1 = s.l1 := rfl
@[simp] theorem modRegs_cores (s : State) (f : MonRegs → MonRegs) : (s.modRegs f).cores = s.cores := rfl
@[simp] theorem modRegs_engines (s : State) (f : MonRegs → MonRegs) : (s.modRegs f).engines = s.engines := rfl
@[simp] theorem modRegs_caps (s : State) (f : MonRegs → MonRegs) : (s.modRegs f).caps = s.caps := rfl
@[simp] theorem modRegs_cmds (s : State) (f : MonRegs → MonRegs) : (s.modRegs f).cmds = s.cmds := rfl
@[simp] theorem modRegs_graph (s : State) (f : MonRegs → MonRegs) : (s.modRegs f).graph = s.graph := rfl
@[simp] theorem modRegs_owners (s : State) (f : MonRegs → MonRegs) : (s.modRegs f).owners = s.owners := rfl
@[simp] theorem modRegs_regs (s : State) (f : MonRegs → MonRegs) : (s.modRegs f).regs = f s.regs := rfl
@[simp] theorem modRegs_rot (s : State) (f : MonRegs → MonRegs) : (s.modRegs f).rot = s.rot := rfl
@[simp] theorem modRegs_flash (s : State) (f : MonRegs → MonRegs) : (s.modRegs f).flash = s.flash := rfl
@[simp] theorem modRegs_cols (s : State) (f : MonRegs → MonRegs) : (s.modRegs f).cols = s.cols := rfl
@[simp] theorem modRegs_slices (s : State) (f : MonRegs → MonRegs) : (s.modRegs f).slices = s.slices := rfl
@[simp] theorem modRegs_host (s : State) (f : MonRegs → MonRegs) : (s.modRegs f).host = s.host := rfl
@[simp] theorem modRegs_trust (s : State) (f : MonRegs → MonRegs) : (s.modRegs f).trust = s.trust := rfl
@[simp] theorem modMem_clk (s : State) (f : Mem → Mem) : (s.modMem f).clk = s.clk := rfl
@[simp] theorem modMem_me (s : State) (f : Mem → Mem) : (s.modMem f).me = s.me := rfl
@[simp] theorem modMem_iss (s : State) (f : Mem → Mem) : (s.modMem f).iss = s.iss := rfl
@[simp] theorem modMem_threads (s : State) (f : Mem → Mem) : (s.modMem f).threads = s.threads := rfl
@[simp] theorem modMem_mem (s : State) (f : Mem → Mem) : (s.modMem f).mem = f s.mem := rfl
@[simp] theorem modMem_net (s : State) (f : Mem → Mem) : (s.modMem f).net = s.net := rfl
@[simp] theorem modMem_sfu (s : State) (f : Mem → Mem) : (s.modMem f).sfu = s.sfu := rfl
@[simp] theorem modMem_walks (s : State) (f : Mem → Mem) : (s.modMem f).walks = s.walks := rfl
@[simp] theorem modMem_tlb (s : State) (f : Mem → Mem) : (s.modMem f).tlb = s.tlb := rfl
@[simp] theorem modMem_wcache (s : State) (f : Mem → Mem) : (s.modMem f).wcache = s.wcache := rfl
@[simp] theorem modMem_l1 (s : State) (f : Mem → Mem) : (s.modMem f).l1 = s.l1 := rfl
@[simp] theorem modMem_cores (s : State) (f : Mem → Mem) : (s.modMem f).cores = s.cores := rfl
@[simp] theorem modMem_engines (s : State) (f : Mem → Mem) : (s.modMem f).engines = s.engines := rfl
@[simp] theorem modMem_caps (s : State) (f : Mem → Mem) : (s.modMem f).caps = s.caps := rfl
@[simp] theorem modMem_cmds (s : State) (f : Mem → Mem) : (s.modMem f).cmds = s.cmds := rfl
@[simp] theorem modMem_graph (s : State) (f : Mem → Mem) : (s.modMem f).graph = s.graph := rfl
@[simp] theorem modMem_owners (s : State) (f : Mem → Mem) : (s.modMem f).owners = s.owners := rfl
@[simp] theorem modMem_regs (s : State) (f : Mem → Mem) : (s.modMem f).regs = s.regs := rfl
@[simp] theorem modMem_rot (s : State) (f : Mem → Mem) : (s.modMem f).rot = s.rot := rfl
@[simp] theorem modMem_flash (s : State) (f : Mem → Mem) : (s.modMem f).flash = s.flash := rfl
@[simp] theorem modMem_cols (s : State) (f : Mem → Mem) : (s.modMem f).cols = s.cols := rfl
@[simp] theorem modMem_slices (s : State) (f : Mem → Mem) : (s.modMem f).slices = s.slices := rfl
@[simp] theorem modMem_host (s : State) (f : Mem → Mem) : (s.modMem f).host = s.host := rfl
@[simp] theorem modMem_trust (s : State) (f : Mem → Mem) : (s.modMem f).trust = s.trust := rfl
@[simp] theorem modGraph_clk (s : State) (f : Graph → Graph) : (s.modGraph f).clk = s.clk := rfl
@[simp] theorem modGraph_me (s : State) (f : Graph → Graph) : (s.modGraph f).me = s.me := rfl
@[simp] theorem modGraph_iss (s : State) (f : Graph → Graph) : (s.modGraph f).iss = s.iss := rfl
@[simp] theorem modGraph_threads (s : State) (f : Graph → Graph) : (s.modGraph f).threads = s.threads := rfl
@[simp] theorem modGraph_mem (s : State) (f : Graph → Graph) : (s.modGraph f).mem = s.mem := rfl
@[simp] theorem modGraph_net (s : State) (f : Graph → Graph) : (s.modGraph f).net = s.net := rfl
@[simp] theorem modGraph_sfu (s : State) (f : Graph → Graph) : (s.modGraph f).sfu = s.sfu := rfl
@[simp] theorem modGraph_walks (s : State) (f : Graph → Graph) : (s.modGraph f).walks = s.walks := rfl
@[simp] theorem modGraph_tlb (s : State) (f : Graph → Graph) : (s.modGraph f).tlb = s.tlb := rfl
@[simp] theorem modGraph_wcache (s : State) (f : Graph → Graph) : (s.modGraph f).wcache = s.wcache := rfl
@[simp] theorem modGraph_l1 (s : State) (f : Graph → Graph) : (s.modGraph f).l1 = s.l1 := rfl
@[simp] theorem modGraph_cores (s : State) (f : Graph → Graph) : (s.modGraph f).cores = s.cores := rfl
@[simp] theorem modGraph_engines (s : State) (f : Graph → Graph) : (s.modGraph f).engines = s.engines := rfl
@[simp] theorem modGraph_caps (s : State) (f : Graph → Graph) : (s.modGraph f).caps = s.caps := rfl
@[simp] theorem modGraph_cmds (s : State) (f : Graph → Graph) : (s.modGraph f).cmds = s.cmds := rfl
@[simp] theorem modGraph_graph (s : State) (f : Graph → Graph) : (s.modGraph f).graph = f s.graph := rfl
@[simp] theorem modGraph_owners (s : State) (f : Graph → Graph) : (s.modGraph f).owners = s.owners := rfl
@[simp] theorem modGraph_regs (s : State) (f : Graph → Graph) : (s.modGraph f).regs = s.regs := rfl
@[simp] theorem modGraph_rot (s : State) (f : Graph → Graph) : (s.modGraph f).rot = s.rot := rfl
@[simp] theorem modGraph_flash (s : State) (f : Graph → Graph) : (s.modGraph f).flash = s.flash := rfl
@[simp] theorem modGraph_cols (s : State) (f : Graph → Graph) : (s.modGraph f).cols = s.cols := rfl
@[simp] theorem modGraph_slices (s : State) (f : Graph → Graph) : (s.modGraph f).slices = s.slices := rfl
@[simp] theorem modGraph_host (s : State) (f : Graph → Graph) : (s.modGraph f).host = s.host := rfl
@[simp] theorem modGraph_trust (s : State) (f : Graph → Graph) : (s.modGraph f).trust = s.trust := rfl
@[simp] theorem modRot_clk (s : State) (f : Rot → Rot) : (s.modRot f).clk = s.clk := rfl
@[simp] theorem modRot_me (s : State) (f : Rot → Rot) : (s.modRot f).me = s.me := rfl
@[simp] theorem modRot_iss (s : State) (f : Rot → Rot) : (s.modRot f).iss = s.iss := rfl
@[simp] theorem modRot_threads (s : State) (f : Rot → Rot) : (s.modRot f).threads = s.threads := rfl
@[simp] theorem modRot_mem (s : State) (f : Rot → Rot) : (s.modRot f).mem = s.mem := rfl
@[simp] theorem modRot_net (s : State) (f : Rot → Rot) : (s.modRot f).net = s.net := rfl
@[simp] theorem modRot_sfu (s : State) (f : Rot → Rot) : (s.modRot f).sfu = s.sfu := rfl
@[simp] theorem modRot_walks (s : State) (f : Rot → Rot) : (s.modRot f).walks = s.walks := rfl
@[simp] theorem modRot_tlb (s : State) (f : Rot → Rot) : (s.modRot f).tlb = s.tlb := rfl
@[simp] theorem modRot_wcache (s : State) (f : Rot → Rot) : (s.modRot f).wcache = s.wcache := rfl
@[simp] theorem modRot_l1 (s : State) (f : Rot → Rot) : (s.modRot f).l1 = s.l1 := rfl
@[simp] theorem modRot_cores (s : State) (f : Rot → Rot) : (s.modRot f).cores = s.cores := rfl
@[simp] theorem modRot_engines (s : State) (f : Rot → Rot) : (s.modRot f).engines = s.engines := rfl
@[simp] theorem modRot_caps (s : State) (f : Rot → Rot) : (s.modRot f).caps = s.caps := rfl
@[simp] theorem modRot_cmds (s : State) (f : Rot → Rot) : (s.modRot f).cmds = s.cmds := rfl
@[simp] theorem modRot_graph (s : State) (f : Rot → Rot) : (s.modRot f).graph = s.graph := rfl
@[simp] theorem modRot_owners (s : State) (f : Rot → Rot) : (s.modRot f).owners = s.owners := rfl
@[simp] theorem modRot_regs (s : State) (f : Rot → Rot) : (s.modRot f).regs = s.regs := rfl
@[simp] theorem modRot_rot (s : State) (f : Rot → Rot) : (s.modRot f).rot = f s.rot := rfl
@[simp] theorem modRot_flash (s : State) (f : Rot → Rot) : (s.modRot f).flash = s.flash := rfl
@[simp] theorem modRot_cols (s : State) (f : Rot → Rot) : (s.modRot f).cols = s.cols := rfl
@[simp] theorem modRot_slices (s : State) (f : Rot → Rot) : (s.modRot f).slices = s.slices := rfl
@[simp] theorem modRot_host (s : State) (f : Rot → Rot) : (s.modRot f).host = s.host := rfl
@[simp] theorem modRot_trust (s : State) (f : Rot → Rot) : (s.modRot f).trust = s.trust := rfl
@[simp] theorem modFlash_clk (s : State) (f : Flash → Flash) : (s.modFlash f).clk = s.clk := rfl
@[simp] theorem modFlash_me (s : State) (f : Flash → Flash) : (s.modFlash f).me = s.me := rfl
@[simp] theorem modFlash_iss (s : State) (f : Flash → Flash) : (s.modFlash f).iss = s.iss := rfl
@[simp] theorem modFlash_threads (s : State) (f : Flash → Flash) : (s.modFlash f).threads = s.threads := rfl
@[simp] theorem modFlash_mem (s : State) (f : Flash → Flash) : (s.modFlash f).mem = s.mem := rfl
@[simp] theorem modFlash_net (s : State) (f : Flash → Flash) : (s.modFlash f).net = s.net := rfl
@[simp] theorem modFlash_sfu (s : State) (f : Flash → Flash) : (s.modFlash f).sfu = s.sfu := rfl
@[simp] theorem modFlash_walks (s : State) (f : Flash → Flash) : (s.modFlash f).walks = s.walks := rfl
@[simp] theorem modFlash_tlb (s : State) (f : Flash → Flash) : (s.modFlash f).tlb = s.tlb := rfl
@[simp] theorem modFlash_wcache (s : State) (f : Flash → Flash) : (s.modFlash f).wcache = s.wcache := rfl
@[simp] theorem modFlash_l1 (s : State) (f : Flash → Flash) : (s.modFlash f).l1 = s.l1 := rfl
@[simp] theorem modFlash_cores (s : State) (f : Flash → Flash) : (s.modFlash f).cores = s.cores := rfl
@[simp] theorem modFlash_engines (s : State) (f : Flash → Flash) : (s.modFlash f).engines = s.engines := rfl
@[simp] theorem modFlash_caps (s : State) (f : Flash → Flash) : (s.modFlash f).caps = s.caps := rfl
@[simp] theorem modFlash_cmds (s : State) (f : Flash → Flash) : (s.modFlash f).cmds = s.cmds := rfl
@[simp] theorem modFlash_graph (s : State) (f : Flash → Flash) : (s.modFlash f).graph = s.graph := rfl
@[simp] theorem modFlash_owners (s : State) (f : Flash → Flash) : (s.modFlash f).owners = s.owners := rfl
@[simp] theorem modFlash_regs (s : State) (f : Flash → Flash) : (s.modFlash f).regs = s.regs := rfl
@[simp] theorem modFlash_rot (s : State) (f : Flash → Flash) : (s.modFlash f).rot = s.rot := rfl
@[simp] theorem modFlash_flash (s : State) (f : Flash → Flash) : (s.modFlash f).flash = f s.flash := rfl
@[simp] theorem modFlash_cols (s : State) (f : Flash → Flash) : (s.modFlash f).cols = s.cols := rfl
@[simp] theorem modFlash_slices (s : State) (f : Flash → Flash) : (s.modFlash f).slices = s.slices := rfl
@[simp] theorem modFlash_host (s : State) (f : Flash → Flash) : (s.modFlash f).host = s.host := rfl
@[simp] theorem modFlash_trust (s : State) (f : Flash → Flash) : (s.modFlash f).trust = s.trust := rfl
@[simp] theorem modHost_clk (s : State) (f : HostPort → HostPort) : (s.modHost f).clk = s.clk := rfl
@[simp] theorem modHost_me (s : State) (f : HostPort → HostPort) : (s.modHost f).me = s.me := rfl
@[simp] theorem modHost_iss (s : State) (f : HostPort → HostPort) : (s.modHost f).iss = s.iss := rfl
@[simp] theorem modHost_threads (s : State) (f : HostPort → HostPort) : (s.modHost f).threads = s.threads := rfl
@[simp] theorem modHost_mem (s : State) (f : HostPort → HostPort) : (s.modHost f).mem = s.mem := rfl
@[simp] theorem modHost_net (s : State) (f : HostPort → HostPort) : (s.modHost f).net = s.net := rfl
@[simp] theorem modHost_sfu (s : State) (f : HostPort → HostPort) : (s.modHost f).sfu = s.sfu := rfl
@[simp] theorem modHost_walks (s : State) (f : HostPort → HostPort) : (s.modHost f).walks = s.walks := rfl
@[simp] theorem modHost_tlb (s : State) (f : HostPort → HostPort) : (s.modHost f).tlb = s.tlb := rfl
@[simp] theorem modHost_wcache (s : State) (f : HostPort → HostPort) : (s.modHost f).wcache = s.wcache := rfl
@[simp] theorem modHost_l1 (s : State) (f : HostPort → HostPort) : (s.modHost f).l1 = s.l1 := rfl
@[simp] theorem modHost_cores (s : State) (f : HostPort → HostPort) : (s.modHost f).cores = s.cores := rfl
@[simp] theorem modHost_engines (s : State) (f : HostPort → HostPort) : (s.modHost f).engines = s.engines := rfl
@[simp] theorem modHost_caps (s : State) (f : HostPort → HostPort) : (s.modHost f).caps = s.caps := rfl
@[simp] theorem modHost_cmds (s : State) (f : HostPort → HostPort) : (s.modHost f).cmds = s.cmds := rfl
@[simp] theorem modHost_graph (s : State) (f : HostPort → HostPort) : (s.modHost f).graph = s.graph := rfl
@[simp] theorem modHost_owners (s : State) (f : HostPort → HostPort) : (s.modHost f).owners = s.owners := rfl
@[simp] theorem modHost_regs (s : State) (f : HostPort → HostPort) : (s.modHost f).regs = s.regs := rfl
@[simp] theorem modHost_rot (s : State) (f : HostPort → HostPort) : (s.modHost f).rot = s.rot := rfl
@[simp] theorem modHost_flash (s : State) (f : HostPort → HostPort) : (s.modHost f).flash = s.flash := rfl
@[simp] theorem modHost_cols (s : State) (f : HostPort → HostPort) : (s.modHost f).cols = s.cols := rfl
@[simp] theorem modHost_slices (s : State) (f : HostPort → HostPort) : (s.modHost f).slices = s.slices := rfl
@[simp] theorem modHost_host (s : State) (f : HostPort → HostPort) : (s.modHost f).host = f s.host := rfl
@[simp] theorem modHost_trust (s : State) (f : HostPort → HostPort) : (s.modHost f).trust = s.trust := rfl
@[simp] theorem modTrust_clk (s : State) (f : Trust → Trust) : (s.modTrust f).clk = s.clk := rfl
@[simp] theorem modTrust_me (s : State) (f : Trust → Trust) : (s.modTrust f).me = s.me := rfl
@[simp] theorem modTrust_iss (s : State) (f : Trust → Trust) : (s.modTrust f).iss = s.iss := rfl
@[simp] theorem modTrust_threads (s : State) (f : Trust → Trust) : (s.modTrust f).threads = s.threads := rfl
@[simp] theorem modTrust_mem (s : State) (f : Trust → Trust) : (s.modTrust f).mem = s.mem := rfl
@[simp] theorem modTrust_net (s : State) (f : Trust → Trust) : (s.modTrust f).net = s.net := rfl
@[simp] theorem modTrust_sfu (s : State) (f : Trust → Trust) : (s.modTrust f).sfu = s.sfu := rfl
@[simp] theorem modTrust_walks (s : State) (f : Trust → Trust) : (s.modTrust f).walks = s.walks := rfl
@[simp] theorem modTrust_tlb (s : State) (f : Trust → Trust) : (s.modTrust f).tlb = s.tlb := rfl
@[simp] theorem modTrust_wcache (s : State) (f : Trust → Trust) : (s.modTrust f).wcache = s.wcache := rfl
@[simp] theorem modTrust_l1 (s : State) (f : Trust → Trust) : (s.modTrust f).l1 = s.l1 := rfl
@[simp] theorem modTrust_cores (s : State) (f : Trust → Trust) : (s.modTrust f).cores = s.cores := rfl
@[simp] theorem modTrust_engines (s : State) (f : Trust → Trust) : (s.modTrust f).engines = s.engines := rfl
@[simp] theorem modTrust_caps (s : State) (f : Trust → Trust) : (s.modTrust f).caps = s.caps := rfl
@[simp] theorem modTrust_cmds (s : State) (f : Trust → Trust) : (s.modTrust f).cmds = s.cmds := rfl
@[simp] theorem modTrust_graph (s : State) (f : Trust → Trust) : (s.modTrust f).graph = s.graph := rfl
@[simp] theorem modTrust_owners (s : State) (f : Trust → Trust) : (s.modTrust f).owners = s.owners := rfl
@[simp] theorem modTrust_regs (s : State) (f : Trust → Trust) : (s.modTrust f).regs = s.regs := rfl
@[simp] theorem modTrust_rot (s : State) (f : Trust → Trust) : (s.modTrust f).rot = s.rot := rfl
@[simp] theorem modTrust_flash (s : State) (f : Trust → Trust) : (s.modTrust f).flash = s.flash := rfl
@[simp] theorem modTrust_cols (s : State) (f : Trust → Trust) : (s.modTrust f).cols = s.cols := rfl
@[simp] theorem modTrust_slices (s : State) (f : Trust → Trust) : (s.modTrust f).slices = s.slices := rfl
@[simp] theorem modTrust_host (s : State) (f : Trust → Trust) : (s.modTrust f).host = s.host := rfl
@[simp] theorem modTrust_trust (s : State) (f : Trust → Trust) : (s.modTrust f).trust = f s.trust := rfl
@[simp] theorem modMe_clk (s : State) (f : Thread → Thread) : (s.modMe f).clk = s.clk := rfl
@[simp] theorem modMe_me (s : State) (f : Thread → Thread) : (s.modMe f).me = f s.me := rfl
@[simp] theorem modMe_iss (s : State) (f : Thread → Thread) : (s.modMe f).iss = s.iss := rfl
@[simp] theorem modMe_threads (s : State) (f : Thread → Thread) : (s.modMe f).threads = s.threads := rfl
@[simp] theorem modMe_mem (s : State) (f : Thread → Thread) : (s.modMe f).mem = s.mem := rfl
@[simp] theorem modMe_net (s : State) (f : Thread → Thread) : (s.modMe f).net = s.net := rfl
@[simp] theorem modMe_sfu (s : State) (f : Thread → Thread) : (s.modMe f).sfu = s.sfu := rfl
@[simp] theorem modMe_walks (s : State) (f : Thread → Thread) : (s.modMe f).walks = s.walks := rfl
@[simp] theorem modMe_tlb (s : State) (f : Thread → Thread) : (s.modMe f).tlb = s.tlb := rfl
@[simp] theorem modMe_wcache (s : State) (f : Thread → Thread) : (s.modMe f).wcache = s.wcache := rfl
@[simp] theorem modMe_l1 (s : State) (f : Thread → Thread) : (s.modMe f).l1 = s.l1 := rfl
@[simp] theorem modMe_cores (s : State) (f : Thread → Thread) : (s.modMe f).cores = s.cores := rfl
@[simp] theorem modMe_engines (s : State) (f : Thread → Thread) : (s.modMe f).engines = s.engines := rfl
@[simp] theorem modMe_caps (s : State) (f : Thread → Thread) : (s.modMe f).caps = s.caps := rfl
@[simp] theorem modMe_cmds (s : State) (f : Thread → Thread) : (s.modMe f).cmds = s.cmds := rfl
@[simp] theorem modMe_graph (s : State) (f : Thread → Thread) : (s.modMe f).graph = s.graph := rfl
@[simp] theorem modMe_owners (s : State) (f : Thread → Thread) : (s.modMe f).owners = s.owners := rfl
@[simp] theorem modMe_regs (s : State) (f : Thread → Thread) : (s.modMe f).regs = s.regs := rfl
@[simp] theorem modMe_rot (s : State) (f : Thread → Thread) : (s.modMe f).rot = s.rot := rfl
@[simp] theorem modMe_flash (s : State) (f : Thread → Thread) : (s.modMe f).flash = s.flash := rfl
@[simp] theorem modMe_cols (s : State) (f : Thread → Thread) : (s.modMe f).cols = s.cols := rfl
@[simp] theorem modMe_slices (s : State) (f : Thread → Thread) : (s.modMe f).slices = s.slices := rfl
@[simp] theorem modMe_host (s : State) (f : Thread → Thread) : (s.modMe f).host = s.host := rfl
@[simp] theorem modMe_trust (s : State) (f : Thread → Thread) : (s.modMe f).trust = s.trust := rfl
@[simp] theorem bump_clk (s : State) : (s.bump).clk = { s.clk with id := s.clk.id + 1 } := rfl
@[simp] theorem bump_me (s : State) : (s.bump).me = s.me := rfl
@[simp] theorem bump_iss (s : State) : (s.bump).iss = s.iss := rfl
@[simp] theorem bump_threads (s : State) : (s.bump).threads = s.threads := rfl
@[simp] theorem bump_mem (s : State) : (s.bump).mem = s.mem := rfl
@[simp] theorem bump_net (s : State) : (s.bump).net = s.net := rfl
@[simp] theorem bump_sfu (s : State) : (s.bump).sfu = s.sfu := rfl
@[simp] theorem bump_walks (s : State) : (s.bump).walks = s.walks := rfl
@[simp] theorem bump_tlb (s : State) : (s.bump).tlb = s.tlb := rfl
@[simp] theorem bump_wcache (s : State) : (s.bump).wcache = s.wcache := rfl
@[simp] theorem bump_l1 (s : State) : (s.bump).l1 = s.l1 := rfl
@[simp] theorem bump_cores (s : State) : (s.bump).cores = s.cores := rfl
@[simp] theorem bump_engines (s : State) : (s.bump).engines = s.engines := rfl
@[simp] theorem bump_caps (s : State) : (s.bump).caps = s.caps := rfl
@[simp] theorem bump_cmds (s : State) : (s.bump).cmds = s.cmds := rfl
@[simp] theorem bump_graph (s : State) : (s.bump).graph = s.graph := rfl
@[simp] theorem bump_owners (s : State) : (s.bump).owners = s.owners := rfl
@[simp] theorem bump_regs (s : State) : (s.bump).regs = s.regs := rfl
@[simp] theorem bump_rot (s : State) : (s.bump).rot = s.rot := rfl
@[simp] theorem bump_flash (s : State) : (s.bump).flash = s.flash := rfl
@[simp] theorem bump_cols (s : State) : (s.bump).cols = s.cols := rfl
@[simp] theorem bump_slices (s : State) : (s.bump).slices = s.slices := rfl
@[simp] theorem bump_host (s : State) : (s.bump).host = s.host := rfl
@[simp] theorem bump_trust (s : State) : (s.bump).trust = s.trust := rfl
@[simp] theorem drawn_clk (s : State) : (s.drawn).clk = { s.clk with draw := s.clk.draw + 1 } := rfl
@[simp] theorem drawn_me (s : State) : (s.drawn).me = s.me := rfl
@[simp] theorem drawn_iss (s : State) : (s.drawn).iss = s.iss := rfl
@[simp] theorem drawn_threads (s : State) : (s.drawn).threads = s.threads := rfl
@[simp] theorem drawn_mem (s : State) : (s.drawn).mem = s.mem := rfl
@[simp] theorem drawn_net (s : State) : (s.drawn).net = s.net := rfl
@[simp] theorem drawn_sfu (s : State) : (s.drawn).sfu = s.sfu := rfl
@[simp] theorem drawn_walks (s : State) : (s.drawn).walks = s.walks := rfl
@[simp] theorem drawn_tlb (s : State) : (s.drawn).tlb = s.tlb := rfl
@[simp] theorem drawn_wcache (s : State) : (s.drawn).wcache = s.wcache := rfl
@[simp] theorem drawn_l1 (s : State) : (s.drawn).l1 = s.l1 := rfl
@[simp] theorem drawn_cores (s : State) : (s.drawn).cores = s.cores := rfl
@[simp] theorem drawn_engines (s : State) : (s.drawn).engines = s.engines := rfl
@[simp] theorem drawn_caps (s : State) : (s.drawn).caps = s.caps := rfl
@[simp] theorem drawn_cmds (s : State) : (s.drawn).cmds = s.cmds := rfl
@[simp] theorem drawn_graph (s : State) : (s.drawn).graph = s.graph := rfl
@[simp] theorem drawn_owners (s : State) : (s.drawn).owners = s.owners := rfl
@[simp] theorem drawn_regs (s : State) : (s.drawn).regs = s.regs := rfl
@[simp] theorem drawn_rot (s : State) : (s.drawn).rot = s.rot := rfl
@[simp] theorem drawn_flash (s : State) : (s.drawn).flash = s.flash := rfl
@[simp] theorem drawn_cols (s : State) : (s.drawn).cols = s.cols := rfl
@[simp] theorem drawn_slices (s : State) : (s.drawn).slices = s.slices := rfl
@[simp] theorem drawn_host (s : State) : (s.drawn).host = s.host := rfl
@[simp] theorem drawn_trust (s : State) : (s.drawn).trust = s.trust := rfl
@[simp] theorem send_clk (s : State) (x : Out) : (s.send x).clk = s.clk := rfl
@[simp] theorem send_me (s : State) (x : Out) : (s.send x).me = s.me := rfl
@[simp] theorem send_iss (s : State) (x : Out) : (s.send x).iss = s.iss := rfl
@[simp] theorem send_threads (s : State) (x : Out) : (s.send x).threads = s.threads := rfl
@[simp] theorem send_mem (s : State) (x : Out) : (s.send x).mem = s.mem := rfl
@[simp] theorem send_net (s : State) (x : Out) : (s.send x).net = s.net := rfl
@[simp] theorem send_sfu (s : State) (x : Out) : (s.send x).sfu = s.sfu := rfl
@[simp] theorem send_walks (s : State) (x : Out) : (s.send x).walks = s.walks := rfl
@[simp] theorem send_tlb (s : State) (x : Out) : (s.send x).tlb = s.tlb := rfl
@[simp] theorem send_wcache (s : State) (x : Out) : (s.send x).wcache = s.wcache := rfl
@[simp] theorem send_l1 (s : State) (x : Out) : (s.send x).l1 = s.l1 := rfl
@[simp] theorem send_cores (s : State) (x : Out) : (s.send x).cores = s.cores := rfl
@[simp] theorem send_engines (s : State) (x : Out) : (s.send x).engines = s.engines := rfl
@[simp] theorem send_caps (s : State) (x : Out) : (s.send x).caps = s.caps := rfl
@[simp] theorem send_cmds (s : State) (x : Out) : (s.send x).cmds = s.cmds := rfl
@[simp] theorem send_graph (s : State) (x : Out) : (s.send x).graph = s.graph := rfl
@[simp] theorem send_owners (s : State) (x : Out) : (s.send x).owners = s.owners := rfl
@[simp] theorem send_regs (s : State) (x : Out) : (s.send x).regs = s.regs := rfl
@[simp] theorem send_rot (s : State) (x : Out) : (s.send x).rot = s.rot := rfl
@[simp] theorem send_flash (s : State) (x : Out) : (s.send x).flash = s.flash := rfl
@[simp] theorem send_cols (s : State) (x : Out) : (s.send x).cols = s.cols := rfl
@[simp] theorem send_slices (s : State) (x : Out) : (s.send x).slices = s.slices := rfl
@[simp] theorem send_host (s : State) (x : Out) : (s.send x).host = { s.host with sent := s.host.sent ++ [x] } := rfl
@[simp] theorem send_trust (s : State) (x : Out) : (s.send x).trust = s.trust := rfl
@[simp] theorem raiseEv_clk (s : State) (e : Ev) : (s.raiseEv e).clk = s.clk := rfl
@[simp] theorem raiseEv_me (s : State) (e : Ev) : (s.raiseEv e).me = s.me := rfl
@[simp] theorem raiseEv_iss (s : State) (e : Ev) : (s.raiseEv e).iss = s.iss := rfl
@[simp] theorem raiseEv_threads (s : State) (e : Ev) : (s.raiseEv e).threads = s.threads := rfl
@[simp] theorem raiseEv_mem (s : State) (e : Ev) : (s.raiseEv e).mem = s.mem := rfl
@[simp] theorem raiseEv_net (s : State) (e : Ev) : (s.raiseEv e).net = s.net := rfl
@[simp] theorem raiseEv_sfu (s : State) (e : Ev) : (s.raiseEv e).sfu = s.sfu := rfl
@[simp] theorem raiseEv_walks (s : State) (e : Ev) : (s.raiseEv e).walks = s.walks := rfl
@[simp] theorem raiseEv_tlb (s : State) (e : Ev) : (s.raiseEv e).tlb = s.tlb := rfl
@[simp] theorem raiseEv_wcache (s : State) (e : Ev) : (s.raiseEv e).wcache = s.wcache := rfl
@[simp] theorem raiseEv_l1 (s : State) (e : Ev) : (s.raiseEv e).l1 = s.l1 := rfl
@[simp] theorem raiseEv_cores (s : State) (e : Ev) : (s.raiseEv e).cores = s.cores := rfl
@[simp] theorem raiseEv_engines (s : State) (e : Ev) : (s.raiseEv e).engines = s.engines := rfl
@[simp] theorem raiseEv_caps (s : State) (e : Ev) : (s.raiseEv e).caps = s.caps := rfl
@[simp] theorem raiseEv_cmds (s : State) (e : Ev) : (s.raiseEv e).cmds = s.cmds := rfl
@[simp] theorem raiseEv_graph (s : State) (e : Ev) : (s.raiseEv e).graph = s.graph := rfl
@[simp] theorem raiseEv_owners (s : State) (e : Ev) : (s.raiseEv e).owners = s.owners := rfl
@[simp] theorem raiseEv_regs (s : State) (e : Ev) : (s.raiseEv e).regs = s.regs := rfl
@[simp] theorem raiseEv_rot (s : State) (e : Ev) : (s.raiseEv e).rot = s.rot := rfl
@[simp] theorem raiseEv_flash (s : State) (e : Ev) : (s.raiseEv e).flash = s.flash := rfl
@[simp] theorem raiseEv_cols (s : State) (e : Ev) : (s.raiseEv e).cols = s.cols := rfl
@[simp] theorem raiseEv_slices (s : State) (e : Ev) : (s.raiseEv e).slices = s.slices := rfl
@[simp] theorem raiseEv_host (s : State) (e : Ev) : (s.raiseEv e).host = s.host := rfl
@[simp] theorem raiseEv_trust (s : State) (e : Ev) : (s.raiseEv e).trust = { s.trust with events := if State.heldKind s.trust e then s.trust.events else s.trust.events ++ [{ e with q := s.q }] } := rfl
@[simp] theorem charge_clk (s : State) (o k n : Nat) : (s.charge o k n).clk = s.clk := rfl
@[simp] theorem charge_me (s : State) (o k n : Nat) : (s.charge o k n).me = s.me := rfl
@[simp] theorem charge_iss (s : State) (o k n : Nat) : (s.charge o k n).iss = s.iss := rfl
@[simp] theorem charge_threads (s : State) (o k n : Nat) : (s.charge o k n).threads = s.threads := rfl
@[simp] theorem charge_mem (s : State) (o k n : Nat) : (s.charge o k n).mem = s.mem := rfl
@[simp] theorem charge_net (s : State) (o k n : Nat) : (s.charge o k n).net = s.net := rfl
@[simp] theorem charge_sfu (s : State) (o k n : Nat) : (s.charge o k n).sfu = s.sfu := rfl
@[simp] theorem charge_walks (s : State) (o k n : Nat) : (s.charge o k n).walks = s.walks := rfl
@[simp] theorem charge_tlb (s : State) (o k n : Nat) : (s.charge o k n).tlb = s.tlb := rfl
@[simp] theorem charge_wcache (s : State) (o k n : Nat) : (s.charge o k n).wcache = s.wcache := rfl
@[simp] theorem charge_l1 (s : State) (o k n : Nat) : (s.charge o k n).l1 = s.l1 := rfl
@[simp] theorem charge_cores (s : State) (o k n : Nat) : (s.charge o k n).cores = s.cores := rfl
@[simp] theorem charge_engines (s : State) (o k n : Nat) : (s.charge o k n).engines = s.engines := rfl
@[simp] theorem charge_caps (s : State) (o k n : Nat) : (s.charge o k n).caps = s.caps := rfl
@[simp] theorem charge_cmds (s : State) (o k n : Nat) : (s.charge o k n).cmds = s.cmds := rfl
@[simp] theorem charge_graph (s : State) (o k n : Nat) : (s.charge o k n).graph = s.graph := rfl
@[simp] theorem charge_regs (s : State) (o k n : Nat) : (s.charge o k n).regs = s.regs := rfl
@[simp] theorem charge_rot (s : State) (o k n : Nat) : (s.charge o k n).rot = s.rot := rfl
@[simp] theorem charge_flash (s : State) (o k n : Nat) : (s.charge o k n).flash = s.flash := rfl
@[simp] theorem charge_cols (s : State) (o k n : Nat) : (s.charge o k n).cols = s.cols := rfl
@[simp] theorem charge_slices (s : State) (o k n : Nat) : (s.charge o k n).slices = s.slices := rfl
@[simp] theorem charge_host (s : State) (o k n : Nat) : (s.charge o k n).host = s.host := rfl
@[simp] theorem charge_trust (s : State) (o k n : Nat) : (s.charge o k n).trust = s.trust := rfl
@[simp] theorem setCore_clk (s : State) (c : Core) : (s.setCore c).clk = s.clk := rfl
@[simp] theorem setCore_me (s : State) (c : Core) : (s.setCore c).me = s.me := rfl
@[simp] theorem setCore_iss (s : State) (c : Core) : (s.setCore c).iss = s.iss := rfl
@[simp] theorem setCore_threads (s : State) (c : Core) : (s.setCore c).threads = s.threads := rfl
@[simp] theorem setCore_mem (s : State) (c : Core) : (s.setCore c).mem = s.mem := rfl
@[simp] theorem setCore_net (s : State) (c : Core) : (s.setCore c).net = s.net := rfl
@[simp] theorem setCore_sfu (s : State) (c : Core) : (s.setCore c).sfu = s.sfu := rfl
@[simp] theorem setCore_walks (s : State) (c : Core) : (s.setCore c).walks = s.walks := rfl
@[simp] theorem setCore_tlb (s : State) (c : Core) : (s.setCore c).tlb = s.tlb := rfl
@[simp] theorem setCore_wcache (s : State) (c : Core) : (s.setCore c).wcache = s.wcache := rfl
@[simp] theorem setCore_l1 (s : State) (c : Core) : (s.setCore c).l1 = s.l1 := rfl
@[simp] theorem setCore_engines (s : State) (c : Core) : (s.setCore c).engines = s.engines := rfl
@[simp] theorem setCore_caps (s : State) (c : Core) : (s.setCore c).caps = s.caps := rfl
@[simp] theorem setCore_cmds (s : State) (c : Core) : (s.setCore c).cmds = s.cmds := rfl
@[simp] theorem setCore_graph (s : State) (c : Core) : (s.setCore c).graph = s.graph := rfl
@[simp] theorem setCore_owners (s : State) (c : Core) : (s.setCore c).owners = s.owners := rfl
@[simp] theorem setCore_regs (s : State) (c : Core) : (s.setCore c).regs = s.regs := rfl
@[simp] theorem setCore_rot (s : State) (c : Core) : (s.setCore c).rot = s.rot := rfl
@[simp] theorem setCore_flash (s : State) (c : Core) : (s.setCore c).flash = s.flash := rfl
@[simp] theorem setCore_cols (s : State) (c : Core) : (s.setCore c).cols = s.cols := rfl
@[simp] theorem setCore_slices (s : State) (c : Core) : (s.setCore c).slices = s.slices := rfl
@[simp] theorem setCore_host (s : State) (c : Core) : (s.setCore c).host = s.host := rfl
@[simp] theorem setCore_trust (s : State) (c : Core) : (s.setCore c).trust = s.trust := rfl
@[simp] theorem wS_clk (s : State) (d : Fin 16) (x : Word) : (s.wS d x).clk = s.clk := rfl
@[simp] theorem wS_me (s : State) (d : Fin 16) (x : Word) : (s.wS d x).me = s.me.setS d x := rfl
@[simp] theorem wS_iss (s : State) (d : Fin 16) (x : Word) : (s.wS d x).iss = s.iss := rfl
@[simp] theorem wS_threads (s : State) (d : Fin 16) (x : Word) : (s.wS d x).threads = s.threads := rfl
@[simp] theorem wS_mem (s : State) (d : Fin 16) (x : Word) : (s.wS d x).mem = s.mem := rfl
@[simp] theorem wS_net (s : State) (d : Fin 16) (x : Word) : (s.wS d x).net = s.net := rfl
@[simp] theorem wS_sfu (s : State) (d : Fin 16) (x : Word) : (s.wS d x).sfu = s.sfu := rfl
@[simp] theorem wS_walks (s : State) (d : Fin 16) (x : Word) : (s.wS d x).walks = s.walks := rfl
@[simp] theorem wS_tlb (s : State) (d : Fin 16) (x : Word) : (s.wS d x).tlb = s.tlb := rfl
@[simp] theorem wS_wcache (s : State) (d : Fin 16) (x : Word) : (s.wS d x).wcache = s.wcache := rfl
@[simp] theorem wS_l1 (s : State) (d : Fin 16) (x : Word) : (s.wS d x).l1 = s.l1 := rfl
@[simp] theorem wS_cores (s : State) (d : Fin 16) (x : Word) : (s.wS d x).cores = s.cores := rfl
@[simp] theorem wS_engines (s : State) (d : Fin 16) (x : Word) : (s.wS d x).engines = s.engines := rfl
@[simp] theorem wS_caps (s : State) (d : Fin 16) (x : Word) : (s.wS d x).caps = s.caps := rfl
@[simp] theorem wS_cmds (s : State) (d : Fin 16) (x : Word) : (s.wS d x).cmds = s.cmds := rfl
@[simp] theorem wS_graph (s : State) (d : Fin 16) (x : Word) : (s.wS d x).graph = s.graph := rfl
@[simp] theorem wS_owners (s : State) (d : Fin 16) (x : Word) : (s.wS d x).owners = s.owners := rfl
@[simp] theorem wS_regs (s : State) (d : Fin 16) (x : Word) : (s.wS d x).regs = s.regs := rfl
@[simp] theorem wS_rot (s : State) (d : Fin 16) (x : Word) : (s.wS d x).rot = s.rot := rfl
@[simp] theorem wS_flash (s : State) (d : Fin 16) (x : Word) : (s.wS d x).flash = s.flash := rfl
@[simp] theorem wS_cols (s : State) (d : Fin 16) (x : Word) : (s.wS d x).cols = s.cols := rfl
@[simp] theorem wS_slices (s : State) (d : Fin 16) (x : Word) : (s.wS d x).slices = s.slices := rfl
@[simp] theorem wS_host (s : State) (d : Fin 16) (x : Word) : (s.wS d x).host = s.host := rfl
@[simp] theorem wS_trust (s : State) (d : Fin 16) (x : Word) : (s.wS d x).trust = s.trust := rfl
@[simp] theorem wV_clk (s : State) (d : Fin 16) (x : VWord) : (s.wV d x).clk = s.clk := rfl
@[simp] theorem wV_me (s : State) (d : Fin 16) (x : VWord) : (s.wV d x).me = s.me.setV d x := rfl
@[simp] theorem wV_iss (s : State) (d : Fin 16) (x : VWord) : (s.wV d x).iss = s.iss := rfl
@[simp] theorem wV_threads (s : State) (d : Fin 16) (x : VWord) : (s.wV d x).threads = s.threads := rfl
@[simp] theorem wV_mem (s : State) (d : Fin 16) (x : VWord) : (s.wV d x).mem = s.mem := rfl
@[simp] theorem wV_net (s : State) (d : Fin 16) (x : VWord) : (s.wV d x).net = s.net := rfl
@[simp] theorem wV_sfu (s : State) (d : Fin 16) (x : VWord) : (s.wV d x).sfu = s.sfu := rfl
@[simp] theorem wV_walks (s : State) (d : Fin 16) (x : VWord) : (s.wV d x).walks = s.walks := rfl
@[simp] theorem wV_tlb (s : State) (d : Fin 16) (x : VWord) : (s.wV d x).tlb = s.tlb := rfl
@[simp] theorem wV_wcache (s : State) (d : Fin 16) (x : VWord) : (s.wV d x).wcache = s.wcache := rfl
@[simp] theorem wV_l1 (s : State) (d : Fin 16) (x : VWord) : (s.wV d x).l1 = s.l1 := rfl
@[simp] theorem wV_cores (s : State) (d : Fin 16) (x : VWord) : (s.wV d x).cores = s.cores := rfl
@[simp] theorem wV_engines (s : State) (d : Fin 16) (x : VWord) : (s.wV d x).engines = s.engines := rfl
@[simp] theorem wV_caps (s : State) (d : Fin 16) (x : VWord) : (s.wV d x).caps = s.caps := rfl
@[simp] theorem wV_cmds (s : State) (d : Fin 16) (x : VWord) : (s.wV d x).cmds = s.cmds := rfl
@[simp] theorem wV_graph (s : State) (d : Fin 16) (x : VWord) : (s.wV d x).graph = s.graph := rfl
@[simp] theorem wV_owners (s : State) (d : Fin 16) (x : VWord) : (s.wV d x).owners = s.owners := rfl
@[simp] theorem wV_regs (s : State) (d : Fin 16) (x : VWord) : (s.wV d x).regs = s.regs := rfl
@[simp] theorem wV_rot (s : State) (d : Fin 16) (x : VWord) : (s.wV d x).rot = s.rot := rfl
@[simp] theorem wV_flash (s : State) (d : Fin 16) (x : VWord) : (s.wV d x).flash = s.flash := rfl
@[simp] theorem wV_cols (s : State) (d : Fin 16) (x : VWord) : (s.wV d x).cols = s.cols := rfl
@[simp] theorem wV_slices (s : State) (d : Fin 16) (x : VWord) : (s.wV d x).slices = s.slices := rfl
@[simp] theorem wV_host (s : State) (d : Fin 16) (x : VWord) : (s.wV d x).host = s.host := rfl
@[simp] theorem wV_trust (s : State) (d : Fin 16) (x : VWord) : (s.wV d x).trust = s.trust := rfl
@[simp] theorem wP_clk (s : State) (d : Fin 16) (x : Bool) : (s.wP d x).clk = s.clk := rfl
@[simp] theorem wP_me (s : State) (d : Fin 16) (x : Bool) : (s.wP d x).me = s.me.setP d x := rfl
@[simp] theorem wP_iss (s : State) (d : Fin 16) (x : Bool) : (s.wP d x).iss = s.iss := rfl
@[simp] theorem wP_threads (s : State) (d : Fin 16) (x : Bool) : (s.wP d x).threads = s.threads := rfl
@[simp] theorem wP_mem (s : State) (d : Fin 16) (x : Bool) : (s.wP d x).mem = s.mem := rfl
@[simp] theorem wP_net (s : State) (d : Fin 16) (x : Bool) : (s.wP d x).net = s.net := rfl
@[simp] theorem wP_sfu (s : State) (d : Fin 16) (x : Bool) : (s.wP d x).sfu = s.sfu := rfl
@[simp] theorem wP_walks (s : State) (d : Fin 16) (x : Bool) : (s.wP d x).walks = s.walks := rfl
@[simp] theorem wP_tlb (s : State) (d : Fin 16) (x : Bool) : (s.wP d x).tlb = s.tlb := rfl
@[simp] theorem wP_wcache (s : State) (d : Fin 16) (x : Bool) : (s.wP d x).wcache = s.wcache := rfl
@[simp] theorem wP_l1 (s : State) (d : Fin 16) (x : Bool) : (s.wP d x).l1 = s.l1 := rfl
@[simp] theorem wP_cores (s : State) (d : Fin 16) (x : Bool) : (s.wP d x).cores = s.cores := rfl
@[simp] theorem wP_engines (s : State) (d : Fin 16) (x : Bool) : (s.wP d x).engines = s.engines := rfl
@[simp] theorem wP_caps (s : State) (d : Fin 16) (x : Bool) : (s.wP d x).caps = s.caps := rfl
@[simp] theorem wP_cmds (s : State) (d : Fin 16) (x : Bool) : (s.wP d x).cmds = s.cmds := rfl
@[simp] theorem wP_graph (s : State) (d : Fin 16) (x : Bool) : (s.wP d x).graph = s.graph := rfl
@[simp] theorem wP_owners (s : State) (d : Fin 16) (x : Bool) : (s.wP d x).owners = s.owners := rfl
@[simp] theorem wP_regs (s : State) (d : Fin 16) (x : Bool) : (s.wP d x).regs = s.regs := rfl
@[simp] theorem wP_rot (s : State) (d : Fin 16) (x : Bool) : (s.wP d x).rot = s.rot := rfl
@[simp] theorem wP_flash (s : State) (d : Fin 16) (x : Bool) : (s.wP d x).flash = s.flash := rfl
@[simp] theorem wP_cols (s : State) (d : Fin 16) (x : Bool) : (s.wP d x).cols = s.cols := rfl
@[simp] theorem wP_slices (s : State) (d : Fin 16) (x : Bool) : (s.wP d x).slices = s.slices := rfl
@[simp] theorem wP_host (s : State) (d : Fin 16) (x : Bool) : (s.wP d x).host = s.host := rfl
@[simp] theorem wP_trust (s : State) (d : Fin 16) (x : Bool) : (s.wP d x).trust = s.trust := rfl
@[simp] theorem orF_clk (s : State) (f : Flags) : (s.orF f).clk = s.clk := rfl
@[simp] theorem orF_me (s : State) (f : Flags) : (s.orF f).me = s.me.orFlags f := rfl
@[simp] theorem orF_iss (s : State) (f : Flags) : (s.orF f).iss = s.iss := rfl
@[simp] theorem orF_threads (s : State) (f : Flags) : (s.orF f).threads = s.threads := rfl
@[simp] theorem orF_mem (s : State) (f : Flags) : (s.orF f).mem = s.mem := rfl
@[simp] theorem orF_net (s : State) (f : Flags) : (s.orF f).net = s.net := rfl
@[simp] theorem orF_sfu (s : State) (f : Flags) : (s.orF f).sfu = s.sfu := rfl
@[simp] theorem orF_walks (s : State) (f : Flags) : (s.orF f).walks = s.walks := rfl
@[simp] theorem orF_tlb (s : State) (f : Flags) : (s.orF f).tlb = s.tlb := rfl
@[simp] theorem orF_wcache (s : State) (f : Flags) : (s.orF f).wcache = s.wcache := rfl
@[simp] theorem orF_l1 (s : State) (f : Flags) : (s.orF f).l1 = s.l1 := rfl
@[simp] theorem orF_cores (s : State) (f : Flags) : (s.orF f).cores = s.cores := rfl
@[simp] theorem orF_engines (s : State) (f : Flags) : (s.orF f).engines = s.engines := rfl
@[simp] theorem orF_caps (s : State) (f : Flags) : (s.orF f).caps = s.caps := rfl
@[simp] theorem orF_cmds (s : State) (f : Flags) : (s.orF f).cmds = s.cmds := rfl
@[simp] theorem orF_graph (s : State) (f : Flags) : (s.orF f).graph = s.graph := rfl
@[simp] theorem orF_owners (s : State) (f : Flags) : (s.orF f).owners = s.owners := rfl
@[simp] theorem orF_regs (s : State) (f : Flags) : (s.orF f).regs = s.regs := rfl
@[simp] theorem orF_rot (s : State) (f : Flags) : (s.orF f).rot = s.rot := rfl
@[simp] theorem orF_flash (s : State) (f : Flags) : (s.orF f).flash = s.flash := rfl
@[simp] theorem orF_cols (s : State) (f : Flags) : (s.orF f).cols = s.cols := rfl
@[simp] theorem orF_slices (s : State) (f : Flags) : (s.orF f).slices = s.slices := rfl
@[simp] theorem orF_host (s : State) (f : Flags) : (s.orF f).host = s.host := rfl
@[simp] theorem orF_trust (s : State) (f : Flags) : (s.orF f).trust = s.trust := rfl
@[simp] theorem status_clk (s : State) (x : Status) : (s.status x).clk = s.clk := rfl
@[simp] theorem status_me (s : State) (x : Status) : (s.status x).me = s.me := rfl
@[simp] theorem status_iss (s : State) (x : Status) : (s.status x).iss = { s.iss with status := x } := rfl
@[simp] theorem status_threads (s : State) (x : Status) : (s.status x).threads = s.threads := rfl
@[simp] theorem status_mem (s : State) (x : Status) : (s.status x).mem = s.mem := rfl
@[simp] theorem status_net (s : State) (x : Status) : (s.status x).net = s.net := rfl
@[simp] theorem status_sfu (s : State) (x : Status) : (s.status x).sfu = s.sfu := rfl
@[simp] theorem status_walks (s : State) (x : Status) : (s.status x).walks = s.walks := rfl
@[simp] theorem status_tlb (s : State) (x : Status) : (s.status x).tlb = s.tlb := rfl
@[simp] theorem status_wcache (s : State) (x : Status) : (s.status x).wcache = s.wcache := rfl
@[simp] theorem status_l1 (s : State) (x : Status) : (s.status x).l1 = s.l1 := rfl
@[simp] theorem status_cores (s : State) (x : Status) : (s.status x).cores = s.cores := rfl
@[simp] theorem status_engines (s : State) (x : Status) : (s.status x).engines = s.engines := rfl
@[simp] theorem status_caps (s : State) (x : Status) : (s.status x).caps = s.caps := rfl
@[simp] theorem status_cmds (s : State) (x : Status) : (s.status x).cmds = s.cmds := rfl
@[simp] theorem status_graph (s : State) (x : Status) : (s.status x).graph = s.graph := rfl
@[simp] theorem status_owners (s : State) (x : Status) : (s.status x).owners = s.owners := rfl
@[simp] theorem status_regs (s : State) (x : Status) : (s.status x).regs = s.regs := rfl
@[simp] theorem status_rot (s : State) (x : Status) : (s.status x).rot = s.rot := rfl
@[simp] theorem status_flash (s : State) (x : Status) : (s.status x).flash = s.flash := rfl
@[simp] theorem status_cols (s : State) (x : Status) : (s.status x).cols = s.cols := rfl
@[simp] theorem status_slices (s : State) (x : Status) : (s.status x).slices = s.slices := rfl
@[simp] theorem status_host (s : State) (x : Status) : (s.status x).host = s.host := rfl
@[simp] theorem status_trust (s : State) (x : Status) : (s.status x).trust = s.trust := rfl
@[simp] theorem setPc_clk (s : State) (p : Addr) : (s.setPc p).clk = s.clk := rfl
@[simp] theorem setPc_me (s : State) (p : Addr) : (s.setPc p).me = { s.me with pc := p } := rfl
@[simp] theorem setPc_iss (s : State) (p : Addr) : (s.setPc p).iss = s.iss := rfl
@[simp] theorem setPc_threads (s : State) (p : Addr) : (s.setPc p).threads = s.threads := rfl
@[simp] theorem setPc_mem (s : State) (p : Addr) : (s.setPc p).mem = s.mem := rfl
@[simp] theorem setPc_net (s : State) (p : Addr) : (s.setPc p).net = s.net := rfl
@[simp] theorem setPc_sfu (s : State) (p : Addr) : (s.setPc p).sfu = s.sfu := rfl
@[simp] theorem setPc_walks (s : State) (p : Addr) : (s.setPc p).walks = s.walks := rfl
@[simp] theorem setPc_tlb (s : State) (p : Addr) : (s.setPc p).tlb = s.tlb := rfl
@[simp] theorem setPc_wcache (s : State) (p : Addr) : (s.setPc p).wcache = s.wcache := rfl
@[simp] theorem setPc_l1 (s : State) (p : Addr) : (s.setPc p).l1 = s.l1 := rfl
@[simp] theorem setPc_cores (s : State) (p : Addr) : (s.setPc p).cores = s.cores := rfl
@[simp] theorem setPc_engines (s : State) (p : Addr) : (s.setPc p).engines = s.engines := rfl
@[simp] theorem setPc_caps (s : State) (p : Addr) : (s.setPc p).caps = s.caps := rfl
@[simp] theorem setPc_cmds (s : State) (p : Addr) : (s.setPc p).cmds = s.cmds := rfl
@[simp] theorem setPc_graph (s : State) (p : Addr) : (s.setPc p).graph = s.graph := rfl
@[simp] theorem setPc_owners (s : State) (p : Addr) : (s.setPc p).owners = s.owners := rfl
@[simp] theorem setPc_regs (s : State) (p : Addr) : (s.setPc p).regs = s.regs := rfl
@[simp] theorem setPc_rot (s : State) (p : Addr) : (s.setPc p).rot = s.rot := rfl
@[simp] theorem setPc_flash (s : State) (p : Addr) : (s.setPc p).flash = s.flash := rfl
@[simp] theorem setPc_cols (s : State) (p : Addr) : (s.setPc p).cols = s.cols := rfl
@[simp] theorem setPc_slices (s : State) (p : Addr) : (s.setPc p).slices = s.slices := rfl
@[simp] theorem setPc_host (s : State) (p : Addr) : (s.setPc p).host = s.host := rfl
@[simp] theorem setPc_trust (s : State) (p : Addr) : (s.setPc p).trust = s.trust := rfl
@[simp] theorem parkAfter_clk (s : State) (p : Park) : (s.parkAfter p).clk = s.clk := rfl
@[simp] theorem parkAfter_me (s : State) (p : Park) : (s.parkAfter p).me = { s.me with park := p, woken := false } := rfl
@[simp] theorem parkAfter_iss (s : State) (p : Park) : (s.parkAfter p).iss = s.iss := rfl
@[simp] theorem parkAfter_threads (s : State) (p : Park) : (s.parkAfter p).threads = s.threads := rfl
@[simp] theorem parkAfter_mem (s : State) (p : Park) : (s.parkAfter p).mem = s.mem := rfl
@[simp] theorem parkAfter_net (s : State) (p : Park) : (s.parkAfter p).net = s.net := rfl
@[simp] theorem parkAfter_sfu (s : State) (p : Park) : (s.parkAfter p).sfu = s.sfu := rfl
@[simp] theorem parkAfter_walks (s : State) (p : Park) : (s.parkAfter p).walks = s.walks := rfl
@[simp] theorem parkAfter_tlb (s : State) (p : Park) : (s.parkAfter p).tlb = s.tlb := rfl
@[simp] theorem parkAfter_wcache (s : State) (p : Park) : (s.parkAfter p).wcache = s.wcache := rfl
@[simp] theorem parkAfter_l1 (s : State) (p : Park) : (s.parkAfter p).l1 = s.l1 := rfl
@[simp] theorem parkAfter_cores (s : State) (p : Park) : (s.parkAfter p).cores = s.cores := rfl
@[simp] theorem parkAfter_engines (s : State) (p : Park) : (s.parkAfter p).engines = s.engines := rfl
@[simp] theorem parkAfter_caps (s : State) (p : Park) : (s.parkAfter p).caps = s.caps := rfl
@[simp] theorem parkAfter_cmds (s : State) (p : Park) : (s.parkAfter p).cmds = s.cmds := rfl
@[simp] theorem parkAfter_graph (s : State) (p : Park) : (s.parkAfter p).graph = s.graph := rfl
@[simp] theorem parkAfter_owners (s : State) (p : Park) : (s.parkAfter p).owners = s.owners := rfl
@[simp] theorem parkAfter_regs (s : State) (p : Park) : (s.parkAfter p).regs = s.regs := rfl
@[simp] theorem parkAfter_rot (s : State) (p : Park) : (s.parkAfter p).rot = s.rot := rfl
@[simp] theorem parkAfter_flash (s : State) (p : Park) : (s.parkAfter p).flash = s.flash := rfl
@[simp] theorem parkAfter_cols (s : State) (p : Park) : (s.parkAfter p).cols = s.cols := rfl
@[simp] theorem parkAfter_slices (s : State) (p : Park) : (s.parkAfter p).slices = s.slices := rfl
@[simp] theorem parkAfter_host (s : State) (p : Park) : (s.parkAfter p).host = s.host := rfl
@[simp] theorem parkAfter_trust (s : State) (p : Park) : (s.parkAfter p).trust = s.trust := rfl
@[simp] theorem issueOp_clk (s : State) (o : Op) (r : Req) : (s.issueOp o r).clk = { s.clk with id := s.clk.id + 1 } := rfl
@[simp] theorem issueOp_me (s : State) (o : Op) (r : Req) : (s.issueOp o r).me = s.me.addOp { o with src := some r.loc } := rfl
@[simp] theorem issueOp_iss (s : State) (o : Op) (r : Req) : (s.issueOp o r).iss = s.iss := rfl
@[simp] theorem issueOp_threads (s : State) (o : Op) (r : Req) : (s.issueOp o r).threads = s.threads := rfl
@[simp] theorem issueOp_mem (s : State) (o : Op) (r : Req) : (s.issueOp o r).mem = s.mem := rfl
@[simp] theorem issueOp_net (s : State) (o : Op) (r : Req) : (s.issueOp o r).net = s.net ++ [r] := rfl
@[simp] theorem issueOp_sfu (s : State) (o : Op) (r : Req) : (s.issueOp o r).sfu = s.sfu := rfl
@[simp] theorem issueOp_walks (s : State) (o : Op) (r : Req) : (s.issueOp o r).walks = s.walks := rfl
@[simp] theorem issueOp_tlb (s : State) (o : Op) (r : Req) : (s.issueOp o r).tlb = s.tlb := rfl
@[simp] theorem issueOp_wcache (s : State) (o : Op) (r : Req) : (s.issueOp o r).wcache = s.wcache := rfl
@[simp] theorem issueOp_l1 (s : State) (o : Op) (r : Req) : (s.issueOp o r).l1 = s.l1 := rfl
@[simp] theorem issueOp_cores (s : State) (o : Op) (r : Req) : (s.issueOp o r).cores = s.cores := rfl
@[simp] theorem issueOp_engines (s : State) (o : Op) (r : Req) : (s.issueOp o r).engines = s.engines := rfl
@[simp] theorem issueOp_caps (s : State) (o : Op) (r : Req) : (s.issueOp o r).caps = s.caps := rfl
@[simp] theorem issueOp_cmds (s : State) (o : Op) (r : Req) : (s.issueOp o r).cmds = s.cmds := rfl
@[simp] theorem issueOp_graph (s : State) (o : Op) (r : Req) : (s.issueOp o r).graph = s.graph := rfl
@[simp] theorem issueOp_owners (s : State) (o : Op) (r : Req) : (s.issueOp o r).owners = s.owners := rfl
@[simp] theorem issueOp_regs (s : State) (o : Op) (r : Req) : (s.issueOp o r).regs = s.regs := rfl
@[simp] theorem issueOp_rot (s : State) (o : Op) (r : Req) : (s.issueOp o r).rot = s.rot := rfl
@[simp] theorem issueOp_flash (s : State) (o : Op) (r : Req) : (s.issueOp o r).flash = s.flash := rfl
@[simp] theorem issueOp_cols (s : State) (o : Op) (r : Req) : (s.issueOp o r).cols = s.cols := rfl
@[simp] theorem issueOp_slices (s : State) (o : Op) (r : Req) : (s.issueOp o r).slices = s.slices := rfl
@[simp] theorem issueOp_host (s : State) (o : Op) (r : Req) : (s.issueOp o r).host = s.host := rfl
@[simp] theorem issueOp_trust (s : State) (o : Op) (r : Req) : (s.issueOp o r).trust = s.trust := rfl
@[simp] theorem latch_clk (s : State) (b : Addr) (z : Nat) (t : Thread) : (s.latch b z t).clk = s.clk := rfl
@[simp] theorem latch_me (s : State) (b : Addr) (z : Nat) (t : Thread) : (s.latch b z t).me = s.me := rfl
@[simp] theorem latch_iss (s : State) (b : Addr) (z : Nat) (t : Thread) : (s.latch b z t).iss = { b := b, z := z, pair := z == 8, src := t, status := .running } := rfl
@[simp] theorem latch_threads (s : State) (b : Addr) (z : Nat) (t : Thread) : (s.latch b z t).threads = s.threads := rfl
@[simp] theorem latch_mem (s : State) (b : Addr) (z : Nat) (t : Thread) : (s.latch b z t).mem = s.mem := rfl
@[simp] theorem latch_net (s : State) (b : Addr) (z : Nat) (t : Thread) : (s.latch b z t).net = s.net := rfl
@[simp] theorem latch_sfu (s : State) (b : Addr) (z : Nat) (t : Thread) : (s.latch b z t).sfu = s.sfu := rfl
@[simp] theorem latch_walks (s : State) (b : Addr) (z : Nat) (t : Thread) : (s.latch b z t).walks = s.walks := rfl
@[simp] theorem latch_tlb (s : State) (b : Addr) (z : Nat) (t : Thread) : (s.latch b z t).tlb = s.tlb := rfl
@[simp] theorem latch_wcache (s : State) (b : Addr) (z : Nat) (t : Thread) : (s.latch b z t).wcache = s.wcache := rfl
@[simp] theorem latch_l1 (s : State) (b : Addr) (z : Nat) (t : Thread) : (s.latch b z t).l1 = s.l1 := rfl
@[simp] theorem latch_cores (s : State) (b : Addr) (z : Nat) (t : Thread) : (s.latch b z t).cores = s.cores := rfl
@[simp] theorem latch_engines (s : State) (b : Addr) (z : Nat) (t : Thread) : (s.latch b z t).engines = s.engines := rfl
@[simp] theorem latch_caps (s : State) (b : Addr) (z : Nat) (t : Thread) : (s.latch b z t).caps = s.caps := rfl
@[simp] theorem latch_cmds (s : State) (b : Addr) (z : Nat) (t : Thread) : (s.latch b z t).cmds = s.cmds := rfl
@[simp] theorem latch_graph (s : State) (b : Addr) (z : Nat) (t : Thread) : (s.latch b z t).graph = s.graph := rfl
@[simp] theorem latch_owners (s : State) (b : Addr) (z : Nat) (t : Thread) : (s.latch b z t).owners = s.owners := rfl
@[simp] theorem latch_regs (s : State) (b : Addr) (z : Nat) (t : Thread) : (s.latch b z t).regs = s.regs := rfl
@[simp] theorem latch_rot (s : State) (b : Addr) (z : Nat) (t : Thread) : (s.latch b z t).rot = s.rot := rfl
@[simp] theorem latch_flash (s : State) (b : Addr) (z : Nat) (t : Thread) : (s.latch b z t).flash = s.flash := rfl
@[simp] theorem latch_cols (s : State) (b : Addr) (z : Nat) (t : Thread) : (s.latch b z t).cols = s.cols := rfl
@[simp] theorem latch_slices (s : State) (b : Addr) (z : Nat) (t : Thread) : (s.latch b z t).slices = s.slices := rfl
@[simp] theorem latch_host (s : State) (b : Addr) (z : Nat) (t : Thread) : (s.latch b z t).host = s.host := rfl
@[simp] theorem latch_trust (s : State) (b : Addr) (z : Nat) (t : Thread) : (s.latch b z t).trust = s.trust := rfl
@[simp] theorem setColumn_clk (s : State) (c : Column) : (s.setColumn c).clk = s.clk := rfl
@[simp] theorem setColumn_me (s : State) (c : Column) : (s.setColumn c).me = s.me := rfl
@[simp] theorem setColumn_iss (s : State) (c : Column) : (s.setColumn c).iss = s.iss := rfl
@[simp] theorem setColumn_threads (s : State) (c : Column) : (s.setColumn c).threads = s.threads := rfl
@[simp] theorem setColumn_mem (s : State) (c : Column) : (s.setColumn c).mem = s.mem := rfl
@[simp] theorem setColumn_net (s : State) (c : Column) : (s.setColumn c).net = s.net := rfl
@[simp] theorem setColumn_sfu (s : State) (c : Column) : (s.setColumn c).sfu = s.sfu := rfl
@[simp] theorem setColumn_walks (s : State) (c : Column) : (s.setColumn c).walks = s.walks := rfl
@[simp] theorem setColumn_tlb (s : State) (c : Column) : (s.setColumn c).tlb = s.tlb := rfl
@[simp] theorem setColumn_wcache (s : State) (c : Column) : (s.setColumn c).wcache = s.wcache := rfl
@[simp] theorem setColumn_l1 (s : State) (c : Column) : (s.setColumn c).l1 = s.l1 := rfl
@[simp] theorem setColumn_cores (s : State) (c : Column) : (s.setColumn c).cores = s.cores := rfl
@[simp] theorem setColumn_engines (s : State) (c : Column) : (s.setColumn c).engines = s.engines := rfl
@[simp] theorem setColumn_caps (s : State) (c : Column) : (s.setColumn c).caps = s.caps := rfl
@[simp] theorem setColumn_cmds (s : State) (c : Column) : (s.setColumn c).cmds = s.cmds := rfl
@[simp] theorem setColumn_graph (s : State) (c : Column) : (s.setColumn c).graph = s.graph := rfl
@[simp] theorem setColumn_owners (s : State) (c : Column) : (s.setColumn c).owners = s.owners := rfl
@[simp] theorem setColumn_regs (s : State) (c : Column) : (s.setColumn c).regs = s.regs := rfl
@[simp] theorem setColumn_rot (s : State) (c : Column) : (s.setColumn c).rot = s.rot := rfl
@[simp] theorem setColumn_flash (s : State) (c : Column) : (s.setColumn c).flash = s.flash := rfl
@[simp] theorem setColumn_slices (s : State) (c : Column) : (s.setColumn c).slices = s.slices := rfl
@[simp] theorem setColumn_host (s : State) (c : Column) : (s.setColumn c).host = s.host := rfl
@[simp] theorem setColumn_trust (s : State) (c : Column) : (s.setColumn c).trust = s.trust := rfl
@[simp] theorem setExtent_clk (s : State) (x : Extent) : (s.setExtent x).clk = s.clk := rfl
@[simp] theorem setExtent_me (s : State) (x : Extent) : (s.setExtent x).me = s.me := rfl
@[simp] theorem setExtent_iss (s : State) (x : Extent) : (s.setExtent x).iss = s.iss := rfl
@[simp] theorem setExtent_threads (s : State) (x : Extent) : (s.setExtent x).threads = s.threads := rfl
@[simp] theorem setExtent_mem (s : State) (x : Extent) : (s.setExtent x).mem = s.mem := rfl
@[simp] theorem setExtent_net (s : State) (x : Extent) : (s.setExtent x).net = s.net := rfl
@[simp] theorem setExtent_sfu (s : State) (x : Extent) : (s.setExtent x).sfu = s.sfu := rfl
@[simp] theorem setExtent_walks (s : State) (x : Extent) : (s.setExtent x).walks = s.walks := rfl
@[simp] theorem setExtent_tlb (s : State) (x : Extent) : (s.setExtent x).tlb = s.tlb := rfl
@[simp] theorem setExtent_wcache (s : State) (x : Extent) : (s.setExtent x).wcache = s.wcache := rfl
@[simp] theorem setExtent_l1 (s : State) (x : Extent) : (s.setExtent x).l1 = s.l1 := rfl
@[simp] theorem setExtent_cores (s : State) (x : Extent) : (s.setExtent x).cores = s.cores := rfl
@[simp] theorem setExtent_engines (s : State) (x : Extent) : (s.setExtent x).engines = s.engines := rfl
@[simp] theorem setExtent_caps (s : State) (x : Extent) : (s.setExtent x).caps = s.caps := rfl
@[simp] theorem setExtent_cmds (s : State) (x : Extent) : (s.setExtent x).cmds = s.cmds := rfl
@[simp] theorem setExtent_graph (s : State) (x : Extent) : (s.setExtent x).graph = s.graph := rfl
@[simp] theorem setExtent_owners (s : State) (x : Extent) : (s.setExtent x).owners = s.owners := rfl
@[simp] theorem setExtent_regs (s : State) (x : Extent) : (s.setExtent x).regs = s.regs := rfl
@[simp] theorem setExtent_rot (s : State) (x : Extent) : (s.setExtent x).rot = s.rot := rfl
@[simp] theorem setExtent_cols (s : State) (x : Extent) : (s.setExtent x).cols = s.cols := rfl
@[simp] theorem setExtent_slices (s : State) (x : Extent) : (s.setExtent x).slices = s.slices := rfl
@[simp] theorem setExtent_host (s : State) (x : Extent) : (s.setExtent x).host = s.host := rfl
@[simp] theorem setExtent_trust (s : State) (x : Extent) : (s.setExtent x).trust = s.trust := rfl

end State

@[simp] theorem Thread.addOp_uid (t : Thread) (o : Op) : (t.addOp o).uid = t.uid := rfl
@[simp] theorem Thread.addOp_pl (t : Thread) (o : Op) : (t.addOp o).pl = t.pl := rfl
@[simp] theorem Thread.addOp_row (t : Thread) (o : Op) : (t.addOp o).row = t.row := rfl
@[simp] theorem Thread.addOp_evicted (t : Thread) (o : Op) : (t.addOp o).evicted = t.evicted := rfl
@[simp] theorem Thread.addOp_task (t : Thread) (o : Op) : (t.addOp o).task = t.task := rfl
@[simp] theorem Thread.addOp_strm (t : Thread) (o : Op) : (t.addOp o).strm = t.strm := rfl
@[simp] theorem Thread.addOp_slot (t : Thread) (o : Op) : (t.addOp o).slot = t.slot := rfl
@[simp] theorem Thread.addOp_turns (t : Thread) (o : Op) : (t.addOp o).turns = t.turns := rfl
@[simp] theorem Thread.addOp_since (t : Thread) (o : Op) : (t.addOp o).since = t.since := rfl
@[simp] theorem Thread.addOp_readyAt (t : Thread) (o : Op) : (t.addOp o).readyAt = t.readyAt := rfl
@[simp] theorem Thread.addOp_lastB (t : Thread) (o : Op) : (t.addOp o).lastB = t.lastB := rfl
@[simp] theorem Thread.addOp_park (t : Thread) (o : Op) : (t.addOp o).park = t.park := rfl
@[simp] theorem Thread.addOp_woken (t : Thread) (o : Op) : (t.addOp o).woken = t.woken := rfl
@[simp] theorem Thread.addOp_wmark (t : Thread) (o : Op) : (t.addOp o).wmark = t.wmark := rfl
@[simp] theorem Thread.addOp_pass (t : Thread) (o : Op) : (t.addOp o).pass = t.pass := rfl
@[simp] theorem Thread.addOp_s (t : Thread) (o : Op) : (t.addOp o).s = t.s := rfl
@[simp] theorem Thread.addOp_v (t : Thread) (o : Op) : (t.addOp o).v = t.v := rfl
@[simp] theorem Thread.addOp_pw (t : Thread) (o : Op) : (t.addOp o).pw = t.pw := rfl
@[simp] theorem Thread.addOp_pc (t : Thread) (o : Op) : (t.addOp o).pc = t.pc := rfl
@[simp] theorem Thread.addOp_tid (t : Thread) (o : Op) : (t.addOp o).tid = t.tid := rfl
@[simp] theorem Thread.addOp_taskb (t : Thread) (o : Op) : (t.addOp o).taskb = t.taskb := rfl
@[simp] theorem Thread.addOp_frzc (t : Thread) (o : Op) : (t.addOp o).frzc = t.frzc := rfl
@[simp] theorem Thread.addOp_step (t : Thread) (o : Op) : (t.addOp o).step = t.step := rfl
@[simp] theorem Thread.addOp_redpend (t : Thread) (o : Op) : (t.addOp o).redpend = t.redpend := rfl
@[simp] theorem Thread.addOp_qpos (t : Thread) (o : Op) : (t.addOp o).qpos = t.qpos := rfl
@[simp] theorem Thread.addOp_tslot (t : Thread) (o : Op) : (t.addOp o).tslot = t.tslot := rfl
@[simp] theorem Thread.addOp_tcore (t : Thread) (o : Op) : (t.addOp o).tcore = t.tcore := rfl
@[simp] theorem Thread.addOp_run (t : Thread) (o : Op) : (t.addOp o).run = t.run := rfl
@[simp] theorem Thread.addOp_thresh (t : Thread) (o : Op) : (t.addOp o).thresh = t.thresh := rfl
@[simp] theorem Thread.addOp_fcsr (t : Thread) (o : Op) : (t.addOp o).fcsr = t.fcsr := rfl
@[simp] theorem Thread.addOp_trapb (t : Thread) (o : Op) : (t.addOp o).trapb = t.trapb := rfl
@[simp] theorem Thread.addOp_fpc (t : Thread) (o : Op) : (t.addOp o).fpc = t.fpc := rfl
@[simp] theorem Thread.addOp_fcode (t : Thread) (o : Op) : (t.addOp o).fcode = t.fcode := rfl
@[simp] theorem Thread.addOp_faddr (t : Thread) (o : Op) : (t.addOp o).faddr = t.faddr := rfl
@[simp] theorem Thread.addOp_eg (t : Thread) (o : Op) : (t.addOp o).eg = t.eg := rfl
@[simp] theorem Thread.addOp_resv (t : Thread) (o : Op) : (t.addOp o).resv = t.resv := rfl
@[simp] theorem Thread.addOp_barRec (t : Thread) (o : Op) : (t.addOp o).barRec = t.barRec := rfl
@[simp] theorem Thread.addOp_region (t : Thread) (o : Op) : (t.addOp o).region = t.region := rfl
@[simp] theorem Thread.addOp_held (t : Thread) (o : Op) : (t.addOp o).held = t.held := rfl
@[simp] theorem Thread.addOp_next (t : Thread) (o : Op) : (t.addOp o).next = t.next := rfl
@[simp] theorem Thread.addOp_saw (t : Thread) (o : Op) : (t.addOp o).saw = t.saw := rfl
@[simp] theorem Thread.addOp_invs (t : Thread) (o : Op) : (t.addOp o).invs = t.invs := rfl
@[simp] theorem Thread.addOp_links (t : Thread) (o : Op) : (t.addOp o).links = t.links := rfl
@[simp] theorem Thread.addOp_linksPrev (t : Thread) (o : Op) : (t.addOp o).linksPrev = t.linksPrev := rfl
@[simp] theorem Thread.orFlags_uid (t : Thread) (f : Flags) : (t.orFlags f).uid = t.uid := rfl
@[simp] theorem Thread.orFlags_pl (t : Thread) (f : Flags) : (t.orFlags f).pl = t.pl := rfl
@[simp] theorem Thread.orFlags_row (t : Thread) (f : Flags) : (t.orFlags f).row = t.row := rfl
@[simp] theorem Thread.orFlags_evicted (t : Thread) (f : Flags) : (t.orFlags f).evicted = t.evicted := rfl
@[simp] theorem Thread.orFlags_task (t : Thread) (f : Flags) : (t.orFlags f).task = t.task := rfl
@[simp] theorem Thread.orFlags_strm (t : Thread) (f : Flags) : (t.orFlags f).strm = t.strm := rfl
@[simp] theorem Thread.orFlags_slot (t : Thread) (f : Flags) : (t.orFlags f).slot = t.slot := rfl
@[simp] theorem Thread.orFlags_turns (t : Thread) (f : Flags) : (t.orFlags f).turns = t.turns := rfl
@[simp] theorem Thread.orFlags_since (t : Thread) (f : Flags) : (t.orFlags f).since = t.since := rfl
@[simp] theorem Thread.orFlags_readyAt (t : Thread) (f : Flags) : (t.orFlags f).readyAt = t.readyAt := rfl
@[simp] theorem Thread.orFlags_lastB (t : Thread) (f : Flags) : (t.orFlags f).lastB = t.lastB := rfl
@[simp] theorem Thread.orFlags_park (t : Thread) (f : Flags) : (t.orFlags f).park = t.park := rfl
@[simp] theorem Thread.orFlags_woken (t : Thread) (f : Flags) : (t.orFlags f).woken = t.woken := rfl
@[simp] theorem Thread.orFlags_wmark (t : Thread) (f : Flags) : (t.orFlags f).wmark = t.wmark := rfl
@[simp] theorem Thread.orFlags_pass (t : Thread) (f : Flags) : (t.orFlags f).pass = t.pass := rfl
@[simp] theorem Thread.orFlags_s (t : Thread) (f : Flags) : (t.orFlags f).s = t.s := rfl
@[simp] theorem Thread.orFlags_v (t : Thread) (f : Flags) : (t.orFlags f).v = t.v := rfl
@[simp] theorem Thread.orFlags_pw (t : Thread) (f : Flags) : (t.orFlags f).pw = t.pw := rfl
@[simp] theorem Thread.orFlags_pc (t : Thread) (f : Flags) : (t.orFlags f).pc = t.pc := rfl
@[simp] theorem Thread.orFlags_tid (t : Thread) (f : Flags) : (t.orFlags f).tid = t.tid := rfl
@[simp] theorem Thread.orFlags_taskb (t : Thread) (f : Flags) : (t.orFlags f).taskb = t.taskb := rfl
@[simp] theorem Thread.orFlags_frzc (t : Thread) (f : Flags) : (t.orFlags f).frzc = t.frzc := rfl
@[simp] theorem Thread.orFlags_step (t : Thread) (f : Flags) : (t.orFlags f).step = t.step := rfl
@[simp] theorem Thread.orFlags_redpend (t : Thread) (f : Flags) : (t.orFlags f).redpend = t.redpend := rfl
@[simp] theorem Thread.orFlags_qpos (t : Thread) (f : Flags) : (t.orFlags f).qpos = t.qpos := rfl
@[simp] theorem Thread.orFlags_tslot (t : Thread) (f : Flags) : (t.orFlags f).tslot = t.tslot := rfl
@[simp] theorem Thread.orFlags_tcore (t : Thread) (f : Flags) : (t.orFlags f).tcore = t.tcore := rfl
@[simp] theorem Thread.orFlags_run (t : Thread) (f : Flags) : (t.orFlags f).run = t.run := rfl
@[simp] theorem Thread.orFlags_thresh (t : Thread) (f : Flags) : (t.orFlags f).thresh = t.thresh := rfl
@[simp] theorem Thread.orFlags_fcsr (t : Thread) (f : Flags) : (t.orFlags f).fcsr = t.fcsr ||| f.setWidth 64 := rfl
@[simp] theorem Thread.orFlags_trapb (t : Thread) (f : Flags) : (t.orFlags f).trapb = t.trapb := rfl
@[simp] theorem Thread.orFlags_fpc (t : Thread) (f : Flags) : (t.orFlags f).fpc = t.fpc := rfl
@[simp] theorem Thread.orFlags_fcode (t : Thread) (f : Flags) : (t.orFlags f).fcode = t.fcode := rfl
@[simp] theorem Thread.orFlags_faddr (t : Thread) (f : Flags) : (t.orFlags f).faddr = t.faddr := rfl
@[simp] theorem Thread.orFlags_eg (t : Thread) (f : Flags) : (t.orFlags f).eg = t.eg := rfl
@[simp] theorem Thread.orFlags_resv (t : Thread) (f : Flags) : (t.orFlags f).resv = t.resv := rfl
@[simp] theorem Thread.orFlags_barRec (t : Thread) (f : Flags) : (t.orFlags f).barRec = t.barRec := rfl
@[simp] theorem Thread.orFlags_region (t : Thread) (f : Flags) : (t.orFlags f).region = t.region := rfl
@[simp] theorem Thread.orFlags_ops (t : Thread) (f : Flags) : (t.orFlags f).ops = t.ops := rfl
@[simp] theorem Thread.orFlags_held (t : Thread) (f : Flags) : (t.orFlags f).held = t.held := rfl
@[simp] theorem Thread.orFlags_next (t : Thread) (f : Flags) : (t.orFlags f).next = t.next := rfl
@[simp] theorem Thread.orFlags_saw (t : Thread) (f : Flags) : (t.orFlags f).saw = t.saw := rfl
@[simp] theorem Thread.orFlags_invs (t : Thread) (f : Flags) : (t.orFlags f).invs = t.invs := rfl
@[simp] theorem Thread.orFlags_links (t : Thread) (f : Flags) : (t.orFlags f).links = t.links := rfl
@[simp] theorem Thread.orFlags_linksPrev (t : Thread) (f : Flags) : (t.orFlags f).linksPrev = t.linksPrev := rfl
@[simp] theorem Thread.setP_uid (t : Thread) (d : Fin 16) (x : Bool) : (t.setP d x).uid = t.uid := rfl
@[simp] theorem Thread.setP_pl (t : Thread) (d : Fin 16) (x : Bool) : (t.setP d x).pl = t.pl := rfl
@[simp] theorem Thread.setP_row (t : Thread) (d : Fin 16) (x : Bool) : (t.setP d x).row = t.row := rfl
@[simp] theorem Thread.setP_evicted (t : Thread) (d : Fin 16) (x : Bool) : (t.setP d x).evicted = t.evicted := rfl
@[simp] theorem Thread.setP_task (t : Thread) (d : Fin 16) (x : Bool) : (t.setP d x).task = t.task := rfl
@[simp] theorem Thread.setP_strm (t : Thread) (d : Fin 16) (x : Bool) : (t.setP d x).strm = t.strm := rfl
@[simp] theorem Thread.setP_slot (t : Thread) (d : Fin 16) (x : Bool) : (t.setP d x).slot = t.slot := rfl
@[simp] theorem Thread.setP_turns (t : Thread) (d : Fin 16) (x : Bool) : (t.setP d x).turns = t.turns := rfl
@[simp] theorem Thread.setP_since (t : Thread) (d : Fin 16) (x : Bool) : (t.setP d x).since = t.since := rfl
@[simp] theorem Thread.setP_readyAt (t : Thread) (d : Fin 16) (x : Bool) : (t.setP d x).readyAt = t.readyAt := rfl
@[simp] theorem Thread.setP_lastB (t : Thread) (d : Fin 16) (x : Bool) : (t.setP d x).lastB = t.lastB := rfl
@[simp] theorem Thread.setP_park (t : Thread) (d : Fin 16) (x : Bool) : (t.setP d x).park = t.park := rfl
@[simp] theorem Thread.setP_woken (t : Thread) (d : Fin 16) (x : Bool) : (t.setP d x).woken = t.woken := rfl
@[simp] theorem Thread.setP_wmark (t : Thread) (d : Fin 16) (x : Bool) : (t.setP d x).wmark = t.wmark := rfl
@[simp] theorem Thread.setP_pass (t : Thread) (d : Fin 16) (x : Bool) : (t.setP d x).pass = t.pass := rfl
@[simp] theorem Thread.setP_s (t : Thread) (d : Fin 16) (x : Bool) : (t.setP d x).s = t.s := rfl
@[simp] theorem Thread.setP_v (t : Thread) (d : Fin 16) (x : Bool) : (t.setP d x).v = t.v := rfl
@[simp] theorem Thread.setP_pw (t : Thread) (d : Fin 16) (x : Bool) : (t.setP d x).pw = setBit t.pw d.val x ||| 0x80 := rfl
@[simp] theorem Thread.setP_pc (t : Thread) (d : Fin 16) (x : Bool) : (t.setP d x).pc = t.pc := rfl
@[simp] theorem Thread.setP_tid (t : Thread) (d : Fin 16) (x : Bool) : (t.setP d x).tid = t.tid := rfl
@[simp] theorem Thread.setP_taskb (t : Thread) (d : Fin 16) (x : Bool) : (t.setP d x).taskb = t.taskb := rfl
@[simp] theorem Thread.setP_frzc (t : Thread) (d : Fin 16) (x : Bool) : (t.setP d x).frzc = t.frzc := rfl
@[simp] theorem Thread.setP_step (t : Thread) (d : Fin 16) (x : Bool) : (t.setP d x).step = t.step := rfl
@[simp] theorem Thread.setP_redpend (t : Thread) (d : Fin 16) (x : Bool) : (t.setP d x).redpend = t.redpend := rfl
@[simp] theorem Thread.setP_qpos (t : Thread) (d : Fin 16) (x : Bool) : (t.setP d x).qpos = t.qpos := rfl
@[simp] theorem Thread.setP_tslot (t : Thread) (d : Fin 16) (x : Bool) : (t.setP d x).tslot = t.tslot := rfl
@[simp] theorem Thread.setP_tcore (t : Thread) (d : Fin 16) (x : Bool) : (t.setP d x).tcore = t.tcore := rfl
@[simp] theorem Thread.setP_run (t : Thread) (d : Fin 16) (x : Bool) : (t.setP d x).run = t.run := rfl
@[simp] theorem Thread.setP_thresh (t : Thread) (d : Fin 16) (x : Bool) : (t.setP d x).thresh = t.thresh := rfl
@[simp] theorem Thread.setP_fcsr (t : Thread) (d : Fin 16) (x : Bool) : (t.setP d x).fcsr = t.fcsr := rfl
@[simp] theorem Thread.setP_trapb (t : Thread) (d : Fin 16) (x : Bool) : (t.setP d x).trapb = t.trapb := rfl
@[simp] theorem Thread.setP_fpc (t : Thread) (d : Fin 16) (x : Bool) : (t.setP d x).fpc = t.fpc := rfl
@[simp] theorem Thread.setP_fcode (t : Thread) (d : Fin 16) (x : Bool) : (t.setP d x).fcode = t.fcode := rfl
@[simp] theorem Thread.setP_faddr (t : Thread) (d : Fin 16) (x : Bool) : (t.setP d x).faddr = t.faddr := rfl
@[simp] theorem Thread.setP_eg (t : Thread) (d : Fin 16) (x : Bool) : (t.setP d x).eg = t.eg := rfl
@[simp] theorem Thread.setP_resv (t : Thread) (d : Fin 16) (x : Bool) : (t.setP d x).resv = t.resv := rfl
@[simp] theorem Thread.setP_barRec (t : Thread) (d : Fin 16) (x : Bool) : (t.setP d x).barRec = t.barRec := rfl
@[simp] theorem Thread.setP_region (t : Thread) (d : Fin 16) (x : Bool) : (t.setP d x).region = t.region := rfl
@[simp] theorem Thread.setP_ops (t : Thread) (d : Fin 16) (x : Bool) : (t.setP d x).ops = t.ops := rfl
@[simp] theorem Thread.setP_held (t : Thread) (d : Fin 16) (x : Bool) : (t.setP d x).held = t.held := rfl
@[simp] theorem Thread.setP_next (t : Thread) (d : Fin 16) (x : Bool) : (t.setP d x).next = t.next := rfl
@[simp] theorem Thread.setP_saw (t : Thread) (d : Fin 16) (x : Bool) : (t.setP d x).saw = t.saw := rfl
@[simp] theorem Thread.setP_invs (t : Thread) (d : Fin 16) (x : Bool) : (t.setP d x).invs = t.invs := rfl
@[simp] theorem Thread.setP_links (t : Thread) (d : Fin 16) (x : Bool) : (t.setP d x).links = t.links := rfl
@[simp] theorem Thread.setP_linksPrev (t : Thread) (d : Fin 16) (x : Bool) : (t.setP d x).linksPrev = t.linksPrev := rfl
@[simp] theorem Thread.rte_uid (t : Thread) : (t.rte).uid = t.uid := rfl
@[simp] theorem Thread.rte_pl (t : Thread) : (t.rte).pl = t.pl := rfl
@[simp] theorem Thread.rte_row (t : Thread) : (t.rte).row = t.row := rfl
@[simp] theorem Thread.rte_evicted (t : Thread) : (t.rte).evicted = t.evicted := rfl
@[simp] theorem Thread.rte_task (t : Thread) : (t.rte).task = t.task := rfl
@[simp] theorem Thread.rte_strm (t : Thread) : (t.rte).strm = t.strm := rfl
@[simp] theorem Thread.rte_slot (t : Thread) : (t.rte).slot = t.slot := rfl
@[simp] theorem Thread.rte_turns (t : Thread) : (t.rte).turns = t.turns := rfl
@[simp] theorem Thread.rte_since (t : Thread) : (t.rte).since = t.since := rfl
@[simp] theorem Thread.rte_readyAt (t : Thread) : (t.rte).readyAt = t.readyAt := rfl
@[simp] theorem Thread.rte_lastB (t : Thread) : (t.rte).lastB = t.lastB := rfl
@[simp] theorem Thread.rte_park (t : Thread) : (t.rte).park = t.park := rfl
@[simp] theorem Thread.rte_woken (t : Thread) : (t.rte).woken = t.woken := rfl
@[simp] theorem Thread.rte_wmark (t : Thread) : (t.rte).wmark = t.wmark := rfl
@[simp] theorem Thread.rte_pass (t : Thread) : (t.rte).pass = t.pass := rfl
@[simp] theorem Thread.rte_s (t : Thread) : (t.rte).s = t.s := rfl
@[simp] theorem Thread.rte_v (t : Thread) : (t.rte).v = t.v := rfl
@[simp] theorem Thread.rte_pw (t : Thread) : (t.rte).pw = t.pw := rfl
@[simp] theorem Thread.rte_pc (t : Thread) : (t.rte).pc = t.fpc := rfl
@[simp] theorem Thread.rte_tid (t : Thread) : (t.rte).tid = t.tid := rfl
@[simp] theorem Thread.rte_taskb (t : Thread) : (t.rte).taskb = t.taskb := rfl
@[simp] theorem Thread.rte_frzc (t : Thread) : (t.rte).frzc = t.frzc := rfl
@[simp] theorem Thread.rte_step (t : Thread) : (t.rte).step = t.step := rfl
@[simp] theorem Thread.rte_redpend (t : Thread) : (t.rte).redpend = t.redpend := rfl
@[simp] theorem Thread.rte_qpos (t : Thread) : (t.rte).qpos = t.qpos := rfl
@[simp] theorem Thread.rte_tslot (t : Thread) : (t.rte).tslot = t.tslot := rfl
@[simp] theorem Thread.rte_tcore (t : Thread) : (t.rte).tcore = t.tcore := rfl
@[simp] theorem Thread.rte_run (t : Thread) : (t.rte).run = t.run := rfl
@[simp] theorem Thread.rte_thresh (t : Thread) : (t.rte).thresh = t.thresh := rfl
@[simp] theorem Thread.rte_fcsr (t : Thread) : (t.rte).fcsr = t.fcsr := rfl
@[simp] theorem Thread.rte_trapb (t : Thread) : (t.rte).trapb = t.trapb := rfl
@[simp] theorem Thread.rte_fpc (t : Thread) : (t.rte).fpc = t.fpc := rfl
@[simp] theorem Thread.rte_fcode (t : Thread) : (t.rte).fcode = 0 := rfl
@[simp] theorem Thread.rte_faddr (t : Thread) : (t.rte).faddr = t.faddr := rfl
@[simp] theorem Thread.rte_eg (t : Thread) : (t.rte).eg = t.eg := rfl
@[simp] theorem Thread.rte_resv (t : Thread) : (t.rte).resv = t.resv := rfl
@[simp] theorem Thread.rte_barRec (t : Thread) : (t.rte).barRec = t.barRec := rfl
@[simp] theorem Thread.rte_region (t : Thread) : (t.rte).region = t.region := rfl
@[simp] theorem Thread.rte_ops (t : Thread) : (t.rte).ops = t.ops := rfl
@[simp] theorem Thread.rte_held (t : Thread) : (t.rte).held = t.held := rfl
@[simp] theorem Thread.rte_next (t : Thread) : (t.rte).next = t.next := rfl
@[simp] theorem Thread.rte_saw (t : Thread) : (t.rte).saw = t.saw := rfl
@[simp] theorem Thread.rte_invs (t : Thread) : (t.rte).invs = t.invs := rfl
@[simp] theorem Thread.rte_links (t : Thread) : (t.rte).links = t.links := rfl
@[simp] theorem Thread.rte_linksPrev (t : Thread) : (t.rte).linksPrev = t.linksPrev := rfl
@[simp] theorem Thread.setS_uid (t : Thread) (d : Fin 16) (x : Word) : (t.setS d x).uid = t.uid := by
  unfold Thread.setS; simp only []; split
  · rfl
  · split <;> rfl
@[simp] theorem Thread.setS_pl (t : Thread) (d : Fin 16) (x : Word) : (t.setS d x).pl = t.pl := by
  unfold Thread.setS; simp only []; split
  · rfl
  · split <;> rfl
@[simp] theorem Thread.setS_row (t : Thread) (d : Fin 16) (x : Word) : (t.setS d x).row = t.row := by
  unfold Thread.setS; simp only []; split
  · rfl
  · split <;> rfl
@[simp] theorem Thread.setS_evicted (t : Thread) (d : Fin 16) (x : Word) : (t.setS d x).evicted = t.evicted := by
  unfold Thread.setS; simp only []; split
  · rfl
  · split <;> rfl
@[simp] theorem Thread.setS_task (t : Thread) (d : Fin 16) (x : Word) : (t.setS d x).task = t.task := by
  unfold Thread.setS; simp only []; split
  · rfl
  · split <;> rfl
@[simp] theorem Thread.setS_strm (t : Thread) (d : Fin 16) (x : Word) : (t.setS d x).strm = t.strm := by
  unfold Thread.setS; simp only []; split
  · rfl
  · split <;> rfl
@[simp] theorem Thread.setS_slot (t : Thread) (d : Fin 16) (x : Word) : (t.setS d x).slot = t.slot := by
  unfold Thread.setS; simp only []; split
  · rfl
  · split <;> rfl
@[simp] theorem Thread.setS_turns (t : Thread) (d : Fin 16) (x : Word) : (t.setS d x).turns = t.turns := by
  unfold Thread.setS; simp only []; split
  · rfl
  · split <;> rfl
@[simp] theorem Thread.setS_since (t : Thread) (d : Fin 16) (x : Word) : (t.setS d x).since = t.since := by
  unfold Thread.setS; simp only []; split
  · rfl
  · split <;> rfl
@[simp] theorem Thread.setS_readyAt (t : Thread) (d : Fin 16) (x : Word) : (t.setS d x).readyAt = t.readyAt := by
  unfold Thread.setS; simp only []; split
  · rfl
  · split <;> rfl
@[simp] theorem Thread.setS_lastB (t : Thread) (d : Fin 16) (x : Word) : (t.setS d x).lastB = t.lastB := by
  unfold Thread.setS; simp only []; split
  · rfl
  · split <;> rfl
@[simp] theorem Thread.setS_park (t : Thread) (d : Fin 16) (x : Word) : (t.setS d x).park = t.park := by
  unfold Thread.setS; simp only []; split
  · rfl
  · split <;> rfl
@[simp] theorem Thread.setS_woken (t : Thread) (d : Fin 16) (x : Word) : (t.setS d x).woken = t.woken := by
  unfold Thread.setS; simp only []; split
  · rfl
  · split <;> rfl
@[simp] theorem Thread.setS_wmark (t : Thread) (d : Fin 16) (x : Word) : (t.setS d x).wmark = t.wmark := by
  unfold Thread.setS; simp only []; split
  · rfl
  · split <;> rfl
@[simp] theorem Thread.setS_pass (t : Thread) (d : Fin 16) (x : Word) : (t.setS d x).pass = t.pass := by
  unfold Thread.setS; simp only []; split
  · rfl
  · split <;> rfl
@[simp] theorem Thread.setS_v (t : Thread) (d : Fin 16) (x : Word) : (t.setS d x).v = t.v := by
  unfold Thread.setS; simp only []; split
  · rfl
  · split <;> rfl
@[simp] theorem Thread.setS_pw (t : Thread) (d : Fin 16) (x : Word) : (t.setS d x).pw = t.pw := by
  unfold Thread.setS; simp only []; split
  · rfl
  · split <;> rfl
@[simp] theorem Thread.setS_pc (t : Thread) (d : Fin 16) (x : Word) : (t.setS d x).pc = t.pc := by
  unfold Thread.setS; simp only []; split
  · rfl
  · split <;> rfl
@[simp] theorem Thread.setS_tid (t : Thread) (d : Fin 16) (x : Word) : (t.setS d x).tid = t.tid := by
  unfold Thread.setS; simp only []; split
  · rfl
  · split <;> rfl
@[simp] theorem Thread.setS_taskb (t : Thread) (d : Fin 16) (x : Word) : (t.setS d x).taskb = t.taskb := by
  unfold Thread.setS; simp only []; split
  · rfl
  · split <;> rfl
@[simp] theorem Thread.setS_frzc (t : Thread) (d : Fin 16) (x : Word) : (t.setS d x).frzc = t.frzc := by
  unfold Thread.setS; simp only []; split
  · rfl
  · split <;> rfl
@[simp] theorem Thread.setS_step (t : Thread) (d : Fin 16) (x : Word) : (t.setS d x).step = t.step := by
  unfold Thread.setS; simp only []; split
  · rfl
  · split <;> rfl
@[simp] theorem Thread.setS_redpend (t : Thread) (d : Fin 16) (x : Word) : (t.setS d x).redpend = t.redpend := by
  unfold Thread.setS; simp only []; split
  · rfl
  · split <;> rfl
@[simp] theorem Thread.setS_qpos (t : Thread) (d : Fin 16) (x : Word) : (t.setS d x).qpos = t.qpos := by
  unfold Thread.setS; simp only []; split
  · rfl
  · split <;> rfl
@[simp] theorem Thread.setS_tslot (t : Thread) (d : Fin 16) (x : Word) : (t.setS d x).tslot = t.tslot := by
  unfold Thread.setS; simp only []; split
  · rfl
  · split <;> rfl
@[simp] theorem Thread.setS_tcore (t : Thread) (d : Fin 16) (x : Word) : (t.setS d x).tcore = t.tcore := by
  unfold Thread.setS; simp only []; split
  · rfl
  · split <;> rfl
@[simp] theorem Thread.setS_run (t : Thread) (d : Fin 16) (x : Word) : (t.setS d x).run = t.run := by
  unfold Thread.setS; simp only []; split
  · rfl
  · split <;> rfl
@[simp] theorem Thread.setS_thresh (t : Thread) (d : Fin 16) (x : Word) : (t.setS d x).thresh = t.thresh := by
  unfold Thread.setS; simp only []; split
  · rfl
  · split <;> rfl
@[simp] theorem Thread.setS_fcsr (t : Thread) (d : Fin 16) (x : Word) : (t.setS d x).fcsr = t.fcsr := by
  unfold Thread.setS; simp only []; split
  · rfl
  · split <;> rfl
@[simp] theorem Thread.setS_trapb (t : Thread) (d : Fin 16) (x : Word) : (t.setS d x).trapb = t.trapb := by
  unfold Thread.setS; simp only []; split
  · rfl
  · split <;> rfl
@[simp] theorem Thread.setS_fpc (t : Thread) (d : Fin 16) (x : Word) : (t.setS d x).fpc = t.fpc := by
  unfold Thread.setS; simp only []; split
  · rfl
  · split <;> rfl
@[simp] theorem Thread.setS_fcode (t : Thread) (d : Fin 16) (x : Word) : (t.setS d x).fcode = t.fcode := by
  unfold Thread.setS; simp only []; split
  · rfl
  · split <;> rfl
@[simp] theorem Thread.setS_faddr (t : Thread) (d : Fin 16) (x : Word) : (t.setS d x).faddr = t.faddr := by
  unfold Thread.setS; simp only []; split
  · rfl
  · split <;> rfl
@[simp] theorem Thread.setS_eg (t : Thread) (d : Fin 16) (x : Word) : (t.setS d x).eg = t.eg := by
  unfold Thread.setS; simp only []; split
  · rfl
  · split <;> rfl
@[simp] theorem Thread.setS_resv (t : Thread) (d : Fin 16) (x : Word) : (t.setS d x).resv = t.resv := by
  unfold Thread.setS; simp only []; split
  · rfl
  · split <;> rfl
@[simp] theorem Thread.setS_barRec (t : Thread) (d : Fin 16) (x : Word) : (t.setS d x).barRec = t.barRec := by
  unfold Thread.setS; simp only []; split
  · rfl
  · split <;> rfl
@[simp] theorem Thread.setS_region (t : Thread) (d : Fin 16) (x : Word) : (t.setS d x).region = t.region := by
  unfold Thread.setS; simp only []; split
  · rfl
  · split <;> rfl
@[simp] theorem Thread.setS_held (t : Thread) (d : Fin 16) (x : Word) : (t.setS d x).held = t.held := by
  unfold Thread.setS; simp only []; split
  · rfl
  · split <;> rfl
@[simp] theorem Thread.setS_next (t : Thread) (d : Fin 16) (x : Word) : (t.setS d x).next = t.next := by
  unfold Thread.setS; simp only []; split
  · rfl
  · split <;> rfl
@[simp] theorem Thread.setS_saw (t : Thread) (d : Fin 16) (x : Word) : (t.setS d x).saw = t.saw := by
  unfold Thread.setS; simp only []; split
  · rfl
  · split <;> rfl
@[simp] theorem Thread.setS_invs (t : Thread) (d : Fin 16) (x : Word) : (t.setS d x).invs = t.invs := by
  unfold Thread.setS; simp only []; split
  · rfl
  · split <;> rfl
@[simp] theorem Thread.setS_linksPrev (t : Thread) (d : Fin 16) (x : Word) : (t.setS d x).linksPrev = t.linksPrev := by
  unfold Thread.setS; simp only []; split
  · rfl
  · split <;> rfl
@[simp] theorem Thread.setV_uid (t : Thread) (d : Fin 16) (x : VWord) : (t.setV d x).uid = t.uid := by
  unfold Thread.setV; simp only []; split
  · rfl
  · split <;> rfl
@[simp] theorem Thread.setV_pl (t : Thread) (d : Fin 16) (x : VWord) : (t.setV d x).pl = t.pl := by
  unfold Thread.setV; simp only []; split
  · rfl
  · split <;> rfl
@[simp] theorem Thread.setV_row (t : Thread) (d : Fin 16) (x : VWord) : (t.setV d x).row = t.row := by
  unfold Thread.setV; simp only []; split
  · rfl
  · split <;> rfl
@[simp] theorem Thread.setV_evicted (t : Thread) (d : Fin 16) (x : VWord) : (t.setV d x).evicted = t.evicted := by
  unfold Thread.setV; simp only []; split
  · rfl
  · split <;> rfl
@[simp] theorem Thread.setV_task (t : Thread) (d : Fin 16) (x : VWord) : (t.setV d x).task = t.task := by
  unfold Thread.setV; simp only []; split
  · rfl
  · split <;> rfl
@[simp] theorem Thread.setV_strm (t : Thread) (d : Fin 16) (x : VWord) : (t.setV d x).strm = t.strm := by
  unfold Thread.setV; simp only []; split
  · rfl
  · split <;> rfl
@[simp] theorem Thread.setV_slot (t : Thread) (d : Fin 16) (x : VWord) : (t.setV d x).slot = t.slot := by
  unfold Thread.setV; simp only []; split
  · rfl
  · split <;> rfl
@[simp] theorem Thread.setV_turns (t : Thread) (d : Fin 16) (x : VWord) : (t.setV d x).turns = t.turns := by
  unfold Thread.setV; simp only []; split
  · rfl
  · split <;> rfl
@[simp] theorem Thread.setV_since (t : Thread) (d : Fin 16) (x : VWord) : (t.setV d x).since = t.since := by
  unfold Thread.setV; simp only []; split
  · rfl
  · split <;> rfl
@[simp] theorem Thread.setV_readyAt (t : Thread) (d : Fin 16) (x : VWord) : (t.setV d x).readyAt = t.readyAt := by
  unfold Thread.setV; simp only []; split
  · rfl
  · split <;> rfl
@[simp] theorem Thread.setV_lastB (t : Thread) (d : Fin 16) (x : VWord) : (t.setV d x).lastB = t.lastB := by
  unfold Thread.setV; simp only []; split
  · rfl
  · split <;> rfl
@[simp] theorem Thread.setV_park (t : Thread) (d : Fin 16) (x : VWord) : (t.setV d x).park = t.park := by
  unfold Thread.setV; simp only []; split
  · rfl
  · split <;> rfl
@[simp] theorem Thread.setV_woken (t : Thread) (d : Fin 16) (x : VWord) : (t.setV d x).woken = t.woken := by
  unfold Thread.setV; simp only []; split
  · rfl
  · split <;> rfl
@[simp] theorem Thread.setV_wmark (t : Thread) (d : Fin 16) (x : VWord) : (t.setV d x).wmark = t.wmark := by
  unfold Thread.setV; simp only []; split
  · rfl
  · split <;> rfl
@[simp] theorem Thread.setV_pass (t : Thread) (d : Fin 16) (x : VWord) : (t.setV d x).pass = t.pass := by
  unfold Thread.setV; simp only []; split
  · rfl
  · split <;> rfl
@[simp] theorem Thread.setV_s (t : Thread) (d : Fin 16) (x : VWord) : (t.setV d x).s = t.s := by
  unfold Thread.setV; simp only []; split
  · rfl
  · split <;> rfl
@[simp] theorem Thread.setV_pw (t : Thread) (d : Fin 16) (x : VWord) : (t.setV d x).pw = t.pw := by
  unfold Thread.setV; simp only []; split
  · rfl
  · split <;> rfl
@[simp] theorem Thread.setV_pc (t : Thread) (d : Fin 16) (x : VWord) : (t.setV d x).pc = t.pc := by
  unfold Thread.setV; simp only []; split
  · rfl
  · split <;> rfl
@[simp] theorem Thread.setV_tid (t : Thread) (d : Fin 16) (x : VWord) : (t.setV d x).tid = t.tid := by
  unfold Thread.setV; simp only []; split
  · rfl
  · split <;> rfl
@[simp] theorem Thread.setV_taskb (t : Thread) (d : Fin 16) (x : VWord) : (t.setV d x).taskb = t.taskb := by
  unfold Thread.setV; simp only []; split
  · rfl
  · split <;> rfl
@[simp] theorem Thread.setV_frzc (t : Thread) (d : Fin 16) (x : VWord) : (t.setV d x).frzc = t.frzc := by
  unfold Thread.setV; simp only []; split
  · rfl
  · split <;> rfl
@[simp] theorem Thread.setV_step (t : Thread) (d : Fin 16) (x : VWord) : (t.setV d x).step = t.step := by
  unfold Thread.setV; simp only []; split
  · rfl
  · split <;> rfl
@[simp] theorem Thread.setV_redpend (t : Thread) (d : Fin 16) (x : VWord) : (t.setV d x).redpend = t.redpend := by
  unfold Thread.setV; simp only []; split
  · rfl
  · split <;> rfl
@[simp] theorem Thread.setV_qpos (t : Thread) (d : Fin 16) (x : VWord) : (t.setV d x).qpos = t.qpos := by
  unfold Thread.setV; simp only []; split
  · rfl
  · split <;> rfl
@[simp] theorem Thread.setV_tslot (t : Thread) (d : Fin 16) (x : VWord) : (t.setV d x).tslot = t.tslot := by
  unfold Thread.setV; simp only []; split
  · rfl
  · split <;> rfl
@[simp] theorem Thread.setV_tcore (t : Thread) (d : Fin 16) (x : VWord) : (t.setV d x).tcore = t.tcore := by
  unfold Thread.setV; simp only []; split
  · rfl
  · split <;> rfl
@[simp] theorem Thread.setV_run (t : Thread) (d : Fin 16) (x : VWord) : (t.setV d x).run = t.run := by
  unfold Thread.setV; simp only []; split
  · rfl
  · split <;> rfl
@[simp] theorem Thread.setV_thresh (t : Thread) (d : Fin 16) (x : VWord) : (t.setV d x).thresh = t.thresh := by
  unfold Thread.setV; simp only []; split
  · rfl
  · split <;> rfl
@[simp] theorem Thread.setV_fcsr (t : Thread) (d : Fin 16) (x : VWord) : (t.setV d x).fcsr = t.fcsr := by
  unfold Thread.setV; simp only []; split
  · rfl
  · split <;> rfl
@[simp] theorem Thread.setV_trapb (t : Thread) (d : Fin 16) (x : VWord) : (t.setV d x).trapb = t.trapb := by
  unfold Thread.setV; simp only []; split
  · rfl
  · split <;> rfl
@[simp] theorem Thread.setV_fpc (t : Thread) (d : Fin 16) (x : VWord) : (t.setV d x).fpc = t.fpc := by
  unfold Thread.setV; simp only []; split
  · rfl
  · split <;> rfl
@[simp] theorem Thread.setV_fcode (t : Thread) (d : Fin 16) (x : VWord) : (t.setV d x).fcode = t.fcode := by
  unfold Thread.setV; simp only []; split
  · rfl
  · split <;> rfl
@[simp] theorem Thread.setV_faddr (t : Thread) (d : Fin 16) (x : VWord) : (t.setV d x).faddr = t.faddr := by
  unfold Thread.setV; simp only []; split
  · rfl
  · split <;> rfl
@[simp] theorem Thread.setV_eg (t : Thread) (d : Fin 16) (x : VWord) : (t.setV d x).eg = t.eg := by
  unfold Thread.setV; simp only []; split
  · rfl
  · split <;> rfl
@[simp] theorem Thread.setV_resv (t : Thread) (d : Fin 16) (x : VWord) : (t.setV d x).resv = t.resv := by
  unfold Thread.setV; simp only []; split
  · rfl
  · split <;> rfl
@[simp] theorem Thread.setV_barRec (t : Thread) (d : Fin 16) (x : VWord) : (t.setV d x).barRec = t.barRec := by
  unfold Thread.setV; simp only []; split
  · rfl
  · split <;> rfl
@[simp] theorem Thread.setV_region (t : Thread) (d : Fin 16) (x : VWord) : (t.setV d x).region = t.region := by
  unfold Thread.setV; simp only []; split
  · rfl
  · split <;> rfl
@[simp] theorem Thread.setV_held (t : Thread) (d : Fin 16) (x : VWord) : (t.setV d x).held = t.held := by
  unfold Thread.setV; simp only []; split
  · rfl
  · split <;> rfl
@[simp] theorem Thread.setV_next (t : Thread) (d : Fin 16) (x : VWord) : (t.setV d x).next = t.next := by
  unfold Thread.setV; simp only []; split
  · rfl
  · split <;> rfl
@[simp] theorem Thread.setV_saw (t : Thread) (d : Fin 16) (x : VWord) : (t.setV d x).saw = t.saw := by
  unfold Thread.setV; simp only []; split
  · rfl
  · split <;> rfl
@[simp] theorem Thread.setV_invs (t : Thread) (d : Fin 16) (x : VWord) : (t.setV d x).invs = t.invs := by
  unfold Thread.setV; simp only []; split
  · rfl
  · split <;> rfl
@[simp] theorem Thread.setV_linksPrev (t : Thread) (d : Fin 16) (x : VWord) : (t.setV d x).linksPrev = t.linksPrev := by
  unfold Thread.setV; simp only []; split
  · rfl
  · split <;> rfl
@[simp] theorem Thread.setS_ops (t : Thread) (d : Fin 16) (x : Word) : (t.setS d x).ops = discardOps (.s d) t.ops := by
  unfold Thread.setS; simp only []; split
  · rfl
  · split <;> rfl
@[simp] theorem Thread.setV_ops (t : Thread) (d : Fin 16) (x : VWord) : (t.setV d x).ops = discardOps (.v d) t.ops := by
  unfold Thread.setV; simp only []; split
  · rfl
  · split <;> rfl
/-- Outside a stream a scalar write sets the register and no link (R60, R209). -/
theorem Thread.setS_s (t : Thread) (d : Fin 16) (x : Word) (h : t.strm = none) : (t.setS d x).s = t.s.set d x := by simp [Thread.setS, h]
theorem Thread.setS_links (t : Thread) (d : Fin 16) (x : Word) (h : t.strm = none) : (t.setS d x).links = t.links := by simp [Thread.setS, h]
theorem Thread.setV_v (t : Thread) (d : Fin 16) (x : VWord) (h : t.strm = none) : (t.setV d x).v = t.v.set d x := by simp [Thread.setV, h]
theorem Thread.setV_links (t : Thread) (d : Fin 16) (x : VWord) (h : t.strm = none) : (t.setV d x).links = t.links := by simp [Thread.setV, h]

end Sys2Proof.Machine
end

