-- ==== Sys2Proof/Laws/Ops.lean ====
section
/-! SUPPORT. Ops: for each shared operation over registers, threads, faults and requests, once, everything that it does. -/

namespace Sys2Proof.Laws

open Sys2Proof.Machine Sys2Proof.Safety

/-! ### Register writes (R60, R97, R105, R117, R209) -/

/-- What a write of s[d] does. -/
theorem wroteS_wS (s : State) (d : Fin 16) (x : Word) : WroteS s (s.wS d x) d x := by
  unfold WroteS OnlyThread SameBytes State.wS Thread.setS superseded discardOps
  refine ⟨⟨rfl, fun _ => rfl⟩, ?_, ?_, ?_⟩
  · simp only [Bool.and_eq_true, beq_iff_eq]; split
    · rfl
    · split <;> rfl
  · intro k hk
    simp only [Bool.and_eq_true, beq_iff_eq]; split
    · rfl
    · split
      · rfl
      · simp only []; exact Vector.getElem_set_ne _ _ (by intro h; exact hk (Fin.ext h.symm))
  · simp only [Bool.and_eq_true, beq_iff_eq]
    split
    · exact ⟨rfl, rfl⟩
    · split
      · exact ⟨rfl, rfl⟩
      · exact ⟨Vector.getElem_set_self _, rfl⟩

/-- What a write of v[d] with its flags does. -/
theorem wroteV_wV (s : State) (d : Fin 16) (x : VWord) (f : Flags) : WroteV s ((s.wV d x).orF f) d x f := by
  unfold WroteV OnlyThread SameBytes State.wV State.orF Thread.setV Thread.orFlags superseded discardOps
  refine ⟨⟨rfl, fun _ => rfl⟩, ?_, ?_, ?_⟩
  · simp only [Bool.and_eq_true, beq_iff_eq]; split
    · rfl
    · split <;> rfl
  · intro k hk
    simp only [Bool.and_eq_true, beq_iff_eq]; split
    · rfl
    · split
      · rfl
      · simp only []; exact Vector.getElem_set_ne _ _ (by intro h; exact hk (Fin.ext h.symm))
  · simp only [Bool.and_eq_true, beq_iff_eq]
    split
    · exact ⟨rfl, rfl⟩
    · split
      · exact ⟨rfl, rfl⟩
      · exact ⟨Vector.getElem_set_self _, rfl⟩
/-- No flag raised: FCSR stays. -/
theorem orF_zero (s : State) : s.orF 0 = s := by
  unfold State.orF Thread.orFlags
  have : s.me.fcsr ||| (0 : Flags).setWidth 64 = s.me.fcsr := by simp
  rw [this]
theorem wroteV_wV0 (s : State) (d : Fin 16) (x : VWord) : WroteV s (s.wV d x) d x 0 := by
  have h := wroteV_wV s d x 0; rwa [orF_zero] at h

/-- A bit of a number read from a vector is the vector's bit. -/
theorem bit_toNat {w : Nat} (x : BitVec w) (k : Nat) : bit x.toNat k = x.getLsbD k := by
  unfold bit; rw [BitVec.getLsbD, Nat.testBit_eq_decide_div_mod_eq]; rfl
theorem setBit_get (w : BitVec 8) (d k : Nat) (hd : k < 8) (x : Bool) : (setBit w d x).getLsbD k = if k = d then x else w.getLsbD k := by
  unfold setBit
  have h : (BitVec.ofNat 8 (2 ^ d)).getLsbD k = decide (d = k) := by simp only [BitVec.getLsbD_ofNat, Nat.testBit_two_pow, hd, decide_true, Bool.true_and]
  by_cases e : k = d
  · subst e
    cases x <;> simp only [Bool.false_eq_true, if_false, if_true, BitVec.getLsbD_or, BitVec.getLsbD_and, BitVec.getLsbD_not, h, hd, decide_true, Bool.not_true, Bool.and_false, Bool.or_true]
  · have e' : ¬d = k := fun x => e x.symm
    cases x <;> simp only [Bool.false_eq_true, if_false, if_true, BitVec.getLsbD_or, BitVec.getLsbD_and, BitVec.getLsbD_not, h, hd, e, e', decide_true, decide_false, Bool.not_false, Bool.and_true, Bool.or_false]
/-- What a write of q[d] does. -/
theorem wroteP_wP (s : State) (d : Fin 16) (x : Bool) : WroteP s (s.wP d x) d x := by
  unfold WroteP OnlyThread SameBytes State.wP Thread.setP
  have seven : ∀ k, k < 7 → (0x80 : BitVec 8).getLsbD k = false := by intro k h; interval_cases k <;> rfl
  refine ⟨⟨rfl, fun _ => rfl⟩, rfl, ?_, ?_, ?_⟩
  · simp only [BitVec.getLsbD_or]; rw [show (0x80 : BitVec 8).getLsbD 7 = true from rfl, Bool.or_true]
  · intro k h7 hk
    simp only [BitVec.getLsbD_or]
    rw [setBit_get _ _ _ (by omega), if_neg hk, seven k h7, Bool.or_false]
  · intro h7
    simp only [BitVec.getLsbD_or]
    rw [setBit_get _ _ _ (by omega), if_pos rfl, seven _ h7, Bool.or_false]

/-- A meaning that writes s[d] completes, and so writes it. -/
theorem next_wS {s : State} {d : Fin 16} {x y : Word} (h : x = y) : Next (.next (s.wS d x)) (fun t => WroteS s t d y) := ⟨_, rfl, h ▸ wroteS_wS s d x⟩
theorem next_wS_of {s : State} {d : Fin 16} {x : Word} {P : Word → Prop} (h : P x) : Next (.next (s.wS d x)) (fun t => ∃ r, WroteS s t d r ∧ P r) :=
  ⟨_, rfl, x, wroteS_wS s d x, h⟩
theorem next_wP {s : State} {d : Fin 16} {x y : Bool} (h : x = y) : Next (.next (s.wP d x)) (fun t => WroteP s t d y) := ⟨_, rfl, h ▸ wroteP_wP s d x⟩
theorem next_wV {s : State} {d : Fin 16} {x y : VWord} (h : x = y) : Next (.next (s.wV d x)) (fun t => WroteV s t d y 0) := ⟨_, rfl, h ▸ wroteV_wV0 s d x⟩
/-- A vector result of lanes with the flags of the lanes. -/
theorem next_vRes {s : State} {d : Fin 16} {r : VWord × Flags} {w n : Nat} {g : Nat → Nat × Flags} (h : LanesAre w n r.1 (fun j => (g j).1))
    (hf : ∀ k, r.2.getLsbD k = true ↔ ∃ j, j < n ∧ (g j).2.getLsbD k = true) : Next (vRes s d r) (fun t => WroteLanes s t d w n g) :=
  ⟨_, rfl, r.1, r.2, wroteV_wV s d r.1 r.2, h, hf⟩
theorem next_ints {s : State} {d : Fin 16} {r : VWord} {w n : Nat} {g : Nat → Nat} (h : LanesAre w n r g) : Next (.next (s.wV d r)) (fun t => WroteInts s t d w n g) :=
  ⟨_, rfl, r, wroteV_wV0 s d r, h⟩

/-! ### Faults, rewinding, parking (R345 to R349, R66, R216) -/

/-- Taking a fault either ends the thread as failed or enters the handler at TRAPB, with FPC, FCODE and FADDR written. -/
theorem takeFault_cases (t : Thread) (f : FaultRec) :
    (t.trapb = 0 ∨ t.fcode ≠ 0) ∧ t.takeFault f = { t with park := .dead f } ∨
    (t.trapb ≠ 0 ∧ t.fcode = 0) ∧ t.takeFault f = { t with fpc := f.fpc &&& ~~~3#48, faddr := f.faddr, fcode := BitVec.ofNat 16 (f.code + f.sub * 256), pc := t.trapb } := by
  unfold Thread.takeFault
  by_cases h : t.trapb = 0 ∨ t.fcode ≠ 0
  · exact .inl ⟨h, if_pos (by simpa using h)⟩
  · exact .inr ⟨by simpa using h, if_neg (by simpa using h)⟩
/-- A point of reckoning does nothing inside a handler or with no held fault, and otherwise takes the earliest held fault and discards the others. -/
theorem reckon_cases (t : Thread) :
    (t.fcode ≠ 0 ∨ firstHeld t.held = none) ∧ t.reckon = t ∨ ∃ f, t.fcode = 0 ∧ firstHeld t.held = some f ∧ t.reckon = { t with held := [] }.takeFault f := by
  unfold Thread.reckon
  by_cases h : t.fcode = 0
  · rw [if_neg (by simpa using h)]
    cases hf : firstHeld t.held with
    | none => exact .inl ⟨.inr rfl, rfl⟩
    | some f => exact .inr ⟨f, h, rfl, rfl⟩
  · exact .inl ⟨.inl h, if_pos (by simpa using h)⟩
/-- The earliest held fault is one of them, and none is earlier. -/
theorem firstHeld_least (fs : List FaultRec) : ∀ f, firstHeld fs = some f → f ∈ fs ∧ ∀ g ∈ fs, f.op ≤ g.op := by
  induction fs with
  | nil => exact fun _ h => nomatch h
  | cons x xs ih =>
    intro f h
    simp only [firstHeld] at h
    cases hx : firstHeld xs with
    | none =>
      rw [hx] at h; injection h with h; subst h
      have : xs = [] := by cases xs with | nil => rfl | cons y ys => simp only [firstHeld] at hx; revert hx; cases firstHeld ys <;> simp; split <;> simp
      subst this; simp
    | some g =>
      rw [hx] at h; simp only [] at h
      have := ih g hx
      split at h <;> rename_i hlt <;> (injection h with h; subst h)
      · exact ⟨List.mem_cons_of_mem _ this.1, fun y hy => by rcases List.mem_cons.mp hy with rfl | hy; omega; exact this.2 y hy⟩
      · exact ⟨List.mem_cons_self, fun y hy => by rcases List.mem_cons.mp hy with rfl | hy; omega; have := this.2 y hy; omega⟩

/-- With no atomic region open there is none to break. -/
theorem breakRegion_none {t : Thread} (h : t.region = none) : t.breakRegion = t := by unfold Thread.breakRegion; rw [h]
/-- A region that breaks gives back results that had landed: it changes registers, the operations and no other part of its thread (R189). -/
theorem breakRegion_frame (t : Thread) : t.breakRegion = { t with s := t.breakRegion.s, v := t.breakRegion.v, links := t.breakRegion.links, region := none, ops := t.breakRegion.ops } := by
  unfold Thread.breakRegion
  cases hr : t.region with
  | none => simp only []; rw [← hr]
  | some r =>
    have land : ∀ (x : Thread) (o : Op), x.landReg o = { x with s := (x.landReg o).s, v := (x.landReg o).v, links := (x.landReg o).links } := by
      intro x o; unfold Thread.landReg; (repeat' split) <;> rfl
    have fold : ∀ (os : List Op) (x : Thread), os.foldl Thread.landReg x =
        { x with s := (os.foldl Thread.landReg x).s, v := (os.foldl Thread.landReg x).v, links := (os.foldl Thread.landReg x).links } := by
      intro os
      induction os with
      | nil => exact fun _ => rfl
      | cons o os ih => intro x; rw [List.foldl_cons, ih, land x o]
    simp only []
    rw [fold]
/-- An issue-time fault of a task outside a region is taken at its bundle. -/
theorem tookFault_raise (s : State) (c n : Nat) (a : Addr) (h : PlainTask s) : TookFault s (s.raise c n a) c n s.iss.b a := by
  obtain ⟨h1, h2⟩ := h
  unfold TookFault SameBytes State.raise State.status Thread.takeFault
  rw [breakRegion_none h2]
  simp only [h1, h2, Bool.or_eq_true, decide_eq_true_eq, bne_iff_ne]
  split
  · exact ⟨trivial, fun _ => trivial, rfl, rfl, rfl, rfl, rfl, rfl, ⟨_, rfl, rfl, rfl, rfl, rfl⟩, rfl, rfl, rfl⟩
  · exact ⟨trivial, fun _ => trivial, rfl, rfl, rfl, rfl, rfl, rfl, rfl, rfl, by rw [Nat.mul_comm], rfl, rfl⟩
/-- An issue-time fault touches memory in no case, and outside a region no register that a program computes with. -/
@[simp] theorem raise_mem (s : State) (c n : Nat) (a : Addr) : (s.raise c n a).mem = s.mem := by unfold State.raise; cases s.me.strm <;> rfl
theorem raise_regs (s : State) (c n : Nat) (a : Addr) (hr : s.me.region = none) : (s.raise c n a).me.s = s.me.s ∧ (s.raise c n a).me.v = s.me.v ∧ (s.raise c n a).me.pw = s.me.pw ∧
    (s.raise c n a).me.fcsr = s.me.fcsr ∧ (s.raise c n a).me.ops = s.me.ops := by
  unfold State.raise
  rw [breakRegion_none hr]
  cases s.me.strm
  · simp only [State.status, Thread.takeFault]; split <;> exact ⟨rfl, rfl, rfl, rfl, rfl⟩
  · exact ⟨rfl, rfl, rfl, rfl, rfl⟩
/-- In a stream a fault is noted for the stream, and the thread stays as it is (R216). -/
theorem raise_stream (s : State) (c n : Nat) (a : Addr) (sid : Nat) (h : s.me.strm = some sid) :
    ∃ f : FaultRec, f.code = c ∧ f.sub = n ∧ f.faddr = a ∧
      s.raise c n a = (s.modStream sid (fun st => st.noteFault s.me.pl.c (State.streamIdx st s.me.pl.c) s.me.pl.l f)).status .trapped := by
  unfold State.raise; rw [h]; exact ⟨_, rfl, rfl, rfl, rfl⟩
/-- A bundle outside a region that is not performed rewinds to itself. -/
theorem rewound_rewind (s : State) (p : Park) (h : s.me.region = none) : Rewound s (s.rewind p) p := by
  unfold Rewound State.rewind
  rw [breakRegion_none h]
  refine ⟨?_, fun _ => rfl⟩
  simp only [h, State.status]
@[simp] theorem rewind_mem (s : State) (p : Park) : (s.rewind p).mem = s.mem := rfl
theorem parked_parkAfter (s : State) (p : Park) : Parked s (s.parkAfter p) p := ⟨rfl, fun _ => rfl⟩

/-! ### Issuing (R64, R65, R158) -/

/-- An operation joins the thread and its request sets out. -/
theorem issued_issueOp (s : State) (o : Op) (k : ReqKind) (l : Loc) (ea : Addr) (P : Op → Prop) (ho : P { o with src := some l }) (h1 : o.id = s.newId) (h2 : o.fpc = s.iss.b)
    (h3 : o.res = none) (h4 : o.fault = none) : Issued s (s.issueOp o (s.newReq k l ea)) P k l :=
  ⟨{ o with src := some l }, s.newReq k l ea, rfl, fun _ => rfl, h1, h2, h3, h4, ho, rfl, rfl, rfl, rfl, rfl, rfl⟩

/-! ### Threads by number -/

/-- A change of one thread: it becomes what the change makes it, and every other thread stays, where the change keeps the number. -/
theorem thread?_modThread (s : State) (u k : Nat) (f : Thread → Thread) (hf : ∀ t, (f t).uid = t.uid) :
    (s.modThread u f).thread? k = if k = u then (s.thread? k).map f else s.thread? k := by
  unfold State.modThread State.thread?
  have hmap : ∀ ts : List Thread, (ts.map (fun t => if t.uid = u then f t else t)).find? (fun t => t.uid == k) =
      if k = u then (ts.find? (fun t => t.uid == k)).map f else ts.find? (fun t => t.uid == k) := by
    intro ts
    induction ts with
    | nil => simp
    | cons t ts ih =>
      rw [List.map_cons, List.find?_cons, List.find?_cons]
      by_cases ht : t.uid = k
      · have h1 : ((if t.uid = u then f t else t).uid == k) = true := by split <;> simp [hf, ht]
        have h2 : (t.uid == k) = true := by simp [ht]
        rw [h1, h2]
        by_cases hk : k = u
        · simp [hk, ht.trans hk]
        · simp [hk, show ¬t.uid = u by omega]
      · have h1 : ((if t.uid = u then f t else t).uid == k) = false := by split <;> simp [hf, ht]
        have h2 : (t.uid == k) = false := by simp [ht]
        rw [h1, h2]; exact ih
  by_cases hu : s.me.uid = u ∧ u ≠ 0
  · have hb : (decide (s.me.uid = u) && u != 0) = true := by simpa using hu
    simp only [hb, if_true]
    by_cases hk : k = u
    · subst hk; simp [hf, hu]
    · have h1 : (decide ((f s.me).uid = k) && k != 0) = false := by rw [hf]; simp; omega
      have h2 : (decide (s.me.uid = k) && k != 0) = false := by simp; omega
      simp [h1, h2, hk]
  · have hb : (decide (s.me.uid = u) && u != 0) = false := by simpa using hu
    simp only [hb]
    by_cases hm : s.me.uid = k ∧ k ≠ 0
    · have hk : k ≠ u := by intro e; exact hu (e ▸ hm)
      have h2 : (decide (s.me.uid = k) && k != 0) = true := by simpa using hm
      simp [h2, hk]
    · have h2 : (decide (s.me.uid = k) && k != 0) = false := by simpa using hm
      simp only [h2, Bool.false_eq_true, if_false]; exact hmap s.threads
/-- A change of one thread leaves everything that is no thread. -/
theorem modThread_frame (s : State) (u : Nat) (f : Thread → Thread) : s.modThread u f = { s with me := (s.modThread u f).me, threads := (s.modThread u f).threads } := by
  unfold State.modThread; split <;> rfl
@[simp] theorem modThread_mem (s : State) (u : Nat) (f : Thread → Thread) : (s.modThread u f).mem = s.mem := by rw [modThread_frame]
@[simp] theorem dropThread_mem (s : State) (u : Nat) : (s.dropThread u).mem = s.mem := rfl
/-- A thread that is dropped is gone, and every other stays, where no two share a number with it. -/
theorem thread?_dropThread (s : State) (u k : Nat) (hk : k ≠ u) (h0 : k ≠ 0) : (s.dropThread u).thread? k = s.thread? k := by
  unfold State.dropThread State.thread?
  have hfind : (s.threads.filter (fun t => t.uid != u)).find? (fun t => t.uid == k) = s.threads.find? (fun t => t.uid == k) := by
    rw [List.find?_filter]
    congr 1; funext t
    by_cases ht : t.uid = k
    · simp [ht, hk]
    · simp [ht]
  by_cases hm : s.me.uid = u
  · simp only [hm, if_true, hfind]
    have h1 : ¬(({} : Thread).uid = k ∧ k ≠ 0) := by rintro ⟨e, -⟩; exact h0 e.symm
    have h2 : ¬(u = k ∧ k ≠ 0) := by omega
    rw [if_neg (by simpa using h1), if_neg (by simpa using h2)]
  · simp only [hm, if_false, hfind]

/-! ### Owners -/

theorem owner_setOwner (s : State) (o k : Nat) (x : Owner) : (s.setOwner o x).owner k = if k % 16 = o % 16 then x else s.owner k := by
  unfold State.owner State.setOwner
  by_cases h : k % 16 = o % 16
  · have e : Fin.ofNat 16 k = Fin.ofNat 16 o := Fin.ext h
    rw [if_pos h]; simp only [e]; exact Vector.getElem_set_self _
  · rw [if_neg h]; exact Vector.getElem_set_ne (Fin.ofNat 16 o).isLt (Fin.ofNat 16 k).isLt (by intro e; exact h e.symm)
theorem owner_modOwner (s : State) (o k : Nat) (f : Owner → Owner) : (s.modOwner o f).owner k = if k % 16 = o % 16 then f (s.owner o) else s.owner k := owner_setOwner _ _ _ _
/-- A charge changes the owner's counters and nothing else. -/
theorem charge_frame (s : State) (o k n : Nat) : s.charge o k n = { s with owners := (s.charge o k n).owners } := rfl
theorem owner_charge (s : State) (o k n j : Nat) : (s.charge o k n).owner j = { s.owner j with meter := ((s.charge o k n).owner j).meter } := by
  unfold State.charge
  rw [owner_modOwner]
  split
  · rename_i h
    have e : s.owner j = s.owner o := by unfold State.owner; simp only [show Fin.ofNat 16 j = Fin.ofNat 16 o from Fin.ext h]
    rw [e]
  · rfl

/-! ### Completion of an operation (R345) and answers -/

/-- What the end of an operation does to its thread. -/
def finished (id : Nat) (res : VWord) (fl : Flags) (flt : Option FaultRec) (t : Thread) : Thread :=
  { t with
    ops := (t.ops.map (fun o => if o.id = id then { o with res := some res, flags := fl, fault := flt } else o)).filter (fun o => !(o.id == id && o.dest.isNone))
    woken := t.woken || (t.park == Park.limit && t.ops.any (fun o => o.id == id && o.dest.isNone && o.counts))
    held := if t.ops.any (fun o => o.id == id && o.dest.isNone) then t.held ++ flt.toList else t.held }
theorem finishOp_eq (s : State) (uid id : Nat) (res : VWord) (fl : Flags) (flt : Option FaultRec) : s.finishOp uid id res fl flt = s.modThread uid (finished id res fl flt) := rfl
@[simp] theorem finishOp_mem (s : State) (uid id : Nat) (res : VWord) (fl : Flags) (flt : Option FaultRec) : (s.finishOp uid id res fl flt).mem = s.mem := modThread_mem _ _ _
@[simp] theorem answer_mem (s : State) (r : Req) (res : VWord) (flt : Option FaultRec) : (s.answer r res flt).mem = s.mem := finishOp_mem _ _ _ _ _ _
@[simp] theorem await_mem (s : State) (r : Req) : (s.await r).mem = s.mem := rfl
/-- An answer without a fault: the request has left, its operation has the result, and no other thread changes. -/
theorem answered_answer (s : State) (r : Req) (res : VWord) : Answered s (s.answer r res none) r res := by
  unfold Answered AnsweredAs State.answer
  rw [finishOp_eq]
  refine ⟨?_, ?_, ?_⟩
  · rw [modThread_frame]
  · intro u hu
    rw [thread?_modThread _ _ _ (finished r.id res 0 none) (fun _ => rfl), if_neg hu]; rfl
  · intro x hx
    refine ⟨finished r.id res 0 none x, ?_, ?_, ?_, ?_, ?_, ?_⟩
    · rw [thread?_modThread _ _ _ (finished r.id res 0 none) (fun _ => rfl), if_pos rfl]
      exact congrArg (Option.map (finished r.id res 0 none)) hx
    · unfold finished; simp
    · intro hp; unfold finished; simp [hp]
    · intro o ho hi hd
      unfold finished
      rw [List.mem_filter]
      refine ⟨List.mem_map.mpr ⟨o, ho, by rw [if_pos hi]⟩, ?_⟩
      cases hdest : o.dest <;> simp_all
    · intro o ho hi
      unfold finished
      rw [List.mem_filter]
      exact ⟨List.mem_map.mpr ⟨o, ho, by rw [if_neg hi]⟩, by simp [hi]⟩
    · intro o ho hi
      unfold finished at ho
      rw [List.mem_filter] at ho
      obtain ⟨hm, hp⟩ := ho
      obtain ⟨p, _, hpo⟩ := List.mem_map.mp hm
      refine ⟨?_, ?_⟩
      · intro hn; simp [hi, hn] at hp
      · by_cases hpi : p.id = r.id
        · rw [if_pos hpi] at hpo; rw [← hpo]
        · rw [if_neg hpi] at hpo; subst hpo; exact absurd hi hpi

end Sys2Proof.Laws
end

