-- ==== Sys2Proof/Laws/Forms.lean ====
section
/-! SUPPORT. Forms: for each shared form of the memory, synchronisation, special-function, copy and matrix instructions, once, every way in which it
can answer: a property that holds of each of these states holds of what the form answers. -/

namespace Sys2Proof.Laws

open Sys2Proof.Machine Sys2Proof.Safety

variable {s : State} {P : State → Prop}

/-- An answer that is a next state has each property of that state. -/
theorem next_of {t : State} (h : P t) : Next (.next t) P := ⟨t, rfl, h⟩
/-- A weaker property follows. -/
theorem next_mono {r : Res} {Q : State → Prop} (h : Next r P) (hq : ∀ t, P t → Q t) : Next r Q := let ⟨t, e, p⟩ := h; ⟨t, e, hq t p⟩
/-- What a property over the next state becomes along the branches of a condition. -/
theorem next_ite {c : Prop} [Decidable c] {a b : Res} (h1 : c → Next a P) (h2 : ¬c → Next b P) : Next (if c then a else b) P := by
  split
  · exact h1 ‹_›
  · exact h2 ‹_›

/-! ### Guards of an access (R80, R165, R174, R190, R199, R223) -/

/-- A walk by a unit or a thread settles caches, TLBs, counters and marks, and nothing else (R337, R341, R342). -/
theorem settled_twice (s t : State) : s.settled t = s.settled (s.settled t) := rfl
theorem walkFill_settled (s : State) (p : Place) (va : Nat) : (s.walkFill p va).2 = s.settled (s.walkFill p va).2 := by
  unfold State.walkFill; simp only []; split <;> exact settled_twice _ _
theorem walkNow_settled (s : State) (va : Nat) (u : State.Use) : (s.walkNow va u).2 = s.settled (s.walkNow va u).2 := by
  have h := walkFill_settled s s.me.pl va
  unfold State.walkNow
  split <;> (rename_i e; rw [e] at h; exact h)
/-- Translation: a fault, a miss that parks, or the rest at a location, from a state that a walk has settled at most (R174). -/
theorem withLoc_cases {ea : Addr} {n : Nat} {u : State.Use} {k : State → Loc → Res} (flt : ∀ (s' : State) c sub a, s' = s.settled s' → P (s'.raise c sub a))
    (miss : ∀ va, P (s.missAt va ea false))
    (hit : ∀ (s' : State) l, s' = s.settled s' → Next (k s' l) P) (more : ∀ s' : State, s' = s.settled s' → P s') : Next (s.withLoc ea n u k) P := by
  unfold State.withLoc
  split
  · exact next_of (flt _ _ _ _ rfl)
  · exact hit _ _ rfl
  · rename_i va _
    refine next_ite (fun _ => ?_) (fun _ => next_of (miss _))
    have hw := walkNow_settled s va u
    split <;> (rename_i h; rw [h] at hw)
    · exact next_of (flt _ _ _ _ hw)
    · exact hit _ _ hw
    · exact next_of (more _ hw)
/-- The channel condition: the thread parks, the channel's error is raised, or the access goes on (R165, R254). -/
theorem withChan_cases {off n : Nat} {ea : Addr} {k : Res} (park : P (s.rewind (.chan off n))) (err : ∀ c sub, P (s.raise c sub ea)) (go : Next k P) :
    Next (s.withChan off n ea k) P := by
  unfold State.withChan
  split
  · exact go
  · exact next_ite (fun _ => go) (fun _ => next_of park)
  · exact next_of (err _ _)
/-- A pending acquire holds a short access at its bundle (R199). -/
theorem withAcq_cases {k : Res} (wait : P (s.rewind .acq)) (go : Next k P) : Next (s.withAcq k) P := next_ite (fun _ => next_of wait) (fun _ => go)
/-- A pending acquire, or an own reduction on the bytes, holds an access to the own scratchpad at its bundle (R199, R266). -/
theorem withOwn_cases {off n : Nat} {k : Res} (wait : P (s.rewind .acq)) (go : Next k P) : Next (s.withOwn off n k) P :=
  next_ite (fun _ => next_of wait) (fun _ => go)
/-- A core name outside the owner's slots is a PROTECTION fault (R190). -/
theorem withName_cases {x : Word} {k : Place → Res} (flt : P (s.raise 5 0 (ea0 x))) (go : nameSlot x < s.nslot s.me.pl.o → Next (k (namePlace s.me.pl.o x)) P) :
    Next (s.withName x k) P := next_ite (fun _ => next_of flt) (fun h => go (Nat.lt_of_not_le h))
/-- A descriptor: a fault, the channel condition, a pending acquire, or the rest with the eight quads (R223, R244). -/
theorem withDesc_cases {a : Fin 16} {k : Addr → List Word → Res} (flt : ∀ c sub x, P (s.raise c sub x)) (park : ∀ off, P (s.rewind (.chan off 64)))
    (wait : P (s.rewind .acq)) (go : ∀ q, Next (k (ea0 (s.rS a)) q) P) : Next (s.withDesc a k) P := by
  unfold State.withDesc
  refine next_ite (fun _ => next_of (flt _ _ _)) (fun _ => ?_)
  split
  · exact next_ite (fun _ => withOwn_cases wait (withChan_cases (park _) (fun _ _ => flt _ _ _) (go _))) (fun _ => next_of (flt _ _ _))
  · exact next_of (flt _ _ _)
/-- A channel operand of 4 or more is an operand fault (R80). -/
theorem withChannel_cases {b : Fin 16} {k : Res} (flt : P (s.raise 2 2 s.iss.b)) (go : Next k P) : Next (s.withChannel b k) P :=
  next_ite (fun _ => next_of flt) (fun _ => go)
/-- An engine-group operand of 4 or more is an operand fault (R80). -/
theorem withEg_cases {b : Fin 16} {k : Word → Res} (flt : P (s.raise 2 2 s.iss.b)) (go : ∀ c, Next (k c) P) : Next (s.withEg b k) P := by
  unfold State.withEg
  split
  · exact go _
  · exact next_of flt
/-- A request that is not there, or may not be performed yet, changes nothing (R199, R261 to R267). -/
theorem withReq_cases {id : Nat} {f : Req → Res} (idle : P s) (go : ∀ r, s.req? id = some r → s.mayPerform r = true → Next (f r) P) : Next (s.withReq id f) P := by
  unfold State.withReq
  split
  · exact next_ite (fun h => go _ ‹_› h) (fun _ => next_of idle)
  · exact next_of idle

/-! ### Loads and stores (R158 to R170, R188) -/

/-- A word of an atomic region performs nothing: it faults, parks, or joins the region; a load's operation joins its thread (R64, R188). -/
theorem regionWord_cases {r : Region} {ea : Addr} {n : Nat} {st : Option (List Byte)} {ld : Option Dest} {f : LdFmt}
    (flt : ∀ (s' : State) c sub a, s' = s.settled s' → P (s'.raise c sub a))
    (miss : ∀ va, P (s.missAt va ea false)) (more : ∀ s' : State, s' = s.settled s' → P s') (full : ∀ s' : State, s' = s.settled s' → P (s'.rewind .limit))
    (store : ∀ (s' : State) w, s' = s.settled s' → P { s' with me := { s'.me with region := some { r with words := r.words ++ [w] } } })
    (load : ∀ (s' : State) (o : Op) w ds, s' = s.settled s' → o.id = s'.newId → o.grp = r.grp → o.acq = true →
      P (State.bump { s' with me := { s'.me.addOp o with region := some { r with words := r.words ++ [w], discs := ds } } })) :
    Next (s.regionWord r ea n st ld f) P := by
  unfold State.regionWord
  refine withLoc_cases flt miss (fun s' l hs => ?_) more
  refine next_ite (fun _ => next_of (flt _ _ _ _ hs)) (fun _ => ?_)
  cases ld with
  | none => exact next_of (store _ _ hs)
  | some d => exact next_ite (fun _ => next_of (full _ hs)) (fun _ => next_of (load _ _ _ _ hs rfl rfl rfl))
/-- A long load parks at the limit of R66, or its operation and its request set out (R158). -/
theorem longLoad_cases {ea : Addr} {n : Nat} {f : LdFmt} {d : Dest} {tag : Option (BitVec 16)} {due : Option Nat} {l : Loc} (full : P (s.rewind .limit))
    (go : ∀ (o : Op) (r : Req), o.id = s.newId → o.dest = some d → r.id = s.newId → r.loc = l → r.kind = .load n f tag → P (s.issueOp o r)) : Next (s.longLoad ea n f d tag due l) P :=
  next_ite (fun _ => next_of full) (fun _ => next_of (go _ _ rfl rfl rfl rfl rfl))
/-- A short load waits, parks, faults, or writes its destination (R158, R164 to R166, R169). -/
theorem shortLoad_cases {ea : Addr} {off n : Nat} {f : LdFmt} {d : Dest} {tag : Option (BitVec 16)} (wait : P (s.rewind .acq)) (park : P (s.rewind (.chan off n)))
    (flt : ∀ c sub, P (s.raise c sub ea)) (go : P ((s.modMe (fun t => { t with run := 0 })).wDest d (loadVal f (s.mem.read (scrKey s.me.pl off) n)))) :
    Next (s.shortLoad ea off n f d tag) P :=
  withOwn_cases wait (withChan_cases park flt (next_ite (fun _ => next_of (flt _ _)) (fun _ => next_ite (fun _ => next_of (flt _ _)) (fun _ => next_of go))))
/-- A plain load of another core's scratchpad parks, moves the thread, or sets out from a state that differs in MIGT at most (R159). -/
theorem remoteLoad_cases {p : Place} {ea : Addr} {n : Nat} {f : LdFmt} {d : Dest} {tag : Option (BitVec 16)} {l : Loc} (full : P (s.rewind .limit))
    (move : P ((s.modMe (fun t => { t with run := 0, tslot := 0, tcore := 0 })).rewind (.migrate p)))
    (go : ∀ a b c, Next ((s.modMe (fun t => { t with run := a, tslot := b, tcore := c })).longLoad ea n f d tag none l) P) : Next (s.remoteLoad p ea n f d tag l) P := by
  unfold State.remoteLoad
  refine next_ite (fun _ => ?_) (fun _ => next_ite (fun _ => next_of move) (fun _ => next_ite (fun _ => next_of full) (fun _ => go _ _ _)))
  exact go s.me.run s.me.tslot s.me.tcore

/-! ### Synchronisation (R183 to R191) -/

/-- A posted or held form of a sync page faults, misses, parks at the limit, or sets out as a release (R183, R199). -/
theorem syncStore_cases {ea : Addr} {counts : Bool} {u : State.Use} {k : ReqKind} (flt : ∀ (s' : State) c sub a, s' = s.settled s' → P (s'.raise c sub a))
    (miss : ∀ va, P (s.missAt va ea false)) (more : ∀ s' : State, s' = s.settled s' → P s') (full : ∀ s' : State, s' = s.settled s' → P (s'.rewind .limit))
    (go : ∀ (s' : State) (o : Op) (r : Req), s' = s.settled s' → o.rel = true → r.kind = k → P (s'.issueOp o r)) : Next (s.syncStore ea counts u k) P :=
  withLoc_cases flt miss (fun _ _ hs => next_ite (fun _ => next_of (full _ hs)) (fun _ => next_of (go _ _ _ hs rfl rfl))) more
/-- ldfe, ldff fault, miss, park at the limit, or set out as an acquire (R183, R199). -/
theorem syncLoad_cases {d : Fin 16} {ea : Addr} {k : ReqKind} (flt : ∀ (s' : State) c sub a, s' = s.settled s' → P (s'.raise c sub a))
    (miss : ∀ va, P (s.missAt va ea false)) (more : ∀ s' : State, s' = s.settled s' → P s') (full : ∀ s' : State, s' = s.settled s' → P (s'.rewind .limit))
    (go : ∀ (s' : State) (o : Op) (r : Req), s' = s.settled s' → o.acq = true → o.dest = some (.s d) → r.kind = k → P (s'.issueOp o r)) : Next (s.syncLoad d ea k) P :=
  withLoc_cases flt miss (fun _ _ hs => next_ite (fun _ => next_of (full _ hs)) (fun _ => next_of (go _ _ _ hs rfl rfl rfl))) more
/-- A barrier form faults on its name, or sets out, and parks where it waits (R190, R191). -/
theorem barForm_cases {x : Word} {acq rel wait : Bool} {k : Nat → ReqKind} (flt : P (s.raise 5 0 (ea0 x)))
    (go : ∀ (o : Op) (r : Req), o.acq = acq → o.rel = rel → r.kind = k (nameBar x) → P (if wait then (s.issueOp o r).parkAfter (.bar s.newId) else s.issueOp o r)) :
    Next (s.barForm x acq rel wait k) P := withName_cases flt (fun _ => next_of (go _ _ rfl rfl rfl))

/-! ### Special functions, copies, matrix commands (R142, R143, R223 to R225, R244) -/

/-- A special-function request parks at a limit, or joins the buffer with its operation (R66, R142, R143). -/
theorem sfuIssue_cases {f : Nat} {d a : Fin 16} {u : BitVec 8} (full : P (s.rewind .limit)) (buf : P (s.rewind .sfu))
    (go : ∀ (o : Op) (r : SfuReq), o.id = s.newId → o.dest = some (.v d) → r.id = s.newId → r.f = f → r.arg = s.rV a → P (State.bump { s with me := s.me.addOp o, sfu := s.sfu ++ [r] })) :
    Next (s.sfuIssue f d a u) P :=
  next_ite (fun _ => next_of full) (fun _ => next_ite (fun _ => next_of buf) (fun _ => next_of (go _ _ rfl rfl rfl rfl rfl)))
/-- A copy form faults, parks, or joins the core's mailboxes, in a stream also where all four are full (R244, R246). -/
theorem copyForm_cases {k : Nat} {a : Fin 16} (flt : ∀ c sub x, P (s.raise c sub x)) (park : ∀ p, P (s.rewind p))
    (go : ∀ (m : Copy), m.kind = k → m.uid = s.me.uid → P ((s.setCore { s.core s.me.pl with mbox := (s.core s.me.pl).mbox ++ [m] }).bump)) : Next (s.copyForm k a) P := by
  unfold State.copyForm
  refine withDesc_cases flt (fun _ => park _) (park _) (fun q => ?_)
  split
  · exact next_of (flt _ _ _)
  · refine next_ite (fun _ => next_of (flt _ _ _)) (fun _ => ?_)
    simp only []
    split
    · exact next_ite (fun _ => next_of (go _ rfl rfl)) (fun _ => next_of (park _))
    · exact next_of (go _ rfl rfl)
/-- A matrix command faults, parks, or joins the commands with its operation (R223, R225). -/
theorem matForm_cases {form : Nat} {d b a : Fin 16} (flt : ∀ c sub x, P (s.raise c sub x)) (park : ∀ p, P (s.rewind p))
    (go : ∀ (o : Op) (c : Cmd), o.id = s.newId → o.dest = some (.s d) → c.id = s.newId → c.form = form → P (State.bump { s with me := s.me.addOp o, cmds := s.cmds ++ [c] })) :
    Next (s.matForm form d b a) P := by
  unfold State.matForm
  refine withEg_cases (flt _ _ _) (fun cap => withDesc_cases flt (fun _ => park _) (park _) (fun q => ?_))
  split
  · exact next_of (flt _ _ _)
  · refine next_ite (fun _ => next_of (flt _ _ _)) (fun _ => ?_)
    split
    · exact next_of (flt _ _ _)
    · exact next_ite (fun _ => next_of (flt _ _ _)) (fun _ => next_ite (fun _ => next_of (park _)) (fun _ => next_of (go _ _ rfl rfl rfl rfl)))

end Sys2Proof.Laws
end

