-- ==== Sys2Proof/Laws/Kept.lean ====
section
/-! SUPPORT. Kept: the operations that write bytes at the level of the machine keep memory in its canonical form, and the operations beside them leave
memory as it was. -/

namespace Sys2Proof.Laws

open Sys2Proof.Machine Sys2Proof.Safety

/-! ### Folds -/

/-- A fold keeps what each of its steps keeps. -/
theorem foldl_keeps {α β : Type} (Q : β → Prop) (f : β → α → β) (h : ∀ b a, Q b → Q (f b a)) (xs : List α) : ∀ b, Q b → Q (xs.foldl f b) := by
  induction xs with
  | nil => exact fun _ hb => hb
  | cons x xs ih => exact fun b hb => ih _ (h b x hb)
/-- A fold whose steps leave a part as it was leaves it as it was. -/
theorem foldl_same {α β γ : Type} (g : β → γ) (f : β → α → β) (h : ∀ b a, g (f b a) = g b) (xs : List α) (b : β) : g (xs.foldl f b) = g b :=
  foldl_keeps (fun c => g c = g b) f (fun c a hc => (h c a).trans hc) xs b rfl
/-- Memory with the same cells stands in the same form. -/
theorem memOk_congr {s t : State} (h : t.mem.cells = s.mem.cells) (hs : MemOk s) : MemOk t := (wf_congr h).trans hs
/-- What a change of memory keeps, the state keeps. -/
theorem memOk_modMem {s : State} {f : Mem → Mem} (hf : ∀ m, m.wf = true → (f m).wf = true) (hs : MemOk s) : MemOk (s.modMem f) := hf _ hs

/-! ### What leaves memory as it was -/

@[simp] theorem setSlice_mem (s : State) (x : Slice) : (s.setSlice x).mem = s.mem := rfl
@[simp] theorem setEngine_mem (s : State) (e : Engine) : (s.setEngine e).mem = s.mem := rfl
@[simp] theorem setCmd_mem (s : State) (c : Cmd) : (s.setCmd c).mem = s.mem := rfl
@[simp] theorem missAt_mem (s : State) (va : Nat) (ea : Addr) (f : Bool) : (s.missAt va ea f).mem = s.mem := by
  unfold State.missAt State.startWalk; simp only []; (repeat' split) <;> rfl
/-- An access at a home settles caches, counters and marks, and nothing else. -/
theorem chargeMem_settled (s : State) (w : Bool) (l : Loc) : s.chargeMem w l = s.settled (s.chargeMem w l) := by unfold State.chargeMem; split <;> rfl
theorem chargeKept_settled (s : State) (l : Loc) : s.chargeKept l = s.settled (s.chargeKept l) := rfl
/-! What an access at a home, a walk, or a prefetch leaves (R163, R305 to R307, R341, R342, R434). -/

theorem settles_refl (s : State) : Settles s s := ⟨rfl, fun _ => rfl⟩
theorem settles_trans {s t u : State} (h : Settles s t) (k : Settles t u) : Settles s u :=
  ⟨by obtain ⟨e, -⟩ := h; obtain ⟨f, -⟩ := k; unfold settling at e f ⊢; rw [f, e], fun o => by rw [k.2 o, h.2 o]⟩
/-- A change that meets the frame field by field, and leaves the owners, settles. -/
theorem settles_of {s t : State} (h : t = settling s t) (e : t.owners = s.owners) : Settles s t := ⟨h, fun o => by unfold State.owner; rw [e]⟩
theorem settles_charge (s : State) (o k n : Nat) : Settles s (s.charge o k n) := ⟨rfl, fun j => owner_charge s o k n j⟩
theorem settles_foldl {α : Type} (f : State → α → State) (h : ∀ s x, Settles s (f s x)) (xs : List α) : ∀ s, Settles s (xs.foldl f s) := by
  induction xs with
  | nil => exact settles_refl
  | cons x xs ih => exact fun s => settles_trans (h s x) (ih _)
theorem settles_drawn (s : State) : Settles s s.drawn := settles_of rfl rfl
theorem settles_setSlice (s : State) (x : Slice) : Settles s (s.setSlice x) := settles_of rfl rfl
theorem settles_modLine (s : State) (k : Nat) (f : MicaLine → MicaLine) : Settles s (s.modLine k f) := settles_of rfl rfl
theorem settles_errs (s : State) (es : List Nat) : Settles s (s.modFlash (fun fl => { fl with errs := fl.errs ++ es })) := settles_of rfl rfl
theorem settles_staged (s : State) (xs : List Staged) : Settles s (State.bump (s.modFlash (fun fl => { fl with staged := xs }))) := settles_of rfl rfl
theorem settles_stagingRead (s : State) (o f : Nat) : Settles s (s.stagingRead o f) := by
  unfold State.stagingRead
  simp only []
  split
  · exact settles_trans (settles_errs _ _) (settles_charge _ _ _ _)
  · split
    · exact settles_of rfl rfl
    · exact settles_trans (settles_trans (settles_trans (settles_errs _ _) (settles_staged _ _)) (settles_charge _ _ _ _)) (settles_charge _ _ _ _)
theorem settles_homeClass (s : State) (keep : Bool) (l : Loc) : Settles s (s.homeClass keep l).1 := by
  unfold State.homeClass
  split
  · split
    · exact settles_refl s
    · simp only []; split
      · exact settles_refl s
      · exact settles_setSlice _ _
  · exact settles_refl s
theorem foldl_poison {α : Type} (f : Mem → α → Mem) (h : ∀ m x, f m x = { m with poison := (f m x).poison }) (xs : List α) (m : Mem) :
    xs.foldl f m = { m with poison := (xs.foldl f m).poison } :=
  foldl_keeps (fun n => n = { m with poison := n.poison }) f (fun b a hb => by rw [h b a, hb]) xs m rfl
theorem settles_evictLine (s : State) (c : MicaLine) : Settles s (s.evictLine c) := by
  have hp : ∀ f : Mem → Mem, (∀ m, f m = { m with poison := (f m).poison }) → Settles s (s.modMem f) := fun f hf => settles_of (by
    unfold State.modMem settling; simp only []; rw [hf s.mem]) rfl
  have hl : ∀ (x : State) (f : List L1Line) (g : List Slice), Settles x { x with l1 := f, slices := g } := fun x f g => settles_of rfl rfl
  unfold State.evictLine
  exact settles_trans (settles_trans (hp _ (fun m => foldl_poison _ (fun m x => by simp only []; split <;> rfl) _ m)) (settles_charge _ _ _ _)) (hl _ _ _)
theorem settles_takeWay (s : State) (n set lo hi : Nat) : Settles s (s.takeWay n set lo hi).1 := by
  unfold State.takeWay
  simp only []
  split
  · exact settles_drawn s
  · exact settles_evictLine _ _
  · exact settles_refl s
theorem settles_allocLine (s : State) (o line key : Nat) (kept : Bool) : Settles s (s.allocLine o line key kept) := by
  unfold State.allocLine
  simp only []
  split <;> exact settles_trans (settles_takeWay _ _ _ _ _) (settles_setSlice _ _)
theorem settles_fillSectors (s : State) (o : Nat) (l : Loc) (w : Bool) : Settles s (s.fillSectors o l w) := by
  unfold State.fillSectors
  simp only []
  refine settles_trans (settles_trans ?_ (settles_modLine _ _ _)) (settles_charge _ _ _ _)
  split
  · exact settles_trans (settles_drawn s) (settles_stagingRead _ _ _)
  · exact settles_drawn s
/-- An access at a home settles the home slice, the counters and the staging cache. -/
theorem settles_homeTouch (s : State) (w keep : Bool) (l : Loc) : Settles s (s.homeTouch w keep l) := by
  unfold State.homeTouch
  split
  · exact settles_refl s
  · simp only []
    refine settles_trans (settles_trans ?_ (settles_modLine _ _ _)) (settles_of rfl rfl)
    have h1 := settles_homeClass s keep l
    split <;> split
    · exact h1
    · exact settles_trans h1 (settles_fillSectors _ _ _ _)
    · exact settles_trans h1 (settles_allocLine _ _ _ _ _)
    · exact settles_trans (settles_trans h1 (settles_allocLine _ _ _ _ _)) (settles_fillSectors _ _ _ _)
theorem settles_settled {s t : State} (h : Settles s t) : Settles s (s.settled t) := ⟨by rw [h.1]; rfl, h.2⟩
theorem settles_chargeMem (s : State) (w : Bool) (l : Loc) : Settles s (s.chargeMem w l) := by
  unfold State.chargeMem
  split
  · exact settles_charge _ _ _ _
  · exact settles_settled (settles_homeTouch _ _ _ _)
theorem settles_chargeKept (s : State) (l : Loc) : Settles s (s.chargeKept l) := settles_settled (settles_homeTouch _ _ _ _)
theorem settles_putTlb (s : State) (n : Nat) (t : Tlb) : Settles s (s.putTlb n t) := by unfold State.putTlb; simp only []; split <;> exact settles_of rfl rfl
theorem settles_fillTlb (s : State) (c : Nat) (t : Tlb) (w : List WEnt) : Settles s (s.fillTlb c t w) :=
  settles_trans (settles_trans (settles_putTlb _ _ _) (settles_putTlb _ _ _)) (settles_of rfl rfl)
/-- A walk settles what its reads and its entry leave (R337, R341, R342). -/
theorem settles_walkFill (s : State) (p : Place) (va : Nat) : Settles s (s.walkFill p va).2 := by
  unfold State.walkFill
  have h := settles_foldl (fun (t : State) (l : Loc) => t.chargeMem false l) (fun t l => settles_chargeMem t false l) (s.walkT p.o p.l va).2.reads s
  simp only []
  split
  · exact settles_settled h
  · exact settles_settled (settles_trans h (settles_fillTlb _ _ _ _))
theorem settles_walkNow (s : State) (va : Nat) (u : State.Use) : Settles s (s.walkNow va u).2 := by
  have h := settles_walkFill s s.me.pl va
  unfold State.walkNow
  split <;> (rename_i e; rw [e] at h; exact h)

/-- What settles touches no byte, F bit, reservation or tag, and nothing of the threads, the network and the monitor. -/
@[simp] theorem settled_cells (s t : State) : (s.settled t).mem.cells = s.mem.cells := rfl
@[simp] theorem settled_fbit (s t : State) : (s.settled t).mem.fbit = s.mem.fbit := rfl
@[simp] theorem settled_resv (s t : State) : (s.settled t).mem.resv = s.mem.resv := rfl
@[simp] theorem settled_tags (s t : State) : (s.settled t).mem.tags = s.mem.tags := rfl
@[simp] theorem settled_me (s t : State) : (s.settled t).me = s.me := rfl
@[simp] theorem settled_threads (s t : State) : (s.settled t).threads = s.threads := rfl
@[simp] theorem settled_net (s t : State) : (s.settled t).net = s.net := rfl
@[simp] theorem settled_regs (s t : State) : (s.settled t).regs = s.regs := rfl
@[simp] theorem settled_rot (s t : State) : (s.settled t).rot = s.rot := rfl
@[simp] theorem settled_host (s t : State) : (s.settled t).host = s.host := rfl
@[simp] theorem settled_trust (s t : State) : (s.settled t).trust = s.trust := rfl
@[simp] theorem settled_graph (s t : State) : (s.settled t).graph = s.graph := rfl
@[simp] theorem settled_settled (s t : State) : s.settled (s.settled t) = s.settled t := rfl
theorem settled_self (s : State) : s.settled s = s := rfl
/-- Bytes read alike where cells are the same. -/
theorem getB_congr {m n : Mem} (h : m.cells = n.cells) (a : Nat) : m.getB a = n.getB a := by unfold Mem.getB; rw [h]
theorem sameBytes_settled (s t : State) : SameBytes s (s.settled t) := fun _ => rfl
@[simp] theorem chargeMem_cells (s : State) (w : Bool) (l : Loc) : (s.chargeMem w l).mem.cells = s.mem.cells := by rw [chargeMem_settled]; rfl
@[simp] theorem noteOuter_mem (s : State) (w : Nat × Nat × Nat) (l : Loc) (n : Nat) : (s.noteOuter w l n).mem = s.mem := by unfold State.noteOuter; split <;> rfl
@[simp] theorem invalL1_mem (s : State) (l : Nat) (k : Option Place) : (s.invalL1 l k).mem = s.mem := rfl
@[simp] theorem askFreeze_mem (s : State) (o c : Nat) : (s.askFreeze o c).mem = s.mem := by unfold State.askFreeze; split <;> rfl
@[simp] theorem modFn_mem (s : State) (k : Nat) (f : Fn → Fn) : (s.modFn k f).mem = s.mem := rfl
@[simp] theorem signal_mem (s : State) (f v : Nat) : (s.signal f v).mem = s.mem := by unfold State.signal; (repeat' split) <;> simp
@[simp] theorem freezeFn_mem (s : State) (f c : Nat) : (s.freezeFn f c).mem = s.mem := by unfold State.freezeFn; simp
/-- Landing, parking and waking touch no byte. -/
@[simp] theorem wDest_mem (s : State) (d : Dest) (x : VWord) : (s.wDest d x).mem = s.mem := by unfold State.wDest; split <;> rfl
@[simp] theorem markForm_mem (s : State) (f : Nat) (c : Word) (o : Op) : (s.markForm f c o).mem = s.mem := rfl
@[simp] theorem putBack_mem (s : State) : s.putBack.mem = s.mem := rfl
@[simp] theorem evictTlb_mem (s : State) (k : Nat) : (s.evictTlb k).mem = s.mem := by unfold State.evictTlb; (repeat' split) <;> rfl

/-! ### What writes bytes -/

/-- The bytes that fetches still see are kept beside the cells (R340). -/
@[simp] theorem keepCode_cells (s : State) (o p n : Nat) : (s.keepCode o p n).mem.cells = s.mem.cells := rfl
/-- A write at a location keeps the form, also where a lost layer drops it (R399). -/
theorem writeLoc_memOk (s : State) (l : Loc) (bs : List Byte) (h : MemOk s) : MemOk (s.writeLoc l bs) := by
  unfold State.writeLoc
  split
  · exact h
  · refine write_wf bs _ _ ?_
    split
    · exact memOk_congr (keepCode_cells _ _ _ _) h
    · exact h
/-- A write at a location changes no mark, F bit or tag. -/
theorem writeLoc_marks (s : State) (l : Loc) (bs : List Byte) : (s.writeLoc l bs).mem.poison = s.mem.poison ∧ (s.writeLoc l bs).mem.fbit = s.mem.fbit ∧
    (s.writeLoc l bs).mem.tags = s.mem.tags ∧ (s.writeLoc l bs).mem.resv = s.mem.resv := by
  unfold State.writeLoc
  split
  · exact ⟨rfl, rfl, rfl, rfl⟩
  · split <;> simp [State.keepCode]
/-- A write of the device, and one performed at system scope, keep the form (R268, R271). -/
theorem writeDev_memOk (s : State) (w : Nat × Nat × Nat) (l : Loc) (bs : List Byte) (h : MemOk s) : MemOk (s.writeDev w l bs) :=
  writeLoc_memOk _ _ _ (memOk_congr (by simp) h)
theorem writeOut_memOk (s : State) (l : Loc) (bs : List Byte) (h : MemOk s) : MemOk (s.writeOut l bs) := writeLoc_memOk _ _ _ h
/-- Writes by the device's units and by homes keep the form (R163). -/
theorem unitWrite_memOk (s : State) (l : Loc) (bs : List Byte) (h : MemOk s) : MemOk (s.unitWrite l bs) := by
  unfold State.unitWrite
  split
  · exact writeOut_memOk _ _ _ (memOk_congr (by simp) h)
  · exact writeLoc_memOk _ _ _ h
theorem homeWrite_memOk (s : State) (w : Nat × Nat × Nat) (l : Loc) (bs : List Byte) (h : MemOk s) : MemOk (s.homeWrite w l bs) := by
  unfold State.homeWrite
  split
  · exact writeDev_memOk _ _ _ _ (memOk_congr (by simp) h)
  · exact writeDev_memOk _ _ _ _ (memOk_congr (by simp) h)
/-- Platform writes keep the form (R333). -/
theorem platWrite_memOk (bs : List Byte) : ∀ (s : State) (a : Nat), MemOk s → MemOk (s.platWrite a bs) := by
  induction bs with
  | nil => exact fun _ _ h => h
  | cons b bs ih => exact fun s a h => ih _ _ (setB_wf _ _ _ h)
/-- The erasures of a teardown keep the form (R439). -/
theorem clearPlat_memOk (s : State) (a n : Nat) (h : MemOk s) : MemOk (s.clearPlat a n) := cellsFilter_wf _ _ none h
theorem clearStacks_memOk (d : List Nat) (s : State) (h : MemOk s) : MemOk (s.clearStacks d) :=
  by
  unfold State.clearStacks
  refine foldl_keeps MemOk _ (fun b k hb => ?_) d s h
  exact clear_wf b.mem (stackKey k 0) (2 ^ 27) hb
theorem emptySlot_memOk (s : State) (o l : Nat) (h : MemOk s) : MemOk (s.emptySlot o l) := clear_wf _ _ _ h
theorem eraseBytes_memOk (s : State) (e off n : Nat) (h : MemOk s) : MemOk (s.eraseBytes e off n) := clear_wf _ _ _ h

/-! ### Parity, signatures, events -/

/-- The other seven layers and the parity layer give a byte of a data layer back (R398, R399). -/
theorem rebuiltAt_eq (s : State) (k layer off : Nat) (h : layer < 8) : s.rebuiltAt k layer off = s.mem.getB (stackKey k (layer * 2 ^ 24 + off)) := by
  have key : ∀ f : Nat → Byte, ((List.range 8).filter (· != layer)).foldl (fun b y => b ^^^ f y) ((List.range 8).foldl (fun b y => b ^^^ f y) 0) = f layer := by
    intro f
    apply BitVec.eq_of_getLsbD_eq
    intro i _
    have e : List.range 8 = [0, 1, 2, 3, 4, 5, 6, 7] := rfl
    rw [e]
    interval_cases layer <;> simp [BitVec.getLsbD_xor, Bool.xor_left_comm, Bool.xor_comm]
  exact key fun y => s.mem.getB (stackKey k (y * 2 ^ 24 + off))
/-- A signature that the holder of the private key made verifies under the public key (R417, R430). -/
theorem verifies_genuine (pk m : List Byte) : verifies pk m (signFor pk m) = true := by
  unfold verifies; simp
/-- An event of a source that holds none of its kind joins the arbiter's queue (R354, R356). -/
theorem raiseEv_joins (s : State) (e : Ev) (h : State.heldKind s.trust e = false) :
    s.raiseEv e = { s with trust := { s.trust with events := s.trust.events ++ [{ e with q := s.q }] } } := by
  simp [State.raiseEv, State.modTrust, h]

/-! ### Save areas -/

/-- A KiB of a save area is written inside the area, and memory stays in its form (R328 to R332). -/
theorem saveKib_keeps (s : State) (o draw : Nat) (m : Mem) (h : m.wf = true) : (s.saveKib o draw m).wf = true := write_wf _ _ _ h
theorem saveKib_outside (s : State) (o draw a : Nat) (m : Mem) (h : m.wf = true) (h0 : s.saveSize o ≠ 0)
    (ha : ∀ k, k < s.saveSize o / 1024 →
      let key := s.dramKey 0 (s.platNat (s.regs.savt.toNat + 16 * o) 8 + 1024 * k)
      a < key ∨ key + 1024 ≤ a) : (s.saveKib o draw m).getB a = m.getB a := by
  have hn : 0 < s.saveSize o / 1024 := by unfold State.saveSize at *; omega
  have hk := ha (s.saveAt o draw) (by
    unfold State.saveAt
    have := Nat.mod_lt (Config.freeBits draw).toNat (show 0 < max 1 (s.saveSize o / 1024) by omega)
    omega)
  have hl : ((List.range 16).flatMap (fun i => leBytes 64 (Config.freeBits (draw + 1 + i)).toNat)).length = 1024 := by
    simp [List.length_flatMap, leBytes]
  unfold State.saveKib
  simp only [getB_write _ _ _ _ h, hl]
  rw [if_neg]
  simp only at hk
  omega
/-- What is saved goes to its owner's save area, and where it has none, nowhere (R328 to R332, log 16). -/
theorem saveOut_outside (s : State) (o kib : Nat) : OutsideSave s (s.saveOut o kib) o := by
  refine ⟨fun h a => by simp [State.saveOut, h], fun hm a ha => ?_⟩
  by_cases h0 : s.saveSize o = 0
  · simp [State.saveOut, h0]
  · simp only [State.saveOut, h0, if_false]
    have key : ∀ (l : List Nat) (m : Mem), m.wf = true → (l.foldl (fun m i => s.saveKib o (s.clk.draw + 17 * i) m) m).getB a = m.getB a := by
      intro l
      induction l with
      | nil => intro m _; rfl
      | cons i l ih => intro m h; rw [List.foldl_cons, ih _ (saveKib_keeps s o _ m h), saveKib_outside s o _ a m h h0 ha]
    exact key _ _ hm

end Sys2Proof.Laws
end

