-- ==== Sys2Proof/Laws/Matrix.lean ====
section
/-! SUPPORT. The operand rows of an mma command: each is fetched once (R233). -/

namespace Sys2Proof.Laws

open Sys2Proof.Machine

/-- A row set is the row read; every other row reads as before. -/
theorem rowOf_setRow (c : Cmd) (x : FRow) (k : Nat × Nat) :
    State.rowOf (State.Cmd.setRow c x) k = if x.op = k.1 ∧ x.r = k.2 then x else State.rowOf c k := by
  have hs : State.spanOf (State.Cmd.setRow c x) k = State.spanOf c k := rfl
  simp only [State.rowOf, hs]
  simp only [State.Cmd.setRow, List.find?_append, List.find?_filter, List.find?_singleton]
  by_cases h : x.op = k.1 ∧ x.r = k.2
  · rw [if_pos h, if_pos (by simpa using h), List.find?_eq_none.mpr]
    · rfl
    · intro y _; simp [h.1, h.2]; tauto
  · rw [if_neg h, if_neg (by simpa using h), Option.or_none]
    congr 2
    funext y
    by_cases e : y.op = k.1 ∧ y.r = k.2
    · have : ¬(k.1 = x.op ∧ k.2 = x.r) := fun a => h ⟨a.1.symm, a.2.symm⟩
      simp [e.1, e.2]; tauto
    · have : (y.op == k.1 && y.r == k.2) = false := by simpa [Bool.and_eq_false_iff] using e
      simp [this]
/-- Setting a row to what it reads leaves every row as it reads. -/
theorem rowOf_setRow_self (c : Cmd) (k k' : Nat × Nat) : State.rowOf (State.Cmd.setRow c (State.rowOf c k)) k' = State.rowOf c k' := by
  have hk : (State.rowOf c k).op = k.1 ∧ (State.rowOf c k).r = k.2 := by
    simp only [State.rowOf]
    cases h : c.rows.find? _ with
    | none => exact ⟨rfl, rfl⟩
    | some y => simpa using List.find?_some h
  rw [rowOf_setRow, hk.1, hk.2]
  split
  · rename_i h; rw [show k = k' from Prod.ext h.1 h.2]
  · rfl
/-- A row that has been fetched is not fetched again (R233). -/
theorem fetchRow_fetched (s : State) (c : Cmd) (k : Nat × Nat) (f : Nat → Bool) (hn : (State.rowOf c k).got.length = (State.spanOf c k).n)
    (hall : ∀ x ∈ (State.rowOf c k).got, x.isSome = true) : s.fetchRow c k f = State.Cmd.setRow c (State.rowOf c k) := by
  have fold : ∀ (F : (List (Option Nat) × List (Nat × Nat × Nat) × List ((Nat × Nat × Nat) × Bool)) → (Nat × Option Nat) → (List (Option Nat) × List (Nat × Nat × Nat) × List ((Nat × Nat × Nat) × Bool))),
      (∀ a e, e.2.isSome = true → F a e = (a.1 ++ [e.2], a.2)) → ∀ (l : List (Nat × Option Nat)) a, (∀ e ∈ l, e.2.isSome = true) → l.foldl F a = (a.1 ++ l.map (·.2), a.2) := by
    intro F hF l
    induction l with
    | nil => intro a _; simp
    | cons e l ih => intro a h; rw [List.foldl_cons, hF a e (h e (by simp)), ih _ (fun x hx => h x (by simp [hx]))]; simp
  simp only [State.fetchRow]
  rw [fold _ (by intro a e h; simp [h]) _ _ (fun e he => hall _ (List.of_mem_zip he).2), List.map_snd_zip (by simp [hn])]
  rfl
/-- A command whose rows have all been fetched for a part is left as it reads by the part's fetch. -/
theorem fetchPart_fetched (s : State) (c : Cmd) (p : Part) (hn : ∀ k ∈ State.partRows c p, (State.rowOf c k).got.length = (State.spanOf c k).n)
    (hall : ∀ k ∈ State.partRows c p, ∀ x ∈ (State.rowOf c k).got, x.isSome = true) :
    (∀ k, State.rowOf (s.fetchPart c p) k = State.rowOf c k) ∧ State.partRows (s.fetchPart c p) p = State.partRows c p := by
  have go : ∀ (l : List (Nat × Nat)) (d : Cmd), (∀ k, State.rowOf d k = State.rowOf c k) → (∀ k, State.spanOf d k = State.spanOf c k) → d.form = c.form → (∀ k ∈ l, k ∈ State.partRows c p) →
      (∀ k, State.rowOf (l.foldl (fun c k => s.fetchRow c k (fun _ => true)) d) k = State.rowOf c k) ∧ (l.foldl (fun c k => s.fetchRow c k (fun _ => true)) d).form = c.form := by
    intro l
    induction l with
    | nil => intro d h _ hf _; exact ⟨h, hf⟩
    | cons k l ih =>
      intro d h hs hf hl
      have m := hl k (by simp)
      rw [List.foldl_cons, fetchRow_fetched s d k _ (by rw [h, hs]; exact hn k m) (by rw [h]; exact hall k m)]
      exact ih _ (fun x => by rw [rowOf_setRow_self, h]) (fun x => hs x) hf (fun x hx => hl x (by simp [hx]))
  have := go (State.partRows c p) c (fun _ => rfl) (fun _ => rfl) rfl (fun _ h => h)
  exact ⟨this.1, by have hf : (s.fetchPart c p).form = c.form := this.2
                    simp only [State.partRows, hf]⟩

end Sys2Proof.Laws
end

