-- ==== Sys2Proof/Laws/PerInstr.lean ====
section
/-! SUPPORT. PerInstr: statements made per constructor of Instr; RoundTrip, that decoding undoes encoding (R69, R83 to R93). -/

namespace Sys2Proof.Laws.RoundTrip

/-- An assigned instruction that stands for its own word is what its encoded bits decode to, whatever the guard, wait and pair bits. -/
def Statement (i : Instr) : Prop :=
  i.assigned = true → i.canonical = true → ∀ n, encodeBody i = some n → ∀ g t N, g < 16 → t < 4 →
    N = n + g * 1048576 + t * 1073741824 → decodeBody N = .ok i

theorem f16 {N : Nat} {d : Fin 16} (h : N / 65536 % 16 = d.val) : fld N 16 = d := Fin.ext (by simpa [fld, Fin.ofNat] using h)
theorem f12 {N : Nat} {d : Fin 16} (h : N / 4096 % 16 = d.val) : fld N 12 = d := Fin.ext (by simpa [fld, Fin.ofNat] using h)
theorem f8 {N : Nat} {d : Fin 16} (h : N / 256 % 16 = d.val) : fld N 8 = d := Fin.ext (by simpa [fld, Fin.ofNat] using h)
theorem f4 {N : Nat} {d : Fin 16} (h : N / 16 % 16 = d.val) : fld N 4 = d := Fin.ext (by simpa [fld, Fin.ofNat] using h)
theorem ofNatEq {w n : Nat} {v : BitVec w} (h : n = v.toNat) : BitVec.ofNat w n = v := by rw [h, BitVec.ofNat_toNat, BitVec.setWidth_eq]
theorem mod4096Eq {N : Nat} {v : BitVec 12} (h : BitVec.ofNat 12 (N % 4096) = v) : N % 4096 = v.toNat := by
  rw [← h]; simp
theorem laneMax (t : LaneT) : t.code < 11 := by cases t <;> decide
theorem laneLt (t : LaneT) : t.code < 16 := (laneMax t).trans (by decide)
theorem laneOfCode (t : LaneT) : LaneT.ofCode t.code = some t := by cases t <;> rfl

/-- The lane type of a code is the type the code names. -/
theorem withLaneEq {c : Nat} {t : LaneT} {f : LaneT → Instr} (h : c = t.code) (ha : (f t).assigned = true) : withLane c f = .ok (f t) := by
  subst h; unfold withLane; rw [laneOfCode]; exact if_pos ha

theorem major1 {N : Nat} (h : N / 16777216 % 64 = 1) : decodeBody N = (.ok (.br (BitVec.ofNat 20 (N % 1048576)))) := by unfold decodeBody; rw [h]; rfl
theorem major2 {N : Nat} (h : N / 16777216 % 64 = 2) : decodeBody N = (.ok (.call (BitVec.ofNat 20 (N % 1048576)))) := by unfold decodeBody; rw [h]; rfl
theorem major3 {N : Nat} (h : N / 16777216 % 64 = 3) : decodeBody N = (.ok (.dbnz (fld N 16) (BitVec.ofNat 16 (N % 65536)))) := by unfold decodeBody; rw [h]; rfl
theorem major4 {N : Nat} (h : N / 16777216 % 64 = 4) : decodeBody N = (decodeControl N) := by unfold decodeBody; rw [h]; rfl
theorem major5 {N : Nat} (h : N / 16777216 % 64 = 5) : decodeBody N = (if regAssigned (N % 4096) then .ok (.rsr (fld N 16) (BitVec.ofNat 12 (N % 4096))) else .error .function) := by unfold decodeBody; rw [h]; rfl
theorem major6 {N : Nat} (h : N / 16777216 % 64 = 6) : decodeBody N = (if regAssigned (N % 4096) then .ok (.wsr (fld N 12) (BitVec.ofNat 12 (N % 4096))) else .error .function) := by unfold decodeBody; rw [h]; rfl
theorem major7 {N : Nat} (h : N / 16777216 % 64 = 7) : decodeBody N = (.ok (.sloop (fld N 16) (BitVec.ofNat 16 (N % 65536)))) := by unfold decodeBody; rw [h]; rfl
theorem major8 {N : Nat} (h : N / 16777216 % 64 = 8) : decodeBody N = (.ok (.ldB (fld N 16) (fld N 12) (BitVec.ofNat 12 (N % 4096)))) := by unfold decodeBody; rw [h]; rfl
theorem major9 {N : Nat} (h : N / 16777216 % 64 = 9) : decodeBody N = (.ok (.ldH (fld N 16) (fld N 12) (BitVec.ofNat 12 (N % 4096)))) := by unfold decodeBody; rw [h]; rfl
theorem major10 {N : Nat} (h : N / 16777216 % 64 = 10) : decodeBody N = (.ok (.ldW (fld N 16) (fld N 12) (BitVec.ofNat 12 (N % 4096)))) := by unfold decodeBody; rw [h]; rfl
theorem major11 {N : Nat} (h : N / 16777216 % 64 = 11) : decodeBody N = (.ok (.ldD (fld N 16) (fld N 12) (BitVec.ofNat 12 (N % 4096)))) := by unfold decodeBody; rw [h]; rfl
theorem major12 {N : Nat} (h : N / 16777216 % 64 = 12) : decodeBody N = (.ok (.ldnB (fld N 16) (fld N 12) (BitVec.ofNat 12 (N % 4096)))) := by unfold decodeBody; rw [h]; rfl
theorem major13 {N : Nat} (h : N / 16777216 % 64 = 13) : decodeBody N = (.ok (.ldnH (fld N 16) (fld N 12) (BitVec.ofNat 12 (N % 4096)))) := by unfold decodeBody; rw [h]; rfl
theorem major14 {N : Nat} (h : N / 16777216 % 64 = 14) : decodeBody N = (.ok (.ldnW (fld N 16) (fld N 12) (BitVec.ofNat 12 (N % 4096)))) := by unfold decodeBody; rw [h]; rfl
theorem major15 {N : Nat} (h : N / 16777216 % 64 = 15) : decodeBody N = (.ok (.vld (fld N 16) (fld N 12) (BitVec.ofNat 12 (N % 4096)))) := by unfold decodeBody; rw [h]; rfl
theorem major16 {N : Nat} (h : N / 16777216 % 64 = 16) : decodeBody N = (.ok (.stB (fld N 16) (fld N 12) (BitVec.ofNat 12 (N % 4096)))) := by unfold decodeBody; rw [h]; rfl
theorem major17 {N : Nat} (h : N / 16777216 % 64 = 17) : decodeBody N = (.ok (.stH (fld N 16) (fld N 12) (BitVec.ofNat 12 (N % 4096)))) := by unfold decodeBody; rw [h]; rfl
theorem major18 {N : Nat} (h : N / 16777216 % 64 = 18) : decodeBody N = (.ok (.stW (fld N 16) (fld N 12) (BitVec.ofNat 12 (N % 4096)))) := by unfold decodeBody; rw [h]; rfl
theorem major19 {N : Nat} (h : N / 16777216 % 64 = 19) : decodeBody N = (.ok (.stD (fld N 16) (fld N 12) (BitVec.ofNat 12 (N % 4096)))) := by unfold decodeBody; rw [h]; rfl
theorem major20 {N : Nat} (h : N / 16777216 % 64 = 20) : decodeBody N = (.ok (.vst (fld N 16) (fld N 12) (BitVec.ofNat 12 (N % 4096)))) := by unfold decodeBody; rw [h]; rfl
theorem major21 {N : Nat} (h : N / 16777216 % 64 = 21) : decodeBody N = (decodeMemExtra N) := by unfold decodeBody; rw [h]; rfl
theorem major22 {N : Nat} (h : N / 16777216 % 64 = 22) : decodeBody N = (decodeSync N) := by unfold decodeBody; rw [h]; rfl
theorem major23 {N : Nat} (h : N / 16777216 % 64 = 23) : decodeBody N = (decodeThread N) := by unfold decodeBody; rw [h]; rfl
theorem major24 {N : Nat} (h : N / 16777216 % 64 = 24) : decodeBody N = (decodeSfu N) := by unfold decodeBody; rw [h]; rfl
theorem major25 {N : Nat} (h : N / 16777216 % 64 = 25) : decodeBody N = (decodeMatrix N) := by unfold decodeBody; rw [h]; rfl
theorem major26 {N : Nat} (h : N / 16777216 % 64 = 26) : decodeBody N = (decodeCopy N) := by unfold decodeBody; rw [h]; rfl
theorem major27 {N : Nat} (h : N / 16777216 % 64 = 27) : decodeBody N = (decodeFlash N) := by unfold decodeBody; rw [h]; rfl
theorem major28 {N : Nat} (h : N / 16777216 % 64 = 28) : decodeBody N = (decodeMonitor N) := by unfold decodeBody; rw [h]; rfl
theorem major29 {N : Nat} (h : N / 16777216 % 64 = 29) : decodeBody N = (.ok (.ldt (fld N 16) (fld N 12) (BitVec.ofNat 12 (N % 4096)))) := by unfold decodeBody; rw [h]; rfl
theorem major30 {N : Nat} (h : N / 16777216 % 64 = 30) : decodeBody N = (.ok (.vldt (fld N 16) (fld N 12) (BitVec.ofNat 12 (N % 4096)))) := by unfold decodeBody; rw [h]; rfl
theorem major31 {N : Nat} (h : N / 16777216 % 64 = 31) : decodeBody N = (.ok (.hint (BitVec.ofNat 20 (N % 1048576)))) := by unfold decodeBody; rw [h]; rfl
theorem major32 {N : Nat} (h : N / 16777216 % 64 = 32) : decodeBody N = (decodeAlu N) := by unfold decodeBody; rw [h]; rfl
theorem major33 {N : Nat} (h : N / 16777216 % 64 = 33) : decodeBody N = (.ok (.addi (fld N 16) (fld N 12) (BitVec.ofNat 12 (N % 4096)))) := by unfold decodeBody; rw [h]; rfl
theorem major34 {N : Nat} (h : N / 16777216 % 64 = 34) : decodeBody N = (.ok (.andi (fld N 16) (fld N 12) (BitVec.ofNat 12 (N % 4096)))) := by unfold decodeBody; rw [h]; rfl
theorem major35 {N : Nat} (h : N / 16777216 % 64 = 35) : decodeBody N = (.ok (.ori (fld N 16) (fld N 12) (BitVec.ofNat 12 (N % 4096)))) := by unfold decodeBody; rw [h]; rfl
theorem major36 {N : Nat} (h : N / 16777216 % 64 = 36) : decodeBody N = (.ok (.xori (fld N 16) (fld N 12) (BitVec.ofNat 12 (N % 4096)))) := by unfold decodeBody; rw [h]; rfl
theorem major37 {N : Nat} (h : N / 16777216 % 64 = 37) : decodeBody N = (decodeShift N) := by unfold decodeBody; rw [h]; rfl
theorem major38 {N : Nat} (h : N / 16777216 % 64 = 38) : decodeBody N = (.ok (.bfx (fld N 16) (fld N 12) (BitVec.ofNat 6 (N / 64 % 64)) (BitVec.ofNat 6 (N % 64)))) := by unfold decodeBody; rw [h]; rfl
theorem major39 {N : Nat} (h : N / 16777216 % 64 = 39) : decodeBody N = (.ok (.bfxn (fld N 16) (fld N 12) (BitVec.ofNat 6 (N / 64 % 64)) (BitVec.ofNat 6 (N % 64)))) := by unfold decodeBody; rw [h]; rfl
theorem major40 {N : Nat} (h : N / 16777216 % 64 = 40) : decodeBody N = (.ok (.bfi (fld N 16) (fld N 12) (BitVec.ofNat 6 (N / 64 % 64)) (BitVec.ofNat 6 (N % 64)))) := by unfold decodeBody; rw [h]; rfl
theorem major41 {N : Nat} (h : N / 16777216 % 64 = 41) : decodeBody N = (.ok (.li (fld N 16) (BitVec.ofNat 16 (N % 65536)))) := by unfold decodeBody; rw [h]; rfl
theorem major42 {N : Nat} (h : N / 16777216 % 64 = 42) : decodeBody N = (.ok (.lis (fld N 16) (BitVec.ofNat 16 (N % 65536)))) := by unfold decodeBody; rw [h]; rfl
theorem major43 {N : Nat} (h : N / 16777216 % 64 = 43) : decodeBody N = (decodeFour N) := by unfold decodeBody; rw [h]; rfl
theorem major44 {N : Nat} (h : N / 16777216 % 64 = 44) : decodeBody N = (.ok (.cmpiEq (fld N 16) (fld N 12) (BitVec.ofNat 12 (N % 4096)))) := by unfold decodeBody; rw [h]; rfl
theorem major45 {N : Nat} (h : N / 16777216 % 64 = 45) : decodeBody N = (.ok (.cmpiNe (fld N 16) (fld N 12) (BitVec.ofNat 12 (N % 4096)))) := by unfold decodeBody; rw [h]; rfl
theorem major46 {N : Nat} (h : N / 16777216 % 64 = 46) : decodeBody N = (.ok (.cmpiLt (fld N 16) (fld N 12) (BitVec.ofNat 12 (N % 4096)))) := by unfold decodeBody; rw [h]; rfl
theorem major47 {N : Nat} (h : N / 16777216 % 64 = 47) : decodeBody N = (.ok (.cmpiLe (fld N 16) (fld N 12) (BitVec.ofNat 12 (N % 4096)))) := by unfold decodeBody; rw [h]; rfl
theorem major48 {N : Nat} (h : N / 16777216 % 64 = 48) : decodeBody N = (.ok (.cmpiLtn (fld N 16) (fld N 12) (BitVec.ofNat 12 (N % 4096)))) := by unfold decodeBody; rw [h]; rfl
theorem major49 {N : Nat} (h : N / 16777216 % 64 = 49) : decodeBody N = (.ok (.cmpiLen (fld N 16) (fld N 12) (BitVec.ofNat 12 (N % 4096)))) := by unfold decodeBody; rw [h]; rfl
theorem major50 {N : Nat} (h : N / 16777216 % 64 = 50) : decodeBody N = (decodeVecA N) := by unfold decodeBody; rw [h]; rfl
theorem major51 {N : Nat} (h : N / 16777216 % 64 = 51) : decodeBody N = (decodeVecB N) := by unfold decodeBody; rw [h]; rfl
theorem major52 {N : Nat} (h : N / 16777216 % 64 = 52) : decodeBody N = (withLane (N / 256 % 16) (fun t => .vshli (fld N 16) (fld N 12) t (BitVec.ofNat 6 (N % 64)))) := by unfold decodeBody; rw [h]; rfl
theorem major53 {N : Nat} (h : N / 16777216 % 64 = 53) : decodeBody N = (match LaneT.ofCode (N / 16 % 16) with
    | some s => withLane (N % 16) (.vcvt (fld N 16) (fld N 12) (fld N 8) s)
    | none => .error .function) := by unfold decodeBody; rw [h]; rfl
theorem major63 {N : Nat} (h : N / 16777216 % 64 = 63) : decodeBody N = (.ok (.nop (BitVec.ofNat 20 (N % 1048576)))) := by unfold decodeBody; rw [h]; rfl
theorem decodeControl_0 {N : Nat} (h : N % 256 = 0) : decodeControl N = (.ok (.jmp (fld N 12))) := by unfold decodeControl; rw [h]; rfl
theorem decodeControl_1 {N : Nat} (h : N % 256 = 1) : decodeControl N = (.ok (.ret (fld N 12))) := by unfold decodeControl; rw [h]; rfl
theorem decodeControl_2 {N : Nat} (h : N % 256 = 2) : decodeControl N = (.ok (.send)) := by unfold decodeControl; rw [h]; rfl
theorem decodeControl_3 {N : Nat} (h : N % 256 = 3) : decodeControl N = (.ok (.exit)) := by unfold decodeControl; rw [h]; rfl
theorem decodeControl_4 {N : Nat} (h : N % 256 = 4) : decodeControl N = (.ok (.yield)) := by unfold decodeControl; rw [h]; rfl
theorem decodeControl_5 {N : Nat} (h : N % 256 = 5) : decodeControl N = (.ok (.trap (BitVec.ofNat 8 (N / 256 % 256)))) := by unfold decodeControl; rw [h]; rfl
theorem decodeControl_6 {N : Nat} (h : N % 256 = 6) : decodeControl N = (.ok (.brk)) := by unfold decodeControl; rw [h]; rfl
theorem decodeControl_7 {N : Nat} (h : N % 256 = 7) : decodeControl N = (.ok (.rte)) := by unfold decodeControl; rw [h]; rfl
theorem decodeMemExtra_0 {N : Nat} (h : N % 256 = 0) : decodeMemExtra N = (.ok (.vldBc (fld N 16) (fld N 12) (IntT.ofCode (N % 4)))) := by unfold decodeMemExtra; rw [h]; rfl
theorem decodeMemExtra_1 {N : Nat} (h : N % 256 = 1) : decodeMemExtra N = (.ok (.vldBc (fld N 16) (fld N 12) (IntT.ofCode (N % 4)))) := by unfold decodeMemExtra; rw [h]; rfl
theorem decodeMemExtra_2 {N : Nat} (h : N % 256 = 2) : decodeMemExtra N = (.ok (.vldBc (fld N 16) (fld N 12) (IntT.ofCode (N % 4)))) := by unfold decodeMemExtra; rw [h]; rfl
theorem decodeMemExtra_3 {N : Nat} (h : N % 256 = 3) : decodeMemExtra N = (.ok (.vldBc (fld N 16) (fld N 12) (IntT.ofCode (N % 4)))) := by unfold decodeMemExtra; rw [h]; rfl
theorem decodeMemExtra_4 {N : Nat} (h : N % 256 = 4) : decodeMemExtra N = (.ok (.vldk (fld N 16) (fld N 12) (fld N 8))) := by unfold decodeMemExtra; rw [h]; rfl
theorem decodeMemExtra_8 {N : Nat} (h : N % 256 = 8) : decodeMemExtra N = (.ok (.pref (fld N 12))) := by unfold decodeMemExtra; rw [h]; rfl
theorem decodeMemExtra_9 {N : Nat} (h : N % 256 = 9) : decodeMemExtra N = (.ok (.prefR (fld N 12))) := by unfold decodeMemExtra; rw [h]; rfl
theorem decodeMemExtra_16 {N : Nat} (h : N % 256 = 16) : decodeMemExtra N = (.ok (.fenceK)) := by unfold decodeMemExtra; rw [h]; rfl
theorem decodeMemExtra_17 {N : Nat} (h : N % 256 = 17) : decodeMemExtra N = (.ok (.fenceS)) := by unfold decodeMemExtra; rw [h]; rfl
theorem decodeMemExtra_18 {N : Nat} (h : N % 256 = 18) : decodeMemExtra N = (.ok (.fenceO)) := by unfold decodeMemExtra; rw [h]; rfl
theorem decodeMemExtra_19 {N : Nat} (h : N % 256 = 19) : decodeMemExtra N = (.ok (.fenceY)) := by unfold decodeMemExtra; rw [h]; rfl
theorem decodeSync_0 {N : Nat} (h : N % 256 = 0) : decodeSync N = (.ok (.ldfe (fld N 16) (fld N 12))) := by unfold decodeSync; rw [h]; rfl
theorem decodeSync_1 {N : Nat} (h : N % 256 = 1) : decodeSync N = (.ok (.ldff (fld N 16) (fld N 12))) := by unfold decodeSync; rw [h]; rfl
theorem decodeSync_2 {N : Nat} (h : N % 256 = 2) : decodeSync N = (.ok (.stfe (fld N 12) (fld N 8))) := by unfold decodeSync; rw [h]; rfl
theorem decodeSync_3 {N : Nat} (h : N % 256 = 3) : decodeSync N = (.ok (.stf (fld N 12) (fld N 8))) := by unfold decodeSync; rw [h]; rfl
theorem decodeSync_4 {N : Nat} (h : N % 256 = 4) : decodeSync N = (.ok (.feClr (fld N 12))) := by unfold decodeSync; rw [h]; rfl
theorem decodeSync_8 {N : Nat} (h : N % 256 = 8) : decodeSync N = (.ok (.lrw (fld N 16) (fld N 12))) := by unfold decodeSync; rw [h]; rfl
theorem decodeSync_9 {N : Nat} (h : N % 256 = 9) : decodeSync N = (.ok (.scq (fld N 12) (fld N 8))) := by unfold decodeSync; rw [h]; rfl
theorem decodeSync_10 {N : Nat} (h : N % 256 = 10) : decodeSync N = (.ok (.rsvRel (fld N 12))) := by unfold decodeSync; rw [h]; rfl
theorem decodeSync_16 {N : Nat} (h : N % 256 = 16) : decodeSync N = (withOp (AmoOp.ofCode (N % 16)) (.amoD (fld N 16) (fld N 12) (fld N 8))) := by unfold decodeSync; rw [h]; rfl
theorem decodeSync_17 {N : Nat} (h : N % 256 = 17) : decodeSync N = (withOp (AmoOp.ofCode (N % 16)) (.amoD (fld N 16) (fld N 12) (fld N 8))) := by unfold decodeSync; rw [h]; rfl
theorem decodeSync_18 {N : Nat} (h : N % 256 = 18) : decodeSync N = (withOp (AmoOp.ofCode (N % 16)) (.amoD (fld N 16) (fld N 12) (fld N 8))) := by unfold decodeSync; rw [h]; rfl
theorem decodeSync_19 {N : Nat} (h : N % 256 = 19) : decodeSync N = (withOp (AmoOp.ofCode (N % 16)) (.amoD (fld N 16) (fld N 12) (fld N 8))) := by unfold decodeSync; rw [h]; rfl
theorem decodeSync_20 {N : Nat} (h : N % 256 = 20) : decodeSync N = (withOp (AmoOp.ofCode (N % 16)) (.amoD (fld N 16) (fld N 12) (fld N 8))) := by unfold decodeSync; rw [h]; rfl
theorem decodeSync_21 {N : Nat} (h : N % 256 = 21) : decodeSync N = (withOp (AmoOp.ofCode (N % 16)) (.amoD (fld N 16) (fld N 12) (fld N 8))) := by unfold decodeSync; rw [h]; rfl
theorem decodeSync_22 {N : Nat} (h : N % 256 = 22) : decodeSync N = (withOp (AmoOp.ofCode (N % 16)) (.amoD (fld N 16) (fld N 12) (fld N 8))) := by unfold decodeSync; rw [h]; rfl
theorem decodeSync_23 {N : Nat} (h : N % 256 = 23) : decodeSync N = (withOp (AmoOp.ofCode (N % 16)) (.amoD (fld N 16) (fld N 12) (fld N 8))) := by unfold decodeSync; rw [h]; rfl
theorem decodeSync_24 {N : Nat} (h : N % 256 = 24) : decodeSync N = (withOp (AmoOp.ofCode (N % 16)) (.amoD (fld N 16) (fld N 12) (fld N 8))) := by unfold decodeSync; rw [h]; rfl
theorem decodeSync_25 {N : Nat} (h : N % 256 = 25) : decodeSync N = (withOp (AmoOp.ofCode (N % 16)) (.amoD (fld N 16) (fld N 12) (fld N 8))) := by unfold decodeSync; rw [h]; rfl
theorem decodeSync_32 {N : Nat} (h : N % 256 = 32) : decodeSync N = (withOp (AmoOp.ofCode (N % 16)) (.amoW (fld N 16) (fld N 12) (fld N 8))) := by unfold decodeSync; rw [h]; rfl
theorem decodeSync_33 {N : Nat} (h : N % 256 = 33) : decodeSync N = (withOp (AmoOp.ofCode (N % 16)) (.amoW (fld N 16) (fld N 12) (fld N 8))) := by unfold decodeSync; rw [h]; rfl
theorem decodeSync_34 {N : Nat} (h : N % 256 = 34) : decodeSync N = (withOp (AmoOp.ofCode (N % 16)) (.amoW (fld N 16) (fld N 12) (fld N 8))) := by unfold decodeSync; rw [h]; rfl
theorem decodeSync_35 {N : Nat} (h : N % 256 = 35) : decodeSync N = (withOp (AmoOp.ofCode (N % 16)) (.amoW (fld N 16) (fld N 12) (fld N 8))) := by unfold decodeSync; rw [h]; rfl
theorem decodeSync_36 {N : Nat} (h : N % 256 = 36) : decodeSync N = (withOp (AmoOp.ofCode (N % 16)) (.amoW (fld N 16) (fld N 12) (fld N 8))) := by unfold decodeSync; rw [h]; rfl
theorem decodeSync_37 {N : Nat} (h : N % 256 = 37) : decodeSync N = (withOp (AmoOp.ofCode (N % 16)) (.amoW (fld N 16) (fld N 12) (fld N 8))) := by unfold decodeSync; rw [h]; rfl
theorem decodeSync_38 {N : Nat} (h : N % 256 = 38) : decodeSync N = (withOp (AmoOp.ofCode (N % 16)) (.amoW (fld N 16) (fld N 12) (fld N 8))) := by unfold decodeSync; rw [h]; rfl
theorem decodeSync_39 {N : Nat} (h : N % 256 = 39) : decodeSync N = (withOp (AmoOp.ofCode (N % 16)) (.amoW (fld N 16) (fld N 12) (fld N 8))) := by unfold decodeSync; rw [h]; rfl
theorem decodeSync_40 {N : Nat} (h : N % 256 = 40) : decodeSync N = (withOp (AmoOp.ofCode (N % 16)) (.amoW (fld N 16) (fld N 12) (fld N 8))) := by unfold decodeSync; rw [h]; rfl
theorem decodeSync_41 {N : Nat} (h : N % 256 = 41) : decodeSync N = (withOp (AmoOp.ofCode (N % 16)) (.amoW (fld N 16) (fld N 12) (fld N 8))) := by unfold decodeSync; rw [h]; rfl
theorem decodeSync_48 {N : Nat} (h : N % 256 = 48) : decodeSync N = (withOp (RedOp.ofCode (N % 8)) (.redD (fld N 12) (fld N 8))) := by unfold decodeSync; rw [h]; rfl
theorem decodeSync_49 {N : Nat} (h : N % 256 = 49) : decodeSync N = (withOp (RedOp.ofCode (N % 8)) (.redD (fld N 12) (fld N 8))) := by unfold decodeSync; rw [h]; rfl
theorem decodeSync_50 {N : Nat} (h : N % 256 = 50) : decodeSync N = (withOp (RedOp.ofCode (N % 8)) (.redD (fld N 12) (fld N 8))) := by unfold decodeSync; rw [h]; rfl
theorem decodeSync_51 {N : Nat} (h : N % 256 = 51) : decodeSync N = (withOp (RedOp.ofCode (N % 8)) (.redD (fld N 12) (fld N 8))) := by unfold decodeSync; rw [h]; rfl
theorem decodeSync_52 {N : Nat} (h : N % 256 = 52) : decodeSync N = (withOp (RedOp.ofCode (N % 8)) (.redD (fld N 12) (fld N 8))) := by unfold decodeSync; rw [h]; rfl
theorem decodeSync_53 {N : Nat} (h : N % 256 = 53) : decodeSync N = (withOp (RedOp.ofCode (N % 8)) (.redD (fld N 12) (fld N 8))) := by unfold decodeSync; rw [h]; rfl
theorem decodeSync_56 {N : Nat} (h : N % 256 = 56) : decodeSync N = (withOp (RedOp.ofCode (N % 8)) (.redW (fld N 12) (fld N 8))) := by unfold decodeSync; rw [h]; rfl
theorem decodeSync_57 {N : Nat} (h : N % 256 = 57) : decodeSync N = (withOp (RedOp.ofCode (N % 8)) (.redW (fld N 12) (fld N 8))) := by unfold decodeSync; rw [h]; rfl
theorem decodeSync_58 {N : Nat} (h : N % 256 = 58) : decodeSync N = (withOp (RedOp.ofCode (N % 8)) (.redW (fld N 12) (fld N 8))) := by unfold decodeSync; rw [h]; rfl
theorem decodeSync_59 {N : Nat} (h : N % 256 = 59) : decodeSync N = (withOp (RedOp.ofCode (N % 8)) (.redW (fld N 12) (fld N 8))) := by unfold decodeSync; rw [h]; rfl
theorem decodeSync_60 {N : Nat} (h : N % 256 = 60) : decodeSync N = (withOp (RedOp.ofCode (N % 8)) (.redW (fld N 12) (fld N 8))) := by unfold decodeSync; rw [h]; rfl
theorem decodeSync_61 {N : Nat} (h : N % 256 = 61) : decodeSync N = (withOp (RedOp.ofCode (N % 8)) (.redW (fld N 12) (fld N 8))) := by unfold decodeSync; rw [h]; rfl
theorem decodeSync_62 {N : Nat} (h : N % 256 = 62) : decodeSync N = (.ok (.redFaddF32 (fld N 12) (fld N 8))) := by unfold decodeSync; rw [h]; rfl
theorem decodeSync_64 {N : Nat} (h : N % 256 = 64) : decodeSync N = (.ok (.areg (fld N 8))) := by unfold decodeSync; rw [h]; rfl
theorem decodeSync_72 {N : Nat} (h : N % 256 = 72) : decodeSync N = (.ok (.barInit (fld N 12) (fld N 8))) := by unfold decodeSync; rw [h]; rfl
theorem decodeSync_73 {N : Nat} (h : N % 256 = 73) : decodeSync N = (.ok (.barArrive (fld N 12))) := by unfold decodeSync; rw [h]; rfl
theorem decodeSync_74 {N : Nat} (h : N % 256 = 74) : decodeSync N = (.ok (.barWait (fld N 12))) := by unfold decodeSync; rw [h]; rfl
theorem decodeSync_75 {N : Nat} (h : N % 256 = 75) : decodeSync N = (.ok (.barSync (fld N 12))) := by unfold decodeSync; rw [h]; rfl
theorem decodeSync_80 {N : Nat} (h : N % 256 = 80) : decodeSync N = (.ok (.qpush (fld N 12) (fld N 8))) := by unfold decodeSync; rw [h]; rfl
theorem decodeSync_81 {N : Nat} (h : N % 256 = 81) : decodeSync N = (.ok (.qpop (fld N 16) (fld N 12))) := by unfold decodeSync; rw [h]; rfl
theorem decodeSync_82 {N : Nat} (h : N % 256 = 82) : decodeSync N = (.ok (.qpeek (fld N 16) (fld N 12))) := by unfold decodeSync; rw [h]; rfl
theorem decodeSync_83 {N : Nat} (h : N % 256 = 83) : decodeSync N = (.ok (.qredI32 (fld N 16) (fld N 12) (fld N 8))) := by unfold decodeSync; rw [h]; rfl
theorem decodeSync_84 {N : Nat} (h : N % 256 = 84) : decodeSync N = (.ok (.qredI64 (fld N 16) (fld N 12) (fld N 8))) := by unfold decodeSync; rw [h]; rfl
theorem decodeSync_85 {N : Nat} (h : N % 256 = 85) : decodeSync N = (.ok (.qredF32 (fld N 16) (fld N 12) (fld N 8))) := by unfold decodeSync; rw [h]; rfl
theorem decodeSync_88 {N : Nat} (h : N % 256 = 88) : decodeSync N = (.ok (.msg (fld N 12) (fld N 8))) := by unfold decodeSync; rw [h]; rfl
theorem decodeSync_89 {N : Nat} (h : N % 256 = 89) : decodeSync N = (.ok (.mrecv (fld N 16))) := by unfold decodeSync; rw [h]; rfl
theorem decodeThread_0 {N : Nat} (h : N % 256 = 0) : decodeThread N = (.ok (.go (fld N 12))) := by unfold decodeThread; rw [h]; rfl
theorem decodeThread_1 {N : Nat} (h : N % 256 = 1) : decodeThread N = (.ok (.spawn (fld N 16) (fld N 12))) := by unfold decodeThread; rw [h]; rfl
theorem decodeThread_2 {N : Nat} (h : N % 256 = 2) : decodeThread N = (.ok (.step)) := by unfold decodeThread; rw [h]; rfl
theorem decodeSfu_0 {N : Nat} (h : N / 256 % 16 = 0) : decodeSfu N = (.ok (.fexp2 (fld N 16) (fld N 12) (BitVec.ofNat 8 (N % 256)))) := by unfold decodeSfu; rw [h]; rfl
theorem decodeSfu_1 {N : Nat} (h : N / 256 % 16 = 1) : decodeSfu N = (.ok (.flog2 (fld N 16) (fld N 12) (BitVec.ofNat 8 (N % 256)))) := by unfold decodeSfu; rw [h]; rfl
theorem decodeSfu_2 {N : Nat} (h : N / 256 % 16 = 2) : decodeSfu N = (.ok (.frcp (fld N 16) (fld N 12) (BitVec.ofNat 8 (N % 256)))) := by unfold decodeSfu; rw [h]; rfl
theorem decodeSfu_3 {N : Nat} (h : N / 256 % 16 = 3) : decodeSfu N = (.ok (.frsqrt (fld N 16) (fld N 12) (BitVec.ofNat 8 (N % 256)))) := by unfold decodeSfu; rw [h]; rfl
theorem decodeSfu_4 {N : Nat} (h : N / 256 % 16 = 4) : decodeSfu N = (.ok (.fsqrt (fld N 16) (fld N 12) (BitVec.ofNat 8 (N % 256)))) := by unfold decodeSfu; rw [h]; rfl
theorem decodeSfu_5 {N : Nat} (h : N / 256 % 16 = 5) : decodeSfu N = (.ok (.fsinp (fld N 16) (fld N 12) (BitVec.ofNat 8 (N % 256)))) := by unfold decodeSfu; rw [h]; rfl
theorem decodeSfu_6 {N : Nat} (h : N / 256 % 16 = 6) : decodeSfu N = (.ok (.fcosp (fld N 16) (fld N 12) (BitVec.ofNat 8 (N % 256)))) := by unfold decodeSfu; rw [h]; rfl
theorem decodeSfu_7 {N : Nat} (h : N / 256 % 16 = 7) : decodeSfu N = (.ok (.ftanh (fld N 16) (fld N 12) (BitVec.ofNat 8 (N % 256)))) := by unfold decodeSfu; rw [h]; rfl
theorem decodeSfu_8 {N : Nat} (h : N / 256 % 16 = 8) : decodeSfu N = (.ok (.fsigm (fld N 16) (fld N 12) (BitVec.ofNat 8 (N % 256)))) := by unfold decodeSfu; rw [h]; rfl
theorem decodeMatrix_0 {N : Nat} (h : N % 256 = 0) : decodeMatrix N = (.ok (.mgrp (fld N 16) (fld N 12))) := by unfold decodeMatrix; rw [h]; rfl
theorem decodeMatrix_1 {N : Nat} (h : N % 256 = 1) : decodeMatrix N = (.ok (.mclr (fld N 16) (fld N 12) (fld N 8))) := by unfold decodeMatrix; rw [h]; rfl
theorem decodeMatrix_2 {N : Nat} (h : N % 256 = 2) : decodeMatrix N = (.ok (.mmaG8 (fld N 16) (fld N 12) (fld N 8))) := by unfold decodeMatrix; rw [h]; rfl
theorem decodeMatrix_3 {N : Nat} (h : N % 256 = 3) : decodeMatrix N = (.ok (.mmaI8 (fld N 16) (fld N 12) (fld N 8))) := by unfold decodeMatrix; rw [h]; rfl
theorem decodeMatrix_4 {N : Nat} (h : N % 256 = 4) : decodeMatrix N = (.ok (.mmaBf16 (fld N 16) (fld N 12) (fld N 8))) := by unfold decodeMatrix; rw [h]; rfl
theorem decodeMatrix_5 {N : Nat} (h : N % 256 = 5) : decodeMatrix N = (.ok (.mmaG8bf (fld N 16) (fld N 12) (fld N 8))) := by unfold decodeMatrix; rw [h]; rfl
theorem decodeMatrix_6 {N : Nat} (h : N % 256 = 6) : decodeMatrix N = (.ok (.mrd (fld N 16) (fld N 12) (fld N 8))) := by unfold decodeMatrix; rw [h]; rfl
theorem decodeMatrix_7 {N : Nat} (h : N % 256 = 7) : decodeMatrix N = (.ok (.mrdq (fld N 16) (fld N 12) (fld N 8))) := by unfold decodeMatrix; rw [h]; rfl
theorem decodeMatrix_8 {N : Nat} (h : N % 256 = 8) : decodeMatrix N = (.ok (.mstat (fld N 16) (fld N 8))) := by unfold decodeMatrix; rw [h]; rfl
theorem decodeMatrix_9 {N : Nat} (h : N % 256 = 9) : decodeMatrix N = (.ok (.mfence (fld N 8))) := by unfold decodeMatrix; rw [h]; rfl
theorem decodeCopy_0 {N : Nat} (h : N % 256 = 0) : decodeCopy N = (.ok (.cp1d (fld N 12))) := by unfold decodeCopy; rw [h]; rfl
theorem decodeCopy_1 {N : Nat} (h : N % 256 = 1) : decodeCopy N = (.ok (.cp2d (fld N 12))) := by unfold decodeCopy; rw [h]; rfl
theorem decodeCopy_2 {N : Nat} (h : N % 256 = 2) : decodeCopy N = (.ok (.cp3d (fld N 12))) := by unfold decodeCopy; rw [h]; rfl
theorem decodeCopy_3 {N : Nat} (h : N % 256 = 3) : decodeCopy N = (.ok (.cpGather (fld N 12))) := by unfold decodeCopy; rw [h]; rfl
theorem decodeCopy_4 {N : Nat} (h : N % 256 = 4) : decodeCopy N = (.ok (.cpScatter (fld N 12))) := by unfold decodeCopy; rw [h]; rfl
theorem decodeCopy_5 {N : Nat} (h : N % 256 = 5) : decodeCopy N = (.ok (.cpFill (fld N 12))) := by unfold decodeCopy; rw [h]; rfl
theorem decodeCopy_8 {N : Nat} (h : N % 256 = 8) : decodeCopy N = (.ok (.chset (fld N 12) (fld N 8))) := by unfold decodeCopy; rw [h]; rfl
theorem decodeCopy_9 {N : Nat} (h : N % 256 = 9) : decodeCopy N = (.ok (.chq (fld N 16) (fld N 8))) := by unfold decodeCopy; rw [h]; rfl
theorem decodeCopy_16 {N : Nat} (h : N % 256 = 16) : decodeCopy N = (.ok (.publish (fld N 12))) := by unfold decodeCopy; rw [h]; rfl
theorem decodeFlash_0 {N : Nat} (h : N % 256 = 0) : decodeFlash N = (.ok (.winst (fld N 16) (fld N 12))) := by unfold decodeFlash; rw [h]; rfl
theorem decodeFlash_1 {N : Nat} (h : N % 256 = 1) : decodeFlash N = (.ok (.wstat (fld N 16) (fld N 12))) := by unfold decodeFlash; rw [h]; rfl
theorem decodeMonitor_0 {N : Nat} (h : N % 256 = 0) : decodeMonitor N = (.ok (.tlbinv (fld N 12))) := by unfold decodeMonitor; rw [h]; rfl
theorem decodeMonitor_1 {N : Nat} (h : N % 256 = 1) : decodeMonitor N = (.ok (.keyld (fld N 12) (fld N 8))) := by unfold decodeMonitor; rw [h]; rfl
theorem decodeMonitor_2 {N : Nat} (h : N % 256 = 2) : decodeMonitor N = (.ok (.keyzap (fld N 12))) := by unfold decodeMonitor; rw [h]; rfl
theorem decodeMonitor_3 {N : Nat} (h : N % 256 = 3) : decodeMonitor N = (.ok (.scrub (fld N 12))) := by unfold decodeMonitor; rw [h]; rfl
theorem decodeMonitor_4 {N : Nat} (h : N % 256 = 4) : decodeMonitor N = (.ok (.evpost (fld N 12))) := by unfold decodeMonitor; rw [h]; rfl
theorem decodeMonitor_5 {N : Nat} (h : N % 256 = 5) : decodeMonitor N = (.ok (.rotctlSuspend (fld N 12))) := by unfold decodeMonitor; rw [h]; rfl
theorem decodeMonitor_6 {N : Nat} (h : N % 256 = 6) : decodeMonitor N = (.ok (.slotctlPlace (fld N 12) (fld N 8))) := by unfold decodeMonitor; rw [h]; rfl
theorem decodeMonitor_7 {N : Nat} (h : N % 256 = 7) : decodeMonitor N = (.ok (.waypart (fld N 12) (fld N 8))) := by unfold decodeMonitor; rw [h]; rfl
theorem decodeMonitor_8 {N : Nat} (h : N % 256 = 8) : decodeMonitor N = (.ok (.frzFreezeOwner (fld N 12))) := by unfold decodeMonitor; rw [h]; rfl
theorem decodeAlu_0 {N : Nat} (h : N % 256 = 0) : decodeAlu N = (.ok (.add (fld N 16) (fld N 12) (fld N 8))) := by unfold decodeAlu; rw [h]; rfl
theorem decodeAlu_1 {N : Nat} (h : N % 256 = 1) : decodeAlu N = (.ok (.sub (fld N 16) (fld N 12) (fld N 8))) := by unfold decodeAlu; rw [h]; rfl
theorem decodeAlu_2 {N : Nat} (h : N % 256 = 2) : decodeAlu N = (.ok (.mul (fld N 16) (fld N 12) (fld N 8))) := by unfold decodeAlu; rw [h]; rfl
theorem decodeAlu_3 {N : Nat} (h : N % 256 = 3) : decodeAlu N = (.ok (.mulh (fld N 16) (fld N 12) (fld N 8))) := by unfold decodeAlu; rw [h]; rfl
theorem decodeAlu_4 {N : Nat} (h : N % 256 = 4) : decodeAlu N = (.ok (.mulhn (fld N 16) (fld N 12) (fld N 8))) := by unfold decodeAlu; rw [h]; rfl
theorem decodeAlu_5 {N : Nat} (h : N % 256 = 5) : decodeAlu N = (.ok (.div (fld N 16) (fld N 12) (fld N 8))) := by unfold decodeAlu; rw [h]; rfl
theorem decodeAlu_6 {N : Nat} (h : N % 256 = 6) : decodeAlu N = (.ok (.divn (fld N 16) (fld N 12) (fld N 8))) := by unfold decodeAlu; rw [h]; rfl
theorem decodeAlu_7 {N : Nat} (h : N % 256 = 7) : decodeAlu N = (.ok (.rem (fld N 16) (fld N 12) (fld N 8))) := by unfold decodeAlu; rw [h]; rfl
theorem decodeAlu_8 {N : Nat} (h : N % 256 = 8) : decodeAlu N = (.ok (.remn (fld N 16) (fld N 12) (fld N 8))) := by unfold decodeAlu; rw [h]; rfl
theorem decodeAlu_16 {N : Nat} (h : N % 256 = 16) : decodeAlu N = (.ok (.and (fld N 16) (fld N 12) (fld N 8))) := by unfold decodeAlu; rw [h]; rfl
theorem decodeAlu_17 {N : Nat} (h : N % 256 = 17) : decodeAlu N = (.ok (.or (fld N 16) (fld N 12) (fld N 8))) := by unfold decodeAlu; rw [h]; rfl
theorem decodeAlu_18 {N : Nat} (h : N % 256 = 18) : decodeAlu N = (.ok (.xor (fld N 16) (fld N 12) (fld N 8))) := by unfold decodeAlu; rw [h]; rfl
theorem decodeAlu_19 {N : Nat} (h : N % 256 = 19) : decodeAlu N = (.ok (.andn (fld N 16) (fld N 12) (fld N 8))) := by unfold decodeAlu; rw [h]; rfl
theorem decodeAlu_20 {N : Nat} (h : N % 256 = 20) : decodeAlu N = (.ok (.orn (fld N 16) (fld N 12) (fld N 8))) := by unfold decodeAlu; rw [h]; rfl
theorem decodeAlu_24 {N : Nat} (h : N % 256 = 24) : decodeAlu N = (.ok (.shl (fld N 16) (fld N 12) (fld N 8))) := by unfold decodeAlu; rw [h]; rfl
theorem decodeAlu_25 {N : Nat} (h : N % 256 = 25) : decodeAlu N = (.ok (.shr (fld N 16) (fld N 12) (fld N 8))) := by unfold decodeAlu; rw [h]; rfl
theorem decodeAlu_26 {N : Nat} (h : N % 256 = 26) : decodeAlu N = (.ok (.sar (fld N 16) (fld N 12) (fld N 8))) := by unfold decodeAlu; rw [h]; rfl
theorem decodeAlu_27 {N : Nat} (h : N % 256 = 27) : decodeAlu N = (.ok (.rotl (fld N 16) (fld N 12) (fld N 8))) := by unfold decodeAlu; rw [h]; rfl
theorem decodeAlu_32 {N : Nat} (h : N % 256 = 32) : decodeAlu N = (.ok (.min (fld N 16) (fld N 12) (fld N 8))) := by unfold decodeAlu; rw [h]; rfl
theorem decodeAlu_33 {N : Nat} (h : N % 256 = 33) : decodeAlu N = (.ok (.max (fld N 16) (fld N 12) (fld N 8))) := by unfold decodeAlu; rw [h]; rfl
theorem decodeAlu_34 {N : Nat} (h : N % 256 = 34) : decodeAlu N = (.ok (.minn (fld N 16) (fld N 12) (fld N 8))) := by unfold decodeAlu; rw [h]; rfl
theorem decodeAlu_35 {N : Nat} (h : N % 256 = 35) : decodeAlu N = (.ok (.maxn (fld N 16) (fld N 12) (fld N 8))) := by unfold decodeAlu; rw [h]; rfl
theorem decodeAlu_40 {N : Nat} (h : N % 256 = 40) : decodeAlu N = (.ok (.clz (fld N 16) (fld N 12))) := by unfold decodeAlu; rw [h]; rfl
theorem decodeAlu_41 {N : Nat} (h : N % 256 = 41) : decodeAlu N = (.ok (.ctz (fld N 16) (fld N 12))) := by unfold decodeAlu; rw [h]; rfl
theorem decodeAlu_42 {N : Nat} (h : N % 256 = 42) : decodeAlu N = (.ok (.popc (fld N 16) (fld N 12))) := by unfold decodeAlu; rw [h]; rfl
theorem decodeAlu_43 {N : Nat} (h : N % 256 = 43) : decodeAlu N = (.ok (.mov (fld N 16) (fld N 12))) := by unfold decodeAlu; rw [h]; rfl
theorem decodeAlu_48 {N : Nat} (h : N % 256 = 48) : decodeAlu N = (.ok (.cmpEq (fld N 16) (fld N 12) (fld N 8))) := by unfold decodeAlu; rw [h]; rfl
theorem decodeAlu_49 {N : Nat} (h : N % 256 = 49) : decodeAlu N = (.ok (.cmpNe (fld N 16) (fld N 12) (fld N 8))) := by unfold decodeAlu; rw [h]; rfl
theorem decodeAlu_50 {N : Nat} (h : N % 256 = 50) : decodeAlu N = (.ok (.cmpLt (fld N 16) (fld N 12) (fld N 8))) := by unfold decodeAlu; rw [h]; rfl
theorem decodeAlu_51 {N : Nat} (h : N % 256 = 51) : decodeAlu N = (.ok (.cmpLe (fld N 16) (fld N 12) (fld N 8))) := by unfold decodeAlu; rw [h]; rfl
theorem decodeAlu_52 {N : Nat} (h : N % 256 = 52) : decodeAlu N = (.ok (.cmpLtn (fld N 16) (fld N 12) (fld N 8))) := by unfold decodeAlu; rw [h]; rfl
theorem decodeAlu_53 {N : Nat} (h : N % 256 = 53) : decodeAlu N = (.ok (.cmpLen (fld N 16) (fld N 12) (fld N 8))) := by unfold decodeAlu; rw [h]; rfl
theorem decodeAlu_56 {N : Nat} (h : N % 256 = 56) : decodeAlu N = (.ok (.pset (fld N 16) (fld N 8))) := by unfold decodeAlu; rw [h]; rfl
theorem decodeAlu_57 {N : Nat} (h : N % 256 = 57) : decodeAlu N = (.ok (.pand (fld N 16) (fld N 12) (fld N 8))) := by unfold decodeAlu; rw [h]; rfl
theorem decodeAlu_58 {N : Nat} (h : N % 256 = 58) : decodeAlu N = (.ok (.por (fld N 16) (fld N 12) (fld N 8))) := by unfold decodeAlu; rw [h]; rfl
theorem decodeAlu_59 {N : Nat} (h : N % 256 = 59) : decodeAlu N = (.ok (.pnot (fld N 16) (fld N 12))) := by unfold decodeAlu; rw [h]; rfl
theorem decodeShift_0 {N : Nat} (h : N / 256 % 16 = 0) : decodeShift N = (.ok (.shli (fld N 16) (fld N 12) (BitVec.ofNat 6 (N % 64)))) := by unfold decodeShift; rw [h]; rfl
theorem decodeShift_1 {N : Nat} (h : N / 256 % 16 = 1) : decodeShift N = (.ok (.shri (fld N 16) (fld N 12) (BitVec.ofNat 6 (N % 64)))) := by unfold decodeShift; rw [h]; rfl
theorem decodeShift_2 {N : Nat} (h : N / 256 % 16 = 2) : decodeShift N = (.ok (.sari (fld N 16) (fld N 12) (BitVec.ofNat 6 (N % 64)))) := by unfold decodeShift; rw [h]; rfl
theorem decodeShift_3 {N : Nat} (h : N / 256 % 16 = 3) : decodeShift N = (.ok (.roti (fld N 16) (fld N 12) (BitVec.ofNat 6 (N % 64)))) := by unfold decodeShift; rw [h]; rfl
theorem decodeFour_0 {N : Nat} (h : N % 16 = 0) : decodeFour N = (.ok (.sel (fld N 16) (fld N 12) (fld N 8) (fld N 4))) := by unfold decodeFour; rw [h]; rfl
theorem decodeFour_1 {N : Nat} (h : N % 16 = 1) : decodeFour N = (.ok (.vsel (fld N 16) (fld N 12) (fld N 8) (fld N 4))) := by unfold decodeFour; rw [h]; rfl
theorem decodeFour_2 {N : Nat} (h : N % 16 = 2) : decodeFour N = (.ok (.vfma (fld N 16) (fld N 12) (fld N 8) (fld N 4) (FltT.ofCode (N % 2)))) := by unfold decodeFour; rw [h]; rfl
theorem decodeFour_3 {N : Nat} (h : N % 16 = 3) : decodeFour N = (.ok (.vfma (fld N 16) (fld N 12) (fld N 8) (fld N 4) (FltT.ofCode (N % 2)))) := by unfold decodeFour; rw [h]; rfl
theorem decodeFour_4 {N : Nat} (h : N % 16 = 4) : decodeFour N = (.ok (.vfms (fld N 16) (fld N 12) (fld N 8) (fld N 4) (FltT.ofCode (N % 2)))) := by unfold decodeFour; rw [h]; rfl
theorem decodeFour_5 {N : Nat} (h : N % 16 = 5) : decodeFour N = (.ok (.vfms (fld N 16) (fld N 12) (fld N 8) (fld N 4) (FltT.ofCode (N % 2)))) := by unfold decodeFour; rw [h]; rfl
theorem decodeFour_6 {N : Nat} (h : N % 16 = 6) : decodeFour N = (.ok (.vdotG8 (fld N 16) (fld N 12) (fld N 8) (fld N 4))) := by unfold decodeFour; rw [h]; rfl
theorem decodeFour_7 {N : Nat} (h : N % 16 = 7) : decodeFour N = (.ok (.vdotBf16 (fld N 16) (fld N 12) (fld N 8))) := by unfold decodeFour; rw [h]; rfl
theorem decodeFour_8 {N : Nat} (h : N % 16 = 8) : decodeFour N = (.ok (.vdotI8 (fld N 16) (fld N 12) (fld N 8))) := by unfold decodeFour; rw [h]; rfl
theorem decodeVecA_0 {N : Nat} (h : N / 16 % 16 = 0) : decodeVecA N = (withLane (N % 16) (.vadd (fld N 16) (fld N 12) (fld N 8))) := by unfold decodeVecA; rw [h]; rfl
theorem decodeVecA_1 {N : Nat} (h : N / 16 % 16 = 1) : decodeVecA N = (withLane (N % 16) (.vsub (fld N 16) (fld N 12) (fld N 8))) := by unfold decodeVecA; rw [h]; rfl
theorem decodeVecA_2 {N : Nat} (h : N / 16 % 16 = 2) : decodeVecA N = (withLane (N % 16) (.vmul (fld N 16) (fld N 12) (fld N 8))) := by unfold decodeVecA; rw [h]; rfl
theorem decodeVecA_3 {N : Nat} (h : N / 16 % 16 = 3) : decodeVecA N = (withLane (N % 16) (.vneg (fld N 16) (fld N 12))) := by unfold decodeVecA; rw [h]; rfl
theorem decodeVecA_4 {N : Nat} (h : N / 16 % 16 = 4) : decodeVecA N = (withLane (N % 16) (.vabs (fld N 16) (fld N 12))) := by unfold decodeVecA; rw [h]; rfl
theorem decodeVecA_5 {N : Nat} (h : N / 16 % 16 = 5) : decodeVecA N = (withLane (N % 16) (.vmin (fld N 16) (fld N 12) (fld N 8))) := by unfold decodeVecA; rw [h]; rfl
theorem decodeVecA_6 {N : Nat} (h : N / 16 % 16 = 6) : decodeVecA N = (withLane (N % 16) (.vmax (fld N 16) (fld N 12) (fld N 8))) := by unfold decodeVecA; rw [h]; rfl
theorem decodeVecA_7 {N : Nat} (h : N / 16 % 16 = 7) : decodeVecA N = (withLane (N % 16) (.vand (fld N 16) (fld N 12) (fld N 8))) := by unfold decodeVecA; rw [h]; rfl
theorem decodeVecA_8 {N : Nat} (h : N / 16 % 16 = 8) : decodeVecA N = (withLane (N % 16) (.vor (fld N 16) (fld N 12) (fld N 8))) := by unfold decodeVecA; rw [h]; rfl
theorem decodeVecA_9 {N : Nat} (h : N / 16 % 16 = 9) : decodeVecA N = (withLane (N % 16) (.vxor (fld N 16) (fld N 12) (fld N 8))) := by unfold decodeVecA; rw [h]; rfl
theorem decodeVecA_10 {N : Nat} (h : N / 16 % 16 = 10) : decodeVecA N = (withLane (N % 16) (.vandn (fld N 16) (fld N 12) (fld N 8))) := by unfold decodeVecA; rw [h]; rfl
theorem decodeVecA_11 {N : Nat} (h : N / 16 % 16 = 11) : decodeVecA N = (withLane (N % 16) (.vshl (fld N 16) (fld N 12) (fld N 8))) := by unfold decodeVecA; rw [h]; rfl
theorem decodeVecA_12 {N : Nat} (h : N / 16 % 16 = 12) : decodeVecA N = (withLane (N % 16) (.vshr (fld N 16) (fld N 12) (fld N 8))) := by unfold decodeVecA; rw [h]; rfl
theorem decodeVecA_13 {N : Nat} (h : N / 16 % 16 = 13) : decodeVecA N = (withLane (N % 16) (.vsar (fld N 16) (fld N 12) (fld N 8))) := by unfold decodeVecA; rw [h]; rfl
theorem decodeVecA_14 {N : Nat} (h : N / 16 % 16 = 14) : decodeVecA N = (withLane (N % 16) (.vcmpEq (fld N 16) (fld N 12) (fld N 8))) := by unfold decodeVecA; rw [h]; rfl
theorem decodeVecA_15 {N : Nat} (h : N / 16 % 16 = 15) : decodeVecA N = (withLane (N % 16) (.vcmpLt (fld N 16) (fld N 12) (fld N 8))) := by unfold decodeVecA; rw [h]; rfl
theorem decodeVecB_0 {N : Nat} (h : N / 16 % 16 = 0) : decodeVecB N = (withLane (N % 16) (.vcmpLe (fld N 16) (fld N 12) (fld N 8))) := by unfold decodeVecB; rw [h]; rfl
theorem decodeVecB_1 {N : Nat} (h : N / 16 % 16 = 1) : decodeVecB N = (withLane (N % 16) (.vsum (fld N 16) (fld N 12))) := by unfold decodeVecB; rw [h]; rfl
theorem decodeVecB_2 {N : Nat} (h : N / 16 % 16 = 2) : decodeVecB N = (withLane (N % 16) (.vbcast (fld N 16) (fld N 12))) := by unfold decodeVecB; rw [h]; rfl
theorem decodeVecB_3 {N : Nat} (h : N / 16 % 16 = 3) : decodeVecB N = (withLane (N % 16) (.vext (fld N 16) (fld N 12) (fld N 8))) := by unfold decodeVecB; rw [h]; rfl
theorem decodeVecB_4 {N : Nat} (h : N / 16 % 16 = 4) : decodeVecB N = (withLane (N % 16) (.vins (fld N 16) (fld N 12) (fld N 8))) := by unfold decodeVecB; rw [h]; rfl
theorem decodeVecB_5 {N : Nat} (h : N / 16 % 16 = 5) : decodeVecB N = (withLane (N % 16) (.vperm (fld N 16) (fld N 12) (fld N 8))) := by unfold decodeVecB; rw [h]; rfl
theorem decodeVecB_6 {N : Nat} (h : N / 16 % 16 = 6) : decodeVecB N = (withLane (N % 16) (.vround (fld N 16) (fld N 12))) := by unfold decodeVecB; rw [h]; rfl
theorem decodeVecB_7 {N : Nat} (h : N / 16 % 16 = 7) : decodeVecB N = (withLane (N % 16) (.vscale (fld N 16) (fld N 12) (fld N 8))) := by unfold decodeVecB; rw [h]; rfl
theorem decodeVecB_8 {N : Nat} (h : N / 16 % 16 = 8) : decodeVecB N = (withLane (N % 16) (.vexpo (fld N 16) (fld N 12))) := by unfold decodeVecB; rw [h]; rfl
theorem decodeVecB_9 {N : Nat} (h : N / 16 % 16 = 9) : decodeVecB N = (if N % 16 = 9 then .ok (.vrcpa (fld N 16) (fld N 12)) else .error .function) := by unfold decodeVecB; rw [h]; rfl
theorem decodeVecB_10 {N : Nat} (h : N / 16 % 16 = 10) : decodeVecB N = (if N % 16 = 9 then .ok (.vrsqrta (fld N 16) (fld N 12)) else .error .function) := by unfold decodeVecB; rw [h]; rfl
theorem decodeVecB_11 {N : Nat} (h : N / 16 % 16 = 11) : decodeVecB N = (withLane (N % 16) (.vsat (fld N 16) (fld N 12))) := by unfold decodeVecB; rw [h]; rfl
theorem decodeVecB_12 {N : Nat} (h : N / 16 % 16 = 12) : decodeVecB N = (withLane (N % 16) (.vpack (fld N 16) (fld N 12) (fld N 8))) := by unfold decodeVecB; rw [h]; rfl
theorem decodeVecB_13 {N : Nat} (h : N / 16 % 16 = 13) : decodeVecB N = (withLane (N % 16) (.vunpack (fld N 16) (fld N 12) (fld N 8))) := by unfold decodeVecB; rw [h]; rfl
theorem atI20 {B N g t : Nat} {x : BitVec 20}  (hg : g < 16) (hB30 : B < 1073741824) (hlow : B % 16777216 = 0)
    (hN : N = B + x.toNat + g * 1048576 + t * 1073741824) :
    N / 16777216 % 64 = B / 16777216 ∧ BitVec.ofNat 20 (N % 1048576) = x := by
  have e0 := x.isLt
  exact ⟨by omega, ofNatEq (by omega)⟩

theorem atDI16 {B N g t : Nat} {x : Fin 16} {y : BitVec 16}  (hg : g < 16) (hB30 : B < 1073741824) (hlow : B % 16777216 = 0)
    (hN : N = B + x.val * 65536 + y.toNat + g * 1048576 + t * 1073741824) :
    N / 16777216 % 64 = B / 16777216 ∧ fld N 16 = x ∧ BitVec.ofNat 16 (N % 65536) = y := by
  have e0 := x.isLt
  have e1 := y.isLt
  exact ⟨by omega, f16 (by omega), ofNatEq (by omega)⟩

theorem atA {B N g t : Nat} {x : Fin 16}  (hg : g < 16) (hB30 : B < 1073741824) (hlow : B % 16777216 < 256)
    (hN : N = B + x.val * 4096 + g * 1048576 + t * 1073741824) :
    N / 16777216 % 64 = B / 16777216 ∧ fld N 12 = x ∧ N % 256 = B % 256 := by
  have e0 := x.isLt
  exact ⟨by omega, f12 (by omega), by omega⟩

theorem atNone {B N g t : Nat}   (hg : g < 16) (hB30 : B < 1073741824) (hlow : B % 16777216 < 256)
    (hN : N = B + g * 1048576 + t * 1073741824) :
    N / 16777216 % 64 = B / 16777216 ∧ N % 256 = B % 256 := by
  exact ⟨by omega, by omega⟩

theorem atI8h {B N g t : Nat} {x : BitVec 8}  (hg : g < 16) (hB30 : B < 1073741824) (hlow : B % 16777216 < 256)
    (hN : N = B + x.toNat * 256 + g * 1048576 + t * 1073741824) :
    N / 16777216 % 64 = B / 16777216 ∧ BitVec.ofNat 8 (N / 256 % 256) = x ∧ N % 256 = B % 256 := by
  have e0 := x.isLt
  exact ⟨by omega, ofNatEq (by omega), by omega⟩

theorem atDI12 {B N g t : Nat} {x : Fin 16} {y : BitVec 12}  (hg : g < 16) (hB30 : B < 1073741824) (hlow : B % 16777216 = 0)
    (hN : N = B + x.val * 65536 + y.toNat + g * 1048576 + t * 1073741824) :
    N / 16777216 % 64 = B / 16777216 ∧ fld N 16 = x ∧ BitVec.ofNat 12 (N % 4096) = y := by
  have e0 := x.isLt
  have e1 := y.isLt
  exact ⟨by omega, f16 (by omega), ofNatEq (by omega)⟩

theorem atAI12 {B N g t : Nat} {x : Fin 16} {y : BitVec 12}  (hg : g < 16) (hB30 : B < 1073741824) (hlow : B % 16777216 = 0)
    (hN : N = B + x.val * 4096 + y.toNat + g * 1048576 + t * 1073741824) :
    N / 16777216 % 64 = B / 16777216 ∧ fld N 12 = x ∧ BitVec.ofNat 12 (N % 4096) = y := by
  have e0 := x.isLt
  have e1 := y.isLt
  exact ⟨by omega, f12 (by omega), ofNatEq (by omega)⟩

theorem atDAI12 {B N g t : Nat} {x : Fin 16} {y : Fin 16} {z : BitVec 12}  (hg : g < 16) (hB30 : B < 1073741824) (hlow : B % 16777216 = 0)
    (hN : N = B + x.val * 65536 + y.val * 4096 + z.toNat + g * 1048576 + t * 1073741824) :
    N / 16777216 % 64 = B / 16777216 ∧ fld N 16 = x ∧ fld N 12 = y ∧ BitVec.ofNat 12 (N % 4096) = z := by
  have e0 := x.isLt
  have e1 := y.isLt
  have e2 := z.isLt
  exact ⟨by omega, f16 (by omega), f12 (by omega), ofNatEq (by omega)⟩

theorem atDAT {B N g t : Nat} {x : Fin 16} {y : Fin 16} {z : Nat} (hz : z < 16) (hB : B % 16 + z < 16) (hg : g < 16) (hB30 : B < 1073741824) (hlow : B % 16777216 < 256)
    (hN : N = B + x.val * 65536 + y.val * 4096 + z + g * 1048576 + t * 1073741824) :
    N / 16777216 % 64 = B / 16777216 ∧ fld N 16 = x ∧ fld N 12 = y ∧ N % 256 = B % 256 + z ∧ N / 16 % 16 = B / 16 % 16 ∧ N % 16 = B % 16 + z := by
  have e0 := x.isLt
  have e1 := y.isLt
  exact ⟨by omega, f16 (by omega), f12 (by omega), by omega, by omega, by omega⟩

theorem atDAB {B N g t : Nat} {x : Fin 16} {y : Fin 16} {z : Fin 16}  (hg : g < 16) (hB30 : B < 1073741824) (hlow : B % 16777216 < 256)
    (hN : N = B + x.val * 65536 + y.val * 4096 + z.val * 256 + g * 1048576 + t * 1073741824) :
    N / 16777216 % 64 = B / 16777216 ∧ fld N 16 = x ∧ fld N 12 = y ∧ fld N 8 = z ∧ N % 256 = B % 256 ∧ N % 16 = B % 16 := by
  have e0 := x.isLt
  have e1 := y.isLt
  have e2 := z.isLt
  exact ⟨by omega, f16 (by omega), f12 (by omega), f8 (by omega), by omega, by omega⟩

theorem atDA {B N g t : Nat} {x : Fin 16} {y : Fin 16}  (hg : g < 16) (hB30 : B < 1073741824) (hlow : B % 16777216 < 256)
    (hN : N = B + x.val * 65536 + y.val * 4096 + g * 1048576 + t * 1073741824) :
    N / 16777216 % 64 = B / 16777216 ∧ fld N 16 = x ∧ fld N 12 = y ∧ N % 256 = B % 256 ∧ N / 16 % 16 = B / 16 % 16 ∧ N % 16 = B % 16 := by
  have e0 := x.isLt
  have e1 := y.isLt
  exact ⟨by omega, f16 (by omega), f12 (by omega), by omega, by omega, by omega⟩

theorem atAB {B N g t : Nat} {x : Fin 16} {y : Fin 16}  (hg : g < 16) (hB30 : B < 1073741824) (hlow : B % 16777216 < 256)
    (hN : N = B + x.val * 4096 + y.val * 256 + g * 1048576 + t * 1073741824) :
    N / 16777216 % 64 = B / 16777216 ∧ fld N 12 = x ∧ fld N 8 = y ∧ N % 256 = B % 256 := by
  have e0 := x.isLt
  have e1 := y.isLt
  exact ⟨by omega, f12 (by omega), f8 (by omega), by omega⟩

theorem atDABT {B N g t : Nat} {x : Fin 16} {y : Fin 16} {z : Fin 16} {u : Nat} (hu : u < 16) (hB : B % 16 + u < 16) (hg : g < 16) (hB30 : B < 1073741824) (hlow : B % 16777216 < 256)
    (hN : N = B + x.val * 65536 + y.val * 4096 + z.val * 256 + u + g * 1048576 + t * 1073741824) :
    N / 16777216 % 64 = B / 16777216 ∧ fld N 16 = x ∧ fld N 12 = y ∧ fld N 8 = z ∧ N % 256 = B % 256 + u ∧ N / 16 % 16 = B / 16 % 16 ∧ N % 16 = B % 16 + u := by
  have e0 := x.isLt
  have e1 := y.isLt
  have e2 := z.isLt
  exact ⟨by omega, f16 (by omega), f12 (by omega), f8 (by omega), by omega, by omega, by omega⟩

theorem atABT {B N g t : Nat} {x : Fin 16} {y : Fin 16} {z : Nat} (hz : z < 16) (hB : B % 16 + z < 16) (hg : g < 16) (hB30 : B < 1073741824) (hlow : B % 16777216 < 256)
    (hN : N = B + x.val * 4096 + y.val * 256 + z + g * 1048576 + t * 1073741824) :
    N / 16777216 % 64 = B / 16777216 ∧ fld N 12 = x ∧ fld N 8 = y ∧ N % 256 = B % 256 + z ∧ N / 16 % 16 = B / 16 % 16 ∧ N % 16 = B % 16 + z := by
  have e0 := x.isLt
  have e1 := y.isLt
  exact ⟨by omega, f12 (by omega), f8 (by omega), by omega, by omega, by omega⟩

theorem atB {B N g t : Nat} {x : Fin 16}  (hg : g < 16) (hB30 : B < 1073741824) (hlow : B % 16777216 < 256)
    (hN : N = B + x.val * 256 + g * 1048576 + t * 1073741824) :
    N / 16777216 % 64 = B / 16777216 ∧ fld N 8 = x ∧ N % 256 = B % 256 := by
  have e0 := x.isLt
  exact ⟨by omega, f8 (by omega), by omega⟩

theorem atD {B N g t : Nat} {x : Fin 16}  (hg : g < 16) (hB30 : B < 1073741824) (hlow : B % 16777216 < 256)
    (hN : N = B + x.val * 65536 + g * 1048576 + t * 1073741824) :
    N / 16777216 % 64 = B / 16777216 ∧ fld N 16 = x ∧ N % 256 = B % 256 := by
  have e0 := x.isLt
  exact ⟨by omega, f16 (by omega), by omega⟩

theorem atDAI8 {B N g t : Nat} {x : Fin 16} {y : Fin 16} {z : BitVec 8}  (hg : g < 16) (hB30 : B < 1073741824) (hlow : B % 256 = 0 ∧ B % 16777216 < 4096)
    (hN : N = B + x.val * 65536 + y.val * 4096 + z.toNat + g * 1048576 + t * 1073741824) :
    N / 16777216 % 64 = B / 16777216 ∧ fld N 16 = x ∧ fld N 12 = y ∧ BitVec.ofNat 8 (N % 256) = z ∧ N / 256 % 16 = B / 256 % 16 := by
  have e0 := x.isLt
  have e1 := y.isLt
  have e2 := z.isLt
  exact ⟨by omega, f16 (by omega), f12 (by omega), ofNatEq (by omega), by omega⟩

theorem atDB {B N g t : Nat} {x : Fin 16} {y : Fin 16}  (hg : g < 16) (hB30 : B < 1073741824) (hlow : B % 16777216 < 256)
    (hN : N = B + x.val * 65536 + y.val * 256 + g * 1048576 + t * 1073741824) :
    N / 16777216 % 64 = B / 16777216 ∧ fld N 16 = x ∧ fld N 8 = y ∧ N % 256 = B % 256 := by
  have e0 := x.isLt
  have e1 := y.isLt
  exact ⟨by omega, f16 (by omega), f8 (by omega), by omega⟩

theorem atDAI6 {B N g t : Nat} {x : Fin 16} {y : Fin 16} {z : BitVec 6}  (hg : g < 16) (hB30 : B < 1073741824) (hlow : B % 256 = 0 ∧ B % 16777216 < 4096)
    (hN : N = B + x.val * 65536 + y.val * 4096 + z.toNat + g * 1048576 + t * 1073741824) :
    N / 16777216 % 64 = B / 16777216 ∧ fld N 16 = x ∧ fld N 12 = y ∧ BitVec.ofNat 6 (N % 64) = z ∧ N / 256 % 16 = B / 256 % 16 := by
  have e0 := x.isLt
  have e1 := y.isLt
  have e2 := z.isLt
  exact ⟨by omega, f16 (by omega), f12 (by omega), ofNatEq (by omega), by omega⟩

theorem atDAI6hI6 {B N g t : Nat} {x : Fin 16} {y : Fin 16} {z : BitVec 6} {u : BitVec 6}  (hg : g < 16) (hB30 : B < 1073741824) (hlow : B % 16777216 = 0)
    (hN : N = B + x.val * 65536 + y.val * 4096 + z.toNat * 64 + u.toNat + g * 1048576 + t * 1073741824) :
    N / 16777216 % 64 = B / 16777216 ∧ fld N 16 = x ∧ fld N 12 = y ∧ BitVec.ofNat 6 (N / 64 % 64) = z ∧ BitVec.ofNat 6 (N % 64) = u := by
  have e0 := x.isLt
  have e1 := y.isLt
  have e2 := z.isLt
  have e3 := u.isLt
  exact ⟨by omega, f16 (by omega), f12 (by omega), ofNatEq (by omega), ofNatEq (by omega)⟩

theorem atDABC {B N g t : Nat} {x : Fin 16} {y : Fin 16} {z : Fin 16} {u : Fin 16}  (hg : g < 16) (hB30 : B < 1073741824) (hlow : B % 16777216 < 16)
    (hN : N = B + x.val * 65536 + y.val * 4096 + z.val * 256 + u.val * 16 + g * 1048576 + t * 1073741824) :
    N / 16777216 % 64 = B / 16777216 ∧ fld N 16 = x ∧ fld N 12 = y ∧ fld N 8 = z ∧ fld N 4 = u ∧ N % 16 = B % 16 := by
  have e0 := x.isLt
  have e1 := y.isLt
  have e2 := z.isLt
  have e3 := u.isLt
  exact ⟨by omega, f16 (by omega), f12 (by omega), f8 (by omega), f4 (by omega), by omega⟩

theorem atDABCT {B N g t : Nat} {x : Fin 16} {y : Fin 16} {z : Fin 16} {u : Fin 16} {v : Nat} (hv : v < 16) (hB : B % 16 + v < 16) (hg : g < 16) (hB30 : B < 1073741824) (hlow : B % 16777216 < 16)
    (hN : N = B + x.val * 65536 + y.val * 4096 + z.val * 256 + u.val * 16 + v + g * 1048576 + t * 1073741824) :
    N / 16777216 % 64 = B / 16777216 ∧ fld N 16 = x ∧ fld N 12 = y ∧ fld N 8 = z ∧ fld N 4 = u ∧ N % 16 = B % 16 + v := by
  have e0 := x.isLt
  have e1 := y.isLt
  have e2 := z.isLt
  have e3 := u.isLt
  exact ⟨by omega, f16 (by omega), f12 (by omega), f8 (by omega), f4 (by omega), by omega⟩

theorem atDAThI6 {B N g t : Nat} {x : Fin 16} {y : Fin 16} {z : Nat} {u : BitVec 6} (hz : z < 16) (hg : g < 16) (hB30 : B < 1073741824) (hlow : B % 16777216 = 0)
    (hN : N = B + x.val * 65536 + y.val * 4096 + z * 256 + u.toNat + g * 1048576 + t * 1073741824) :
    N / 16777216 % 64 = B / 16777216 ∧ fld N 16 = x ∧ fld N 12 = y ∧ N / 256 % 16 = z ∧ BitVec.ofNat 6 (N % 64) = u := by
  have e0 := x.isLt
  have e1 := y.isLt
  have e2 := u.isLt
  exact ⟨by omega, f16 (by omega), f12 (by omega), by omega, ofNatEq (by omega)⟩

theorem atDABThT {B N g t : Nat} {x : Fin 16} {y : Fin 16} {z : Fin 16} {u : Nat} {v : Nat} (hu : u < 16) (hv : v < 16) (hg : g < 16) (hB30 : B < 1073741824) (hlow : B % 16777216 = 0)
    (hN : N = B + x.val * 65536 + y.val * 4096 + z.val * 256 + u * 16 + v + g * 1048576 + t * 1073741824) :
    N / 16777216 % 64 = B / 16777216 ∧ fld N 16 = x ∧ fld N 12 = y ∧ fld N 8 = z ∧ N / 16 % 16 = u ∧ N % 16 = v := by
  have e0 := x.isLt
  have e1 := y.isLt
  have e2 := z.isLt
  exact ⟨by omega, f16 (by omega), f12 (by omega), f8 (by omega), by omega, by omega⟩

theorem br (v0 : BitVec 20) : Statement (.br v0) := by
  intro has _ n h g t N hg _ hN
  cases h
  obtain ⟨h0, h1⟩ := atI20 hg (by decide) (by decide) hN
  rw [major1 h0, h1]
theorem call (v0 : BitVec 20) : Statement (.call v0) := by
  intro has _ n h g t N hg _ hN
  cases h
  obtain ⟨h0, h1⟩ := atI20 hg (by decide) (by decide) hN
  rw [major2 h0, h1]
theorem dbnz (v0 : Fin 16) (v1 : BitVec 16) : Statement (.dbnz v0 v1) := by
  intro has _ n h g t N hg _ hN
  cases h
  obtain ⟨h0, h1, h2⟩ := atDI16 hg (by decide) (by decide) hN
  rw [major3 h0, h1, h2]
theorem jmp (v0 : Fin 16) : Statement (.jmp v0) := by
  intro has _ n h g t N hg _ hN
  cases h
  obtain ⟨h0, h1, h2⟩ := atA hg (by decide) (by decide) hN
  rw [major4 h0, decodeControl_0 h2, h1]
theorem ret (v0 : Fin 16) : Statement (.ret v0) := by
  intro has _ n h g t N hg _ hN
  cases h
  obtain ⟨h0, h1, h2⟩ := atA hg (by decide) (by decide) hN
  rw [major4 h0, decodeControl_1 h2, h1]
theorem send : Statement (.send) := by
  intro has _ n h g t N hg _ hN
  cases h
  obtain ⟨h0, h1⟩ := atNone hg (by decide) (by decide) hN
  rw [major4 h0, decodeControl_2 h1]
theorem exit : Statement (.exit) := by
  intro has _ n h g t N hg _ hN
  cases h
  obtain ⟨h0, h1⟩ := atNone hg (by decide) (by decide) hN
  rw [major4 h0, decodeControl_3 h1]
theorem yield : Statement (.yield) := by
  intro has _ n h g t N hg _ hN
  cases h
  obtain ⟨h0, h1⟩ := atNone hg (by decide) (by decide) hN
  rw [major4 h0, decodeControl_4 h1]
theorem trap (v0 : BitVec 8) : Statement (.trap v0) := by
  intro has _ n h g t N hg _ hN
  cases h
  obtain ⟨h0, h1, h2⟩ := atI8h hg (by decide) (by decide) hN
  rw [major4 h0, decodeControl_5 h2, h1]
theorem brk : Statement (.brk) := by
  intro has _ n h g t N hg _ hN
  cases h
  obtain ⟨h0, h1⟩ := atNone hg (by decide) (by decide) hN
  rw [major4 h0, decodeControl_6 h1]
theorem rte : Statement (.rte) := by
  intro has _ n h g t N hg _ hN
  cases h
  obtain ⟨h0, h1⟩ := atNone hg (by decide) (by decide) hN
  rw [major4 h0, decodeControl_7 h1]
theorem rsr (v0 : Fin 16) (v1 : BitVec 12) : Statement (.rsr v0 v1) := by
  intro has _ n h g t N hg _ hN
  cases h
  obtain ⟨h0, h1, h2⟩ := atDI12 hg (by decide) (by decide) hN
  have hv : N % 4096 = v1.toNat := mod4096Eq h2
  rw [major5 h0, hv, if_pos (show regAssigned v1.toNat = true from has), h1, BitVec.ofNat_toNat, BitVec.setWidth_eq]
theorem wsr (v0 : Fin 16) (v1 : BitVec 12) : Statement (.wsr v0 v1) := by
  intro has _ n h g t N hg _ hN
  cases h
  obtain ⟨h0, h1, h2⟩ := atAI12 hg (by decide) (by decide) hN
  have hv : N % 4096 = v1.toNat := mod4096Eq h2
  rw [major6 h0, hv, if_pos (show regAssigned v1.toNat = true from has), h1, BitVec.ofNat_toNat, BitVec.setWidth_eq]
theorem sloop (v0 : Fin 16) (v1 : BitVec 16) : Statement (.sloop v0 v1) := by
  intro has _ n h g t N hg _ hN
  cases h
  obtain ⟨h0, h1, h2⟩ := atDI16 hg (by decide) (by decide) hN
  rw [major7 h0, h1, h2]
theorem ldB (v0 : Fin 16) (v1 : Fin 16) (v2 : BitVec 12) : Statement (.ldB v0 v1 v2) := by
  intro has _ n h g t N hg _ hN
  cases h
  obtain ⟨h0, h1, h2, h3⟩ := atDAI12 hg (by decide) (by decide) hN
  rw [major8 h0, h1, h2, h3]
theorem ldH (v0 : Fin 16) (v1 : Fin 16) (v2 : BitVec 12) : Statement (.ldH v0 v1 v2) := by
  intro has _ n h g t N hg _ hN
  cases h
  obtain ⟨h0, h1, h2, h3⟩ := atDAI12 hg (by decide) (by decide) hN
  rw [major9 h0, h1, h2, h3]
theorem ldW (v0 : Fin 16) (v1 : Fin 16) (v2 : BitVec 12) : Statement (.ldW v0 v1 v2) := by
  intro has _ n h g t N hg _ hN
  cases h
  obtain ⟨h0, h1, h2, h3⟩ := atDAI12 hg (by decide) (by decide) hN
  rw [major10 h0, h1, h2, h3]
theorem ldD (v0 : Fin 16) (v1 : Fin 16) (v2 : BitVec 12) : Statement (.ldD v0 v1 v2) := by
  intro has _ n h g t N hg _ hN
  cases h
  obtain ⟨h0, h1, h2, h3⟩ := atDAI12 hg (by decide) (by decide) hN
  rw [major11 h0, h1, h2, h3]
theorem ldnB (v0 : Fin 16) (v1 : Fin 16) (v2 : BitVec 12) : Statement (.ldnB v0 v1 v2) := by
  intro has _ n h g t N hg _ hN
  cases h
  obtain ⟨h0, h1, h2, h3⟩ := atDAI12 hg (by decide) (by decide) hN
  rw [major12 h0, h1, h2, h3]
theorem ldnH (v0 : Fin 16) (v1 : Fin 16) (v2 : BitVec 12) : Statement (.ldnH v0 v1 v2) := by
  intro has _ n h g t N hg _ hN
  cases h
  obtain ⟨h0, h1, h2, h3⟩ := atDAI12 hg (by decide) (by decide) hN
  rw [major13 h0, h1, h2, h3]
theorem ldnW (v0 : Fin 16) (v1 : Fin 16) (v2 : BitVec 12) : Statement (.ldnW v0 v1 v2) := by
  intro has _ n h g t N hg _ hN
  cases h
  obtain ⟨h0, h1, h2, h3⟩ := atDAI12 hg (by decide) (by decide) hN
  rw [major14 h0, h1, h2, h3]
theorem vld (v0 : Fin 16) (v1 : Fin 16) (v2 : BitVec 12) : Statement (.vld v0 v1 v2) := by
  intro has _ n h g t N hg _ hN
  cases h
  obtain ⟨h0, h1, h2, h3⟩ := atDAI12 hg (by decide) (by decide) hN
  rw [major15 h0, h1, h2, h3]
theorem stB (v0 : Fin 16) (v1 : Fin 16) (v2 : BitVec 12) : Statement (.stB v0 v1 v2) := by
  intro has _ n h g t N hg _ hN
  cases h
  obtain ⟨h0, h1, h2, h3⟩ := atDAI12 hg (by decide) (by decide) hN
  rw [major16 h0, h1, h2, h3]
theorem stH (v0 : Fin 16) (v1 : Fin 16) (v2 : BitVec 12) : Statement (.stH v0 v1 v2) := by
  intro has _ n h g t N hg _ hN
  cases h
  obtain ⟨h0, h1, h2, h3⟩ := atDAI12 hg (by decide) (by decide) hN
  rw [major17 h0, h1, h2, h3]
theorem stW (v0 : Fin 16) (v1 : Fin 16) (v2 : BitVec 12) : Statement (.stW v0 v1 v2) := by
  intro has _ n h g t N hg _ hN
  cases h
  obtain ⟨h0, h1, h2, h3⟩ := atDAI12 hg (by decide) (by decide) hN
  rw [major18 h0, h1, h2, h3]
theorem stD (v0 : Fin 16) (v1 : Fin 16) (v2 : BitVec 12) : Statement (.stD v0 v1 v2) := by
  intro has _ n h g t N hg _ hN
  cases h
  obtain ⟨h0, h1, h2, h3⟩ := atDAI12 hg (by decide) (by decide) hN
  rw [major19 h0, h1, h2, h3]
theorem vst (v0 : Fin 16) (v1 : Fin 16) (v2 : BitVec 12) : Statement (.vst v0 v1 v2) := by
  intro has _ n h g t N hg _ hN
  cases h
  obtain ⟨h0, h1, h2, h3⟩ := atDAI12 hg (by decide) (by decide) hN
  rw [major20 h0, h1, h2, h3]
theorem vldBc (v0 : Fin 16) (v1 : Fin 16) (v2 : IntT) : Statement (.vldBc v0 v1 v2) := by
  intro has _ n h g t N hg _ hN
  cases h
  cases v2
  · obtain ⟨h0, h1, h2, h3, h4, h5⟩ := atDAT (by decide : 0 < 16) (by decide) hg (by decide) (by decide) hN
    have e : N % 4 = 0 := by omega
    rw [major21 h0, decodeMemExtra_0 h3, h1, h2, e]; rfl
  · obtain ⟨h0, h1, h2, h3, h4, h5⟩ := atDAT (by decide : 1 < 16) (by decide) hg (by decide) (by decide) hN
    have e : N % 4 = 1 := by omega
    rw [major21 h0, decodeMemExtra_1 h3, h1, h2, e]; rfl
  · obtain ⟨h0, h1, h2, h3, h4, h5⟩ := atDAT (by decide : 2 < 16) (by decide) hg (by decide) (by decide) hN
    have e : N % 4 = 2 := by omega
    rw [major21 h0, decodeMemExtra_2 h3, h1, h2, e]; rfl
  · obtain ⟨h0, h1, h2, h3, h4, h5⟩ := atDAT (by decide : 3 < 16) (by decide) hg (by decide) (by decide) hN
    have e : N % 4 = 3 := by omega
    rw [major21 h0, decodeMemExtra_3 h3, h1, h2, e]; rfl
theorem vldk (v0 : Fin 16) (v1 : Fin 16) (v2 : Fin 16) : Statement (.vldk v0 v1 v2) := by
  intro has _ n h g t N hg _ hN
  cases h
  obtain ⟨h0, h1, h2, h3, h4, h5⟩ := atDAB hg (by decide) (by decide) hN
  rw [major21 h0, decodeMemExtra_4 h4, h1, h2, h3]
theorem pref (v0 : Fin 16) : Statement (.pref v0) := by
  intro has _ n h g t N hg _ hN
  cases h
  obtain ⟨h0, h1, h2⟩ := atA hg (by decide) (by decide) hN
  rw [major21 h0, decodeMemExtra_8 h2, h1]
theorem prefR (v0 : Fin 16) : Statement (.prefR v0) := by
  intro has _ n h g t N hg _ hN
  cases h
  obtain ⟨h0, h1, h2⟩ := atA hg (by decide) (by decide) hN
  rw [major21 h0, decodeMemExtra_9 h2, h1]
theorem fenceK : Statement (.fenceK) := by
  intro has _ n h g t N hg _ hN
  cases h
  obtain ⟨h0, h1⟩ := atNone hg (by decide) (by decide) hN
  rw [major21 h0, decodeMemExtra_16 h1]
theorem fenceS : Statement (.fenceS) := by
  intro has _ n h g t N hg _ hN
  cases h
  obtain ⟨h0, h1⟩ := atNone hg (by decide) (by decide) hN
  rw [major21 h0, decodeMemExtra_17 h1]
theorem fenceO : Statement (.fenceO) := by
  intro has _ n h g t N hg _ hN
  cases h
  obtain ⟨h0, h1⟩ := atNone hg (by decide) (by decide) hN
  rw [major21 h0, decodeMemExtra_18 h1]
theorem fenceY : Statement (.fenceY) := by
  intro has _ n h g t N hg _ hN
  cases h
  obtain ⟨h0, h1⟩ := atNone hg (by decide) (by decide) hN
  rw [major21 h0, decodeMemExtra_19 h1]
theorem ldfe (v0 : Fin 16) (v1 : Fin 16) : Statement (.ldfe v0 v1) := by
  intro has _ n h g t N hg _ hN
  cases h
  obtain ⟨h0, h1, h2, h3, h4, h5⟩ := atDA hg (by decide) (by decide) hN
  rw [major22 h0, decodeSync_0 h3, h1, h2]
theorem ldff (v0 : Fin 16) (v1 : Fin 16) : Statement (.ldff v0 v1) := by
  intro has _ n h g t N hg _ hN
  cases h
  obtain ⟨h0, h1, h2, h3, h4, h5⟩ := atDA hg (by decide) (by decide) hN
  rw [major22 h0, decodeSync_1 h3, h1, h2]
theorem stfe (v0 : Fin 16) (v1 : Fin 16) : Statement (.stfe v0 v1) := by
  intro has _ n h g t N hg _ hN
  cases h
  obtain ⟨h0, h1, h2, h3⟩ := atAB hg (by decide) (by decide) hN
  rw [major22 h0, decodeSync_2 h3, h1, h2]
theorem stf (v0 : Fin 16) (v1 : Fin 16) : Statement (.stf v0 v1) := by
  intro has _ n h g t N hg _ hN
  cases h
  obtain ⟨h0, h1, h2, h3⟩ := atAB hg (by decide) (by decide) hN
  rw [major22 h0, decodeSync_3 h3, h1, h2]
theorem feClr (v0 : Fin 16) : Statement (.feClr v0) := by
  intro has _ n h g t N hg _ hN
  cases h
  obtain ⟨h0, h1, h2⟩ := atA hg (by decide) (by decide) hN
  rw [major22 h0, decodeSync_4 h2, h1]
theorem lrw (v0 : Fin 16) (v1 : Fin 16) : Statement (.lrw v0 v1) := by
  intro has _ n h g t N hg _ hN
  cases h
  obtain ⟨h0, h1, h2, h3, h4, h5⟩ := atDA hg (by decide) (by decide) hN
  rw [major22 h0, decodeSync_8 h3, h1, h2]
theorem scq (v0 : Fin 16) (v1 : Fin 16) : Statement (.scq v0 v1) := by
  intro has _ n h g t N hg _ hN
  cases h
  obtain ⟨h0, h1, h2, h3⟩ := atAB hg (by decide) (by decide) hN
  rw [major22 h0, decodeSync_9 h3, h1, h2]
theorem rsvRel (v0 : Fin 16) : Statement (.rsvRel v0) := by
  intro has _ n h g t N hg _ hN
  cases h
  obtain ⟨h0, h1, h2⟩ := atA hg (by decide) (by decide) hN
  rw [major22 h0, decodeSync_10 h2, h1]
theorem amoD (v0 : Fin 16) (v1 : Fin 16) (v2 : Fin 16) (v3 : AmoOp) : Statement (.amoD v0 v1 v2 v3) := by
  intro has _ n h g t N hg _ hN
  cases h
  cases v3
  · obtain ⟨h0, h1, h2, h3, h4, h5, h6⟩ := atDABT (by decide : 0 < 16) (by decide) hg (by decide) (by decide) hN
    have e : N % 16 = 0 := by omega
    rw [major22 h0, decodeSync_16 h4, h1, h2, h3, e]; rfl
  · obtain ⟨h0, h1, h2, h3, h4, h5, h6⟩ := atDABT (by decide : 1 < 16) (by decide) hg (by decide) (by decide) hN
    have e : N % 16 = 1 := by omega
    rw [major22 h0, decodeSync_17 h4, h1, h2, h3, e]; rfl
  · obtain ⟨h0, h1, h2, h3, h4, h5, h6⟩ := atDABT (by decide : 2 < 16) (by decide) hg (by decide) (by decide) hN
    have e : N % 16 = 2 := by omega
    rw [major22 h0, decodeSync_18 h4, h1, h2, h3, e]; rfl
  · obtain ⟨h0, h1, h2, h3, h4, h5, h6⟩ := atDABT (by decide : 3 < 16) (by decide) hg (by decide) (by decide) hN
    have e : N % 16 = 3 := by omega
    rw [major22 h0, decodeSync_19 h4, h1, h2, h3, e]; rfl
  · obtain ⟨h0, h1, h2, h3, h4, h5, h6⟩ := atDABT (by decide : 4 < 16) (by decide) hg (by decide) (by decide) hN
    have e : N % 16 = 4 := by omega
    rw [major22 h0, decodeSync_20 h4, h1, h2, h3, e]; rfl
  · obtain ⟨h0, h1, h2, h3, h4, h5, h6⟩ := atDABT (by decide : 5 < 16) (by decide) hg (by decide) (by decide) hN
    have e : N % 16 = 5 := by omega
    rw [major22 h0, decodeSync_21 h4, h1, h2, h3, e]; rfl
  · obtain ⟨h0, h1, h2, h3, h4, h5, h6⟩ := atDABT (by decide : 6 < 16) (by decide) hg (by decide) (by decide) hN
    have e : N % 16 = 6 := by omega
    rw [major22 h0, decodeSync_22 h4, h1, h2, h3, e]; rfl
  · obtain ⟨h0, h1, h2, h3, h4, h5, h6⟩ := atDABT (by decide : 7 < 16) (by decide) hg (by decide) (by decide) hN
    have e : N % 16 = 7 := by omega
    rw [major22 h0, decodeSync_23 h4, h1, h2, h3, e]; rfl
  · obtain ⟨h0, h1, h2, h3, h4, h5, h6⟩ := atDABT (by decide : 8 < 16) (by decide) hg (by decide) (by decide) hN
    have e : N % 16 = 8 := by omega
    rw [major22 h0, decodeSync_24 h4, h1, h2, h3, e]; rfl
  · obtain ⟨h0, h1, h2, h3, h4, h5, h6⟩ := atDABT (by decide : 9 < 16) (by decide) hg (by decide) (by decide) hN
    have e : N % 16 = 9 := by omega
    rw [major22 h0, decodeSync_25 h4, h1, h2, h3, e]; rfl
theorem amoW (v0 : Fin 16) (v1 : Fin 16) (v2 : Fin 16) (v3 : AmoOp) : Statement (.amoW v0 v1 v2 v3) := by
  intro has _ n h g t N hg _ hN
  cases h
  cases v3
  · obtain ⟨h0, h1, h2, h3, h4, h5, h6⟩ := atDABT (by decide : 0 < 16) (by decide) hg (by decide) (by decide) hN
    have e : N % 16 = 0 := by omega
    rw [major22 h0, decodeSync_32 h4, h1, h2, h3, e]; rfl
  · obtain ⟨h0, h1, h2, h3, h4, h5, h6⟩ := atDABT (by decide : 1 < 16) (by decide) hg (by decide) (by decide) hN
    have e : N % 16 = 1 := by omega
    rw [major22 h0, decodeSync_33 h4, h1, h2, h3, e]; rfl
  · obtain ⟨h0, h1, h2, h3, h4, h5, h6⟩ := atDABT (by decide : 2 < 16) (by decide) hg (by decide) (by decide) hN
    have e : N % 16 = 2 := by omega
    rw [major22 h0, decodeSync_34 h4, h1, h2, h3, e]; rfl
  · obtain ⟨h0, h1, h2, h3, h4, h5, h6⟩ := atDABT (by decide : 3 < 16) (by decide) hg (by decide) (by decide) hN
    have e : N % 16 = 3 := by omega
    rw [major22 h0, decodeSync_35 h4, h1, h2, h3, e]; rfl
  · obtain ⟨h0, h1, h2, h3, h4, h5, h6⟩ := atDABT (by decide : 4 < 16) (by decide) hg (by decide) (by decide) hN
    have e : N % 16 = 4 := by omega
    rw [major22 h0, decodeSync_36 h4, h1, h2, h3, e]; rfl
  · obtain ⟨h0, h1, h2, h3, h4, h5, h6⟩ := atDABT (by decide : 5 < 16) (by decide) hg (by decide) (by decide) hN
    have e : N % 16 = 5 := by omega
    rw [major22 h0, decodeSync_37 h4, h1, h2, h3, e]; rfl
  · obtain ⟨h0, h1, h2, h3, h4, h5, h6⟩ := atDABT (by decide : 6 < 16) (by decide) hg (by decide) (by decide) hN
    have e : N % 16 = 6 := by omega
    rw [major22 h0, decodeSync_38 h4, h1, h2, h3, e]; rfl
  · obtain ⟨h0, h1, h2, h3, h4, h5, h6⟩ := atDABT (by decide : 7 < 16) (by decide) hg (by decide) (by decide) hN
    have e : N % 16 = 7 := by omega
    rw [major22 h0, decodeSync_39 h4, h1, h2, h3, e]; rfl
  · obtain ⟨h0, h1, h2, h3, h4, h5, h6⟩ := atDABT (by decide : 8 < 16) (by decide) hg (by decide) (by decide) hN
    have e : N % 16 = 8 := by omega
    rw [major22 h0, decodeSync_40 h4, h1, h2, h3, e]; rfl
  · obtain ⟨h0, h1, h2, h3, h4, h5, h6⟩ := atDABT (by decide : 9 < 16) (by decide) hg (by decide) (by decide) hN
    have e : N % 16 = 9 := by omega
    rw [major22 h0, decodeSync_41 h4, h1, h2, h3, e]; rfl
theorem redD (v0 : Fin 16) (v1 : Fin 16) (v2 : RedOp) : Statement (.redD v0 v1 v2) := by
  intro has _ n h g t N hg _ hN
  cases h
  cases v2
  · obtain ⟨h0, h1, h2, h3, h4, h5⟩ := atABT (by decide : 0 < 16) (by decide) hg (by decide) (by decide) hN
    have e : N % 8 = 0 := by omega
    rw [major22 h0, decodeSync_48 h3, h1, h2, e]; rfl
  · obtain ⟨h0, h1, h2, h3, h4, h5⟩ := atABT (by decide : 1 < 16) (by decide) hg (by decide) (by decide) hN
    have e : N % 8 = 1 := by omega
    rw [major22 h0, decodeSync_49 h3, h1, h2, e]; rfl
  · obtain ⟨h0, h1, h2, h3, h4, h5⟩ := atABT (by decide : 2 < 16) (by decide) hg (by decide) (by decide) hN
    have e : N % 8 = 2 := by omega
    rw [major22 h0, decodeSync_50 h3, h1, h2, e]; rfl
  · obtain ⟨h0, h1, h2, h3, h4, h5⟩ := atABT (by decide : 3 < 16) (by decide) hg (by decide) (by decide) hN
    have e : N % 8 = 3 := by omega
    rw [major22 h0, decodeSync_51 h3, h1, h2, e]; rfl
  · obtain ⟨h0, h1, h2, h3, h4, h5⟩ := atABT (by decide : 4 < 16) (by decide) hg (by decide) (by decide) hN
    have e : N % 8 = 4 := by omega
    rw [major22 h0, decodeSync_52 h3, h1, h2, e]; rfl
  · obtain ⟨h0, h1, h2, h3, h4, h5⟩ := atABT (by decide : 5 < 16) (by decide) hg (by decide) (by decide) hN
    have e : N % 8 = 5 := by omega
    rw [major22 h0, decodeSync_53 h3, h1, h2, e]; rfl
theorem redW (v0 : Fin 16) (v1 : Fin 16) (v2 : RedOp) : Statement (.redW v0 v1 v2) := by
  intro has _ n h g t N hg _ hN
  cases h
  cases v2
  · obtain ⟨h0, h1, h2, h3, h4, h5⟩ := atABT (by decide : 0 < 16) (by decide) hg (by decide) (by decide) hN
    have e : N % 8 = 0 := by omega
    rw [major22 h0, decodeSync_56 h3, h1, h2, e]; rfl
  · obtain ⟨h0, h1, h2, h3, h4, h5⟩ := atABT (by decide : 1 < 16) (by decide) hg (by decide) (by decide) hN
    have e : N % 8 = 1 := by omega
    rw [major22 h0, decodeSync_57 h3, h1, h2, e]; rfl
  · obtain ⟨h0, h1, h2, h3, h4, h5⟩ := atABT (by decide : 2 < 16) (by decide) hg (by decide) (by decide) hN
    have e : N % 8 = 2 := by omega
    rw [major22 h0, decodeSync_58 h3, h1, h2, e]; rfl
  · obtain ⟨h0, h1, h2, h3, h4, h5⟩ := atABT (by decide : 3 < 16) (by decide) hg (by decide) (by decide) hN
    have e : N % 8 = 3 := by omega
    rw [major22 h0, decodeSync_59 h3, h1, h2, e]; rfl
  · obtain ⟨h0, h1, h2, h3, h4, h5⟩ := atABT (by decide : 4 < 16) (by decide) hg (by decide) (by decide) hN
    have e : N % 8 = 4 := by omega
    rw [major22 h0, decodeSync_60 h3, h1, h2, e]; rfl
  · obtain ⟨h0, h1, h2, h3, h4, h5⟩ := atABT (by decide : 5 < 16) (by decide) hg (by decide) (by decide) hN
    have e : N % 8 = 5 := by omega
    rw [major22 h0, decodeSync_61 h3, h1, h2, e]; rfl
theorem redFaddF32 (v0 : Fin 16) (v1 : Fin 16) : Statement (.redFaddF32 v0 v1) := by
  intro has _ n h g t N hg _ hN
  cases h
  obtain ⟨h0, h1, h2, h3⟩ := atAB hg (by decide) (by decide) hN
  rw [major22 h0, decodeSync_62 h3, h1, h2]
theorem areg (v0 : Fin 16) : Statement (.areg v0) := by
  intro has _ n h g t N hg _ hN
  cases h
  obtain ⟨h0, h1, h2⟩ := atB hg (by decide) (by decide) hN
  rw [major22 h0, decodeSync_64 h2, h1]
theorem barInit (v0 : Fin 16) (v1 : Fin 16) : Statement (.barInit v0 v1) := by
  intro has _ n h g t N hg _ hN
  cases h
  obtain ⟨h0, h1, h2, h3⟩ := atAB hg (by decide) (by decide) hN
  rw [major22 h0, decodeSync_72 h3, h1, h2]
theorem barArrive (v0 : Fin 16) : Statement (.barArrive v0) := by
  intro has _ n h g t N hg _ hN
  cases h
  obtain ⟨h0, h1, h2⟩ := atA hg (by decide) (by decide) hN
  rw [major22 h0, decodeSync_73 h2, h1]
theorem barWait (v0 : Fin 16) : Statement (.barWait v0) := by
  intro has _ n h g t N hg _ hN
  cases h
  obtain ⟨h0, h1, h2⟩ := atA hg (by decide) (by decide) hN
  rw [major22 h0, decodeSync_74 h2, h1]
theorem barSync (v0 : Fin 16) : Statement (.barSync v0) := by
  intro has _ n h g t N hg _ hN
  cases h
  obtain ⟨h0, h1, h2⟩ := atA hg (by decide) (by decide) hN
  rw [major22 h0, decodeSync_75 h2, h1]
theorem qpush (v0 : Fin 16) (v1 : Fin 16) : Statement (.qpush v0 v1) := by
  intro has _ n h g t N hg _ hN
  cases h
  obtain ⟨h0, h1, h2, h3⟩ := atAB hg (by decide) (by decide) hN
  rw [major22 h0, decodeSync_80 h3, h1, h2]
theorem qpop (v0 : Fin 16) (v1 : Fin 16) : Statement (.qpop v0 v1) := by
  intro has _ n h g t N hg _ hN
  cases h
  obtain ⟨h0, h1, h2, h3, h4, h5⟩ := atDA hg (by decide) (by decide) hN
  rw [major22 h0, decodeSync_81 h3, h1, h2]
theorem qpeek (v0 : Fin 16) (v1 : Fin 16) : Statement (.qpeek v0 v1) := by
  intro has _ n h g t N hg _ hN
  cases h
  obtain ⟨h0, h1, h2, h3, h4, h5⟩ := atDA hg (by decide) (by decide) hN
  rw [major22 h0, decodeSync_82 h3, h1, h2]
theorem qredI32 (v0 : Fin 16) (v1 : Fin 16) (v2 : Fin 16) : Statement (.qredI32 v0 v1 v2) := by
  intro has _ n h g t N hg _ hN
  cases h
  obtain ⟨h0, h1, h2, h3, h4, h5⟩ := atDAB hg (by decide) (by decide) hN
  rw [major22 h0, decodeSync_83 h4, h1, h2, h3]
theorem qredI64 (v0 : Fin 16) (v1 : Fin 16) (v2 : Fin 16) : Statement (.qredI64 v0 v1 v2) := by
  intro has _ n h g t N hg _ hN
  cases h
  obtain ⟨h0, h1, h2, h3, h4, h5⟩ := atDAB hg (by decide) (by decide) hN
  rw [major22 h0, decodeSync_84 h4, h1, h2, h3]
theorem qredF32 (v0 : Fin 16) (v1 : Fin 16) (v2 : Fin 16) : Statement (.qredF32 v0 v1 v2) := by
  intro has _ n h g t N hg _ hN
  cases h
  obtain ⟨h0, h1, h2, h3, h4, h5⟩ := atDAB hg (by decide) (by decide) hN
  rw [major22 h0, decodeSync_85 h4, h1, h2, h3]
theorem msg (v0 : Fin 16) (v1 : Fin 16) : Statement (.msg v0 v1) := by
  intro has _ n h g t N hg _ hN
  cases h
  obtain ⟨h0, h1, h2, h3⟩ := atAB hg (by decide) (by decide) hN
  rw [major22 h0, decodeSync_88 h3, h1, h2]
theorem mrecv (v0 : Fin 16) : Statement (.mrecv v0) := by
  intro has _ n h g t N hg _ hN
  cases h
  obtain ⟨h0, h1, h2⟩ := atD hg (by decide) (by decide) hN
  rw [major22 h0, decodeSync_89 h2, h1]
theorem go (v0 : Fin 16) : Statement (.go v0) := by
  intro has _ n h g t N hg _ hN
  cases h
  obtain ⟨h0, h1, h2⟩ := atA hg (by decide) (by decide) hN
  rw [major23 h0, decodeThread_0 h2, h1]
theorem spawn (v0 : Fin 16) (v1 : Fin 16) : Statement (.spawn v0 v1) := by
  intro has _ n h g t N hg _ hN
  cases h
  obtain ⟨h0, h1, h2, h3, h4, h5⟩ := atDA hg (by decide) (by decide) hN
  rw [major23 h0, decodeThread_1 h3, h1, h2]
theorem step : Statement (.step) := by
  intro has _ n h g t N hg _ hN
  cases h
  obtain ⟨h0, h1⟩ := atNone hg (by decide) (by decide) hN
  rw [major23 h0, decodeThread_2 h1]
theorem fexp2 (v0 : Fin 16) (v1 : Fin 16) (v2 : BitVec 8) : Statement (.fexp2 v0 v1 v2) := by
  intro has _ n h g t N hg _ hN
  cases h
  obtain ⟨h0, h1, h2, h3, h4⟩ := atDAI8 hg (by decide) (by decide) hN
  rw [major24 h0, decodeSfu_0 h4, h1, h2, h3]
theorem flog2 (v0 : Fin 16) (v1 : Fin 16) (v2 : BitVec 8) : Statement (.flog2 v0 v1 v2) := by
  intro has _ n h g t N hg _ hN
  cases h
  obtain ⟨h0, h1, h2, h3, h4⟩ := atDAI8 hg (by decide) (by decide) hN
  rw [major24 h0, decodeSfu_1 h4, h1, h2, h3]
theorem frcp (v0 : Fin 16) (v1 : Fin 16) (v2 : BitVec 8) : Statement (.frcp v0 v1 v2) := by
  intro has _ n h g t N hg _ hN
  cases h
  obtain ⟨h0, h1, h2, h3, h4⟩ := atDAI8 hg (by decide) (by decide) hN
  rw [major24 h0, decodeSfu_2 h4, h1, h2, h3]
theorem frsqrt (v0 : Fin 16) (v1 : Fin 16) (v2 : BitVec 8) : Statement (.frsqrt v0 v1 v2) := by
  intro has _ n h g t N hg _ hN
  cases h
  obtain ⟨h0, h1, h2, h3, h4⟩ := atDAI8 hg (by decide) (by decide) hN
  rw [major24 h0, decodeSfu_3 h4, h1, h2, h3]
theorem fsqrt (v0 : Fin 16) (v1 : Fin 16) (v2 : BitVec 8) : Statement (.fsqrt v0 v1 v2) := by
  intro has _ n h g t N hg _ hN
  cases h
  obtain ⟨h0, h1, h2, h3, h4⟩ := atDAI8 hg (by decide) (by decide) hN
  rw [major24 h0, decodeSfu_4 h4, h1, h2, h3]
theorem fsinp (v0 : Fin 16) (v1 : Fin 16) (v2 : BitVec 8) : Statement (.fsinp v0 v1 v2) := by
  intro has _ n h g t N hg _ hN
  cases h
  obtain ⟨h0, h1, h2, h3, h4⟩ := atDAI8 hg (by decide) (by decide) hN
  rw [major24 h0, decodeSfu_5 h4, h1, h2, h3]
theorem fcosp (v0 : Fin 16) (v1 : Fin 16) (v2 : BitVec 8) : Statement (.fcosp v0 v1 v2) := by
  intro has _ n h g t N hg _ hN
  cases h
  obtain ⟨h0, h1, h2, h3, h4⟩ := atDAI8 hg (by decide) (by decide) hN
  rw [major24 h0, decodeSfu_6 h4, h1, h2, h3]
theorem ftanh (v0 : Fin 16) (v1 : Fin 16) (v2 : BitVec 8) : Statement (.ftanh v0 v1 v2) := by
  intro has _ n h g t N hg _ hN
  cases h
  obtain ⟨h0, h1, h2, h3, h4⟩ := atDAI8 hg (by decide) (by decide) hN
  rw [major24 h0, decodeSfu_7 h4, h1, h2, h3]
theorem fsigm (v0 : Fin 16) (v1 : Fin 16) (v2 : BitVec 8) : Statement (.fsigm v0 v1 v2) := by
  intro has _ n h g t N hg _ hN
  cases h
  obtain ⟨h0, h1, h2, h3, h4⟩ := atDAI8 hg (by decide) (by decide) hN
  rw [major24 h0, decodeSfu_8 h4, h1, h2, h3]
theorem mgrp (v0 : Fin 16) (v1 : Fin 16) : Statement (.mgrp v0 v1) := by
  intro has _ n h g t N hg _ hN
  cases h
  obtain ⟨h0, h1, h2, h3, h4, h5⟩ := atDA hg (by decide) (by decide) hN
  rw [major25 h0, decodeMatrix_0 h3, h1, h2]
theorem mclr (v0 : Fin 16) (v1 : Fin 16) (v2 : Fin 16) : Statement (.mclr v0 v1 v2) := by
  intro has _ n h g t N hg _ hN
  cases h
  obtain ⟨h0, h1, h2, h3, h4, h5⟩ := atDAB hg (by decide) (by decide) hN
  rw [major25 h0, decodeMatrix_1 h4, h1, h2, h3]
theorem mmaG8 (v0 : Fin 16) (v1 : Fin 16) (v2 : Fin 16) : Statement (.mmaG8 v0 v1 v2) := by
  intro has _ n h g t N hg _ hN
  cases h
  obtain ⟨h0, h1, h2, h3, h4, h5⟩ := atDAB hg (by decide) (by decide) hN
  rw [major25 h0, decodeMatrix_2 h4, h1, h2, h3]
theorem mmaI8 (v0 : Fin 16) (v1 : Fin 16) (v2 : Fin 16) : Statement (.mmaI8 v0 v1 v2) := by
  intro has _ n h g t N hg _ hN
  cases h
  obtain ⟨h0, h1, h2, h3, h4, h5⟩ := atDAB hg (by decide) (by decide) hN
  rw [major25 h0, decodeMatrix_3 h4, h1, h2, h3]
theorem mmaBf16 (v0 : Fin 16) (v1 : Fin 16) (v2 : Fin 16) : Statement (.mmaBf16 v0 v1 v2) := by
  intro has _ n h g t N hg _ hN
  cases h
  obtain ⟨h0, h1, h2, h3, h4, h5⟩ := atDAB hg (by decide) (by decide) hN
  rw [major25 h0, decodeMatrix_4 h4, h1, h2, h3]
theorem mmaG8bf (v0 : Fin 16) (v1 : Fin 16) (v2 : Fin 16) : Statement (.mmaG8bf v0 v1 v2) := by
  intro has _ n h g t N hg _ hN
  cases h
  obtain ⟨h0, h1, h2, h3, h4, h5⟩ := atDAB hg (by decide) (by decide) hN
  rw [major25 h0, decodeMatrix_5 h4, h1, h2, h3]
theorem mrd (v0 : Fin 16) (v1 : Fin 16) (v2 : Fin 16) : Statement (.mrd v0 v1 v2) := by
  intro has _ n h g t N hg _ hN
  cases h
  obtain ⟨h0, h1, h2, h3, h4, h5⟩ := atDAB hg (by decide) (by decide) hN
  rw [major25 h0, decodeMatrix_6 h4, h1, h2, h3]
theorem mrdq (v0 : Fin 16) (v1 : Fin 16) (v2 : Fin 16) : Statement (.mrdq v0 v1 v2) := by
  intro has _ n h g t N hg _ hN
  cases h
  obtain ⟨h0, h1, h2, h3, h4, h5⟩ := atDAB hg (by decide) (by decide) hN
  rw [major25 h0, decodeMatrix_7 h4, h1, h2, h3]
theorem mstat (v0 : Fin 16) (v1 : Fin 16) : Statement (.mstat v0 v1) := by
  intro has _ n h g t N hg _ hN
  cases h
  obtain ⟨h0, h1, h2, h3⟩ := atDB hg (by decide) (by decide) hN
  rw [major25 h0, decodeMatrix_8 h3, h1, h2]
theorem mfence (v0 : Fin 16) : Statement (.mfence v0) := by
  intro has _ n h g t N hg _ hN
  cases h
  obtain ⟨h0, h1, h2⟩ := atB hg (by decide) (by decide) hN
  rw [major25 h0, decodeMatrix_9 h2, h1]
theorem cp1d (v0 : Fin 16) : Statement (.cp1d v0) := by
  intro has _ n h g t N hg _ hN
  cases h
  obtain ⟨h0, h1, h2⟩ := atA hg (by decide) (by decide) hN
  rw [major26 h0, decodeCopy_0 h2, h1]
theorem cp2d (v0 : Fin 16) : Statement (.cp2d v0) := by
  intro has _ n h g t N hg _ hN
  cases h
  obtain ⟨h0, h1, h2⟩ := atA hg (by decide) (by decide) hN
  rw [major26 h0, decodeCopy_1 h2, h1]
theorem cp3d (v0 : Fin 16) : Statement (.cp3d v0) := by
  intro has _ n h g t N hg _ hN
  cases h
  obtain ⟨h0, h1, h2⟩ := atA hg (by decide) (by decide) hN
  rw [major26 h0, decodeCopy_2 h2, h1]
theorem cpGather (v0 : Fin 16) : Statement (.cpGather v0) := by
  intro has _ n h g t N hg _ hN
  cases h
  obtain ⟨h0, h1, h2⟩ := atA hg (by decide) (by decide) hN
  rw [major26 h0, decodeCopy_3 h2, h1]
theorem cpScatter (v0 : Fin 16) : Statement (.cpScatter v0) := by
  intro has _ n h g t N hg _ hN
  cases h
  obtain ⟨h0, h1, h2⟩ := atA hg (by decide) (by decide) hN
  rw [major26 h0, decodeCopy_4 h2, h1]
theorem cpFill (v0 : Fin 16) : Statement (.cpFill v0) := by
  intro has _ n h g t N hg _ hN
  cases h
  obtain ⟨h0, h1, h2⟩ := atA hg (by decide) (by decide) hN
  rw [major26 h0, decodeCopy_5 h2, h1]
theorem chset (v0 : Fin 16) (v1 : Fin 16) : Statement (.chset v0 v1) := by
  intro has _ n h g t N hg _ hN
  cases h
  obtain ⟨h0, h1, h2, h3⟩ := atAB hg (by decide) (by decide) hN
  rw [major26 h0, decodeCopy_8 h3, h1, h2]
theorem chq (v0 : Fin 16) (v1 : Fin 16) : Statement (.chq v0 v1) := by
  intro has _ n h g t N hg _ hN
  cases h
  obtain ⟨h0, h1, h2, h3⟩ := atDB hg (by decide) (by decide) hN
  rw [major26 h0, decodeCopy_9 h3, h1, h2]
theorem publish (v0 : Fin 16) : Statement (.publish v0) := by
  intro has _ n h g t N hg _ hN
  cases h
  obtain ⟨h0, h1, h2⟩ := atA hg (by decide) (by decide) hN
  rw [major26 h0, decodeCopy_16 h2, h1]
theorem winst (v0 : Fin 16) (v1 : Fin 16) : Statement (.winst v0 v1) := by
  intro has _ n h g t N hg _ hN
  cases h
  obtain ⟨h0, h1, h2, h3, h4, h5⟩ := atDA hg (by decide) (by decide) hN
  rw [major27 h0, decodeFlash_0 h3, h1, h2]
theorem wstat (v0 : Fin 16) (v1 : Fin 16) : Statement (.wstat v0 v1) := by
  intro has _ n h g t N hg _ hN
  cases h
  obtain ⟨h0, h1, h2, h3, h4, h5⟩ := atDA hg (by decide) (by decide) hN
  rw [major27 h0, decodeFlash_1 h3, h1, h2]
theorem tlbinv (v0 : Fin 16) : Statement (.tlbinv v0) := by
  intro has _ n h g t N hg _ hN
  cases h
  obtain ⟨h0, h1, h2⟩ := atA hg (by decide) (by decide) hN
  rw [major28 h0, decodeMonitor_0 h2, h1]
theorem keyld (v0 : Fin 16) (v1 : Fin 16) : Statement (.keyld v0 v1) := by
  intro has _ n h g t N hg _ hN
  cases h
  obtain ⟨h0, h1, h2, h3⟩ := atAB hg (by decide) (by decide) hN
  rw [major28 h0, decodeMonitor_1 h3, h1, h2]
theorem keyzap (v0 : Fin 16) : Statement (.keyzap v0) := by
  intro has _ n h g t N hg _ hN
  cases h
  obtain ⟨h0, h1, h2⟩ := atA hg (by decide) (by decide) hN
  rw [major28 h0, decodeMonitor_2 h2, h1]
theorem scrub (v0 : Fin 16) : Statement (.scrub v0) := by
  intro has _ n h g t N hg _ hN
  cases h
  obtain ⟨h0, h1, h2⟩ := atA hg (by decide) (by decide) hN
  rw [major28 h0, decodeMonitor_3 h2, h1]
theorem evpost (v0 : Fin 16) : Statement (.evpost v0) := by
  intro has _ n h g t N hg _ hN
  cases h
  obtain ⟨h0, h1, h2⟩ := atA hg (by decide) (by decide) hN
  rw [major28 h0, decodeMonitor_4 h2, h1]
theorem rotctlSuspend (v0 : Fin 16) : Statement (.rotctlSuspend v0) := by
  intro has _ n h g t N hg _ hN
  cases h
  obtain ⟨h0, h1, h2⟩ := atA hg (by decide) (by decide) hN
  rw [major28 h0, decodeMonitor_5 h2, h1]
theorem rotctlResume (v0 : Fin 16) : Statement (.rotctlResume v0) := fun _ h => nomatch h
theorem rotctlExtraRotation (v0 : Fin 16) : Statement (.rotctlExtraRotation v0) := fun _ h => nomatch h
theorem rotctlExtraSwitch (v0 : Fin 16) : Statement (.rotctlExtraSwitch v0) := fun _ h => nomatch h
theorem slotctlPlace (v0 : Fin 16) (v1 : Fin 16) : Statement (.slotctlPlace v0 v1) := by
  intro has _ n h g t N hg _ hN
  cases h
  obtain ⟨h0, h1, h2, h3⟩ := atAB hg (by decide) (by decide) hN
  rw [major28 h0, decodeMonitor_6 h3, h1, h2]
theorem slotctlRemove (v0 : Fin 16) (v1 : Fin 16) : Statement (.slotctlRemove v0 v1) := fun _ h => nomatch h
theorem slotctlSpill (v0 : Fin 16) (v1 : Fin 16) : Statement (.slotctlSpill v0 v1) := fun _ h => nomatch h
theorem waypart (v0 : Fin 16) (v1 : Fin 16) : Statement (.waypart v0 v1) := by
  intro has _ n h g t N hg _ hN
  cases h
  obtain ⟨h0, h1, h2, h3⟩ := atAB hg (by decide) (by decide) hN
  rw [major28 h0, decodeMonitor_7 h3, h1, h2]
theorem frzFreezeOwner (v0 : Fin 16) : Statement (.frzFreezeOwner v0) := by
  intro has _ n h g t N hg _ hN
  cases h
  obtain ⟨h0, h1, h2⟩ := atA hg (by decide) (by decide) hN
  rw [major28 h0, decodeMonitor_8 h2, h1]
theorem frzReleaseOwner (v0 : Fin 16) : Statement (.frzReleaseOwner v0) := fun _ h => nomatch h
theorem frzFreezeFunction (v0 : Fin 16) : Statement (.frzFreezeFunction v0) := fun _ h => nomatch h
theorem frzReleaseFunction (v0 : Fin 16) : Statement (.frzReleaseFunction v0) := fun _ h => nomatch h
theorem frzEndTask (v0 : Fin 16) : Statement (.frzEndTask v0) := fun _ h => nomatch h
theorem ldt (v0 : Fin 16) (v1 : Fin 16) (v2 : BitVec 12) : Statement (.ldt v0 v1 v2) := by
  intro has _ n h g t N hg _ hN
  cases h
  obtain ⟨h0, h1, h2, h3⟩ := atDAI12 hg (by decide) (by decide) hN
  rw [major29 h0, h1, h2, h3]
theorem vldt (v0 : Fin 16) (v1 : Fin 16) (v2 : BitVec 12) : Statement (.vldt v0 v1 v2) := by
  intro has _ n h g t N hg _ hN
  cases h
  obtain ⟨h0, h1, h2, h3⟩ := atDAI12 hg (by decide) (by decide) hN
  rw [major30 h0, h1, h2, h3]
theorem hint (v0 : BitVec 20) : Statement (.hint v0) := by
  intro has _ n h g t N hg _ hN
  cases h
  obtain ⟨h0, h1⟩ := atI20 hg (by decide) (by decide) hN
  rw [major31 h0, h1]
theorem nop (v0 : BitVec 20) : Statement (.nop v0) := by
  intro has _ n h g t N hg _ hN
  cases h
  obtain ⟨h0, h1⟩ := atI20 hg (by decide) (by decide) hN
  rw [major63 h0, h1]
theorem add (v0 : Fin 16) (v1 : Fin 16) (v2 : Fin 16) : Statement (.add v0 v1 v2) := by
  intro has _ n h g t N hg _ hN
  cases h
  obtain ⟨h0, h1, h2, h3, h4, h5⟩ := atDAB hg (by decide) (by decide) hN
  rw [major32 h0, decodeAlu_0 h4, h1, h2, h3]
theorem sub (v0 : Fin 16) (v1 : Fin 16) (v2 : Fin 16) : Statement (.sub v0 v1 v2) := by
  intro has _ n h g t N hg _ hN
  cases h
  obtain ⟨h0, h1, h2, h3, h4, h5⟩ := atDAB hg (by decide) (by decide) hN
  rw [major32 h0, decodeAlu_1 h4, h1, h2, h3]
theorem mul (v0 : Fin 16) (v1 : Fin 16) (v2 : Fin 16) : Statement (.mul v0 v1 v2) := by
  intro has _ n h g t N hg _ hN
  cases h
  obtain ⟨h0, h1, h2, h3, h4, h5⟩ := atDAB hg (by decide) (by decide) hN
  rw [major32 h0, decodeAlu_2 h4, h1, h2, h3]
theorem mulh (v0 : Fin 16) (v1 : Fin 16) (v2 : Fin 16) : Statement (.mulh v0 v1 v2) := by
  intro has _ n h g t N hg _ hN
  cases h
  obtain ⟨h0, h1, h2, h3, h4, h5⟩ := atDAB hg (by decide) (by decide) hN
  rw [major32 h0, decodeAlu_3 h4, h1, h2, h3]
theorem mulhn (v0 : Fin 16) (v1 : Fin 16) (v2 : Fin 16) : Statement (.mulhn v0 v1 v2) := by
  intro has _ n h g t N hg _ hN
  cases h
  obtain ⟨h0, h1, h2, h3, h4, h5⟩ := atDAB hg (by decide) (by decide) hN
  rw [major32 h0, decodeAlu_4 h4, h1, h2, h3]
theorem div (v0 : Fin 16) (v1 : Fin 16) (v2 : Fin 16) : Statement (.div v0 v1 v2) := by
  intro has _ n h g t N hg _ hN
  cases h
  obtain ⟨h0, h1, h2, h3, h4, h5⟩ := atDAB hg (by decide) (by decide) hN
  rw [major32 h0, decodeAlu_5 h4, h1, h2, h3]
theorem divn (v0 : Fin 16) (v1 : Fin 16) (v2 : Fin 16) : Statement (.divn v0 v1 v2) := by
  intro has _ n h g t N hg _ hN
  cases h
  obtain ⟨h0, h1, h2, h3, h4, h5⟩ := atDAB hg (by decide) (by decide) hN
  rw [major32 h0, decodeAlu_6 h4, h1, h2, h3]
theorem rem (v0 : Fin 16) (v1 : Fin 16) (v2 : Fin 16) : Statement (.rem v0 v1 v2) := by
  intro has _ n h g t N hg _ hN
  cases h
  obtain ⟨h0, h1, h2, h3, h4, h5⟩ := atDAB hg (by decide) (by decide) hN
  rw [major32 h0, decodeAlu_7 h4, h1, h2, h3]
theorem remn (v0 : Fin 16) (v1 : Fin 16) (v2 : Fin 16) : Statement (.remn v0 v1 v2) := by
  intro has _ n h g t N hg _ hN
  cases h
  obtain ⟨h0, h1, h2, h3, h4, h5⟩ := atDAB hg (by decide) (by decide) hN
  rw [major32 h0, decodeAlu_8 h4, h1, h2, h3]
theorem and (v0 : Fin 16) (v1 : Fin 16) (v2 : Fin 16) : Statement (.and v0 v1 v2) := by
  intro has _ n h g t N hg _ hN
  cases h
  obtain ⟨h0, h1, h2, h3, h4, h5⟩ := atDAB hg (by decide) (by decide) hN
  rw [major32 h0, decodeAlu_16 h4, h1, h2, h3]
theorem or (v0 : Fin 16) (v1 : Fin 16) (v2 : Fin 16) : Statement (.or v0 v1 v2) := by
  intro has _ n h g t N hg _ hN
  cases h
  obtain ⟨h0, h1, h2, h3, h4, h5⟩ := atDAB hg (by decide) (by decide) hN
  rw [major32 h0, decodeAlu_17 h4, h1, h2, h3]
theorem xor (v0 : Fin 16) (v1 : Fin 16) (v2 : Fin 16) : Statement (.xor v0 v1 v2) := by
  intro has _ n h g t N hg _ hN
  cases h
  obtain ⟨h0, h1, h2, h3, h4, h5⟩ := atDAB hg (by decide) (by decide) hN
  rw [major32 h0, decodeAlu_18 h4, h1, h2, h3]
theorem andn (v0 : Fin 16) (v1 : Fin 16) (v2 : Fin 16) : Statement (.andn v0 v1 v2) := by
  intro has _ n h g t N hg _ hN
  cases h
  obtain ⟨h0, h1, h2, h3, h4, h5⟩ := atDAB hg (by decide) (by decide) hN
  rw [major32 h0, decodeAlu_19 h4, h1, h2, h3]
theorem orn (v0 : Fin 16) (v1 : Fin 16) (v2 : Fin 16) : Statement (.orn v0 v1 v2) := by
  intro has _ n h g t N hg _ hN
  cases h
  obtain ⟨h0, h1, h2, h3, h4, h5⟩ := atDAB hg (by decide) (by decide) hN
  rw [major32 h0, decodeAlu_20 h4, h1, h2, h3]
theorem shl (v0 : Fin 16) (v1 : Fin 16) (v2 : Fin 16) : Statement (.shl v0 v1 v2) := by
  intro has _ n h g t N hg _ hN
  cases h
  obtain ⟨h0, h1, h2, h3, h4, h5⟩ := atDAB hg (by decide) (by decide) hN
  rw [major32 h0, decodeAlu_24 h4, h1, h2, h3]
theorem shr (v0 : Fin 16) (v1 : Fin 16) (v2 : Fin 16) : Statement (.shr v0 v1 v2) := by
  intro has _ n h g t N hg _ hN
  cases h
  obtain ⟨h0, h1, h2, h3, h4, h5⟩ := atDAB hg (by decide) (by decide) hN
  rw [major32 h0, decodeAlu_25 h4, h1, h2, h3]
theorem sar (v0 : Fin 16) (v1 : Fin 16) (v2 : Fin 16) : Statement (.sar v0 v1 v2) := by
  intro has _ n h g t N hg _ hN
  cases h
  obtain ⟨h0, h1, h2, h3, h4, h5⟩ := atDAB hg (by decide) (by decide) hN
  rw [major32 h0, decodeAlu_26 h4, h1, h2, h3]
theorem rotl (v0 : Fin 16) (v1 : Fin 16) (v2 : Fin 16) : Statement (.rotl v0 v1 v2) := by
  intro has _ n h g t N hg _ hN
  cases h
  obtain ⟨h0, h1, h2, h3, h4, h5⟩ := atDAB hg (by decide) (by decide) hN
  rw [major32 h0, decodeAlu_27 h4, h1, h2, h3]
theorem min (v0 : Fin 16) (v1 : Fin 16) (v2 : Fin 16) : Statement (.min v0 v1 v2) := by
  intro has _ n h g t N hg _ hN
  cases h
  obtain ⟨h0, h1, h2, h3, h4, h5⟩ := atDAB hg (by decide) (by decide) hN
  rw [major32 h0, decodeAlu_32 h4, h1, h2, h3]
theorem max (v0 : Fin 16) (v1 : Fin 16) (v2 : Fin 16) : Statement (.max v0 v1 v2) := by
  intro has _ n h g t N hg _ hN
  cases h
  obtain ⟨h0, h1, h2, h3, h4, h5⟩ := atDAB hg (by decide) (by decide) hN
  rw [major32 h0, decodeAlu_33 h4, h1, h2, h3]
theorem minn (v0 : Fin 16) (v1 : Fin 16) (v2 : Fin 16) : Statement (.minn v0 v1 v2) := by
  intro has _ n h g t N hg _ hN
  cases h
  obtain ⟨h0, h1, h2, h3, h4, h5⟩ := atDAB hg (by decide) (by decide) hN
  rw [major32 h0, decodeAlu_34 h4, h1, h2, h3]
theorem maxn (v0 : Fin 16) (v1 : Fin 16) (v2 : Fin 16) : Statement (.maxn v0 v1 v2) := by
  intro has _ n h g t N hg _ hN
  cases h
  obtain ⟨h0, h1, h2, h3, h4, h5⟩ := atDAB hg (by decide) (by decide) hN
  rw [major32 h0, decodeAlu_35 h4, h1, h2, h3]
theorem clz (v0 : Fin 16) (v1 : Fin 16) : Statement (.clz v0 v1) := by
  intro has _ n h g t N hg _ hN
  cases h
  obtain ⟨h0, h1, h2, h3, h4, h5⟩ := atDA hg (by decide) (by decide) hN
  rw [major32 h0, decodeAlu_40 h3, h1, h2]
theorem ctz (v0 : Fin 16) (v1 : Fin 16) : Statement (.ctz v0 v1) := by
  intro has _ n h g t N hg _ hN
  cases h
  obtain ⟨h0, h1, h2, h3, h4, h5⟩ := atDA hg (by decide) (by decide) hN
  rw [major32 h0, decodeAlu_41 h3, h1, h2]
theorem popc (v0 : Fin 16) (v1 : Fin 16) : Statement (.popc v0 v1) := by
  intro has _ n h g t N hg _ hN
  cases h
  obtain ⟨h0, h1, h2, h3, h4, h5⟩ := atDA hg (by decide) (by decide) hN
  rw [major32 h0, decodeAlu_42 h3, h1, h2]
theorem mov (v0 : Fin 16) (v1 : Fin 16) : Statement (.mov v0 v1) := by
  intro has _ n h g t N hg _ hN
  cases h
  obtain ⟨h0, h1, h2, h3, h4, h5⟩ := atDA hg (by decide) (by decide) hN
  rw [major32 h0, decodeAlu_43 h3, h1, h2]
theorem cmpEq (v0 : Fin 16) (v1 : Fin 16) (v2 : Fin 16) : Statement (.cmpEq v0 v1 v2) := by
  intro has _ n h g t N hg _ hN
  cases h
  obtain ⟨h0, h1, h2, h3, h4, h5⟩ := atDAB hg (by decide) (by decide) hN
  rw [major32 h0, decodeAlu_48 h4, h1, h2, h3]
theorem cmpNe (v0 : Fin 16) (v1 : Fin 16) (v2 : Fin 16) : Statement (.cmpNe v0 v1 v2) := by
  intro has _ n h g t N hg _ hN
  cases h
  obtain ⟨h0, h1, h2, h3, h4, h5⟩ := atDAB hg (by decide) (by decide) hN
  rw [major32 h0, decodeAlu_49 h4, h1, h2, h3]
theorem cmpLt (v0 : Fin 16) (v1 : Fin 16) (v2 : Fin 16) : Statement (.cmpLt v0 v1 v2) := by
  intro has _ n h g t N hg _ hN
  cases h
  obtain ⟨h0, h1, h2, h3, h4, h5⟩ := atDAB hg (by decide) (by decide) hN
  rw [major32 h0, decodeAlu_50 h4, h1, h2, h3]
theorem cmpLe (v0 : Fin 16) (v1 : Fin 16) (v2 : Fin 16) : Statement (.cmpLe v0 v1 v2) := by
  intro has _ n h g t N hg _ hN
  cases h
  obtain ⟨h0, h1, h2, h3, h4, h5⟩ := atDAB hg (by decide) (by decide) hN
  rw [major32 h0, decodeAlu_51 h4, h1, h2, h3]
theorem cmpLtn (v0 : Fin 16) (v1 : Fin 16) (v2 : Fin 16) : Statement (.cmpLtn v0 v1 v2) := by
  intro has _ n h g t N hg _ hN
  cases h
  obtain ⟨h0, h1, h2, h3, h4, h5⟩ := atDAB hg (by decide) (by decide) hN
  rw [major32 h0, decodeAlu_52 h4, h1, h2, h3]
theorem cmpLen (v0 : Fin 16) (v1 : Fin 16) (v2 : Fin 16) : Statement (.cmpLen v0 v1 v2) := by
  intro has _ n h g t N hg _ hN
  cases h
  obtain ⟨h0, h1, h2, h3, h4, h5⟩ := atDAB hg (by decide) (by decide) hN
  rw [major32 h0, decodeAlu_53 h4, h1, h2, h3]
theorem pset (v0 : Fin 16) (v1 : Fin 16) : Statement (.pset v0 v1) := by
  intro has _ n h g t N hg _ hN
  cases h
  obtain ⟨h0, h1, h2, h3⟩ := atDB hg (by decide) (by decide) hN
  rw [major32 h0, decodeAlu_56 h3, h1, h2]
theorem pand (v0 : Fin 16) (v1 : Fin 16) (v2 : Fin 16) : Statement (.pand v0 v1 v2) := by
  intro has _ n h g t N hg _ hN
  cases h
  obtain ⟨h0, h1, h2, h3, h4, h5⟩ := atDAB hg (by decide) (by decide) hN
  rw [major32 h0, decodeAlu_57 h4, h1, h2, h3]
theorem por (v0 : Fin 16) (v1 : Fin 16) (v2 : Fin 16) : Statement (.por v0 v1 v2) := by
  intro has _ n h g t N hg _ hN
  cases h
  obtain ⟨h0, h1, h2, h3, h4, h5⟩ := atDAB hg (by decide) (by decide) hN
  rw [major32 h0, decodeAlu_58 h4, h1, h2, h3]
theorem pnot (v0 : Fin 16) (v1 : Fin 16) : Statement (.pnot v0 v1) := by
  intro has _ n h g t N hg _ hN
  cases h
  obtain ⟨h0, h1, h2, h3, h4, h5⟩ := atDA hg (by decide) (by decide) hN
  rw [major32 h0, decodeAlu_59 h3, h1, h2]
theorem addi (v0 : Fin 16) (v1 : Fin 16) (v2 : BitVec 12) : Statement (.addi v0 v1 v2) := by
  intro has _ n h g t N hg _ hN
  cases h
  obtain ⟨h0, h1, h2, h3⟩ := atDAI12 hg (by decide) (by decide) hN
  rw [major33 h0, h1, h2, h3]
theorem andi (v0 : Fin 16) (v1 : Fin 16) (v2 : BitVec 12) : Statement (.andi v0 v1 v2) := by
  intro has _ n h g t N hg _ hN
  cases h
  obtain ⟨h0, h1, h2, h3⟩ := atDAI12 hg (by decide) (by decide) hN
  rw [major34 h0, h1, h2, h3]
theorem ori (v0 : Fin 16) (v1 : Fin 16) (v2 : BitVec 12) : Statement (.ori v0 v1 v2) := by
  intro has _ n h g t N hg _ hN
  cases h
  obtain ⟨h0, h1, h2, h3⟩ := atDAI12 hg (by decide) (by decide) hN
  rw [major35 h0, h1, h2, h3]
theorem xori (v0 : Fin 16) (v1 : Fin 16) (v2 : BitVec 12) : Statement (.xori v0 v1 v2) := by
  intro has _ n h g t N hg _ hN
  cases h
  obtain ⟨h0, h1, h2, h3⟩ := atDAI12 hg (by decide) (by decide) hN
  rw [major36 h0, h1, h2, h3]
theorem shli (v0 : Fin 16) (v1 : Fin 16) (v2 : BitVec 6) : Statement (.shli v0 v1 v2) := by
  intro has _ n h g t N hg _ hN
  cases h
  obtain ⟨h0, h1, h2, h3, h4⟩ := atDAI6 hg (by decide) (by decide) hN
  rw [major37 h0, decodeShift_0 h4, h1, h2, h3]
theorem shri (v0 : Fin 16) (v1 : Fin 16) (v2 : BitVec 6) : Statement (.shri v0 v1 v2) := by
  intro has _ n h g t N hg _ hN
  cases h
  obtain ⟨h0, h1, h2, h3, h4⟩ := atDAI6 hg (by decide) (by decide) hN
  rw [major37 h0, decodeShift_1 h4, h1, h2, h3]
theorem sari (v0 : Fin 16) (v1 : Fin 16) (v2 : BitVec 6) : Statement (.sari v0 v1 v2) := by
  intro has _ n h g t N hg _ hN
  cases h
  obtain ⟨h0, h1, h2, h3, h4⟩ := atDAI6 hg (by decide) (by decide) hN
  rw [major37 h0, decodeShift_2 h4, h1, h2, h3]
theorem roti (v0 : Fin 16) (v1 : Fin 16) (v2 : BitVec 6) : Statement (.roti v0 v1 v2) := by
  intro has _ n h g t N hg _ hN
  cases h
  obtain ⟨h0, h1, h2, h3, h4⟩ := atDAI6 hg (by decide) (by decide) hN
  rw [major37 h0, decodeShift_3 h4, h1, h2, h3]
theorem bfx (v0 : Fin 16) (v1 : Fin 16) (v2 : BitVec 6) (v3 : BitVec 6) : Statement (.bfx v0 v1 v2 v3) := by
  intro has _ n h g t N hg _ hN
  cases h
  obtain ⟨h0, h1, h2, h3, h4⟩ := atDAI6hI6 hg (by decide) (by decide) hN
  rw [major38 h0, h1, h2, h3, h4]
theorem bfxn (v0 : Fin 16) (v1 : Fin 16) (v2 : BitVec 6) (v3 : BitVec 6) : Statement (.bfxn v0 v1 v2 v3) := by
  intro has _ n h g t N hg _ hN
  cases h
  obtain ⟨h0, h1, h2, h3, h4⟩ := atDAI6hI6 hg (by decide) (by decide) hN
  rw [major39 h0, h1, h2, h3, h4]
theorem bfi (v0 : Fin 16) (v1 : Fin 16) (v2 : BitVec 6) (v3 : BitVec 6) : Statement (.bfi v0 v1 v2 v3) := by
  intro has _ n h g t N hg _ hN
  cases h
  obtain ⟨h0, h1, h2, h3, h4⟩ := atDAI6hI6 hg (by decide) (by decide) hN
  rw [major40 h0, h1, h2, h3, h4]
theorem li (v0 : Fin 16) (v1 : BitVec 16) : Statement (.li v0 v1) := by
  intro has _ n h g t N hg _ hN
  cases h
  obtain ⟨h0, h1, h2⟩ := atDI16 hg (by decide) (by decide) hN
  rw [major41 h0, h1, h2]
theorem lis (v0 : Fin 16) (v1 : BitVec 16) : Statement (.lis v0 v1) := by
  intro has _ n h g t N hg _ hN
  cases h
  obtain ⟨h0, h1, h2⟩ := atDI16 hg (by decide) (by decide) hN
  rw [major42 h0, h1, h2]
theorem sel (v0 : Fin 16) (v1 : Fin 16) (v2 : Fin 16) (v3 : Fin 16) : Statement (.sel v0 v1 v2 v3) := by
  intro has _ n h g t N hg _ hN
  cases h
  obtain ⟨h0, h1, h2, h3, h4, h5⟩ := atDABC hg (by decide) (by decide) hN
  rw [major43 h0, decodeFour_0 h5, h1, h2, h3, h4]
theorem vsel (v0 : Fin 16) (v1 : Fin 16) (v2 : Fin 16) (v3 : Fin 16) : Statement (.vsel v0 v1 v2 v3) := by
  intro has _ n h g t N hg _ hN
  cases h
  obtain ⟨h0, h1, h2, h3, h4, h5⟩ := atDABC hg (by decide) (by decide) hN
  rw [major43 h0, decodeFour_1 h5, h1, h2, h3, h4]
theorem vfma (v0 : Fin 16) (v1 : Fin 16) (v2 : Fin 16) (v3 : Fin 16) (v4 : FltT) : Statement (.vfma v0 v1 v2 v3 v4) := by
  intro has _ n h g t N hg _ hN
  cases h
  cases v4
  · obtain ⟨h0, h1, h2, h3, h4, h5⟩ := atDABCT (by decide : 0 < 16) (by decide) hg (by decide) (by decide) hN
    have e : N % 2 = 0 := by omega
    rw [major43 h0, decodeFour_2 h5, h1, h2, h3, h4, e]; rfl
  · obtain ⟨h0, h1, h2, h3, h4, h5⟩ := atDABCT (by decide : 1 < 16) (by decide) hg (by decide) (by decide) hN
    have e : N % 2 = 1 := by omega
    rw [major43 h0, decodeFour_3 h5, h1, h2, h3, h4, e]; rfl
theorem vfms (v0 : Fin 16) (v1 : Fin 16) (v2 : Fin 16) (v3 : Fin 16) (v4 : FltT) : Statement (.vfms v0 v1 v2 v3 v4) := by
  intro has _ n h g t N hg _ hN
  cases h
  cases v4
  · obtain ⟨h0, h1, h2, h3, h4, h5⟩ := atDABCT (by decide : 0 < 16) (by decide) hg (by decide) (by decide) hN
    have e : N % 2 = 0 := by omega
    rw [major43 h0, decodeFour_4 h5, h1, h2, h3, h4, e]; rfl
  · obtain ⟨h0, h1, h2, h3, h4, h5⟩ := atDABCT (by decide : 1 < 16) (by decide) hg (by decide) (by decide) hN
    have e : N % 2 = 1 := by omega
    rw [major43 h0, decodeFour_5 h5, h1, h2, h3, h4, e]; rfl
theorem vdotG8 (v0 : Fin 16) (v1 : Fin 16) (v2 : Fin 16) (v3 : Fin 16) : Statement (.vdotG8 v0 v1 v2 v3) := by
  intro has _ n h g t N hg _ hN
  cases h
  obtain ⟨h0, h1, h2, h3, h4, h5⟩ := atDABC hg (by decide) (by decide) hN
  rw [major43 h0, decodeFour_6 h5, h1, h2, h3, h4]
theorem vdotBf16 (v0 : Fin 16) (v1 : Fin 16) (v2 : Fin 16) : Statement (.vdotBf16 v0 v1 v2) := by
  intro has _ n h g t N hg _ hN
  cases h
  obtain ⟨h0, h1, h2, h3, h4, h5⟩ := atDAB hg (by decide) (by decide) hN
  rw [major43 h0, decodeFour_7 h5, h1, h2, h3]
theorem vdotI8 (v0 : Fin 16) (v1 : Fin 16) (v2 : Fin 16) : Statement (.vdotI8 v0 v1 v2) := by
  intro has _ n h g t N hg _ hN
  cases h
  obtain ⟨h0, h1, h2, h3, h4, h5⟩ := atDAB hg (by decide) (by decide) hN
  rw [major43 h0, decodeFour_8 h5, h1, h2, h3]
theorem cmpiEq (v0 : Fin 16) (v1 : Fin 16) (v2 : BitVec 12) : Statement (.cmpiEq v0 v1 v2) := by
  intro has _ n h g t N hg _ hN
  cases h
  obtain ⟨h0, h1, h2, h3⟩ := atDAI12 hg (by decide) (by decide) hN
  rw [major44 h0, h1, h2, h3]
theorem cmpiNe (v0 : Fin 16) (v1 : Fin 16) (v2 : BitVec 12) : Statement (.cmpiNe v0 v1 v2) := by
  intro has _ n h g t N hg _ hN
  cases h
  obtain ⟨h0, h1, h2, h3⟩ := atDAI12 hg (by decide) (by decide) hN
  rw [major45 h0, h1, h2, h3]
theorem cmpiLt (v0 : Fin 16) (v1 : Fin 16) (v2 : BitVec 12) : Statement (.cmpiLt v0 v1 v2) := by
  intro has _ n h g t N hg _ hN
  cases h
  obtain ⟨h0, h1, h2, h3⟩ := atDAI12 hg (by decide) (by decide) hN
  rw [major46 h0, h1, h2, h3]
theorem cmpiLe (v0 : Fin 16) (v1 : Fin 16) (v2 : BitVec 12) : Statement (.cmpiLe v0 v1 v2) := by
  intro has _ n h g t N hg _ hN
  cases h
  obtain ⟨h0, h1, h2, h3⟩ := atDAI12 hg (by decide) (by decide) hN
  rw [major47 h0, h1, h2, h3]
theorem cmpiLtn (v0 : Fin 16) (v1 : Fin 16) (v2 : BitVec 12) : Statement (.cmpiLtn v0 v1 v2) := by
  intro has _ n h g t N hg _ hN
  cases h
  obtain ⟨h0, h1, h2, h3⟩ := atDAI12 hg (by decide) (by decide) hN
  rw [major48 h0, h1, h2, h3]
theorem cmpiLen (v0 : Fin 16) (v1 : Fin 16) (v2 : BitVec 12) : Statement (.cmpiLen v0 v1 v2) := by
  intro has _ n h g t N hg _ hN
  cases h
  obtain ⟨h0, h1, h2, h3⟩ := atDAI12 hg (by decide) (by decide) hN
  rw [major49 h0, h1, h2, h3]
theorem vadd (v0 : Fin 16) (v1 : Fin 16) (v2 : Fin 16) (v3 : LaneT) : Statement (.vadd v0 v1 v2 v3) := by
  intro has _ n h g t N hg _ hN
  cases h
  obtain ⟨h0, h1, h2, h3, h4, h5, h6⟩ := atDABT (laneLt v3) (lt_of_lt_of_le (Nat.add_lt_add_left (laneMax v3) _) (by decide)) hg (by decide) (by decide) hN
  rw [major50 h0, decodeVecA_0 h5, h1, h2, h3]
  exact withLaneEq (by simpa using h6) has
theorem vsub (v0 : Fin 16) (v1 : Fin 16) (v2 : Fin 16) (v3 : LaneT) : Statement (.vsub v0 v1 v2 v3) := by
  intro has _ n h g t N hg _ hN
  cases h
  obtain ⟨h0, h1, h2, h3, h4, h5, h6⟩ := atDABT (laneLt v3) (lt_of_lt_of_le (Nat.add_lt_add_left (laneMax v3) _) (by decide)) hg (by decide) (by decide) hN
  rw [major50 h0, decodeVecA_1 h5, h1, h2, h3]
  exact withLaneEq (by simpa using h6) has
theorem vmul (v0 : Fin 16) (v1 : Fin 16) (v2 : Fin 16) (v3 : LaneT) : Statement (.vmul v0 v1 v2 v3) := by
  intro has _ n h g t N hg _ hN
  cases h
  obtain ⟨h0, h1, h2, h3, h4, h5, h6⟩ := atDABT (laneLt v3) (lt_of_lt_of_le (Nat.add_lt_add_left (laneMax v3) _) (by decide)) hg (by decide) (by decide) hN
  rw [major50 h0, decodeVecA_2 h5, h1, h2, h3]
  exact withLaneEq (by simpa using h6) has
theorem vneg (v0 : Fin 16) (v1 : Fin 16) (v2 : LaneT) : Statement (.vneg v0 v1 v2) := by
  intro has _ n h g t N hg _ hN
  cases h
  obtain ⟨h0, h1, h2, h3, h4, h5⟩ := atDAT (laneLt v2) (lt_of_lt_of_le (Nat.add_lt_add_left (laneMax v2) _) (by decide)) hg (by decide) (by decide) hN
  rw [major50 h0, decodeVecA_3 h4, h1, h2]
  exact withLaneEq (by simpa using h5) has
theorem vabs (v0 : Fin 16) (v1 : Fin 16) (v2 : LaneT) : Statement (.vabs v0 v1 v2) := by
  intro has _ n h g t N hg _ hN
  cases h
  obtain ⟨h0, h1, h2, h3, h4, h5⟩ := atDAT (laneLt v2) (lt_of_lt_of_le (Nat.add_lt_add_left (laneMax v2) _) (by decide)) hg (by decide) (by decide) hN
  rw [major50 h0, decodeVecA_4 h4, h1, h2]
  exact withLaneEq (by simpa using h5) has
theorem vmin (v0 : Fin 16) (v1 : Fin 16) (v2 : Fin 16) (v3 : LaneT) : Statement (.vmin v0 v1 v2 v3) := by
  intro has _ n h g t N hg _ hN
  cases h
  obtain ⟨h0, h1, h2, h3, h4, h5, h6⟩ := atDABT (laneLt v3) (lt_of_lt_of_le (Nat.add_lt_add_left (laneMax v3) _) (by decide)) hg (by decide) (by decide) hN
  rw [major50 h0, decodeVecA_5 h5, h1, h2, h3]
  exact withLaneEq (by simpa using h6) has
theorem vmax (v0 : Fin 16) (v1 : Fin 16) (v2 : Fin 16) (v3 : LaneT) : Statement (.vmax v0 v1 v2 v3) := by
  intro has _ n h g t N hg _ hN
  cases h
  obtain ⟨h0, h1, h2, h3, h4, h5, h6⟩ := atDABT (laneLt v3) (lt_of_lt_of_le (Nat.add_lt_add_left (laneMax v3) _) (by decide)) hg (by decide) (by decide) hN
  rw [major50 h0, decodeVecA_6 h5, h1, h2, h3]
  exact withLaneEq (by simpa using h6) has
theorem vand (v0 : Fin 16) (v1 : Fin 16) (v2 : Fin 16) (v3 : LaneT) : Statement (.vand v0 v1 v2 v3) := by
  intro has _ n h g t N hg _ hN
  cases h
  obtain ⟨h0, h1, h2, h3, h4, h5, h6⟩ := atDABT (laneLt v3) (lt_of_lt_of_le (Nat.add_lt_add_left (laneMax v3) _) (by decide)) hg (by decide) (by decide) hN
  rw [major50 h0, decodeVecA_7 h5, h1, h2, h3]
  exact withLaneEq (by simpa using h6) has
theorem vor (v0 : Fin 16) (v1 : Fin 16) (v2 : Fin 16) (v3 : LaneT) : Statement (.vor v0 v1 v2 v3) := by
  intro has _ n h g t N hg _ hN
  cases h
  obtain ⟨h0, h1, h2, h3, h4, h5, h6⟩ := atDABT (laneLt v3) (lt_of_lt_of_le (Nat.add_lt_add_left (laneMax v3) _) (by decide)) hg (by decide) (by decide) hN
  rw [major50 h0, decodeVecA_8 h5, h1, h2, h3]
  exact withLaneEq (by simpa using h6) has
theorem vxor (v0 : Fin 16) (v1 : Fin 16) (v2 : Fin 16) (v3 : LaneT) : Statement (.vxor v0 v1 v2 v3) := by
  intro has _ n h g t N hg _ hN
  cases h
  obtain ⟨h0, h1, h2, h3, h4, h5, h6⟩ := atDABT (laneLt v3) (lt_of_lt_of_le (Nat.add_lt_add_left (laneMax v3) _) (by decide)) hg (by decide) (by decide) hN
  rw [major50 h0, decodeVecA_9 h5, h1, h2, h3]
  exact withLaneEq (by simpa using h6) has
theorem vandn (v0 : Fin 16) (v1 : Fin 16) (v2 : Fin 16) (v3 : LaneT) : Statement (.vandn v0 v1 v2 v3) := by
  intro has _ n h g t N hg _ hN
  cases h
  obtain ⟨h0, h1, h2, h3, h4, h5, h6⟩ := atDABT (laneLt v3) (lt_of_lt_of_le (Nat.add_lt_add_left (laneMax v3) _) (by decide)) hg (by decide) (by decide) hN
  rw [major50 h0, decodeVecA_10 h5, h1, h2, h3]
  exact withLaneEq (by simpa using h6) has
theorem vshl (v0 : Fin 16) (v1 : Fin 16) (v2 : Fin 16) (v3 : LaneT) : Statement (.vshl v0 v1 v2 v3) := by
  intro has _ n h g t N hg _ hN
  cases h
  obtain ⟨h0, h1, h2, h3, h4, h5, h6⟩ := atDABT (laneLt v3) (lt_of_lt_of_le (Nat.add_lt_add_left (laneMax v3) _) (by decide)) hg (by decide) (by decide) hN
  rw [major50 h0, decodeVecA_11 h5, h1, h2, h3]
  exact withLaneEq (by simpa using h6) has
theorem vshr (v0 : Fin 16) (v1 : Fin 16) (v2 : Fin 16) (v3 : LaneT) : Statement (.vshr v0 v1 v2 v3) := by
  intro has _ n h g t N hg _ hN
  cases h
  obtain ⟨h0, h1, h2, h3, h4, h5, h6⟩ := atDABT (laneLt v3) (lt_of_lt_of_le (Nat.add_lt_add_left (laneMax v3) _) (by decide)) hg (by decide) (by decide) hN
  rw [major50 h0, decodeVecA_12 h5, h1, h2, h3]
  exact withLaneEq (by simpa using h6) has
theorem vsar (v0 : Fin 16) (v1 : Fin 16) (v2 : Fin 16) (v3 : LaneT) : Statement (.vsar v0 v1 v2 v3) := by
  intro has _ n h g t N hg _ hN
  cases h
  obtain ⟨h0, h1, h2, h3, h4, h5, h6⟩ := atDABT (laneLt v3) (lt_of_lt_of_le (Nat.add_lt_add_left (laneMax v3) _) (by decide)) hg (by decide) (by decide) hN
  rw [major50 h0, decodeVecA_13 h5, h1, h2, h3]
  exact withLaneEq (by simpa using h6) has
theorem vcmpEq (v0 : Fin 16) (v1 : Fin 16) (v2 : Fin 16) (v3 : LaneT) : Statement (.vcmpEq v0 v1 v2 v3) := by
  intro has _ n h g t N hg _ hN
  cases h
  obtain ⟨h0, h1, h2, h3, h4, h5, h6⟩ := atDABT (laneLt v3) (lt_of_lt_of_le (Nat.add_lt_add_left (laneMax v3) _) (by decide)) hg (by decide) (by decide) hN
  rw [major50 h0, decodeVecA_14 h5, h1, h2, h3]
  exact withLaneEq (by simpa using h6) has
theorem vcmpLt (v0 : Fin 16) (v1 : Fin 16) (v2 : Fin 16) (v3 : LaneT) : Statement (.vcmpLt v0 v1 v2 v3) := by
  intro has _ n h g t N hg _ hN
  cases h
  obtain ⟨h0, h1, h2, h3, h4, h5, h6⟩ := atDABT (laneLt v3) (lt_of_lt_of_le (Nat.add_lt_add_left (laneMax v3) _) (by decide)) hg (by decide) (by decide) hN
  rw [major50 h0, decodeVecA_15 h5, h1, h2, h3]
  exact withLaneEq (by simpa using h6) has
theorem vcmpLe (v0 : Fin 16) (v1 : Fin 16) (v2 : Fin 16) (v3 : LaneT) : Statement (.vcmpLe v0 v1 v2 v3) := by
  intro has _ n h g t N hg _ hN
  cases h
  obtain ⟨h0, h1, h2, h3, h4, h5, h6⟩ := atDABT (laneLt v3) (lt_of_lt_of_le (Nat.add_lt_add_left (laneMax v3) _) (by decide)) hg (by decide) (by decide) hN
  rw [major51 h0, decodeVecB_0 h5, h1, h2, h3]
  exact withLaneEq (by simpa using h6) has
theorem vsum (v0 : Fin 16) (v1 : Fin 16) (v2 : LaneT) : Statement (.vsum v0 v1 v2) := by
  intro has _ n h g t N hg _ hN
  cases h
  obtain ⟨h0, h1, h2, h3, h4, h5⟩ := atDAT (laneLt v2) (lt_of_lt_of_le (Nat.add_lt_add_left (laneMax v2) _) (by decide)) hg (by decide) (by decide) hN
  rw [major51 h0, decodeVecB_1 h4, h1, h2]
  exact withLaneEq (by simpa using h5) has
theorem vbcast (v0 : Fin 16) (v1 : Fin 16) (v2 : LaneT) : Statement (.vbcast v0 v1 v2) := by
  intro has _ n h g t N hg _ hN
  cases h
  obtain ⟨h0, h1, h2, h3, h4, h5⟩ := atDAT (laneLt v2) (lt_of_lt_of_le (Nat.add_lt_add_left (laneMax v2) _) (by decide)) hg (by decide) (by decide) hN
  rw [major51 h0, decodeVecB_2 h4, h1, h2]
  exact withLaneEq (by simpa using h5) has
theorem vext (v0 : Fin 16) (v1 : Fin 16) (v2 : Fin 16) (v3 : LaneT) : Statement (.vext v0 v1 v2 v3) := by
  intro has _ n h g t N hg _ hN
  cases h
  obtain ⟨h0, h1, h2, h3, h4, h5, h6⟩ := atDABT (laneLt v3) (lt_of_lt_of_le (Nat.add_lt_add_left (laneMax v3) _) (by decide)) hg (by decide) (by decide) hN
  rw [major51 h0, decodeVecB_3 h5, h1, h2, h3]
  exact withLaneEq (by simpa using h6) has
theorem vins (v0 : Fin 16) (v1 : Fin 16) (v2 : Fin 16) (v3 : LaneT) : Statement (.vins v0 v1 v2 v3) := by
  intro has _ n h g t N hg _ hN
  cases h
  obtain ⟨h0, h1, h2, h3, h4, h5, h6⟩ := atDABT (laneLt v3) (lt_of_lt_of_le (Nat.add_lt_add_left (laneMax v3) _) (by decide)) hg (by decide) (by decide) hN
  rw [major51 h0, decodeVecB_4 h5, h1, h2, h3]
  exact withLaneEq (by simpa using h6) has
theorem vperm (v0 : Fin 16) (v1 : Fin 16) (v2 : Fin 16) (v3 : LaneT) : Statement (.vperm v0 v1 v2 v3) := by
  intro has _ n h g t N hg _ hN
  cases h
  obtain ⟨h0, h1, h2, h3, h4, h5, h6⟩ := atDABT (laneLt v3) (lt_of_lt_of_le (Nat.add_lt_add_left (laneMax v3) _) (by decide)) hg (by decide) (by decide) hN
  rw [major51 h0, decodeVecB_5 h5, h1, h2, h3]
  exact withLaneEq (by simpa using h6) has
theorem vround (v0 : Fin 16) (v1 : Fin 16) (v2 : LaneT) : Statement (.vround v0 v1 v2) := by
  intro has _ n h g t N hg _ hN
  cases h
  obtain ⟨h0, h1, h2, h3, h4, h5⟩ := atDAT (laneLt v2) (lt_of_lt_of_le (Nat.add_lt_add_left (laneMax v2) _) (by decide)) hg (by decide) (by decide) hN
  rw [major51 h0, decodeVecB_6 h4, h1, h2]
  exact withLaneEq (by simpa using h5) has
theorem vscale (v0 : Fin 16) (v1 : Fin 16) (v2 : Fin 16) (v3 : LaneT) : Statement (.vscale v0 v1 v2 v3) := by
  intro has _ n h g t N hg _ hN
  cases h
  obtain ⟨h0, h1, h2, h3, h4, h5, h6⟩ := atDABT (laneLt v3) (lt_of_lt_of_le (Nat.add_lt_add_left (laneMax v3) _) (by decide)) hg (by decide) (by decide) hN
  rw [major51 h0, decodeVecB_7 h5, h1, h2, h3]
  exact withLaneEq (by simpa using h6) has
theorem vexpo (v0 : Fin 16) (v1 : Fin 16) (v2 : LaneT) : Statement (.vexpo v0 v1 v2) := by
  intro has _ n h g t N hg _ hN
  cases h
  obtain ⟨h0, h1, h2, h3, h4, h5⟩ := atDAT (laneLt v2) (lt_of_lt_of_le (Nat.add_lt_add_left (laneMax v2) _) (by decide)) hg (by decide) (by decide) hN
  rw [major51 h0, decodeVecB_8 h4, h1, h2]
  exact withLaneEq (by simpa using h5) has
theorem vrcpa (v0 : Fin 16) (v1 : Fin 16) : Statement (.vrcpa v0 v1) := by
  intro has _ n h g t N hg _ hN
  cases h
  obtain ⟨h0, h1, h2, h3, h4, h5⟩ := atDA hg (by decide) (by decide) hN
  rw [major51 h0, decodeVecB_9 h4, if_pos h5, h1, h2]
theorem vrsqrta (v0 : Fin 16) (v1 : Fin 16) : Statement (.vrsqrta v0 v1) := by
  intro has _ n h g t N hg _ hN
  cases h
  obtain ⟨h0, h1, h2, h3, h4, h5⟩ := atDA hg (by decide) (by decide) hN
  rw [major51 h0, decodeVecB_10 h4, if_pos h5, h1, h2]
theorem vsat (v0 : Fin 16) (v1 : Fin 16) (v2 : LaneT) : Statement (.vsat v0 v1 v2) := by
  intro has _ n h g t N hg _ hN
  cases h
  obtain ⟨h0, h1, h2, h3, h4, h5⟩ := atDAT (laneLt v2) (lt_of_lt_of_le (Nat.add_lt_add_left (laneMax v2) _) (by decide)) hg (by decide) (by decide) hN
  rw [major51 h0, decodeVecB_11 h4, h1, h2]
  exact withLaneEq (by simpa using h5) has
theorem vpack (v0 : Fin 16) (v1 : Fin 16) (v2 : Fin 16) (v3 : LaneT) : Statement (.vpack v0 v1 v2 v3) := by
  intro has _ n h g t N hg _ hN
  cases h
  obtain ⟨h0, h1, h2, h3, h4, h5, h6⟩ := atDABT (laneLt v3) (lt_of_lt_of_le (Nat.add_lt_add_left (laneMax v3) _) (by decide)) hg (by decide) (by decide) hN
  rw [major51 h0, decodeVecB_12 h5, h1, h2, h3]
  exact withLaneEq (by simpa using h6) has
theorem vunpack (v0 : Fin 16) (v1 : Fin 16) (v2 : Fin 16) (v3 : LaneT) : Statement (.vunpack v0 v1 v2 v3) := by
  intro has _ n h g t N hg _ hN
  cases h
  obtain ⟨h0, h1, h2, h3, h4, h5, h6⟩ := atDABT (laneLt v3) (lt_of_lt_of_le (Nat.add_lt_add_left (laneMax v3) _) (by decide)) hg (by decide) (by decide) hN
  rw [major51 h0, decodeVecB_13 h5, h1, h2, h3]
  exact withLaneEq (by simpa using h6) has
theorem vshli (v0 : Fin 16) (v1 : Fin 16) (v2 : LaneT) (v3 : BitVec 6) : Statement (.vshli v0 v1 v2 v3) := by
  intro has _ n h g t N hg _ hN
  cases h
  obtain ⟨h0, h1, h2, h3, h4⟩ := atDAThI6 (laneLt v2) hg (by decide) (by decide) hN
  rw [major52 h0, h1, h2, h4]
  exact withLaneEq (f := fun t => .vshli v0 v1 t v3) h3 has
theorem vcvt (v0 : Fin 16) (v1 : Fin 16) (v2 : Fin 16) (v3 : LaneT) (v4 : LaneT) : Statement (.vcvt v0 v1 v2 v3 v4) := by
  intro has _ n h g t N hg _ hN
  cases h
  obtain ⟨h0, h1, h2, h3, h4, h5⟩ := atDABThT (laneLt v3) (laneLt v4) hg (by decide) (by decide) hN
  rw [major53 h0, h4, laneOfCode]
  rw [h1, h2, h3]
  exact withLaneEq h5 has
theorem beatBoundary : Statement (.beatBoundary) := fun h => nomatch h
theorem longResultLand (v0 : Nat) (v1 : Nat) : Statement (.longResultLand v0 v1) := fun h => nomatch h
theorem sfuAccept (v0 : Nat) (v1 : Nat) (v2 : Nat) : Statement (.sfuAccept v0 v1 v2) := fun h => nomatch h
theorem sfuResultLand (v0 : Nat) : Statement (.sfuResultLand v0) := fun h => nomatch h
theorem migrationDepart (v0 : Nat) : Statement (.migrationDepart v0) := fun h => nomatch h
theorem packetArrive (v0 : Nat) : Statement (.packetArrive v0) := fun h => nomatch h
theorem exitComplete (v0 : Nat) : Statement (.exitComplete v0) := fun h => nomatch h
theorem fenceComplete (v0 : Nat) : Statement (.fenceComplete v0) := fun h => nomatch h
theorem streamStart (v0 : Nat) : Statement (.streamStart v0) := fun h => nomatch h
theorem streamBeatBegin (v0 : Nat) : Statement (.streamBeatBegin v0) := fun h => nomatch h
theorem streamEnd (v0 : Nat) : Statement (.streamEnd v0) := fun h => nomatch h
theorem remoteLoadServe (v0 : Nat) : Statement (.remoteLoadServe v0) := fun h => nomatch h
theorem storePerform (v0 : Nat) : Statement (.storePerform v0) := fun h => nomatch h
theorem syncOpArrive (v0 : Nat) : Statement (.syncOpArrive v0) := fun h => nomatch h
theorem amoPerform (v0 : Nat) : Statement (.amoPerform v0) := fun h => nomatch h
theorem reductionPerform (v0 : Nat) : Statement (.reductionPerform v0) := fun h => nomatch h
theorem atomicRegionPerform (v0 : Nat) : Statement (.atomicRegionPerform v0) := fun h => nomatch h
theorem barrierOpArrive (v0 : Nat) : Statement (.barrierOpArrive v0) := fun h => nomatch h
theorem queuePushArrive (v0 : Nat) : Statement (.queuePushArrive v0) := fun h => nomatch h
theorem messageArrive (v0 : Nat) : Statement (.messageArrive v0) := fun h => nomatch h
theorem tlbWalkEnd (v0 : Nat) : Statement (.tlbWalkEnd v0) := fun h => nomatch h
theorem tlbinvAck (v0 : Nat) : Statement (.tlbinvAck v0) := fun h => nomatch h
theorem engineCommandArrive (v0 : Nat) (v1 : Nat) (v2 : Nat) : Statement (.engineCommandArrive v0 v1 v2) := fun h => nomatch h
theorem engineCommandStart (v0 : Nat) (v1 : Nat) (v2 : Nat) : Statement (.engineCommandStart v0 v1 v2) := fun h => nomatch h
theorem engineCommandComplete (v0 : Nat) : Statement (.engineCommandComplete v0) := fun h => nomatch h
theorem mfenceComplete (v0 : Nat) : Statement (.mfenceComplete v0) := fun h => nomatch h
theorem copyCommandBegin (v0 : Nat) (v1 : Nat) (v2 : Nat) : Statement (.copyCommandBegin v0 v1 v2) := fun h => nomatch h
theorem copyUnitTurn (v0 : Nat) (v1 : Nat) (v2 : Nat) : Statement (.copyUnitTurn v0 v1 v2) := fun h => nomatch h
theorem copyCommandComplete (v0 : Nat) (v1 : Nat) (v2 : Nat) : Statement (.copyCommandComplete v0 v1 v2) := fun h => nomatch h
theorem pairExchange (v0 : Nat) : Statement (.pairExchange v0) := fun h => nomatch h
theorem recordArrive (v0 : Nat) : Statement (.recordArrive v0) := fun h => nomatch h
theorem launchStart (v0 : Nat) : Statement (.launchStart v0) := fun h => nomatch h
theorem taskDispatch (v0 : Nat) : Statement (.taskDispatch v0) := fun h => nomatch h
theorem ownerEnable (v0 : BitVec 64) : Statement (.ownerEnable v0) := fun h => nomatch h
theorem capentWrite (v0 : BitVec 64) : Statement (.capentWrite v0) := fun h => nomatch h
theorem rrangeWrite (v0 : Nat) (v1 : BitVec 64) : Statement (.rrangeWrite v0 v1) := fun h => nomatch h
theorem registerWrite (v0 : Nat) (v1 : BitVec 64) : Statement (.registerWrite v0 v1) := fun h => nomatch h
theorem freezeStart (v0 : Nat) : Statement (.freezeStart v0) := fun h => nomatch h
theorem rotationDue : Statement (.rotationDue) := fun h => nomatch h
theorem switchDue : Statement (.switchDue) := fun h => nomatch h
theorem engineStepStop (v0 : Nat) (v1 : Nat) (v2 : Nat) : Statement (.engineStepStop v0 v1 v2) := fun h => nomatch h
theorem routerFlush : Statement (.routerFlush) := fun h => nomatch h
theorem memoryDrainEnd : Statement (.memoryDrainEnd) := fun h => nomatch h
theorem rotationMove : Statement (.rotationMove) := fun h => nomatch h
theorem moveEnd : Statement (.moveEnd) := fun h => nomatch h
theorem slotMapSwitch : Statement (.slotMapSwitch) := fun h => nomatch h
theorem issueResume : Statement (.issueResume) := fun h => nomatch h
theorem rowRestore (v0 : Nat) : Statement (.rowRestore v0) := fun h => nomatch h
theorem waypartComplete (v0 : Nat) : Statement (.waypartComplete v0) := fun h => nomatch h
theorem hostPost (v0 : Nat) (v1 : Nat) (v2 : List (BitVec 8)) : Statement (.hostPost v0 v1 v2) := fun h => nomatch h
theorem hostMemoryRead (v0 : Nat) (v1 : Nat) (v2 : Nat) : Statement (.hostMemoryRead v0 v1 v2) := fun h => nomatch h
theorem hostMemoryWrite (v0 : Nat) (v1 : Nat) (v2 : List (BitVec 8)) : Statement (.hostMemoryWrite v0 v1 v2) := fun h => nomatch h
theorem vfFlr (v0 : Nat) : Statement (.vfFlr v0) := fun h => nomatch h
theorem pfFlr : Statement (.pfFlr) := fun h => nomatch h
theorem hotReset : Statement (.hotReset) := fun h => nomatch h
theorem linkDown : Statement (.linkDown) := fun h => nomatch h
theorem spdmRequest (v0 : Nat) : Statement (.spdmRequest v0) := fun h => nomatch h
theorem ixnarInboundRequest (v0 : IxReq) : Statement (.ixnarInboundRequest v0) := fun h => nomatch h
theorem ixnarLinkStateChange (v0 : Nat) (v1 : Bool) : Statement (.ixnarLinkStateChange v0 v1) := fun h => nomatch h
theorem stepReadyToken (v0 : Nat) (v1 : Nat) (v2 : Nat) : Statement (.stepReadyToken v0 v1 v2) := fun h => nomatch h
theorem localStop (v0 : Nat) : Statement (.localStop v0) := fun h => nomatch h
theorem stepResume (v0 : Nat) : Statement (.stepResume v0) := fun h => nomatch h
theorem slateWriteImage : Statement (.slateWriteImage) := fun h => nomatch h
theorem slateRestore : Statement (.slateRestore) := fun h => nomatch h
theorem slateCommandEnd (v0 : Nat) : Statement (.slateCommandEnd v0) := fun h => nomatch h
theorem pullRequestServe (v0 : Nat) (v1 : Nat) (v2 : Nat) (v3 : Nat) : Statement (.pullRequestServe v0 v1 v2 v3) := fun h => nomatch h
theorem pullReply (v0 : Nat) (v1 : Nat) (v2 : List (BitVec 8)) (v3 : List (BitVec 8)) : Statement (.pullReply v0 v1 v2 v3) := fun h => nomatch h
theorem pullTimeout (v0 : Nat) (v1 : Nat) : Statement (.pullTimeout v0 v1) := fun h => nomatch h
theorem installRequestArrive (v0 : Nat) : Statement (.installRequestArrive v0) := fun h => nomatch h
theorem installEnd (v0 : Nat) : Statement (.installEnd v0) := fun h => nomatch h
theorem patrolScrubRead (v0 : Nat) (v1 : Nat) (v2 : Bool) : Statement (.patrolScrubRead v0 v1 v2) := fun h => nomatch h
theorem layerLost (v0 : Nat) (v1 : Nat) : Statement (.layerLost v0 v1) := fun h => nomatch h
theorem rebuildSector (v0 : Nat) (v1 : Bool) : Statement (.rebuildSector v0 v1) := fun h => nomatch h
theorem coreLogicFailure (v0 : Nat) (v1 : Nat) : Statement (.coreLogicFailure v0 v1) := fun h => nomatch h
theorem laneFailure (v0 : Nat) (v1 : Nat) : Statement (.laneFailure v0 v1) := fun h => nomatch h
theorem refreshRateChange (v0 : Nat) (v1 : Nat) (v2 : Bool) : Statement (.refreshRateChange v0 v1 v2) := fun h => nomatch h
theorem thermalEvent (v0 : Nat) (v1 : Nat) : Statement (.thermalEvent v0 v1) := fun h => nomatch h
theorem thermalTrip (v0 : Nat) (v1 : Nat) : Statement (.thermalTrip v0 v1) := fun h => nomatch h
theorem eventAccept (v0 : Nat) : Statement (.eventAccept v0) := fun h => nomatch h
theorem meteringInterval : Statement (.meteringInterval) := fun h => nomatch h
theorem meteringRecordWrite : Statement (.meteringRecordWrite) := fun h => nomatch h
theorem teardownTiles : Statement (.teardownTiles) := fun h => nomatch h
theorem teardownSlices : Statement (.teardownSlices) := fun h => nomatch h
theorem teardownDram : Statement (.teardownDram) := fun h => nomatch h
theorem teardownAreas : Statement (.teardownAreas) := fun h => nomatch h
theorem teardownKeys : Statement (.teardownKeys) := fun h => nomatch h
theorem powerOnReset (v0 : Bool) : Statement (.powerOnReset v0) := fun h => nomatch h
theorem obsidianBoot : Statement (.obsidianBoot) := fun h => nomatch h
theorem recoveryBegin (v0 : Nat) : Statement (.recoveryBegin v0) := fun h => nomatch h
theorem recoveryAppend : Statement (.recoveryAppend) := fun h => nomatch h
theorem recoveryCommit : Statement (.recoveryCommit) := fun h => nomatch h
theorem recoveryWriteDone (v0 : Bool) : Statement (.recoveryWriteDone v0) := fun h => nomatch h
theorem recoveryAbort : Statement (.recoveryAbort) := fun h => nomatch h
theorem recoveryReset : Statement (.recoveryReset) := fun h => nomatch h
theorem mgmtFreeze (v0 : Nat) : Statement (.mgmtFreeze v0) := fun h => nomatch h
theorem mgmtRelease (v0 : Nat) : Statement (.mgmtRelease v0) := fun h => nomatch h
theorem mgmtReadreg (v0 : Nat) (v1 : Nat) (v2 : Nat) (v3 : Nat) : Statement (.mgmtReadreg v0 v1 v2 v3) := fun h => nomatch h
theorem mgmtReadmem (v0 : Nat) (v1 : Nat) (v2 : Nat) : Statement (.mgmtReadmem v0 v1 v2) := fun h => nomatch h
theorem unassignedWord (v0 : BitVec 32) : Statement (.unassignedWord v0) := fun h => nomatch h
theorem instructionFetchFault (v0 : Nat) (v1 : Nat) : Statement (.instructionFetchFault v0 v1) := fun h => nomatch h
theorem powerLoss : Statement (.powerLoss) := fun h => nomatch h
theorem mgmtReset : Statement (.mgmtReset) := fun h => nomatch h
theorem configurationWrite (v0 : Nat) (v1 : Nat) (v2 : Nat) : Statement (.configurationWrite v0 v1 v2) := fun h => nomatch h
theorem msixVectorUnmask (v0 : Nat) (v1 : Nat) : Statement (.msixVectorUnmask v0 v1) := fun h => nomatch h
theorem recoveryBufferWrite (v0 : Nat) (v1 : BitVec 64) : Statement (.recoveryBufferWrite v0 v1) := fun h => nomatch h
theorem pullRefusal (v0 : Nat) (v1 : Nat) : Statement (.pullRefusal v0 v1) := fun h => nomatch h
theorem installPageProgrammed (v0 : Nat) (v1 : Bool) : Statement (.installPageProgrammed v0 v1) := fun h => nomatch h
theorem linkUp : Statement (.linkUp) := fun h => nomatch h

end Sys2Proof.Laws.RoundTrip
end

