-- ==== Sys2Proof/Tests/Slice0.lean ====
section
/-! SUPPORT. Slice0: tests of single steps, with results taken from the worked examples and tables of the spec, and for each obligation with hypotheses states
and operands that meet them. -/

namespace Sys2Proof.Tests

open Sys2Proof.Machine Sys2Proof.Safety

set_option synthInstance.maxSize 4096
set_option Elab.async false

/-! ### Well-formed terms (R79, R80, R85, R87, R88) -/

theorem test_wf_accepts : ([.add 1 2 3, .vadd 1 2 3 .f32, .vneg 1 2 .i8, .vcvt 1 2 3 .f32 .g8, .rsr 1 0x018, .areg 8, .pset 7 1, .mgrp 3 0, .ldt 1 2 1] :
    List Instr).map WellFormed = List.replicate 9 true := by decide
/-- Each term breaks one check, and is refused: a lane type that the row does not list, an unassigned special register, an event. -/
theorem test_wf_refuses_unassigned : ([.vneg 1 2 .n8, .vand 1 2 3 .f32, .vsum 1 2 .bf16, .vpack 1 2 3 .i8, .vunpack 1 2 0 .f32, .vshli 1 2 .g8 3, .vscale 1 2 3 .i32,
    .vround 1 2 .i8, .vsat 1 2 .f32, .vbcast 1 2 .f32, .vext 1 2 3 .bf16, .vperm 1 2 3 .f32, .vcmpEq 1 2 3 .g8, .vadd 1 2 3 .g8, .vcvt 1 2 3 .f32 .f32,
    .vcvt 1 2 3 .i64 .f32, .rsr 1 0x005, .wsr 1 0x7FF, .beatBoundary] : List Instr).map Instr.assigned = List.replicate 19 false := by decide
/-- Reserved register numbers raise subcode 2, reserved counts and immediates subcode 3 (R80, R81). -/
theorem test_wf_refuses_reserved : ([.cmpEq 8 1 2, .cmpiLen 15 1 2, .pset 8 1, .pand 1 8 2, .por 1 2 15, .pnot 0 8, .sel 1 2 3 8, .mgrp 4 0, .mclr 1 2 4, .mmaI8 1 2 15,
    .mrd 1 2 4, .mstat 1 4, .mfence 4, .chset 1 4, .chq 1 4, .qpop 1 8, .qredF32 1 8 2] : List Instr).map Instr.reservedSub = List.replicate 17 (some 2) ∧
  ([.pset 0 2, .areg 0, .areg 9, .ldt 1 2 0, .vldt 1 2 0] : List Instr).map Instr.reservedSub = List.replicate 5 (some 3) := by decide

/-! ### Decoding (R69 to R93): words written out from the maps, and the example words of the chapters -/

/-- What a word decodes to. -/
def dec (w : BitVec 32) : Option Instr := match decodeWord w with | .ok x => some x.i | .error _ => none
/-- 101001, guard 7, d = 1, imm 16; and add: major 0x20, function 0. -/
theorem test_decode_scalar : dec 0x2971042F = some (.li 1 1071) ∧ dec 0x20712300 = some (.add 1 2 3) ∧ dec 0x2D712000 = some (.cmpiNe 1 2 0) ∧
    dec 0x3F000000 = some (.nop 0) ∧ dec 0x1F70FFFF = some (.hint 0xFFFF) := by decide
theorem test_decode_control : dec 0x011FFFFB = some (.br 0xFFFFB) ∧ dec 0x02700004 = some (.call 4) ∧ dec 0x0470D001 = some (.ret 13) ∧
    dec 0x04700002 = some .send ∧ dec 0x07740006 = some (.sloop 4 6) ∧ dec 0x04700007 = some .rte := by decide
/-- fsqrt v5, v4 with W; fsigm v6, v5, due 7 (ch. 07); go s4, spawn s5, [s6] (ch. 11); step (R407). -/
theorem test_decode_units : dec 0x58754400 = some (.fsqrt 5 4 0) ∧ dec 0x18765807 = some (.fsigm 6 5 7) ∧ dec 0x17704000 = some (.go 4) ∧
    dec 0x17756001 = some (.spawn 5 6) ∧ dec 0x17700002 = some .step := by decide
/-- mma.g8, mstat, mfence (ch. 12); cp.fill, chset, chq, publish (ch. 13); winst with W, wstat (ch. 23). -/
theorem test_decode_matrix_copy_flash : dec 0x197CA002 = some (.mmaG8 12 10 0) ∧ dec 0x19730108 = some (.mstat 3 1) ∧ dec 0x19700209 = some (.mfence 2) ∧
    dec 0x1A702005 = some (.cpFill 2) ∧ dec 0x1A707008 = some (.chset 7 0) ∧ dec 0x1A7B0009 = some (.chq 11 0) ∧ dec 0x1A707010 = some (.publish 7) ∧
    dec 0x5B7A9000 = some (.winst 10 9) ∧ dec 0x1B754001 = some (.wstat 5 4) := by decide
theorem test_decode_vector : dec 0x32712309 = some (.vadd 1 2 3 .f32) ∧ dec 0x34712103 = some (.vshli 1 2 .i16 3) ∧ dec 0x35712089 = some (.vcvt 1 2 0 .bf16 .f32) := by decide
theorem test_decode_monitor : dec 0x1C701000 = some (.tlbinv 1) ∧ dec 0x1C701005 = some (.rotctlSuspend 1) ∧ dec 0x1C701008 = some (.frzFreezeOwner 1) := by decide
/-- An unassigned major and an unassigned function are told apart (R81). -/
theorem test_decode_refuses : decodeWord 0x36000000 = .error .major ∧ decodeWord 0 = .error .major ∧ decodeWord 0x04700009 = .error .function ∧ decodeWord 0x32712305 = .ok ⟨false, false, 7, .vadd 1 2 3 .n16⟩ ∧
    decodeWord 0x3271230B = .error .function := by decide

/-! ### A small state -/

/-- Owner 1 has two slots, one stack, one Mica slice and two extents; it stands at raster indexes 0 and 1. -/
def own1 : Owner := { cfg := 0x8200000000000000, desc := { dram := [3], mica := [5], runs := [(7, 2)] } }
/-- The state in which a bundle of a task of owner 1 is performed. The thread stands on core 0 of logical slot 0; the bundle is one word at 0x100. -/
def base : State :=
  { State.reset with
    owners := (Vector.replicate 16 {}).set 1 own1 |>.set 0 { cfg := 0x8100000000000000, desc := { dram := [0] } }
    rot := { tens := [{ idx := 0, k := 0, o := 1, l := 0 }, { idx := 1, k := 0, o := 1, l := 1 }] }
    trust := { boot := false }
    clk := { quartz := 16, id := 20 }
    me := { uid := 7, pl := ⟨1, 0, 0⟩, slot := some 1, tid := 3 }
    iss := { b := 0x100, z := 4 } }
/-- The same, with source registers. -/
def withS (s : State) (l : List (Fin 16 × Word)) : State :=
  { s with iss := { s.iss with src := { s.iss.src with s := l.foldl (fun v p => v.set p.1 p.2) s.iss.src.s } } }
def withV (s : State) (l : List (Fin 16 × VWord)) : State :=
  { s with iss := { s.iss with src := { s.iss.src with v := l.foldl (fun v p => v.set p.1 p.2) s.iss.src.v } } }
/-- A part of the answer, when it is a next state. -/
def out {α : Type} (r : Res) (f : State → α) : Option α := match r with | .next t => some (f t) | _ => none
/-- s1 after an instruction, over two source values. -/
def s1of (i : Instr) (x y : Word) : Option Word := out (exec i (withS base [(2, x), (3, y), (1, x)])) (·.me.s[1])
def v1of (i : Instr) (x y z : VWord) : Option (VWord × Word) := out (exec i (withV base [(2, x), (3, y), (4, z), (1, z)])) (fun t => (t.me.v[1], t.me.fcsr))

/-! ### Scalar forms: the tables of R99 to R103 and their examples -/

theorem test_add_wraps : s1of (.add 1 2 3) 0xFFFFFFFFFFFFFFFF 2 = some 1 ∧ s1of (.sub 1 2 3) 0 1 = some 0xFFFFFFFFFFFFFFFF ∧
    s1of (.addi 1 2 0xFFF) 0 0 = some 0xFFFFFFFFFFFFFFFF := by decide
theorem test_mul : s1of (.mul 1 2 3) 0xFFFFFFFFFFFFFFFF 1 = some 0xFFFFFFFFFFFFFFFF ∧ s1of (.mulh 1 2 3) 0xFFFFFFFFFFFFFFFF 1 = some 0xFFFFFFFFFFFFFFFF ∧
    s1of (.mulhn 1 2 3) 0xFFFFFFFFFFFFFFFF 1 = some 0 := by decide
/-- The table of R99. -/
theorem test_div : ([(7, 2), (0xFFFFFFFFFFFFFFF9, 2), (5, 0), (0x8000000000000000, 0xFFFFFFFFFFFFFFFF)] : List (Word × Word)).map (fun p =>
      (s1of (.div 1 2 3) p.1 p.2, s1of (.rem 1 2 3) p.1 p.2, s1of (.divn 1 2 3) p.1 p.2, s1of (.remn 1 2 3) p.1 p.2)) =
    [(some 3, some 1, some 3, some 1), (some 0xFFFFFFFFFFFFFFFD, some 0xFFFFFFFFFFFFFFFF, some 0x7FFFFFFFFFFFFFFC, some 1), (some 0, some 5, some 0, some 5),
      (some 0x8000000000000000, some 0, some 0, some 0x8000000000000000)] := by decide
theorem test_logic : s1of (.and 1 2 3) 12 10 = some 8 ∧ s1of (.or 1 2 3) 12 10 = some 14 ∧ s1of (.xor 1 2 3) 12 10 = some 6 ∧ s1of (.andn 1 2 3) 12 10 = some 4 ∧
    s1of (.orn 1 2 3) 12 10 = some 0xFFFFFFFFFFFFFFFD ∧ s1of (.andi 1 2 0xFFF) 0xFFFFFFFFFFFFFFFF 0 = some 0xFFF ∧ s1of (.ori 1 2 0x800) 1 0 = some 0x801 ∧
    s1of (.xori 1 2 0xFFF) 0 0 = some 0xFFF ∧ s1of (.mov 1 2) 9 0 = some 9 := by decide
theorem test_minmax : s1of (.min 1 2 3) 0xFFFFFFFFFFFFFFFF 1 = some 0xFFFFFFFFFFFFFFFF ∧ s1of (.max 1 2 3) 0xFFFFFFFFFFFFFFFF 1 = some 1 ∧
    s1of (.minn 1 2 3) 0xFFFFFFFFFFFFFFFF 1 = some 1 ∧ s1of (.maxn 1 2 3) 0xFFFFFFFFFFFFFFFF 1 = some 0xFFFFFFFFFFFFFFFF := by decide
theorem test_counts : s1of (.clz 1 2) 0 0 = some 64 ∧ s1of (.clz 1 2) 1 0 = some 63 ∧ s1of (.ctz 1 2) 0 0 = some 64 ∧ s1of (.ctz 1 2) 8 0 = some 3 ∧
    s1of (.popc 1 2) 0xF000000000000001 0 = some 5 := by decide
/-- A shift by the width leaves its operand unchanged (R35). -/
theorem test_shifts : s1of (.shl 1 2 3) 5 64 = some 5 ∧ s1of (.shr 1 2 3) 0x8000000000000000 63 = some 1 ∧ s1of (.sar 1 2 3) 0x8000000000000000 63 = some 0xFFFFFFFFFFFFFFFF ∧
    s1of (.rotl 1 2 3) 0x8000000000000001 1 = some 3 ∧ s1of (.shli 1 2 63) 1 0 = some 0x8000000000000000 ∧ s1of (.shri 1 2 63) 0x8000000000000000 0 = some 1 ∧
    s1of (.sari 1 2 1) 0xFFFFFFFFFFFFFFFD 0 = some 0xFFFFFFFFFFFFFFFE ∧ s1of (.roti 1 2 60) 0x10 0 = some 1 := by decide
/-- The example of R102: w is held as w − 1 (R84). -/
theorem test_fields : s1of (.bfx 1 2 4 7) 0xA50 0 = some 0xFFFFFFFFFFFFFFA5 ∧ s1of (.bfxn 1 2 4 7) 0xA50 0 = some 0xA5 ∧ s1of (.bfxn 1 2 60 15) 0xF000000000000000 0 = some 0xF ∧
    out (exec (.bfi 1 2 60 15) (withS base [(2, 0xFF), (1, 0x1)])) (·.me.s[1]) = some 0xF000000000000001 := by decide
theorem test_constants : s1of (.li 1 0x8000) 0 0 = some 0xFFFFFFFFFFFF8000 ∧ s1of (.lis 1 0x4567) 0x123 0 = some 0x1234567 := by decide
theorem test_compares : ([.cmpEq 0 2 3, .cmpNe 0 2 3, .cmpLt 0 2 3, .cmpLe 0 2 3, .cmpLtn 0 2 3, .cmpLen 0 2 3, .cmpiEq 0 2 0xFFF, .cmpiNe 0 2 0xFFF, .cmpiLt 0 2 0,
      .cmpiLe 0 2 0xFFF, .cmpiLtn 0 2 0xFFF, .cmpiLen 0 2 0xFFF] : List Instr).map (fun i =>
        out (exec i (withS base [(2, 0xFFFFFFFFFFFFFFFF), (3, 1)])) (fun t => t.me.pw.getLsbD 0)) =
    [some false, some true, some true, some true, some false, some false, some true, some false, some true, some true, some false, some false] := by decide
/-- A write to q7 is ignored, and q7 reads 1 (R60, R105). -/
theorem test_predicates : out (exec (.pset 7 0) base) (·.me.pw) = some 0x80 ∧ out (exec (.pset 1 1) base) (·.me.pw) = some 0x82 ∧
    out (exec (.pnot 2 7) base) (·.me.pw) = some 0x80 ∧ out (exec (.por 3 7 0) base) (·.me.pw) = some 0x88 ∧ out (exec (.pand 3 7 0) base) (·.me.pw) = some 0x80 ∧
    s1of (.sel 1 2 3 7) 4 5 = some 4 ∧ s1of (.sel 1 2 3 0) 4 5 = some 5 := by decide

/-! ### Lanes: the examples of chapter 06 -/

theorem test_lane_minmax : v1of (.vmin 1 2 3 .i8) 0xFF 0x01 0 = some (0xFF, 0) ∧ v1of (.vmin 1 2 3 .n8) 0xFF 0x01 0 = some (0x01, 0) ∧
    v1of (.vmax 1 2 3 .i8) 0xFF 0x01 0 = some (0x01, 0) ∧ v1of (.vabs 1 2 .i8) 0x80 0 0 = some (0x80, 0) := by decide
theorem test_lane_sums : v1of (.vadd 1 2 3 .i8) 0xFF 0x01 0 = some (0, 0) ∧ v1of (.vsub 1 2 3 .n16) 0 0x1 0 = some (0xFFFF, 0) ∧
    v1of (.vmul 1 2 3 .i16) 0x100 0x100 0 = some (0, 0) ∧ v1of (.vneg 1 2 .i64) 1 0 0 = some (0xFFFFFFFFFFFFFFFF, 0) := by decide
/-- vsat.i16 of 300 is 127 and of −300 is 0xFF80 (R121). -/
theorem test_vsat : v1of (.vsat 1 2 .i16) 0xFED4012C 0 0 = some (0xFF80007F, 0) := by decide
theorem test_lane_shifts : v1of (.vshl 1 2 3 .i8) 0x0101 0x0908 0 = some (0x0201, 0) ∧ v1of (.vshr 1 2 3 .i8) 0x80 1 0 = some (0x40, 0) ∧
    v1of (.vsar 1 2 3 .n8) 0x80 1 0 = some (0xC0, 0) ∧ v1of (.vshli 1 2 .i16 17) 1 0 0 = some (2, 0) := by decide
theorem test_vand_vsel : v1of (.vandn 1 2 3 .i8) 12 10 0 = some (4, 0) ∧ v1of (.vsel 1 2 3 4) 0xFF 0xAA00 0x0F = some (0xAA0F, 0) := by decide
/-- vneg.f32 of +0 is −0, vabs.f32 of −0 is +0 (R122); −0 below +0 (R123); −0 equal to +0 (R125). -/
theorem test_float_signs : v1of (.vneg 1 2 .f32) 0 0 0 = some (0x80000000800000008000000080000000, 0) ∧ v1of (.vabs 1 2 .bf16) 0x8000 0 0 = some (0, 0) ∧
    v1of (.vmin 1 2 3 .f32) 0x80000000 0 0 = some (0x80000000, 0) ∧
    v1of (.vcmpEq 1 2 3 .bf16) 0x8000 0 0 = some (0xFFFFFFFFFFFFFFFFFFFFFFFFFFFFFFFF, 0) := by decide
/-- The example of R131: a tie in the first addition, an exact second one, and NX. -/
theorem test_vsum : v1of (.vsum 1 2 .f32) 0x3380000033800000338000003F800000 0 0 = some (0x3F800001, 1) ∧ v1of (.vsum 1 2 .n8) 0x01FF 0 0 = some (0, 0) := by decide
/-- The example of R134. -/
theorem test_vdot_i8 : v1of (.vdotI8 1 2 3) 0x8080808000000000 0x8080808000000000 0 = some (0x1000000000000, 0) := by decide
set_option maxRecDepth 2000 in
/-- The estimates of R139: of 3.0 and of 2.0. -/
theorem test_estimates : (v1of (.vrcpa 1 2) 0x40400000 0 0).map (·.1.toNat % 2 ^ 32) = some 0x3EAAB000 ∧ (v1of (.vrsqrta 1 2) 0x40000000 0 0).map (·.1.toNat % 2 ^ 32) = some 0x3F350000 := by decide
theorem test_lane_moves : v1of (.vunpack 1 2 1 .i8) 0x80000000000000000000 0 0 = some (0xFF800000, 0) ∧ v1of (.vpack 1 2 3 .i16) 0x8000012C 0xFFFF 0 = some (0xFF0000000000000000 + 0x807F, 0) ∧
    v1of (.vperm 1 2 3 .i8) 0x0201 0x11 0 = some (0x01010101010101010101010101010102, 0) ∧
    out (exec (.vext 1 2 17 .i8) (withV base [(2, 0x8000)])) (·.me.s[1]) = some 0xFFFFFFFFFFFFFF80 := by decide

/-! ### Control, traps, special registers -/

/-- A thread with a handler at 0x2000. -/
def handled : State := { base with me := { base.me with trapb := 0x2000 } }
theorem test_branches : out (exec (.br 0xFFFFB) base) (·.me.pc) = some 0xEC ∧ out (exec (.call 4) base) (fun t => (t.me.pc, t.me.s[13])) = some (0x110, 0x104) ∧
    out (exec (.dbnz 2 0xFFFF) (withS base [(2, 0)])) (fun t => (t.me.pc, t.me.s[2])) = some (0xFC, 0xFFFFFFFFFFFFFFFF) ∧
    out (exec (.dbnz 2 0xFFFF) (withS base [(2, 1)])) (fun t => (t.me.pc, t.me.s[2])) = some (0, 0) := by decide
theorem test_jumps : out (exec (.jmp 2) (withS base [(2, 0xFFFF000000000200)])) (·.me.pc) = some 0x200 ∧
    out (exec (.ret 2) (withS handled [(2, 0x202)])) (fun t => (t.me.pc, t.me.fcode, t.me.fpc, t.me.faddr)) = some (0x2000, 3, 0x100, 0x202) := by decide
/-- The table of R112. -/
theorem test_traps : out (exec (.trap 9) handled) (fun t => (t.me.pc, t.me.fcode, t.me.fpc, t.me.faddr)) = some (0x2000, 0x90E, 0x100, 0x104) ∧
    out (exec .brk handled) (fun t => (t.me.fcode, t.me.faddr)) = some (0xF, 0x104) ∧
    out (exec .rte { base with me := { base.me with fpc := 0x300, fcode := 5 } }) (fun t => (t.me.pc, t.me.fcode)) = some (0x300, 0) := by decide
/-- With no handler the thread ends as failed (R347). -/
theorem test_trap_unhandled : out (exec (.trap 9) base) (fun t => match t.me.park with | .dead f => (f.code, f.sub, f.fpc, f.faddr) | _ => (0, 0, 0, 0)) = some (14, 9, 0x100, 0x104) := by decide
theorem test_exit_yield_go : out (exec .exit base) (·.me.park) = some .exit ∧ out (exec .yield base) (·.me.turns) = some 0 ∧
    out (exec (.go 2) (withS base [(2, 0x010500)])) (·.me.park) = some (.migrate ⟨1, 1, 5⟩) ∧
    out (exec (.go 2) (withS handled [(2, 0x020500)])) (fun t => (t.me.fcode, t.me.faddr)) = some (5, 0x020500) := by decide
theorem test_rsr : out (exec (.rsr 1 0x000) { base with iss := { base.iss with src := base.me } }) (·.me.s[1]) = some 3 ∧
    out (exec (.rsr 1 0x004) base) (·.me.s[1]) = some 16 ∧ out (exec (.rsr 1 0x010) base) (·.me.s[1]) = some 0x80 ∧
    out (exec (.rsr 1 0x880) handled) (fun t => (t.me.fcode, t.me.faddr)) = some (5, 0x880) := by decide
/-- FCSR keeps RM and the five flags, TRAPB its word address, and TID ignores the write (R40, R113, R114). -/
theorem test_wsr : out (exec (.wsr 2 0x018) (withS base [(2, 0xFFFFFFFFFFFFFFFF)])) (·.me.fcsr) = some 0x31F ∧
    out (exec (.wsr 2 0x020) (withS base [(2, 0x2003)])) (·.me.trapb) = some 0x2000 ∧ out (exec (.wsr 2 0x000) (withS base [(2, 9)])) (·.me.tid) = some 3 ∧
    out (exec (.wsr 2 0x880) (withS { base with me := { base.me with pl := ⟨0, 0, 0⟩ } } [(2, 0xFFFFFFFFFFFFFFFF)])) (·.regs.rotiv) = some 0x800000000000FFFF := by decide

/-! ### Memory -/

/-- The own scratchpad begins at 0x8000_0000_0000 (R154); its first bytes are EF CD AB 89 67 45 23 01 (R1). -/
def filled : State := { base with mem := ({} : Mem).write (scrKey ⟨1, 0, 0⟩ 0) [0xEF, 0xCD, 0xAB, 0x89, 0x67, 0x45, 0x23, 0x01] }
def own : Word := 0x800000000000
theorem test_loads : ([.ldB 1 2 0, .ldnB 1 2 0, .ldH 1 2 0, .ldnH 1 2 0, .ldW 1 2 0, .ldnW 1 2 0, .ldD 1 2 0] : List Instr).map (fun i => out (exec i (withS filled [(2, own)])) (·.me.s[1])) =
    [some 0xFFFFFFFFFFFFFFEF, some 0xEF, some 0xFFFFFFFFFFFFCDEF, some 0xCDEF, some 0xFFFFFFFF89ABCDEF, some 0x89ABCDEF, some 0x0123456789ABCDEF] := by decide
theorem test_vector_loads : out (exec (.vld 1 2 0) (withS filled [(2, own)])) (·.me.v[1]) = some 0x0123456789ABCDEF ∧
    out (exec (.vldBc 1 2 .i16) (withS filled [(2, own)])) (·.me.v[1]) = some 0xCDEFCDEFCDEFCDEFCDEFCDEFCDEFCDEF ∧
    out (exec (.vldk 1 2 3) (withS filled [(2, own)])) (·.me.v[1]) = some 0x0123456789ABCDEF := by decide
/-- Storing 0x0123_4567_89AB_CDEF places 0xEF at the lowest address (R1). -/
theorem test_stores : ([.stB 1 2 8, .stH 1 2 8, .stW 1 2 8, .stD 1 2 8] : List Instr).map (fun i => out (exec i (withS filled [(2, own), (1, 0x0123456789ABCDEF)]))
      (fun t => t.mem.read (scrKey ⟨1, 0, 0⟩ 7) 9)) =
    [some [1, 0xEF, 0, 0, 0, 0, 0, 0, 0], some [1, 0xEF, 0xCD, 0, 0, 0, 0, 0, 0], some [1, 0xEF, 0xCD, 0xAB, 0x89, 0, 0, 0, 0],
      some [1, 0xEF, 0xCD, 0xAB, 0x89, 0x67, 0x45, 0x23, 1]] := by decide
theorem test_misaligned : out (exec (.ldW 1 2 2) (withS { filled with me := { filled.me with trapb := 0x2000 } } [(2, own)])) (fun t => (t.me.fcode, t.me.fpc, t.me.faddr)) =
    some (3, 0x100, 0x800000000002) := by decide
/-- A store past the own window's 64 KiB is out of range (R156). -/
theorem test_scratch_range : out (exec (.ldB 1 2 0) (withS handled [(2, 0x800000010000)])) (fun t => (t.me.fcode % 256, t.me.faddr)) = some (7, 0x800000010000) := by decide
/-- A page of owner 1: VA 0x10000 is DRAM offset 0x20000, readable and writable. -/
def paged : State := { base with tlb := [{ o := 1, l := 0, page := 0x10000, size := 16, space := 0, out := 0x20000, ia := 0x20000, kind := .cacheable, w := true, x := false }] }
/-- The same for a sync page. -/
def synced : State := { base with tlb := [{ o := 1, l := 0, page := 0x10000, size := 16, space := 0, out := 0x20000, ia := 0x20000, kind := .sync, w := true, x := false }] }
theorem test_long_load_store : out (exec (.ldD 1 2 8) (withS paged [(2, 0x10000)])) (fun t => (t.me.ops.map (·.dest), t.net.map (fun r => (r.kind, r.loc)))) =
      some ([some (.s 1)], [(.load 8 .sx none, .dram 1 0x20008 .cacheable)]) ∧
    out (exec (.stH 1 2 8) (withS paged [(2, 0x10000), (1, 0x1234)])) (fun t => (t.me.ops.map (·.dest), t.net.map (fun r => (r.kind, r.loc)))) =
      some ([none], [(.store [0x34, 0x12], .dram 1 0x20008 .cacheable)]) := by decide
theorem test_timed_load : out (exec (.ldt 1 2 5) (withS filled [(2, own)])) (fun t => t.me.ops.map (·.dest)) = some [some (.s 1)] ∧
    out (exec (.vldt 1 2 5) (withS filled [(2, own)])) (fun t => t.me.ops.map (·.dest)) = some [some (.v 1)] := by decide
theorem test_fences_areg_step : out (exec .fenceO base) (·.me.park) = some (.fence 2) ∧ out (exec (.areg 8) base) (fun t => t.me.region.map (·.left)) = some (some 8) ∧
    out (exec .step base) (·.me.park) = some .step := by decide
/-- A wide-region word is gathered, not performed (R188). -/
theorem test_region_word : out (exec (.stW 1 2 0) (withS { paged with me := { paged.me with region := some { b := 0xF8, left := 2, wait := false, words := [] } } } [(2, 0x10000), (1, 5)]))
    (fun t => (t.mem.cells.length, t.net.length, (t.me.region.toList.flatMap (·.words)).filterMap (·.store))) = some (0, 0, [[5, 0, 0, 0]]) := by decide

/-! ### Synchronisation, messages, requests -/

theorem test_full_empty_issue : out (exec (.ldfe 1 2) (withS synced [(2, 0x10008)])) (fun t => (t.me.ops.map (·.acq), t.net.map (·.kind))) = some ([true], [.ldfe]) ∧
    out (exec (.stfe 2 3) (withS synced [(2, 0x10008), (3, 9)])) (fun t => (t.me.ops.map (·.rel), t.net.map (·.kind))) = some ([true], [.stfe 9]) ∧
    out (exec (.ldff 1 2) (withS { paged with me := { paged.me with trapb := 0x2000 } } [(2, 0x10008)])) (·.me.fcode) = some 5 := by decide
theorem test_reservation_issue : out (exec (.lrw 1 2) (withS synced [(2, 0x10008)])) (·.me.resv) = some (.requested 0x10008) ∧
    out (exec (.scq 2 3) (withS { synced with me := { synced.me with resv := .held 0x10008 } } [(2, 0x10008)])) (·.me.resv) = some .none ∧
    out (exec (.rsvRel 2) (withS { synced with me := { synced.me with trapb := 0x2000 } } [(2, 0x10008)])) (·.me.fcode) = some 0x402 := by decide
theorem test_atomic_issue : out (exec (.amoD 1 2 3 .cas) (withS paged [(2, 0x10008), (3, 4), (1, 3)])) (fun t => (t.me.park, t.net.map (·.kind))) = some (.amo 20, [.amo .cas 8 4 3]) ∧
    out (exec (.redW 2 3 .add) (withS paged [(2, 0x10008), (3, 4)])) (fun t => (t.me.redpend, t.net.map (·.kind))) = some (1, [.red .add 4 4]) := by decide
/-- The name of core 5 of logical slot 1 has the core in bits 14–8 and the slot in bits 23–16. -/
theorem test_barrier_push_issue : out (exec (.barSync 2) (withS base [(2, 0x010503)])) (fun t => (t.me.park, t.net.map (fun r => (r.kind, r.loc)))) =
      some (.bar 20, [(.barSync 3, .scr ⟨1, 1, 5⟩ 0)]) ∧
    out (exec (.qpush 2 3) (withV (withS base [(2, 0x010507)]) [(3, 77)])) (fun t => (t.me.park, t.net.map (·.kind))) = some (.push 20, [.push 7 77]) := by decide
def queued : State := { base with cores := [{ pl := ⟨1, 0, 0⟩, queues := [(2, [11, 12])] }] }
theorem test_queue_reads : out (exec (.qpop 1 2) queued) (fun t => (t.me.v[1], alGet [] 2 (t.core ⟨1, 0, 0⟩).queues)) = some (11, [12]) ∧
    out (exec (.qpeek 1 2) queued) (fun t => (t.me.v[1], alGet [] 2 (t.core ⟨1, 0, 0⟩).queues)) = some (11, [11, 12]) ∧
    out (exec (.qpop 1 3) queued) (fun t => (t.me.park, t.me.pc)) = some (.queue 3 20, 0x100) := by decide
/-- qred adds one entry a turn; its PC stays on the bundle until QPOS reaches the count (R195). -/
theorem test_qred : out (exec (.qredI32 1 2 3) (withV (withS queued [(3, 2)]) [(1, 100)])) (fun t => (t.me.v[1], t.me.qpos, t.me.pc)) = some (111, 1, 0x100) ∧
    out (exec (.qredI32 1 2 3) (withV (withS queued [(3, 1)]) [(1, 100)])) (fun t => (t.me.v[1], t.me.qpos)) = some (111, 0) := by decide
theorem test_messages_spawn : out (exec (.msg 2 3) (withV (withS base [(2, 0x4)]) [(3, 7)])) (fun t => t.net.map (·.kind)) = some [.msg 0 4 7 0] ∧
    out (exec (.mrecv 1) base) (fun t => (t.net.map (·.kind), t.me.ops.map (·.dest))) = some ([.mrecv 3], [some (.v 1)]) ∧
    out (exec (.spawn 1 2) (withS paged [(2, 0x10080)])) (fun t => (t.net.map (·.loc), t.me.ops.map (·.dest))) = some ([.dram 1 0x20080 .cacheable], [some (.s 1)]) := by decide
theorem test_sfu_issue : out (exec (.fexp2 1 2 0) (withV base [(2, 5)])) (fun t => (t.sfu.map (fun r => (r.f, r.arg)), t.me.ops.map (·.dest))) = some ([(0, 5)], [some (.v 1)]) := by decide

/-! ### Witnesses: states and operands that meet the hypotheses of the statements about instructions, at the edges of each clause -/

theorem test_witness_LaneArithmeticAndOrder : LaneT.i8.isInt = true ∧ LaneT.i8.isI = true ∧ LaneT.f32.isF = true := by decide
theorem test_witness_LaneLogicShiftsMoves : LaneT.n8.isInt = true ∧ LaneT.f32.isPack = true ∧ LaneT.bf16.isUnpack = true := by decide
theorem test_witness_FusedDotSumConversions : LaneT.i8.isInt = true ∧ LaneT.n64.isInt = true ∧ LaneT.i64.isI = true ∧ LaneT.f32.isF = true ∧ LaneT.bf16.isF = true ∧ LaneT.i16.isPack = true ∧
    LaneT.f32.isPack = true ∧ LaneT.n32.isUnpack = true ∧ LaneT.bf16.isUnpack = true ∧ (Instr.vcvt 1 2 3 .g8 .f32).assigned = true := by decide
/-- Minus infinity, and the largest finite BF16 value. -/
theorem test_witness_RoundingKeepsRepresentable : (3 < 4 ∧ 0xFF800000 < 2 ^ Fmt.f32.w ∧ (Fmt.f32.val 0xFF800000).isNan = false) ∧
    (0 < 4 ∧ 0x7F7F < 2 ^ Fmt.bf16.w ∧ (Fmt.bf16.val 0x7F7F).isNan = false) := by decide
theorem test_witness_PlainTask : PlainTask base := ⟨rfl, rfl⟩
theorem test_witness_TransfersTrapsReturn : PlainTask base ∧ ((0x200 : Addr).toNat % 4 = 0 ∧ (0x203 : Addr).toNat % 4 ≠ 0) := ⟨⟨rfl, rfl⟩, by decide⟩
/-- A core of stream 9 of owner 1. -/
def inStrm : State := { base with me := { base.me with strm := some 9, slot := some 0 }
                                  graph := { streams := [{ id := 9, o := 1, l := 0, layer := some 0, launch := 0, node := 0, tid := 3, started := true }] } }
/-- Slot 1 is the last of the owner's two, slot 2 the first beyond. -/
theorem test_witness_EndYieldGoAndLoops : base.me.strm = none ∧ inStrm.me.strm = some 9 ∧ (⟨1, bits 0x017F00 23 16, bits 0x017F00 14 8⟩ : Place).l < base.nslot base.me.pl.o ∧
    (PlainTask base ∧ base.nslot base.me.pl.o ≤ bits 0x020000 23 16) ∧ (1 : BitVec 16) ≠ 0 := by unfold PlainTask; decide
/-- A monitor thread; a task below the monitor level and the first and last monitor numbers. -/
def mon : State := { base with me := { base.me with pl := ⟨0, 0, 0⟩ } }
theorem test_witness_MonitorRegisters : mon.me.pl.o = 0 ∧ PlainTask base ∧ base.me.pl.o ≠ 0 ∧ 0x800 ≤ (0x800 : BitVec 12).toNat ∧ 0x800 ≤ (0xFFF : BitVec 12).toNat := by
  unfold PlainTask; decide
/-- The last bytes of the own window, for each width. -/
theorem test_witness_OwnScratchpadAccesses : MemOk filled ∧ filled.mem.poisoned (scrKey filled.me.pl 65535) = false ∧ OwnScratch filled 0x80000000FFFF 1 65535 ∧
    OwnScratch filled 0x80000000FFFE 2 65534 ∧ OwnScratch filled 0x80000000FFFC 4 65532 ∧ OwnScratch filled 0x80000000FFF8 8 65528 ∧ OwnScratch filled 0x80000000FFF0 16 65520 := by
  unfold MemOk OwnScratch; decide
/-- n operations that count against the limit of R66. -/
def busy (s : State) (n : Nat) : State := { s with me := { s.me with ops := List.replicate n { id := 1, fpc := 0, counts := true } } }
theorem test_witness_LongLoadsAndStoresIssue : (PlainTask (busy paged 15) ∧ Translates (busy paged 15) 0x1FFF8 8 .load (.dram 1 0x2FFF8 .cacheable) ∧
      ((busy paged 15).me.ops.filter (·.counts)).length < 16) ∧
    (PlainTask (busy paged 16) ∧ Translates (busy paged 16) 0x10000 1 .load (.dram 1 0x20000 .cacheable) ∧ 16 ≤ ((busy paged 16).me.ops.filter (·.counts)).length) ∧
    Translates paged 0x1FFF0 16 .store (.dram 1 0x2FFF0 .cacheable) ∧ (∀ p off, (Loc.dram 1 0x2FFF8 .cacheable) ≠ .scr p off) :=
  ⟨⟨⟨rfl, rfl⟩, ⟨0x1FFF8, _, by decide, by decide, rfl, by decide⟩, by decide⟩, ⟨⟨rfl, rfl⟩, ⟨0x10000, _, by decide, by decide, rfl, by decide⟩, by decide⟩,
    ⟨0x1FFF0, _, by decide, by decide, rfl, by decide⟩, nofun⟩
/-- Block 0 of the own scratchpad carries tag 5. -/
def tagged : State := { filled with mem := { filled.mem with tags := [(scrKey ⟨1, 0, 0⟩ 0 / 1024, 5)] } }
theorem test_witness_TaggedTimedMisaligned : (tagged.me.strm = none ∧ OwnScratch tagged own.toNat 16 0 ∧ tagged.mem.tag (scrKey tagged.me.pl 0) = (0xFFFF0005 : Word).setWidth 16 ∧
      tagged.mem.poisoned (scrKey tagged.me.pl 0) = false ∧ tagged.mem.tag (scrKey tagged.me.pl 0) ≠ (6 : Word).setWidth 16) ∧
    (OwnScratch (busy tagged 15) own.toNat 8 0 ∧ (1 : BitVec 12) ≠ 0 ∧ ((busy tagged 15).me.ops.filter (·.counts)).length < 16) ∧ tagged.me.region = none ∧
    (0x800000000001 : Addr).toNat % 2 ≠ 0 ∧ (0x800000000008 : Addr).toNat % 16 ≠ 0 := by
  unfold OwnScratch; decide
theorem test_witness_PrefetchFenceRegionStep : (1 ≤ (1 : Fin 16).val ∧ (8 : Fin 16).val ≤ 8 ∧ base.iss.pair = false) ∧ (base.me.resv = .none ∧ base.me.fcode = 0) ∧
    (PlainTask { base with me := { base.me with resv := .held 8 } } ∧ Resv.held 8 ≠ .none) ∧ (PlainTask { base with me := { base.me with fcode := 5 } } ∧ (5 : BitVec 16) ≠ 0) := by
  unfold PlainTask; decide
theorem test_witness_FullEmptyAndReservationIssue : (((busy synced 15).me.ops.filter (·.counts)).length < 16 ∧ Translates (busy synced 15) 0x1FFF8 8 .syncRd (.dram 1 0x2FFF8 .sync) ∧
      Translates (busy synced 15) 0x10000 8 .syncWr (.dram 1 0x20000 .sync)) ∧ synced.me.resv = .none ∧
    (PlainTask { synced with me := { synced.me with resv := .held 0x10000 } } ∧ Resv.held 0x10000 ≠ .none ∧ Resv.held 0x10000 ≠ .held 0x10008) :=
  ⟨⟨by decide, ⟨0x1FFF8, _, by decide, by decide, rfl, by decide⟩, ⟨0x10000, _, by decide, by decide, rfl, by decide⟩⟩, rfl, ⟨⟨rfl, rfl⟩, by decide, by decide⟩⟩
theorem test_witness_AtomicsBarriersPushesIssue : (Translates (busy paged 15) 0x1FFF8 8 .atomic (.dram 1 0x2FFF8 .cacheable) ∧ Translates (busy paged 15) 0x1FFFC 4 .atomic (.dram 1 0x2FFFC .cacheable) ∧
      ((busy paged 15).me.ops.filter (·.counts)).length < 16) ∧ (∀ off, (Loc.dram 1 0x2FFF8 .cacheable) ≠ .scr paged.me.pl off) ∧ paged.me.redpend ≠ 32 ∧
    (PlainTask { paged with me := { paged.me with redpend := 32 } } ∧ (32 : BitVec 6) = 32) ∧ bits 0x017F00 23 16 < base.nslot base.me.pl.o ∧
    (PlainTask base ∧ base.nslot base.me.pl.o ≤ bits 0x020000 23 16) :=
  ⟨⟨⟨0x1FFF8, _, by decide, by decide, rfl, by decide⟩, ⟨0x1FFFC, _, by decide, by decide, rfl, by decide⟩, by decide⟩, nofun, by decide, ⟨⟨rfl, rfl⟩, rfl⟩, by decide, ⟨⟨rfl, rfl⟩, by decide⟩⟩
theorem test_witness_QueuesMessagesSpawn : ((7 : Fin 16).val < 8 ∧ queued.me.strm = none ∧ alGet [] 2 (queued.core queued.me.pl).queues = 11 :: [12] ∧
      queued.heldPush queued.me.pl 2 = none ∧ queued.iss.pair = false ∧ queued.me.qpos.toNat + 1 < (2 : Word).toNat % 65536) ∧
    (∀ t' ∈ queued.allThreads, ∀ k n, t'.park ≠ .queue k n) ∧ (alGet [] 7 (queued.core queued.me.pl).queues = [] ∧ queued.me.region = none) ∧
    (((busy paged 15).me.ops.filter (·.counts)).length < 16 ∧ Translates (busy paged 15) 0x1FF80 128 .load (.dram 1 0x2FF80 .cacheable)) ∧
    (∀ p off, (Loc.dram 1 0x2FF80 .cacheable) ≠ .scr p off) ∧ (∀ o n ia, (Loc.dram 1 0x2FF80 .cacheable) ≠ .peer o n ia) :=
  ⟨by decide, by intro t h; simp only [State.allThreads, queued, base] at h; rcases h with _ | ⟨_, h⟩ <;> [simp; cases h], by decide,
    ⟨by decide, ⟨0x1FF80, _, by decide, by decide, rfl, by decide⟩⟩, nofun, nofun⟩
/-- n special-function requests of the thread's core. -/
def waiting (n : Nat) : State := { busy base 15 with sfu := List.replicate n { id := 1, uid := 7, pl := ⟨1, 0, 0⟩, f := 0, arg := 0, strm := false, beat := 0 } }
theorem test_witness_SpecialFunctionRequests : PlainTask (waiting 3) ∧
    (((waiting 3).me.ops.filter (·.counts)).length < 16 ∧ ((waiting 3).sfu.filter (fun r => r.pl = (waiting 3).me.pl && !r.strm && r.land.isNone)).length < 4) ∧
    4 ≤ ((waiting 4).sfu.filter (fun r => r.pl = (waiting 4).me.pl && !r.strm && r.land.isNone)).length ∧ 16 ≤ ((busy base 16).me.ops.filter (·.counts)).length := by
  unfold PlainTask; decide
/-- Quads of a descriptor in the own scratchpad, from offset 64. -/
def withDesc (s : State) (q : List Word) : State := { s with mem := s.mem.write (scrKey ⟨1, 0, 0⟩ 64) (quadBytes q) }
def desc64 (s : State) : List Word := quadsOf 8 (s.mem.read (scrKey s.me.pl 64) 64)
/-- An mclr, an mma, a readout, and a descriptor whose K is 0. -/
def qClr : List Word := [0x100000000, 0, 0, 0, 0, 0, 0, 0]
def qMma : List Word := [0x800000000000, 0x800000008000, 0, 0, 0x400040, 0x60020, 0, 0]
def qMrd : List Word := [0x800000000000, 0, 0x200, 0, 0x00010000, 0, 0, 0]
def qBad : List Word := [0x800000000000, 0x800000008000, 0, 0, 0x400040, 0x60000, 0, 0]
theorem test_witness_EngineCommandsIssue : (2 + 0 ≤ base.nslot base.me.pl.o ∧ 0 + 16 ≤ 16) ∧ (PlainTask base ∧ base.nslot base.me.pl.o < 2 + 1) ∧
    (OwnScratch (withDesc base qClr) 0x800000000040 64 64 ∧ State.matBad false 1 0 (desc64 (withDesc base qClr)) = none ∧ (withDesc base qClr).matRange ⟨1, 0, 0⟩ 1 0 (desc64 (withDesc base qClr)) = none) ∧
    (∀ k ∈ [2, 3, 4, 5], State.matBad false k 0 (desc64 (withDesc base qMma)) = none ∧ (withDesc base qMma).matRange ⟨1, 0, 0⟩ k 0 (desc64 (withDesc base qMma)) = none) ∧
    (∀ k ∈ [6, 7], State.matBad false k 0 (desc64 (withDesc base qMrd)) = none ∧ (withDesc base qMrd).matRange ⟨1, 0, 0⟩ k 0 (desc64 (withDesc base qMrd)) = none) ∧
    bits (qd (desc64 (withDesc base qMrd)) 4) 23 16 < base.nslot 1 ∧ State.matBad false 2 0 (desc64 (withDesc base qBad)) = some 5 := by
  unfold PlainTask OwnScratch; decide
theorem test_matrix_issue : out (exec (.mgrp 1 2) (withS base [(2, 0xFFFFFFFF00F0FFF8)])) (·.me.eg[1]) = some 0xFFFF000000000F00 ∧
    out (exec (.mgrp 1 2) (withS handled [(2, 0x02000000)])) (fun t => (t.me.fcode, t.me.faddr)) = some (5, 0) ∧
    out (exec (.mmaG8 1 2 0) (withS (withDesc base qMma) [(2, 0x800000000040)])) (fun t => (t.cmds.map (fun c => (c.form, c.parts.length)), t.me.ops.map (·.dest))) =
      some ([(2, 1)], [some (.s 1)]) ∧
    out (exec (.mmaI8 1 2 0) (withS { withDesc base qBad with me := handled.me } [(2, 0x800000000040)])) (fun t => (t.me.fcode, t.me.faddr)) = some (0x502, 0x800000000068) := by decide
theorem test_matrix_markers : out (exec (.mstat 1 0) base) (fun t => (t.cmds.map (·.form), t.me.ops.map (·.dest))) = some ([8], [some (.s 1)]) ∧
    out (exec (.mfence 0) base) (fun t => (t.cmds.map (·.form), t.me.park)) = some ([9], .mfence 20) := by decide
/-- A copy of 16 bytes from offset 128 to offset 256 of the own scratchpad, the same with rows, and one whose width is 0. -/
def qCopy : List Word := [0x800000000080, 0x800000000100, 0x10000001000010, 0, 0x800000000200, 0, 0, 0]
def box (s : State) (n : Nat) : State := { s with cores := [{ pl := ⟨1, 0, 0⟩, mbox := (List.range n).map (fun k => { mb := k, id := k, uid := 7, kind := 0, q := [] }) }] }
theorem test_witness_CopiesChannelsPublish : (PlainTask (withDesc base qCopy) ∧ OwnScratch (withDesc base qCopy) 0x800000000040 64 64 ∧
      (∀ k ∈ [0, 1, 3, 4, 5], (withDesc base qCopy).copyBad k (desc64 (withDesc base qCopy)) = none) ∧ (withDesc base (qCopy.set 4 0)).copyBad 2 (desc64 (withDesc base (qCopy.set 4 0))) = none ∧
      bit (qd (desc64 (withDesc base qCopy)) 5) 4 = false ∧ (withDesc base (qCopy.set 2 0)).copyBad 0 (desc64 (withDesc base (qCopy.set 2 0))) = some 2) ∧
    (∀ k, k < 4 → ∃ m ∈ ((box base 4).core ⟨1, 0, 0⟩).mbox, m.mb = k) ∧ ((∀ m ∈ ((box base 3).core ⟨1, 0, 0⟩).mbox, m.mb ≠ 3) ∧ ∀ j, j < 3 → ∃ m ∈ ((box base 3).core ⟨1, 0, 0⟩).mbox, m.mb = j) ∧
    (OwnScratch filled 0x800000000040 8 64 ∧ leNat (filled.mem.read (scrKey filled.me.pl 64) 8) = 0) ∧
    (∃ p ∈ [({ k := 63, vbase := 0, size := 0, back0 := 0, back1 := 0, cur := false } : Pair)], p.k = 63) ∧ (∀ p ∈ (base.owner base.me.pl.o).pairs, p.k ≠ 63) := by
  unfold PlainTask OwnScratch; decide
theorem test_copies : out (exec (.cp1d 2) (withS (withDesc base qCopy) [(2, 0x800000000040)])) (fun t => (t.core ⟨1, 0, 0⟩).mbox.map (fun m => (m.mb, m.kind))) = some [(0, 0)] ∧
    out (exec (.cpFill 2) (withS (withDesc (box base 4) qCopy) [(2, 0x800000000040)])) (fun t => (t.me.park, t.me.pc)) = some (.mailbox, 0x100) ∧
    out (exec (.cpGather 2) (withS { withDesc base (qCopy.set 2 0) with me := handled.me } [(2, 0x800000000040)])) (fun t => (t.me.fcode, t.me.faddr)) = some (0x502, 0x800000000050) := by decide
/-- BASE 128, SIZE 256, FULL 1; chq then reads the watermark BASE + SIZE (R253, R255). -/
theorem test_channels : out (exec (.chset 2 1) (withS (withDesc base [0x201000080]) [(2, 0x800000000040)])) (fun t => (alGet ({} : Chan) 1 (t.core ⟨1, 0, 0⟩).chans, out (exec (.chq 1 1) t) (·.me.s[1]))) =
      some ({ base := 128, size := 256, marks := [true, true], err := none }, some 384) ∧
    out (exec (.publish 2) (withS handled [(2, 63)])) (fun t => (t.me.fcode, t.me.faddr)) = some (5, 63) := by decide
def qInst (len : Word) : List Word := [0x10000, 0, len, 0, 0, 0, 0, 0]
theorem test_witness_InstallFormsIssue : (PlainTask (withDesc base (qInst 16384)) ∧ (base.me.ops.filter (·.counts)).length < 16 ∧ OwnScratch (withDesc base (qInst 16384)) 0x800000000040 64 64 ∧
      bits (qd (desc64 (withDesc base (qInst 1))) 2) 24 0 = 1 ∧ bits (qd (desc64 (withDesc base (qInst 0x1000000))) 2) 24 0 = 2 ^ 24 ∧ bits (qd (desc64 (withDesc base (qInst 1))) 3) 47 0 % 64 = 0 ∧
      bit (qd (desc64 (withDesc base (qInst 1))) 4) 0 = false) ∧
    bits (qd (desc64 (withDesc base (qInst 0))) 2) 24 0 = 0 ∧ 2 ^ 24 < bits (qd (desc64 (withDesc base (qInst 0x1000001))) 2) 24 0 := by
  unfold PlainTask OwnScratch; decide
theorem test_installs_issue : out (exec (.winst 1 2) (withS (withDesc base (qInst 16384)) [(2, 0x800000000040)])) (fun t => (t.flash.installs.map (·.o), t.me.ops.map (·.dest))) = some ([1], [some (.s 1)]) ∧
    out (exec (.winst 1 2) (withS { withDesc base (qInst 0) with me := handled.me } [(2, 0x800000000040)])) (fun t => (t.me.fcode, t.me.faddr)) = some (0x502, 0x800000000050) ∧
    out (exec (.wstat 1 2) (withS base [(2, 9)])) (fun t => t.net.map (·.kind)) = some [.wstat 9] := by decide
/-- tlbinv s1; an unassigned major; an unassigned function; cmp.eq into q8; li s1 beside add s1 in one pair. -/
theorem test_witness_EncodingLevelFetchFaults : (PlainTask base ∧ base.me.pl.o ≠ 0 ∧ decodeWord 0x1C701000 = .ok ⟨false, false, 7, .tlbinv 1⟩ ∧ instrIsMonitor (.tlbinv 1) = true) ∧
    decodeWord 0x36000000 = .error .major ∧ decodeWord 0x04700009 = .error .function ∧
    (decodeWord 0x2C781000 = .ok ⟨false, false, 7, .cmpiEq 8 1 0⟩ ∧ (Instr.cmpiEq 8 1 0).reservedSub = some 2 ∧ instrIsMonitor (.cmpiEq 8 1 0) = false ∧ streamForm (.cmpiEq 8 1 0) = false) ∧
    (decodeWord 0x8B712000 = .ok ⟨true, false, 7, .ldD 1 2 0⟩ ∧ decodeWord 0x29710001 = .ok ⟨false, false, 7, .li 1 1⟩ ∧ (Instr.ldD 1 2 0).reservedSub = none ∧ (Instr.li 1 1).reservedSub = none ∧
      instrIsMonitor (.ldD 1 2 0) = false ∧ instrIsMonitor (.li 1 1) = false ∧ ∃ r ∈ instrWrites (.ldD 1 2 0), r ∈ instrWrites (.li 1 1)) ∧ base.iss.z = 4 := by
  unfold PlainTask; decide
theorem test_encoding_faults : out (handled.performFormed ⟨0x100, [0x1C701000]⟩) (fun t => (t.me.fcode, t.me.faddr)) = some (0x401, 0x100) ∧
    out (handled.performFormed ⟨0x100, [0x8B712000, 0x29710001]⟩) (fun t => (t.me.fcode, t.me.faddr)) = some (0x102, 0x100) ∧
    out (handled.performFormed ⟨0x100, [0x8B712000, 0x36000000]⟩) (fun t => (t.me.fcode, t.me.fpc, t.me.faddr)) = some (0x101, 0x100, 0x104) ∧
    out (handled.performFormed ⟨0x100, [0x2C781000]⟩) (fun t => (t.me.fcode, t.me.pw)) = some (0x202, 0x80) := by decide
/-- Monitor sources: a value for s2 and one for s3. -/
def monS (x y : Word) : State := withS mon [(2, x), (3, y)]
/-- Owner 2 enabled, function 6 enabled for it, and the owner frozen or not. -/
def own2 (s : State) (fz : Bool) : State := { s.setOwner 2 { cfg := 0x8100000000000000, frozen := fz } with host := { fns := [{ k := 6, present := true, en := true, o := 2 }] } }
theorem test_witness_RotationSlotFreezeControl : ((0 : Word).toNat % 16 = 0 ∧ (0x13 : Word).toNat % 16 = 3 ∧ PlainTask mon ∧ 4 ≤ (0x14 : Word).toNat % 16) ∧
    (2 < mon.nlive ∧ mon.enabled 1 = true ∧ 1 < mon.nslot 1 ∧ (∀ t ∈ ({ mon with rot := {} } : State).placedSoon, ¬(t.idx = 2 ∧ t.k = 0) ∧ ¬(t.o = 1 ∧ t.l = 1))) ∧
    (∀ t ∈ mon.rot.tens, t.idx = 5 → t.k = 0 → mon.enabled t.o = false) ∧
    ((2 : Nat) ≠ 0 ∧ ((own2 mon false).owner 2).frozen = false ∧ ((own2 mon false).owner 2).freezing = none ∧ ((own2 mon true).owner 2).frozen = true ∧ ((own2 mon true).owner 2).inScrub = false) ∧
    ((own2 mon false).fnOf 6 2 = true ∧ (own2 mon false).fnOf 6 1 = false) ∧
    ((∀ t ∈ mon.threads, ¬(t.pl.o = 2 ∧ t.tid.toNat = 9)) ∧ ¬(mon.me.uid ≠ 0 ∧ mon.me.pl.o = 2 ∧ mon.me.tid.toNat = 9) ∧ mon.graph.streams = [] ∧ mon.graph.packets = [] ∧ mon.graph.placing = []) := by
  unfold PlainTask; decide
theorem test_rotctl : out (exec (.rotctlSuspend 2) (monS 0 0)) (·.regs.rotiv) = some 0x8000000000000050 ∧ out (exec (.rotctlSuspend 2) (monS 0x11 0)) (·.regs.rotiv) = some 80 ∧
    out (exec (.rotctlSuspend 2) (monS 2 0)) (·.rot.extraRot) = some true ∧ out (exec (.rotctlSuspend 2) (monS 3 0)) (·.rot.extraSw) = some true ∧
    out (exec (.rotctlSuspend 2) (withS { mon with me := { mon.me with trapb := 0x2000 } } [(2, 4)])) (·.me.fcode) = some 0x302 := by decide
theorem test_slotctl_frz : out (exec (.slotctlPlace 2 3) (withS { mon with rot := {} } [(2, 0), (3, 0x00442)])) (·.rot.changes) = some [.place { idx := 2, k := 0, o := 1, l := 1 }] ∧
    out (exec (.slotctlPlace 2 3) (monS 1 0x10005)) (·.rot.changes) = some [.remove 5 1] ∧
    out (exec (.frzFreezeOwner 2) (withS (own2 mon false) [(2, 0x200)])) (fun t => ((t.owner 2).freezing, t.me.park)) = some (some 0x80, .frz 2) ∧
    out (exec (.frzFreezeOwner 2) (withS (own2 mon true) [(2, 0x201)])) (fun t => (t.owner 2).releasing) = some true ∧
    out (exec (.frzFreezeOwner 2) (withS (own2 mon false) [(2, 0x60202)])) (fun t => (t.fn? 6).map (·.frozen)) = some (some true) := by decide
/-- A key block at offset 0 of owner 0's DRAM, whose halves differ. -/
def keyed : State := { mon with mem := ({} : Mem).write (mon.dramKey 0 0) [1] }
/-- A poisoned key block: the slot stays empty, and the next bundle's place takes POISON, whose FPC names the keyld (R345, R346, R432). -/
theorem test_keyld_poison : out (exec (.keyld 2 3) (withS { keyed with mem := keyed.mem.setPoison (keyed.dramKey 0 0) } [(2, 9), (3, 0)]))
    (fun t => (t.trust.keys.any (fun k => k.1 == 9), t.me.next.map (fun f => (f.code, f.sub, f.fpc == keyed.iss.b, f.faddr)))) = some (false, some (9, 0, true, 0)) := by decide
theorem test_witness_MonitorServices : ((0x4000000000000000 : Word).toNat / 2 ^ 60 ≤ 4) ∧ ((0 : Word).toNat % 64 = 0 ∧ keyed.blockedKey 9 = false ∧ keyed.platPoisoned 0 = false ∧
      (keyed.platRead 0 64).take 32 ≠ (keyed.platRead 0 64).drop 32 ∧ MemOk keyed ∧ keyed.lostKey (keyed.dramKey 0 0) = false) ∧
    (∀ k, k < 16 → (own2 mon false).enabled k = true → 31 ∉ (own2 mon false).keysNamed k) ∧
    ((2 : Nat) ≠ 0 ∧ ((own2 mon false).owner 2).inScrub = false ∧ ((own2 mon false).owner 2).freezing = none ∧ (own2 mon false).enabled 2 = true ∧ (own2 mon false).progBusy = false) ∧
    ((12 : Word).toNat % 16 ≤ 12 ∧ bit mon.regs.slicemap.toNat 63 = true ∧ (mon.slice 63).target = none) := by
  unfold MemOk; decide
theorem test_services : out (exec (.tlbinv 2) (monS 0x4100000000012345 0)) (·.me.park) = some (.tlbinv 4 1 0x10000 false 0) ∧
    out (exec (.keyld 2 3) (withS keyed [(2, 9)])) (fun t => (t.trust.keys, t.platRead 0 2)) = some ([(9, 1)], [0, 0]) ∧
    out (exec (.keyzap 2) (withS { keyed with trust := { keyed.trust with keys := [(9, 1)] } } [(2, 9)])) (·.trust.keys) = some [] ∧
    out (exec (.evpost 2) (monS 5 0)) (fun t => t.net.map (·.kind)) = some [.evpost 5] ∧
    out (exec (.scrub 2) (withS (own2 mon false) [(2, 2)])) (fun t => ((t.owner 2).freezing, t.me.park, t.trust.events.map (·.ty))) = some (some 0x81, .scrub 2, [0x31]) ∧
    out (exec (.waypart 2 3) (monS 5 12)) (fun t => ((t.slice 5).target, t.me.park)) = some (some (0, 12), .waypart 5) := by decide +kernel

/-! ### What the device does: states, results and witnesses -/

/-- No thread at issue; the threads given stand in their rows. -/
def idle (ts : List Thread) : State := { base with me := {}, threads := ts }
def th (u : Nat) : Thread := { uid := u, pl := ⟨1, 0, 0⟩, row := 0, tid := 3 }
def op (i : Nat) (d : Option Dest) : Op := { id := i, fpc := 0x40, dest := d, counts := d.isSome }
/-- The request of a thread, at a location; the thread holds its operation. -/
def asked (s : State) (d : Option Dest) (l : Loc) (k : ReqKind) : State :=
  { s with threads := [{ th 8 with ops := [op 30 d] }], me := {}, net := [{ id := 30, uid := 8, pl := ⟨1, 0, 0⟩, loc := l, kind := k }] }
def theReq (l : Loc) (k : ReqKind) : Req := { id := 30, uid := 8, pl := ⟨1, 0, 0⟩, loc := l, kind := k }
def home : Loc := .dram 1 0x20008 .cacheable
def syncAt : Loc := .dram 1 0x20008 .sync
def stamped (s : State) (l : Loc) (bs : List Byte) : State := { s with mem := s.mem.write (s.locKey l) bs }
/-- The answered operation's result (999 for none), the 8 bytes at the location, and how many requests remain. -/
def after (l : Loc) (t : State) : List Nat × Nat × Nat := ((t.thread? 8).toList.flatMap (fun x => x.ops.map (fun o => (o.res.map (·.toNat)).getD 999)), leNat (t.mem.read (t.locKey l) 8), t.net.length)

def parked (p : Park) : State := idle [{ th 8 with park := p }]
theorem test_witness_BeatsResultsFences : ((parked .pend).rot.pause = none ∧ (∀ o, o < 16 → ((parked .pend).owner o).releasing = false) ∧ (∀ x ∈ (parked .pend).threads, x.held = [] ∧ ∀ f, x.park ≠ .dead f)) ∧
    (∃ x o, (idle [{ th 8 with ops := [{ op 30 (some (.s 15)) with res := some 77 }] }]).thread? 8 = some x ∧ x.ops.find? (fun p => p.id == 30) = some o ∧ o.grp = 0 ∧ o.due = none ∧ o.rsv = false ∧
      o.res = some 77 ∧ o.fault = none ∧ x.strm = none ∧ o.dest = some (.s 15)) ∧
    (∃ x, (parked (.fence 3)).thread? 8 = some x ∧ x.park = .fence 3 ∧ (∀ o ∈ x.ops, o.acc = false) ∧ x.held = []) ∧
    (∃ x, (parked .exit).thread? 8 = some x ∧ x.park = .exit ∧ x.ops = [] ∧ x.held = [] ∧ x.woken = false ∧ ((parked .exit).owner x.pl.o).frozen = false ∧ x.evicted = none ∧
      (parked .exit).graph.packets = [] ∧ (parked .exit).graph.placing = [] ∧ (parked .exit).graph.streams = [] ∧ (∀ l ∈ (parked .exit).graph.launches, l.id ≠ x.task.launch) ∧
      ∀ p ∈ (parked .exit).mem.resv, p.2 ≠ 8) :=
  ⟨⟨rfl, by decide, by intro x h; simp only [parked, idle, List.mem_singleton] at h; subst h; exact ⟨rfl, nofun⟩⟩, ⟨_, _, rfl, rfl, rfl, rfl, rfl, rfl, rfl, rfl, rfl⟩,
    ⟨_, rfl, rfl, by decide, rfl⟩, ⟨_, rfl, rfl, rfl, rfl, rfl, rfl, rfl, rfl, rfl, rfl, by decide, by decide⟩⟩
theorem test_beat_boundary : out (exec .beatBoundary (parked .pend)) (fun t => t.threads.map (fun x => (x.park, x.readyAt, x.taskb))) = some [(.none, 2, 1)] := by decide
/-- A result lands; a discarded one only raises its flags (R65, R142). -/
theorem test_long_result : out (exec (.longResultLand 8 30) (idle [{ th 8 with ops := [{ op 30 (some (.s 15)) with res := some 77 }] }])) (fun t => t.threads.map (fun x => (x.s[15], x.ops.length))) = some [(77, 0)] ∧
    out (exec (.longResultLand 8 30) (idle [{ th 8 with ops := [{ op 30 (some (.s 15)) with res := some 77, disc := true, flags := 3 }] }])) (fun t => t.threads.map (fun x => (x.s[15], x.fcsr))) = some [(0, 3)] := by decide
theorem test_fence_exit : out (exec (.fenceComplete 8) (parked (.fence 3))) (fun t => t.threads.map (·.woken)) = some [true] ∧
    out (exec (.exitComplete 8) (parked .exit)) (·.threads.length) = some 0 := by decide

/-- A request of frcp (function 2) of 2.0, or of 1.0 in the other lanes. -/
def sfuOne (land : Option Nat) : State :=
  { idle [{ th 8 with ops := [op 30 (some (.v 4))] }] with sfu := [{ id := 30, uid := 8, pl := ⟨1, 0, 0⟩, f := 2, arg := 0x3F8000003F8000003F80000040000000, strm := false, beat := 1, land := land }] }
theorem test_witness_SpecialFunctionService : (∃ r, (sfuOne none).sfu.find? (fun x => x.pl = ⟨1, 0, 0⟩ && x.land.isNone && decide (x.beat < (sfuOne none).beat)) = some r ∧
      (∀ x ∈ (sfuOne none).sfu, x.strm = false) ∧ 0 / 16 = (sfuOne none).clk.quartz.toNat % 8) ∧
    (∃ r x y, (sfuOne (some 2)).sfu.find? (fun x => x.id == 30) = some r ∧ r.strm = false ∧ r.land = some 2 ∧ 2 ≤ (sfuOne (some 2)).clk.quartz.toNat / 8 ∧ (sfuOne (some 2)).thread? r.uid = some x ∧
      x.strm = none ∧ x.ops = [y] ∧ y.id = 30 ∧ y.dest = some (.v 4) ∧ y.disc = false ∧ y.rsv = false) :=
  ⟨⟨{ id := 30, uid := 8, pl := ⟨1, 0, 0⟩, f := 2, arg := 0x3F8000003F8000003F80000040000000, strm := false, beat := 1, land := none }, by decide +kernel, by decide, by decide⟩,
    ⟨_, _, _, rfl, rfl, rfl, by decide, rfl, rfl, rfl, rfl, rfl, rfl, rfl⟩⟩
theorem test_sfu : out (exec (.sfuAccept 1 0 0) (sfuOne none)) (fun t => t.sfu.map (·.land)) = some [some 6] ∧
    out (exec (.sfuResultLand 30) (sfuOne (some 2))) (fun t => t.threads.map (fun x => (x.v[4], x.fcsr))) = some [(0x3F8000003F8000003F8000003F000000, 0)] := by decide +kernel

theorem test_witness_LoadsAndStoresPerformed : (Arriving (asked base (some (.s 1)) (.slice 5 8) (.load 8 .zx none)) 30 (theReq (.slice 5 8) (.load 8 .zx none)) ∧ (asked base (some (.s 1)) (.slice 5 8) (.load 8 .zx none)).mem.poisoned (sliceKey 5 8) = false) ∧
    (Arriving (asked base (some (.s 1)) (.scr ⟨1, 1, 127⟩ 65528) (.load 8 .zx none)) 30 (theReq (.scr ⟨1, 1, 127⟩ 65528) (.load 8 .zx none)) ∧ base.chanAt ⟨1, 1, 127⟩ 65528 8 = none) ∧
    (Arriving (asked base (some (.s 1)) home (.load 8 .zx none)) 30 (theReq home (.load 8 .zx none)) ∧ (asked base (some (.s 1)) home (.load 8 .zx none)).inOwnL1 ⟨1, 0, 0⟩ ((asked base (some (.s 1)) home (.load 8 .zx none)).locKey home / 128) = false ∧
      (asked base (some (.s 1)) home (.load 8 .zx none)).poisonedKey (base.locKey home) = false) ∧
    (Arriving (asked { base with mem := { poison := [base.locKey home / 128] } } (some (.s 1)) home (.load 8 .zx none)) 30 (theReq home (.load 8 .zx none)) ∧
      ({ poison := [base.locKey home / 128] } : Mem).poisoned (base.locKey home) = true) ∧
    (Arriving (asked base none home (.store [1, 2])) 30 (theReq home (.store [1, 2])) ∧ MemOk (asked base none home (.store [1, 2])) ∧ (asked base none home (.store [1, 2])).lostKey (base.locKey home) = false) ∧
    Arriving (asked base none (.peer 1 0 0) (.evpost 5)) 30 (theReq (.peer 1 0 0) (.evpost 5)) := by
  unfold Arriving MemOk; decide
theorem test_load_store_perform : out (exec (.remoteLoadServe 30) (asked (stamped base home [1, 2, 3]) (some (.s 1)) home (.load 2 .zx none))) (after home) = some ([0x201], 0x30201, 0) ∧
    out (exec (.storePerform 30) (asked (stamped base home [1, 2, 3]) none home (.store [9]))) (after home) = some ([], 0x30209, 0) ∧
    out (exec (.storePerform 30) (asked base none (.peer 1 0 0) (.evpost 5))) (fun t => t.trust.events.map (fun e => (e.ty, e.o, e.data))) = some [(0x40, 1, 5)] := by decide

def filledF (s : State) : State := { s with mem := { s.mem with fbit := [s.locKey syncAt / 8] } }
theorem test_witness_SyncWordsAndAtomicsPerformed : (Arriving (asked (filledF base) (some (.s 1)) syncAt .ldfe) 30 (theReq syncAt .ldfe) ∧ (theReq syncAt .ldfe).arrived = none ∧
      (∀ x ∈ (asked (filledF base) (some (.s 1)) syncAt .ldfe).net, x.arrived = none) ∧ (filledF base).poisonedKey (base.locKey syncAt) = false ∧ MemOk (filledF base) ∧
      (filledF base).mem.f (base.locKey syncAt) = true) ∧
    (Arriving (asked base none syncAt (.stfe 5)) 30 (theReq syncAt (.stfe 5)) ∧ base.mem.f (base.locKey syncAt) = false) ∧ Arriving (asked base none syncAt (.stf 5)) 30 (theReq syncAt (.stf 5)) ∧
    Arriving (asked base none syncAt .feClr) 30 (theReq syncAt .feClr) ∧ (Arriving (asked base (some (.s 1)) syncAt .lrw) 30 (theReq syncAt .lrw) ∧ (∀ x ∈ base.mem.resv, x.1 ≠ base.locKey syncAt)) ∧
    Arriving (asked base none syncAt (.scq 5)) 30 (theReq syncAt (.scq 5)) ∧ Arriving (asked base none syncAt .rsvRel) 30 (theReq syncAt .rsvRel) ∧
    (Arriving (asked base (some (.s 1)) home (.amo .cas 8 4 3)) 30 (theReq home (.amo .cas 8 4 3)) ∧ base.poisonedKey (base.locKey home) = false) ∧
    Arriving (asked base none home (.red .add 4 4)) 30 (theReq home (.red .add 4 4)) ∧ Arriving (asked base none home (.redF 4)) 30 (theReq home (.redF 4)) := by
  unfold Arriving MemOk; decide
theorem test_sync_words : out (exec (.syncOpArrive 30) (asked (stamped (filledF base) syncAt [7]) (some (.s 1)) syncAt .ldfe)) (fun t => (after syncAt t, t.mem.fbit)) = some (([7], 7, 0), []) ∧
    out (exec (.syncOpArrive 30) (asked base (some (.s 1)) syncAt .ldfe)) (fun t => (after syncAt t, t.net.map (·.arrived))) = some (([999], 0, 1), [some 20]) ∧
    out (exec (.syncOpArrive 30) (asked base none syncAt (.stfe 5))) (fun t => (after syncAt t, t.mem.fbit)) = some (([], 5, 0), [base.locKey syncAt / 8]) ∧
    out (exec (.syncOpArrive 30) (asked base (some (.s 1)) syncAt .lrw)) (fun t => (after syncAt t, t.mem.resv)) = some (([0], 0, 0), [(base.locKey syncAt, 8)]) ∧
    out (exec (.syncOpArrive 30) (asked { base with mem := { resv := [(base.locKey syncAt, 8)] } } none syncAt (.scq 5))) (fun t => (after syncAt t, t.mem.resv)) = some (([], 5, 0), []) := by decide
/-- The example of R186: cas with s5 = 3 and s6 = 4, the doubleword holding 3 and then 7; amo.minn zero-extends, the others sign-extend. -/
theorem test_atomics : out (exec (.amoPerform 30) (asked (stamped base home [3]) (some (.s 5)) home (.amo .cas 8 4 3))) (after home) = some ([3], 4, 0) ∧
    out (exec (.amoPerform 30) (asked (stamped base home [7]) (some (.s 5)) home (.amo .cas 8 4 3))) (after home) = some ([7], 7, 0) ∧
    out (exec (.amoPerform 30) (asked (stamped base home [0xFF, 0xFF, 0xFF, 0xFF]) (some (.s 5)) home (.amo .add 4 1 0))) (after home) = some ([0xFFFFFFFFFFFFFFFF], 0, 0) ∧
    out (exec (.amoPerform 30) (asked (stamped base home [0xFF, 0xFF, 0xFF, 0xFF]) (some (.s 5)) home (.amo .minn 4 1 0))) (after home) = some ([0xFFFFFFFF], 1, 0) ∧
    out (exec (.reductionPerform 30) (asked (stamped base home [0, 0, 0x80, 0x3F]) none home (.redF 0x3F800000))) (after home) = some ([], 0x40000000, 0) := by decide
/-- Two stores to one byte and then a load of it: the last store stands, and the load sees it (R188). -/
def regionWords : List RWord := [{ ea := 0x20001, n := 1, fpc := 0, store := some [5], load := none }, { ea := 0x20001, n := 1, fpc := 0, store := some [6], load := none },
  { ea := 0x20001, n := 1, fpc := 0, store := none, load := some (.s 1, 31), fmt := .zx }]
def regionReq : State :=
  { idle [{ th 8 with ops := [op 30 none, op 31 (some (.s 1))] }] with net := [{ id := 30, uid := 8, pl := ⟨1, 0, 0⟩, loc := .dram 1 0x20000 .cacheable, kind := .region regionWords }] }
theorem test_region : out (exec (.atomicRegionPerform 30) regionReq) (fun t => (t.mem.read (t.locKey (.dram 1 0x20000 .cacheable)) 3, t.threads.flatMap (fun x => x.ops.map (fun o => (o.res.map (·.toNat)).getD 999)), t.net.length)) =
    some ([0, 6, 0], [6], 0) := by decide
theorem test_witness_RegionsPerformed : ∃ r ws, Arriving (asked base none home (.region [{ ea := 8, n := 1, fpc := 0, store := some [5], load := none }])) 30 r ∧ r.kind = .region ws ∧
    base.poisonedKey (base.locKey r.loc) = false := ⟨_, _, ⟨rfl, by decide⟩, rfl, by decide⟩

def core5 : Place := ⟨1, 1, 5⟩
def barred (n a : Nat) (k : ReqKind) : State := { asked base none (.scr core5 0) k with cores := [{ pl := core5, bars := [{ k := 3, n := n, a := a, g := 65535 }] }] }
def bar3 (t : State) : List (Nat × Nat × Nat) := (t.core core5).bars.map (fun b => (b.n, b.a, b.g))
theorem test_barriers : out (exec (.barrierOpArrive 30) (barred 0 9 (.barInit 3 2))) (fun t => (bar3 t, t.net.length)) = some ([(2, 0, 65535)], 0) ∧
    out (exec (.barrierOpArrive 30) (barred 3 1 (.barArrive 3))) (fun t => (bar3 t, t.net.length)) = some ([(3, 2, 65535)], 0) ∧
    out (exec (.barrierOpArrive 30) (barred 3 2 (.barSync 3))) (fun t => (bar3 t, t.net.length)) = some ([(3, 0, 0)], 0) ∧
    out (exec (.barrierOpArrive 30) (barred 3 1 (.barSync 3))) (fun t => (bar3 t, t.net.map (·.arrived))) = some ([(3, 2, 65535)], [some 20]) ∧
    out (exec (.barrierOpArrive 30) (barred 3 1 (.barWait 3))) (fun t => t.net.map (·.arrived)) = some [some 20] ∧
    out (exec (.barrierOpArrive 30) (barred 0 0 (.barWait 3))) (fun t => t.net.length) = some 0 := by decide
def pushed (n : Nat) : State := { asked base none (.scr core5 0) (.push 7 77) with cores := [{ pl := core5, queues := [(7, List.replicate n 1)] }] }
def boxed (k : ReqKind) (ms : List VWord) : State := { asked base (some (.v 1)) (.peer 1 0 0) k with graph := { inboxes := [{ o := 1, tid := 4, launch := 0, msgs := ms }] } }
theorem test_pushes_messages : out (exec (.queuePushArrive 30) (pushed 15)) (fun t => ((alGet [] 7 (t.core core5).queues).drop 14, t.net.length)) = some ([1, 77], 0) ∧
    out (exec (.queuePushArrive 30) (pushed 16)) (fun t => ((alGet [] 7 (t.core core5).queues).length, t.net.map (·.arrived))) = some (16, [some 20]) ∧
    out (exec (.messageArrive 30) (boxed (.msg 0 4 9 0) [8])) (fun t => t.graph.inboxes.map (·.msgs)) = some [[8, 9]] ∧
    out (exec (.messageArrive 30) (boxed (.mrecv 4) [8, 9])) (fun t => (t.graph.inboxes.map (·.msgs), t.threads.flatMap (fun x => x.ops.map (fun o => (o.res.map (·.toNat)).getD 999)))) = some ([[9]], [8]) ∧
    out (exec (.messageArrive 30) (boxed (.mrecv 4) [])) (fun t => t.net.map (·.arrived)) = some [some 20] := by decide
theorem test_witness_BarriersPushesMessagesArrive : (∃ x, Arriving (barred 3 2 (.barSync 3)) 30 (theReq (.scr core5 0) (.barSync 3)) ∧ (theReq (.scr core5 0) (.barSync 3)).arrived = none ∧ (barred 3 2 (.barSync 3)).thread? 8 = some x ∧
      (∀ g, x.barRec = some (133 * 128 + 3, g) → g = 65535)) ∧
    Arriving (barred 3 1 (.barArrive 3)) 30 (theReq (.scr core5 0) (.barArrive 3)) ∧ Arriving (barred 0 0 (.barWait 3)) 30 (theReq (.scr core5 0) (.barWait 3)) ∧ Arriving (barred 0 9 (.barInit 3 2)) 30 (theReq (.scr core5 0) (.barInit 3 2)) ∧
    (Arriving (pushed 15) 30 (theReq (.scr core5 0) (.push 7 77)) ∧ (alGet [] 7 ((pushed 15).core core5).queues).length < 16 ∧ (pushed 15).heldPush core5 7 = none ∧ (∀ x ∈ (pushed 15).allThreads, ∀ n, x.park ≠ .queue 7 n)) ∧
    (Arriving (pushed 16) 30 (theReq (.scr core5 0) (.push 7 77)) ∧ 16 ≤ (alGet [] 7 ((pushed 16).core core5).queues).length ∧ (∀ x ∈ (pushed 16).net, x.arrived = none)) ∧
    (∃ b, (boxed (.msg 0 4 9 0) [8]).graph.inboxes.find? (fun y => y.o == 1 && y.tid == 4) = some b ∧ Arriving (boxed (.msg 0 4 9 0) [8]) 30 (theReq (.peer 1 0 0) (.msg 0 4 9 0)) ∧ b.msgs.length < 32) ∧
    Arriving (boxed (.mrecv 4) [8]) 30 (theReq (.peer 1 0 0) (.mrecv 4)) ∧
    (∃ x n, ({ pushed 0 with threads := [{ th 8 with pl := core5, park := .queue 7 n }], net := [{ id := 30, uid := 0, pl := ⟨0, 0, 0⟩, loc := .scr core5 0, kind := .push 7 77 }] } : State).threads = [x] ∧ x.park = .queue 7 n ∧ x.pl = core5 ∧
      x.woken = false ∧ x.uid ≠ 0 ∧ Arriving { pushed 0 with threads := [{ th 8 with pl := core5, park := .queue 7 n }], net := [{ id := 30, uid := 0, pl := ⟨0, 0, 0⟩, loc := .scr core5 0, kind := .push 7 77 }] } 30
        { id := 30, uid := 0, pl := ⟨0, 0, 0⟩, loc := .scr core5 0, kind := .push 7 77 }) := by
  refine ⟨⟨_, ⟨rfl, by decide⟩, rfl, rfl, nofun⟩, ⟨rfl, by decide⟩, ⟨rfl, by decide⟩, ⟨rfl, by decide⟩, ⟨⟨rfl, by decide⟩, by decide, by decide, ?_⟩, ⟨⟨rfl, by decide⟩, by decide, by decide⟩,
    ⟨_, rfl, ⟨rfl, by decide⟩, by decide⟩, ⟨rfl, by decide⟩, ⟨_, 4, rfl, rfl, rfl, rfl, by decide, ⟨rfl, by decide⟩⟩⟩
  intro x h n; simp only [State.allThreads, pushed, asked] at h; rcases h with _ | ⟨_, h⟩ <;> [simp [th]; cases h]

/-- A walk of owner 1 for VA 0x10000, with tables in its own DRAM: stage 2 has its root at platform 0x1000, stage 1 at offset 0x4000. Leaves at level 1 of stage 2 map offset 0 to offset 0. -/
def quadAtKey (s : State) (k : Nat) (x : Nat) : State := { s with mem := s.mem.write k (leBytes 8 x) }
def walked : State :=
  let s := { idle [{ th 8 with park := .walk 40 0x10000 false }] with walks := [{ id := 40, o := 1, l := 0, va := 0x10000, gen := 0 }] }
  let s := s.setOwner 1 { own1 with s1act := 0x4001, s2act := 0x1001 }
  let s := quadAtKey (quadAtKey (quadAtKey s (s.dramKey 0 0x1000) 0x2001) (s.dramKey 0 0x2000) 0x3001) (s.dramKey 0 0x3000) 0x43
  let s := quadAtKey (quadAtKey s (s.dramKey 1 0x4000) 0x5001) (s.dramKey 1 0x5000) 0x6001
  let s := quadAtKey (quadAtKey s (s.dramKey 1 0x6000) 0x7001) (s.dramKey 1 0x7008) 0x20043
  let keys := [s.dramKey 0 0x1000, s.dramKey 0 0x2000, s.dramKey 0 0x3000, s.dramKey 1 0x4000, s.dramKey 1 0x5000, s.dramKey 1 0x6000, s.dramKey 1 0x7008]
  { s with slices := [{ n := 5, lines := keys.map (fun k => { line := k / 1024, o := 1, set := 0, way := 0, secs := List.range 8 }) }] }
theorem test_walk : out (exec (.tlbWalkEnd 40) walked) (fun t => (t.tlb.map (fun e => (e.page, e.size, e.out, e.w, e.c)), t.threads.map (·.woken), t.walks.length)) =
      some ([(0x10000, 16, 0x20000, true, none), (0x10000, 16, 0x20000, true, some 0)], [true], 0) ∧
    out (exec (.tlbWalkEnd 40) { walked with walks := [{ id := 40, o := 1, l := 0, va := 0x10000, gen := 9 }] }) (fun t => (t.tlb.length, t.walks.map (·.gen))) = some (0, [0]) := by decide +kernel
def inval (adv : Bool) : State := { (idle [{ th 8 with pl := ⟨0, 0, 0⟩, park := .tlbinv 1 1 0x10000 adv 0 }]) with tlb := paged.tlb }
theorem test_tlbinv_ack : out (exec (.tlbinvAck 8) (inval false)) (fun t => (t.tlb.length, (t.owner 1).gen, t.threads.map (·.woken))) = some (0, 1, [false]) ∧
    out (exec (.tlbinvAck 8) (inval true)) (fun t => t.threads.map (·.woken)) = some [true] := by decide
theorem test_witness_WalksAndInvalidations : (walked.rot.pause = none ∧ (∃ w e, walked.walks = [w] ∧ w.id = 40 ∧ w.gen = (walked.owner w.o).gen ∧ walked.walk w.o w.l w.va = .ok e)) ∧
    (9 : Nat) ≠ (walked.owner 1).gen ∧ (∃ x, (inval false).thread? 8 = some x ∧ x.park = .tlbinv 1 1 0x10000 false 0 ∧ x.woken = false ∧ (∀ o ∈ x.ops, o.acc = false)) ∧
    (∃ x, (inval true).thread? 8 = some x ∧ x.park = .tlbinv 1 1 0x10000 true 0 ∧ (inval true).walks = [] ∧ (∀ y ∈ (inval true).allThreads, ∀ o ∈ y.ops, o.acc = false)) :=
  ⟨⟨rfl, _, { o := 1, l := 0, page := 0x10000, size := 16, space := 0, out := 0x20000, ia := 0x20000, kind := .cacheable, w := true, x := false, span := 16 }, rfl, rfl, rfl, by decide +kernel⟩, by decide,
    ⟨_, rfl, rfl, rfl, by decide⟩, ⟨_, rfl, rfl, rfl, by decide⟩⟩

/-! ### Migration, streams, engines, copies, records, launches -/

def mig (p : Park) : State := idle [{ th 8 with park := p, s := Vector.replicate 16 9, v := Vector.replicate 16 9, pc := 0x300 }]
def stepping (s : State) : State := s.setOwner 1 { own1 with stepcfg := 0x8000000000000000, num := 6 }
def packet (g : PStage) : Packet := { id := 30, stage := g, t := { th 8 with pl := ⟨1, 1, 5⟩, pc := 0x300 } }
def flying : State := { idle [] with graph := { packets := [packet .flight] } }
def evictedRow : State := idle [{ th 8 with evicted := some 3, pc := 0x300 }]
theorem test_migrate : out (exec (.migrationDepart 8) (mig (.migrate ⟨1, 1, 5⟩))) (fun t => (t.threads.length, t.graph.packets.map (fun k => (k.t.pl, k.t.s[7], k.t.s[8], k.t.v[1], k.t.v[2])))) =
      some (0, [(⟨1, 1, 5⟩, 9, 0, 9, 0)]) ∧
    out (exec (.migrationDepart 8) (stepping (mig .step))) (fun t => (t.graph.packets.map (·.stage), (t.owner 1).stepped)) = some ([.stepped], true) ∧
    out (exec (.migrationDepart 8) (mig .step)) (fun t => t.threads.map (·.woken)) = some [true] ∧
    out (exec (.packetArrive 30) flying) (fun t => (t.graph.packets.length, t.threads.map (fun x => (x.pl, x.row, x.readyAt)))) = some (0, [(⟨1, 1, 5⟩, 0, 3)]) ∧
    out (exec (.rowRestore 8) evictedRow) (fun t => t.threads.map (fun x => (x.evicted, x.row))) = some [(none, 0)] := by decide
theorem test_witness_MigrationAndArrival : (∃ x, (mig (.migrate ⟨1, 1, 5⟩)).thread? 8 = some x ∧ x.ops = [] ∧ x.held = [] ∧ x.woken = false ∧ x.evicted = none ∧ ((mig (.migrate ⟨1, 1, 5⟩)).owner x.pl.o).frozen = false ∧
      (mig (.migrate ⟨1, 1, 5⟩)).graph.packets = [] ∧ (mig (.migrate ⟨1, 1, 5⟩)).graph.placing = [] ∧ (mig (.migrate ⟨1, 1, 5⟩)).graph.streams = [] ∧ x.park = .migrate ⟨1, 1, 5⟩) ∧
    (∃ x, (stepping (mig .step)).thread? 8 = some x ∧ x.ops = [] ∧ x.held = [] ∧ x.woken = false ∧ x.evicted = none ∧ ((stepping (mig .step)).owner x.pl.o).frozen = false ∧
      (stepping (mig .step)).graph.packets = [] ∧ (stepping (mig .step)).graph.placing = [] ∧ (stepping (mig .step)).graph.streams = [] ∧ x.park = .step ∧ bit ((stepping (mig .step)).owner x.pl.o).stepcfg.toNat 63 = true) ∧
    (flying.graph.packets = [packet .flight] ∧ (packet .flight).id = 30 ∧ (packet .flight).stage = .flight ∧ (flying.owner (packet .flight).t.pl.o).frozen = false ∧ flying.freeRow (packet .flight).t.pl = some 0) ∧
    (∃ x n m, evictedRow.thread? 8 = some x ∧ evictedRow.me.uid ≠ 8 ∧ x.evicted = some n ∧ (∀ y ∈ evictedRow.threads, y.evicted ≠ none → y = x) ∧ x ∈ evictedRow.threads ∧ x.uid = 8 ∧
      evictedRow.resident x.pl.o x.pl.l = true ∧ evictedRow.freeRow x.pl = some m) :=
  ⟨⟨_, rfl, rfl, rfl, rfl, rfl, rfl, rfl, rfl, rfl, rfl⟩, ⟨_, rfl, rfl, rfl, rfl, rfl, rfl, rfl, rfl, rfl, rfl, by decide⟩, by decide,
    ⟨_, 3, 0, rfl, by decide, rfl, by decide, List.mem_singleton.mpr rfl, rfl, by decide, by decide⟩⟩

/-- A row stream of layer 0; its threads stand on cores 0 to 15. -/
def row0 : Stream := { id := 9, o := 1, l := 0, layer := some 0, launch := 0, node := 0, tid := 3, placed := true, proto := { pc := 0x400 } }
def rowOf (st : Stream) (ops : List Op) : State :=
  { idle ((List.range 16).map (fun c => { th (40 + c) with pl := ⟨1, 0, c⟩, strm := some 9, ops := if c = 3 then ops else [], links := { e := 7 } })) with graph := { streams := [st] } }
def running : Stream := { row0 with started := true, beat := some 4, closed := true }
theorem test_streams : out (exec (.streamStart 9) (rowOf row0 [])) (fun t => (t.graph.streams.map (fun x => (x.started, x.fpc)), (t.threads.map (·.slot)).take 2)) = some ([(true, 0x400)], [some 0, some 0]) ∧
    out (exec (.streamBeatBegin 9) (rowOf running [])) (fun t => (t.graph.streams.map (fun x => (x.beat, x.frozen)), (t.threads.map (·.linksPrev.e)).take 2)) = some ([(some 5, false)], [7, 7]) ∧
    out (exec (.streamBeatBegin 9) (rowOf running [{ op 30 (some (.s 1)) with due := some 5 }])) (fun t => t.graph.streams.map (fun x => (x.beat, x.frozen))) = some [(some 4, true)] ∧
    out (exec (.streamEnd 9) (rowOf { running with exited := List.range 16 } [])) (fun t => (t.graph.streams.length, t.threads.length)) = some (0, 0) := by decide +kernel
theorem test_witness_StreamsAdvance : (rowOf row0 []).graph.streams = [row0] ∧ (rowOf row0 []).clk.quartz.toNat % 8 = 0 ∧ (rowOf row0 []).resident 1 0 = true ∧ (rowOf row0 []).rot.pause = none ∧ (rowOf row0 []).trust.tripped = false ∧
    (∀ p ∈ State.reach row0, (∃ x ∈ (rowOf row0 []).threads, x.strm = some 9 ∧ x.pl = p) ∧ ∀ x ∈ (rowOf row0 []).threads, x.pl = p → x.strm = none → x.slot ≠ some 0) ∧
    (running.started = true ∧ running.fail = none ∧ running.closed = true ∧ running.inj = [] ∧ (∀ x ∈ (rowOf running []).threads, x.ops = []) ∧ (rowOf running []).cmds = []) ∧
    (∃ x ∈ (rowOf running [{ op 30 (some (.s 1)) with due := some 5 }]).threads, x.strm = some 9 ∧ ∃ o ∈ x.ops, o.due = some 5 ∧ o.res = none) ∧
    (∀ p ∈ State.reach running, p.c ∈ List.range 16) ∧ (∀ x ∈ (rowOf running []).threads, x.strm = some 9 → x.ops = []) ∧ (rowOf running []).net = [] := by decide +kernel

/-- A capability of the engine at row position 2 of logical slot 1, and a command of it. -/
def aCap : Word := 0x1020000
def cmdOf (f : Nat) (q : List Word) (p : Part) : Cmd := { id := 30, uid := 8, pl := ⟨1, 0, 0⟩, fpc := 0x40, desc := 0x800000000040, form := f, cap := aCap, q := q, parts := [p] }
def part0 : Part := { i := 0, j := 0 }
def engined (f : Nat) (q : List Word) (p : Part) (caps : Bool) (tag : Option Nat) : State :=
  { idle [{ th 8 with ops := [{ op 30 (some (.s 1)) with acc := false, cmd := true }] }] with
    cmds := [cmdOf f q p], caps := if caps then [{ o := 1, l := 1, x := 2, k := 0, val := aCap ||| 0x800000000000 }] else [],
    engines := [{ idx := 1, x := 2, tag := tag, a0 := { anchor := -3, range := true } }] }
def partsOf (t : State) : List (Bool × Bool × Bool × Nat) := t.cmds.flatMap (fun c => c.parts.map (fun p => (p.arrived.isSome, p.foreign, p.done, p.code)))
theorem test_engine_arrive : out (exec (.engineCommandArrive 30 0 0) (engined 1 qClr part0 true none)) (fun t => (partsOf t, t.engines.map (·.tag))) = some ([(true, false, false, 0)], [some 1]) ∧
    out (exec (.engineCommandArrive 30 0 0) (engined 1 qClr part0 true (some 4))) (fun t => (partsOf t, t.engines.map (·.tag), t.trust.events.map (fun e => (e.ty, e.data)))) =
      some ([(true, true, false, 0)], [some 4], [(5, 0x1201)]) ∧
    out (exec (.engineCommandArrive 30 0 0) (engined 1 qClr part0 false none)) partsOf = some [(true, false, true, 10)] := by decide
/-- mclr sets the anchor that its descriptor holds, an 11-bit signed number (R230). -/
def qClr2 : List Word := [0x1000007FE, 0, 0, 0, 0, 0, 0, 0]
def arrived : Part := { part0 with arrived := some 5 }
theorem test_engine_clear : out (exec (.engineCommandStart 30 0 0) (engined 1 qClr2 arrived true (some 1))) (fun t => (partsOf t, t.engines.map (fun e => (e.a0.anchor, e.a0.range)))) =
    some ([(true, false, true, 0)], [(-2, false)]) := by decide
/-- A sum of products on an accumulator of anchor −2 (R48, R49): 15 and 0.25; then −1.5 and −0.5 steps, each rounded to even. -/
theorem test_accumulate : State.addTerms (-2) [.fin false 15 0, .fin false 1 (-2)] (0, false, false) = (61, false, false) ∧ State.addTerms (-2) [.fin true 3 (-3), .fin true 1 (-3)] (4, false, false) = (2, true, false) := by decide
def finished (f code info : Nat) : State := engined f qClr { arrived with started := true, done := true, code := code, sub := 0, faddr := 0x77, info := info } true (some 1)
theorem test_engine_complete : out (exec (.engineCommandComplete 30) (finished 1 0 0)) (fun t => (t.threads.map (fun x => (x.s[1], x.ops.length)), t.cmds.length)) = some ([(0, 0)], 0) ∧
    out (exec (.engineCommandComplete 30) (finished 2 9 256)) (fun t => t.threads.map (fun x => (x.s[1], x.held.map (fun f => (f.code, f.faddr))))) = some [(0x90100, [(9, 0x77)])] ∧
    out (exec (.mfenceComplete 8) { finished 9 0 0 with threads := [{ th 8 with ops := [op 30 none] }] }) (fun t => (t.cmds.length, t.threads.map (·.ops.length))) = some (0, [0]) := by decide
theorem test_witness_EnginesPerform : ((engined 1 qClr part0 true none).cmds = [cmdOf 1 qClr part0] ∧ (engined 1 qClr part0 true none).rot.pause = none ∧ (engined 1 qClr part0 true none).trust.tripped = false ∧
      (∃ x, (engined 1 qClr part0 true none).thread? 8 = some x ∧ ∀ o ∈ x.ops, o.acc = false) ∧
      (∃ a ∈ (engined 1 qClr part0 true none).caps, a.o = 1 ∧ a.l = State.engSlot (cmdOf 1 qClr part0) 0 ∧ a.x = State.engX (cmdOf 1 qClr part0) 0 ∧ capMatches a.val aCap = true) ∧
      ((engined 1 qClr part0 true none).engineOf (cmdOf 1 qClr part0) 0 0).tag = none) ∧
    (∃ o, ((engined 1 qClr part0 true (some 4)).engineOf (cmdOf 1 qClr part0) 0 0).tag = some o ∧ o ≠ 1) ∧
    (¬∃ a ∈ (engined 1 qClr part0 false none).caps, a.o = 1) ∧
    (engined 1 qClr2 arrived true (some 1)).resident 1 (State.engSlot (cmdOf 1 qClr2 arrived) 0) = true ∧
    (∃ x o, (finished 1 0 0).thread? 8 = some x ∧ x.ops = [o] ∧ o.id = 30 ∧ o.dest = some (.s 1) ∧ o.disc = false ∧ o.rsv = false ∧ x.strm = none ∧ ((finished 1 0 0).owner 1).frozen = false) ∧
    (∃ x o, ({ finished 9 0 0 with threads := [{ th 8 with ops := [op 30 none] }] } : State).thread? 8 = some x ∧ x.ops = [o] ∧ o.id = 30 ∧ o.dest = none) :=
  ⟨⟨rfl, rfl, rfl, ⟨_, rfl, by decide⟩, ⟨_, List.mem_singleton.mpr rfl, by decide⟩, by decide⟩, ⟨4, by decide, by decide⟩, by simp [engined], by decide,
    ⟨_, _, rfl, rfl, rfl, rfl, rfl, rfl, rfl, rfl⟩, ⟨_, _, rfl, rfl, rfl, rfl⟩⟩
/-- The command of qMma with the rows of A and of B already fetched, 32 bytes in each. -/
def cMma : Cmd := let c := cmdOf 3 qMma arrived; { c with rows := (State.partRows c arrived).map (fun k => { op := k.1, r := k.2, got := List.replicate (State.spanOf c k).n (some 0) }) }
theorem cMma_row (k : Nat × Nat) (h : k ∈ State.partRows cMma arrived) : State.rowOf cMma k = { op := k.1, r := k.2, got := List.replicate (State.spanOf cMma k).n (some 0) } := by
  have : ∀ L : List (Nat × Nat), k ∈ L → ((L.map (fun k => ({ op := k.1, r := k.2, got := List.replicate (State.spanOf cMma k).n (some 0) } : FRow))).find? (fun x => x.op == k.1 && x.r == k.2)) =
      some { op := k.1, r := k.2, got := List.replicate (State.spanOf cMma k).n (some 0) } := by
    intro L
    induction L with
    | nil => nofun
    | cons y L ih =>
      intro h
      rw [List.map_cons, List.find?_cons]
      by_cases e : y = k
      · subst e; simp
      · have : (y.1 == k.1 && y.2 == k.2) = false := by rw [Bool.eq_false_iff]; simp; intro a b; exact e (Prod.ext a b)
        simp only [this]
        exact ih (by simpa [Ne.symm e] using h)
  simp only [State.rowOf]
  exact congrArg (fun y => Option.getD y _) (this _ h)
theorem test_witness_EnginesPerform_mma : State.partAbsent ((engined 3 qMma arrived true (some 1)).fetchPart cMma arrived) arrived = none ∧
    State.partFails ((engined 3 qMma arrived true (some 1)).fetchPart cMma arrived) arrived = [] := by
  have h := Laws.fetchPart_fetched (engined 3 qMma arrived true (some 1)) cMma arrived (fun k h => by rw [cMma_row k h]; simp)
    (fun k h x hx => by rw [cMma_row k h] at hx; simp at hx; simp [hx])
  simp only [State.partAbsent, State.partFails, h.1, h.2]
  refine ⟨List.findSome?_eq_none_iff.mpr fun k hk => ?_, List.flatMap_eq_nil_iff.mpr fun k hk => ?_⟩
  · rw [cMma_row k hk]; simp
  · rw [cMma_row k hk]
theorem test_witness_EnginesPerform_count : 8 ≤ bits (qd qMma 5) 15 0 := by decide

/-- A mailbox that holds one command. -/
def copying (m : Copy) : State := { idle [th 8] with cores := [{ pl := ⟨1, 0, 0⟩, mbox := [m] }], mem := ({} : Mem).write (scrKey ⟨1, 0, 0⟩ 0x80) [1, 2, 3, 4, 5, 6, 7, 8, 9] }
/-- 16 bytes from offset 0x80 to offset 0x100; the index array of gather at 0x80; the status word at 0x200. -/
def qUnit (st : Word) : List Word := [0x800000000080, 0x800000000100, 0x1000010, 0, 0x800000000080, 0, 0, st]
def copy0 (k : Nat) (st : Word) : Copy := { mb := 0, id := 30, uid := 8, kind := k, q := qUnit st }
/-- A write of two bytes that is not yet performed. -/
def sentOne : CWrite := { n := 0, ea := 0x800000000100, loc := .scr ⟨1, 0, 0⟩ 0x100, bytes := [1, 2] }
def mboxOf (t : State) : List Copy := (t.core ⟨1, 0, 0⟩).mbox
theorem test_copy : out (exec (.copyCommandBegin 1 0 0) (copying (copy0 0 0))) (fun t => (mboxOf t).map (·.begun)) = some [true] ∧
    out (exec (.copyCommandBegin 1 0 0) (copying (copy0 3 0))) (fun t => (mboxOf t).map (·.idx)) = some [[0x04030201]] ∧
    out (exec (.copyUnitTurn 1 0 0) (copying { copy0 0 0 with begun := true })) (fun t => (mboxOf t).map (fun m => (m.unit, m.finished, m.wq))) =
      some [(1, true, [{ n := 0, ea := 0x800000000100, loc := .scr ⟨1, 0, 0⟩ 0x100, bytes := [1, 2, 3, 4, 5, 6, 7, 8, 9, 0, 0, 0, 0, 0, 0, 0] }])] ∧
    out (exec (.copyCommandComplete 1 0 0) (copying { copy0 0 0 with begun := true, unit := 1, finished := true, wq := [sentOne] })) (fun t => (t.mem.read (scrKey ⟨1, 0, 0⟩ 0x100) 3, (mboxOf t).length)) =
      some ([1, 2, 0], 0) ∧
    out (exec (.copyCommandComplete 1 0 0) (copying { copy0 0 0x800000000200 with begun := true, unit := 1, finished := true })) (fun t => (leNat (t.mem.read (scrKey ⟨1, 0, 0⟩ 0x200) 8), (mboxOf t).length)) =
      some (0x100000000, 0) := by decide +kernel
theorem test_witness_CopyUnitsMove : (((copying (copy0 0 0)).core ⟨1, 0, 0⟩).mbox = [copy0 0 0] ∧ (copying (copy0 0 0)).resident 1 0 = true ∧ (copying (copy0 0 0)).rot.pause = none ∧ (copying (copy0 0 0)).trust.tripped = false ∧
      (∃ x, (copying (copy0 0 0)).thread? 8 = some x ∧ ∀ y ∈ x.ops, y.acc = false)) ∧
    ((copying (copy0 3 0)).region ⟨1, 0, 0⟩ (BitVec.ofNat 48 (qd (qUnit 0) 4)) = .scr ⟨1, 0, 0⟩ 0x80 ∧ ∀ i, i < bits (qd (qUnit 0) 2) 39 24 → (copying (copy0 3 0)).mem.poisoned (scrKey ⟨1, 0, 0⟩ 0x80 + 4 * i) = false) ∧
    (MemOk (copying (copy0 0 0)) ∧ bits (qd (qUnit 0) 2) 23 0 = 16 ∧ bits (qd (qUnit 0) 5) 4 2 = 0 ∧ (copying (copy0 0 0)).region ⟨1, 0, 0⟩ (BitVec.ofNat 48 (bits (qd (qUnit 0) 0) 47 0)) = .scr ⟨1, 0, 0⟩ 0x80 ∧
      (copying (copy0 0 0)).region ⟨1, 0, 0⟩ (BitVec.ofNat 48 (bits (qd (qUnit 0) 1) 47 0)) = .scr ⟨1, 0, 0⟩ 0x100 ∧ (copying (copy0 0 0)).mem.poisoned (scrKey ⟨1, 0, 0⟩ 0x80) = false) ∧
    (bits (qd (qUnit 0) 7) 47 0 = 0 ∧ bits (qd (qUnit 0x800000000200) 7) 47 0 ≠ 0 ∧ (copying (copy0 0 0)).region ⟨1, 0, 0⟩ (BitVec.ofNat 48 (qd (qUnit 0x800000000200) 7)) = .scr ⟨1, 0, 0⟩ 0x200) := by
  refine ⟨⟨by decide, by decide, rfl, rfl, ⟨_, rfl, by decide⟩⟩, ⟨by decide, ?_⟩, ⟨by unfold MemOk; decide, by decide, by decide, by decide, by decide, by decide⟩, by decide, by decide, by decide⟩
  intro i h; simp only [Mem.poisoned, copying]; decide +revert

def publishing : State := (idle [{ th 8 with park := .publish 2 }]).setOwner 1 { own1 with pairs := [{ k := 2, vbase := 0x40000000, size := 65536, back0 := 0, back1 := 65536 }] }
theorem test_pair_exchange : out (exec (.pairExchange 8) publishing) (fun t => ((t.owner 1).pairs.map (·.cur), t.threads.map (·.woken))) = some ([true], [true]) := by decide
theorem test_witness_PairsExchange : ∃ x, publishing.thread? 8 = some x ∧ x.park = .publish 2 ∧ x.woken = false ∧ (∀ o ∈ x.ops, o.acc = false ∧ o.cmd = false) ∧
    (∀ c ∈ publishing.cores, ∀ m ∈ c.mbox, m.uid ≠ 8) ∧ (∀ c ∈ publishing.cmds, c.uid ≠ 8) ∧ (publishing.owner x.pl.o).frozen = false :=
  ⟨_, rfl, rfl, rfl, by decide, by decide, by decide, by decide⟩

/-- A record of KIND 0 in DRAM at 0x20000, for queue 5; priority, COUNT and ENTRY as given. -/
def spawning (cfg q0 q1 : Word) (n : Nat) : State :=
  let s := asked base (some (.s 1)) (.dram 1 0x20000 .cacheable) (.spawn 5 [])
  { s with mem := ({} : Mem).write (s.dramKey 1 0x20000) (quadBytes [q0, q1]),
           graph := { wqcfg := [(5, cfg)], recs := List.replicate n { q := [], nodes := [], wq := 5, fn := none, o := 1 } } }
def cfg5 : Word := 0x8110000000000000
def q0of (prio count : Nat) : Word := BitVec.ofNat 64 (count * 2 ^ 32 + 5 * 2 ^ 8 + prio * 16)
def spawned (s : State) : Option (List Nat × Nat × Nat × BitVec 32) :=
  out (exec (.recordArrive 30) s) (fun t => (t.threads.flatMap (fun x => x.ops.map (fun o => (o.res.map (·.toNat)).getD 999)), t.graph.recs.length, alGet 0 5 t.graph.refused, (t.owner 1).nextTid))
theorem test_spawn : spawned (spawning cfg5 (q0of 1 4) 0x1000 0) = some ([1], 1, 0, 5) ∧ spawned (spawning 0 (q0of 1 4) 0x1000 0) = some ([2 ^ 63 + 1], 0, 1, 1) ∧
    spawned (spawning cfg5 (q0of 1 4) 0x1000 64) = some ([2 ^ 63 + 2], 64, 1, 1) ∧ spawned (spawning cfg5 (q0of 1 4) 0x1004 0) = some ([2 ^ 63 + 3], 0, 1, 1) ∧
    spawned (spawning cfg5 (q0of 2 4) 0x1000 0) = some ([2 ^ 63 + 5], 0, 1, 1) := by decide +kernel
def spawnReq : Req := { theReq (.dram 1 0x20000 .cacheable) (.spawn 5 []) with id := 30 }
def recQ (s : State) : List Word := quadsOf 16 (s.mem.read (s.dramKey 1 0x20000) 128)
theorem test_witness_RecordsArrive : (Arriving (spawning cfg5 (q0of 1 4) 0x1000 0) 30 spawnReq ∧ (spawning cfg5 (q0of 1 4) 0x1000 0).poisonedKey (base.dramKey 1 0x20000) = false ∧
      bit cfg5.toNat 63 = true ∧ bits cfg5.toNat 55 52 = 1 ∧ recBad 2 false (recQ (spawning cfg5 (q0of 1 4) 0x1000 0)) = false ∧ bits (qd (recQ (spawning cfg5 (q0of 1 4) 0x1000 0)) 0) 5 4 ≤ bits cfg5.toNat 57 56 ∧
      bits (qd (recQ (spawning cfg5 (q0of 1 4) 0x1000 0)) 0) 3 0 = 0) ∧
    Arriving (spawning 0 (q0of 1 4) 0x1000 0) 30 spawnReq ∧
    (Arriving (spawning cfg5 (q0of 1 4) 0x1000 64) 30 spawnReq ∧ 64 ≤ ((spawning cfg5 (q0of 1 4) 0x1000 64).graph.recs.filter (fun x => x.wq == 5)).length) ∧
    (Arriving (spawning cfg5 (q0of 1 4) 0x1004 0) 30 spawnReq ∧ recBad 2 false (recQ (spawning cfg5 (q0of 1 4) 0x1004 0)) = true) ∧
    (Arriving (spawning cfg5 (q0of 2 4) 0x1000 0) 30 spawnReq ∧ bits cfg5.toNat 57 56 < bits (qd (recQ (spawning cfg5 (q0of 2 4) 0x1000 0)) 0) 5 4) := by
  unfold Arriving; decide +kernel

/-- A record of owner 1 that waits in queue 5, with K in s9, two tasks of priority 1, and ENTRY 0x1000. -/
def aRec : Rec := { q := [], nodes := [{ q := [0x209000510, 0x1000, 0x2003, 0x0, 0, 0, 11, 12, 13, 14, 15, 16], tid := 70 }], wq := 5, fn := none, o := 1 }
def recorded : State := { idle [] with graph := { recs := [aRec] } }
theorem test_launch_start : out (exec (.launchStart 5) recorded) (fun t => (t.graph.recs.length, t.graph.launches.map (·.id), t.graph.ready.map (fun r => (r.k, r.prio)), (t.owner 1).launched)) =
    some (0, [20], [(0, 1), (1, 1)], true) := by decide
def aLaunch : Launch := { id := 20, r := aRec, runs := [{ st := .ready, undisp := 2 }] }
def aReady : Machine.Ready := { o := 1, launch := 20, node := 0, k := 1, prio := 1 }
/-- One inbox for each owner: the table at platform 0x8000 holds MAX = 1 for owner 1. -/
def launched : State :=
  { idle [] with graph := { launches := [aLaunch], ready := [aReady] }, regs := { inbt := 0x8000 }, mem := ({} : Mem).write (base.dramKey 0 (0x8000 + 16 + 8)) [1] }
theorem test_dispatch : out (exec (.taskDispatch 1) launched) (fun t => (t.graph.ready.length, t.graph.inboxes.map (·.tid), t.graph.packets.map (fun k => (k.t.pl, k.t.pc, k.t.tid, k.t.trapb, k.t.s[1], k.t.s[6], k.t.s[9])))) =
    some (0, [71], [(⟨1, 0, 0⟩, 0x1000, 71, 0x2000, 11, 16, 1)]) := by decide +kernel
theorem test_witness_LaunchesStartAndDispatch : (recorded.rot.pause = none ∧ (recorded.owner 1).frozen = false ∧ recorded.unplaced 1 = false ∧ recorded.graph.recs = [aRec] ∧ aRec.wq = 5 ∧ (recorded.owner 1).stepped = false ∧
      recorded.graph.launches = [] ∧ (∃ n, aRec.nodes = [n] ∧ n.succ = [])) ∧
    (launched.unplaced 1 = false ∧ launched.graph.ready = [aReady] ∧ launched.graph.launches = [aLaunch] ∧ aLaunch.r = aRec ∧ launched.inboxFree 1 = true ∧ launched.graph.placing = [] ∧
      ∃ n, aRec.nodes = [n] ∧ bits (qd n.q 0) 3 0 = 0 ∧ bit (qd n.q 0) 6 = false) :=
  ⟨⟨rfl, rfl, by decide, rfl, rfl, rfl, rfl, ⟨_, rfl, rfl⟩⟩, ⟨by decide, rfl, rfl, rfl, by decide +kernel, rfl, ⟨_, rfl, by decide, by decide⟩⟩⟩

/-! ### Owners, pauses, ports -/

/-- The tables stand at platform 0x40000; owner 2 is described there: slice 9, stack 7, and no extents. Key slots 2 and 3 hold keys. -/
def described : State :=
  let s := { idle [] with regs := { owntb := 0x40000, ownsel := 2, capsel := 0x120 }, trust := { boot := false, keys := [(2, 0), (3, 0)] } }
  { s with mem := ((((({} : Mem).write (s.dramKey 0 0x42000) [9]).write (s.dramKey 0 0x42040) [1]).write (s.dramKey 0 0x42042) [1]).write (s.dramKey 0 0x42800) [7]) }
def cfg2 : Word := 0x81000010C0000000
set_option maxRecDepth 4000 in
theorem test_owner_enable : out (exec (.ownerEnable cfg2) described) (fun t => ((t.owner 2).cfg, (t.owner 2).desc.mica, (t.owner 2).desc.dram, (t.owner 2).err)) = some (cfg2, [9], [7], 0) ∧
    out (exec (.ownerEnable 0x8100000000000000) described) (fun t => ((t.owner 2).cfg, (t.owner 2).err)) = some (0x0100000000000000, 4) ∧
    out (exec (.ownerEnable 0xE100001080000000) described) (fun t => (t.owner 2).err) = some 1 := by decide +kernel
/-- Owner 2 holds one slot. -/
def enabled2 : State := described.setOwner 2 { cfg := cfg2, desc := { mica := [9], dram := [7] } }
def atSlot0 : State := { enabled2 with regs := { enabled2.regs with capsel := 0x20 } }
theorem test_capent : out (exec (.capentWrite 0x0001FF8001020000) atSlot0) (fun t => t.caps.map (fun c => (c.o, c.l, c.x, c.k, c.val))) = some [(2, 0, 2, 0, 0x0001800001020000)] ∧
    out (exec (.capentWrite 0x0000800001020000) atSlot0) (fun t => t.caps.length) = some 0 ∧ out (exec (.capentWrite 0x0001800001020000) enabled2) (fun t => t.caps.length) = some 0 ∧
    out (exec (.rrangeWrite 3 0xFFFFFFFFFFFFFFFF) atSlot0) (fun t => (t.owner 2).rrange[3]) = some 0x80FFFFFFFFFFFFF0 := by decide
def stopping (c : Nat) : State := (idle [{ th 8 with park := .frz 1 }]).setOwner 1 { own1 with freezing := some c }
theorem test_freeze_start : out (exec (.freezeStart 1) (stopping 2)) (fun t => ((t.owner 1).frozen, (t.owner 1).vcause, t.trust.events.map (fun e => (e.ty, e.cause)), t.threads.map (·.woken))) = some (true, 2, [(1, 2)], [true]) ∧
    out (exec (.freezeStart 1) (stopping 0x81)) (fun t => (t.enabled 1, (t.owner 1).inScrub, t.progStage, t.trust.pendings.length)) = some (false, true, 0, 0) := by decide +kernel
def changing : State := { idle [{ th 8 with park := .waypart 5 }] with slices := [{ n := 5, ways := 2, target := some (2, 1), size := 1 }], mem := ({} : Mem).write (sliceKey 5 0xFFFFF) [1, 2] }
theorem test_waypart : out (exec (.waypartComplete 5) changing) (fun t => (t.slices.map (fun x => (x.ways, x.target)), t.mem.read (sliceKey 5 0xFFFFF) 2, t.threads.map (·.woken))) = some ([(1, none)], [1, 0], [true]) := by decide
def noting : State := { idle [] with regs := { evrb := 0x9000, evrn := 8, evtl := 7, evhd := 3 }, trust := { boot := false, evseq := 40, events := [{ ty := 0x16, o := 3, cause := 2, fn := 5, data := 99 }] } }
theorem test_event : out (exec (.eventAccept 0) noting) (fun t => (t.regs.evtl, t.trust.evseq, t.trust.events.length, quadsOf 4 (t.mem.read (t.dramKey 0 (0x9000 + 32 * 7)) 32))) = some (0, 41, 0, [40, 0x500020316, 16, 99]) := by decide +kernel
theorem test_special_writes : out (exec (.registerWrite 0x880 0xFFFFFFFFFFFFFFFF) base) (·.regs.rotiv) = some 0x800000000000FFFF := by decide
theorem test_witness_OwnersAndEvents : (bit cfg2.toNat 63 = true ∧ described.enabled 2 = false) ∧ bits enabled2.regs.capsel.toNat 15 8 ≥ enabled2.nslot 2 ∧
    (bits atSlot0.regs.capsel.toNat 15 8 < atSlot0.nslot 2) ∧
    (((stopping 2).owner 1).freezing = some 2 ∧ (stopping 2).rot.pause = none ∧ (stopping 2).clk.quartz.toNat % 8 = 0) ∧ ((stopping 0x81).owner 1).freezing = some 0x81 ∧
    ((changing.slice 5).target = some (2, 1) ∧ changing.net = []) ∧
    (∃ e, noting.trust.events = [e] ∧ e.seq = none ∧ MemOk noting ∧ (noting.regs.evtl.toNat + 1) % bits noting.regs.evrn.toNat 15 0 ≠ noting.regs.evhd.toNat ∧ bit noting.regs.evnq.toNat 63 = false ∧
      noting.lostKey (noting.dramKey 0 (noting.regs.evrb.toNat + 32 * noting.regs.evtl.toNat)) = false) :=
  ⟨by decide, by decide, by decide, by decide, by decide, by decide, ⟨_, rfl, rfl, by unfold MemOk; decide, by decide, by decide, by decide⟩⟩
set_option maxRecDepth 4000 in
theorem test_witness_OwnersAndEvents_codes : described.enableCode 2 cfg2.toNat = 0 ∧ described.enableCode 2 0x8100000000000000 = 4 := by decide +kernel

/-- Two tenancies at index 0; the count is the first multiple of the rotation interval, 80 · 2^20. -/
def timed (q : Word) (p : Option Pause) : State :=
  { idle [] with clk := { quartz := q, id := 20 }, regs := { tsiv := 1 },
                 rot := { tens := [{ idx := 0, k := 0, o := 1, l := 0 }, { idx := 0, k := 1, o := 1, l := 1 }], pause := p } }
def pause0 (ph : Phase) : Pause := { q0 := 0x5000000, phase := ph, moves := true, switch := false, drained := true }
def pauseOf (t : State) : Option (Phase × Bool × Bool) := t.rot.pause.map (fun p => (p.phase, p.moves, p.switch))
theorem test_pause_due : out (exec .rotationDue (timed 0x5000000 none)) pauseOf = some (some (.stop, true, false)) ∧ out (exec .rotationDue (timed 0x5000008 none)) pauseOf = some none ∧
    out (exec .switchDue (timed 0x5000000 none)) pauseOf = some (some (.stop, false, true)) ∧ out (exec .switchDue (timed 0x5000000 (some (pause0 .stop)))) pauseOf = some (some (.stop, true, true)) := by decide
theorem test_pause_phases : out (exec .routerFlush (timed 0x5000200 (some (pause0 .stop)))) pauseOf = some (some (.flushed, true, false)) ∧ out (exec .routerFlush (timed 0x50001FF (some (pause0 .stop)))) pauseOf = some (some (.stop, true, false)) ∧
    out (exec .rotationMove (timed 0x5000208 (some (pause0 .flushed)))) (fun t => t.rot.pause.map (fun p => (p.phase, p.endAt))) = some (some (.moving, 0x5000208 + 49152)) ∧
    out (exec .moveEnd (timed 0x500C210 (some { pause0 .moving with endAt := 0x500C208 }))) pauseOf = some (some (.moved, true, false)) := by decide
/-- Qm: every tenancy stands at the next raster index, the last at index 0; then Qr, eight cycles later. -/
theorem test_slot_map_switch : out (exec .slotMapSwitch { timed 0x500C210 (some (pause0 .moved)) with rot := { tens := [{ idx := 63, k := 0, o := 1, l := 0 }, { idx := 4, k := 1, o := 1, l := 1 }], pause := some (pause0 .moved) } })
      (fun t => (t.rot.seq, t.rot.tens.map (fun y => (y.idx, y.k)), pauseOf t)) = some (1, [(0, 0), (5, 1)], some (.switched, true, false)) ∧
    out (exec .issueResume (timed 0x500C218 (some { pause0 .switched with endAt := 0x500C210 }))) pauseOf = some none ∧
    out (exec .issueResume (timed 0x500C210 (some { pause0 .switched with endAt := 0x500C210 }))) pauseOf = some (some (.switched, true, false)) := by decide +kernel
theorem test_engine_stop : out (exec (.engineStepStop 30 0 0) { timed 0x5000000 (some (pause0 .stop)) with cmds := [cmdOf 3 qMma { arrived with started := true, left := 4 }] }) (fun t => t.cmds.flatMap (fun c => c.parts.map (·.stopped))) =
    some [true] := by decide
theorem test_witness_PausesAdvance : let s := timed 0x5000000 none
    (0 < s.clk.quartz.toNat ∧ bit s.regs.rotiv.toNat 63 = false ∧ bits s.regs.rotiv.toNat 15 0 ≠ 0 ∧ s.clk.quartz.toNat % (bits s.regs.rotiv.toNat 15 0 * 2 ^ 20) = 0 ∧ s.rot.pause = none) ∧
    (bits s.regs.tsiv.toNat 15 0 ≠ 0 ∧ s.clk.quartz.toNat % (bits s.regs.tsiv.toNat 15 0 * 2 ^ 16) = 0 ∧ s.shared = true ∧ s.trust.scrubPause = false) ∧
    ((pause0 .moved).drained = true ∧ (pause0 .moved).scrub = false ∧ 0x500C210 % 8 = 0 ∧ (timed 0x500C210 (some (pause0 .moved))).rot.changes = [] ∧ (timed 0x500C210 (some (pause0 .moved))).rot.failed = [] ∧
      (timed 0x500C210 (some (pause0 .moved))).rot.hollow = []) ∧
    ((timed 0x500C218 (some (pause0 .switched))).graph.placing = [] ∧ ∀ o, o < 16 → ((timed 0x500C218 (some (pause0 .switched))).owner o).resumeWait = false) := by decide

/-- The port is up; the PF opens its memory space; VF 1 belongs to owner 1, whose queue 5 is its queue 0. -/
def ported : State :=
  { idle [] with
    host := { up := true, fns := [{ k := 0, en := true, present := true, memEn := true }, { k := 1, en := true, present := true, o := 1, memEn := true, msixEn := true, pba := [3] }] }
    graph := { wqcfg := [(5, 0x8110040000000000)], recs := [{ q := [], nodes := [], wq := 5, fn := some 1, o := 1 }] }
    mem := ({} : Mem).write (base.dramKey 0 0x300) [7, 8] }
def zeros (n : Nat) : List Byte := List.replicate n 0
set_option maxRecDepth 4000 in
theorem test_host_port : out (exec (.hostPost 1 0 (zeros 128)) ported) (fun t => t.graph.arrivals.map (fun a => (a.wq, a.fn, a.o, a.q.length))) = some [(5, some 1, 1, 16)] ∧
    out (exec (.hostMemoryRead 0 0x300 2) ported) (·.host.sent) = some [.readDone 0 [7, 8]] ∧ out (exec (.hostMemoryWrite 0 0x301 [9]) ported) (fun t => t.mem.read (t.dramKey 0 0x300) 2) = some [7, 9] := by decide +kernel
theorem test_functions : out (exec (.vfFlr 1) ported) (fun t => (t.graph.recs.length, (t.fn? 1).map (fun f => (f.memEn, f.pba)))) = some (0, some (false, [])) ∧
    out (exec .linkDown ported) (fun t => (t.host.up, t.host.fns.map (fun f => (f.present, f.memEn)))) = some (false, [(true, false), (false, false)]) ∧
    out (exec .pfFlr ported) (fun t => (t.host.up, t.graph.recs.length)) = some (true, 0) ∧ out (exec .hotReset ported) (fun t => t.host.vfEnable) = some false ∧
    out (exec (.configurationWrite 1 0 0) ported) (fun t => (t.fn? 1).map (·.memEn)) = some (some false) ∧ out (exec (.configurationWrite 1 2 3) ported) (fun t => (t.fn? 1).map (·.d3)) = some (some true) ∧
    out (exec (.msixVectorUnmask 1 3) ported) (fun t => (t.host.sent, (t.fn? 1).map (·.pba))) = some ([.msix 1 3], some []) ∧ out (exec .linkUp base) (·.host.up) = some true ∧
    out (exec (.spdmRequest 0x84) ported) (·.host.sent) = some [.spdm 4 [0x13]] ∧
    out (exec (.ixnarLinkStateChange 4 true) ported) (·.regs.ixup) = some 16 := by decide +kernel
/-- Owner 1's entry 2, in the table at platform 0xA000, names device 6 with owner 3 over IA 0 to 0x3FFFF; its stage 2 maps IA 0 to offset 0. -/
def peered : State :=
  let s := { walked with host := ported.host, regs := { ixtb := 0xA000 }, walks := [], threads := [] }
  let b := 0xA000 + 4096 + 512 + 64
  { s with mem := (((s.mem.write (s.dramKey 0 b) [1]).write (s.dramKey 0 (b + 8)) [0, 0, 4]).write (s.dramKey 0 (b + 24)) [6, 3]).write (s.dramKey 1 0x300) [5, 6] }
def peerLoad (dev : Nat) : IxReq := { dev := dev, sown := 3, own := 1, ia := 0x300, op := .load 2 }
set_option maxRecDepth 4000 in
theorem test_peers : out (exec (.ixnarInboundRequest (peerLoad 6)) peered) (·.host.sent) = some [.ixReply 6 true [5, 6]] ∧ out (exec (.ixnarInboundRequest (peerLoad 7)) peered) (·.host.sent) = some [.ixReply 7 false []] := by decide +kernel
set_option maxRecDepth 4000 in
theorem test_witness_HostAndPeers : (ported.host.up = true ∧ ported.trust.power = true ∧ ported.trust.boot = false ∧ ported.trust.recovery = false ∧ ported.trust.tripped = false ∧ ported.rot.pause = none ∧ ported.host.held = []) ∧
    (∃ f, ported.fn? 1 = some f ∧ f.present = true ∧ f.en = true ∧ f.frozen = false ∧ f.memEn = true ∧ f.d3 = false ∧ f.msixEn = true ∧ f.pba = [3]) ∧ ported.queueOf 1 (0 / 128) = some 5 ∧
    (∃ f, ported.fn? 0 = some f ∧ f.present = true ∧ f.en = true ∧ f.frozen = false ∧ f.memEn = true ∧ f.d3 = false) ∧ 0x300 < ported.dramSize 0 ∧ ported.heldBack (.dram 0 0x300 .cacheable) = false ∧
    ported.poisonedKey (ported.dramKey 0 0x300) = false ∧ ported.lostKey (ported.dramKey 0 0x300) = false ∧ MemOk ported ∧
    (peered.host.up = true ∧ peered.rot.pause = none ∧ peered.host.held = [] ∧ peered.admits (peerLoad 7) (some 0x300) = false) ∧
    (peered.admits (peerLoad 6) (some 0x300) = true ∧ peered.inboundLoc (peerLoad 6) false = some (.dram 1 0x300 .cacheable) ∧ peered.heldBack (.dram 1 0x300 .cacheable) = false ∧
      peered.poisonedKey (peered.locKey (.dram 1 0x300 .cacheable)) = false) := by
  refine ⟨by decide, ⟨_, rfl, by decide⟩, by decide +kernel, ⟨_, rfl, by decide⟩, by decide +kernel, by decide, by decide, by decide, by unfold MemOk; decide, by decide +kernel, by decide +kernel⟩

/-! ### Steps, images, pulls, installs, failures -/

def own1With (s : State) (f : Owner → Owner) : State := s.setOwner 1 (f (s.owner 1))
def stepped1 (h : Bool) : State :=
  { own1With (idle []) (fun x => { x with stepcfg := 0x8000000000000000, stepped := true, num := 6, held := h, local_ := h }) with graph := { packets := [packet .stepped] } }
theorem test_steps : out (exec (.stepReadyToken 1 6 7) (stepped1 false)) (fun t => (t.owner 1).tokens) = some [(6, 7)] ∧
    out (exec (.localStop 1) (stepped1 false)) (fun t => ((t.owner 1).held, (t.owner 1).num, t.trust.events.map (·.ty))) = some (true, 7, [0x28, 0x29]) ∧
    out (exec (.stepResume 1) (stepped1 true)) (fun t => ((t.owner 1).held, t.graph.packets.map (fun k => (k.stage, k.t.step)))) = some (false, [(.flight, 6)]) := by decide
/-- Owner 1, held, with a manifest of one shard at IA 0x8000: 1 row of 128 elements of 1 byte in the scratchpad of core 0 of slot 0; the area is 1 MiB at platform 0x100000. -/
def slated (op : Nat) (h : Bool) : State :=
  let s := own1With { walked with walks := [], threads := [] } (fun x => { x with held := h, num := 6, slman := 0x8000 })
  { s with mem := s.mem.write (s.dramKey 1 0x8000) (quadBytes ([1, 0, 0, 0, 0, 0, 0, 0] ++ [1, 0, 0x100000000, 0x8000000001, 0, 0x8000000001, 128, 0])),
           regs := { sldst := 0x1000000100000, slcmd := 0x10 }, trust := { boot := false, slateOp := op, slateOwner := 1, keys := [(0, 5)] } }
def aShard : State.Shard := ⟨[1, 0, 0x100000000, 0x8000000001, 0, 0x8000000001, 128, 0]⟩
theorem test_slate_ends : out (exec .slateWriteImage (slated 1 false)) (·.trust.slateOp) = some 101 ∧ out (exec .slateRestore (slated 2 true)) (·.trust.slateOp) = some 104 ∧
    out (exec (.slateCommandEnd 4) (slated 104 true)) (fun t => (t.trust.slateOp, t.regs.slcmd, t.trust.events.map (fun e => (e.ty, e.o, e.data)))) = some (0, 0x410, [(0x2A, 1, 4)]) := by decide +kernel
theorem test_witness_StepsImagesAndPulls_images : ((slated 1 true).owner 1).held = true ∧ ((slated 1 true).imageKey 1) = some 5 ∧
    (∃ es, (slated 1 true).manifest 1 = some es ∧ es.length = 1) ∧ (slated 2 true).verified 1 5 = none := by
  refine ⟨by decide, by decide +kernel, ⟨[aShard], by decide +kernel, rfl⟩, by decide +kernel⟩
theorem test_witness_StepsImagesAndPulls_fits : ((slated 1 true).imageBody 1 [aShard]).length + 4096 ≤ (slated 1 true).areaSize := by decide +kernel
/-- A header that stands in the area names the commit offset 4096. -/
def headed : State := let s := slated 4 true; { s with mem := (s.mem.write (s.dramKey 0 0x100000) (leBytes 8 0x54414C53)).write (s.dramKey 0 0x100030) (leBytes 8 4096) }
theorem test_witness_StepsImagesAndPulls_commit : headed.trust.slateOp = 4 ∧ headed.imageKey 1 = some 5 ∧ headed.headerC = some 4096 := by decide +kernel
/-- A pull of page 0 of owner 1 is in flight; its bitmap stands at platform 0x50000, with the bit of the page set. -/
def pulling (start : Nat) : State :=
  let s := own1With (idle []) (fun x => { x with pullcfg := 0x8000000000050000 })
  { s with mem := ({} : Mem).write (s.dramKey 0 0x50000) [1], trust := { boot := false, pulls := [{ o := 1, page := 0, start := start }] }, clk := { quartz := 0x1000010, id := 20 } }
/-- Owner 1, held, serves entry 2 of its peers: device 6 with owner 3. -/
def serving (h : Bool) : State :=
  own1With { peered with owners := peered.owners } (fun x => { x with held := h, stepcfg := 0x8000000000000004 })
theorem test_pull_refused : out (exec (.pullRequestServe 1 6 3 0) (serving false)) (·.host.sent) = some [.pullNo 6 3 0] := by decide
set_option maxRecDepth 4000 in
theorem test_witness_StepsImagesAndPulls_pulls : (((serving true).owner 1).held = true ∧ (∃ k ∈ (serving true).stepPeers 1, (serving true).peerDev 1 k = 6 ∧ (serving true).peerRown 1 k = 3) ∧ 65536 * (0 + 1) ≤ (serving true).dramSize 1) ∧
    ((pulling 16).pullFlying 1 0 = true ∧ MemOk (pulling 16) ∧ ((pulling 16).owner 1).desc.dram.Nodup ∧ (∀ j, j < 512 → (pulling 16).lostKey ((pulling 16).dramKey 1 (65536 * 0 + 128 * j)) = false)) ∧
    (∃ y ∈ (pulling 16).trust.pulls, y.o = 1 ∧ y.page = 0 ∧ y.start + 2 ^ 24 ≤ (pulling 16).clk.quartz.toNat) := by
  refine ⟨⟨by decide, ⟨2, by decide, by decide +kernel, by decide +kernel⟩, by decide⟩, ⟨by decide, by unfold MemOk; decide, by decide, by decide +kernel⟩, ⟨_, List.mem_singleton.mpr rfl, rfl, rfl, by decide⟩⟩
theorem test_witness_StepsImagesAndPulls : (stepped1 false).clk.quartz.toNat % 8 = 0 ∧ (stepped1 false).stopReady 1 = true ∧ (stepped1 false).stepPeers 1 = [] ∧ ((stepped1 false).owner 1).local_ = false ∧
    ((stepped1 true).owner 1).held = true ∧ (stepped1 true).unplaced 1 = false := by decide

/-- An install of one page from VA 0x10000 to the weight page at VA 0x1000000, which maps extent 7. -/
def qIns : List Word := [0x10000, 0x1000000, 0x4000, 0, 0, 0, 0, 0]
def ins0 (st : IState) : Install := { rid := 30, uid := 8, pl := ⟨1, 0, 0⟩, o := 1, q := qIns, st := st, inst := if st = .requested then 0 else 4, ext := 7 }
def installing (x : Install) : State :=
  { (idle [{ th 8 with ops := [{ op 30 (some (.s 1)) with acc := false, cmd := true }] }]).setOwner 1 { own1 with desc := { own1.desc with ibudget := 5 }, nextInst := 0xFFFFFFFF } with
    tlb := paged.tlb ++ [{ o := 1, l := 0, page := 0x1000000, size := 24, space := 1, out := 0, ia := 0, kind := .weight, w := true, x := false }],
    flash := { installs := [x] }, mem := (({} : Mem).write (extKey 7 5) [9]).write (base.dramKey 1 0x20000) [1, 2, 3] }
def insOf (t : State) : List (IState × Nat × BitVec 32 × Nat) := t.flash.installs.map (fun x => (x.st, x.code, x.inst, x.pages))
theorem test_install_arrive : out (exec (.installRequestArrive 30) (installing (ins0 .requested))) (fun t => (insOf t, (t.owner 1).nextInst, (t.owner 1).ibused)) = some ([(.waiting, 0, 0xFFFFFFFF, 0)], 1, 1) ∧
    out (exec (.installRequestArrive 30) (installing { ins0 .requested with q := qIns.set 0 0x10001 })) insOf = some [(.requested, 1, 0, 0)] := by decide +kernel
theorem test_install_erase : out (exec (.installPageProgrammed 30 true) (installing (ins0 .erasing))) (fun t => (insOf t, t.mem.getB (extKey 7 5), t.eraseCount 14, t.eraseCount 15)) = some ([(.programming, 0, 4, 0)], 0, 1, 1) := by decide +kernel
theorem test_install_end : out (exec (.installEnd 30) (installing { ins0 .programming with pages := 1 })) (fun t => ((t.extent 7).complete, (t.extent 7).len, t.flash.installs.map (fun x => (x.st, x.pushed)))) = some (true, 0x4000, [(.ended, some 20)]) ∧
    out (exec (.installEnd 30) (installing { ins0 .ended with pages := 1, pushed := some 20 })) (fun t => (insOf t, t.threads.flatMap (fun x => x.ops.map (·.res)))) = some ([(.ended, 0, 4, 1)], [some 4]) := by decide +kernel
def asking : State := { installing (ins0 .ended) with net := [{ id := 31, uid := 8, pl := ⟨1, 0, 0⟩, loc := .peer 1 0 0, kind := .wstat 4 }] }
theorem test_witness_InstallsRun : (∃ y, (installing (ins0 .requested)).thread? 8 = some y ∧ ∀ z ∈ y.ops, z.acc = false) ∧ (installing (ins0 .requested)).rot.pause = none ∧ (installing (ins0 .requested)).installCode (ins0 .requested) = 0 ∧
    ((installing (ins0 .requested)).owner 1).inScrub = false ∧ bits (qd (qIns.set 0 0x10001) 0) 47 0 % 16384 ≠ 0 ∧
    (∃ r, Arriving asking 31 r ∧ r.kind = .wstat 4) ∧
    (0 ≠ bits (qd qIns 2) 24 0 / 16384 ∧ MemOk (installing (ins0 .programming)) ∧ (installing (ins0 .programming)).installSrc (ins0 .programming) (16384 * 0) = some (.dram 1 0x20000 .cacheable) ∧
      (installing (ins0 .programming)).heldBack (.dram 1 0x20000 .cacheable) = false ∧ ∀ k, k < 128 → (installing (ins0 .programming)).poisonedKey ((installing (ins0 .programming)).dramKey 1 (0x20000 + 128 * k)) = false) ∧
    (1 = bits (qd qIns 2) 24 0 / 16384 ∧ bits (qd qIns 3) 47 0 = 0 ∧ bit (qd qIns 4) 0 = false) ∧ (installing (ins0 .programming)).net = [] := by
  refine ⟨⟨_, rfl, by decide⟩, rfl, by decide +kernel, by decide, by decide, ⟨_, ⟨rfl, by decide⟩, rfl⟩, ⟨by decide, by unfold MemOk; decide, by decide, by decide, by decide +kernel⟩, by decide, rfl⟩

def columned (c : Column) : State := { idle [] with cols := [c] }
def evs (t : State) : List (Nat × Word) := t.trust.events.map (fun e => (e.ty, e.data))
def colOf (t : State) : List (Nat × Nat × Nat × Nat) := t.cols.map (fun c => (c.st, c.lost, c.lost2, c.rbpos))
theorem test_patrol : out (exec (.patrolScrubRead 3 5 true) (idle [])) (fun t => (evs t, t.flash.bad)) = some ((List.range 6).map (fun i => (0x10, 0x3000000000000 + BitVec.ofNat 64 i)), [extKey 0 640 / 1024]) ∧
    out (exec (.patrolScrubRead 0 5 true) (idle [])) (fun t => (evs t, t.mem.poison)) = some ([], []) := by decide +kernel
theorem test_layers : out (exec (.layerLost 4 2) (idle [])) (fun t => (colOf t, evs t, t.rot.failed)) = some ([(1, 2, 15, 0)], [(0x11, 0x20004)], [(4, 2)]) ∧
    out (exec (.layerLost 4 5) (columned { k := 4, st := 1, lost := 2 })) (fun t => (colOf t, evs t)) = some ([(3, 2, 5, 0)], [(0x13, 0x20004)]) ∧
    out (exec (.rebuildSector 4 false) (columned { k := 4, st := 1, lost := 2, rbpos := 131071 })) (fun t => (colOf t, evs t)) = some ([(2, 2, 15, 131072)], [(0x12, 0x20004)]) ∧
    out (exec (.rebuildSector 4 true) (columned { k := 4, st := 1, lost := 2, rbpos := 3 })) (fun t => (colOf t, t.mem.poison)) = some ([(1, 2, 15, 4)], [(4 * 2 ^ 27 + 2 * 2 ^ 24) / 128 + 3]) ∧
    out (exec (.coreLogicFailure 9 7) (idle [])) (·.rot.failed) = some [(9, 7)] := by decide +kernel
theorem test_lanes_heat : out (exec (.laneFailure 9 3) { idle [] with rot := { spares := [(9, 3, 0)] } }) (fun t => (evs t, t.cols.map (·.halfDue))) = some ([(0x18, 0x30009)], [true]) ∧
    out (exec (.laneFailure 9 3) (timed 0x5000000 (some (pause0 .stop)))) (fun t => (evs t, t.rot.repairs.length)) = some ([(0x16, 0x30009)], 1) ∧
    out (exec (.refreshRateChange 9 8 true) (idle [])) (fun t => (evs t, t.cols.map (·.hot))) = some ([(0x19, 0x1080009)], [256]) ∧
    out (exec (.thermalEvent 9 3) (idle [])) evs = some [(3, 0x309)] ∧ out (exec (.thermalTrip 9 3) (idle [])) (fun t => (evs t, t.trust.tripDue)) = some ([(4, 0x309)], true) := by decide
theorem test_witness_FailuresAndHeat : (bit (idle []).regs.pscfg.toNat 63 = true ∧ ((idle []).column 4).st = 0 ∧ ((idle []).column 4).lost ≠ 2) ∧
    (((columned { k := 4, st := 1, lost := 2 }).column 4).st = 1 ∧ 5 ≠ ((columned { k := 4, st := 1, lost := 2 }).column 4).lost) ∧
    ((columned { k := 4, st := 1, lost := 2, rbpos := 131071 }).column 4).rbpos + 1 = 131072 ∧ (∃ p, (timed 0x5000000 (some (pause0 .stop))).rot.pause = some p) ∧
    ((({ idle [] with rot := { spares := [(9, 3, 0)] } } : State).regionSpares 9 3) = 0) ∧ bit ((idle []).column 9).hot 8 ≠ true := by
  refine ⟨by decide, by decide, by decide, ⟨_, rfl⟩, by decide, by decide⟩

/-! ### Trust, resets, and the whole machine -/

def metered (q : Word) (w : List MRec) : State :=
  { idle [] with clk := { quartz := q, id := 20 }, regs := { metcfg := 0x8000000000000001, metring := 0x60004 }, trust := { boot := false, waiting := w, heads := [(1, 6, 5)] } }
def scrubbing (n : Nat) (p : Option Pause) : State :=
  let s := ({ idle [th 8] with rot := { base.rot with pause := p }, tlb := paged.tlb, mem := (({} : Mem).write (scrKey ⟨1, 0, 0⟩ 9) [7]).write (sliceKey 5 3) [7] }).setProg true 1 n 4 0
  s.setOwner 1 { own1 with cfg := 0x0200000000000000, inScrub := true, frozen := true }
theorem test_teardown : out (exec .teardownTiles (scrubbing 2 (some { pause0 .flushed with scrub := true }))) (fun t => (t.progStage, t.threads.length, t.tlb.length, t.rot.tens.length, t.mem.cells.length)) = some (3, 0, 0, 0, 1) ∧
    out (exec .teardownSlices (scrubbing 3 none)) (fun t => (t.progStage, t.mem.cells.length, t.regs.scrubprog.toNat % 2 ^ 24)) = some (4, 1, 256) ∧
    out (exec .teardownDram (scrubbing 4 none)) (fun t => (t.progStage, t.regs.scrubprog.toNat % 2 ^ 24)) = some (5, 2304) ∧
    out (exec .teardownKeys (scrubbing 6 none)) (fun t => (t.progBusy, t.progStage, (t.owner 1).inScrub)) = some (true, 7, true) ∧
    out (exec .teardownKeys (scrubbing 7 none)) (fun t => (t.progBusy, (t.owner 1).inScrub, (t.owner 1).frozen, evs t)) = some (false, false, false, [(0x32, 0)]) := by decide +kernel
theorem test_teardown_areas : out (exec .teardownAreas (scrubbing 5 none)) (fun t => (t.progStage, t.regs.scrubprog.toNat % 2 ^ 24, t.flash.exts.map (fun x => (x.e, x.complete)))) = some (6, 4, [(7, false), (8, false)]) := by decide +kernel
theorem test_scrub_unit : ((scrubbing 3 none).scrubUnit.progDone, (scrubbing 3 none).scrubUnit.mem.cells.length, ((scrubbing 4 none).setProg true 1 4 4000 256).scrubUnit.progDone) = (1, 1, 257) := by decide +kernel
theorem test_witness_MeteringAndTeardown : (bit (metered 0x100000 []).regs.metcfg.toNat 63 = true ∧ bits (metered 0x100000 []).regs.metcfg.toNat 15 0 ≠ 0 ∧
      (metered 0x100000 []).clk.quartz.toNat % (bits (metered 0x100000 []).regs.metcfg.toNat 15 0 * 2 ^ 20) = 0 ∧ (metered 0x100000 []).enabled 1 = true) ∧
    (bits (metered 8 []).regs.metring.toNat 11 0 ≠ 0 ∧ (bits (metered 8 []).regs.metptr.toNat 11 0 + 1) % bits (metered 8 []).regs.metring.toNat 11 0 ≠ bits (metered 8 []).regs.metptr.toNat 27 16) ∧
    (∀ n : Fin 8, bit (scrubbing n none).regs.scrubprog.toNat 63 = true ∧ bits (scrubbing n none).regs.scrubprog.toNat 58 56 = n.val) ∧
    (bit (scrubbing 2 (some { pause0 .flushed with scrub := true })).regs.scrubprog.toNat 63 = true ∧ bits (scrubbing 2 (some { pause0 .flushed with scrub := true })).regs.scrubprog.toNat 58 56 = 2) := by decide +kernel
theorem test_witness_MeteringAndTeardown_waiting : ∃ r rs, (metered 8 [{ o := 1, oseq := 0, q := 3 }]).trust.waiting = r :: rs ∧ (metered 8 [{ o := 1, oseq := 0, q := 3 }]).rot.pause = none := ⟨_, _, rfl, rfl⟩

def kept : State := { idle [th 8] with mem := ((({} : Mem).write 5 [1]).write (extKey 3 0) [2]).write (bootKey 7) [3] }
theorem test_resets : out (exec (.powerOnReset true) kept) (fun t => (t.threads.length, t.mem.cells.map (·.2), t.clk.quartz, t.trust.boot)) = some (0, [2, 3], 0, true) ∧
    out (exec .powerLoss kept) (fun t => (t.threads.length, t.trust.power)) = some (0, false) ∧ out (exec .mgmtReset kept) (fun t => t.threads.length) = some 0 := by decide
theorem test_witness_ResetsAndBoot : State.reset.trust.boot = true ∧ State.reset.trust.power = true ∧ State.reset.trust.recovery = false ∧ State.reset.trust.pendings = [] := by decide

def recovering (st : Nat) (f : Trust → Trust) : State := { idle [] with trust := f { boot := false, recovery := true, rstate := st } }
theorem test_recovery : out (exec (.recoveryBegin 12288) (recovering 0 id)) (fun t => (t.trust.rstate, t.trust.rlen)) = some (1, 12288) ∧ out (exec (.recoveryBegin 12289) (recovering 5 id)) (fun t => (t.trust.rstate, t.trust.rerr)) = some (4, 6) ∧
    out (exec .recoveryAppend (recovering 1 (fun r => { r with rlen := 12288, rbuf := [(3, 9)] }))) (fun t => (t.trust.received, t.trust.rimage.length, t.trust.rimage.getD 3 0)) = some (4096, 4096, 9) ∧
    out (exec (.recoveryWriteDone true) (recovering 3 (fun r => { r with rimage := [7, 8] }))) (fun t => (t.trust.rstate, t.mem.getB (bootKey 1))) = some (5, 8) ∧
    out (exec (.recoveryWriteDone false) (recovering 3 id)) (fun t => (t.trust.rstate, t.trust.rerr)) = some (4, 7) ∧ out (exec .recoveryAbort (recovering 1 id)) (·.trust.rstate) = some 0 ∧
    out (exec .recoveryReset (recovering 0 id)) (·.trust.boot) = some true ∧ out (exec .recoveryCommit (recovering 1 id)) (·.trust.rstate) = some 2 ∧ (let t := (recovering 2 id).verifyImage; (t.trust.rstate, t.trust.rerr)) = (4, 1) ∧
    out (exec (.recoveryBufferWrite 8 0x1122) (recovering 1 id)) (·.trust.rbuf) = some [(8, 0x22), (9, 0x11)] := by decide +kernel
def watched (debug : Bool) : State := (idle [{ th 8 with row := 4, s := Vector.replicate 16 0x55 }]).setOwner 1 { own1 with frozen := true, desc := { own1.desc with debug := debug } }
theorem test_management : out (exec (.mgmtReadreg 1 0 4 3) (watched true)) (fun t => (t.host.sent, evs t)) = some ([.debug 1 [0x55, 0, 0, 0, 0, 0, 0, 0]], [(0x33, 0)]) ∧
    out (exec (.mgmtReadreg 1 0 4 3) (watched false)) (·.host.sent) = some [.debugNo 1] ∧ out (exec (.mgmtReadmem 1 0x8000000000FF 1) (watched true)) (·.host.sent) = some [.debug 1 [0]] ∧
    out (exec (.mgmtFreeze 1) base) (fun t => (t.owner 1).freezing) = some (some 0x80) ∧ out (exec (.mgmtFreeze 0) base) (fun t => (t.owner 0).freezing) = some none ∧
    out (exec (.mgmtRelease 1) (watched false)) (fun t => (t.owner 1).releasing) = some true := by decide +kernel
theorem test_witness_RecoveryAndManagement : (recovering 1 (fun r => { r with rlen := 12288 })).trust.received + 4096 ≤ (recovering 1 (fun r => { r with rlen := 12288 })).trust.rlen ∧
    (recovering 1 id).trust.received = (recovering 1 id).trust.rlen ∧ MemOk (recovering 3 id) ∧ cellsWfFrom none (recovering 1 id).trust.rbuf = true ∧
    (((base.owner 1).frozen = false ∧ (base.owner 1).freezing = none) ∧ ((watched true).owner 1).frozen = true ∧ ((watched true).owner 1).inScrub = false ∧ ((watched true).owner 1).desc.debug = true) ∧
    (∃ x, (watched true).threads.find? (fun t => t.pl == ⟨1, 0 / 128, 0 % 128⟩ && t.row == 4 && t.evicted.isNone) = some x) ∧
    ((watched true).region ⟨1, 0, 0⟩ (BitVec.ofNat 48 0x8000000000FF) = .scr ⟨1, 0, 0⟩ 0xFF ∧ 0xFF + 1 ≤ 65536) := by
  refine ⟨by decide, by decide, by unfold MemOk; decide, by decide, by decide, ⟨_, rfl⟩, by decide⟩

theorem test_witness_DecodeUndoesEncode : (Instr.add 1 2 3).assigned = true ∧ (Instr.add 1 2 3).canonical = true := by decide
theorem test_witness_DecodedTermsAreAssigned : decodeWord 0x20712300 = .ok ⟨false, false, 7, .add 1 2 3⟩ := by decide
def fetching : State := State.reset.withFetchWord 32 0x20712300
theorem test_witness_StepRunsDecoded : ∃ b, fetching.clk.ctl = .issue ∧ fetching.me.strm = none ∧ fetching.me.next = none ∧ fetching.me.region = none ∧ fetching.fetchBundle fetching.me.pl fetching.me.pc = .ok b ∧
    firstWord wordSub 0 b.ws = none ∧ State.formFault { fetching with clk := { fetching.clk with ctl := .pick } } b.b (decoded b.ws) = none ∧ decoded b.ws = [⟨false, false, 7, .add 1 2 3⟩] :=
  ⟨⟨fetching.me.pc, [0x20712300]⟩, rfl, rfl, rfl, rfl, by decide +kernel, by decide, by decide, by decide⟩
theorem test_witness_StepKeepsMemoryOk : MemOk fetching ∧ ∃ t, step fetching = .next t := by
  constructor
  · unfold MemOk; decide
  · have h : (match step fetching with | .next _ => true | _ => false) = true := by decide +kernel
    revert h; cases step fetching with
    | next t => exact fun _ => ⟨t, rfl⟩
    | fault f => exact nofun
    | refused r => exact nofun
theorem test_witness_UserCodeLeavesMonitorState : base.me.pl.o ≠ 0 ∧ (Instr.add 1 2 3).hasWord = true ∧ instrIsMonitor (.add 1 2 3) = false ∧ ∃ t, exec (.add 1 2 3) base = .next t := ⟨by decide, rfl, rfl, _, rfl⟩
/-- Without power no step is taken. -/
theorem test_unpowered : step { State.reset with trust := { power := false } } = .fault .unpowered := rfl

/-! ### Further witnesses: the clauses on poison, full lists, held commands and the forms of control -/

/-- The first sector of the own scratchpad is poisoned, beside its tag of 5. -/
def spoiled : State := { tagged with mem := tagged.mem.setPoison (scrKey ⟨1, 0, 0⟩ 0) }
theorem test_witness_TaggedTimedMisaligned_poison : spoiled.me.strm = none ∧ OwnScratch spoiled own.toNat 16 0 ∧ spoiled.mem.tag (scrKey spoiled.me.pl 0) = (5 : Word).setWidth 16 ∧
    spoiled.mem.tag (scrKey spoiled.me.pl 0) ≠ (6 : Word).setWidth 16 ∧ spoiled.mem.poisoned (scrKey spoiled.me.pl 0) = true := by unfold OwnScratch; decide
/-- A pending acquire, beside queues that hold entries. -/
def acquiring : State := { queued with me := { queued.me with ops := [{ op 3 (some (.s 1)) with acq := true }] } }
theorem test_witness_QueuesMessagesSpawn_acquire : queued.me.ops.any (·.acq) = false ∧ acquiring.me.ops.any (·.acq) = true ∧ acquiring.me.region = none ∧ acquiring.me.strm = none := by decide
theorem test_witness_BeatsResultsFences_pairs : (∃ x, (idle [{ th 8 with park := .exit, pass := 1 }]).thread? 8 = some x ∧ x.park = .exit ∧ x.pass = 1 ∧ x.saw = [] ∧ x.evicted = none) ∧
    (∃ x, (parked .exit).thread? 8 = some x ∧ x.pass ≠ 1 ∧ x.saw = []) ∧ (∃ x, (parked (.fence 0)).thread? 8 = some x ∧ x.park = .fence 0 ∧ ∀ i ∈ x.saw, ∀ r ∈ (parked (.fence 0)).net, r.id ≠ i.1) ∧
    (∃ x o, (idle [{ th 8 with ops := [{ op 30 (some (.s 1)) with res := some 7, disc := true }], region := some { b := 8, left := 2, wait := false, words := [], discs := [30] } }]).thread? 8 = some x ∧
      x.ops = [o] ∧ o.disc = true ∧ o.res = some 7 ∧ o.grp = 0) ∧
    (idle [{ th 8 with park := .exit, pass := 1 }]).threads.all (fun y => match y.park with | .dead _ => false | _ => true) = true :=
  ⟨⟨_, rfl, rfl, rfl, rfl, rfl⟩, ⟨_, rfl, by decide, rfl⟩, ⟨_, rfl, rfl, by decide⟩, ⟨_, _, rfl, rfl, rfl, rfl, rfl⟩, rfl⟩
/-- A served sector, of another core's scratchpad and of a slice, is poisoned. -/
theorem test_witness_LoadsAndStoresPerformed_poison : ∀ l ∈ [Loc.slice 5 8, .scr ⟨1, 1, 127⟩ 65528],
    let s := asked { base with mem := { poison := [base.locKey l / 128] } } (some (.s 1)) l (.load 8 .zx none)
    Arriving s 30 (theReq l (.load 8 .zx none)) ∧ s.mem.poisoned (s.locKey l) = true ∧ s.chanAt ⟨1, 1, 127⟩ 65528 8 = none := by unfold Arriving; decide
/-- 256 reservations stand in one bank group, and the overflow table has no place. -/
def crowded (k : ReqKind) : State :=
  asked { base with mem := { resv := (List.range 256).map (fun i => (base.locKey syncAt + 8 * (i + 1), 100 + i)) }, regs := { wovn := 0 } } (some (.s 1)) syncAt k
theorem test_witness_SyncWordsAndAtomicsPerformed_entries : (asked base (some (.s 1)) syncAt .ldfe).entryFree (theReq syncAt .ldfe) = true ∧
    (asked base (some (.s 1)) syncAt .lrw).entryFree (theReq syncAt .lrw) = true ∧
    (∃ x ∈ (asked { base with mem := { resv := [(base.locKey syncAt, 9)] } } (some (.s 1)) syncAt .lrw).mem.resv, x.1 = base.locKey syncAt) ∧
    (∀ k ∈ [ReqKind.ldfe, .lrw], Arriving (crowded k) 30 (theReq syncAt k) ∧ (crowded k).entryFree (theReq syncAt k) = false ∧ MemOk (crowded k) ∧ (crowded k).poisonedKey ((crowded k).locKey syncAt) = false) ∧
    (asked base none home (.red .add 4 4)).lostKey (base.locKey home) = false := by
  refine ⟨by decide, by decide, ⟨_, List.mem_singleton.mpr rfl, rfl⟩, ?_, by decide⟩; unfold Arriving MemOk; decide +kernel
theorem test_full_lists : ∀ k ∈ [ReqKind.ldfe, .lrw], out (exec (.syncOpArrive 30) (crowded k)) (fun t => t.net.map (·.arrived)) = some [none] := by decide +kernel
/-- A full queue whose bank group has its 256 entries taken by reservations. -/
def jammed : State :=
  let b := ((pushed 16).bankOf (theReq (.scr core5 0) (.push 7 77))).getD 0
  { pushed 16 with mem := { resv := (List.range 256).map (fun i => (b / 16 * 2 ^ 27 + b % 16 * 2 ^ 24 + 8 * i, 100 + i)) }, regs := { wovn := 0 } }
theorem test_witness_BarriersPushesMessagesArrive_entries : (pushed 16).entryFree (theReq (.scr core5 0) (.push 7 77)) = true ∧
    Arriving jammed 30 (theReq (.scr core5 0) (.push 7 77)) ∧ 16 ≤ (alGet [] 7 (jammed.core core5).queues).length ∧ jammed.entryFree (theReq (.scr core5 0) (.push 7 77)) = false := by
  unfold Arriving; decide +kernel
theorem test_witness_RegionsPerformed_home : ∃ r o p k, Arriving (asked base none home (.region [{ ea := 8, n := 1, fpc := 0, store := some [5], load := none }])) 30 r ∧ r.loc = .dram o p k ∧ base.lostKey (base.locKey r.loc) = false :=
  ⟨_, 1, 0x20008, .cacheable, ⟨rfl, by decide⟩, rfl, by decide⟩
theorem test_witness_WalksAndInvalidations_quiet : (∀ y ∈ (inval false).threads, y.saw = []) ∧ (inval true).cores = [] := by decide
theorem test_witness_MigrationAndArrival_first : (∀ y ∈ (mig (.migrate ⟨1, 1, 5⟩)).threads ++ (stepping (mig .step)).threads, y.saw = [] ∧ y.pass ≠ 1) := by decide
theorem test_witness_EnginesPerform_held : (∀ y ∈ (engined 1 qClr part0 true none).threads, y.saw = [] ∧ ∀ o ∈ y.ops, o.acq = false) ∧ ((engined 1 qClr2 arrived true (some 1)).engineOf (cmdOf 1 qClr2 arrived) 0 0).tag = some 1 ∧
    ((engined 1 qClr2 arrived true none).engineOf (cmdOf 1 qClr2 arrived) 0 0).tag = none ∧ part0.foreign = false ∧ (∀ c ∈ (finished 1 0 0).cmds, c.wq = [] ∧ c.pushed = none) := by decide
theorem test_witness_CopyUnitsMove_writes : (copying (copy0 0 0)).net = [] ∧ (∀ y ∈ (copying (copy0 0 0)).threads, y.saw = []) ∧ (copy0 0 0).wq = [] ∧ (copy0 0 0).touched = [] ∧ (copy0 0 0).fail = none ∧ (copy0 0 0).begun = false ∧
    (copying (copy0 0 0)).poisonedKey (scrKey ⟨1, 0, 0⟩ 0x80) = false ∧ (copy0 0 0).mb < 4 ∧
    sentOne.loc = .scr ⟨1, 0, 0⟩ 0x100 ∧ (copying { copy0 0 0 with wq := [sentOne] }).region ⟨1, 0, 0⟩ sentOne.ea = .scr ⟨1, 0, 0⟩ 0x100 := by decide
theorem test_witness_PairsExchange_counts : publishing.clk.todo = [] ∧ (∀ y ∈ publishing.threads, y.saw = []) ∧ (∀ p ∈ (publishing.owner 1).pairs, p.qf ≠ publishing.q + 1) ∧
    ({ publishing with clk := { publishing.clk with todo := [⟨⟨1, 0, 0⟩, 3⟩] } } : State).clk.todo ≠ [] := by decide
theorem test_pair_exchange_held : out (exec (.pairExchange 8) { publishing with clk := { publishing.clk with todo := [⟨⟨1, 0, 0⟩, 3⟩] } }) (fun t => (t.owner 1).pairs.map (·.cur)) = some [false] := by decide
theorem test_witness_LaunchesStartAndDispatch_plain : bit (qd aRec.q 0) 6 = false := by decide
theorem test_witness_OwnersAndEvents_causes : ∃ cs, (((stopping 2).setOwner 1 { own1 with freezing := some 2, causes := [3, 2] }).owner 1).causes = cs ++ [2] := ⟨[3], by decide⟩
theorem test_witness_PausesAdvance_joins : (timed 0x500C210 (some (pause0 .moved))).joinsSoon (pause0 .moved) = false ∧ (pause0 .switched).freed = [] := by decide +kernel
theorem test_witness_InstallsRun_pushed : (ins0 .programming).pushed = none ∧ (ins0 .requested).code = 0 ∧ (ins0 .programming).inst ≠ 0 ∧ (∀ y ∈ (installing (ins0 .requested)).threads, y.saw = []) := by decide
theorem test_witness_FailuresAndHeat_base : ((idle []).column 4).lost ≠ 8 ∧ ({ idle [] with trust := { boot := false, tripDue := true } } : State).trust.tripDue = true ∧
    ({ idle [] with trust := { boot := false, tripDue := true } } : State).q % 8 = 0 ∧
    (({ idle [] with cols := [{ k := 4, halfDue := true }] } : State).column 4).halfDue = true ∧
    (({ idle [] with cols := [{ k := 4, halfDue := true }] } : State).atBoundary.column 4).half = true := by decide
/-- A monitor source that names owner 1 and task 3, and the one thread of that task. -/
def ending : State := { monS 0x300000104 0 with threads := [{ th 8 with resv := .held 5 }], mem := { resv := [(5, 8), (6, 9)] } }
theorem test_end_task : out (exec (.frzEndTask 2) ending) (fun t => (t.threads.length, t.mem.resv)) = some (0, [(6, 9)]) := by decide
/-- An engine of owner 1 at raster index 2, column 1. -/
def engAt2 : State := { monS 2 0x00842 with engines := [{ idx := 2, x := 1, tag := some 1, a0 := { anchor := 5 } }] }
theorem test_slot_spill : out (exec (.slotctlSpill 2 3) engAt2) (fun t => (t.engines.map (·.tag), t.rot.spilled.map (fun e => (e.1, e.2.1, e.2.2.a0.anchor)))) = some ([some 2], [(1, 33, 5)]) := by decide
theorem test_witness_ControlFormsComplete : ((0x10 : Word).toNat % 16 = 0 ∧ (0x11 : Word).toNat % 16 = 1 ∧ (0x12 : Word).toNat % 16 = 2 ∧ (0x13 : Word).toNat % 16 = 3) ∧
    (0x00442 % 64 < mon.nlive ∧ mon.enabled 1 = true ∧ 1 < mon.nslot 1 ∧ ∀ t ∈ ({ mon with rot := {} } : State).placedSoon, ¬(t.idx = 2 ∧ t.k = 0) ∧ ¬(t.o = 1 ∧ t.l = 1)) ∧
    (∀ t ∈ mon.rot.tens, t.idx = 5 → t.k = 0 → mon.enabled t.o = false) ∧ ((engAt2.engineAt 2 1).tag = some 1 ∧ engAt2.rot.spilled = [] ∧ (1 : Nat) ≠ 2) ∧
    (((own2 mon false).owner 2).frozen = false ∧ ((own2 mon false).owner 2).freezing = none ∧ ((own2 mon true).owner 2).frozen = true ∧ ((own2 mon true).owner 2).inScrub = false ∧ (own2 mon false).fnOf 6 2 = true) ∧
    (∃ x, ending.threads = [x] ∧ x.uid ≠ 0 ∧ ending.me.uid ≠ x.uid ∧ x.pl.o = 1 ∧ x.tid.toNat = 3) ∧ (¬(ending.me.pl.o = 1 ∧ ending.me.tid.toNat = 3) ∧ ending.net = [] ∧ ending.graph.streams = [] ∧
      ending.graph.packets = [] ∧ ending.graph.placing = [] ∧ ending.graph.launches = []) ∧
    (PlainTask base ∧ base.iss.z = 4 ∧ ({ base.iss with z := 8 } : Issue).z = 8 ∧ decodeWord 0x36000000 = .error .major ∧ decodeWord 0x04700009 = .error .function) ∧
    ((0x200 : Word).setWidth 48 : Addr).toNat % 4 = 0 := by
  refine ⟨by decide, by decide, by decide, by decide, by decide, ⟨_, rfl, by decide⟩, by decide, ⟨⟨rfl, rfl⟩, by decide⟩, by decide⟩

theorem test_witness_StreamsAdvance_rows : (∀ x ∈ (rowOf running []).threads, x.evicted = none ∧ (rowOf running []).coreDown x.pl = false) ∧
    (∀ c ∈ (rowOf running []).cores, ∀ m ∈ c.mbox, m.mb ≠ 4) := by decide +kernel
/-- A thread of the core waits on the channel that chset opens: it is woken (R253). -/
theorem test_chset_wakes : out (exec (.chset 2 1) (withS { withDesc base [0x201000080] with threads := [{ th 8 with pl := ⟨1, 0, 0⟩, park := .chan 128 8 }] } [(2, 0x800000000040)]))
    (fun t => t.threads.map (·.woken)) = some [true] := by decide
/-- Two stores to one line of a peer keep their order, whatever their bytes (R375); msg and mrecv name one inbox (R265). -/
theorem test_same_address : base.sameAddr (theReq (.peer 1 0 0x400) (.store [1])) (theReq (.peer 1 0 0x7F0) (.store [2])) = true ∧
    base.sameAddr (theReq (.peer 1 0 0x400) (.store [1])) (theReq (.peer 1 0 0x800) (.store [2])) = false ∧
    base.sameAddr (theReq (.peer 1 0 0) (.msg 0 5 7 1)) (theReq (.peer 1 0 0) (.mrecv 5)) = true := by decide

/-! ### Witnesses of the clauses on windows, queues, events and areas -/

/-- The windows of another core and of a slice, at their last 16 bytes (R153, R156). -/
def otherEa : Addr := 0x90000085FFF0
def sliceEa : Addr := 0xA0000000FFF0
def windowed (thresh run : Nat) : State :=
  { base with me := { base.me with thresh := BitVec.ofNat 8 thresh, run := BitVec.ofNat 8 run, tslot := 1, tcore := 5 }, slices := [{ n := 5, ways := 1, size := 1 }] }
theorem test_witness_LongLoadsAndStoresIssue_windows : PlainTask (windowed 1 0) ∧ (windowed 1 0).region ⟨1, 0, 0⟩ otherEa = .scr core5 0xFFF0 ∧ core5 ≠ (windowed 1 0).me.pl ∧
    (windowed 1 0).region ⟨1, 0, 0⟩ sliceEa = .slice 5 0xFFF0 ∧ otherEa.toNat % 16 = 0 ∧ ((windowed 1 0).me.ops.filter (·.counts)).length < 16 ∧
    (windowed 0 0).me.thresh = 0 ∧ (windowed 3 2).me.thresh.toNat ≤ 2 + 1 ∧ (windowed 3 2).me.tcore.toNat = core5.c ∧ 1 < (windowed 2 0).me.thresh.toNat := by unfold PlainTask; decide
/-- The third load in a row of one core moves the thread there, the second is served (R159). -/
theorem test_remote_runs : out (exec (.ldD 1 2 0) (withS (windowed 3 2) [(2, 0x90000085FFF0)])) (fun t => (t.me.park, t.me.run)) = some (.migrate core5, 0) ∧
    out (exec (.ldD 1 2 0) (withS (windowed 3 1) [(2, 0x90000085FFF0)])) (fun t => (t.me.run, t.net.map (·.loc))) = some (2, [.scr core5 0xFFF0]) := by decide
theorem test_witness_FullEmptyAndReservationIssue_rel : Translates synced 0x10000 8 .syncRd (.dram 1 0x20000 .sync) ∧ PlainTask synced ∧ synced.me.resv ≠ .held 0x10000 :=
  ⟨⟨0x10000, _, by decide, by decide, rfl, by decide⟩, ⟨rfl, rfl⟩, by decide⟩
/-- The last turn of a qred, and one of a count of 0 (R195). -/
theorem test_qred_ends : out (exec (.qredI32 1 2 3) (withS queued [(3, 1)])) (fun t => (t.me.qpos, t.iss.status, (t.core ⟨1, 0, 0⟩).queue 2)) = some (0, .running, [12]) ∧
    out (exec (.qredI32 1 2 3) (withS queued [(3, 0)])) (fun t => (t.me.qpos, (t.core ⟨1, 0, 0⟩).queue 2)) = some (0, [11, 12]) ∧
    out (exec (.qredI32 1 7 3) (withS queued [(3, 1)])) (fun t => (t.me.park, t.me.pc)) = some (.queue 7 20, 0x100) := by decide
theorem test_witness_QueuesMessagesSpawn_qred : queued.iss.pair = false ∧ (queued.me.qpos.toNat < (1 : Word).toNat % 65536 ∧ queued.me.qpos.toNat + 1 = (1 : Word).toNat % 65536) ∧ (0 : Word).toNat % 65536 ≤ queued.me.qpos.toNat := by decide
theorem test_witness_InstallFormsIssue_bad : bits (qd (desc64 (withDesc base ((qInst 1).set 3 32))) 3) 47 0 % 64 ≠ 0 ∧
    (bit (qd (desc64 (withDesc base ((qInst 1).set 4 0x200000000000001))) 4) 0 = true ∧ base.nslot 1 ≤ bits (qd (desc64 (withDesc base ((qInst 1).set 4 0x200000000000001))) 4) 63 40 / 2 ^ 16 % 256) := by decide
/-- Fewer than 64 accepted events wait; with 64, a source that holds one raises no second of its kind (R356). -/
theorem test_witness_EvRoom : EvRoom (idle []) ∧ EvRoom base ∧ EvRoom (stopping 2) ∧ EvRoom (scrubbing 7 none) ∧ EvRoom (watched true) := by unfold EvRoom; decide
def full64 : State := { idle [] with trust := { boot := false, events := List.replicate 64 { ty := 0x16, o := 0, seq := some 1 } ++ [{ ty := 3, o := 0, src := 64 + 9 * 16 + 3 }, { ty := 0x40, o := 1, src := 2 ^ 32 + 8 }] } }
theorem test_events_held : State.heldKind full64.trust { ty := 3, src := 64 + 9 % 64 * 16 + 3 % 16 } = true ∧ full64.evpostHeld (theReq (.peer 1 0 0) (.evpost 5)) = true ∧
    base.evpostHeld (theReq (.peer 1 0 0) (.evpost 5)) = false ∧ out (exec (.thermalEvent 9 3) full64) (fun t => t.trust.events.length) = some 66 := by decide +kernel
theorem test_witness_save_areas : MemOk engAt2 ∧ engAt2.saveSize 1 = 0 ∧
    (let s := { engAt2 with mem := ({} : Mem).write (engAt2.dramKey 0 (0x8000 + 16 + 8)) [3], regs := { savt := 0x8000 } }; MemOk s ∧ s.saveSize 1 = 3 * 2 ^ 20) := by unfold MemOk; decide +kernel
theorem test_witness_uncaptured : (∀ y ∈ (idle [{ th 8 with ops := [op 30 (some (.s 15))] }]).allThreads, ∀ p ∈ y.ops, p.cap = false) ∧ (mig (.migrate ⟨1, 1, 5⟩)).net = [] ∧
    (∀ c ∈ changing.cores, ∀ m ∈ c.mbox, m.wq = []) := by decide
theorem test_witness_PausesAdvance_live : (∀ y ∈ (timed 0x500C210 (some (pause0 .moved))).rot.tens, y.idx < (timed 0x500C210 (some (pause0 .moved))).nlive) ∧ (timed 0x500C210 (some (pause0 .moved))).rot.cur = [] := by decide +kernel
theorem test_witness_StepsImagesAndPulls_rest : ((stepped1 false).owner 1).held = false ∧ (slated 104 true).trust.slateOp = 100 + 4 ∧ (slated 3 true).trust.slateOp = 3 := by decide
theorem test_witness_InstallsRun_source : (installing (ins0 .programming)).unitWaits ⟨1, 0, 0⟩ (BitVec.ofNat 48 (bits (qd qIns 0) 47 0 + 16384 * 0)) false = false ∧
    (∃ y o, (installing { ins0 .programming with pushed := some 20 }).thread? 8 = some y ∧ y.ops = [o] ∧ o.id = 30 ∧ o.dest ≠ none) := ⟨by decide +kernel, _, _, rfl, rfl, rfl, by decide⟩
/-- The patrol of a part goes on in ascending order, once in a pass; an error of two sectors of one reconstruction poisons (R396, R397). -/
def patrolled : State := { idle [] with rot := { base.rot with patrol := [(9 * 4 + 2, 0, 7)] } }
theorem test_patrol_order : (patrolled.patrolAt (9 * 4 + 2), (idle []).patrolAt 20000, State.patrolPart 3 5) = (7, 0, (20000, 5)) ∧
    out (exec (.patrolScrubRead 0 ((9 * 4 + 2) * 131072 + 6) true) patrolled) (fun t => (evs t, t.patrolAt 38)) = some ([], 7) ∧
    out (exec (.patrolScrubRead 6 ((9 * 4 + 2) * 131072 + 9) true) patrolled) (fun t => (evs t, t.patrolAt 38, t.mem.poisoned (stackKey 4 (2 * 2 ^ 24 + 9 * 128)))) = some ([(0x10, 0x804000009)], 10, true) := by decide +kernel
theorem test_lane_waits : (idle []).regionSpares 9 3 ≠ 0 ∧ out (exec (.laneFailure 9 3) (idle [])) (fun t => t.cols.map (·.halfDue)) = some [true] := by decide
theorem test_witness_MeteringAndTeardown_drained : (scrubbing 1 none).drained 1 = true ∧ ((scrubbing 1 none).owner 1).inScrub = true ∧ (scrubbing 1 none).drainPump.progStage = 2 := by decide +kernel
theorem test_witness_RecoveryAndManagement_mailbox : (recovering 2 id).trust.rstate = 2 ∧ (recovering 0 id).trust.recovery = true ∧ (watched true).trust.recovery = false ∧
    out (exec (.mgmtReadmem 0 0 8) (recovering 4 (fun r => { r with rerr := 6 }))) (·.host.sent) = some [.debug 0 [4, 6, 0, 0, 0, 0, 0, 0]] := by decide +kernel
theorem test_bars : out (exec (.configurationWrite 1 8 0x40000000) ported) (fun t => (t.fn? 1).map (fun f => f.bars.toList)) = some (some [0, 0x40000000, 0]) := by decide
/-- A row stream whose next bundle is the word of add 1, 2, 3, at VA 0x400, on a page that maps DRAM offset 0x20000. -/
def opening : Stream := { row0 with started := true, fpc := 0x400 }
def fed (st : Stream) : State :=
  { rowOf st [] with tlb := [{ o := 1, l := 0, page := 0, size := 16, space := 0, out := 0x20000, ia := 0x20000, kind := .cacheable, w := true, x := true }]
                     mem := ({} : Mem).write (base.dramKey 1 0x20400) (leBytes 4 0x20712300) }
theorem test_witness_StreamsAdvance_inject : opening.closed = false ∧ opening.inj = [] ∧ opening.fail = none ∧ (fed opening).fetchBundle (State.origin opening) opening.fpc = .ok ⟨0x400, [0x20712300]⟩ ∧
    State.control { b := 0x400, w := [0x20712300] } = some (.add 1 2 3) ∧ instrAccess (.add 1 2 3) = none ∧ (fed opening).cores = [] ∧ (fed opening).cmds = [] := by decide +kernel
/-- The core at the origin performs the bundle that its stream beat gives it. -/
def turning : State :=
  let x : SBundle := { b := 0x400, w := [0x20712300] }
  { base with me := { th 40 with strm := some 9, s := Vector.replicate 16 5 }, graph := { streams := [{ opening with beat := some 0, inj := [x] }] }, clk := { base.clk with ctl := .issue } }
theorem test_stream_turn : out (step turning) (fun t => t.threads.map (fun x => x.s[1])) = some [10] ∧
    State.bundleAt { opening with beat := some 0, inj := [{ b := 0x400, w := [0x20712300] }] } turning.me.pl.c 0 = some { b := 0x400, w := [0x20712300] } ∧
    firstWord wordSub 0 [0x20712300] = none ∧ turning.formFault 0x400 (decoded [0x20712300]) = none := by decide +kernel

/-! ### What further hypotheses of the statements ask, and corners of rules -/

theorem test_witness_StreamsAdvance_ready : row0.fail = none ∧ (∀ x ∈ (rowOf row0 []).threads ++ (rowOf running []).threads ++ (fed opening).threads, x.readyAt ≤ (rowOf row0 []).beat ∧ x.owed = false) ∧
    (rowOf row0 []).beat = (rowOf running []).beat ∧ (fed opening).beat = (rowOf row0 []).beat := by decide
theorem test_witness_CopyUnitsMove_plain : (∀ y ∈ (copying (copy0 0 0)).threads, ∀ o ∈ y.ops, o.acq = false) ∧ sentOne.late = false ∧ (∀ y ∈ (copying (copy0 0 0)).net, y.cap = false) := by decide
theorem test_witness_MigrationAndArrival_caps : (∀ y ∈ flying.net, y.cap = false) ∧ flying.cores = [] := by decide
theorem test_witness_WalksAndInvalidations_regions : ∀ y ∈ (inval true).allThreads, y.region = none := by decide
theorem test_witness_StepsImagesAndPulls_ports : (stepped1 false).host.ixHeld = [] ∧ (slated 1 true).host.ixHeld = [] ∧ (pulling 16).host.ixHeld = [] ∧ (serving true).host.ixHeld = [] ∧
    (timed 0x5000000 (some (pause0 .stop))).rot.pause = some (pause0 .stop) := by decide
theorem test_witness_EncodingLevelFetchFaults_port : (pulling 16).host.ixHeld = [] ∧ (pulling 16).rot.pause = none := by decide
theorem test_witness_InstallsRun_ended : (ins0 .ended).st = .ended ∧ (ins0 .ended).inst ≠ 0 ∧ (installing { ins0 .ended with pushed := some 20 }).net = [] := by decide
/-- Column 4 is EXPOSED, and the first KiB of extent 0 fails correction. -/
def worn : State := { columned { k := 4, st := 2, lost := 2 } with flash := { bad := [extKey 0 0 / 1024] } }
/-- A row of a stream whose context store fails. -/
def lostRow : State := rowOf running []
theorem test_witness_FailuresAndHeat_more : (worn.column 4).st = 2 ∧ 5 ≠ (worn.column 4).lost ∧ (worn.column 4).lost < 8 ∧ (idle []).flash.bad = [] ∧
    extKey (5 / 131072 % 262144) (5 % 131072 * 128) / 1024 ∈ worn.flash.bad ∧ worn.patrolAt (State.patrolPart 3 5).1 ≤ (State.patrolPart 3 5).2 ∧
    (∃ x, lostRow.threads.find? (fun y => y.uid == 43) = some x ∧ x.strm = some running.id) ∧ lostRow.graph.streams = [running] ∧ running.fail = none ∧
    (3 % 16 ≤ 8 ∧ 15 % 16 = 15) ∧ (8 < 9 % 16 ∧ 9 % 16 ≠ 15) ∧ ({ idle [] with trust := { boot := false, tripped := true } } : State).trust.tripped = true := by
  refine ⟨by decide, by decide, by decide, rfl, by decide, by decide, ⟨_, rfl, rfl⟩, rfl, rfl, by decide, by decide, rfl⟩
/-- A second loss in EXPOSED fails the column, and the patrol tells of each flash sector that fails, in the first pass and in every later one. -/
theorem test_layers_more : out (exec (.layerLost 4 5) worn) (fun t => (colOf t, evs t)) = some ([(3, 2, 5, 0)], [(0x13, 0x20004)]) ∧
    out (exec (.patrolScrubRead 3 1 false) worn) evs = some [(0x10, 0x3000000000000), (0x10, 0x3000000000001)] := by decide +kernel
/-- In a FAILED column that lost layer 8 first, a patrol read of that layer tells of its sector (R399). -/
theorem test_patrol_spare_layer : out (exec (.patrolScrubRead 0 ((9 * 4 + 8) * 131072) true) (columned { k := 4, st := 3, lost := 15, lost2 := 2 })) evs = some [(0x10, 0x2004000000)] := by decide +kernel
theorem test_context_store : out (exec (.patrolScrubRead 4 43 true) lostRow) (fun t => (t.threads.length, t.graph.streams.map (fun x => (x.fail.map (fun f => (f.2.fcode, f.2.lcore)), x.exited)))) =
    some (16, [(some (9, 3), [3])]) := by decide +kernel
/-- In a pause a lane that is lost halves its bus (R403); a layer without a sensor posts nothing (R32). -/
theorem test_lane_lost_in_pause : out (exec (.laneFailure 9 19) (timed 0x5000000 (some (pause0 .stop)))) (fun t => (t.rot.repairs.length, t.cols.map (·.halfDue))) = some (0, [true]) ∧
    out (exec (.thermalEvent 9 9) (idle [])) evs = some [] := by decide
/-- A token that reaches its port in a pause is kept there, and is let in afterwards (R318, R321). -/
theorem test_token_in_pause : out (exec (.stepReadyToken 1 6 7) { stepped1 false with rot := { pause := some (pause0 .stop) } }) (fun t => ((t.owner 1).tokens, t.host.ixHeld)) = some ([], [.token 1 6 7]) ∧
    ((({ stepped1 false with host := { ixHeld := [.token 1 6 7] } } : State).portPump).owner 1).tokens = [(6, 7)] := by decide
/-- go to the own core has no effect (R204). -/
theorem test_go_own_core : out (exec (.go 2) (withS { base with me := { base.me with run := 3 } } [(2, 0)])) (fun t => (t.me.run, t.me.park)) = some (3, .none) := by decide

end Sys2Proof.Tests
end

/-! SUPPORT. ThreadRegisters: rsr and wsr of the numbers below 0x800, the two registers that rsr composes (PEND and MIGT), and O11. -/

namespace Sys2Proof.Laws

open Sys2Proof.Machine Sys2Proof.Safety

/-! ### rsr and wsr of a per-thread number (R113, R114) -/

theorem exec_rsr_thread (s : State) (d : Fin 16) {n : BitVec 12} (hn : n.toNat < 0x800) :
    exec (.rsr d n) s = .next (s.wS d (s.readThread n.toNat)) := if_pos hn

theorem exec_wsr_thread (s : State) (a : Fin 16) {n : BitVec 12} (hn : n.toNat < 0x800) :
    exec (.wsr a n) s = .next { s with me := State.writeThread s.me n.toNat s.iss.src.s[a] } := if_pos hn

/-- rsr of a per-thread register that reads x writes x to s[d]. -/
theorem next_rsr {s : State} {d : Fin 16} {n : BitVec 12} {x : Word} (h : s.readThread n.toNat = x) (hn : n.toNat < 0x800 := by decide) :
    Next (exec (.rsr d n) s) (fun t => WroteS s t d x) := by
  rw [exec_rsr_thread s d hn]; exact next_wS h

/-- rsr of a per-thread register whose reading has the property P writes a value with P to s[d]. -/
theorem next_rsr_of {s : State} {d : Fin 16} {n : BitVec 12} {P : Word → Prop} (h : P (s.readThread n.toNat)) (hn : n.toNat < 0x800 := by decide) :
    Next (exec (.rsr d n) s) (fun t => ∃ r, WroteS s t d r ∧ P r) := by
  rw [exec_rsr_thread s d hn]; exact next_wS_of h

/-- wsr of a per-thread register makes the thread what the register's access allows. -/
theorem wsr_eq {s : State} {a : Fin 16} {n : BitVec 12} {m : Thread} (h : State.writeThread s.me n.toNat s.iss.src.s[a] = m)
    (hn : n.toNat < 0x800 := by decide) : exec (.wsr a n) s = .next { s with me := m } := by
  rw [exec_wsr_thread s a hn, h]

/-! ### PEND (R64): one bit for each register that an operation addresses -/

/-- The bit of PEND that stands for a destination: s[k] is bit k, v[k] is bit 16 + k. -/
def pendBit : Dest → Nat
  | .s k => k.val
  | .v k => 16 + k.val

@[simp] theorem pendBit_s (k : Fin 16) : pendBit (.s k) = k.val := rfl
@[simp] theorem pendBit_v (k : Fin 16) : pendBit (.v k) = 16 + k.val := rfl

theorem pendBit_lt (d : Dest) : pendBit d < 32 := by
  cases d with
  | s k => rw [pendBit_s]; omega
  | v k => rw [pendBit_v]; omega

/-- No two registers share a bit of PEND. -/
theorem pendBit_inj (c d : Dest) : pendBit c = pendBit d ↔ c = d := by
  rcases c with k | k <;> rcases d with l | l
  · rw [pendBit_s, pendBit_s, Dest.s.injEq, Fin.ext_iff]
  · exact iff_of_false (by rw [pendBit_s, pendBit_v]; omega) Dest.noConfusion
  · exact iff_of_false (by rw [pendBit_v, pendBit_s]; omega) Dest.noConfusion
  · rw [pendBit_v, pendBit_v, Dest.v.injEq, Fin.ext_iff, Nat.add_left_cancel_iff]

/-- What one operation adds to PEND. -/
def pendOr (m : Nat) (o : Op) : Nat := m ||| o.dest.elim 0 (fun d => 2 ^ pendBit d)

theorem pendMask_eq_foldl (t : Thread) : t.pendMask = t.ops.foldl pendOr 0 := by
  unfold Thread.pendMask
  congr 1
  funext m o
  unfold pendOr
  rcases o.dest with _ | _ | _
  · exact (Nat.or_zero m).symm
  · rfl
  · rfl

theorem testBit_pendOr (m : Nat) (o : Op) (j : Nat) : (pendOr m o).testBit j = (m.testBit j || o.dest.any (pendBit · == j)) := by
  unfold pendOr
  rw [Nat.testBit_or]
  cases o.dest with
  | none => simp
  | some d => simp [Nat.testBit_two_pow, beq_eq_decide]

theorem testBit_foldl_pendOr (ops : List Op) (m j : Nat) :
    (ops.foldl pendOr m).testBit j = (m.testBit j || ops.any (fun o => o.dest.any (pendBit · == j))) := by
  induction ops generalizing m with
  | nil => simp
  | cons o ops ih => rw [List.foldl_cons, ih, testBit_pendOr, List.any_cons, Bool.or_assoc]

theorem testBit_pendMask (t : Thread) (j : Nat) : t.pendMask.testBit j = t.ops.any (fun o => o.dest.any (pendBit · == j)) := by
  rw [pendMask_eq_foldl, testBit_foldl_pendOr, Nat.zero_testBit, Bool.false_or]

/-- A register's bit of PEND is set where an operation addresses that register. -/
theorem testBit_pendMask_pendBit (t : Thread) (d : Dest) : t.pendMask.testBit (pendBit d) = t.ops.any (fun o => o.dest == some d) := by
  rw [testBit_pendMask]
  congr 1
  funext o
  cases o.dest with
  | none => rfl
  | some c => simp [beq_eq_decide, pendBit_inj]

/-- Bits 32 and above of PEND are 0: it has a bit for each of the 32 registers. -/
theorem pendMask_lt (t : Thread) : t.pendMask < 2 ^ 32 := by
  refine Nat.lt_pow_two_of_testBit _ fun j hj => ?_
  rw [testBit_pendMask, List.any_eq_false]
  intro o _
  cases o.dest with
  | none => simp
  | some d => have := pendBit_lt d; simp; omega

/-- PEND as rsr reads it, bit by bit. -/
theorem getLsbD_readThread_pend (s : State) (d : Dest) : (s.readThread 0x011).getLsbD (pendBit d) = s.iss.src.ops.any (fun o => o.dest == some d) := by
  have h := pendBit_lt d
  rw [show s.readThread 0x011 = BitVec.ofNat 64 s.iss.src.pendMask from rfl, BitVec.getLsbD_ofNat, testBit_pendMask_pendBit,
    decide_eq_true (show pendBit d < 64 by omega), Bool.true_and]

theorem readThread_pend_lt (s : State) : (s.readThread 0x011).toNat < 2 ^ 32 :=
  Nat.lt_of_le_of_lt (Nat.mod_le _ _) (pendMask_lt s.iss.src)

/-! ### MIGT (R113): four fields that do not overlap -/

/-- A number below a power of two is added to a multiple of it without a carry. -/
theorem ofNat_add_eq_or {w k x y : Nat} (hx : 2 ^ k ∣ x) (hy : y < 2 ^ k) : BitVec.ofNat w (x + y) = BitVec.ofNat w x ||| BitVec.ofNat w y := by
  obtain ⟨z, rfl⟩ := hx
  rw [Nat.two_pow_add_eq_or_of_lt hy, BitVec.ofNat_or]

theorem ofNat_mul_two_pow {w v : Nat} (x : BitVec v) (k : Nat) : BitVec.ofNat w (x.toNat * 2 ^ k) = x.setWidth w <<< k := by
  apply BitVec.eq_of_toNat_eq
  rw [BitVec.toNat_ofNat, BitVec.toNat_shiftLeft, BitVec.toNat_setWidth, Nat.shiftLeft_eq, Nat.mod_mul_mod]

/-- MIGT as rsr reads it: TSLOT, TCORE, RUN and THRESH, each at its place. -/
theorem readThread_migt (s : State) :
    let t := s.iss.src
    s.readThread 0x014 = t.tslot.setWidth 64 <<< 24 ||| t.tcore.setWidth 64 <<< 16 ||| t.run.setWidth 64 <<< 8 ||| t.thresh.setWidth 64 := by
  intro t
  have hcore := t.tcore.isLt
  have hrun := t.run.isLt
  calc s.readThread 0x014
    _ = BitVec.ofNat 64 (t.tslot.toNat * 2 ^ 24 + t.tcore.toNat * 2 ^ 16 + t.run.toNat * 2 ^ 8 + t.thresh.toNat) := rfl
    _ = _ := by
      rw [ofNat_add_eq_or (k := 8) (by omega) t.thresh.isLt, ofNat_add_eq_or (k := 16) (by omega) (by omega),
        ofNat_add_eq_or (k := 24) (by omega) (by omega), ofNat_mul_two_pow, ofNat_mul_two_pow, ofNat_mul_two_pow, BitVec.ofNat_toNat]

/-! ### The statement -/

/-- Settles O11: each number below 0x800 is one branch of `readThread` and of `writeThread`; MIGT and PEND are composed by `readThread_migt` and
`getLsbD_readThread_pend`. -/
theorem threadRegisters : Obligations.ThreadRegisters := by
  unfold Obligations.ThreadRegisters
  constructor
  · intro s d
    refine ⟨?_, next_rsr_of (Nat.mod_eq_of_lt (by omega)), next_rsr_of (Nat.mod_eq_of_lt (by omega)),
      next_rsr_of fun k => ⟨getLsbD_readThread_pend s (.s k), getLsbD_readThread_pend s (.v k), readThread_pend_lt s⟩⟩
    simp only [List.forall_mem_cons]
    exact ⟨next_rsr rfl, next_rsr rfl, next_rsr rfl, next_rsr rfl, next_rsr rfl, next_rsr rfl, next_rsr rfl, next_rsr rfl, next_rsr rfl, next_rsr rfl,
      next_rsr rfl, next_rsr rfl, next_rsr rfl, next_rsr rfl, next_rsr rfl, next_rsr (readThread_migt s), List.forall_mem_nil _⟩
  · intro s a
    constructor
    · simp only [List.forall_mem_cons]
      exact ⟨wsr_eq rfl, wsr_eq rfl, wsr_eq rfl, wsr_eq rfl, wsr_eq rfl, wsr_eq rfl, wsr_eq rfl, wsr_eq rfl, List.forall_mem_nil _⟩
    · simp only [List.forall_mem_cons]
      exact ⟨wsr_eq rfl, wsr_eq rfl, wsr_eq rfl, wsr_eq rfl, wsr_eq rfl, wsr_eq rfl, wsr_eq rfl, wsr_eq rfl, wsr_eq rfl, wsr_eq rfl, wsr_eq rfl,
        List.forall_mem_nil _⟩

end Sys2Proof.Laws

/-! SUPPORT. FailuresAndHeat: what an event that is raised leaves, the column that is set, the patrol of a part, layers that are lost, lanes, and heat, and O47. -/

namespace Sys2Proof.Laws

open Sys2Proof.Machine Sys2Proof.Safety

/-! ### Events that are raised (R354, R356) -/

/-- An event of this type and with this DATA waits. -/
def Waits (t : State) (ty data : Nat) : Prop := ∃ e ∈ t.trust.events, e.ty = ty ∧ e.data = BitVec.ofNat 64 data

/-- No event of s is lost in t, and where s has room for events, so has t. -/
def KeepsEvents (s t : State) : Prop := (EvRoom s → EvRoom t) ∧ ∀ e ∈ s.trust.events, e ∈ t.trust.events

/-- Events are raised, and nothing else happens. -/
def Tells (s t : State) : Prop := t = { s with trust := { s.trust with events := t.trust.events } } ∧ KeepsEvents s t

theorem keepsEvents_of_events {s t : State} (h : t.trust.events = s.trust.events) : KeepsEvents s t := by
  unfold KeepsEvents EvRoom; rw [h]; exact ⟨id, fun _ => id⟩

theorem KeepsEvents.trans {s t u : State} (h : KeepsEvents s t) (k : KeepsEvents t u) : KeepsEvents s u :=
  ⟨k.1 ∘ h.1, fun e he => k.2 e (h.2 e he)⟩

theorem Waits.mono {s t : State} {ty data : Nat} (h : Waits s ty data) (k : KeepsEvents s t) : Waits t ty data :=
  let ⟨e, he, hd⟩ := h; ⟨e, k.2 e he, hd⟩

theorem heldKind_of_room {s : State} (h : EvRoom s) (e : Ev) : State.heldKind s.trust e = false := by
  unfold EvRoom at h
  simp only [State.heldKind, Bool.and_eq_false_iff, decide_eq_false_iff_not, Nat.not_le]
  exact .inl h

/-- Where there is room, an event that is raised waits. -/
theorem waits_raiseEv {s : State} {e : Ev} {ty data : Nat} (h : EvRoom s) (ht : e.ty = ty) (hd : e.data = BitVec.ofNat 64 data) :
    Waits (s.raiseEv e) ty data := by
  rw [raiseEv_joins s e (heldKind_of_room h e)]
  exact ⟨{ e with q := s.q }, List.mem_append_right _ (List.mem_singleton_self _), ht, hd⟩

theorem tells_raiseEv (s : State) {e : Ev} (h : e.seq = none) : Tells s (s.raiseEv e) := by
  refine ⟨rfl, fun hr => ?_, fun x hx => ?_⟩
  · unfold EvRoom at hr ⊢
    rw [raiseEv_joins s e (heldKind_of_room hr e)]
    simpa [List.filter_append, h] using hr
  · rw [State.raiseEv_trust]
    dsimp only
    split
    · exact hx
    · exact List.mem_append_left _ hx

theorem tells_refl (s : State) : Tells s s := ⟨rfl, id, fun _ => id⟩

theorem Tells.trans {s t u : State} (h : Tells s t) (k : Tells t u) : Tells s u :=
  ⟨by rw [k.1, h.1], h.2.trans k.2⟩

theorem tells_foldl {α : Type} {f : State → α → State} (h : ∀ s x, Tells s (f s x)) (xs : List α) (s : State) : Tells s (xs.foldl f s) :=
  foldl_keeps (Tells s) f (fun b a hb => hb.trans (h b a)) xs s (tells_refl s)

/-- Of a list for each of whose members an event is raised, the event of each member waits in the end. -/
theorem waits_foldl {α : Type} {f : State → α → State} (h : ∀ s x, Tells s (f s x)) {ty data : Nat} {xs : List α} {x : α} (hx : x ∈ xs)
    (hw : ∀ s, EvRoom s → Waits (f s x) ty data) (s : State) (hr : EvRoom s) : Waits (xs.foldl f s) ty data := by
  obtain ⟨as, bs, rfl⟩ := List.append_of_mem hx
  rw [List.foldl_append, List.foldl_cons]
  exact (hw _ ((tells_foldl h as s).2.1 hr)).mono (tells_foldl h bs _).2

/-! ### The column that is set (R398) -/

@[simp] theorem column_k (s : State) (k : Nat) : (s.column k).k = k := by
  unfold State.column
  cases h : s.cols.find? (fun c => c.k == k) with
  | none => rfl
  | some c => simpa using List.find?_some h

/-- The column just set is read back. -/
theorem column_setColumn {c : Column} {k : Nat} (s : State) (h : c.k = k) : (s.setColumn c).column k = c := by
  subst h
  have hput : ∀ d : Column, ((if d.k == c.k then c else d).k == c.k) = (d.k == c.k) := by
    intro d
    by_cases hd : d.k = c.k <;> simp [hd]
  unfold State.column State.setColumn
  dsimp only
  split
  next h =>
    obtain ⟨d, hd⟩ := Option.isSome_iff_exists.1 (List.find?_isSome.2 (List.any_eq_true.1 h))
    have hk := List.find?_some hd
    rw [List.find?_map, show (fun d : Column => d.k == c.k) ∘ (fun d => if d.k == c.k then c else d) = (fun d => d.k == c.k) from funext hput, hd]
    simp [beq_iff_eq.1 hk]
  next h => rw [List.find?_append, List.find?_eq_none.2 (by simpa using h)]; simp

/-- A column is set, and its event is raised. -/
theorem setColumn_colEv {s t : State} {c : Column} {ty k : Nat} (hm : t.mem = s.mem) (he : t.trust = s.trust) (hk : c.k = k) :
    let u := (t.setColumn c).colEv ty c
    SameBytes s u ∧ u.column k = c ∧ (EvRoom s → Waits u ty (k + c.lost * 2 ^ 16)) := by
  subst hk
  refine ⟨fun a => ?_, column_setColumn t rfl, fun hr => waits_raiseEv ?_ rfl rfl⟩
  · exact getB_congr (congrArg Mem.cells hm) a
  · exact (keepsEvents_of_events (s := s) (congrArg Trust.events he)).1 hr

/-! ### Cores that are to be retired (R400) -/

theorem retireSoon_frame (s : State) (k layer : Nat) :
    s.retireSoon k layer = { s with rot := { s.rot with failed := (s.retireSoon k layer).rot.failed } } := by
  unfold State.retireSoon; split <;> rfl

theorem mem_retireSoon (s : State) (k layer : Nat) : (k, layer) ∈ (s.retireSoon k layer).rot.failed ∨ (k, layer) ∈ s.rot.retired := by
  unfold State.retireSoon
  split
  next h => simpa using h
  next => exact .inl (by simp [State.modRot])

theorem failed_subset_retireSoon (s : State) (k layer : Nat) : ∀ y ∈ s.rot.failed, y ∈ (s.retireSoon k layer).rot.failed := by
  intro y hy
  unfold State.retireSoon
  split
  · exact hy
  · exact List.mem_append_left _ hy

@[simp] theorem retireSoon_mem (s : State) (k layer : Nat) : (s.retireSoon k layer).mem = s.mem := by rw [retireSoon_frame]
@[simp] theorem retireSoon_trust (s : State) (k layer : Nat) : (s.retireSoon k layer).trust = s.trust := by rw [retireSoon_frame]
@[simp] theorem retireSoon_retired (s : State) (k layer : Nat) : (s.retireSoon k layer).rot.retired = s.rot.retired := by rw [retireSoon_frame]

/-! ### Layers that are lost (R399) -/

section
variable {s : State} {k layer : Nat}

/-- A data layer of a column with all its layers is lost. -/
theorem loseLayer_first (h0 : (s.column k).st = 0) (hl : (s.column k).lost ≠ layer) (h8 : layer < 8) :
    let c := { s.column k with st := 1, lost := layer, rbpos := 0 }
    s.loseLayer k layer = ((s.retireSoon k layer).setColumn c).colEv 0x11 c := by
  simp only [State.loseLayer, h0, h8, if_true, show (layer != (s.column k).lost) = true by simpa using hl.symm]

/-- Layer 8 of a column with all its layers is lost. -/
theorem loseLayer_spare (h0 : (s.column k).st = 0) (hl : (s.column k).lost ≠ 8) :
    s.loseLayer k 8 = (s.retireSoon k 8).setColumn { s.column k with st := 2, lost := 15 } := by
  simp only [State.loseLayer, h0, if_true, show (8 != (s.column k).lost) = true by simpa using hl.symm]
  rfl

/-- A second layer of a column is lost. -/
theorem loseLayer_second (h12 : (s.column k).st = 1 ∨ (s.column k).st = 2) (hl : layer ≠ (s.column k).lost) (h8 : layer ≠ 8 ∨ (s.column k).lost ≠ 15) :
    let c := { s.column k with st := 3, lost2 := layer }
    s.loseLayer k layer = ((s.retireSoon k layer).setColumn c).colEv 0x13 c := by
  have hne : (layer != (s.column k).lost) = true := by simpa using hl
  have h15 : (layer == 8 && (s.column k).lost == 15) = false := by simpa [or_iff_not_imp_left] using h8
  obtain h | h := h12
  · simp only [State.loseLayer, h, hne, if_true, if_neg hl]
  · simp only [State.loseLayer, h, hne, if_true, h15, decide_eq_false hl, Bool.or_false, Bool.false_eq_true, if_false]

/-- The loss of a layer leaves the cores to be retired, and may set the column and raise its event. -/
theorem loseLayer_cases (s : State) (k layer : Nat) :
    let r := if layer != (s.column k).lost then s.retireSoon k layer else s
    s.loseLayer k layer = r ∨ (∃ c, s.loseLayer k layer = r.setColumn c) ∨ ∃ ty c, s.loseLayer k layer = (r.setColumn c).colEv ty c := by
  unfold State.loseLayer
  dsimp only
  generalize (if layer != (s.column k).lost then s.retireSoon k layer else s) = r
  split
  next =>
    split
    · exact .inr (.inr ⟨_, _, rfl⟩)
    · exact .inr (.inl ⟨_, rfl⟩)
  next =>
    split
    · exact .inl rfl
    · exact .inr (.inr ⟨_, _, rfl⟩)
  next =>
    split
    · exact .inl rfl
    · exact .inr (.inr ⟨_, _, rfl⟩)
  next => exact .inl rfl

@[simp] theorem loseLayer_mem : (s.loseLayer k layer).mem = s.mem := by
  have hr : (if layer != (s.column k).lost then s.retireSoon k layer else s).mem = s.mem := by split <;> simp
  obtain h | ⟨c, h⟩ | ⟨ty, c, h⟩ := loseLayer_cases s k layer <;> rw [h] <;> exact hr

theorem keepsEvents_loseLayer : KeepsEvents s (s.loseLayer k layer) := by
  have hr : KeepsEvents s (if layer != (s.column k).lost then s.retireSoon k layer else s) := keepsEvents_of_events (by split <;> simp)
  have hc (t : State) (c : Column) : KeepsEvents t (t.setColumn c) := keepsEvents_of_events rfl
  obtain h | ⟨c, h⟩ | ⟨ty, c, h⟩ := loseLayer_cases s k layer
  · rwa [h]
  · rw [h]; exact hr.trans (hc _ c)
  · rw [h]; exact (hr.trans (hc _ c)).trans (tells_raiseEv _ rfl).2

end

/-! ### An error in a Shale sector (R395, R399) -/

@[simp] theorem countError_mem (s : State) (k layer : Nat) : (s.countError k layer).mem = s.mem := by
  unfold State.countError
  dsimp only
  split <;> simp

theorem keepsEvents_countError (s : State) (k layer : Nat) : KeepsEvents s (s.countError k layer) := by
  have hc (c : Column) : KeepsEvents s (s.setColumn c) := keepsEvents_of_events rfl
  unfold State.countError
  dsimp only
  split
  · exact (hc _).trans keepsEvents_loseLayer
  · exact hc _

/-- A poisoned sector keeps its bytes, has its mark, and posts its event. -/
theorem poisonShale_spec (s : State) (k layer sector : Nat) :
    SameBytes s (s.poisonShale k layer sector) ∧
    (s.poisonShale k layer sector).mem.poisoned (stackKey k (layer * 2 ^ 24 + sector * 128)) = true ∧
    (EvRoom s → Waits (s.poisonShale k layer sector) 0x10 (sector + k * 2 ^ 24 + layer * 2 ^ 34)) := by
  refine ⟨fun _ => rfl, ?_, fun hr => waits_raiseEv hr rfl rfl⟩
  have h := poisoned_setPoison s.mem (State.layerKey k layer sector) (State.layerKey k layer sector)
  rw [decide_eq_true rfl, Bool.true_or] at h
  exact h

/-- In a column with all its layers an error counts, and poisons where a second sector fails too and the layer is one of data. -/
theorem shaleError_healthy {s : State} {k : Nat} (layer sector : Nat) (two : Bool) (h : (s.column k).st = 0) :
    s.shaleError k layer sector two = (if two && decide (layer < 8) then s.poisonShale k layer sector else s).countError k layer := by
  simp only [State.shaleError, h, if_true]

/-! ### The patrol of a part (R397) -/

/-- The patrol of a part stands past a sector. -/
def patrolMoved (s : State) (part sector : Nat) : State :=
  s.modRot (fun r => { r with patrol := r.patrol.filter (fun x => x.1 != part) ++ [(part, s.passNo, sector + 1)] })

/-- The sectors of flash that fail correction among those that the patrol of a part reads up to a sector. -/
def flashHits (s : State) (part sector : Nat) : List Nat :=
  (s.flash.bad.flatMap (fun k => (List.range 8).map (fun i => 8 * k + i - 2 ^ 37))).filter (fun x =>
    decide (20000 + x / 2 ^ 32 = part) && decide (s.patrolAt part ≤ x % 2 ^ 32) && decide (x % 2 ^ 32 ≤ sector))

/-- A sector of flash that fails correction posts its event (R396, R406). -/
def flashTold (s : State) (x : Nat) : State := s.poisonEv (3 * 2 ^ 48 + x / 131072 * 2 ^ 24 + x % 131072)

theorem tells_flashTold (s : State) (x : Nat) : Tells s (flashTold s x) := tells_raiseEv s rfl

theorem patrolTo_three (s : State) (part sector : Nat) : s.patrolTo 3 part sector = (flashHits s part sector).foldl flashTold (patrolMoved s part sector) := rfl

theorem patrolAt_patrolMoved (s : State) (part sector : Nat) : (patrolMoved s part sector).patrolAt part = sector + 1 := by
  have hf : (patrolMoved s part sector).rot.patrol.find? (fun x => x.1 == part) = some (part, s.passNo, sector + 1) := by
    rw [show (patrolMoved s part sector).rot.patrol = s.rot.patrol.filter (fun x => x.1 != part) ++ [(part, s.passNo, sector + 1)] from rfl,
      List.find?_append, List.find?_eq_none.2 (by simp)]
    simp
  have hp : (patrolMoved s part sector).passNo = s.passNo := rfl
  simp [State.patrolAt, hf, hp]

/-- The patrol moves, charges owner 0, and tells of the sectors that fail; nothing else happens. -/
theorem tells_patrolTo (s : State) (unit part sector : Nat) :
    ∃ ow, Tells { patrolMoved s part sector with owners := ow } (s.patrolTo unit part sector) := by
  unfold State.patrolTo
  dsimp only
  split
  · exact ⟨_, tells_foldl tells_flashTold (flashHits s part sector) (patrolMoved s part sector)⟩
  split
  · exact ⟨_, tells_refl (patrolMoved s part sector)⟩
  split
  · exact ⟨_, tells_foldl (fun s _ => tells_raiseEv s rfl) _ ((patrolMoved s part sector).charge 0 4 _)⟩
  · exact ⟨_, tells_refl ((patrolMoved s part sector).charge 0 4 _)⟩

section
variable (s : State) (unit part sector : Nat)

@[simp] theorem patrolTo_mem : (s.patrolTo unit part sector).mem = s.mem := by obtain ⟨ow, h, -⟩ := tells_patrolTo s unit part sector; rw [h]; rfl
@[simp] theorem patrolTo_column (k : Nat) : (s.patrolTo unit part sector).column k = s.column k := by
  obtain ⟨ow, h, -⟩ := tells_patrolTo s unit part sector; rw [h]; rfl
theorem keepsEvents_patrolTo : KeepsEvents s (s.patrolTo unit part sector) := by
  obtain ⟨ow, -, h⟩ := tells_patrolTo s unit part sector; exact (keepsEvents_of_events rfl).trans h
@[simp] theorem patrolTo_flash : (s.patrolTo unit part sector).flash = s.flash := by obtain ⟨ow, h, -⟩ := tells_patrolTo s unit part sector; rw [h]; rfl
theorem patrolAt_patrolTo : (s.patrolTo unit part sector).patrolAt part = sector + 1 := by
  obtain ⟨ow, h, -⟩ := tells_patrolTo s unit part sector
  rw [h]; exact patrolAt_patrolMoved s part sector

end

/-! ### Flash sectors that the patrol reads (R395, R397, R465) -/

/-- The 1 KiB of flash in which the patrol reads. -/
def kibOf (sector : Nat) : Nat := extKey (sector / 131072 % 262144) (sector % 131072 * 128) / 1024

/-- The last sector that the patrol reads is among those it tells of, where its 1 KiB fails correction. -/
theorem mem_flashHits {s : State} {sector : Nat} (hb : kibOf sector ∈ s.flash.bad)
    (ha : s.patrolAt (State.patrolPart 3 sector).1 ≤ (State.patrolPart 3 sector).2) :
    sector / 131072 % 262144 * 131072 + sector % 131072 ∈ flashHits s (State.patrolPart 3 sector).1 (State.patrolPart 3 sector).2 := by
  unfold flashHits
  rw [List.mem_filter, List.mem_flatMap]
  refine ⟨⟨_, hb, List.mem_map.2 ⟨sector % 8, List.mem_range.2 (by omega), by unfold kibOf extKey; omega⟩⟩, ?_⟩
  have hat : (sector / 131072 % 262144 * 131072 + sector % 131072) % 2 ^ 32 = (State.patrolPart 3 sector).2 := by simp only [State.patrolPart]; omega
  rw [hat]
  simp only [Bool.and_eq_true, decide_eq_true_eq]
  exact ⟨⟨by simp only [State.patrolPart]; omega, ha⟩, Nat.le_refl _⟩

/-- The patrol reads on to a flash sector that fails correction, and the sector's event waits. -/
theorem patrolTo_bad_flash {s : State} {sector : Nat} (hb : kibOf sector ∈ s.flash.bad)
    (ha : s.patrolAt (State.patrolPart 3 sector).1 ≤ (State.patrolPart 3 sector).2) (hr : EvRoom s) :
    Waits (s.patrolTo 3 (State.patrolPart 3 sector).1 (State.patrolPart 3 sector).2) 0x10
      (3 * 2 ^ 48 + sector / 131072 % 262144 * 2 ^ 24 + sector % 131072) := by
  rw [patrolTo_three]
  refine waits_foldl tells_flashTold (mem_flashHits hb ha) (fun t ht => waits_raiseEv ht rfl ?_) _ hr
  refine congrArg (BitVec.ofNat 64) ?_
  omega

/-! ### What the rows of failures and heat perform -/

section
variable (s : State) (k layer sector region : Nat) (bad hot : Bool)

theorem exec_patrolScrubRead (unit : Nat) : exec (.patrolScrubRead unit sector bad) s = execPatrolScrubRead unit sector bad s := rfl
theorem exec_layerLost : exec (.layerLost k layer) s = execLayerLost k layer s := rfl
theorem exec_rebuildSector : exec (.rebuildSector k bad) s = execRebuildSector k bad s := rfl
theorem exec_coreLogicFailure : exec (.coreLogicFailure k layer) s = execCoreLogicFailure k layer s := rfl
theorem exec_laneFailure : exec (.laneFailure k region) s = execLaneFailure k region s := rfl
theorem exec_refreshRateChange : exec (.refreshRateChange k layer hot) s = execRefreshRateChange k layer hot s := rfl
theorem exec_thermalEvent : exec (.thermalEvent k layer) s = execThermalEvent k layer s := rfl
theorem exec_thermalTrip : exec (.thermalTrip k layer) s = execThermalTrip k layer s := rfl

end

/-! ### Patrol reads (R395 to R397) -/

section
variable {s : State} {k layer sector : Nat}

/-- A part is read once in a pass, and never with the patrol off. -/
theorem patrol_flash_idle (h : (State.patrolPart 3 sector).2 < s.patrolAt (State.patrolPart 3 sector).1 ∨ bit s.regs.pscfg.toNat 63 = false) (bad : Bool) :
    exec (.patrolScrubRead 3 sector bad) s = .next s := by
  have hc : (!bit s.regs.pscfg.toNat 63 || decide ((State.patrolPart 3 sector).2 < s.patrolAt (State.patrolPart 3 sector).1)) = true := by
    simpa [or_comm] using h
  rw [exec_patrolScrubRead]
  exact if_pos hc

/-- The patrol reads a part of flash on to a sector, which first stands bad where it is found so. -/
theorem exec_patrol_flash (hon : bit s.regs.pscfg.toNat 63 = true) (ha : s.patrolAt (State.patrolPart 3 sector).1 ≤ (State.patrolPart 3 sector).2) (bad : Bool) :
    exec (.patrolScrubRead 3 sector bad) s =
      .next ((if bad then s.memError 3 sector else s).patrolTo 3 (State.patrolPart 3 sector).1 (State.patrolPart 3 sector).2) := by
  have hc : (!bit s.regs.pscfg.toNat 63 || decide ((State.patrolPart 3 sector).2 < s.patrolAt (State.patrolPart 3 sector).1)) = false := by
    simpa [hon] using ha
  rw [exec_patrolScrubRead]
  exact if_neg (by rw [show (if 3 = 6 then 0 else 3) = 3 from rfl, hc]; exact Bool.false_ne_true)

/-- With no flash that fails, the patrol moves and tells of nothing. -/
theorem patrolTo_good_flash (part sector : Nat) (h : s.flash.bad = []) : s.patrolTo 3 part sector = patrolMoved s part sector := by
  rw [patrolTo_three, show flashHits s part sector = [] by simp [flashHits, h]]
  rfl

/-- A sector of flash that is found bad: its 1 KiB fails from then on, and nothing else changes. -/
theorem memError_three (s : State) (n : Nat) : s.memError 3 n = s.modFlash (fun f => { f with bad := setIns f.bad (kibOf n) }) := rfl

/-- The sector of a layer of a column, as the patrol numbers them. -/
def shaleNo (k layer sector : Nat) : Nat := (9 * k + layer) * 131072 + sector

theorem memError_shale (s : State) {unit : Nat} (hu : unit = 0 ∨ unit = 6) (hk : k < 1024) (hl : layer < 9) (hs : sector < 131072) :
    s.memError unit (shaleNo k layer sector) = s.shaleError k layer sector (unit == 6) := by
  have hd : shaleNo k layer sector / 131072 = 9 * k + layer := by unfold shaleNo; omega
  have hm : shaleNo k layer sector % 131072 = sector := by unfold shaleNo; omega
  have hk' : (9 * k + layer) / 9 % 1024 = k := by omega
  have hl' : (9 * k + layer) % 9 = layer := by omega
  obtain rfl | rfl := hu <;> simp only [State.memError, hd, hm, hk', hl'] <;> rfl

/-- A read of Shale that fails, of one sector or of two of one reconstruction, in a column with all its layers: the patrol reads each sector once in a pass. -/
theorem exec_patrol_shale {unit : Nat} (hu : unit = 0 ∨ unit = 6) (hon : bit s.regs.pscfg.toNat 63 = true) (h0 : (s.column k).st = 0) (hk : k < 1024)
    (hl : layer < 9) (hs : sector < 131072) :
    exec (.patrolScrubRead unit (shaleNo k layer sector) true) s = if sector < s.patrolAt (9 * k + layer) then .next s
      else .next ((s.patrolTo 0 (9 * k + layer) sector).shaleError k layer sector (unit == 6)) := by
  have hp : State.patrolPart 0 (shaleNo k layer sector) = (9 * k + layer, sector) := by
    simp only [State.patrolPart, shaleNo, Prod.mk.injEq]; omega
  have hk' : (9 * k + layer) / 9 = k := by omega
  have hc : State.colGone (s.column k) layer = false := by simp [State.colGone, h0]
  have hl' : (9 * k + layer) % 9 = layer := by omega
  have hz : (if unit = 6 then 0 else unit) = 0 := by obtain rfl | rfl := hu <;> rfl
  rw [exec_patrolScrubRead]
  unfold execPatrolScrubRead
  simp only [hz, hp, hk', hl', hc, hon, memError_shale _ hu hk hl hs]
  simp

/-- An error of one Shale sector that the other layers correct changes no byte and no mark. -/
theorem patrol_shale_corrects (hon : bit s.regs.pscfg.toNat 63 = true) (h0 : (s.column k).st = 0) (hk : k < 1024) (hl : layer < 9) (hs : sector < 131072) :
    Next (exec (.patrolScrubRead 0 (shaleNo k layer sector) true) s) (fun t => t.mem = s.mem) := by
  rw [exec_patrol_shale (.inl rfl) hon h0 hk hl hs]
  refine next_ite (fun _ => next_of rfl) (fun _ => next_of ?_)
  rw [shaleError_healthy _ _ _ (by rwa [patrolTo_column]), countError_mem, if_neg (by simp), patrolTo_mem]

/-- Where two sectors of one reconstruction fail, the sector is poisoned and its event waits. -/
theorem patrol_shale_poisons (hon : bit s.regs.pscfg.toNat 63 = true) (h0 : (s.column k).st = 0) (hk : k < 1024) (hl : layer < 8) (hs : sector < 131072)
    (ha : s.patrolAt (9 * k + layer) ≤ sector) :
    Next (exec (.patrolScrubRead 6 (shaleNo k layer sector) true) s) (fun t => SameBytes s t ∧
      t.mem.poisoned (stackKey k (layer * 2 ^ 24 + sector * 128)) = true ∧ (EvRoom s → Waits t 0x10 (sector + k * 2 ^ 24 + layer * 2 ^ 34))) := by
  rw [exec_patrol_shale (.inr rfl) hon h0 hk (by omega) hs, if_neg (by omega)]
  obtain ⟨hb, hp, hw⟩ := poisonShale_spec (s.patrolTo 0 (9 * k + layer) sector) k layer sector
  rw [shaleError_healthy _ _ _ (by rwa [patrolTo_column]), if_pos (by simpa using hl)]
  refine next_of ⟨fun a => ?_, ?_, fun hr => (hw ((keepsEvents_patrolTo s _ _ _).1 hr)).mono (keepsEvents_countError _ _ _)⟩
  · rw [countError_mem, hb a, patrolTo_mem]
  · rw [countError_mem]; exact hp

/-- The patrol reads on to a sector of flash whose 1 KiB fails correction: no byte changes, the part stands past the sector, and the sector's event waits. -/
theorem patrolTo_flash_told {t : State} (hb : kibOf sector ∈ t.flash.bad) (ha : t.patrolAt (State.patrolPart 3 sector).1 ≤ (State.patrolPart 3 sector).2) :
    let u := t.patrolTo 3 (State.patrolPart 3 sector).1 (State.patrolPart 3 sector).2
    SameBytes t u ∧ u.patrolAt (State.patrolPart 3 sector).1 = (State.patrolPart 3 sector).2 + 1 ∧
      (EvRoom t → Waits u 0x10 (3 * 2 ^ 48 + sector / 131072 % 262144 * 2 ^ 24 + sector % 131072)) :=
  ⟨fun a => by rw [patrolTo_mem], patrolAt_patrolTo _ _ _ _, patrolTo_bad_flash hb ha⟩

/-- A stream whose row of this thread is lost fails, and that core issues no bundle more. -/
def rowLost (x : Thread) (st : Stream) : Stream :=
  { st.noteFault x.pl.c (State.streamIdx st x.pl.c) x.pl.l { op := 0, code := 9, sub := 0, fpc := x.pc, faddr := 0 } with exited := st.exited ++ [x.pl.c] }

/-- The first failure of a stream is reported with the code of a lost row and the PC of its thread. -/
theorem rowLost_fail (x : Thread) {st : Stream} (h : st.fail = none) :
    ∃ i rep, (rowLost x st).fail = some (i, rep) ∧ rep.fcode = 9 ∧ rep.fpc = x.pc ∧ rep.faddr = 0 := by
  simp [rowLost, Stream.noteFault, h]

/-- A row of a stream whose context store fails is lost, and its stream fails (R293, R395). -/
theorem context_store_fails {x : Thread} {st : Stream} (hx : s.threads.find? (fun y => y.uid == sector) = some x) (hst : x.strm = some st.id)
    (hs : s.graph.streams = [st]) (hf : st.fail = none) :
    Next (exec (.patrolScrubRead 4 sector true) s) (fun t => SameBytes s t ∧ t.threads = s.threads ∧ ∃ f i rep, t.graph.streams = [f] ∧
      f.fail = some (i, rep) ∧ rep.fcode = 9 ∧ rep.fpc = x.pc ∧ rep.faddr = 0) := by
  have he : exec (.patrolScrubRead 4 sector true) s = .next (s.memError 4 sector) := rfl
  have hm : s.memError 4 sector = s.modStream st.id (rowLost x) := by
    simp only [State.memError, hx, hst]
    rfl
  have hg : (s.modStream st.id (rowLost x)).graph.streams = [rowLost x st] := by
    simp [State.modStream, State.modGraph, hs]
  obtain ⟨i, rep, hrep⟩ := rowLost_fail x hf
  rw [he, hm]
  exact next_of ⟨fun _ => rfl, rfl, _, i, rep, hg, hrep⟩

end

/-! ### Layers, cores and rebuilds (R398 to R400) -/

section
variable {s : State} {k layer : Nat}

theorem next_layerLost {P : State → Prop} (hk : k < 1024) (hl : layer ≤ 8) (h : P (s.loseLayer k layer)) : Next (exec (.layerLost k layer) s) P := by
  rw [exec_layerLost]
  unfold execLayerLost
  rw [if_pos (by simpa using ⟨hk, hl⟩)]
  exact next_of h

theorem layerLost_first (hk : k < 1024) (h8 : layer < 8) (h0 : (s.column k).st = 0) (hl : (s.column k).lost ≠ layer) :
    Next (exec (.layerLost k layer) s) (fun t => SameBytes s t ∧ t.column k = { s.column k with st := 1, lost := layer, rbpos := 0 } ∧
      (EvRoom s → Waits t 0x11 (k + layer * 2 ^ 16)) ∧ ((k, layer) ∈ t.rot.failed ∨ (k, layer) ∈ t.rot.retired)) := by
  refine next_layerLost hk (by omega) ?_
  rw [loseLayer_first h0 hl h8]
  obtain ⟨hb, hc, hw⟩ := setColumn_colEv (s := s) (t := s.retireSoon k layer) (c := { s.column k with st := 1, lost := layer, rbpos := 0 }) (ty := 0x11) (by simp) (by simp)
    (column_k s k)
  exact ⟨hb, hc, hw, (mem_retireSoon s k layer).imp id (fun h => (retireSoon_retired s k layer).symm ▸ h)⟩

theorem layerLost_second (hk : k < 1024) (h8 : layer ≤ 8) (h12 : (s.column k).st = 1 ∨ (s.column k).st = 2) (hl : layer ≠ (s.column k).lost)
    (h15 : layer ≠ 8 ∨ (s.column k).lost ≠ 15) :
    Next (exec (.layerLost k layer) s) (fun t => SameBytes s t ∧ t.column k = { s.column k with st := 3, lost2 := layer } ∧
      (EvRoom s → Waits t 0x13 (k + (s.column k).lost * 2 ^ 16))) := by
  refine next_layerLost hk h8 ?_
  rw [loseLayer_second h12 hl h15]
  exact setColumn_colEv (s := s) (t := s.retireSoon k layer) (c := { s.column k with st := 3, lost2 := layer }) (by simp) (by simp) (column_k s k)

theorem layerLost_spare (hk : k < 1024) (h0 : (s.column k).st = 0) (hl : (s.column k).lost ≠ 8) :
    Next (exec (.layerLost k 8) s) (fun t => SameBytes s t ∧ t.column k = { s.column k with st := 2, lost := 15 } ∧
      ((k, 8) ∈ t.rot.failed ∨ (k, 8) ∈ t.rot.retired)) := by
  refine next_layerLost hk (by omega) ?_
  rw [loseLayer_spare h0 hl]
  exact ⟨fun a => by simp, column_setColumn _ (column_k s k), (mem_retireSoon s k 8).imp id (fun h => (retireSoon_retired s k 8).symm ▸ h)⟩

theorem coreLogicFailure_retires (hk : k < 1024) (hl : layer ≤ 8) :
    Next (exec (.coreLogicFailure k layer) s) (fun t => t = { s with rot := { s.rot with failed := t.rot.failed, down := t.rot.down } } ∧
      (((k, layer) ∈ t.rot.failed ∧ (k, layer) ∈ t.rot.down) ∨ (k, layer) ∈ t.rot.retired) ∧ ∀ y ∈ s.rot.failed, y ∈ t.rot.failed) := by
  rw [exec_coreLogicFailure]
  unfold execCoreLogicFailure
  refine next_of ?_
  by_cases hr : (k, layer) ∈ s.rot.retired
  · rw [if_pos (by simp [hr])]
    exact ⟨rfl, .inr hr, fun _ => id⟩
  · rw [if_neg (by simp [hr]; omega)]
    have hf : (k, layer) ∈ (s.retireSoon k layer).rot.failed := (mem_retireSoon s k layer).resolve_right hr
    refine ⟨?_, .inl ⟨hf, ?_⟩, failed_subset_retireSoon s k layer⟩
    · rw [retireSoon_frame]; rfl
    · simp only [State.modRot]
      split
      next h => simpa using h
      next => simp

/-- A sector of the lost layer is rebuilt, with its mark where it stands poisoned. -/
theorem exec_rebuildSector_next (bad : Bool) (h1 : (s.column k).st = 1) (he : (s.column k).rbpos + 1 ≠ 131072) :
    exec (.rebuildSector k bad) s = .next ((if bad then s.poisonShale k (s.column k).lost (s.column k).rbpos else s).setColumn
      { s.column k with rbpos := (s.column k).rbpos + 1 }) := by
  rw [exec_rebuildSector]
  unfold execRebuildSector
  rw [if_neg (by simp [h1]), if_neg he]

/-- The last sector of the lost layer is rebuilt, and the column is EXPOSED (R399). -/
theorem exec_rebuildSector_last (bad : Bool) (h1 : (s.column k).st = 1) (he : (s.column k).rbpos + 1 = 131072) :
    let c := { s.column k with st := 2, rbpos := 131072 }
    exec (.rebuildSector k bad) s = .next (((if bad then s.poisonShale k (s.column k).lost (s.column k).rbpos else s).setColumn c).colEv 0x12 c) := by
  rw [exec_rebuildSector]
  unfold execRebuildSector
  rw [if_neg (by simp [h1]), if_pos he]

theorem rebuildSector_goes_on (h1 : (s.column k).st = 1) (he : (s.column k).rbpos + 1 ≠ 131072) :
    Next (exec (.rebuildSector k false) s) (fun t => t = { s with cols := t.cols } ∧ t.column k = { s.column k with rbpos := (s.column k).rbpos + 1 }) := by
  rw [exec_rebuildSector_next false h1 he]
  exact next_of ⟨rfl, column_setColumn s (column_k s k)⟩

theorem rebuildSector_ends (h1 : (s.column k).st = 1) (he : (s.column k).rbpos + 1 = 131072) :
    Next (exec (.rebuildSector k false) s) (fun t => SameBytes s t ∧ t.column k = { s.column k with st := 2, rbpos := 131072 } ∧
      (EvRoom s → Waits t 0x12 (k + (s.column k).lost * 2 ^ 16))) := by
  rw [exec_rebuildSector_last false h1 he]
  exact next_of (setColumn_colEv (c := { s.column k with st := 2, rbpos := 131072 }) rfl rfl (column_k s k))

/-- A sector of the lost layer that cannot be rebuilt is poisoned. -/
theorem rebuildSector_poisons (h1 : (s.column k).st = 1) :
    Next (exec (.rebuildSector k true) s) (fun t => SameBytes s t ∧
      t.mem.poisoned (stackKey k ((s.column k).lost * 2 ^ 24 + (s.column k).rbpos * 128)) = true) := by
  obtain ⟨hb, hp, -⟩ := poisonShale_spec s k (s.column k).lost (s.column k).rbpos
  by_cases he : (s.column k).rbpos + 1 = 131072
  · rw [exec_rebuildSector_last true h1 he]; exact next_of ⟨hb, hp⟩
  · rw [exec_rebuildSector_next true h1 he]; exact next_of ⟨hb, hp⟩

end

/-! ### Lanes (R402, R403) -/

section
variable {s : State} {k region : Nat}

/-- A bus that is to be halved: its column says so, and nothing but columns changes. -/
theorem halve_spec (s : State) (k region : Nat) :
    s.halve k region = { s with cols := (s.halve k region).cols } ∧ (region ≤ 8 → ((s.halve k region).column k).halfDue = true) := by
  unfold State.halve
  refine ⟨by split <;> rfl, fun h => ?_⟩
  rw [if_pos h]
  exact congrArg Column.halfDue (column_setColumn (c := { s.column k with halfDue := true }) s (column_k s k))

/-- The event of a lane: no byte changes. -/
theorem laneEv_spec {t : State} {ty : Nat} (ht : t.trust = s.trust) (hm : t.mem = s.mem) :
    SameBytes s (t.laneEv ty k region) ∧ (EvRoom s → Waits (t.laneEv ty k region) ty (k + region * 2 ^ 16)) :=
  ⟨fun a => congrArg (Mem.getB · a) hm, fun hr => waits_raiseEv ((keepsEvents_of_events (congrArg Trust.events ht)).1 hr) rfl rfl⟩

/-- In a pause a canary's drift schedules a repair. -/
theorem laneFailure_drift (hk : k < 1024) (hr : region ≤ 10) (hp : s.rot.pause.isSome = true) :
    Next (exec (.laneFailure k region) s) (fun t => SameBytes s t ∧ t.rot.repairs = s.rot.repairs ++ [{ tile := k, region := region }] ∧
      (EvRoom s → Waits t 0x16 (k + region * 2 ^ 16))) := by
  have hm : region % 16 = region := by omega
  rw [exec_laneFailure]
  unfold execLaneFailure
  dsimp only
  rw [hm, if_neg (by simp; omega), if_pos (by simp [hp]; omega)]
  obtain ⟨hb, hw⟩ := laneEv_spec (s := s) (t := s.modRot (fun r => { r with repairs := r.repairs ++ [{ tile := k, region := region }] })) (ty := 0x16) (k := k)
    (region := region) rfl rfl
  exact next_of ⟨hb, rfl, hw⟩

/-- A lane that is lost, outside a pause or in one, halves its bus, and where no spare is left its event waits. -/
theorem exec_laneFailure_lost {n : Nat} (hk : k < 1024) (hn : n % 16 = region) (hr : region ≤ 10) (h32 : n < 32) (hp : s.rot.pause = none ∨ 16 ≤ n) :
    exec (.laneFailure k n) s = .next ((if s.regionSpares k region = 0 then s.laneEv 0x18 k region else s).halve k region) := by
  rw [exec_laneFailure]
  unfold execLaneFailure
  dsimp only
  rw [hn, if_neg (by simp; omega), if_neg (by obtain h | h := hp <;> simp [h])]
  split <;> rfl

theorem laneFailure_in_pause (hk : k < 1024) (hr : region ≤ 8) :
    Next (exec (.laneFailure k (region + 16)) s) (fun t => SameBytes s t ∧ (t.column k).halfDue = true) := by
  rw [exec_laneFailure_lost hk (region := region) (by omega) (by omega) (by omega) (.inr (by omega))]
  obtain ⟨hf, hh⟩ := halve_spec (if s.regionSpares k region = 0 then s.laneEv 0x18 k region else s) k region
  refine next_of ⟨fun a => ?_, hh hr⟩
  rw [hf]
  split <;> rfl

theorem laneFailure_no_spare (hk : k < 1024) (hr : region ≤ 10) (hp : s.rot.pause = none) (h0 : s.regionSpares k region = 0) :
    Next (exec (.laneFailure k region) s) (fun t => SameBytes s t ∧ (EvRoom s → Waits t 0x18 (k + region * 2 ^ 16)) ∧
      (region ≤ 8 → (t.column k).halfDue = true)) := by
  rw [exec_laneFailure_lost hk (region := region) (by omega) hr (by omega) (.inl hp), if_pos h0]
  obtain ⟨hf, hh⟩ := halve_spec (s.laneEv 0x18 k region) k region
  obtain ⟨hb, hw⟩ := laneEv_spec (s := s) (t := s) (ty := 0x18) (k := k) (region := region) rfl rfl
  refine next_of ⟨?_, ?_, hh⟩
  · rw [hf]; exact hb
  · rw [hf]; exact hw

theorem laneFailure_spare (hk : k < 1024) (hr : region ≤ 10) (hp : s.rot.pause = none) (h0 : s.regionSpares k region ≠ 0) :
    Next (exec (.laneFailure k region) s) (fun t => t = { s with cols := t.cols } ∧ (region ≤ 8 → (t.column k).halfDue = true)) := by
  rw [exec_laneFailure_lost hk (region := region) (by omega) hr (by omega) (.inl hp), if_neg h0]
  exact next_of (halve_spec s k region)

end

/-! ### Heat (R32, R404) -/

section
variable {s : State} {k layer : Nat}

theorem bit_add_two_pow {x j : Nat} (h : bit x j = false) : bit (x + 2 ^ j) j = true := by
  simp only [bit, beq_eq_false_iff_ne, beq_iff_eq, Nat.add_div_right _ (Nat.two_pow_pos j)] at h ⊢
  omega

theorem bit_sub_two_pow {x j : Nat} (h : bit x j = true) : bit (x - 2 ^ j) j = false := by
  simp only [bit, beq_eq_false_iff_ne, beq_iff_eq] at h ⊢
  have hd : (x - 2 ^ j) / 2 ^ j = x / 2 ^ j - 1 := by simpa using Nat.sub_mul_div x (2 ^ j) 1
  rw [hd]
  omega

/-- The refresh rate of a layer changes: its bit follows, and its event waits. -/
theorem refreshRateChange_turns {hot : Bool} (hk : k < 1024) (hl : layer ≤ 8) (hh : bit (s.column k).hot layer ≠ hot) :
    Next (exec (.refreshRateChange k layer hot) s) (fun t => SameBytes s t ∧ bit (t.column k).hot layer = hot ∧
      (EvRoom s → Waits t 0x19 (k + layer * 2 ^ 16 + (if hot then 2 ^ 24 else 0)))) := by
  rw [exec_refreshRateChange]
  unfold execRefreshRateChange
  dsimp only
  rw [if_neg (by simp [hh]; omega)]
  refine next_of ⟨fun _ => rfl, ?_, fun hr => waits_raiseEv hr rfl rfl⟩
  have hc := column_setColumn (c := { s.column k with hot := if hot then (s.column k).hot + 2 ^ layer else (s.column k).hot - 2 ^ layer }) s (column_k s k)
  change bit ((s.setColumn _).column k).hot layer = hot
  rw [hc]
  cases hot
  · exact bit_sub_two_pow (by simpa using hh)
  · exact bit_add_two_pow (by simpa using hh)

theorem sensor_eq_true (layer : Nat) : sensor layer = true ↔ layer % 16 ≤ 8 ∨ layer % 16 = 15 := by simp [sensor]

theorem thermalEvent_posts (h : layer % 16 ≤ 8 ∨ layer % 16 = 15) :
    Next (exec (.thermalEvent k layer) s) (fun t => t = { s with trust := { s.trust with events := t.trust.events } } ∧
      (EvRoom s → Waits t 0x03 (k % 64 + layer % 16 * 2 ^ 8))) := by
  rw [exec_thermalEvent]
  unfold execThermalEvent
  rw [(sensor_eq_true layer).2 h]
  exact next_of ⟨rfl, fun hr => waits_raiseEv hr rfl rfl⟩

theorem thermalTrip_posts (h : layer % 16 ≤ 8 ∨ layer % 16 = 15) :
    Next (exec (.thermalTrip k layer) s) (fun t => t = { s with trust := { s.trust with events := t.trust.events, tripDue := true } } ∧
      (EvRoom s → Waits t 0x04 (k % 64 + layer % 16 * 2 ^ 8))) := by
  rw [exec_thermalTrip]
  unfold execThermalTrip
  rw [(sensor_eq_true layer).2 h]
  exact next_of ⟨rfl, fun hr => waits_raiseEv hr rfl rfl⟩

/-- A layer without a sensor names none. -/
theorem thermal_no_sensor (h8 : 8 < layer % 16) (h15 : layer % 16 ≠ 15) :
    exec (.thermalEvent k layer) s = .next s ∧ exec (.thermalTrip k layer) s = .next s := by
  have hn : sensor layer = false := by rw [← Bool.not_eq_true, sensor_eq_true]; omega
  rw [exec_thermalEvent, exec_thermalTrip]
  unfold execThermalEvent execThermalTrip
  rw [hn]
  exact ⟨rfl, rfl⟩

/-- A source that holds an event of a kind raises no other (R356, log 105). -/
theorem raiseEv_held {e : Ev} (h : State.heldKind s.trust e = true) : s.raiseEv e = s := by
  simp [State.raiseEv, State.modTrust, h]

theorem thermalEvent_held (h : State.heldKind s.trust { ty := 3, src := 64 + k % 64 * 16 + layer % 16 } = true) : exec (.thermalEvent k layer) s = .next s := by
  rw [exec_thermalEvent]
  unfold execThermalEvent
  split
  · rfl
  · exact congrArg Host.Outcome.next (raiseEv_held h)

end

/-! ### The beat boundary: buses halve, and a trip takes effect (R32, R403) -/

section
variable {s : State}

/-- Owners that are released resume, and nothing else changes but their packets and rows. -/
theorem releaseOwners_frame (s : State) :
    s.releaseOwners = { s with owners := s.releaseOwners.owners, graph := s.releaseOwners.graph, threads := s.releaseOwners.threads } := by
  unfold State.releaseOwners
  dsimp only
  split
  · rfl
  · have h := foldl_keeps (fun t : State => t = { s with owners := t.owners, graph := t.graph })
      (fun (t : State) o => (t.modOwner o (fun x => { x with frozen := false, releasing := false })).rearrive o)
      (fun t o ht => by rw [ht]; rfl) ((List.range 16).filter (fun o => (s.owner o).releasing)) s rfl
    generalize List.foldl _ s _ = t at h ⊢
    change { t with threads := t.unbindRows.threads } = { s with owners := t.owners, graph := t.graph, threads := t.unbindRows.threads }
    generalize t.unbindRows.threads = rows
    rw [h]

@[simp] theorem releaseOwners_trust (s : State) : s.releaseOwners.trust = s.trust := by rw [releaseOwners_frame]
@[simp] theorem releaseOwners_rot (s : State) : s.releaseOwners.rot = s.rot := by rw [releaseOwners_frame]
@[simp] theorem releaseOwners_column (s : State) (k : Nat) : s.releaseOwners.column k = s.column k := by rw [releaseOwners_frame]; rfl
@[simp] theorem tripNow_column (s : State) (k : Nat) : s.tripNow.column k = s.column k := by unfold State.tripNow; split <;> rfl
@[simp] theorem halveNow_trust (s : State) : s.halveNow.trust = s.trust := rfl
@[simp] theorem halveNow_rot (s : State) : s.halveNow.rot = s.rot := rfl

/-- The bus of a column runs at half its width from here on where that is due (R403). -/
theorem column_halveNow (s : State) (k : Nat) : s.halveNow.column k =
    if (s.column k).halfDue then { s.column k with half := true, halfDue := false } else s.column k := by
  have hput : (fun c : Column => c.k == k) ∘ (fun c : Column => if c.halfDue then { c with half := true, halfDue := false } else c) = (fun c => c.k == k) := by
    funext c
    dsimp only [Function.comp]
    split <;> rfl
  unfold State.column State.halveNow
  dsimp only
  rw [List.find?_map, hput]
  cases s.cols.find? (fun c => c.k == k) <;> rfl

theorem atBoundary_of_boundary (hq : s.q % 8 = 0) : s.atBoundary = s.tripNow.halveNow.releaseOwners := if_pos (by simpa using hq)

theorem atBoundary_halves {k : Nat} (hd : (s.column k).halfDue = true) (hq : s.q % 8 = 0) : (s.atBoundary.column k).half = true := by
  rw [atBoundary_of_boundary hq, releaseOwners_column, column_halveNow, tripNow_column, if_pos hd]

/-- A trip that is due takes effect, and abandons a pause. -/
theorem tripNow_due (hd : s.trust.tripDue = true) : s.tripNow.trust.tripped = true ∧ s.tripNow.rot.pause = none := by
  unfold State.tripNow
  rw [if_pos hd]
  exact ⟨rfl, rfl⟩

theorem atBoundary_trips (hd : s.trust.tripDue = true) (hq : s.q % 8 = 0) : s.atBoundary.trust.tripped = true ∧ s.atBoundary.rot.pause = none := by
  rw [atBoundary_of_boundary hq, releaseOwners_trust, releaseOwners_rot, halveNow_trust, halveNow_rot]
  exact tripNow_due hd

/-- A trip lasts. -/
theorem atBoundary_tripped (h : s.trust.tripped = true) : s.atBoundary.trust.tripped = true := by
  unfold State.atBoundary
  split
  · rw [releaseOwners_trust, halveNow_trust]
    by_cases hd : s.trust.tripDue = true
    · exact (tripNow_due hd).1
    · unfold State.tripNow
      rwa [if_neg hd]
  · exact h

theorem ofCompute_of_mem_powered {d : Due} {ds : List Due} (h : s.trust.tripped = true) (hd : d ∈ s.powered ds) : State.ofCompute d = false := by
  unfold State.powered at hd
  rw [if_pos h] at hd
  simpa using (List.mem_filter.1 hd).2

/-- What a quartz count brings, once the beat boundary is past: in a pause it draws a free value too. -/
def brought (u : State) : State :=
  let u := { u with clk := { u.clk with due := u.powered u.dueNow, todo := if u.trust.tripped then [] else u.turnsNow } }
  if u.rot.pause.isSome then u.drawn else u

theorem brought_tripped {u : State} (h : u.trust.tripped = true) : (brought u).clk.todo = [] ∧ (brought u).clk.due = u.powered u.dueNow := by
  unfold brought
  rw [h]
  dsimp only
  split <;> exact ⟨rfl, rfl⟩

/-- The next quartz count, which wraps. -/
def counted (s : State) : State :=
  { s with clk := { s.clk with quartz := s.clk.quartz + 1, wraps := s.clk.wraps + (if s.clk.quartz + 1 = 0 then 1 else 0) } }

theorem tick_eq (s : State) : s.tick = brought (counted (if s.trust.tripped then s else s.engineCycle)).atBoundary := rfl

/-- After a trip a quartz count brings no turn of a slot and no step of compute. -/
theorem tick_tripped (h : s.trust.tripped = true) : s.tick.clk.todo = [] ∧ ∀ d ∈ s.tick.clk.due, State.ofCompute d = false := by
  have ht : (counted s).atBoundary.trust.tripped = true := atBoundary_tripped h
  obtain ⟨htodo, hdue⟩ := brought_tripped ht
  rw [tick_eq, if_pos h, hdue]
  exact ⟨htodo, fun d hd => ofCompute_of_mem_powered ht hd⟩

end

/-! ### The statement -/

/-- Settles O47: each clause is what its row performs, by the lemma of that row; the beat boundary and the quartz count close it. -/
theorem failuresAndHeat : Obligations.FailuresAndHeat := by
  unfold Obligations.FailuresAndHeat
  intro s k layer sector region hot
  refine ⟨patrol_flash_idle, fun hon ha => ⟨fun hb => ?_, fun hb => ?_, ?_⟩, fun x st hx hst hs hf => context_store_fails hx hst hs hf,
    patrol_shale_corrects, patrol_shale_poisons,
    fun hk h8 => ⟨layerLost_first hk h8, fun h12 hl => layerLost_second hk (by omega) h12 hl (.inl (by omega))⟩,
    fun hk => ⟨fun h12 hl => layerLost_second hk (Nat.le_refl 8) h12 (by omega) (.inr (by omega)), layerLost_spare hk, coreLogicFailure_retires hk⟩,
    fun h1 => ⟨rebuildSector_goes_on h1, rebuildSector_ends h1, rebuildSector_poisons h1⟩,
    fun hk hr => ⟨fun p hp => laneFailure_drift hk hr (by simp [hp]), fun p _ => laneFailure_in_pause hk, laneFailure_no_spare hk hr, laneFailure_spare hk hr⟩,
    atBoundary_halves, refreshRateChange_turns, fun hl => ⟨thermalEvent_posts hl, thermalTrip_posts hl⟩, thermal_no_sensor, thermalEvent_held,
    atBoundary_trips, tick_tripped⟩
  · rw [exec_patrol_flash hon ha, if_neg Bool.false_ne_true, patrolTo_good_flash _ _ hb]
    exact next_of ⟨rfl, patrolAt_patrolMoved _ _ _⟩
  · rw [exec_patrol_flash hon ha, if_neg Bool.false_ne_true]
    exact next_of ⟨patrolTo_flash_told hb ha, patrolTo_flash _ _ _ _⟩
  · rw [exec_patrol_flash hon ha, if_pos rfl, memError_three]
    have hb : kibOf sector ∈ (s.modFlash (fun f => { f with bad := setIns f.bad (kibOf sector) })).flash.bad := (mem_setIns _ _ _).2 (.inl rfl)
    exact next_of ⟨patrolTo_flash_told hb ha, by rw [patrolTo_flash]; exact hb⟩

end Sys2Proof.Laws

/-! SUPPORT. ScalarArithmetic: what the scalar sums, products and quotients write, the high halves and divisions read as integers, and O1. -/

namespace Sys2Proof.Laws

open Sys2Proof.Machine Sys2Proof.Safety

/-! ### What each form writes (R99) -/

section
variable (s : State) (d a b : Fin 16)

theorem exec_add : exec (.add d a b) s = .next (s.wS d (s.iss.src.s[a] + s.iss.src.s[b])) := rfl
theorem exec_sub : exec (.sub d a b) s = .next (s.wS d (s.iss.src.s[a] - s.iss.src.s[b])) := rfl
theorem exec_addi (i : BitVec 12) : exec (.addi d a i) s = .next (s.wS d (s.iss.src.s[a] + i.signExtend 64)) := rfl
theorem exec_mul : exec (.mul d a b) s = .next (s.wS d (s.iss.src.s[a] * s.iss.src.s[b])) := rfl
theorem exec_mulh : exec (.mulh d a b) s = .next (s.wS d (mulhS s.iss.src.s[a] s.iss.src.s[b])) := rfl
theorem exec_mulhn : exec (.mulhn d a b) s = .next (s.wS d (mulhU s.iss.src.s[a] s.iss.src.s[b])) := rfl
theorem exec_div : exec (.div d a b) s = .next (s.wS d (divS s.iss.src.s[a] s.iss.src.s[b])) := rfl
theorem exec_rem : exec (.rem d a b) s = .next (s.wS d (remS s.iss.src.s[a] s.iss.src.s[b])) := rfl
theorem exec_divn : exec (.divn d a b) s = .next (s.wS d (divU s.iss.src.s[a] s.iss.src.s[b])) := rfl
theorem exec_remn : exec (.remn d a b) s = .next (s.wS d (remU s.iss.src.s[a] s.iss.src.s[b])) := rfl

end

/-! ### High halves of products (R99) -/

/-- A signed product lies within ±2^126, so its high half is a word. -/
theorem toInt_mulhS (x y : Word) : (mulhS x y).toInt = x.toInt * y.toInt / 2 ^ 64 := by
  have hlo : -2 ^ 126 ≤ x.toInt * y.toInt := BitVec.le_toInt_mul_toInt
  have hhi : x.toInt * y.toInt ≤ 2 ^ 126 := BitVec.toInt_mul_toInt_le
  exact BitVec.toInt_ofInt_eq_self (by decide) (by omega) (by omega)

/-- An unsigned product lies below 2^128, so its high half is a word. -/
theorem toNat_mulhU (x y : Word) : (mulhU x y).toNat = x.toNat * y.toNat / 2 ^ 64 := by
  have hprod : x.toNat * y.toNat < 2 ^ 64 * 2 ^ 64 := Nat.mul_lt_mul'' x.isLt y.isLt
  exact Nat.mod_eq_of_lt (Nat.div_lt_of_lt_mul hprod)

/-! ### Quotients and remainders (R34): the divisions of the model are those of Lean's bit vectors -/

theorem sdiv_eq_tdiv (x y : Int) : sdiv x y = x.tdiv y := by
  unfold sdiv
  split
  next h => rw [h, Int.tdiv_zero]
  next => rfl

theorem srem_eq_tmod (x y : Int) : srem x y = x.tmod y := by
  unfold srem
  split
  next h => rw [h, Int.tmod_zero]
  next => rfl

/-- The model's signed quotient wraps where it leaves the range, as the library's does. -/
theorem divS_eq_sdiv (x y : Word) : divS x y = x.sdiv y := by
  apply BitVec.eq_of_toInt_eq
  rw [BitVec.toInt_sdiv, divS, BitVec.toInt_ofInt, sdiv_eq_tdiv]

theorem remS_eq_srem (x y : Word) : remS x y = x.srem y := by
  rw [remS, srem_eq_tmod, ← BitVec.toInt_srem, BitVec.ofInt_toInt]

theorem divU_eq_udiv (x y : Word) : divU x y = x / y := by
  unfold divU
  split
  next h => rw [h]; exact BitVec.udiv_zero.symm
  next => rw [← BitVec.toNat_udiv, BitVec.ofNat_toNat, BitVec.setWidth_eq]

theorem remU_eq_umod (x y : Word) : remU x y = x % y := by
  unfold remU
  split
  next h => rw [h]; exact BitVec.umod_zero.symm
  next => rw [← BitVec.toNat_umod, BitVec.ofNat_toNat, BitVec.setWidth_eq]

/-- SignedDiv: the two fixed cases, and truncation toward zero in all others. -/
theorem divS_spec (x y : Word) : (y = 0 → divS x y = 0) ∧ (x = BitVec.intMin 64 → y = -1 → divS x y = x) ∧
    (y ≠ 0 → ¬(x = BitVec.intMin 64 ∧ y = -1) → (divS x y).toInt = x.toInt.tdiv y.toInt) := by
  rw [divS_eq_sdiv]
  refine ⟨fun h => ?_, fun hx hy => ?_, fun _ h => ?_⟩
  · rw [h]; exact BitVec.sdiv_zero
  · rw [hx, hy]; exact BitVec.intMin_sdiv_neg_one
  · exact BitVec.toInt_sdiv_of_ne_or_ne x y (Decidable.not_and_iff_not_or_not.1 h)

/-- The signed remainder takes the sign of the dividend, and no case overflows. -/
theorem remS_spec (x y : Word) : (y = 0 → remS x y = x) ∧ (y ≠ 0 → (remS x y).toInt = x.toInt.tmod y.toInt) := by
  rw [remS_eq_srem]
  exact ⟨fun h => by rw [h]; exact BitVec.srem_zero, fun _ => BitVec.toInt_srem x y⟩

theorem divU_spec (x y : Word) : (y = 0 → divU x y = 0) ∧ (y ≠ 0 → (divU x y).toNat = x.toNat / y.toNat) :=
  ⟨fun h => if_pos h, fun _ => by rw [divU_eq_udiv]; exact BitVec.toNat_udiv⟩

theorem remU_spec (x y : Word) : (y = 0 → remU x y = x) ∧ (y ≠ 0 → (remU x y).toNat = x.toNat % y.toNat) :=
  ⟨fun h => if_pos h, fun _ => by rw [remU_eq_umod]; exact BitVec.toNat_umod⟩

/-! ### The statement -/

/-- Settles O1: each form writes the value that its `exec_` equation names, and the high halves and divisions are what their lemmas say. -/
theorem sumsProductsQuotients : Obligations.SumsProductsQuotients := by
  unfold Obligations.SumsProductsQuotients
  refine ⟨fun s d a b i => ⟨?_, ?_, ?_, ?_, ?_, ?_⟩, fun s d a b => ⟨?_, ?_, ?_, ?_⟩⟩
  · rw [exec_add]; exact next_wS rfl
  · rw [exec_sub]; exact next_wS rfl
  · rw [exec_addi]; exact next_wS rfl
  · rw [exec_mul]; exact next_wS rfl
  · rw [exec_mulh]; exact next_wS_of (toInt_mulhS _ _)
  · rw [exec_mulhn]; exact next_wS_of (toNat_mulhU _ _)
  · rw [exec_div]; exact next_wS_of (divS_spec _ _)
  · rw [exec_rem]; exact next_wS_of (remS_spec _ _)
  · rw [exec_divn]; exact next_wS_of (divU_spec _ _)
  · rw [exec_remn]; exact next_wS_of (remU_spec _ _)

end Sys2Proof.Laws

/-! SUPPORT. Rounding: a bit pattern in its fields, exact scaling and packing of what a format holds, and O8. -/

namespace Sys2Proof.Laws

open Sys2Proof.Machine Sys2Proof.Safety

/-! ### The fields of a bit pattern (R36) -/

/-- A binary format with n fraction bits, eight exponent bits and a sign. -/
def binary (n : Nat) : Fmt := ⟨n + 1, n + 9⟩

theorem f32_eq_binary : Fmt.f32 = binary 23 := rfl
theorem bf16_eq_binary : Fmt.bf16 = binary 7 := rfl

/-- The bits of a sign, an exponent field and a fraction field. -/
def ofFields (n : Nat) (neg : Bool) (ex fr : Nat) : Nat := (if neg then 2 ^ (n + 8) else 0) + ex * 2 ^ n + fr

/-- A pattern is made of its fields. -/
theorem ofFields_bits {n b : Nat} (hb : b < 2 ^ (n + 9)) : ofFields n (bit b (n + 8)) (b / 2 ^ n % 256) (b % 2 ^ n) = b := by
  have hfr : 2 ^ n * (b / 2 ^ n) + b % 2 ^ n = b := Nat.div_add_mod b (2 ^ n)
  have hex : b / 2 ^ n / 256 = b / 2 ^ (n + 8) := by rw [Nat.div_div_eq_div_mul, Nat.pow_add]
  have htop : b / 2 ^ (n + 8) < 2 := Nat.div_lt_of_lt_mul (by rwa [← Nat.pow_succ])
  have hsplit : b / 2 ^ n = b / 2 ^ (n + 8) * 256 + b / 2 ^ n % 256 := by omega
  have hsign : (if bit b (n + 8) then 2 ^ (n + 8) else 0) = b / 2 ^ (n + 8) * 256 * 2 ^ n := by
    unfold bit
    obtain h | h : b / 2 ^ (n + 8) = 0 ∨ b / 2 ^ (n + 8) = 1 := by omega
    · rw [h]; simp
    · rw [h, Nat.pow_add, Nat.mul_comm]; rfl
  calc ofFields n (bit b (n + 8)) (b / 2 ^ n % 256) (b % 2 ^ n)
    _ = (b / 2 ^ (n + 8) * 256 + b / 2 ^ n % 256) * 2 ^ n + b % 2 ^ n := by rw [ofFields, hsign, Nat.add_mul]
    _ = b := by rw [← hsplit, Nat.mul_comm, hfr]

section
variable {n : Nat} (b : Nat)

theorem val_of_special (h : b / 2 ^ n % 256 = 255) (hf : ((binary n).val b).isNan = false) :
    b % 2 ^ n = 0 ∧ (binary n).val b = .inf (bit b (n + 8)) := by
  have hv : (binary n).val b = if b % 2 ^ n = 0 then .inf (bit b (n + 8)) else .nan (!bit (b % 2 ^ n) (n - 1)) := if_pos h
  rw [hv] at hf ⊢
  split at hf
  next h0 => exact ⟨h0, if_pos h0⟩
  next => cases hf

theorem val_of_subnormal (h : b / 2 ^ n % 256 = 0) : (binary n).val b = .fin (bit b (n + 8)) (b % 2 ^ n) (-126 - n) := by
  simp [Fmt.val, binary, Fmt.emin, h]

theorem val_of_normal (h0 : b / 2 ^ n % 256 ≠ 0) (h255 : b / 2 ^ n % 256 ≠ 255) :
    (binary n).val b = .fin (bit b (n + 8)) (b % 2 ^ n + 2 ^ n) ((b / 2 ^ n % 256 : Nat) - 127 - n) := by
  simp [Fmt.val, binary, h0, h255]

end

/-! ### Values that are multiples of the unit rounded to are exact -/

/-- What is already a multiple of 2^qe is not changed, in any mode. -/
theorem roundAt_of_le (mode : RM) (neg : Bool) (m : Nat) {e qe : Int} (h : qe ≤ e) : roundAt mode neg m e qe = (m * 2 ^ (e - qe).toNat, false) := if_pos h

theorem roundAt_self (mode : RM) (neg : Bool) (m : Nat) (e : Int) : roundAt mode neg m e e = (m, false) := by
  rw [roundAt_of_le mode neg m (Int.le_refl e), Int.sub_self]
  simp

/-- A significand scaled up to p bits has no more than p bits. -/
theorem scaled_ne_two_pow {m n : Nat} (hn : m.log2 ≤ n) : m * 2 ^ (n - m.log2) ≠ 2 ^ (n + 1) := by
  have hlt : m < 2 ^ (m.log2 + 1) := Nat.lt_log2_self
  have h : m * 2 ^ (n - m.log2) < 2 ^ (m.log2 + 1) * 2 ^ (n - m.log2) := Nat.mul_lt_mul_of_pos_right hlt (Nat.two_pow_pos _)
  rw [← Nat.pow_add, show m.log2 + 1 + (n - m.log2) = n + 1 by omega] at h
  exact Nat.ne_of_lt h

/-- A significand of at most p bits is exact at p bits: no rounding takes place, and only the exponent tells what becomes of it. -/
theorem round_of_short (mode : RM) (neg : Bool) {n m : Nat} {e : Int} (hm : m ≠ 0) (hn : m.log2 ≤ n) (htop : e + m.log2 ≤ 127) :
    (binary n).round mode (.fin neg m e) =
      if e + m.log2 < -126 then
        let z := roundAt mode neg m e (-126 - n)
        ((binary n).pack neg z.1 (-126 - n), if z.2 then fNX ||| fUF else 0)
      else ((binary n).pack neg m e, 0) := by
  have hqe : e + m.log2 - (n : Int) ≤ e := by omega
  have hy : roundAt mode neg m e (e + m.log2 - n) = (m * 2 ^ (n - m.log2), false) := by
    rw [roundAt_of_le mode neg m hqe, show (e - (e + m.log2 - n)).toNat = n - m.log2 by omega]
  have hne : m * 2 ^ (n - m.log2) ≠ 2 ^ (binary n).p := scaled_ne_two_pow hn
  have hp : ((binary n).p : Int) - 1 = n := by simp [binary]
  simp only [Fmt.round, if_neg hm, hp, hy, if_neg hne, if_neg (Int.not_lt.2 htop), if_pos hqe, Fmt.emin]

/-! ### Packing (R36) -/

section
variable {n : Nat} (neg : Bool)

theorem pack_zero (qe : Int) : (binary n).pack neg 0 qe = ofFields n neg 0 0 := by
  simp [Fmt.pack, binary, ofFields]

/-- Below 2^n units of the smallest subnormal, the units are the fraction field. -/
theorem pack_subnormal {q : Nat} (h0 : q ≠ 0) (hq : q.log2 < n) : (binary n).pack neg q (-126 - n) = ofFields n neg 0 q := by
  have htop : (-126 - n : Int) + (q.log2 + 1 : Nat) - 1 < -126 := by omega
  have hemin : (binary n).emin = -126 - n := by simp [Fmt.emin, binary]
  simp only [Fmt.pack, if_neg h0, if_pos htop, hemin]
  simp [binary, ofFields]

/-- A significand of n + 1 bits gives its exponent's field and its lower n bits. -/
theorem pack_normal {ex fr : Nat} (h0 : ex ≠ 0) (hlog : (fr + 2 ^ n).log2 = n) :
    (binary n).pack neg (fr + 2 ^ n) (ex - 127 - n) = ofFields n neg ex fr := by
  have hq : fr + 2 ^ n ≠ 0 := by have := Nat.two_pow_pos n; omega
  have htop : (ex - 127 - n : Int) + (n + 1 : Nat) - 1 = ex - 127 := by omega
  have hnot : ¬(ex - 127 : Int) < -126 := by omega
  have hex : ((ex - 127 : Int) + 127).toNat = ex := by omega
  simp only [Fmt.pack, if_neg hq, hlog, htop, if_neg hnot, hex]
  simp [binary, ofFields]

theorem infB_eq (hn : 7 ≤ n) : (binary n).infB neg = ofFields n neg 255 0 := by
  obtain ⟨k, rfl⟩ : ∃ k, n = k + 7 := ⟨n - 7, by omega⟩
  have h (j : Nat) : 2 ^ (k + j) = 2 ^ k * 2 ^ j := Nat.pow_add 2 k j
  cases neg <;> simp [Fmt.infB, binary, ofFields, Nat.add_assoc, h] <;> omega

end

/-! ### Each class of values rounds to itself (R38) -/

section
variable {n : Nat} (mode : RM) (neg : Bool)

theorem round_inf (hn : 7 ≤ n) : (binary n).round mode (.inf neg) = (ofFields n neg 255 0, 0) := by
  rw [← infB_eq neg hn]; rfl

theorem round_subnormal {fr : Nat} (hfr : fr < 2 ^ n) : (binary n).round mode (.fin neg fr (-126 - n)) = (ofFields n neg 0 fr, 0) := by
  by_cases h0 : fr = 0
  · subst h0; rw [← pack_zero neg 0]; rfl
  · have hlog : fr.log2 < n := (Nat.log2_lt h0).2 hfr
    rw [round_of_short mode neg h0 (by omega) (by omega), if_pos (by omega), roundAt_self]
    exact Prod.ext (pack_subnormal neg h0 hlog) rfl

theorem round_normal {ex fr : Nat} (h0 : ex ≠ 0) (h255 : ex < 255) (hfr : fr < 2 ^ n) :
    (binary n).round mode (.fin neg (fr + 2 ^ n) (ex - 127 - n)) = (ofFields n neg ex fr, 0) := by
  have hm : fr + 2 ^ n ≠ 0 := by omega
  have hlog : (fr + 2 ^ n).log2 = n := (Nat.log2_eq_iff hm).2 ⟨by omega, by rw [Nat.pow_succ]; omega⟩
  rw [round_of_short mode neg hm (by omega) (by omega), if_neg (by omega), pack_normal neg h0 hlog]

end

/-- A bit pattern that is no NaN is the rounding of its own value, with no flag. -/
theorem round_val (mode : RM) {n b : Nat} (hn : 7 ≤ n) (hb : b < 2 ^ (n + 9)) (hnan : ((binary n).val b).isNan = false) :
    (binary n).round mode ((binary n).val b) = (b, 0) := by
  have hbits := ofFields_bits hb
  have hfr : b % 2 ^ n < 2 ^ n := Nat.mod_lt _ (Nat.two_pow_pos n)
  by_cases h255 : b / 2 ^ n % 256 = 255
  · obtain ⟨hzero, hval⟩ := val_of_special b h255 hnan
    rw [h255, hzero] at hbits
    rw [hval, round_inf mode _ hn, hbits]
  by_cases h0 : b / 2 ^ n % 256 = 0
  · rw [h0] at hbits
    rw [val_of_subnormal b h0, round_subnormal mode _ hfr, hbits]
  · rw [val_of_normal b h0 h255, round_normal mode _ h0 (by omega) hfr, hbits]

/-! ### The statement -/

/-- Settles O8: both formats are of the one shape, in which infinities, subnormal values with zeros, and normal values each round to their own bits. -/
theorem roundingKeepsRepresentable : Obligations.RoundingKeepsRepresentable := by
  unfold Obligations.RoundingKeepsRepresentable
  intro f rm b hf _ hb hnan
  obtain rfl | rfl := hf
  · exact round_val rm (n := 23) (by decide) hb hnan
  · exact round_val rm (n := 7) (by decide) hb hnan

end Sys2Proof.Laws

/-! SUPPORT. ResetValues: O55. -/

namespace Sys2Proof.Laws

open Sys2Proof.Machine Sys2Proof.Safety

/-- No cell stands in memory at reset, so every byte reads as zero. -/
theorem reset_getB (a : Nat) : State.reset.mem.getB a = 0 := rfl

/-- At reset every owner has the record that no OWNCFG has written. -/
theorem reset_owner (o : Nat) : State.reset.owner o = {} := by
  unfold State.owner
  exact Vector.getElem_replicate (Fin.ofNat 16 o).isLt

/-- An owner is enabled by its OWNCFG alone (R299), so none is at reset. -/
theorem reset_enabled (o : Nat) : State.reset.enabled o = false := by
  unfold State.enabled
  rw [reset_owner]
  decide

/-- Settles O55: the named fields stand in the reset state as written; memory and the owners read as their empty tables do. -/
theorem resetValues : Obligations.ResetValues :=
  ⟨rfl, rfl, rfl, rfl, rfl, rfl, rfl, rfl, rfl, rfl, rfl, rfl, rfl, rfl, rfl, rfl, rfl, rfl, reset_getB, reset_enabled⟩

/-! SUPPORT. StepRunsDecoded: the issue of a decoded bundle outside a region, and O54. -/

/-- A bundle whose words all decode and pass every check is performed (R82). -/
theorem performFormed_ok {s : State} {x : Bundle} (hw : firstWord wordSub 0 x.ws = none) (hf : s.formFault x.b (decoded x.ws) = none) :
    s.performFormed x = s.performDecoded x.b (decoded x.ws) := by
  unfold State.performFormed
  simp only [hw, hf]

/-- A step with a task thread at issue, none of whose faults waits for its next bundle, performs the bundle that forms at its PC (R54). -/
theorem step_formed {s : State} {x : Bundle} (hc : s.clk.ctl = .issue) (hs : s.me.strm = none) (hn : s.me.next = none)
    (hb : s.fetchBundle s.me.pl s.me.pc = .ok x) :
    step s = State.turnDone s.me.pl (s.me.slot.getD 0) false (State.performFormed { s with clk := { s.clk with ctl := .pick } } x) := by
  have hb' : State.fetchBundle { s with clk := { s.clk with ctl := .pick } } s.me.pl s.me.pc = .ok x := hb
  unfold step State.issueTurn State.taskTurn
  simp only [hc, hs, hn, hb']

/-- The state in which the words of a bundle are performed: its sources are read, and the PC stands past its words (R54, R68). -/
def atBundle (s : State) (b : Addr) (n : Nat) : State :=
  ((s.readPending).latch b (4 * n) s.sources).setPc (b + BitVec.ofNat 48 (4 * n))

/-- The reads of a bundle's sources are kept beside the thread, which changes in its PC alone. -/
theorem atBundle_me (s : State) (b : Addr) (n : Nat) : (atBundle s b n).me = { s.me with pc := b + BitVec.ofNat 48 (4 * n) } := by
  unfold atBundle State.readPending
  split <;> rfl

/-- What follows the words of a bundle outside an atomic region: W takes effect (R74), and a region that the bundle opens is noted. -/
def bundleEnd (w : Bool) : Res → Res
  | .next t => .next (t.afterBundle none w)
  | r => r

/-- Outside an atomic region no word is out of place, and the end of the bundle counts none (R188). -/
theorem performDecoded_plain {s : State} (b : Addr) (ds : List Decoded) (h : s.me.region = none) :
    s.performDecoded b ds = bundleEnd (waits ds) ((atBundle s b ds.length).performBundle ds) := by
  have hr : (atBundle s b ds.length).me.region = none := by rw [atBundle_me]; exact h
  unfold atBundle at hr ⊢
  unfold State.performDecoded
  simp only [hr, Option.isSome_none, Bool.false_and, Bool.false_eq_true, if_false]
  rfl

/-- A word of a task's bundle is performed under its guard alone (R70, R71). -/
theorem performWord_task {s : State} (d : Decoded) (hs : s.me.strm = none) :
    s.performWord d = if guardOn s.iss.src.pw d.g then exec d.i s else .next s := by
  unfold State.performWord State.inStream
  rw [hs, Option.isSome_none, Bool.false_and, Bool.or_false]

/-- Settles O54: the step is the turn of the thread at issue, whose bundle passes every check and is performed outside a region; a lone word is performed
under its guard, as the predicates read. -/
theorem stepRunsDecoded : Obligations.StepRunsDecoded := by
  unfold Obligations.StepRunsDecoded
  intro s b hctl hstrm hnext hregion hfetch hwords s0 hform s1
  refine ⟨?_, fun d _ => ?_⟩
  · rw [step_formed hctl hstrm hnext hfetch, performFormed_ok hwords hform]
    exact congrArg (State.turnDone s.me.pl (s.me.slot.getD 0) false) (performDecoded_plain b.b (decoded b.ws) hregion)
  · have hs : s1.me.strm = none := by rw [show s1.me = _ from atBundle_me s0 b.b (decoded b.ws).length]; exact hstrm
    have hone : s1.performBundle [d] = if guardOn s0.sources.pw d.g then exec d.i s1 else .next s1 := performWord_task d hs
    rw [hone]
    cases (if guardOn s0.sources.pw d.g then exec d.i s1 else .next s1) <;> rfl

end Sys2Proof.Laws

/-! SUPPORT. SpecialFunctions: the issue of a special-function request by a task, and O20. -/

namespace Sys2Proof.Laws

open Sys2Proof.Machine Sys2Proof.Safety

theorem inStream_task {s : State} (h : s.me.strm = none) : s.inStream = false := by unfold State.inStream; rw [h]; rfl

/-- A task stands at the limit of R66 with sixteen operations in flight. -/
theorem atLimit_task {s : State} (h : s.me.strm = none) : s.atLimit = decide (16 ≤ (s.me.ops.filter (·.counts)).length) := by
  unfold State.atLimit Thread.full
  rw [inStream_task h, Bool.not_false, Bool.true_and]

theorem atLimit_of_full {s : State} (h : s.me.strm = none) (hf : 16 ≤ (s.me.ops.filter (·.counts)).length) : s.atLimit = true := by
  rw [atLimit_task h]; exact decide_eq_true hf

theorem atLimit_of_room {s : State} (h : s.me.strm = none) (hr : (s.me.ops.filter (·.counts)).length < 16) : s.atLimit = false := by
  rw [atLimit_task h]; exact decide_eq_false (Nat.not_le.mpr hr)

/-- The functions of R142 with their numbers. -/
def sfuForms (d a : Fin 16) (u : BitVec 8) : List (Instr × Nat) :=
  [(.fexp2 d a u, 0), (.flog2 d a u, 1), (.frcp d a u, 2), (.frsqrt d a u, 3), (.fsqrt d a u, 4), (.fsinp d a u, 5), (.fcosp d a u, 6),
    (.ftanh d a u, 7), (.fsigm d a u, 8)]

/-- Each function is the one form, by its number. -/
theorem exec_sfuForms (s : State) (d a : Fin 16) (u : BitVec 8) : ∀ p ∈ sfuForms d a u, exec p.1 s = s.sfuIssue p.2 d a u := by
  unfold sfuForms
  simp only [List.forall_mem_cons]
  exact ⟨rfl, rfl, rfl, rfl, rfl, rfl, rfl, rfl, rfl, List.forall_mem_nil _⟩

section
variable {s : State} (f : Nat) (d a : Fin 16) (u : BitVec 8)

/-- With an entry free and room for the operation, the request joins the buffer (R142, R143). -/
theorem sfuIssue_joins (hs : s.me.strm = none) (hr : (s.me.ops.filter (·.counts)).length < 16) (hw : s.sfuWaiting s.me.pl < 4) :
    Next (s.sfuIssue f d a u) (fun t => ∃ x r,
      t = { s with me := s.me.addOp x, sfu := s.sfu ++ [r], clk := { s.clk with id := s.clk.id + 1 } } ∧ SameBytes s t ∧
      x.id = s.clk.id ∧ x.dest = some (.v d) ∧ x.counts = true ∧ x.res = none ∧ x.due = none ∧
      r.id = s.clk.id ∧ r.uid = s.me.uid ∧ r.pl = s.me.pl ∧ r.f = f ∧ r.arg = s.iss.src.v[a] ∧ r.strm = false ∧ r.land = none) := by
  have hin := inStream_task hs
  have hdue : s.dueAt u.toNat = none := by unfold State.dueAt; rw [hin]; rfl
  have hfree : (!s.inStream && decide (4 ≤ s.sfuWaiting s.me.pl)) = false := by rw [hin, decide_eq_false (Nat.not_le.mpr hw)]; rfl
  unfold State.sfuIssue
  rw [if_neg (by simp [atLimit_of_room hs hr]), if_neg (by simp [hfree])]
  refine ⟨_, rfl, { s.newOp with dest := some (.v d), counts := true, acc := false, due := s.dueAt u.toNat },
    { id := s.newId, uid := s.me.uid, pl := s.me.pl, f := f, arg := s.rV a, strm := s.inStream, beat := s.beat }, rfl, ?_⟩
  exact ⟨fun _ => rfl, rfl, rfl, rfl, rfl, hdue, rfl, rfl, rfl, rfl, rfl, hin, rfl⟩

/-- With four requests waiting, the thread rewinds until an entry frees (R143). -/
theorem sfuIssue_waits (hs : s.me.strm = none) (hr : (s.me.ops.filter (·.counts)).length < 16) (hw : 4 ≤ s.sfuWaiting s.me.pl) :
    s.sfuIssue f d a u = .next (s.rewind .sfu) := by
  have hin := inStream_task hs
  unfold State.sfuIssue
  rw [if_neg (by simp [atLimit_of_room hs hr]), if_pos (by simp [hin, hw])]

/-- At the limit of R66 the thread rewinds, whatever stands in the buffer. -/
theorem sfuIssue_full (hs : s.me.strm = none) (hf : 16 ≤ (s.me.ops.filter (·.counts)).length) : s.sfuIssue f d a u = .next (s.rewind .limit) := by
  unfold State.sfuIssue
  rw [if_pos (atLimit_of_full hs hf)]

end

/-- Settles O20: the nine functions are one form; it joins the buffer, or the limit of R66 or the full buffer of R143 rewinds the thread. -/
theorem specialFunctionRequests : Obligations.SpecialFunctionRequests := by
  unfold Obligations.SpecialFunctionRequests
  intro s d a u hplain waiting p hp
  obtain ⟨hs, hregion⟩ := hplain
  rw [exec_sfuForms s d a u p hp]
  refine ⟨sfuIssue_joins p.2 d a u hs, fun hr hw => ?_, fun hf => ?_⟩
  · rw [sfuIssue_waits p.2 d a u hs hr hw]
    exact next_of (rewound_rewind s .sfu hregion)
  · rw [sfuIssue_full p.2 d a u hs hf]
    exact next_of (rewound_rewind s .limit hregion)

end Sys2Proof.Laws

/-! SUPPORT. LongAccesses: where an access of a task resolves, what a plain load or store of another place sends out, and O14. -/

namespace Sys2Proof.Laws

open Sys2Proof.Machine Sys2Proof.Safety

/-! ### Places 1 to 4 of R174 -/

section
variable {s : State} {ea : Addr} {n : Nat} {u : State.Use}

/-- An access that resolves goes on at its location. -/
theorem withLoc_at {l : Loc} (h : s.resolve ea n u = .at l) (k : State → Loc → Res) : s.withLoc ea n u k = k s l := by
  unfold State.withLoc
  rw [h]

/-- An aligned access that the TLB places, with permission, resolves there. -/
theorem resolve_of_translates {l : Loc} (h : Translates s ea n u l) : s.resolve ea n u = .at l := by
  obtain ⟨va, t, halign, hregion, htlb, hpermit⟩ := h
  unfold State.resolve
  simp only [halign, hregion, htlb, hpermit, bne_self_eq_false, Bool.false_eq_true, if_false]

/-- An aligned load or store of a scratchpad window resolves there: no walk and no permission stands between (R154, R157). -/
theorem resolve_scr {p : Place} {off : Nat} (ha : ea.toNat % n = 0) (hr : s.region s.me.pl ea = .scr p off) (hu : u = .load ∨ u = .store) :
    s.resolve ea n u = .at (.scr p off) := by
  unfold State.resolve
  obtain rfl | rfl := hu <;> simp only [ha, hr, bne_self_eq_false, Bool.false_eq_true, if_false]

/-- An aligned load or store of a slice window resolves there. -/
theorem resolve_slice {k off : Nat} (ha : ea.toNat % n = 0) (hr : s.region s.me.pl ea = .slice k off) (hu : u = .load ∨ u = .store) :
    s.resolve ea n u = .at (.slice k off) := by
  unfold State.resolve
  obtain rfl | rfl := hu <;> simp only [ha, hr, bne_self_eq_false, Bool.false_eq_true, if_false]

end

/-- An answer has what an equal answer has. -/
theorem next_of_eq {r r' : Res} {P : State → Prop} (h : r = r') (hr : Next r' P) : Next r P := h ▸ hr

/-! ### Long loads (R64, R66, R158) -/

/-- The operation of a plain long load: it addresses d, counts against the limit of R66, and is not timed. -/
def LongOp (d : Dest) (ea : Addr) (n : Nat) (o : Op) : Prop := o.dest = some d ∧ o.counts = true ∧ o.due = none ∧ o.ea = ea ∧ o.n = n
/-- The operation of a posted store: it addresses no register and does not count against the limit. -/
def PostedOp (ea : Addr) (n : Nat) (o : Op) : Prop := o.dest = none ∧ o.counts = false ∧ o.ea = ea ∧ o.n = n
/-- Fewer than sixteen operations that count are in flight (R66). -/
def OpRoom (s : State) : Prop := (s.me.ops.filter (·.counts)).length < 16

section
variable {s : State} {ea : Addr} {n : Nat} {f : LdFmt} {d : Dest} {l : Loc}

/-- With room for the operation, a long load sets out. -/
theorem longLoad_issues (hs : s.me.strm = none) (hr : OpRoom s) :
    Next (s.longLoad ea n f d none none l) (fun t => Issued s t (LongOp d ea n) (.load n f none) l) := by
  unfold State.longLoad
  rw [if_neg (by simp [atLimit_of_room hs hr])]
  exact next_of (issued_issueOp s _ _ l ea _ ⟨rfl, rfl, rfl, rfl, rfl⟩ rfl rfl rfl rfl)

/-- Off the scratchpads a plain load is a long load that ends the run, or the limit of R66 rewinds it (R158, R159). -/
theorem loadForm_off_scratch (h : PlainTask s) (hl : s.resolve ea n .load = .at l) (hoff : ∀ p off, l ≠ .scr p off) :
    s.loadForm ea n f d none = if s.atLimit then .next (s.rewind .limit) else (s.modMe (fun t => { t with run := 0 })).longLoad ea n f d none none l := by
  unfold State.loadForm
  simp only [h.2]
  rw [withLoc_at hl]
  cases l with
  | scr p off => exact absurd rfl (hoff p off)
  | _ => simp only [inStream_task h.1, Bool.false_eq_true, if_false]

theorem loadForm_issues (h : PlainTask s) (hl : s.resolve ea n .load = .at l) (hoff : ∀ p off, l ≠ .scr p off) (hr : OpRoom s) :
    Next (s.loadForm ea n f d none) (fun t => Issued { s with me := { s.me with run := 0 } } t (LongOp d ea n) (.load n f none) l) := by
  rw [loadForm_off_scratch h hl hoff, if_neg (by simp [atLimit_of_room h.1 hr])]
  exact longLoad_issues (s := { s with me := { s.me with run := 0 } }) h.1 hr

theorem loadForm_limit (h : PlainTask s) (hl : s.resolve ea n .load = .at l) (hoff : ∀ p off, l ≠ .scr p off)
    (hf : 16 ≤ (s.me.ops.filter (·.counts)).length) : Next (s.loadForm ea n f d none) (fun t => Rewound s t .limit) := by
  rw [loadForm_off_scratch h hl hoff, if_pos (atLimit_of_full h.1 hf)]
  exact next_of (rewound_rewind s .limit h.2)

end

/-! ### Loads of another core's scratchpad (R159) -/

/-- The length of the run of plain loads to one core's scratchpad that a load of it makes. -/
def runAt (t : Thread) (p : Place) : Nat := if t.run ≠ 0 ∧ t.tslot.toNat = p.l ∧ t.tcore.toNat = p.c then t.run.toNat + 1 else 1

section
variable {s : State} {ea : Addr} {n : Nat} {f : LdFmt} {d : Dest} {p : Place} {off : Nat}

/-- A plain load of another core's scratchpad is that core's to serve, or the thread's to move to. -/
theorem loadForm_remote (h : PlainTask s) (hl : s.resolve ea n .load = .at (.scr p off)) (hp : p ≠ s.me.pl) :
    s.loadForm ea n f d none = s.remoteLoad p ea n f d none (.scr p off) := by
  unfold State.loadForm
  simp only [h.2]
  rw [withLoc_at hl]
  simp only [inStream_task h.1, if_neg hp, Bool.false_eq_true, if_false]

/-- With THRESH at 0 no run moves the thread, and none is counted. -/
theorem remoteLoad_unthreatened (h0 : s.me.thresh = 0) (l : Loc) : s.remoteLoad p ea n f d none l = s.longLoad ea n f d none none l := by
  unfold State.remoteLoad
  simp only [h0, if_true]

/-- A run that reaches THRESH moves the thread, at the limit of R66 too, and is over. -/
theorem remoteLoad_moves (h0 : s.me.thresh ≠ 0) (hn : s.me.thresh.toNat ≤ runAt s.me p) (l : Loc) : s.remoteLoad p ea n f d none l =
    .next ((s.modMe (fun t => { t with run := 0, tslot := 0, tcore := 0 })).rewind (.migrate p)) := by
  unfold runAt at hn
  unfold State.remoteLoad
  simp only [h0, Bool.and_eq_true, bne_iff_ne, beq_iff_eq, and_assoc, hn, if_true, if_false]

/-- Below THRESH the load is served at its home, and the run goes on with it. -/
theorem remoteLoad_counts (h0 : s.me.thresh ≠ 0) (hn : runAt s.me p < s.me.thresh.toNat) (hr : s.atLimit = false) (l : Loc) :
    s.remoteLoad p ea n f d none l =
      (s.modMe (fun t => { t with run := BitVec.ofNat 8 (runAt s.me p), tslot := BitVec.ofNat 8 p.l, tcore := BitVec.ofNat 7 p.c })).longLoad ea n f d none none l := by
  unfold runAt at hn ⊢
  unfold State.remoteLoad
  simp only [h0, Bool.and_eq_true, bne_iff_ne, beq_iff_eq, and_assoc, Nat.not_le.mpr hn, hr, Bool.false_eq_true, if_false]

end

/-! ### Posted stores (R158) -/

/-- A posted store sets out with what its core's L1 has already taken (R161). -/
theorem issued_updating (s : State) (o : Op) (k : ReqKind) (l : Loc) (ea : Addr) (seen : Bool) (P : Op → Prop) (ho : P { o with src := some l })
    (h1 : o.id = s.newId) (h2 : o.fpc = s.iss.b) (h3 : o.res = none) (h4 : o.fault = none) :
    Issued s (s.issueOp o { s.newReq k l ea with seen := seen }) P k l :=
  ⟨{ o with src := some l }, { s.newReq k l ea with seen := seen }, rfl, fun _ => rfl, h1, h2, h3, h4, ho, rfl, rfl, rfl, rfl, rfl, rfl⟩

/-- A store off the own scratchpad is posted, whatever operations are in flight. -/
theorem storeForm_posts {s : State} {ea : Addr} {bs : List Byte} {l : Loc} (h : PlainTask s) (hl : s.resolve ea bs.length .store = .at l)
    (hoff : ∀ off, l ≠ .scr s.me.pl off) : Next (s.storeForm ea bs) (fun t => Issued s t (PostedOp ea bs.length) (.store bs) l) := by
  unfold State.storeForm
  simp only [h.2]
  rw [withLoc_at hl]
  have hin := inStream_task h.1
  cases l with
  | scr p off =>
    have hp : p ≠ s.me.pl := fun e => hoff off (e ▸ rfl)
    simp only [hin, if_neg hp, Bool.false_eq_true, if_false]
    exact next_of (issued_issueOp s _ _ _ ea _ ⟨rfl, rfl, rfl, rfl⟩ rfl rfl rfl rfl)
  | _ =>
    simp only [hin, Bool.false_eq_true, if_false]
    exact next_of (issued_updating s _ _ _ ea _ _ ⟨rfl, rfl, rfl, rfl⟩ rfl rfl rfl rfl)

/-! ### The instructions (R168) -/

/-- The plain loads with an offset: bytes, extension, destination. -/
def plainLoads (d a : Fin 16) (i : BitVec 12) : List (Instr × Nat × LdFmt × Dest) :=
  [(.ldB d a i, 1, .sx, .s d), (.ldH d a i, 2, .sx, .s d), (.ldW d a i, 4, .sx, .s d), (.ldD d a i, 8, .sx, .s d), (.ldnB d a i, 1, .zx, .s d),
    (.ldnH d a i, 2, .zx, .s d), (.ldnW d a i, 4, .zx, .s d), (.vld d a i, 16, .vec, .v d)]

/-- The plain stores with the bytes that each takes from its register. -/
def plainStores (s : State) (d a : Fin 16) (i : BitVec 12) : List (Instr × List Byte) :=
  [(.stB d a i, leBytes 1 s.iss.src.s[d].toNat), (.stH d a i, leBytes 2 s.iss.src.s[d].toNat), (.stW d a i, leBytes 4 s.iss.src.s[d].toNat),
    (.stD d a i, leBytes 8 s.iss.src.s[d].toNat), (.vst d a i, leBytes 16 s.iss.src.v[d].toNat)]

/-- Each plain load is the one form of loads. -/
theorem exec_plainLoads (s : State) (d a : Fin 16) (i : BitVec 12) : ∀ p ∈ plainLoads d a i,
    exec p.1 s = s.loadForm (eaOff (s.rS a) i) p.2.1 p.2.2.1 p.2.2.2 none := by
  unfold plainLoads
  simp only [List.forall_mem_cons]
  exact ⟨rfl, rfl, rfl, rfl, rfl, rfl, rfl, rfl, List.forall_mem_nil _⟩

/-- Each plain store is the one form of stores. -/
theorem exec_plainStores (s : State) (d a : Fin 16) (i : BitVec 12) : ∀ p ∈ plainStores s d a i, exec p.1 s = s.storeForm (eaOff (s.rS a) i) p.2 := by
  unfold plainStores
  simp only [List.forall_mem_cons]
  exact ⟨rfl, rfl, rfl, rfl, rfl, List.forall_mem_nil _⟩

/-! ### The statement -/

/-- Settles O14: every plain load and every plain store is one form, which goes on where its access resolves. -/
theorem longLoadsAndStoresIssue : Obligations.LongLoadsAndStoresIssue := by
  unfold Obligations.LongLoadsAndStoresIssue
  refine ⟨?_, ?_, ?_⟩
  · intro s d a i l hplain hoff ea u p hp htr
    rw [exec_plainLoads s d a i p hp]
    have hl := resolve_of_translates htr
    exact ⟨loadForm_issues hplain hl hoff, loadForm_limit hplain hl hoff⟩
  · intro s d a i l hplain hoff ea x p hp htr
    rw [exec_plainStores s d a i p hp]
    exact storeForm_posts hplain (resolve_of_translates htr) hoff
  · intro s d a i p k off hplain ea x room n went
    refine ⟨fun y hy halign => ?_, fun y hy halign l hl => ?_⟩
    · have hexec := exec_plainLoads s d a i y hy
      refine ⟨fun hreg hp => ?_, fun hreg hroom => ?_⟩
      · have hremote := hexec.trans (loadForm_remote hplain (resolve_scr halign hreg (.inl rfl)) hp)
        refine ⟨fun h0 hroom => ?_, fun h0 hn => ?_, fun h0 hn hroom => ?_⟩
        · rw [remoteLoad_unthreatened h0] at hremote
          exact next_of_eq hremote (longLoad_issues hplain.1 hroom)
        · rw [remoteLoad_moves h0 hn] at hremote
          exact next_of_eq hremote (next_of (rewound_rewind _ _ hplain.2))
        · rw [remoteLoad_counts h0 hn (atLimit_of_room hplain.1 hroom)] at hremote
          exact next_of_eq hremote (longLoad_issues (s := s.modMe _) hplain.1 hroom)
      · exact next_of_eq hexec (loadForm_issues hplain (resolve_slice halign hreg (.inl rfl)) (fun _ _ => Loc.noConfusion) hroom)
    · rw [exec_plainStores s d a i y hy]
      obtain ⟨hreg, hp, rfl⟩ | ⟨hreg, rfl⟩ := hl
      · exact storeForm_posts hplain (resolve_scr halign hreg (.inr rfl)) (fun _ e => hp (Loc.scr.inj e).1)
      · exact storeForm_posts hplain (resolve_slice halign hreg (.inr rfl)) (fun _ => Loc.noConfusion)

end Sys2Proof.Laws

/-! SUPPORT. BeatsAndEnds: what metering leaves of the beat count, that only ended threads are buried, the landing of one result, the ends of a fence and of an
exit, and O28: its clauses one by one, and the state on which one of them fails. -/

namespace Sys2Proof.Laws

open Sys2Proof.Machine Sys2Proof.Safety

/-! ### Metering (R434): the owners' counters and nothing else -/

/-- Only metering counters of owners differ. -/
def Metered (s t : State) : Prop := ∃ os, t = { s with owners := os } ∧ ∀ o, t.owner o = { s.owner o with meter := (t.owner o).meter }

theorem metered_charge {s t : State} (h : Metered s t) (o k n : Nat) : Metered s (t.charge o k n) := by
  obtain ⟨os, rfl, hown⟩ := h
  exact ⟨_, rfl, fun j => by rw [owner_charge, hown j]⟩

/-- RESID and FROZEN are counted by charges alone. -/
theorem metered_meterBeat (s : State) : Metered s s.meterBeat := by
  have hself : Metered s s := ⟨_, rfl, fun _ => rfl⟩
  unfold State.meterBeat
  split
  · exact hself
  · refine foldl_keeps (Metered s) _ (fun t ten ht => ?_) _ _ hself
    split
    · exact ht
    · split
      · split
        · exact metered_charge ht _ _ _
        · exact ht
      · split
        · exact metered_charge ht _ _ _
        · exact ht

section
variable {s t : State}

theorem resident_metered (h : Metered s t) (o l : Nat) : t.resident o l = s.resident o l := by
  obtain ⟨os, rfl, hown⟩ := h
  unfold State.resident
  rw [hown o]
  rfl

theorem lineHolds_metered (h : Metered s t) (x : Thread) : t.lineHolds x = s.lineHolds x := by
  have hline : ∀ st, t.lineOf? st = s.lineOf? st := fun st => by unfold State.lineOf?; rw [resident_metered h]
  unfold State.lineHolds State.lineAt
  simp only [hline]
  obtain ⟨os, rfl, -⟩ := h
  rfl

theorem parkDone_metered (h : Metered s t) (x : Thread) : t.parkDone x = s.parkDone x := by
  obtain ⟨os, rfl, hown⟩ := h
  have hqz : ∀ o, (State.owner { s with owners := os } o).qz = (s.owner o).qz := fun o => by rw [hown o]
  have hpairs : ∀ o, (State.owner { s with owners := os } o).pairs = (s.owner o).pairs := fun o => by rw [hown o]
  unfold State.parkDone
  simp only [hqz, hpairs]
  rfl

theorem countBeat_metered (h : Metered s t) (x : Thread) : t.countBeat x = s.countBeat x := by
  unfold State.countBeat
  rw [lineHolds_metered h, resident_metered h]
  obtain ⟨os, rfl, hown⟩ := h
  rw [hown]

end

/-! ### Beat boundaries (R59, R62, R215) -/

/-- The beat counters of a thread, where no pause holds. -/
def beatCounted (s : State) (x : Thread) : Thread :=
  if (s.owner x.pl.o).frozen then x
  else if s.lineHolds x then { x with frzc := x.frzc + (if x.evicted.isNone then 1 else 0) }
  else if s.resident x.pl.o x.pl.l then { x with taskb := x.taskb + 1 } else x

theorem countBeat_unpaused {s : State} (hp : s.rot.pause = none) (x : Thread) : s.countBeat x = beatCounted s x := by
  unfold State.countBeat beatCounted
  rw [hp]
  simp only [Option.isSome_none, Bool.false_or]

/-- Counting a beat leaves the held faults and the park. -/
theorem beatCounted_held (s : State) (x : Thread) : (beatCounted s x).held = x.held := by
  unfold beatCounted; (repeat' split) <;> rfl
theorem beatCounted_park (s : State) (x : Thread) : (beatCounted s x).park = x.park := by
  unfold beatCounted; (repeat' split) <;> rfl

/-- With no fault held a point of reckoning takes none (R345). -/
theorem reckon_no_held {x : Thread} (h : x.held = []) : x.reckon = x := by
  obtain ⟨-, e⟩ | ⟨f, -, hf, -⟩ := reckon_cases x
  · exact e
  · rw [h] at hf; cases hf

/-- A thread with no fault held is ready from the boundary at which its wait is over. -/
theorem wakeThread_no_held (s : State) {x : Thread} (h : x.held = []) :
    s.wakeThread x = { x with park := .none, woken := false, wmark := false, readyAt := s.beat, since := 4 * s.q } := by
  unfold State.wakeThread
  simp only []
  split
  · exact reckon_no_held h
  · rfl

/-- What a beat boundary makes of a thread that holds no fault. -/
def beaten (s : State) (x : Thread) : Thread :=
  if x.park ≠ .none ∧ s.parkDone (beatCounted s x) = true then
    { beatCounted s x with park := .none, woken := false, wmark := false, readyAt := s.beat, since := 4 * s.q }
  else beatCounted s x

theorem beatThread_metered {s t : State} (h : Metered s t) (hp : s.rot.pause = none) {x : Thread} (hx : x.held = []) : t.beatThread x = beaten s x := by
  have hclk : t.q = s.q ∧ t.beat = s.beat := by obtain ⟨os, rfl, -⟩ := h; exact ⟨rfl, rfl⟩
  unfold State.beatThread beaten
  rw [countBeat_metered h, countBeat_unpaused hp]
  simp only [parkDone_metered h, wakeThread_no_held t ((beatCounted_held s x).trans hx), beatCounted_park, hclk.1, hclk.2, Bool.and_eq_true, bne_iff_ne]

/-! ### Ended threads -/

/-- With no ended thread there is none to bury (R347). -/
theorem bury_no_dead {s : State} (h : ∀ x ∈ s.threads, State.isDead x = false) (n : Nat) : s.bury n = s := by
  have hfilter : s.threads.filter State.isDead = [] := List.filter_eq_nil_iff.mpr (fun x hx => by rw [h x hx]; exact Bool.false_ne_true)
  have hfind : s.threads.find? (fun t => State.isDead t && !s.net.any (fun r => r.uid == t.uid)) = none :=
    List.find?_eq_none.mpr (fun x hx => by rw [h x hx]; exact Bool.false_ne_true)
  unfold State.bury
  rw [hfilter, List.foldl_nil]
  cases n with
  | zero => rfl
  | succ n => unfold State.buryDone; rw [hfind]

theorem not_dead_iff {x : Thread} : (State.isDead x = false) ↔ ∀ f, x.park ≠ .dead f := by
  unfold State.isDead
  cases x.park <;> simp

/-- No thread ends at a beat boundary that takes no fault. -/
theorem beaten_not_dead {s : State} {x : Thread} (hx : ∀ f, x.park ≠ .dead f) : State.isDead (beaten s x) = false := by
  refine not_dead_iff.mpr (fun f => ?_)
  unfold beaten
  split
  · exact Park.noConfusion
  · rw [beatCounted_park]; exact hx f

/-- What a beat boundary changes, where no fault is held and no thread has ended (R59, R62, R215). -/
theorem execBeatBoundary_next {s : State} (hp : s.rot.pause = none) (hx : ∀ x ∈ s.threads, x.held = [] ∧ ∀ f, x.park ≠ .dead f) :
    exec .beatBoundary s = .next { s.meterBeat with threads := s.threads.map (beaten s) } := by
  have hm := metered_meterBeat s
  have hthreads : s.meterBeat.threads = s.threads := by obtain ⟨os, e, -⟩ := hm; rw [e]
  have hmap : s.meterBeat.threads.map s.meterBeat.beatThread = s.threads.map (beaten s) := by
    rw [hthreads]
    exact List.map_congr_left (fun x hmem => beatThread_metered hm hp (hx x hmem).1)
  have hdead : ∀ y ∈ s.threads.map (beaten s), State.isDead y = false := by
    intro y hy
    obtain ⟨x, hmem, rfl⟩ := List.mem_map.mp hy
    exact beaten_not_dead (hx x hmem).2
  change execBeatBoundary s = _
  unfold execBeatBoundary
  simp only [hmap]
  rw [bury_no_dead (s := { s.meterBeat with threads := s.threads.map (beaten s) }) hdead]

/-! ### Changes of one thread by its number -/

/-- The thread found by a number has that number. -/
theorem uid_of_thread? {s : State} {u : Nat} {x : Thread} (h : s.thread? u = some x) : x.uid = u := by
  unfold State.thread? at h
  split at h
  · rename_i hme
    obtain rfl := Option.some.inj h
    simp only [Bool.and_eq_true, decide_eq_true_eq] at hme
    exact hme.1
  · simpa using List.find?_some h

/-- A change of one thread that keeps its number is that and nothing else. -/
theorem onThread_modThread {s : State} {u : Nat} {x : Thread} (h : s.thread? u = some x) {f : Thread → Thread} (hf : ∀ t, (f t).uid = t.uid) :
    OnThread s (s.modThread u f) u (f x) := by
  refine ⟨modThread_frame s u f, fun a => by rw [modThread_mem], ?_, fun k hk => ?_⟩
  · rw [thread?_modThread s u u f hf, if_pos rfl, h]
    rfl
  · rw [thread?_modThread s u k f hf, if_neg hk]

theorem modThread_host (s : State) (u : Nat) (f : Thread → Thread) : (s.modThread u f).host = s.host := by rw [modThread_frame]

/-- A change of one thread after what is outward has changed is a change of the thread, but for what is outward (R268). -/
theorem onThread_outer {s b : State} {u : Nat} {x : Thread} (hb : b = { s with host := { s.host with outer := b.host.outer } }) (h : b.thread? u = some x)
    {f : Thread → Thread} (hf : ∀ t, (f t).uid = t.uid) :
    OnThread { s with host := { s.host with outer := (b.modThread u f).host.outer } } (b.modThread u f) u (f x) := by
  rw [modThread_host, ← hb]
  exact onThread_modThread h hf

/-- A change of one thread that ends none, where none has ended, leaves none to bury. -/
theorem modThread_not_dead {s : State} {u : Nat} {f : Thread → Thread} (hf : ∀ t ∈ s.threads, t.uid = u → (f t).park = t.park)
    (hs : ∀ y ∈ s.threads, ∀ r, y.park ≠ .dead r) : ∀ y ∈ (s.modThread u f).threads, State.isDead y = false := by
  intro y hy
  refine not_dead_iff.mpr (fun r => ?_)
  unfold State.modThread at hy
  split at hy
  · exact hs y hy r
  · obtain ⟨t, ht, rfl⟩ := List.mem_map.mp hy
    split
    · rename_i hu
      rw [hf t ht hu]
      exact hs t ht r
    · exact hs t ht r

/-! ### The landing of one result (R65, R41) -/

theorem netHeld_unpaused {s : State} (h : s.rot.pause = none) : s.netHeld = false := by
  unfold State.netHeld
  rw [h]

/-- Where no pause has captured a reply, none stands before another (R324). -/
theorem replyBehind_uncaptured {s : State} (h : ∀ y ∈ s.allThreads, ∀ p ∈ y.ops, p.cap = false) (t : Thread) (o : Op) : s.replyBehind t o = false := by
  have hany : (s.allThreads.filter (fun x => x.pl == t.pl)).any (fun x => x.ops.any (fun y => y.cap && y.res.isSome && y.due.isNone && y.id != o.id &&
      (match y.src, o.src with | some a, some b => s.sameDest a b | _, _ => false))) = false := by
    refine List.any_eq_false.mpr (fun x hx => ?_)
    rw [Bool.not_eq_true, List.any_eq_false]
    intro y hy
    rw [h x (List.mem_filter.mp hx).1 y hy]
    exact Bool.false_ne_true
  exact (congrArg (!o.cap && ·) hany).trans (Bool.and_false _)

/-- What the landing of an untimed result of a task leaves of its thread before the register is written: the operation is over, its flags are ORed, and a
thread parked at the limit of R66 is woken. -/
def landed (x : Thread) (o : Op) : Thread :=
  { x with ops := x.ops.filter (fun p => p.id != o.id), fcsr := x.fcsr ||| o.flags.setWidth 64, woken := x.woken || x.park == Park.limit }

/-- A discarded result writes no register; a region that discarded it keeps it until the region ships or breaks (R188, R189). -/
def landedDiscarded (x : Thread) (o : Op) : Thread :=
  match x.region with
  | some r => if r.discs.contains o.id then { landed x o with region := some { r with late := r.late ++ [o] } } else landed x o
  | none => landed x o

/-- The register that a result addresses takes it (R64). -/
def withDest (x : Thread) (d : Dest) (v : VWord) : Thread :=
  match d with
  | .s k => { x with s := x.s.set k (v.setWidth 64) }
  | .v k => { x with v := x.v.set k v }

theorem landReg_task {x : Thread} {o : Op} {d : Dest} {v : VWord} (hs : x.strm = none) (hd : o.dest = some d) (hv : o.res = some v) :
    x.landReg o = withDest x d v := by
  unfold Thread.landReg withDest
  simp only [hd, hv]
  cases d <;> simp only [hs, Option.isSome_none, Bool.false_and, Bool.false_eq_true, if_false]

/-- The landing of a task's result that is no reservation's and has not failed. -/
theorem landOp_task {x : Thread} {o : Op} {d : Dest} {v : VWord} (hrsv : o.rsv = false) (hflt : o.fault = none) (hs : x.strm = none) (hd : o.dest = some d)
    (hv : o.res = some v) : State.landOp x o = if o.disc then landedDiscarded x o else withDest (landed x o) d v := by
  rw [← landReg_task (x := landed x o) hs hd hv]
  unfold State.landOp
  simp only [hrsv, hflt, Option.toList_none, List.append_nil, Bool.false_eq_true, if_false]
  rfl

/-- Landing keeps a thread's number. -/
theorem landReg_uid (x : Thread) (o : Op) : (x.landReg o).uid = x.uid := by
  unfold Thread.landReg
  (repeat' split) <;> rfl
theorem landOp_uid (x : Thread) (o : Op) : (State.landOp x o).uid = x.uid := by
  unfold State.landOp
  simp only []
  split
  · (repeat' split) <;> rfl
  · exact landReg_uid _ o

/-- A result outside a region's loads lands alone. -/
theorem execLongResultLand_next {s : State} {u id : Nat} {x : Thread} {o : Op} (hx : s.thread? u = some x) (hp : s.rot.pause = none)
    (hcap : ∀ y ∈ s.allThreads, ∀ p ∈ y.ops, p.cap = false) (ho : x.ops.find? (fun p => p.id == id) = some o) (hg : o.grp = 0) (hdue : o.due = none)
    (hres : o.res.isSome = true) : exec (.longResultLand u id) s = .next (s.modThread u (fun t => State.landOp t o)) := by
  have hgroup : State.landGroup x o = [o] := by unfold State.landGroup; rw [if_pos hg]
  change execLongResultLand u id s = _
  unfold execLongResultLand
  simp only [hx, ho, hgroup, hdue, hres, netHeld_unpaused hp, replyBehind_uncaptured hcap, List.all_cons, List.all_nil, List.foldl_cons, List.foldl_nil,
    Option.isSome_none, Bool.and_true, Bool.not_true, Bool.or_self, Bool.false_eq_true, if_false]

/-! ### The end of a wait (R172, R110, R345) -/

/-- With no fault held a wait ends without a trap: a pair that waited is issued again. -/
theorem passOn_no_held {x : Thread} (h : x.held = []) : x.passOn = { x with woken := true, pass := if x.pass = 1 then 2 else 0 } := by
  have htrap : x.willTrap = false := by unfold Thread.willTrap; rw [h]; exact Bool.and_false _
  unfold Thread.passOn
  rw [reckon_no_held h, htrap]
  simp only [Bool.not_false, Bool.and_true, decide_eq_true_eq]

theorem takeFault_uid (t : Thread) (f : FaultRec) : (t.takeFault f).uid = t.uid := by
  obtain ⟨-, e⟩ | ⟨-, e⟩ := takeFault_cases t f <;> rw [e]
theorem passOn_uid (t : Thread) : t.passOn.uid = t.uid := by
  unfold Thread.passOn
  obtain ⟨-, e⟩ | ⟨f, -, -, e⟩ := reckon_cases t <;> rw [e]
  exact takeFault_uid _ f

/-- No store that the thread has read is still on its way (R264). -/
theorem sawOpen_performed {s : State} {x : Thread} (h : ∀ i ∈ x.saw, ∀ r ∈ s.net, r.id ≠ i.1) : s.sawOpen x = false := by
  refine List.any_eq_false.mpr (fun i hi => ?_)
  rw [Bool.not_eq_true, List.any_eq_false]
  intro r hr
  simpa using h i hi r hr

/-- A fence of a thread with no access left, and none read that is not performed, is over; at system scope hosts and peers then read what it covers (R268). -/
theorem execFenceComplete_next {s : State} {u k : Nat} {x : Thread} (hx : s.thread? u = some x) (hpark : x.park = .fence k) (hacc : ∀ o ∈ x.ops, o.acc = false)
    (hsaw : ∀ i ∈ x.saw, ∀ r ∈ s.net, r.id ≠ i.1) :
    exec (.fenceComplete u) s = .next ((if k = 3 then s.publishBy (fun w => w.2.2 == u || w.2.2 == 0) else s).modThread u Thread.passOn) := by
  have hopen : s.fenceOpen x k = false := by
    have hany : x.ops.any (·.acc) = false := List.any_eq_false.mpr (fun o ho => by rw [hacc o ho]; exact Bool.false_ne_true)
    unfold State.fenceOpen
    rw [hany, sawOpen_performed hsaw]
    exact Bool.and_false _
  change execFenceComplete u s = _
  unfold execFenceComplete
  simp only [hx, hpark, hopen, Bool.false_eq_true, if_false]

/-! ### The end of a task (R110, R293) -/

/-- An exit whose thread has nothing left departs, unless its owner is frozen, its row is evicted, or it is already woken. -/
theorem departs_idle {s : State} {x : Thread} (hp : s.rot.pause = none) (hops : x.ops = []) (hsaw : x.saw = []) (hw : x.woken = false)
    (hfrozen : (s.owner x.pl.o).frozen = false) (hev : x.evicted = none) : s.departs x = true := by
  unfold State.departs State.sawOpen
  rw [hops, hsaw, hw, hfrozen, hev, netHeld_unpaused hp]
  rfl

/-- A pair that holds an exit is issued again at the end of its wait (log 73). -/
theorem execExitComplete_again {s : State} {u : Nat} {x : Thread} (hx : s.thread? u = some x) (hpark : x.park = .exit) (hdep : s.departs x = true)
    (hheld : x.held = []) (hpass : x.pass = 1) : exec (.exitComplete u) s = .next ((s.modThread u Thread.passOn).bury 1) := by
  change execExitComplete u s = _
  unfold execExitComplete
  simp only [hx, hpark, hdep, hheld, hpass, Bool.not_true, Bool.false_eq_true, if_false, List.isEmpty_nil, beq_self_eq_true, Bool.and_self, Bool.or_true, if_true]

/-- A lone exit, or the second of a pair, ends the thread. -/
theorem execExitComplete_ends {s : State} {u : Nat} {x : Thread} (hx : s.thread? u = some x) (hpark : x.park = .exit) (hdep : s.departs x = true)
    (hheld : x.held = []) (hpass : x.pass ≠ 1) : exec (.exitComplete u) s = .next (s.endThread x none) := by
  have htrap : x.willTrap = false := by unfold Thread.willTrap; rw [hheld]; exact Bool.and_false _
  change execExitComplete u s = _
  unfold execExitComplete
  simp only [hx, hpark, hdep, hheld, htrap, beq_eq_false_iff_ne.mpr hpass, Bool.not_true, Bool.false_and, Bool.or_self, Bool.false_eq_true, if_false]
  rfl

/-- A thread without reservations has none to release (R185). -/
theorem freeResvOf_none {s : State} {u : Nat} (h : ∀ p ∈ s.mem.resv, p.2 ≠ u) : s.freeResvOf u = s := by
  have hnil : s.mem.resv.filter (fun x => x.2 == u) = [] := List.filter_eq_nil_iff.mpr (fun p hp => by simpa using h p hp)
  unfold State.freeResvOf
  rw [hnil]
  rfl

/-- With nothing that waits for a row but evicted rows, a freed row stays free or one of those takes it (R330). -/
theorem offerRow_quiet {s : State} (p : Place) (hpk : s.graph.packets = []) (hpl : s.graph.placing = []) (hst : s.graph.streams = []) :
    s.offerRow p = s ∨ ∃ u k, s.offerRow p = s.restoreRow u k := by
  have hspill : ∀ x, s.oldestSpill x = none := fun x => by unfold State.oldestSpill; rw [hpk]; rfl
  have hhead : ∀ x, s.headFor x = none := fun x => by unfold State.headFor State.heads; rw [hpl]; rfl
  have hnone : ∀ {α β : Type} (xs : List α), xs.findSome? (fun _ => (none : Option β)) = none := fun _ => List.findSome?_eq_none_iff.mpr (fun _ _ => rfl)
  unfold State.offerRow
  split
  · exact .inl rfl
  · simp only []
    split
    · exact .inr ⟨_, _, rfl⟩
    · left
      simp only [hst, hspill, hhead, List.find?_nil, Option.map_none, hnone]

/-- A row that comes back changes threads and counters: each thread keeps its number, and memory and the graph unit stay as they were. -/
theorem restoreRow_keeps (s : State) (u k : Nat) : (s.restoreRow u k).mem = s.mem ∧ (s.restoreRow u k).graph = s.graph ∧
    ∀ y ∈ (s.restoreRow u k).threads, ∃ x ∈ s.threads, y.uid = x.uid := by
  unfold State.restoreRow State.modThread
  split
  · exact ⟨rfl, rfl, fun y hy => ⟨y, hy, rfl⟩⟩
  · refine ⟨rfl, rfl, fun y hy => ?_⟩
    obtain ⟨x, hx, rfl⟩ := List.mem_map.mp hy
    refine ⟨x, hx, ?_⟩
    split <;> rfl

/-- A task whose launch is gone leaves its inbox and nothing else of the graph unit's work (R293). -/
theorem taskEnd_no_launch {s : State} (o : Nat) (tid : BitVec 32) (tk : Task) (f : Option FailRep) (h : ∀ l ∈ s.graph.launches, l.id ≠ tk.launch) :
    (s.taskEnd o tid tk f).mem = s.mem ∧ (s.taskEnd o tid tk f).threads = s.threads ∧
      (s.taskEnd o tid tk f).graph.inboxes = s.graph.inboxes.filter (fun b => !(b.o == o && b.tid == tid)) := by
  have hgone : ∀ n, ((s.modGraph (fun g => { g with inboxes := g.inboxes.filter (fun b => !(b.o == o && b.tid == tid)) })).chargeDrop tk.launch n).launch? tk.launch = none := by
    intro n
    refine List.find?_eq_none.mpr (fun y hy => ?_)
    obtain ⟨l, hl, rfl⟩ := List.mem_map.mp hy
    have hne := h l hl
    split <;> simpa using hne
  unfold State.taskEnd
  simp only [hgone]
  exact ⟨rfl, rfl, rfl⟩

/-- A thread that ends leaves its row and its inbox, where nothing but evicted rows waits for a row and its launch is gone (R110, R293). -/
theorem endThread_leaves {s : State} (x : Thread) (hev : x.evicted = none) (hpk : s.graph.packets = []) (hpl : s.graph.placing = [])
    (hst : s.graph.streams = []) (hl : ∀ l ∈ s.graph.launches, l.id ≠ x.task.launch) (hres : ∀ p ∈ s.mem.resv, p.2 ≠ x.uid) :
    SameBytes s (s.endThread x none) ∧ (∀ y ∈ (s.endThread x none).threads, y.uid ≠ x.uid) ∧
      (s.endThread x none).graph.inboxes = s.graph.inboxes.filter (fun b => !(b.o == x.pl.o && b.tid == x.tid)) := by
  have hdrop : ∀ y ∈ ((s.dropWaits x.uid).dropThread x.uid).threads, y.uid ≠ x.uid := fun y hy => by simpa using (List.mem_filter.mp hy).2
  have hfree : ((s.dropWaits x.uid).dropThread x.uid).freeResvOf x.uid = (s.dropWaits x.uid).dropThread x.uid := freeResvOf_none hres
  unfold State.endThread
  rw [hfree, hev]
  generalize hs0 : (s.dropWaits x.uid).dropThread x.uid = s0 at hdrop
  have hmem : s0.mem = s.mem := hs0 ▸ rfl
  have hgraph : s0.graph = s.graph := hs0 ▸ rfl
  have hoffer : (s0.offerRow x.pl).mem = s.mem ∧ (s0.offerRow x.pl).graph = s.graph ∧ ∀ y ∈ (s0.offerRow x.pl).threads, y.uid ≠ x.uid := by
    obtain e | ⟨u, k, e⟩ := offerRow_quiet (s := s0) x.pl (hgraph ▸ hpk) (hgraph ▸ hpl) (hgraph ▸ hst) <;> rw [e]
    · exact ⟨hmem, hgraph, hdrop⟩
    · obtain ⟨rmem, rgraph, rthreads⟩ := restoreRow_keeps s0 u k
      refine ⟨rmem.trans hmem, rgraph.trans hgraph, fun y hy => ?_⟩
      obtain ⟨z, hz, hu⟩ := rthreads y hy
      exact hu ▸ hdrop z hz
  obtain ⟨omem, ograph, othreads⟩ := hoffer
  obtain ⟨tmem, tthreads, tinbox⟩ := taskEnd_no_launch (s := s0.offerRow x.pl) x.pl.o x.tid x.task none (ograph ▸ hl)
  refine ⟨fun a => congrArg (·.getB a) (tmem.trans omem), ?_, tinbox.trans (by rw [ograph])⟩
  intro y hy
  exact othreads y (tthreads ▸ hy)

/-! ### The clauses of O28 that hold -/

section
variable {s : State} {u : Nat} {x : Thread}

/-- R59, R62, R215: each thread wakes and is counted by itself, and nothing else changes but metering counters. -/
theorem beatBoundary_next (hp : s.rot.pause = none) (hx : ∀ x ∈ s.threads, x.held = [] ∧ ∀ f, x.park ≠ .dead f) :
    Next (exec .beatBoundary s) (fun t => SameBytes s t ∧ t.me = s.me ∧ t.net = s.net ∧ t.graph = s.graph ∧ t.threads = s.threads.map (beaten s)) := by
  obtain ⟨os, e, -⟩ := metered_meterBeat s
  refine ⟨_, execBeatBoundary_next hp hx, ?_⟩
  rw [e]
  exact ⟨fun _ => rfl, rfl, rfl, rfl, rfl⟩

/-- R65, R41: a result lands in its register, or is discarded, and its flags are ORed. -/
theorem longResultLand_onThread {id : Nat} {o : Op} {d : Dest} {v : VWord} (hx : s.thread? u = some x) (hp : s.rot.pause = none)
    (hcap : ∀ y ∈ s.allThreads, ∀ p ∈ y.ops, p.cap = false) (ho : x.ops.find? (fun p => p.id == id) = some o) (hg : o.grp = 0) (hdue : o.due = none)
    (hrsv : o.rsv = false) (hres : o.res = some v) (hflt : o.fault = none) (hs : x.strm = none) (hd : o.dest = some d) :
    Next (exec (.longResultLand u id) s) (fun t => OnThread s t u (if o.disc then landedDiscarded x o else withDest (landed x o) d v)) := by
  refine ⟨_, execLongResultLand_next hx hp hcap ho hg hdue (by rw [hres]; rfl), ?_⟩
  rw [← landOp_task hrsv hflt hs hd hres]
  exact onThread_modThread hx (fun t => landOp_uid t o)

/-- R172, R345: a fence whose thread has no access left is over; what is outward changes at system scope alone. -/
theorem fenceComplete_onThread {k : Nat} (hx : s.thread? u = some x) (hpark : x.park = .fence k) (hacc : ∀ o ∈ x.ops, o.acc = false)
    (hsaw : ∀ i ∈ x.saw, ∀ r ∈ s.net, r.id ≠ i.1) (hheld : x.held = []) : Next (exec (.fenceComplete u) s) (fun t =>
      OnThread { s with host := { s.host with outer := t.host.outer } } t u { x with woken := true, pass := if x.pass = 1 then 2 else 0 } ∧
      (k ≠ 3 → t.host = s.host)) := by
  refine ⟨_, execFenceComplete_next hx hpark hacc hsaw, ?_⟩
  rw [← passOn_no_held hheld]
  by_cases hk : k = 3
  · rw [if_pos hk]
    exact ⟨onThread_outer (b := s.publishBy (fun w => w.2.2 == u || w.2.2 == 0)) rfl hx passOn_uid, fun h => absurd hk h⟩
  · rw [if_neg hk]
    exact ⟨onThread_outer (b := s) rfl hx passOn_uid, fun _ => modThread_host s u _⟩

/-- R110, log 73: a pair that holds an exit is issued again, where no other thread of its number holds a fault. -/
theorem exitComplete_again_onThread (hx : s.thread? u = some x) (hpark : x.park = .exit) (hdep : s.departs x = true) (hheld : x.held = [])
    (hpass : x.pass = 1) (hsame : ∀ t ∈ s.threads, t.uid = u → t.held = []) (hdead : ∀ y ∈ s.threads, ∀ f, y.park ≠ .dead f) :
    Next (exec (.exitComplete u) s) (fun t => OnThread s t u { x with woken := true, pass := 2 }) := by
  have hkept : ∀ t ∈ s.threads, t.uid = u → t.passOn.park = t.park := fun t ht hu => by rw [passOn_no_held (hsame t ht hu)]
  have hthread := onThread_modThread hx passOn_uid
  rw [passOn_no_held hheld, if_pos hpass] at hthread
  refine ⟨_, execExitComplete_again hx hpark hdep hheld hpass, ?_⟩
  rw [bury_no_dead (modThread_not_dead hkept hdead)]
  exact hthread

/-- R110, R293: a lone exit ends its thread, which leaves its row and its inbox. -/
theorem exitComplete_leaves (hx : s.thread? u = some x) (hpark : x.park = .exit) (hdep : s.departs x = true) (hheld : x.held = []) (hpass : x.pass ≠ 1)
    (hev : x.evicted = none) (hpk : s.graph.packets = []) (hpl : s.graph.placing = []) (hst : s.graph.streams = [])
    (hl : ∀ l ∈ s.graph.launches, l.id ≠ x.task.launch) (hres : ∀ p ∈ s.mem.resv, p.2 ≠ u) :
    Next (exec (.exitComplete u) s) (fun t => SameBytes s t ∧ (∀ y ∈ t.threads, y.uid ≠ u) ∧
      t.graph.inboxes = s.graph.inboxes.filter (fun b => !(b.o == x.pl.o && b.tid == x.tid))) := by
  obtain rfl := uid_of_thread? hx
  exact ⟨_, execExitComplete_ends hx hpark hdep hheld hpass, endThread_leaves x hev hpk hpl hst hl hres⟩

end

/-! ### The statement -/

/-- A pair with an exit whose wait is over. -/
def waitingPair : Thread := { uid := 1, park := .exit, pass := 1 }
/-- A thread that holds a fault and has no handler, under the number of the other. -/
def sameNumber : Thread := { uid := 1, held := [{ op := 0, code := 9, sub := 0, fpc := 0, faddr := 0 }] }
/-- Two threads share one number. The device gives each thread that it starts a fresh number, so this is no state that the clause was meant for, but no premise shuts it out. -/
def numberTwice : State := { State.reset with threads := [waitingPair, sameNumber] }

/-- The end of the first thread's wait takes the second's held fault too, and the burial that follows drops both by their number. -/
theorem numberTwice_dropped : ((numberTwice.modThread 1 Thread.passOn).bury 1).thread? 1 = none := by decide

/-- Refutes O28: the clause on a pair with an exit asks nothing of other threads with the pair's number; in numberTwice one of them holds a fault, ends as
failed at the same step, and takes the pair's thread with it, where the clause says that it stays. With no such fault the clause holds
(exitComplete_again_onThread), and so do the other four as they stand. -/
theorem not_beatsResultsFences : ¬ Obligations.BeatsResultsFences := by
  unfold Obligations.BeatsResultsFences
  rintro ⟨-, h⟩
  have hx : numberTwice.thread? 1 = some waitingPair := by decide
  have hdead : ∀ y ∈ numberTwice.threads, ∀ f, y.park ≠ .dead f := by
    intro y hy f
    obtain rfl | hy := List.mem_cons.mp hy
    · exact Park.noConfusion
    · obtain rfl := List.mem_singleton.mp hy
      exact Park.noConfusion
  obtain ⟨-, -, hpair, -⟩ := h numberTwice 1 0 waitingPair hx rfl
  obtain ⟨t, hnext, -, -, hstays, -⟩ := hpair rfl rfl rfl rfl rfl (by decide) rfl rfl hdead
  have hdep : numberTwice.departs waitingPair = true := departs_idle rfl rfl rfl rfl (by decide) rfl
  rw [execExitComplete_again hx rfl hdep rfl rfl] at hnext
  obtain rfl := Host.Outcome.next.inj hnext
  rw [numberTwice_dropped] at hstays
  cases hstays

end Sys2Proof.Laws

/-! SUPPORT. Encoding: the word of a decoded instruction, what the group decoders answer, and O51, O52 and O53. -/

namespace Sys2Proof.Laws

open Sys2Proof.Machine Sys2Proof.Safety

/-! ### Decoding undoes encoding (R69, R83 to R92) -/

/-- Every instruction decodes from its encoded bits: an event is assigned no word, and the further selectors of rotctl, slotctl and frz stand for the word of
the first. -/
theorem roundTrip (i : Instr) : RoundTrip.Statement i := by
  cases i with
  | br o => exact RoundTrip.br o
  | call o => exact RoundTrip.call o
  | dbnz d o => exact RoundTrip.dbnz d o
  | jmp a => exact RoundTrip.jmp a
  | ret a => exact RoundTrip.ret a
  | send => exact RoundTrip.send
  | exit => exact RoundTrip.exit
  | yield => exact RoundTrip.yield
  | trap n => exact RoundTrip.trap n
  | brk => exact RoundTrip.brk
  | rte => exact RoundTrip.rte
  | rsr d n => exact RoundTrip.rsr d n
  | wsr a n => exact RoundTrip.wsr a n
  | sloop d o => exact RoundTrip.sloop d o
  | ldB d a i => exact RoundTrip.ldB d a i
  | ldH d a i => exact RoundTrip.ldH d a i
  | ldW d a i => exact RoundTrip.ldW d a i
  | ldD d a i => exact RoundTrip.ldD d a i
  | ldnB d a i => exact RoundTrip.ldnB d a i
  | ldnH d a i => exact RoundTrip.ldnH d a i
  | ldnW d a i => exact RoundTrip.ldnW d a i
  | vld d a i => exact RoundTrip.vld d a i
  | stB d a i => exact RoundTrip.stB d a i
  | stH d a i => exact RoundTrip.stH d a i
  | stW d a i => exact RoundTrip.stW d a i
  | stD d a i => exact RoundTrip.stD d a i
  | vst d a i => exact RoundTrip.vst d a i
  | vldBc d a t => exact RoundTrip.vldBc d a t
  | vldk d a b => exact RoundTrip.vldk d a b
  | pref a => exact RoundTrip.pref a
  | prefR a => exact RoundTrip.prefR a
  | fenceK => exact RoundTrip.fenceK
  | fenceS => exact RoundTrip.fenceS
  | fenceO => exact RoundTrip.fenceO
  | fenceY => exact RoundTrip.fenceY
  | ldfe d a => exact RoundTrip.ldfe d a
  | ldff d a => exact RoundTrip.ldff d a
  | stfe a b => exact RoundTrip.stfe a b
  | stf a b => exact RoundTrip.stf a b
  | feClr a => exact RoundTrip.feClr a
  | lrw d a => exact RoundTrip.lrw d a
  | scq a b => exact RoundTrip.scq a b
  | rsvRel a => exact RoundTrip.rsvRel a
  | amoD d a b o => exact RoundTrip.amoD d a b o
  | amoW d a b o => exact RoundTrip.amoW d a b o
  | redD a b o => exact RoundTrip.redD a b o
  | redW a b o => exact RoundTrip.redW a b o
  | redFaddF32 a b => exact RoundTrip.redFaddF32 a b
  | areg n => exact RoundTrip.areg n
  | barInit a b => exact RoundTrip.barInit a b
  | barArrive a => exact RoundTrip.barArrive a
  | barWait a => exact RoundTrip.barWait a
  | barSync a => exact RoundTrip.barSync a
  | qpush a b => exact RoundTrip.qpush a b
  | qpop d a => exact RoundTrip.qpop d a
  | qpeek d a => exact RoundTrip.qpeek d a
  | qredI32 d a b => exact RoundTrip.qredI32 d a b
  | qredI64 d a b => exact RoundTrip.qredI64 d a b
  | qredF32 d a b => exact RoundTrip.qredF32 d a b
  | msg a b => exact RoundTrip.msg a b
  | mrecv d => exact RoundTrip.mrecv d
  | go a => exact RoundTrip.go a
  | spawn d a => exact RoundTrip.spawn d a
  | step => exact RoundTrip.step
  | fexp2 d a u => exact RoundTrip.fexp2 d a u
  | flog2 d a u => exact RoundTrip.flog2 d a u
  | frcp d a u => exact RoundTrip.frcp d a u
  | frsqrt d a u => exact RoundTrip.frsqrt d a u
  | fsqrt d a u => exact RoundTrip.fsqrt d a u
  | fsinp d a u => exact RoundTrip.fsinp d a u
  | fcosp d a u => exact RoundTrip.fcosp d a u
  | ftanh d a u => exact RoundTrip.ftanh d a u
  | fsigm d a u => exact RoundTrip.fsigm d a u
  | mgrp d a => exact RoundTrip.mgrp d a
  | mclr d a b => exact RoundTrip.mclr d a b
  | mmaG8 d a b => exact RoundTrip.mmaG8 d a b
  | mmaI8 d a b => exact RoundTrip.mmaI8 d a b
  | mmaBf16 d a b => exact RoundTrip.mmaBf16 d a b
  | mmaG8bf d a b => exact RoundTrip.mmaG8bf d a b
  | mrd d a b => exact RoundTrip.mrd d a b
  | mrdq d a b => exact RoundTrip.mrdq d a b
  | mstat d b => exact RoundTrip.mstat d b
  | mfence b => exact RoundTrip.mfence b
  | cp1d a => exact RoundTrip.cp1d a
  | cp2d a => exact RoundTrip.cp2d a
  | cp3d a => exact RoundTrip.cp3d a
  | cpGather a => exact RoundTrip.cpGather a
  | cpScatter a => exact RoundTrip.cpScatter a
  | cpFill a => exact RoundTrip.cpFill a
  | chset a b => exact RoundTrip.chset a b
  | chq d b => exact RoundTrip.chq d b
  | publish a => exact RoundTrip.publish a
  | winst d a => exact RoundTrip.winst d a
  | wstat d a => exact RoundTrip.wstat d a
  | tlbinv a => exact RoundTrip.tlbinv a
  | keyld a b => exact RoundTrip.keyld a b
  | keyzap a => exact RoundTrip.keyzap a
  | scrub a => exact RoundTrip.scrub a
  | evpost a => exact RoundTrip.evpost a
  | rotctlSuspend a => exact RoundTrip.rotctlSuspend a
  | slotctlPlace a b => exact RoundTrip.slotctlPlace a b
  | waypart a b => exact RoundTrip.waypart a b
  | frzFreezeOwner a => exact RoundTrip.frzFreezeOwner a
  | ldt d a u => exact RoundTrip.ldt d a u
  | vldt d a u => exact RoundTrip.vldt d a u
  | hint n => exact RoundTrip.hint n
  | nop n => exact RoundTrip.nop n
  | add d a b => exact RoundTrip.add d a b
  | sub d a b => exact RoundTrip.sub d a b
  | mul d a b => exact RoundTrip.mul d a b
  | mulh d a b => exact RoundTrip.mulh d a b
  | mulhn d a b => exact RoundTrip.mulhn d a b
  | div d a b => exact RoundTrip.div d a b
  | divn d a b => exact RoundTrip.divn d a b
  | rem d a b => exact RoundTrip.rem d a b
  | remn d a b => exact RoundTrip.remn d a b
  | and d a b => exact RoundTrip.and d a b
  | or d a b => exact RoundTrip.or d a b
  | xor d a b => exact RoundTrip.xor d a b
  | andn d a b => exact RoundTrip.andn d a b
  | orn d a b => exact RoundTrip.orn d a b
  | shl d a b => exact RoundTrip.shl d a b
  | shr d a b => exact RoundTrip.shr d a b
  | sar d a b => exact RoundTrip.sar d a b
  | rotl d a b => exact RoundTrip.rotl d a b
  | min d a b => exact RoundTrip.min d a b
  | max d a b => exact RoundTrip.max d a b
  | minn d a b => exact RoundTrip.minn d a b
  | maxn d a b => exact RoundTrip.maxn d a b
  | clz d a => exact RoundTrip.clz d a
  | ctz d a => exact RoundTrip.ctz d a
  | popc d a => exact RoundTrip.popc d a
  | mov d a => exact RoundTrip.mov d a
  | cmpEq d a b => exact RoundTrip.cmpEq d a b
  | cmpNe d a b => exact RoundTrip.cmpNe d a b
  | cmpLt d a b => exact RoundTrip.cmpLt d a b
  | cmpLe d a b => exact RoundTrip.cmpLe d a b
  | cmpLtn d a b => exact RoundTrip.cmpLtn d a b
  | cmpLen d a b => exact RoundTrip.cmpLen d a b
  | pset d b => exact RoundTrip.pset d b
  | pand d a b => exact RoundTrip.pand d a b
  | por d a b => exact RoundTrip.por d a b
  | pnot d a => exact RoundTrip.pnot d a
  | addi d a i => exact RoundTrip.addi d a i
  | andi d a i => exact RoundTrip.andi d a i
  | ori d a i => exact RoundTrip.ori d a i
  | xori d a i => exact RoundTrip.xori d a i
  | shli d a k => exact RoundTrip.shli d a k
  | shri d a k => exact RoundTrip.shri d a k
  | sari d a k => exact RoundTrip.sari d a k
  | roti d a k => exact RoundTrip.roti d a k
  | bfx d a q e => exact RoundTrip.bfx d a q e
  | bfxn d a q e => exact RoundTrip.bfxn d a q e
  | bfi d a q e => exact RoundTrip.bfi d a q e
  | li d i => exact RoundTrip.li d i
  | lis d i => exact RoundTrip.lis d i
  | sel d a b c => exact RoundTrip.sel d a b c
  | vsel d a b c => exact RoundTrip.vsel d a b c
  | vfma d a b c t => exact RoundTrip.vfma d a b c t
  | vfms d a b c t => exact RoundTrip.vfms d a b c t
  | vdotG8 d a b c => exact RoundTrip.vdotG8 d a b c
  | vdotBf16 d a b => exact RoundTrip.vdotBf16 d a b
  | vdotI8 d a b => exact RoundTrip.vdotI8 d a b
  | cmpiEq d a i => exact RoundTrip.cmpiEq d a i
  | cmpiNe d a i => exact RoundTrip.cmpiNe d a i
  | cmpiLt d a i => exact RoundTrip.cmpiLt d a i
  | cmpiLe d a i => exact RoundTrip.cmpiLe d a i
  | cmpiLtn d a i => exact RoundTrip.cmpiLtn d a i
  | cmpiLen d a i => exact RoundTrip.cmpiLen d a i
  | vadd d a b t => exact RoundTrip.vadd d a b t
  | vsub d a b t => exact RoundTrip.vsub d a b t
  | vmul d a b t => exact RoundTrip.vmul d a b t
  | vneg d a t => exact RoundTrip.vneg d a t
  | vabs d a t => exact RoundTrip.vabs d a t
  | vmin d a b t => exact RoundTrip.vmin d a b t
  | vmax d a b t => exact RoundTrip.vmax d a b t
  | vand d a b t => exact RoundTrip.vand d a b t
  | vor d a b t => exact RoundTrip.vor d a b t
  | vxor d a b t => exact RoundTrip.vxor d a b t
  | vandn d a b t => exact RoundTrip.vandn d a b t
  | vshl d a b t => exact RoundTrip.vshl d a b t
  | vshr d a b t => exact RoundTrip.vshr d a b t
  | vsar d a b t => exact RoundTrip.vsar d a b t
  | vcmpEq d a b t => exact RoundTrip.vcmpEq d a b t
  | vcmpLt d a b t => exact RoundTrip.vcmpLt d a b t
  | vcmpLe d a b t => exact RoundTrip.vcmpLe d a b t
  | vsum d a t => exact RoundTrip.vsum d a t
  | vbcast d a t => exact RoundTrip.vbcast d a t
  | vext d a b t => exact RoundTrip.vext d a b t
  | vins d a b t => exact RoundTrip.vins d a b t
  | vperm d a b t => exact RoundTrip.vperm d a b t
  | vround d a t => exact RoundTrip.vround d a t
  | vscale d a b t => exact RoundTrip.vscale d a b t
  | vexpo d a t => exact RoundTrip.vexpo d a t
  | vrcpa d a => exact RoundTrip.vrcpa d a
  | vrsqrta d a => exact RoundTrip.vrsqrta d a
  | vsat d a t => exact RoundTrip.vsat d a t
  | vpack d a b t => exact RoundTrip.vpack d a b t
  | vunpack d a b t => exact RoundTrip.vunpack d a b t
  | vshli d a t k => exact RoundTrip.vshli d a t k
  | vcvt d a b s t => exact RoundTrip.vcvt d a b s t
  | rotctlResume | rotctlExtraRotation | rotctlExtraSwitch | slotctlRemove | slotctlSpill | frzReleaseOwner | frzFreezeFunction | frzReleaseFunction
  | frzEndTask => exact fun _ hc => nomatch hc
  | _ => exact fun ha => nomatch ha

/-- The bits of an instruction leave bits 23 to 20 to the guard, and bits 30 and 31 to the wait and pair bits. -/
def BodyBits (n : Nat) : Prop := n / 2 ^ 20 % 16 = 0 ∧ n < 2 ^ 30

theorem intCode_lt (t : IntT) : t.code < 4 := by cases t <;> decide
theorem fltCode_lt (t : FltT) : t.code < 2 := by cases t <;> decide
theorem amoCode_lt (o : AmoOp) : o.code < 10 := by cases o <;> decide
theorem redCode_lt (o : RedOp) : o.code < 6 := by cases o <;> decide

theorem bodyBits_encodeBody {i : Instr} {n : Nat} (h : encodeBody i = some n) : BodyBits n := by
  unfold BodyBits
  cases i with
  | vldBc d a t => have := intCode_lt t; cases h; omega
  | amoD d a b o | amoW d a b o => have := amoCode_lt o; cases h; omega
  | redD a b o | redW a b o => have := redCode_lt o; cases h; omega
  | vfma d a b c t | vfms d a b c t => have := fltCode_lt t; cases h; omega
  | vadd d a b t | vsub d a b t | vmul d a b t | vneg d a t | vabs d a t | vmin d a b t | vmax d a b t | vand d a b t | vor d a b t | vxor d a b t
  | vandn d a b t | vshl d a b t | vshr d a b t | vsar d a b t | vcmpEq d a b t | vcmpLt d a b t | vcmpLe d a b t | vsum d a t | vbcast d a t
  | vext d a b t | vins d a b t | vperm d a b t | vround d a t | vscale d a b t | vexpo d a t | vsat d a t | vpack d a b t | vunpack d a b t
  | vshli d a t k => have := RoundTrip.laneLt t; cases h; omega
  | vcvt d a b s t => have := RoundTrip.laneLt s; have := RoundTrip.laneLt t; cases h; omega
  | _ => cases h <;> omega

/-- An instruction has bits where it has a word: all but the events have one. -/
theorem isSome_encodeBody (i : Instr) : (encodeBody i).isSome = i.hasWord := by cases i <;> rfl

theorem hasWord_of_assigned {i : Instr} (ha : i.assigned = true) : i.hasWord = true := by
  cases i with
  | rsr | wsr | vadd | vsub | vmul | vneg | vabs | vmin | vmax | vand | vor | vxor | vandn | vshl | vshr | vsar | vcmpEq | vcmpLt | vcmpLe | vsum | vbcast | vext
  | vins | vperm | vround | vscale | vexpo | vsat | vpack | vunpack | vshli | vcvt => rfl
  | _ => exact ha

/-- The number that a decoded instruction's word is: its bits, its guard, and its wait and pair bits. -/
def wordNat (x : Decoded) (n : Nat) : Nat := n + x.g.toNat * 1048576 + (x.w.toNat + 2 * x.p.toNat) * 1073741824

theorem encode_of_body {x : Decoded} {n : Nat} (h : encodeBody x.i = some n) : encode x = some (BitVec.ofNat 32 (wordNat x n)) := by
  obtain ⟨p, w, g, i⟩ := x
  unfold encode wordNat
  rw [h]
  cases w <;> cases p <;> simp [Nat.add_assoc]

/-- Where each field of a word stands, as numbers (R69). -/
theorem wordFields {n g w p N : Nat} (hn : BodyBits n) (hg : g < 16) (hw : w < 2) (hp : p < 2) (hN : N = n + g * 1048576 + (w + 2 * p) * 1073741824) :
    N < 4294967296 ∧ N / 2147483648 % 2 = p ∧ N / 1073741824 % 2 = w ∧ N / 1048576 % 16 = g := by
  obtain ⟨h20, h30⟩ := hn
  omega

theorem toNat_beq_one (b : Bool) : (b.toNat == 1) = b := by cases b <;> rfl
theorem toNat_ofNat_word {N : Nat} (h : N < 4294967296) : (BitVec.ofNat 32 N).toNat = N := by rw [BitVec.toNat_ofNat, Nat.mod_eq_of_lt h]
theorem ofNat_guard {N : Nat} {g : BitVec 4} (h : N / 1048576 % 16 = g.toNat) : BitVec.ofNat 4 (N / 1048576) = g :=
  BitVec.eq_of_toNat_eq (by rw [BitVec.toNat_ofNat]; exact h)

/-- A word decodes to the instruction of its bits with the guard, the wait bit and the pair bit that stand in it. -/
theorem decodeWord_of_fields {x : Decoded} {N : Nat} (hN : N < 4294967296) (hp : N / 2147483648 % 2 = x.p.toNat)
    (hw : N / 1073741824 % 2 = x.w.toNat) (hg : N / 1048576 % 16 = x.g.toNat) (hi : decodeBody N = .ok x.i) :
    decodeWord (BitVec.ofNat 32 N) = .ok x := by
  unfold decodeWord
  rw [toNat_ofNat_word hN, hi]
  simp only [hp, hw, ofNat_guard hg, toNat_beq_one]

theorem decodeWord_wordNat {x : Decoded} {n : Nat} (hn : BodyBits n) (hi : decodeBody (wordNat x n) = .ok x.i) :
    decodeWord (BitVec.ofNat 32 (wordNat x n)) = .ok x := by
  obtain ⟨hN, hp, hw, hg⟩ := wordFields hn x.g.isLt x.w.toNat_lt x.p.toNat_lt (rfl : wordNat x n = _)
  exact decodeWord_of_fields hN hp hw hg hi

/-- Settles O51: the bits of the instruction decode to it whatever stands in the other bits (`roundTrip`), and those are the guard, the wait and the pair bit. -/
theorem decodeUndoesEncode : Obligations.DecodeUndoesEncode := by
  unfold Obligations.DecodeUndoesEncode
  intro x ha hc
  obtain ⟨n, hn⟩ := Option.isSome_iff_exists.mp ((isSome_encodeBody x.i).trans (hasWord_of_assigned ha))
  have ht : x.w.toNat + 2 * x.p.toNat < 4 := by have := x.w.toNat_lt; have := x.p.toNat_lt; omega
  exact ⟨_, encode_of_body hn, decodeWord_wordNat (bodyBits_encodeBody hn) (roundTrip x.i ha hc n hn _ _ _ x.g.isLt ht rfl)⟩
/-! ### What decodes is assigned (R69, R79) -/

/-- The instruction is an entry of the opcode map and stands for its own word. -/
def isEntry (i : Instr) : Bool := i.assigned && i.canonical && i.hasWord

/-- What a decoder answers is an entry, or no instruction. -/
def isSound : Except DecodeErr Instr → Bool
  | .ok i => isEntry i
  | .error _ => true

theorem isSound_withLane {c : Nat} {f : LaneT → Instr} (h : ∀ t, ((f t).canonical && (f t).hasWord) = true) : isSound (withLane c f) = true := by
  unfold withLane
  split
  · rename_i t _
    split
    · rename_i ha
      show isEntry (f t) = true
      rw [isEntry, ha, Bool.true_and, h t]
    · rfl
  · rfl

theorem isSound_withOp {α : Type} {o : Option α} {f : α → Instr} (h : ∀ x, isEntry (f x) = true) : isSound (withOp o f) = true := by
  cases o with
  | none => rfl
  | some x => exact h x

/-- rsr and wsr name a special register by its number, which has an entry (R113). -/
theorem isSound_special {w : Nat} {f : BitVec 12 → Instr} (h : ∀ n, isEntry (f n) = (regAssigned n.toNat && true && true)) :
    isSound (if regAssigned (w % 4096) then .ok (f (BitVec.ofNat 12 (w % 4096))) else .error .function) = true := by
  have hn : (BitVec.ofNat 12 (w % 4096)).toNat = w % 4096 := by rw [BitVec.toNat_ofNat, Nat.mod_mod]
  split
  · rename_i ha
    show isEntry _ = true
    rw [h, hn, ha, Bool.and_self, Bool.and_self]
  · rfl

theorem isSound_decodeControl (w : Nat) : isSound (decodeControl w) = true := by unfold decodeControl; split <;> rfl
theorem isSound_decodeMemExtra (w : Nat) : isSound (decodeMemExtra w) = true := by unfold decodeMemExtra; split <;> rfl
theorem isSound_decodeSync (w : Nat) : isSound (decodeSync w) = true := by
  unfold decodeSync
  split <;> first | rfl | exact isSound_withOp fun _ => rfl
theorem isSound_decodeThread (w : Nat) : isSound (decodeThread w) = true := by unfold decodeThread; split <;> rfl
theorem isSound_decodeSfu (w : Nat) : isSound (decodeSfu w) = true := by unfold decodeSfu; split <;> rfl
theorem isSound_decodeMatrix (w : Nat) : isSound (decodeMatrix w) = true := by unfold decodeMatrix; split <;> rfl
theorem isSound_decodeCopy (w : Nat) : isSound (decodeCopy w) = true := by unfold decodeCopy; split <;> rfl
theorem isSound_decodeFlash (w : Nat) : isSound (decodeFlash w) = true := by unfold decodeFlash; split <;> rfl
theorem isSound_decodeMonitor (w : Nat) : isSound (decodeMonitor w) = true := by unfold decodeMonitor; split <;> rfl
theorem isSound_decodeAlu (w : Nat) : isSound (decodeAlu w) = true := by unfold decodeAlu; split <;> rfl
theorem isSound_decodeShift (w : Nat) : isSound (decodeShift w) = true := by unfold decodeShift; split <;> rfl
theorem isSound_decodeFour (w : Nat) : isSound (decodeFour w) = true := by unfold decodeFour; split <;> rfl
theorem isSound_decodeVecA (w : Nat) : isSound (decodeVecA w) = true := by
  unfold decodeVecA
  split
  case h_17 => rfl
  all_goals exact isSound_withLane fun _ => rfl
theorem isSound_decodeVecB (w : Nat) : isSound (decodeVecB w) = true := by
  unfold decodeVecB
  split
  case h_10 | h_11 => split <;> rfl
  case h_15 => rfl
  all_goals exact isSound_withLane fun _ => rfl

theorem isSound_decodeBody (w : Nat) : isSound (decodeBody w) = true := by
  unfold decodeBody
  split
  case h_4 => exact isSound_decodeControl w
  case h_5 | h_6 => exact isSound_special fun _ => rfl
  case h_21 => exact isSound_decodeMemExtra w
  case h_22 => exact isSound_decodeSync w
  case h_23 => exact isSound_decodeThread w
  case h_24 => exact isSound_decodeSfu w
  case h_25 => exact isSound_decodeMatrix w
  case h_26 => exact isSound_decodeCopy w
  case h_27 => exact isSound_decodeFlash w
  case h_28 => exact isSound_decodeMonitor w
  case h_32 => exact isSound_decodeAlu w
  case h_37 => exact isSound_decodeShift w
  case h_43 => exact isSound_decodeFour w
  case h_50 => exact isSound_decodeVecA w
  case h_51 => exact isSound_decodeVecB w
  case h_52 => exact isSound_withLane fun _ => rfl
  case h_53 =>
    split
    · exact isSound_withLane fun _ => rfl
    · rfl
  all_goals rfl

theorem isEntry_of_decodeBody {w : Nat} {i : Instr} (h : decodeBody w = .ok i) : isEntry i = true := by
  have hs := isSound_decodeBody w
  rw [h] at hs
  exact hs

theorem beq_one_eq_getLsbD (w : BitVec 32) (k : Nat) : (w.toNat / 2 ^ k % 2 == 1) = w.getLsbD k := by
  rw [BitVec.getLsbD, Nat.testBit_eq_decide_div_mod_eq, beq_eq_decide]

theorem ofNat_div_eq_extractLsb' (w : BitVec 32) (k n : Nat) : BitVec.ofNat n (w.toNat / 2 ^ k) = w.extractLsb' k n := by
  rw [BitVec.extractLsb', Nat.shiftRight_eq_div_pow]

/-- Settles O52: every group decoder answers an entry of the map or none (`isSound_decodeBody`), and the other fields are read at their places. -/
theorem decodedTermsAreAssigned : Obligations.DecodedTermsAreAssigned := by
  unfold Obligations.DecodedTermsAreAssigned
  intro w x h
  unfold decodeWord at h
  split at h
  · rename_i i hi
    obtain rfl := Except.ok.inj h
    have he := isEntry_of_decodeBody hi
    simp only [isEntry, Bool.and_eq_true] at he
    obtain ⟨⟨ha, hc⟩, hw⟩ := he
    exact ⟨ha, hc, hw, ofNat_div_eq_extractLsb' w 20 4, beq_one_eq_getLsbD w 30, beq_one_eq_getLsbD w 31⟩
  · cases h

/-! ### Words from the maps (R69 to R93) -/

/-- Settles O53: the decoder computes each of the thirteen words. -/
theorem wordsDecode : Obligations.WordsDecode := by
  unfold Obligations.WordsDecode
  exact ⟨rfl, rfl, rfl, rfl, rfl, rfl, rfl, rfl, rfl, rfl, rfl, rfl, rfl⟩

end Sys2Proof.Laws

/-! SUPPORT. EncodingFaults: the checks of a formed bundle and the faults of a word and of a fetch, and O24. -/

namespace Sys2Proof.Laws

open Sys2Proof.Machine Sys2Proof.Safety

section
variable {s : State} {b : Addr} {w v : BitVec 32} {d e : Decoded}

/-! ### The words of a bundle (R79, R81) -/

theorem wordAt_zero (b : Addr) : wordAt b 0 = b := BitVec.add_zero b

theorem firstWord_singleton {α : Type} (f : α → Option Nat) (k : Nat) (x : α) : firstWord f k [x] = (f x).map (k, ·) := by
  simp only [firstWord]; cases f x <;> rfl

theorem firstWord_eq_none {α : Type} {f : α → Option Nat} {xs : List α} (h : ∀ x ∈ xs, f x = none) (k : Nat) : firstWord f k xs = none := by
  induction xs generalizing k with
  | nil => rfl
  | cons x xs ih =>
    rw [firstWord, h x List.mem_cons_self]
    exact ih (fun y hy => h y (List.mem_cons_of_mem x hy)) (k + 1)

theorem wordSub_ok (h : decodeWord w = .ok d) : wordSub w = none := by unfold wordSub; rw [h]
theorem wordSub_major (h : decodeWord w = .error .major) : wordSub w = some 1 := by unfold wordSub; rw [h]
theorem wordSub_function (h : decodeWord w = .error .function) : wordSub w = some 2 := by unfold wordSub; rw [h]

theorem decoded_one (h : decodeWord w = .ok d) : decoded [w] = [d] := by simp [decoded, h]
theorem decoded_two (h : decodeWord w = .ok d) (k : decodeWord v = .ok e) : decoded [w, v] = [d, e] := by simp [decoded, h, k]

/-! ### What a formed bundle raises before either half is performed (R82) -/

/-- A fault raised by a task's bundle outside a region is taken there. -/
theorem next_raise {c n : Nat} {a : Addr} (h : PlainTask s) : Next (.next (s.raise c n a)) (fun t => TookFault s t c n s.iss.b a) :=
  ⟨_, rfl, tookFault_raise s c n a h⟩

theorem performFormed_unassigned {n : Nat} (h : wordSub w = some n) : s.performFormed ⟨b, [w]⟩ = .next ((s.latch b 4 s.me).raise 1 n b) := by
  have hb : b + BitVec.ofNat 48 (4 - 4) = b := BitVec.add_zero b
  unfold State.performFormed
  rw [firstWord_singleton, h]
  show execUnassignedWord w (s.latch b 4 s.me) = _
  unfold execUnassignedWord
  rw [h]
  show Host.Outcome.next ((s.latch b 4 s.me).raise 1 n (b + BitVec.ofNat 48 (4 - 4))) = _
  rw [hb]

theorem performFormed_fault {x : Bundle} {c n : Nat} {a : Addr} (hw : firstWord wordSub 0 x.ws = none)
    (hf : s.formFault x.b (decoded x.ws) = some (c, n, a)) : s.performFormed x = .next ((s.latch x.b x.z s.me).raise c n a) := by
  unfold State.performFormed
  rw [hw]
  dsimp only
  rw [hf]

/-- The check of R350 that a monitor form fails below the monitor level. -/
def levelSub (s : State) (d : Decoded) : Option Nat := if instrIsMonitor d.i && !s.monitorLevel then some 4 else none
/-- The check of the stream-only forms for a task's bundle (R211). -/
def taskSub (s : State) (d : Decoded) : Option Nat :=
  if s.inStream then (if instrStreamBad d.g d.i then some 5 else none) else if streamForm d.i then some 7 else none

theorem levelSub_none (h : s.me.pl.o = 0 ∨ instrIsMonitor d.i = false) : levelSub s d = none := by
  unfold levelSub State.monitorLevel
  rcases h with h | h <;> simp [h]

theorem taskSub_none (hs : s.me.strm = none) (h : streamForm d.i = false) : taskSub s d = none := by simp [taskSub, State.inStream, hs, h]

/-- The places of R82 for decoded words, by the checks named here. -/
theorem formFault_eq (s : State) (b : Addr) (ds : List Decoded) : s.formFault b ds =
    match firstWord (levelSub s) 0 ds with
    | some (k, n) => some (1, n, wordAt b k)
    | none =>
      match firstWord (taskSub s) 0 ds with
      | some (k, n) => some (1, n, wordAt b k)
      | none =>
        match firstWord (fun d => d.i.reservedSub) 0 ds with
        | some (k, n) => some (2, n, wordAt b k)
        | none =>
          if sharedDest ds then some (2, 1, b)
          else (firstWord (fun d => if loneForm d.i && decide (1 < ds.length) then some 6 else none) 0 ds).map (fun r => (1, r.2, wordAt b r.1)) := rfl

theorem formFault_level {ds : List Decoded} {k n : Nat} (h : firstWord (levelSub s) 0 ds = some (k, n)) : s.formFault b ds = some (1, n, wordAt b k) := by
  rw [formFault_eq, h]

theorem formFault_reserved {ds : List Decoded} {k n : Nat} (hl : ∀ d ∈ ds, levelSub s d = none) (ht : ∀ d ∈ ds, taskSub s d = none)
    (h : firstWord (fun d => d.i.reservedSub) 0 ds = some (k, n)) : s.formFault b ds = some (2, n, wordAt b k) := by
  rw [formFault_eq, firstWord_eq_none hl, firstWord_eq_none ht]
  dsimp only
  rw [h]

theorem formFault_shared {ds : List Decoded} (hl : ∀ d ∈ ds, levelSub s d = none) (ht : ∀ d ∈ ds, taskSub s d = none)
    (hr : ∀ d ∈ ds, d.i.reservedSub = none) (h : sharedDest ds = true) : s.formFault b ds = some (2, 1, b) := by
  rw [formFault_eq, firstWord_eq_none hl, firstWord_eq_none ht]
  dsimp only
  rw [firstWord_eq_none hr]
  exact if_pos h

theorem sharedDest_pair (h : ∃ r ∈ instrWrites d.i, r ∈ instrWrites e.i) : sharedDest [d, e] = true := by
  obtain ⟨r, hd, he⟩ := h
  exact List.any_eq_true.mpr ⟨r, hd, List.contains_iff_mem.mpr he⟩

/-! ### The faults of a bundle and of a fetch -/

/-- A word without an entry in the map raises its subcode at its bundle (R79). -/
theorem performFormed_unassigned_fault {n : Nat} (hp : PlainTask s) (h : wordSub w = some n) :
    Next (s.performFormed ⟨b, [w]⟩) (fun t => TookFault (s.latch b 4 s.me) t 1 n b b) := by
  rw [performFormed_unassigned h]
  exact next_raise hp

/-- What a check of decoded words raises is taken before either half is performed (R82). -/
theorem performFormed_check_fault {ws : List (BitVec 32)} {c n : Nat} {a : Addr} (hp : PlainTask s) (hw : ∀ w ∈ ws, wordSub w = none)
    (hf : s.formFault b (decoded ws) = some (c, n, a)) :
    Next (s.performFormed ⟨b, ws⟩) (fun t => TookFault (s.latch b (4 * ws.length) s.me) t c n b a) := by
  rw [performFormed_fault (firstWord_eq_none hw 0) hf]
  exact next_raise hp

/-- A monitor form below the monitor level (R350). -/
theorem performFormed_level (hp : PlainTask s) (ho : s.me.pl.o ≠ 0) (hd : decodeWord w = .ok d) (hm : instrIsMonitor d.i = true) :
    Next (s.performFormed ⟨b, [w]⟩) (fun t => TookFault (s.latch b 4 s.me) t 1 4 b b) := by
  have hl : levelSub s d = some 4 := by simp [levelSub, State.monitorLevel, ho, hm]
  refine performFormed_check_fault hp (List.forall_mem_singleton.mpr (wordSub_ok hd)) ?_
  rw [decoded_one hd, formFault_level (by rw [firstWord_singleton, hl]; rfl), wordAt_zero]

/-- A reserved value of a field (R80). -/
theorem performFormed_reserved {n : Nat} (hp : PlainTask s) (hd : decodeWord w = .ok d) (hr : d.i.reservedSub = some n)
    (hl : s.me.pl.o = 0 ∨ instrIsMonitor d.i = false) (hs : streamForm d.i = false) :
    Next (s.performFormed ⟨b, [w]⟩) (fun t => TookFault (s.latch b 4 s.me) t 2 n b b) := by
  refine performFormed_check_fault hp (List.forall_mem_singleton.mpr (wordSub_ok hd)) ?_
  rw [decoded_one hd, formFault_reserved (List.forall_mem_singleton.mpr (levelSub_none hl)) (List.forall_mem_singleton.mpr (taskSub_none hp.1 hs))
    (by rw [firstWord_singleton, hr]; rfl), wordAt_zero]

theorem forall_mem_two {P : Decoded → Prop} (hd : P d) (he : P e) : ∀ x ∈ [d, e], P x :=
  List.forall_mem_cons.mpr ⟨hd, List.forall_mem_singleton.mpr he⟩

/-- A pair that writes one register twice (R75, R82). -/
theorem performFormed_shared (hp : PlainTask s) (hd : decodeWord w = .ok d) (he : decodeWord v = .ok e)
    (hmd : instrIsMonitor d.i = false) (hme : instrIsMonitor e.i = false) (hsd : streamForm d.i = false) (hse : streamForm e.i = false)
    (hrd : d.i.reservedSub = none) (hre : e.i.reservedSub = none) (h : ∃ r ∈ instrWrites d.i, r ∈ instrWrites e.i) :
    Next (s.performFormed ⟨b, [w, v]⟩) (fun t => TookFault (s.latch b 8 s.me) t 2 1 b b) := by
  refine performFormed_check_fault hp (List.forall_mem_cons.mpr ⟨wordSub_ok hd, List.forall_mem_singleton.mpr (wordSub_ok he)⟩) ?_
  rw [decoded_two hd he]
  exact formFault_shared (forall_mem_two (levelSub_none (.inr hmd)) (levelSub_none (.inr hme)))
    (forall_mem_two (taskSub_none hp.1 hsd) (taskSub_none hp.1 hse)) (forall_mem_two hrd hre) (sharedDest_pair h)

/-- The row of an unassigned word: FADDR is the word that the size formed so far ends with (R81). -/
theorem exec_unassignedWord_fault {n : Nat} (hp : PlainTask s) (h : wordSub w = some n) :
    Next (exec (.unassignedWord w) s) (fun t => TookFault s t 1 n s.iss.b (s.iss.b + BitVec.ofNat 48 (s.iss.z - 4))) := by
  have he : exec (.unassignedWord w) s = .next (s.raise 1 n (s.iss.b + BitVec.ofNat 48 (s.iss.z - 4))) := by
    show execUnassignedWord w s = _
    unfold execUnassignedWord
    rw [h]
  rw [he]
  exact next_raise hp

/-- The row of a failed fetch (R340). -/
theorem exec_instructionFetchFault (hp : PlainTask s) (code sub : Nat) :
    Next (exec (.instructionFetchFault code sub) s) (fun t => TookFault s t code sub s.iss.b s.iss.b) := next_raise hp

end

/-- Settles O24: the first check that a formed bundle fails decides its fault, and each is raised before a half is performed. -/
theorem encodingLevelFetchFaults : Obligations.EncodingLevelFetchFaults := by
  unfold Obligations.EncodingLevelFetchFaults
  refine ⟨fun s b w d hp ho hd hm => performFormed_level hp ho hd hm, fun s b w v d e hp => ⟨?_, ?_, ?_, ?_⟩, fun s w code sub hp => ⟨?_, ?_, ?_, ?_⟩⟩
  · exact fun h => performFormed_unassigned_fault hp (wordSub_major h)
  · exact fun h => performFormed_unassigned_fault hp (wordSub_function h)
  · exact fun hd n hr hl hs => performFormed_reserved hp hd hr hl hs
  · exact fun hd he hmd hme hsd hse hrd hre h => performFormed_shared hp hd he hmd hme hsd hse hrd hre h
  · intro h hz
    have hf := exec_unassignedWord_fault hp (wordSub_major h)
    rwa [hz, show s.iss.b + BitVec.ofNat 48 (4 - 4) = s.iss.b from BitVec.add_zero _] at hf
  · intro h hz
    have hf := exec_unassignedWord_fault hp (wordSub_function h)
    rwa [hz, show s.iss.b + BitVec.ofNat 48 (4 - 4) = s.iss.b from BitVec.add_zero _] at hf
  · intro h hz
    have hf := exec_unassignedWord_fault hp (wordSub_function h)
    rwa [hz] at hf
  · exact exec_instructionFetchFault hp code sub

end Sys2Proof.Laws

/-! SUPPORT. MonitorState: what a form that is no monitor form leaves of the monitor's state, form by form, and O60. -/

namespace Sys2Proof.Laws

open Sys2Proof.Machine Sys2Proof.Safety

/-! ### The frame (R93, R115, R350) -/

/-- The monitor's registers, the owners but for their metering counters, the rotation, the host port, the trust unit, the columns and the capability tables are
as before. -/
def LeavesMonitor (s t : State) : Prop :=
  t.regs = s.regs ∧ (∀ o, t.owner o = { s.owner o with meter := (t.owner o).meter }) ∧ t.rot = s.rot ∧ t.host = s.host ∧ t.trust = s.trust ∧ t.cols = s.cols ∧
    t.caps = s.caps

/-- The fields that the frame names. -/
def monitorPart (s : State) : MonRegs × Vector Owner 16 × Rot × HostPort × Trust × List Column × List Cap :=
  (s.regs, s.owners, s.rot, s.host, s.trust, s.cols, s.caps)

/-- A state that differs in none of these fields; for a record update that is true by definition. -/
theorem leaves_of {s t : State} (h : monitorPart t = monitorPart s) : LeavesMonitor s t := by
  simp only [monitorPart, Prod.mk.injEq] at h
  obtain ⟨regs, owners, rot, host, trust, cols, caps⟩ := h
  exact ⟨regs, fun o => by unfold State.owner; rw [owners], rot, host, trust, cols, caps⟩

theorem leaves_refl (s : State) : LeavesMonitor s s := leaves_of rfl

theorem LeavesMonitor.trans {s t u : State} (h : LeavesMonitor s t) (k : LeavesMonitor t u) : LeavesMonitor s u := by
  obtain ⟨regs, owners, rot, host, trust, cols, caps⟩ := h
  obtain ⟨regs', owners', rot', host', trust', cols', caps'⟩ := k
  exact ⟨regs'.trans regs, fun o => by rw [owners', owners], rot'.trans rot, host'.trans host, trust'.trans trust, cols'.trans cols, caps'.trans caps⟩

/-- What an access at a home, a walk or a prefetch may change is none of it (R434). -/
theorem leaves_of_settles {s t : State} (h : Settles s t) : LeavesMonitor s t := by
  obtain ⟨e, owners⟩ := h
  refine ⟨?_, owners, ?_, ?_, ?_, ?_, ?_⟩ <;> rw [e] <;> rfl

theorem leaves_ite {c : Prop} [Decidable c] {s t u : State} (ht : LeavesMonitor s t) (hu : LeavesMonitor s u) : LeavesMonitor s (if c then t else u) := by
  split
  · exact ht
  · exact hu

theorem next_leaves_trans {s t : State} {r : Res} (h : LeavesMonitor s t) (k : Next r (LeavesMonitor t)) : Next r (LeavesMonitor s) :=
  next_mono k fun _ => h.trans

section
variable {s s' : State}

/-! ### The operations of the forms -/

theorem leaves_raise (h : LeavesMonitor s s') (c n : Nat) (a : Addr) : LeavesMonitor s (s'.raise c n a) := by
  refine h.trans ?_
  unfold State.raise
  cases s'.me.strm with
  | none => exact leaves_of rfl
  | some sid => exact leaves_of rfl

theorem leaves_rewind (h : LeavesMonitor s s') (p : Park) : LeavesMonitor s (s'.rewind p) := h.trans (leaves_of rfl)

theorem leaves_missAt (h : LeavesMonitor s s') (va : Nat) (ea : Addr) (f : Bool) : LeavesMonitor s (s'.missAt va ea f) := by
  have hw : LeavesMonitor s' (s'.startWalk va).1 := by unfold State.startWalk; dsimp only; split <;> exact leaves_of rfl
  exact (h.trans hw).trans (leaves_of rfl)

theorem leaves_wDest (h : LeavesMonitor s s') (d : Dest) (x : VWord) : LeavesMonitor s (s'.wDest d x) := by
  cases d with
  | s k => exact h.trans (leaves_of rfl)
  | v k => exact h.trans (leaves_of rfl)

theorem leaves_modThread (h : LeavesMonitor s s') (u : Nat) (f : Thread → Thread) : LeavesMonitor s (s'.modThread u f) := by
  refine h.trans ?_
  unfold State.modThread
  split <;> exact leaves_of rfl

theorem leaves_wakeQueue (h : LeavesMonitor s s') (p : Place) (q : Nat) : LeavesMonitor s (s'.wakeQueue p q) := by
  unfold State.wakeQueue
  split
  · exact leaves_modThread h _ _
  · exact h

theorem leaves_joinQueue (h : LeavesMonitor s s') (p : Place) (q : Nat) (v : VWord) (r : Req) : LeavesMonitor s (s'.joinQueue p q v r) := by
  unfold State.joinQueue State.finishOp
  exact leaves_wakeQueue (leaves_modThread (h.trans (leaves_of (by rfl))) _ _) _ _

/-- A held push that is accepted when an entry frees joins the queue (R193). -/
theorem leaves_acceptHeld (h : LeavesMonitor s s') (p : Place) (q : Nat) : LeavesMonitor s (s'.acceptHeld p q) := by
  unfold State.acceptHeld
  split
  · split
    · split
      · exact leaves_joinQueue h _ _ _ _
      · exact h
    · exact h
  · exact h

theorem leaves_fillL1 (h : LeavesMonitor s s') (p : Place) (ea : Addr) (l : Loc) : LeavesMonitor s (s'.fillL1 p ea l) := by
  refine h.trans ?_
  unfold State.fillL1
  split
  · exact leaves_of rfl
  · dsimp only
    refine leaves_ite (leaves_of rfl) (leaves_ite (leaves_of rfl) ?_)
    split <;> exact leaves_of rfl

/-! ### Translation: a walk settles counters and caches at most -/

theorem leaves_walkNow (s : State) (va : Nat) (u : State.Use) : LeavesMonitor s (s.walkNow va u).2 := leaves_of_settles (settles_walkNow s va u)

/-- An access to a place answers from a state that has only been settled (R174). -/
theorem leaves_withLoc {ea : Addr} {n : Nat} {u : State.Use} {k : State → Loc → Res}
    (hit : ∀ s' l, LeavesMonitor s s' → Next (k s' l) (LeavesMonitor s)) : Next (s.withLoc ea n u k) (LeavesMonitor s) := by
  unfold State.withLoc
  split
  · exact next_of (leaves_raise (leaves_refl s) _ _ _)
  · exact hit _ _ (leaves_refl s)
  · rename_i va _
    refine next_ite (fun _ => ?_) (fun _ => next_of (leaves_missAt (leaves_refl s) _ _ _))
    have hw := leaves_walkNow s va u
    split <;> (rename_i h; rw [h] at hw)
    · exact next_of (leaves_raise hw _ _ _)
    · exact hit _ _ hw
    · exact next_of hw

theorem leaves_withChan {off n : Nat} {ea : Addr} {k : Res} (h : LeavesMonitor s s') (go : Next k (LeavesMonitor s)) :
    Next (s'.withChan off n ea k) (LeavesMonitor s) :=
  withChan_cases (leaves_rewind h _) (fun _ _ => leaves_raise h _ _ _) go

/-- An access to the own scratchpad passes its channel first, and any other goes on at once (R165). -/
theorem leaves_ownChan {off n : Nat} {ea : Addr} {k : Res} {c : Prop} [Decidable c] (h : LeavesMonitor s s') (go : Next k (LeavesMonitor s)) :
    Next (if c then s'.withChan off n ea k else k) (LeavesMonitor s) := next_ite (fun _ => leaves_withChan h go) (fun _ => go)

/-- A form that parks at a limit, or goes on to a state of which `LeavesMonitor` holds (R66). -/
theorem leaves_limited {c : Prop} [Decidable c] {p : Park} {t : State} (h : LeavesMonitor s s') (k : LeavesMonitor s' t) :
    Next (if c then .next (s'.rewind p) else .next t) (LeavesMonitor s) := next_ite (fun _ => next_of (leaves_rewind h _)) (fun _ => next_of (h.trans k))

/-! ### Loads and stores (R158 to R170, R188) -/

theorem leaves_regionWord (r : Region) (ea : Addr) (n : Nat) (st : Option (List Byte)) (ld : Option Dest) (f : LdFmt) :
    Next (s.regionWord r ea n st ld f) (LeavesMonitor s) := by
  unfold State.regionWord
  refine leaves_withLoc fun s' l h => next_ite (fun _ => next_of (leaves_raise h _ _ _)) (fun _ => ?_)
  cases ld with
  | none => exact next_of (h.trans (leaves_of rfl))
  | some d => exact next_ite (fun _ => next_of (leaves_rewind h _)) (fun _ => next_of (h.trans (leaves_of rfl)))

theorem leaves_longLoad (h : LeavesMonitor s s') (ea : Addr) (n : Nat) (f : LdFmt) (d : Dest) (tag : Option (BitVec 16)) (due : Option Nat) (l : Loc) :
    Next (s'.longLoad ea n f d tag due l) (LeavesMonitor s) :=
  longLoad_cases (leaves_rewind h _) (fun _ _ _ _ _ _ _ => h.trans (leaves_of rfl))

theorem leaves_shortLoad (h : LeavesMonitor s s') (ea : Addr) (off n : Nat) (f : LdFmt) (d : Dest) (tag : Option (BitVec 16)) :
    Next (s'.shortLoad ea off n f d tag) (LeavesMonitor s) :=
  shortLoad_cases (leaves_rewind h _) (leaves_rewind h _) (fun _ _ => leaves_raise h _ _ _) (leaves_wDest (h.trans (leaves_of (by rfl))) _ _)

theorem leaves_remoteLoad (h : LeavesMonitor s s') (p : Place) (ea : Addr) (n : Nat) (f : LdFmt) (d : Dest) (tag : Option (BitVec 16)) (l : Loc) :
    Next (s'.remoteLoad p ea n f d tag l) (LeavesMonitor s) :=
  remoteLoad_cases (leaves_rewind h _) (leaves_rewind (h.trans (leaves_of (by rfl))) _) (fun _ _ _ => leaves_longLoad (h.trans (leaves_of (by rfl))) _ _ _ _ _ _ _)

/-- A load off the scratchpads, and every timed load, is long (R158, R160). -/
theorem leaves_farLoad (h : LeavesMonitor s s') (ea : Addr) (n : Nat) (f : LdFmt) (d : Dest) (tag : Option (BitVec 16)) (due : Option Nat) (l : Loc) :
    Next (if s'.atLimit then .next (s'.rewind .limit) else (s'.modMe (fun t => { t with run := 0 })).longLoad ea n f d tag due l) (LeavesMonitor s) :=
  next_ite (fun _ => next_of (leaves_rewind h _)) (fun _ => leaves_longLoad (h.trans (leaves_of (by rfl))) _ _ _ _ _ _ _)

theorem leaves_loadForm (ea : Addr) (n : Nat) (f : LdFmt) (d : Dest) (tag : Option (BitVec 16)) : Next (s.loadForm ea n f d tag) (LeavesMonitor s) := by
  unfold State.loadForm
  cases s.me.region with
  | some r => exact leaves_regionWord _ _ _ _ _ _
  | none =>
    refine leaves_withLoc fun s' l h => ?_
    split
    · exact next_ite (fun _ => leaves_shortLoad h _ _ _ _ _ _)
        (fun _ => next_ite (fun _ => next_of (leaves_raise h _ _ _)) (fun _ => leaves_remoteLoad h _ _ _ _ _ _ _))
    · exact next_ite (fun _ => next_of (leaves_raise h _ _ _)) (fun _ => leaves_farLoad h _ _ _ _ _ _ _)

theorem leaves_vldkForm (ea : Addr) (d : Dest) (tag : BitVec 16) : Next (s.vldkForm ea d tag) (LeavesMonitor s) := by
  unfold State.vldkForm
  split
  · exact next_of (leaves_raise (leaves_refl s) _ _ _)
  · exact leaves_loadForm _ _ _ _ _

theorem leaves_timedLoad (ea : Addr) (n : Nat) (f : LdFmt) (d : Dest) (u : BitVec 12) : Next (s.timedLoad ea n f d u) (LeavesMonitor s) := by
  unfold State.timedLoad
  refine next_ite (fun _ => next_of (leaves_raise (leaves_refl s) _ _ _)) (fun _ => leaves_withLoc fun s' l h => ?_)
  dsimp only
  split
  · exact leaves_ownChan h (leaves_farLoad h _ _ _ _ _ _ _)
  · exact leaves_farLoad h _ _ _ _ _ _ _

theorem leaves_storeForm (ea : Addr) (bs : List Byte) : Next (s.storeForm ea bs) (LeavesMonitor s) := by
  unfold State.storeForm
  dsimp only
  cases s.me.region with
  | some r => exact leaves_regionWord _ _ _ _ _ _
  | none =>
    refine leaves_withLoc fun s' l h => ?_
    split
    · exact next_ite (fun _ => withOwn_cases (leaves_rewind h _) (leaves_withChan h (next_of (h.trans (leaves_of rfl)))))
        (fun _ => next_ite (fun _ => next_of (leaves_raise h _ _ _)) (fun _ => next_of (h.trans (leaves_of rfl))))
    · exact next_ite (fun _ => next_of (leaves_raise h _ _ _)) (fun _ => next_of (h.trans (leaves_of rfl)))

theorem leaves_pref (a : Fin 16) : Next (execPref a s) (LeavesMonitor s) := by
  unfold execPref
  dsimp only
  split
  · exact next_of (leaves_fillL1 (leaves_of_settles (settles_chargeMem s _ _)) _ _ _)
  · exact next_of (leaves_refl s)

theorem leaves_prefR (a : Fin 16) : Next (execPrefR a s) (LeavesMonitor s) := by
  unfold execPrefR
  split
  · exact next_of (leaves_of_settles (settles_chargeKept s _))
  · exact next_of (leaves_refl s)

theorem leaves_areg (n : Fin 16) : Next (execAreg n s) (LeavesMonitor s) :=
  next_ite (fun _ => next_of (leaves_raise (leaves_refl s) _ _ _))
    (fun _ => next_ite (fun _ => next_of (leaves_raise (leaves_refl s) _ _ _)) (fun _ => next_of (leaves_of rfl)))

/-! ### Synchronisation (R183 to R198, R205) -/

theorem leaves_syncStore (ea : Addr) (counts : Bool) (u : State.Use) (k : ReqKind) : Next (s.syncStore ea counts u k) (LeavesMonitor s) :=
  leaves_withLoc fun _ _ h => leaves_limited h (leaves_of rfl)

theorem leaves_syncLoad (d : Fin 16) (ea : Addr) (k : ReqKind) : Next (s.syncLoad d ea k) (LeavesMonitor s) :=
  leaves_withLoc fun _ _ h => leaves_limited h (leaves_of rfl)

theorem leaves_resvEnd (ea : Addr) (u : State.Use) (k : ReqKind) : Next (s.resvEnd ea u k) (LeavesMonitor s) :=
  leaves_withLoc fun _ _ h => next_ite (fun _ => next_of (leaves_raise h _ _ _)) (fun _ => next_of (h.trans (leaves_of rfl)))

theorem leaves_lrw (d a : Fin 16) : Next (execLrw d a s) (LeavesMonitor s) := by
  unfold execLrw
  exact leaves_withLoc fun _ _ h => next_ite (fun _ => next_of (leaves_raise h _ _ _))
    (fun _ => next_ite (fun _ => next_of (leaves_rewind h _)) (fun _ => next_of (h.trans (leaves_of rfl))))

theorem leaves_amoForm (d a b : Fin 16) (n : Nat) (op : AmoOp) : Next (s.amoForm d a b n op) (LeavesMonitor s) := by
  unfold State.amoForm
  refine leaves_withLoc fun s' l h => ?_
  dsimp only
  split
  · exact leaves_ownChan h (leaves_limited h (leaves_of rfl))
  · exact leaves_limited h (leaves_of rfl)

theorem leaves_redForm (a : Fin 16) (n : Nat) (k : ReqKind) : Next (s.redForm a n k) (LeavesMonitor s) := by
  unfold State.redForm
  refine leaves_withLoc fun s' l h => ?_
  dsimp only
  split
  · exact leaves_ownChan h (leaves_limited h (leaves_of rfl))
  · exact leaves_limited h (leaves_of rfl)

/-- A barrier form sets out, and parks where it waits (R190, R191). -/
theorem leaves_barForm (x : Word) (acq rel wait : Bool) (k : Nat → ReqKind) : Next (s.barForm x acq rel wait k) (LeavesMonitor s) :=
  barForm_cases (leaves_raise (leaves_refl s) _ _ _) (fun _ _ _ _ _ => leaves_ite (leaves_of rfl) (leaves_of rfl))

theorem leaves_qpush (a b : Fin 16) : Next (execQpush a b s) (LeavesMonitor s) := by
  unfold execQpush
  exact withName_cases (leaves_raise (leaves_refl s) _ _ _) (fun _ => next_of (leaves_of rfl))

/-- An empty queue parks; otherwise the front leaves it and a held push may join (R193 to R195). -/
theorem leaves_qpop (d a : Fin 16) : Next (execQpop d a s) (LeavesMonitor s) := by
  refine next_ite (fun _ => next_of (leaves_raise (leaves_refl s) _ _ _)) (fun _ => withAcq_cases (leaves_rewind (leaves_refl s) _) ?_)
  split
  · exact next_of (leaves_of rfl)
  · exact next_of (leaves_acceptHeld (leaves_of rfl) _ _)

theorem leaves_qpeek (d a : Fin 16) : Next (execQpeek d a s) (LeavesMonitor s) := by
  refine next_ite (fun _ => next_of (leaves_raise (leaves_refl s) _ _ _)) (fun _ => withAcq_cases (leaves_rewind (leaves_refl s) _) ?_)
  split
  · exact next_of (leaves_of rfl)
  · exact next_of (leaves_wakeQueue (leaves_of rfl) _ _)

/-- A queue reduction ends, or takes one element and begins its next turn (R196 to R198). -/
theorem leaves_qredTurn (d a b : Fin 16) (add : VWord → VWord → VWord × Flags) : Next (qredTurn s d a b add) (LeavesMonitor s) := by
  unfold qredTurn
  refine next_ite (fun _ => next_of (leaves_raise (leaves_refl s) _ _ _)) (fun _ => next_ite (fun _ => next_of (leaves_raise (leaves_refl s) _ _ _)) (fun _ => ?_))
  dsimp only
  refine next_ite (fun _ => withAcq_cases (leaves_rewind (leaves_refl s) _) ?_) (fun _ => next_of (leaves_ite (leaves_of rfl) (leaves_of rfl)))
  split
  · exact next_of (leaves_of rfl)
  · rename_i e es _
    have hk : LeavesMonitor s ((((s.wV d (add (s.rV d) e).1).orF (add (s.rV d) e).2).setQueue s.me.pl a.val es).acceptHeld s.me.pl a.val) :=
      leaves_acceptHeld (leaves_of rfl) _ _
    generalize State.acceptHeld _ _ _ = u at hk ⊢
    exact next_of (leaves_ite (hk.trans (leaves_of rfl)) (hk.trans (leaves_of rfl)))

theorem leaves_mrecv (d : Fin 16) : Next (execMrecv d s) (LeavesMonitor s) :=
  leaves_limited (leaves_refl s) (leaves_of rfl)

theorem leaves_spawn (d a : Fin 16) : Next (execSpawn d a s) (LeavesMonitor s) := by
  unfold execSpawn
  refine leaves_withLoc fun s' l h => ?_
  dsimp only
  split
  · exact next_of (leaves_raise h _ _ _)
  · exact leaves_ownChan h (leaves_limited h (leaves_of rfl))
  · exact leaves_limited h (leaves_of rfl)

/-! ### Control (R106 to R112, R204, R408) -/

theorem leaves_jumpTo (x : Word) : Next (s.jumpTo x) (LeavesMonitor s) :=
  next_ite (fun _ => next_of (leaves_raise (leaves_refl s) _ _ _)) (fun _ => next_of (leaves_of rfl))

theorem leaves_streamOnly : Next s.streamOnly (LeavesMonitor s) :=
  next_ite (fun _ => next_of (leaves_refl s)) (fun _ => next_of (leaves_raise (leaves_refl s) _ _ _))

theorem leaves_br (o : BitVec 20) : Next (execBr o s) (LeavesMonitor s) := next_ite (fun _ => next_of (leaves_refl s)) (fun _ => next_of (leaves_of rfl))

theorem leaves_dbnz (d : Fin 16) (o : BitVec 16) : Next (execDbnz d o s) (LeavesMonitor s) := next_of (leaves_ite (leaves_of rfl) (leaves_of rfl))

theorem leaves_sloop (d : Fin 16) (o : BitVec 16) : Next (execSloop d o s) (LeavesMonitor s) := by
  refine next_ite (fun _ => leaves_streamOnly) (fun _ => next_ite (fun _ => next_of (leaves_raise (leaves_refl s) _ _ _)) (fun _ => ?_))
  dsimp only
  split
  · exact next_of (leaves_of rfl)
  · exact next_of (leaves_refl s)

theorem leaves_exit : Next (execExit s) (LeavesMonitor s) := by
  unfold execExit
  split
  · exact next_of (leaves_of rfl)
  · exact next_of (leaves_of rfl)

theorem leaves_yield : Next (execYield s) (LeavesMonitor s) := next_ite (fun _ => next_of (leaves_of rfl)) (fun _ => next_of (leaves_refl s))

theorem leaves_go (a : Fin 16) : Next (execGo a s) (LeavesMonitor s) :=
  next_ite (fun _ => next_of (leaves_raise (leaves_refl s) _ _ _)) (fun _ => next_ite (fun _ => next_of (leaves_refl s)) (fun _ => next_of (leaves_of rfl)))

theorem leaves_step : Next (execStep s) (LeavesMonitor s) :=
  next_ite (fun _ => next_of (leaves_raise (leaves_refl s) _ _ _)) (fun _ => next_of (leaves_of rfl))

/-! ### The units (R142, R223 to R225, R244, R250, R386) -/

theorem leaves_sfuIssue (f : Nat) (d a : Fin 16) (u : BitVec 8) : Next (s.sfuIssue f d a u) (LeavesMonitor s) :=
  sfuIssue_cases (leaves_rewind (leaves_refl s) _) (leaves_rewind (leaves_refl s) _) (fun _ _ _ _ _ _ _ => leaves_of rfl)

theorem leaves_mgrp (e a : Fin 16) : Next (execMgrp e a s) (LeavesMonitor s) := by
  unfold execMgrp
  split
  · exact next_ite (fun _ => next_of (leaves_raise (leaves_refl s) _ _ _))
      (fun _ => next_ite (fun _ => next_of (leaves_raise (leaves_refl s) _ _ _)) (fun _ => next_of (leaves_of rfl)))
  · exact next_of (leaves_raise (leaves_refl s) _ _ _)

theorem leaves_matForm (form : Nat) (d b a : Fin 16) : Next (s.matForm form d b a) (LeavesMonitor s) :=
  matForm_cases (leaves_raise (leaves_refl s)) (leaves_rewind (leaves_refl s)) (fun _ _ _ _ _ _ => leaves_of rfl)

theorem leaves_mstat (d b : Fin 16) : Next (execMstat d b s) (LeavesMonitor s) := by
  unfold execMstat
  exact withEg_cases (leaves_raise (leaves_refl s) _ _ _) (fun _ => leaves_limited (leaves_refl s) (leaves_of rfl))

theorem leaves_mfence (b : Fin 16) : Next (execMfence b s) (LeavesMonitor s) := by
  unfold execMfence
  exact withEg_cases (leaves_raise (leaves_refl s) _ _ _) (fun _ => next_of (leaves_of rfl))

theorem leaves_copyForm (k : Nat) (a : Fin 16) : Next (s.copyForm k a) (LeavesMonitor s) :=
  copyForm_cases (leaves_raise (leaves_refl s)) (leaves_rewind (leaves_refl s)) (fun _ _ _ => leaves_of rfl)

theorem leaves_chset (b a : Fin 16) : Next (execChset b a s) (LeavesMonitor s) := by
  refine withChannel_cases (leaves_raise (leaves_refl s) _ _ _) (next_ite (fun _ => next_of (leaves_raise (leaves_refl s) _ _ _)) (fun _ => ?_))
  split
  · exact next_of (leaves_raise (leaves_refl s) _ _ _)
  · exact leaves_withChan (leaves_refl s) (next_ite (fun _ => next_of (leaves_raise (leaves_refl s) _ _ _)) (fun _ => next_of (leaves_of rfl)))

theorem leaves_chq (d b : Fin 16) : Next (execChq d b s) (LeavesMonitor s) :=
  withChannel_cases (leaves_raise (leaves_refl s) _ _ _) (next_of (leaves_of rfl))

theorem leaves_publish (a : Fin 16) : Next (execPublish a s) (LeavesMonitor s) :=
  next_ite (fun _ => next_of (leaves_of rfl)) (fun _ => next_of (leaves_raise (leaves_refl s) _ _ _))

theorem leaves_winst (d a : Fin 16) : Next (execWinst d a s) (LeavesMonitor s) := by
  unfold execWinst
  exact withDesc_cases (leaves_raise (leaves_refl s)) (fun _ => leaves_rewind (leaves_refl s) _) (leaves_rewind (leaves_refl s) _) fun _ =>
    next_ite (fun _ => next_of (leaves_raise (leaves_refl s) _ _ _)) fun _ =>
    next_ite (fun _ => next_of (leaves_raise (leaves_refl s) _ _ _)) fun _ =>
    next_ite (fun _ => next_of (leaves_raise (leaves_refl s) _ _ _)) fun _ =>
    leaves_limited (leaves_refl s) (leaves_of rfl)

theorem leaves_wstat (d a : Fin 16) : Next (execWstat d a s) (LeavesMonitor s) :=
  leaves_limited (leaves_refl s) (leaves_of rfl)

/-! ### The special registers (R93, R113 to R115) -/

theorem leaves_rsr (d : Fin 16) (n : BitVec 12) : Next (execRsr d n s) (LeavesMonitor s) :=
  next_ite (fun _ => next_of (leaves_of rfl)) (fun _ => next_ite (fun _ => next_of (leaves_of rfl)) (fun _ => next_of (leaves_raise (leaves_refl s) _ _ _)))

/-- Below the monitor level a write reaches the thread's own registers, or faults (R115). -/
theorem leaves_wsr (hp : s.me.pl.o ≠ 0) (a : Fin 16) (n : BitVec 12) : Next (execWsr a n s) (LeavesMonitor s) := by
  have hl : (!s.monitorLevel) = true := by simp [State.monitorLevel, hp]
  refine next_ite (fun _ => next_of (leaves_of rfl)) (fun _ => ?_)
  rw [if_pos hl]
  exact next_of (leaves_raise (leaves_refl s) _ _ _)

end

section
variable {s : State}

/-! ### O60 -/

/-- Every form that is no monitor form answers a next state and leaves the monitor's state as it was; WSR does so below the monitor level (R93, R115, R350). -/
theorem leaves_userForm (i : Instr) (hw : i.hasWord = true) (hm : instrIsMonitor i = false) (hs : ∀ a n, i = .wsr a n → s.me.pl.o ≠ 0) :
    Next (exec i s) (LeavesMonitor s) := by
  cases i with
  | ldB | ldH | ldW | ldD | ldnB | ldnH | ldnW | vld | vldBc => exact leaves_loadForm _ _ _ _ _
  | vldk => exact leaves_vldkForm _ _ _
  | ldt | vldt => exact leaves_timedLoad _ _ _ _ _
  | stB | stH | stW | stD | vst => exact leaves_storeForm _ _
  | pref a => exact leaves_pref a
  | prefR a => exact leaves_prefR a
  | areg n => exact leaves_areg n
  | lrw d a => exact leaves_lrw d a
  | ldfe | ldff => exact leaves_syncLoad _ _ _
  | stfe | stf | feClr => exact leaves_syncStore _ _ _ _
  | scq | rsvRel => exact leaves_resvEnd _ _ _
  | amoD | amoW => exact leaves_amoForm _ _ _ _ _
  | redD | redW | redFaddF32 => exact leaves_redForm _ _ _
  | barInit a b => exact leaves_barForm (s.rS a) false true false fun k => .barInit k (bits (s.rS b).toNat 15 0)
  | barArrive a | barWait a | barSync a => exact leaves_barForm (s.rS a) _ _ _ _
  | qpush a b => exact leaves_qpush a b
  | qpop d a => exact leaves_qpop d a
  | qpeek d a => exact leaves_qpeek d a
  | qredI32 | qredI64 | qredF32 => exact leaves_qredTurn _ _ _ _
  | mrecv d => exact leaves_mrecv d
  | spawn d a => exact leaves_spawn d a
  | br o => exact leaves_br o
  | dbnz d o => exact leaves_dbnz d o
  | jmp | ret => exact leaves_jumpTo _
  | send => exact leaves_streamOnly
  | sloop d o => exact leaves_sloop d o
  | exit => exact leaves_exit
  | yield => exact leaves_yield
  | step => exact leaves_step
  | go a => exact leaves_go a
  | trap | brk => exact next_of (leaves_raise (leaves_refl s) _ _ _)
  | fexp2 | flog2 | frcp | frsqrt | fsqrt | fsinp | fcosp | ftanh | fsigm => exact leaves_sfuIssue _ _ _ _
  | mgrp d a => exact leaves_mgrp d a
  | mclr | mmaG8 | mmaI8 | mmaBf16 | mmaG8bf | mrd | mrdq => exact leaves_matForm _ _ _ _
  | mstat d b => exact leaves_mstat d b
  | mfence b => exact leaves_mfence b
  | cp1d | cp2d | cp3d | cpGather | cpScatter | cpFill => exact leaves_copyForm _ _
  | chset a b => exact leaves_chset b a
  | chq d b => exact leaves_chq d b
  | publish a => exact leaves_publish a
  | winst d a => exact leaves_winst d a
  | wstat d a => exact leaves_wstat d a
  | rsr d n => exact leaves_rsr d n
  | wsr a n => exact leaves_wsr (hs a n rfl) a n
  | call | rte | fenceK | fenceS | fenceO | fenceY | msg | hint | nop | add | sub | mul | mulh | mulhn | div | divn | rem | remn | and | or | xor | andn
  | orn | shl | shr | sar | rotl | min | max | minn | maxn | clz | ctz | popc | mov | cmpEq | cmpNe | cmpLt | cmpLe | cmpLtn | cmpLen | pset | pand | por
  | pnot | addi | andi | ori | xori | shli | shri | sari | roti | bfx | bfxn | bfi | li | lis | sel | vsel | vfma | vfms | vdotG8 | vdotBf16 | vdotI8
  | cmpiEq | cmpiNe | cmpiLt | cmpiLe | cmpiLtn | cmpiLen | vadd | vsub | vmul | vneg | vabs | vmin | vmax | vand | vor | vxor | vandn | vshl | vshr | vsar
  | vcmpEq | vcmpLt | vcmpLe | vsum | vbcast | vext | vins | vperm | vround | vscale | vexpo | vrcpa | vrsqrta | vsat | vpack | vunpack | vshli | vcvt => exact next_of (leaves_of rfl)
  | tlbinv | keyld | keyzap | scrub | evpost | rotctlSuspend | rotctlResume | rotctlExtraRotation | rotctlExtraSwitch | slotctlPlace | slotctlRemove
  | slotctlSpill | waypart | frzFreezeOwner | frzReleaseOwner | frzFreezeFunction | frzReleaseFunction | frzEndTask => exact absurd hm.symm Bool.false_ne_true
  | _ => exact absurd hw Bool.false_ne_true

end

/-- Settles O60: below the monitor level no form reaches the monitor's state, form by form. -/
theorem userCodeLeavesMonitorState : Obligations.UserCodeLeavesMonitorState := by
  unfold Obligations.UserCodeLeavesMonitorState
  intro i s t hp hw hm ht
  obtain ⟨t', e, h⟩ := leaves_userForm i hw hm (fun _ _ _ => hp)
  rw [e] at ht
  cases ht
  exact h

end Sys2Proof.Laws

/-! SUPPORT. Answers: every row of the table of meanings answers a next state, and O58. -/

namespace Sys2Proof.Laws

open Sys2Proof.Machine Sys2Proof.Safety

section
variable {s : State}

/-! ### O58 (R345, R347) -/

/-- The answer is a next state: no fault of the machine and no refusal. -/
def Answers (r : Res) : Prop := ∃ t, r = .next t

theorem answers_next (t : State) : Answers (.next t) := ⟨t, rfl⟩

theorem answers_of_next {r : Res} {P : State → Prop} (h : Next r P) : Answers r := let ⟨t, e, _⟩ := h; ⟨t, e⟩

theorem answers_withReq {id : Nat} {f : Req → Res} (h : ∀ r, Answers (f r)) : Answers (s.withReq id f) :=
  answers_of_next (P := fun _ => True) (withReq_cases trivial fun r _ _ => let ⟨t, e⟩ := h r; ⟨t, e, trivial⟩)

/-- Every selector of rotctl has a row (R317). -/
theorem answers_rotctl (a : Fin 16) : Answers (s.rotctl a) := by
  unfold State.rotctl; (repeat' split) <;> exact answers_next _

/-- Every selector of slotctl has a row (R332). -/
theorem answers_slotctl (a b : Fin 16) : Answers (s.slotctl a b) := by
  unfold State.slotctl; dsimp only; (repeat' split) <;> exact answers_next _

/-- Every operation of frz has a row (R352). -/
theorem answers_frz (a : Fin 16) : Answers (s.frz a) := by
  unfold State.frz; dsimp only; (repeat' split) <;> exact answers_next _

/-- A write of a special register does its own work, or is a fault of the thread (R93, R115). -/
theorem answers_wsr (a : Fin 16) (n : BitVec 12) : Answers (execWsr a n s) := by
  unfold execWsr; dsimp only; (repeat' split) <;> exact answers_next _

/-- A command of an installation or a request for its status (R386, R389). -/
theorem answers_installRequestArrive (id : Nat) : Answers (execInstallRequestArrive id s) := by
  unfold execInstallRequestArrive
  split
  · split <;> exact answers_next _
  · exact answers_withReq fun r => by split <;> exact answers_next _

/-- A request on a sync word (R183 to R187). -/
theorem answers_syncOpArrive (id : Nat) : Answers (execSyncOpArrive id s) := by
  refine answers_withReq fun r => ?_
  cases r.kind <;> exact answers_next _

/-- A monitor form or an event: the meaning is a tree of conditions and matches, and each leaf is a next state. -/
theorem answers_row (i : Instr) (h : (!i.hasWord || instrIsMonitor i) = true) : Answers (exec i s) := by
  cases i with
  | evpost | beatBoundary | capentWrite | coreLogicFailure | eventAccept | hostMemoryWrite | hostPost | hotReset | instructionFetchFault |
  ixnarInboundRequest | layerLost | linkDown | linkUp | pfFlr | powerLoss | pullRefusal | pullReply | pullRequestServe | registerWrite | rrangeWrite |
  stepReadyToken | stepResume => exact answers_next _
  | syncOpArrive id => exact answers_syncOpArrive id
  | installRequestArrive id => exact answers_installRequestArrive id
  | rotctlSuspend a | rotctlResume a | rotctlExtraRotation a | rotctlExtraSwitch a => exact answers_rotctl a
  | slotctlPlace a b | slotctlRemove a b | slotctlSpill a b => exact answers_slotctl a b
  | frzFreezeOwner a | frzReleaseOwner a | frzFreezeFunction a | frzReleaseFunction a | frzEndTask a => exact answers_frz a
  | amoPerform | atomicRegionPerform | barrierOpArrive | messageArrive | queuePushArrive | reductionPerform | remoteLoadServe | storePerform =>
    refine answers_withReq fun r => ?_
    (repeat' split) <;> exact answers_next _
  | unassignedWord | longResultLand | fenceComplete =>
    dsimp only [exec, execUnassignedWord, execLongResultLand, execFenceComplete]
    (repeat' split) <;> exact answers_next _
  | recordArrive | launchStart | taskDispatch | sfuAccept | sfuResultLand | migrationDepart | packetArrive | exitComplete | rowRestore =>
    dsimp only [exec, execRecordArrive, execLaunchStart, execTaskDispatch, execSfuAccept, execSfuResultLand, execMigrationDepart, execPacketArrive,
      execExitComplete, execRowRestore]
    (repeat' split) <;> exact answers_next _
  | pairExchange | copyCommandBegin | copyUnitTurn | copyCommandComplete =>
    dsimp only [exec, execPairExchange, execCopyCommandBegin, execCopyUnitTurn, execCopyCommandComplete]
    (repeat' split) <;> exact answers_next _
  | engineCommandArrive | engineCommandStart | engineCommandComplete | mfenceComplete =>
    dsimp only [exec, execEngineCommandArrive, execEngineCommandStart, execEngineCommandComplete, execMfenceComplete]
    (repeat' split) <;> exact answers_next _
  | ownerEnable | waypart | waypartComplete | streamStart | streamBeatBegin | streamEnd =>
    dsimp only [exec, execOwnerEnable, execWaypart, execWaypartComplete, execStreamStart, execStreamBeatBegin, execStreamEnd]
    (repeat' split) <;> exact answers_next _
  | tlbWalkEnd | tlbinv | tlbinvAck | keyld | keyzap =>
    dsimp only [exec, execTlbWalkEnd, execTlbinv, execTlbinvAck, execKeyld, execKeyzap]
    (repeat' split) <;> exact answers_next _
  | installPageProgrammed | installEnd =>
    dsimp only [exec, execInstallPageProgrammed, execInstallEnd]
    (repeat' split) <;> exact answers_next _
  | patrolScrubRead | rebuildSector | laneFailure | refreshRateChange | thermalEvent | thermalTrip =>
    dsimp only [exec, execPatrolScrubRead, execRebuildSector, execLaneFailure, execRefreshRateChange, execThermalEvent, execThermalTrip]
    (repeat' split) <;> exact answers_next _
  | localStop | slateWriteImage | slateRestore | slateCommandEnd =>
    dsimp only [exec, execLocalStop, execSlateWriteImage, execSlateRestore, execSlateCommandEnd]
    (repeat' split) <;> exact answers_next _
  | freezeStart | scrub | teardownTiles | teardownSlices | teardownDram | teardownAreas | teardownKeys | meteringInterval | meteringRecordWrite |
  powerOnReset | mgmtReset | obsidianBoot | recoveryBegin | recoveryAppend | recoveryCommit | recoveryWriteDone | recoveryAbort | recoveryReset |
  recoveryBufferWrite | mgmtFreeze | mgmtRelease | mgmtReadreg | mgmtReadmem =>
    dsimp only [exec, execFreezeStart, execScrub, execTeardownTiles, execTeardownSlices, execTeardownDram, execTeardownAreas, execTeardownKeys,
      execMeteringInterval, execMeteringRecordWrite, execPowerOnReset, execMgmtReset, execObsidianBoot, execRecoveryBegin, execRecoveryAppend,
      execRecoveryCommit, execRecoveryWriteDone, execRecoveryAbort, execRecoveryReset, execRecoveryBufferWrite, execMgmtFreeze, execMgmtRelease,
      execMgmtReadreg, execMgmtReadmem]
    (repeat' split) <;> exact answers_next _
  | rotationDue | switchDue | engineStepStop | routerFlush | memoryDrainEnd | rotationMove | moveEnd | slotMapSwitch | issueResume =>
    dsimp only [exec, execRotationDue, execSwitchDue, execEngineStepStop, execRouterFlush, execMemoryDrainEnd, execRotationMove, execMoveEnd,
      execSlotMapSwitch, execIssueResume]
    (repeat' split) <;> exact answers_next _
  | hostMemoryRead | vfFlr | spdmRequest | configurationWrite | msixVectorUnmask | pullTimeout | ixnarLinkStateChange =>
    dsimp only [exec, execHostMemoryRead, execVfFlr, execSpdmRequest, execConfigurationWrite, execMsixVectorUnmask, execPullTimeout,
      execIxnarLinkStateChange]
    (repeat' split) <;> exact answers_next _
  | _ => exact absurd h Bool.false_ne_true

end

/-- Settles O58: the forms of a thread by what they leave of the monitor's state, the other rows by their meanings' branches. -/
theorem everyMeaningAnswersNext : Obligations.EveryMeaningAnswersNext := by
  unfold Obligations.EveryMeaningAnswersNext
  intro i s
  by_cases h : (!i.hasWord || instrIsMonitor i) = true
  · exact answers_row i h
  obtain ⟨hw, hm⟩ : i.hasWord = true ∧ instrIsMonitor i = false := by simpa using h
  by_cases hs : ∃ a n, i = .wsr a n
  · obtain ⟨a, n, rfl⟩ := hs
    exact answers_wsr a n
  · exact answers_of_next (leaves_userForm i hw hm fun a n e => absurd ⟨a, n, e⟩ hs)

end Sys2Proof.Laws

/-! SUPPORT. Controls: the rows of rotctl, slotctl and frz, the end of a task from the monitor, failed pulls, and O26. -/

namespace Sys2Proof.Laws

open Sys2Proof.Machine Sys2Proof.Safety

section
variable {s : State} {a b : Fin 16}

/-! ### The selectors (R317, R332, R352) -/

/-- The selector of a row stands in s[a][3:0]. -/
theorem selector_eq (s : State) (a : Fin 16) : bits (s.rS a).toNat 3 0 = s.iss.src.s[a].toNat % 16 := by
  show _ / 2 ^ 0 % 16 = _
  rw [pow_zero, Nat.div_one]
  rfl

theorem rotctl_suspend (h : s.iss.src.s[a].toNat % 16 = 0) :
    s.rotctl a = .next { s with regs := { s.regs with rotiv := s.regs.rotiv ||| 0x8000000000000000 } } := by
  unfold State.rotctl; rw [selector_eq, h]; rfl

theorem rotctl_resume (h : s.iss.src.s[a].toNat % 16 = 1) :
    s.rotctl a = .next { s with regs := { s.regs with rotiv := s.regs.rotiv &&& 0x7FFFFFFFFFFFFFFF } } := by
  unfold State.rotctl; rw [selector_eq, h]; rfl

theorem rotctl_extraRotation (h : s.iss.src.s[a].toNat % 16 = 2) : s.rotctl a = .next { s with rot := { s.rot with extraRot := true } } := by
  unfold State.rotctl; rw [selector_eq, h]; rfl

theorem rotctl_extraSwitch (h : s.iss.src.s[a].toNat % 16 = 3) : s.rotctl a = .next { s with rot := { s.rot with extraSw := true } } := by
  unfold State.rotctl; rw [selector_eq, h]; rfl

/-! ### Tenancies (R332) -/

/-- The tenancy that slotctl's second operand names (R332). -/
def tenancyNamed (v : Nat) : Tenancy := { idx := v % 64, k := v / 2 ^ 16 % 4, o := v / 2 ^ 6 % 16, l := v / 2 ^ 10 % 64 }

theorem position_eq (v : Nat) : bits v 5 0 = v % 64 := by
  show v / 2 ^ 0 % 64 = _
  rw [pow_zero, Nat.div_one]

/-- A place for an owner that is there, on a position that is there and free, is kept until the next switch. -/
theorem slotctl_place (h : s.iss.src.s[a].toNat % 16 = 0) {ten : Tenancy} (ht : ten = tenancyNamed s.iss.src.s[b].toNat) (hi : ten.idx < s.nlive)
    (he : s.enabled ten.o = true) (hl : ten.l < s.nslot ten.o)
    (hf : ∀ t ∈ s.placedSoon, ¬(t.idx = ten.idx ∧ t.k = ten.k) ∧ ¬(t.o = ten.o ∧ t.l = ten.l)) :
    s.slotctl a b = .next { s with rot := { s.rot with changes := s.rot.changes ++ [.place ten] } } := by
  have hfree : s.placedSoon.any (fun t => (t.idx == ten.idx && t.k == ten.k) || (t.o == ten.o && t.l == ten.l)) = false := by
    simpa [List.any_eq_false] using hf
  have hnot : ¬((decide (s.nlive ≤ ten.idx) || s.placedSoon.any (fun t => (t.idx == ten.idx && t.k == ten.k) || (t.o == ten.o && t.l == ten.l)) ||
      !s.enabled ten.o || decide (s.nslot ten.o ≤ ten.l)) = true) := by
    simp [hfree, he, Nat.not_le.mpr hi, Nat.not_le.mpr hl]
  subst ht
  unfold State.slotctl
  dsimp only
  rw [selector_eq, h, position_eq]
  exact if_neg hnot

/-- A position that holds no tenancy of an enabled owner is emptied at the next switch. -/
theorem slotctl_remove (h : s.iss.src.s[a].toNat % 16 = 1) {ten : Tenancy} (ht : ten = tenancyNamed s.iss.src.s[b].toNat)
    (hf : ∀ t ∈ s.rot.tens, t.idx = ten.idx → t.k = ten.k → s.enabled t.o = false) :
    s.slotctl a b = .next { s with rot := { s.rot with changes := s.rot.changes ++ [.remove ten.idx ten.k] } } := by
  have hnot : ¬(s.rot.tens.any (fun t => t.idx == ten.idx && t.k == ten.k && s.enabled t.o) = true) := by
    simpa [List.any_eq_true] using hf
  subst ht
  unfold State.slotctl
  dsimp only
  rw [selector_eq, h, position_eq]
  exact if_neg hnot

theorem slotctl_spill (h : s.iss.src.s[a].toNat % 16 = 2) :
    s.slotctl a b = .next (s.spillEngine (s.iss.src.s[b].toNat % 64) (s.iss.src.s[b].toNat / 2 ^ 6 % 16) (s.iss.src.s[b].toNat / 2 ^ 10 % 16)) := by
  unfold State.slotctl
  dsimp only
  rw [selector_eq, h, position_eq]
  rfl

/-! ### The spill of an engine (R329, R332) -/

section
variable {idx x o : Nat}

/-- The engine that stands at its place after a spill: the owner's spilled one, its own, or a fresh one. -/
def spillIn (s : State) (idx x o : Nat) : Engine :=
  match s.rot.spilled.find? (fun p => p.1 == o && p.2.1 == idx * 16 + x) with
  | some p => { p.2.2 with idx := idx, x := x, tag := some o }
  | none => if (s.engineAt idx x).tag = some o then s.engineAt idx x else { idx := idx, x := x, tag := some o }

/-- The state from which a spill sets the engine: another owner's engine goes to its save area. -/
def spillFrom (s : State) (idx x o : Nat) : State :=
  match (s.engineAt idx x).tag with
  | some t => if t = o then s else s.saveOut t 512
  | none => s

/-- The spilled engines after a spill. -/
def spillKept (s : State) (idx x o : Nat) : List (Nat × Nat × Engine) :=
  let keep := s.rot.spilled.filter (fun p => !(p.1 == o && p.2.1 == idx * 16 + x))
  match (s.engineAt idx x).tag with
  | some t => if t = o then keep else keep.filter (fun p => !(p.1 == t && p.2.1 == idx * 16 + x)) ++ [(t, idx * 16 + x, s.engineAt idx x)]
  | none => keep

theorem spillFrom_me : (spillFrom s idx x o).me = s.me := by unfold spillFrom; (repeat' split) <;> rfl
theorem spillFrom_threads : (spillFrom s idx x o).threads = s.threads := by unfold spillFrom; (repeat' split) <;> rfl

theorem spillEngine_me : (s.spillEngine idx x o).me = s.me := by
  refine Eq.trans ?_ (spillFrom_me (idx := idx) (x := x) (o := o))
  unfold State.spillEngine spillFrom
  dsimp only [State.setEngine, State.modRot, State.charge_me] <;> rfl

theorem spillEngine_threads : (s.spillEngine idx x o).threads = s.threads := by
  refine Eq.trans ?_ (spillFrom_threads (idx := idx) (x := x) (o := o))
  unfold State.spillEngine spillFrom
  dsimp only [State.setEngine, State.modRot, State.charge_threads] <;> rfl

theorem spillEngine_mem : (s.spillEngine idx x o).mem = (spillFrom s idx x o).mem := by
  unfold State.spillEngine spillFrom
  dsimp only [State.setEngine, State.modRot, State.charge_mem] <;> rfl

theorem spillEngine_spilled : (s.spillEngine idx x o).rot.spilled = spillKept s idx x o := by
  unfold State.spillEngine spillKept
  dsimp only [State.modRot] <;> rfl

theorem spillEngine_engines : (s.spillEngine idx x o).engines = ((spillFrom s idx x o).setEngine (spillIn s idx x o)).engines := by
  unfold State.spillEngine spillFrom spillIn
  dsimp only [State.setEngine, State.modRot, State.charge_engines] <;> rfl

theorem engineAt_setEngine {e : Engine} (hi : e.idx = idx) (hx : e.x = x) : (s.setEngine e).engineAt idx x = e := by
  subst hi hx
  have hcomp : ((fun f : Engine => f.idx == e.idx && f.x == e.x) ∘ fun f => if f.idx == e.idx && f.x == e.x then e else f) =
      fun f => f.idx == e.idx && f.x == e.x := by
    funext f
    simp only [Function.comp]
    split
    · simp [*]
    · rfl
  unfold State.engineAt State.setEngine
  dsimp only
  split
  · rename_i h
    obtain ⟨f, hf⟩ := Option.isSome_iff_exists.mp (List.find?_isSome.mpr (List.any_eq_true.mp h))
    rw [List.find?_map, hcomp, hf, Option.map_some, if_pos (List.find?_some hf)]
    rfl
  · rename_i h
    rw [List.find?_append, List.find?_eq_none.mpr fun f hf hp => h (List.any_eq_true.mpr ⟨f, hf, hp⟩)]
    simp

theorem engineAt_place : (s.engineAt idx x).idx = idx ∧ (s.engineAt idx x).x = x := by
  unfold State.engineAt
  cases h : s.engines.find? (fun e => e.idx == idx && e.x == x) with
  | none => exact ⟨rfl, rfl⟩
  | some e => simpa using List.find?_some h

theorem spillIn_place : (spillIn s idx x o).idx = idx ∧ (spillIn s idx x o).x = x := by
  unfold spillIn
  split
  · exact ⟨rfl, rfl⟩
  · split
    · exact engineAt_place
    · exact ⟨rfl, rfl⟩

theorem spillIn_tag : (spillIn s idx x o).tag = some o := by
  unfold spillIn
  split
  · rfl
  · split
    · assumption
    · rfl

theorem engineAt_spillEngine : (s.spillEngine idx x o).engineAt idx x = spillIn s idx x o := by
  obtain ⟨hi, hx⟩ := spillIn_place (s := s) (idx := idx) (x := x) (o := o)
  have h := engineAt_setEngine (s := spillFrom s idx x o) hi hx
  unfold State.engineAt at h ⊢
  rw [spillEngine_engines]
  exact h

theorem outsideSave_of_mem {u t : State} {k : Nat} (h : OutsideSave s u k) (hm : t.mem = u.mem) : OutsideSave s t k := by
  unfold OutsideSave SameBytes at *
  rw [hm]
  exact h

/-- Only another owner's engine costs bytes, and only its save area's (R329). -/
theorem spillEngine_bytes : match (s.engineAt idx x).tag with
    | some k => if k = o then SameBytes s (s.spillEngine idx x o) else OutsideSave s (s.spillEngine idx x o) k
    | none => SameBytes s (s.spillEngine idx x o) := by
  have hm := spillEngine_mem (s := s) (idx := idx) (x := x) (o := o)
  cases htag : (s.engineAt idx x).tag with
  | none =>
    have hs : spillFrom s idx x o = s := by unfold spillFrom; rw [htag]
    rw [hs] at hm
    exact fun k => by rw [hm]
  | some k =>
    have hs : spillFrom s idx x o = if k = o then s else s.saveOut k 512 := by unfold spillFrom; rw [htag]
    dsimp only
    split
    · rw [hs, if_pos ‹_›] at hm
      exact fun k => by rw [hm]
    · rw [hs, if_neg ‹_›] at hm
      exact outsideSave_of_mem (saveOut_outside s k 512) hm

/-- Where nothing is spilled before, another owner's engine is, and a fresh one stands in its place. -/
theorem spillIn_fresh (ht : (s.engineAt idx x).tag ≠ some o) (hs : s.rot.spilled = []) : spillIn s idx x o = { idx := idx, x := x, tag := some o } := by
  unfold spillIn
  rw [hs]
  exact if_neg ht

theorem spillKept_other {k : Nat} (hk : (s.engineAt idx x).tag = some k) (ht : (s.engineAt idx x).tag ≠ some o) (hs : s.rot.spilled = []) :
    spillKept s idx x o = [(k, idx * 16 + x, s.engineAt idx x)] := by
  have hne : ¬k = o := fun h => ht (h ▸ hk)
  unfold spillKept
  rw [hs, hk]
  exact if_neg hne

end

/-! ### Freezes (R352) -/

section
variable {own fn : Nat}

/-- FRZ with a defined operation, of an owner other than 0 where it freezes or releases one. -/
theorem frz_eq {op : Nat} (h : s.iss.src.s[a].toNat % 16 = op) (hop : op ≤ 4) (ho : own = s.iss.src.s[a].toNat / 2 ^ 8 % 16) (h0 : op ≤ 1 → own ≠ 0) :
    s.frz a = match op with
      | 0 => if (s.owner own).frozen then .next (s.freezeOwner own) else .next ((s.freezeOwner own).parkAfter (.frz own))
      | 1 => .next (s.releaseOwner own)
      | 2 => .next (if s.fnOf (s.iss.src.s[a].toNat / 2 ^ 16 % 2 ^ 10) own then s.freezeFn (s.iss.src.s[a].toNat / 2 ^ 16 % 2 ^ 10) 0x80 else s)
      | 3 => .next (if s.fnOf (s.iss.src.s[a].toNat / 2 ^ 16 % 2 ^ 10) own
          then s.modFn (s.iss.src.s[a].toNat / 2 ^ 16 % 2 ^ 10) (fun f => { f with frozen := false }) else s)
      | _ => .next (s.endTask own (BitVec.ofNat 32 (s.iss.src.s[a].toNat / 2 ^ 32 % 2 ^ 32))) := by
  have hbad : ¬((decide (4 < op) || (own == 0 && decide (op ≤ 1))) = true) := by
    simp only [Bool.or_eq_true, decide_eq_true_eq, Bool.and_eq_true, beq_iff_eq, not_or, Nat.not_lt]
    exact ⟨hop, fun ⟨z, l⟩ => h0 l z⟩
  subst ho
  unfold State.frz
  dsimp only
  rw [selector_eq, h]
  exact if_neg hbad

/-- A function that is there is found again as it was changed, where the change keeps its number. -/
theorem fn?_modFn {k : Nat} {f : Fn} {g : Fn → Fn} (hf : s.fn? k = some f) (hg : ∀ f, (g f).k = f.k) : (s.modFn k g).fn? k = some (g f) := by
  have hk : (f.k == k) = true := List.find?_some (p := fun f : Fn => f.k == k) hf
  have hany : s.host.fns.any (fun f => f.k == k) = true := List.any_eq_true.mpr ⟨f, List.mem_of_find?_eq_some hf, hk⟩
  have hcomp : ((fun f : Fn => f.k == k) ∘ fun f => if f.k == k then g f else f) = fun f => f.k == k := by
    funext f
    simp only [Function.comp]
    split
    · rw [hg]
    · rfl
  show (if s.host.fns.any (fun f => f.k == k) then s.host.fns.map (fun f => if f.k == k then g f else f) else s.host.fns ++ [g { k := k }]).find?
    (fun f => f.k == k) = _
  rw [if_pos hany, List.find?_map, hcomp]
  show (s.fn? k).map _ = _
  rw [hf]
  exact congrArg some (if_pos hk)

theorem fnOf_fn? (h : s.fnOf fn own = true) : ∃ f, s.fn? fn = some f := by
  unfold State.fnOf at h
  split at h
  · exact ⟨_, ‹_›⟩
  · exact absurd h Bool.false_ne_true

theorem freezeOwner_running (hf : (s.owner own).frozen = false) (hn : (s.owner own).freezing = none) :
    s.freezeOwner own = s.setOwner own { s.owner own with freezing := some 0x80, causes := (s.owner own).causes ++ [0x80] } := by
  simp [State.freezeOwner, State.askFreeze, hf, hn, State.modOwner]

theorem releaseOwner_frozen (hf : (s.owner own).frozen = true) (hs : (s.owner own).inScrub = false) :
    s.releaseOwner own = s.setOwner own { s.owner own with releasing := true } := by
  simp [State.releaseOwner, hf, hs, State.modOwner]

end

end

/-! ### The end of the only task (R110, R185, R352) -/

section
variable {s : State} {x y : Thread} {u : Nat}

/-- Nothing of the owner's other work is under way: no request, no stream, no packet, no placing and no launch. -/
def Idle (s : State) : Prop := s.net = [] ∧ s.graph.streams = [] ∧ s.graph.packets = [] ∧ s.graph.placing = [] ∧ s.graph.launches = []

/-- The memory without the reservations of a thread. -/
def unreserved (s : State) (u : Nat) : Mem := { s.mem with resv := s.mem.resv.filter (fun p => p.2 != u) }

theorem sameBytes_unreserved {t : State} (h : t.mem = unreserved s u) : SameBytes s t := fun a => by rw [h]; rfl

theorem not_mem_unreserved {t : State} (h : t.mem = unreserved s u) (k : Nat) : (k, u) ∉ t.mem.resv := by
  rw [h]
  intro hm
  simpa using (List.mem_filter.mp hm).2

/-- Where nothing waits at a sync word, releasing reservations wakes nobody (R185). -/
theorem foldl_freeResv (hn : s.net = []) (ks : List Nat) :
    ks.foldl (fun (s : State) k => (s.freeResv k u).waiterScan k s.net.length) s =
      { s with mem := { s.mem with resv := s.mem.resv.filter (fun p => !ks.contains p.1 || p.2 != u) } } := by
  induction ks generalizing s with
  | nil => simp
  | cons k ks ih =>
    have hscan : (s.freeResv k u).waiterScan k s.net.length = s.freeResv k u := by rw [hn]; rfl
    rw [List.foldl_cons, hscan, ih (s := s.freeResv k u) hn]
    show ({ s with mem := { s.mem with resv := (s.mem.resv.filter (fun p => p.1 != k || p.2 != u)).filter (fun p => !ks.contains p.1 || p.2 != u) } } : State) = _
    rw [List.filter_filter]
    refine congrArg (fun rs => ({ s with mem := { s.mem with resv := rs } } : State)) (List.filter_congr fun p _ => ?_)
    have hne : (p.1 != k) = !(p.1 == k) := rfl
    rw [List.contains_cons, hne]
    generalize (p.1 == k) = a, ks.contains p.1 = b, (p.2 != u) = c
    revert a b c
    decide

theorem freeResvOf_unwaited (hn : s.net = []) : s.freeResvOf u = { s with mem := unreserved s u } := by
  unfold State.freeResvOf unreserved
  rw [foldl_freeResv hn]
  refine congrArg (fun rs => ({ s with mem := { s.mem with resv := rs } } : State)) (List.filter_congr fun p hp => ?_)
  by_cases h : p.2 = u
  · have hk : p.1 ∈ (s.mem.resv.filter (fun x => x.2 == u)).map (·.1) := List.mem_map.mpr ⟨p, List.mem_filter.mpr ⟨hp, by simpa using h⟩, rfl⟩
    rw [List.contains_iff_mem.mpr hk]
    rfl
  · simp [h]

theorem modThread_alone (f : Thread → Thread) (ht : s.threads = [x]) (hu : s.me.uid ≠ x.uid) : s.modThread x.uid f = { s with threads := [f x] } := by
  have hme : (s.me.uid = x.uid && x.uid != 0) = false := by simp [hu]
  unfold State.modThread
  rw [ht, hme]
  simp

/-- Laying out the only thread keeps it, without reservations. -/
theorem layOut_alone (ht : s.threads = [y]) (hn : s.net = []) (hu : s.me.uid ≠ y.uid) : ∃ sf os,
    s.layOut y = { s with sfu := sf, mem := unreserved s y.uid, threads := [{ y with ops := os, resv := .none, region := none }] } := by
  refine ⟨s.sfu.filter (fun x => x.uid != y.uid), y.ops.filter (fun _ => false), ?_⟩
  have hd : s.dropWaits y.uid = { s with sfu := s.sfu.filter (fun x => x.uid != y.uid) } := by unfold State.dropWaits; rw [hn]; rfl
  unfold State.layOut
  rw [hd, freeResvOf_unwaited (by exact hn)]
  refine (modThread_alone (x := y) _ (by exact ht) (by exact hu)).trans ?_
  rw [hn]
  rfl

/-- No thread is left to come back to a row, and nothing else waits for one. -/
theorem offerRow_empty (hs : Idle s) (ht : s.threads = []) (p : Place) : s.offerRow p = s := by
  obtain ⟨-, hst, hpk, hpl, -⟩ := hs
  have hevicted : ∀ x, s.oldestEvicted x = none := fun x => by unfold State.oldestEvicted; rw [ht]; rfl
  have hspill : ∀ x, s.oldestSpill x = none := fun x => by unfold State.oldestSpill; rw [hpk]; rfl
  have hhead : ∀ x, s.headFor x = none := fun x => by unfold State.headFor State.heads; rw [hpl]; rfl
  have hnone : ∀ {α β : Type} (xs : List α), xs.findSome? (fun _ => (none : Option β)) = none := fun _ => List.findSome?_eq_none_iff.mpr (fun _ _ => rfl)
  unfold State.offerRow
  split
  · rfl
  · simp only [hevicted, hst, hspill, hhead, List.find?_nil, Option.map_none, hnone]

/-- A task of no launch leaves its inbox. -/
theorem taskEnd_idle (hl : s.graph.launches = []) (o : Nat) (tid : BitVec 32) (tk : Task) (f : Option FailRep) :
    s.taskEnd o tid tk f = { s with graph := { s.graph with inboxes := s.graph.inboxes.filter (fun b => !(b.o == o && b.tid == tid)), launches := [] } } := by
  have hdrop : ∀ n, (s.modGraph (fun g => { g with inboxes := g.inboxes.filter (fun b => !(b.o == o && b.tid == tid)) })).chargeDrop tk.launch n =
      { s with graph := { s.graph with inboxes := s.graph.inboxes.filter (fun b => !(b.o == o && b.tid == tid)), launches := [] } } := fun n => by
    unfold State.chargeDrop State.modGraph
    dsimp only
    rw [hl]
    rfl
  unfold State.taskEnd
  simp only [hdrop]
  rfl

/-- The state without threads, without the special-function requests of one, and without its reservations. -/
def vacated (s : State) (u : Nat) : State := { s with sfu := s.sfu.filter (fun x => x.uid != u), threads := [], mem := unreserved s u }

theorem idle_vacated (hs : Idle s) : Idle (vacated s u) := hs

theorem vacated_of_drops (hn : s.net = []) (ht : s.threads = [y]) (hu : s.me.uid ≠ y.uid) :
    ((s.dropWaits y.uid).dropThread y.uid).freeResvOf y.uid = vacated s y.uid := by
  have hs0 : (s.dropWaits y.uid).dropThread y.uid = { s with sfu := s.sfu.filter (fun x => x.uid != y.uid), threads := [] } := by
    unfold State.dropThread State.dropWaits
    rw [hn, ht]
    simp [hu]
  rw [hs0]
  exact freeResvOf_unwaited hn

/-- The end of the only thread: its row, its reservations and its inbox are gone, and nothing takes the row. -/
theorem endThread_alone (hs : Idle s) (ht : s.threads = [y]) (hu : s.me.uid ≠ y.uid) (f : Option FaultRec) :
    (s.endThread y f).me = s.me ∧ (s.endThread y f).mem = unreserved s y.uid ∧ (s.endThread y f).threads = [] ∧
      (s.endThread y f).graph.packets = [] ∧ (s.endThread y f).graph.placing = [] := by
  obtain ⟨hn, hst, hpk, hpl, hl⟩ := id hs
  have hrow : s.endThread y f = (vacated s y.uid).taskEnd y.pl.o y.tid y.task (f.map (State.threadFail y)) := by
    unfold State.endThread
    rw [vacated_of_drops hn ht hu]
    dsimp only
    rw [offerRow_empty (idle_vacated hs) rfl, ite_self]
  rw [hrow, taskEnd_idle (by exact hl)]
  exact ⟨rfl, rfl, rfl, hpk, hpl⟩

/-- A dead thread that owes nothing and is alone ends next. -/
theorem buryDone_alone {f : FaultRec} (ht : s.threads = [y]) (hn : s.net = []) (hd : y.park = .dead f) : s.buryDone 1 = s.endThread y (some f) := by
  have hdead : (State.isDead y && !s.net.any (fun r => r.uid == y.uid)) = true := by
    rw [hn]
    unfold State.isDead
    rw [hd]
    rfl
  unfold State.buryDone
  rw [ht, List.find?_cons_of_pos (by exact hdead)]
  dsimp only
  rw [hd]
  rfl

/-- A dead thread that is alone and owes nothing leaves at once. -/
theorem bury_alone {f : FaultRec} (hs : Idle s) (ht : s.threads = [y]) (hd : y.park = .dead f) (hu : s.me.uid ≠ y.uid) :
    (s.bury 1).me = s.me ∧ (s.bury 1).mem = unreserved s y.uid ∧ (s.bury 1).threads = [] ∧ (s.bury 1).graph.packets = [] ∧ (s.bury 1).graph.placing = [] := by
  have hn : s.net = [] := hs.1
  have hdead : State.isDead y = true := by unfold State.isDead; rw [hd]
  obtain ⟨sf, os, hlay⟩ := layOut_alone ht hn hu
  have hb : s.bury 1 = (s.layOut y).endThread { y with ops := os, resv := .none, region := none } (some f) := by
    unfold State.bury
    rw [ht, List.filter_cons_of_pos hdead, List.filter_nil, List.foldl_cons, List.foldl_nil]
    exact buryDone_alone (by rw [hlay]) (by rw [hlay]; exact hn) hd
  obtain ⟨hme, hmem, hrest⟩ := endThread_alone (s := s.layOut y) (y := { y with ops := os, resv := .none, region := none }) (by rw [hlay]; exact hs)
    (by rw [hlay]) (by rw [hlay]; exact hu) (some f)
  rw [hb]
  refine ⟨hme.trans (by rw [hlay]), hmem.trans ?_, hrest⟩
  rw [hlay]
  unfold unreserved
  dsimp only
  rw [List.filter_filter]
  simp only [Bool.and_self]

/-- The monitor ends a thread that is alone: it dies where it stands and leaves (R352). -/
theorem endTask_alone {o : Nat} {tid : BitVec 32} (hs : Idle s) (ht : s.threads = [x]) (hu : s.me.uid ≠ x.uid) (ho : x.pl.o = o) (hx : x.tid = tid)
    (hme : ¬(s.me.pl.o = o ∧ s.me.tid = tid)) :
    SameBytes s (s.endTask o tid) ∧ (s.endTask o tid).me = s.me ∧ (s.endTask o tid).threads = [] ∧ ∀ k, (k, x.uid) ∉ (s.endTask o tid).mem.resv := by
  have hmine : s.allThreads.filter (fun t => t.pl.o == o && t.tid == tid) = [x] := by
    have hxs : s.threads.filter (fun t => t.pl.o == o && t.tid == tid) = [x] := by simp [ht, ho, hx]
    have hms : ¬((s.me.pl.o == o && s.me.tid == tid) = true) := by simpa using hme
    unfold State.allThreads
    split
    · exact hxs
    · rw [List.filter_cons_of_neg (by exact hms), hxs]
  obtain ⟨hbme, hbmem, hbthreads, hbpk, hbpl⟩ := bury_alone (s := { s with threads := [{ x with park := .dead (State.endedRep x) }] })
    (y := { x with park := .dead (State.endedRep x) }) hs rfl rfl hu
  have he : s.endTask o tid = State.bury { s with threads := [{ x with park := .dead (State.endedRep x) }] } 1 := by
    unfold State.endTask
    rw [hs.2.1, List.find?_nil]
    dsimp only
    rw [hmine, List.foldl_cons, List.foldl_nil, modThread_alone _ ht hu]
    dsimp only [List.length_cons, List.length_nil]
    rw [hbpk]
    dsimp only [List.filter_nil, List.foldl_nil]
    rw [hbpl]
    rfl
  rw [he]
  exact ⟨sameBytes_unreserved hbmem, hbme, hbthreads, not_mem_unreserved hbmem⟩

end

/-! ### Pulls that fail (R417 to R420) -/

section
variable {s s' : State}

/-- An owner whose pull has failed stays so, and no event is lost. -/
def KeepsPulls (s t : State) : Prop := (∀ k, (s.owner k).pullFailed = true → (t.owner k).pullFailed = true) ∧ KeepsEvents s t

theorem keepsPulls_of {t : State} (h : (t.owners, t.trust.events) = (s.owners, s.trust.events)) : KeepsPulls s t := by
  obtain ⟨ho, he⟩ := Prod.mk.inj h
  exact ⟨fun k hk => by unfold State.owner at *; rwa [ho], keepsEvents_of_events he⟩

theorem keepsPulls_refl (s : State) : KeepsPulls s s := keepsPulls_of rfl

theorem KeepsPulls.trans {t u : State} (h : KeepsPulls s t) (k : KeepsPulls t u) : KeepsPulls s u := ⟨fun o ho => k.1 o (h.1 o ho), h.2.trans k.2⟩

theorem keepsPulls_of_leaves {t : State} (h : LeavesMonitor s t) : KeepsPulls s t := by
  obtain ⟨-, howners, -, -, htrust, -, -⟩ := h
  exact ⟨fun k hk => by rw [howners k]; exact hk, keepsEvents_of_events (by rw [htrust])⟩

theorem keepsPulls_ite {c : Prop} [Decidable c] {t u : State} (ht : KeepsPulls s t) (hu : KeepsPulls s u) : KeepsPulls s (if c then t else u) := by
  split
  · exact ht
  · exact hu

theorem keepsPulls_foldl {α : Type} {f : State → α → State} (h : ∀ s x, KeepsPulls s (f s x)) (xs : List α) (s : State) : KeepsPulls s (xs.foldl f s) := by
  induction xs generalizing s with
  | nil => exact keepsPulls_refl s
  | cons x xs ih => exact (h s x).trans (ih (f s x))

theorem keepsPulls_charge (s : State) (o k n : Nat) : KeepsPulls s (s.charge o k n) :=
  ⟨fun j hj => by rw [owner_charge]; exact hj, keepsEvents_of_events rfl⟩

theorem keepsPulls_answer (h : KeepsPulls s s') (r : Req) (res : VWord) (flt : Option FaultRec) : KeepsPulls s (s'.answer r res flt) :=
  h.trans (keepsPulls_of_leaves (leaves_modThread (leaves_of (by rfl)) _ _))

theorem keepsPulls_chargeMem (h : KeepsPulls s s') (w : Bool) (l : Loc) : KeepsPulls s (s'.chargeMem w l) :=
  h.trans (keepsPulls_of_leaves (leaves_of_settles (settles_chargeMem s' w l)))

theorem keepsPulls_writeLoc (h : KeepsPulls s s') (l : Loc) (bs : List Byte) : KeepsPulls s (s'.writeLoc l bs) := by
  refine h.trans ?_
  unfold State.writeLoc
  split
  · exact keepsPulls_refl s'
  · split <;> exact keepsPulls_of rfl

theorem keepsPulls_writeDev (h : KeepsPulls s s') (w : Nat × Nat × Nat) (l : Loc) (bs : List Byte) : KeepsPulls s (s'.writeDev w l bs) := by
  have hn : KeepsPulls s' (s'.noteOuter w l bs.length) := by cases l <;> exact keepsPulls_of rfl
  exact keepsPulls_writeLoc (h.trans hn) l bs

theorem keepsPulls_homeWrite (h : KeepsPulls s s') (w : Nat × Nat × Nat) (l : Loc) (bs : List Byte) : KeepsPulls s (s'.homeWrite w l bs) := by
  unfold State.homeWrite
  split
  · exact keepsPulls_writeDev ((keepsPulls_chargeMem h _ _).trans (keepsPulls_of (by rfl))) _ _ _
  · exact keepsPulls_writeDev (keepsPulls_chargeMem h _ _) _ _ _

theorem keepsPulls_redDone (h : KeepsPulls s s') (r : Req) (flt : Option FaultRec) : KeepsPulls s (s'.redDone r flt) :=
  keepsPulls_answer (h.trans (keepsPulls_of_leaves (leaves_modThread (leaves_refl s') _ _))) r 0 flt

/-- A posted request to a peer is sent and answered, or dropped (R375). -/
theorem keepsPulls_peerPost (s : State) (r : Req) (o k ia n : Nat) (op : IxOp) : KeepsPulls s (s.peerPost r o k ia n op) := by
  unfold State.peerPost
  split
  · exact keepsPulls_answer (keepsPulls_of (by rfl)) _ _ _
  · have hsend : KeepsPulls s (s.drawn.ixSend o k (ia / 1024) n op ia) := (keepsPulls_of (by rfl)).trans (keepsPulls_charge _ o 10 n)
    dsimp only
    split
    · exact keepsPulls_answer (hsend.trans (keepsPulls_of (by rfl))) _ _ _
    · exact keepsPulls_answer hsend _ _ _

theorem keepsPulls_storePerform (s : State) (r : Req) (bs : List Byte) : KeepsPulls s (s.storePerform r bs) := by
  unfold State.storePerform
  split
  · exact keepsPulls_peerPost _ _ _ _ _ _ _
  · split
    · exact keepsPulls_answer (keepsPulls_writeLoc (keepsPulls_refl s) _ _) _ _ _
    · exact keepsPulls_refl s
  · exact keepsPulls_answer (keepsPulls_writeLoc (keepsPulls_refl s) _ _) _ _ _
  · exact keepsPulls_answer (keepsPulls_writeDev ((keepsPulls_chargeMem (keepsPulls_refl s) _ _).trans (keepsPulls_of (by rfl))) _ _ _) _ _ _

theorem keepsPulls_syncDo (s : State) (r : Req) : KeepsPulls s (s.syncDo r) := by
  have hr : ∀ w, KeepsPulls s (s.chargeMem w r.loc) := fun w => keepsPulls_chargeMem (keepsPulls_refl s) w r.loc
  have hw : ∀ bs, KeepsPulls s ((s.chargeMem true r.loc).writeDev (s.writer r) r.loc bs) := fun bs =>
    keepsPulls_writeDev (hr true) (s.writer r) r.loc bs
  unfold State.syncDo
  cases r.kind with
  | ldfe | lrw => exact keepsPulls_answer ((hr _).trans (keepsPulls_of (by rfl))) _ _ _
  | ldff => exact keepsPulls_answer (hr _) _ _ _
  | stfe x | stf x => exact keepsPulls_answer ((hw _).trans (keepsPulls_of (by rfl))) _ _ _
  | scq x => exact keepsPulls_answer ((hw _).trans (keepsPulls_of (by rfl))) _ _ _
  | feClr | rsvRel => exact keepsPulls_answer (keepsPulls_of (by rfl)) _ _ _
  | _ => exact keepsPulls_refl s

theorem keepsPulls_waiterScan (s : State) (key n : Nat) : KeepsPulls s (s.waiterScan key n) := by
  induction n generalizing s with
  | zero => exact keepsPulls_refl s
  | succ n ih =>
    unfold State.waiterScan
    split
    · exact (keepsPulls_syncDo s _).trans (ih _)
    · exact keepsPulls_refl s

theorem keepsPulls_syncArrive (s : State) (r : Req) : KeepsPulls s (s.syncArrive r) := by
  unfold State.syncArrive
  exact keepsPulls_ite (keepsPulls_refl s) (keepsPulls_ite ((keepsPulls_syncDo s r).trans (keepsPulls_waiterScan _ _ _))
    (keepsPulls_ite (keepsPulls_of (by rfl)) (keepsPulls_refl s)))

/-- A request that waits for a page that does not come is answered, or goes on without it (R420). -/
theorem keepsPulls_pullMeet (s : State) (r : Req) : KeepsPulls s (s.pullMeet r) := by
  unfold State.pullMeet
  cases r.kind with
  | load n f tag => exact keepsPulls_answer (keepsPulls_refl s) _ _ _
  | amo op n x e => exact keepsPulls_answer (keepsPulls_refl s) _ _ _
  | ldfe | ldff | lrw => exact keepsPulls_answer (keepsPulls_refl s) _ _ _
  | spawn n q => exact keepsPulls_answer (keepsPulls_refl s) _ _ _
  | region ws =>
    refine keepsPulls_answer ?_ _ _ _
    refine keepsPulls_foldl (fun s w => ?_) ws s
    split
    · exact keepsPulls_of_leaves (leaves_modThread (leaves_refl s) _ _)
    · exact keepsPulls_refl s
  | red op n x => exact keepsPulls_redDone (keepsPulls_homeWrite (keepsPulls_refl s) _ _ _) _ _
  | redF x => exact keepsPulls_redDone (keepsPulls_homeWrite (keepsPulls_refl s) _ _ _) _ _
  | store bs => exact keepsPulls_storePerform _ _ _
  | stfe | stf | feClr | scq | rsvRel => exact keepsPulls_syncArrive _ _
  | _ => exact keepsPulls_refl s

theorem keepsPulls_raiseEv (s : State) {e : Ev} (h : e.seq = none) : KeepsPulls s (s.raiseEv e) := ⟨fun _ hk => hk, (tells_raiseEv s h).2⟩

theorem keepsPulls_platWrite (bs : List Byte) (s : State) (a : Nat) : KeepsPulls s (s.platWrite a bs) := by
  induction bs generalizing s a with
  | nil => exact keepsPulls_refl s
  | cons b bs ih => exact KeepsPulls.trans (keepsPulls_of (by rfl)) (ih _ (a + 1))

/-- The copies that wait for the page fail (R420). -/
theorem keepsPulls_pullCopies (s : State) (o page : Nat) : KeepsPulls s (s.pullCopies o page) := by
  unfold State.pullCopies
  refine keepsPulls_foldl (fun s c => ?_) _ s
  split
  · exact keepsPulls_of rfl
  · exact keepsPulls_refl s

theorem keepsPulls_modMem (s : State) (f : Mem → Mem) : KeepsPulls s (s.modMem f) := keepsPulls_of rfl

theorem keepsPulls_markPoison (s : State) (key : Nat) (bad : Bool) : KeepsPulls s (s.markPoison key bad) := by
  unfold State.markPoison
  split <;> exact keepsPulls_of rfl

/-- The page leaves the map of what is still to come, and the last one is told (R419). -/
theorem keepsPulls_pullClear (s : State) (o page : Nat) : KeepsPulls s (s.pullClear o page) := by
  have hw : ∀ a bs, KeepsPulls s ((s.modTrust (fun t => { t with pulls := t.pulls.filter (fun x => !(x.o == o && x.page == page)) })).platWrite a bs) :=
    fun a bs => (keepsPulls_of (by rfl)).trans (keepsPulls_platWrite bs _ a)
  unfold State.pullClear
  dsimp only
  exact keepsPulls_ite ((hw _ _).trans (keepsPulls_raiseEv _ rfl)) (hw _ _)

/-- What waits for a page that does not come fails, and the page's bytes are poison (R420). -/
def pageLost (s : State) (o page : Nat) : State :=
  ((List.range 512).map (fun i => (((s.pullCopies o page).pullCmds o page).pullInstalls o page).dramKey o (65536 * page + 128 * i))).foldl
    (fun (s : State) k => if s.lostKey k && (s.micaHas k).isNone then s else (s.modMem (fun m => m.write k (List.replicate 128 0))).markPoison k true)
    (((s.pullCopies o page).pullCmds o page).pullInstalls o page)

/-- The failure stands at the owner, and an event tells it (R420). -/
def failTold (s : State) (o page : Nat) : State :=
  (s.modOwner o (fun x => { x with pullFailed := true })).raiseEv { ty := 0x2B, o := o, data := BitVec.ofNat 64 page, src := 4 }

theorem keepsPulls_failOwner (s : State) (o : Nat) : KeepsPulls s (s.modOwner o (fun x => { x with pullFailed := true })) := by
  refine ⟨fun k hk => ?_, keepsEvents_of_events rfl⟩
  rw [owner_modOwner]
  split
  · rfl
  · exact hk

theorem keepsPulls_failTold (s : State) (o page : Nat) : KeepsPulls s (failTold s o page) := (keepsPulls_failOwner s o).trans (keepsPulls_raiseEv _ rfl)

theorem failTold_pullFailed (s : State) (o page : Nat) : ((failTold s o page).owner o).pullFailed = true := by
  have ho : (failTold s o page).owner o = (s.modOwner o (fun x => { x with pullFailed := true })).owner o := rfl
  rw [ho, owner_modOwner, if_pos rfl]

/-- Where the event record has room the event waits in it. -/
theorem failTold_event {o page : Nat} (hr : EvRoom s) : ∃ y ∈ (failTold s o page).trust.events, y.ty = 0x2B ∧ y.o = o ∧ y.data = BitVec.ofNat 64 page := by
  have hroom : EvRoom (s.modOwner o (fun x => { x with pullFailed := true })) := hr
  refine ⟨{ ty := 0x2B, o := o, data := BitVec.ofNat 64 page, src := 4, q := s.q }, ?_, rfl, rfl, rfl⟩
  unfold failTold
  rw [raiseEv_joins _ _ (heldKind_of_room hroom _)]
  exact List.mem_append_right _ (List.mem_singleton_self _)

theorem keepsPulls_pageLost (s : State) (o page : Nat) : KeepsPulls s (pageLost s o page) := by
  have hp : KeepsPulls s (((s.pullCopies o page).pullCmds o page).pullInstalls o page) := (keepsPulls_pullCopies s o page).trans (keepsPulls_of (by rfl))
  refine hp.trans (keepsPulls_foldl (fun s k => ?_) _ _)
  split
  · exact keepsPulls_refl s
  · exact (keepsPulls_modMem s _).trans (keepsPulls_markPoison _ k true)

/-- After the failure is told, the page's mark is cleared and the requests that wait for it are met. -/
theorem keepsPulls_failTold_pullFail (s : State) (o page : Nat) : KeepsPulls (failTold (pageLost s o page) o page) (s.pullFail o page) := by
  refine (keepsPulls_pullClear (failTold (pageLost s o page) o page) o page).trans ?_
  show KeepsPulls _ (List.foldl _ ((failTold (pageLost s o page) o page).pullClear o page) _)
  refine keepsPulls_foldl (fun s r => ?_) _ _
  split
  · split
    · exact keepsPulls_pullMeet s _
    · exact keepsPulls_refl s
  · exact keepsPulls_refl s

theorem keepsPulls_pullFail (s : State) (o page : Nat) : KeepsPulls s (s.pullFail o page) :=
  ((keepsPulls_pageLost s o page).trans (keepsPulls_failTold _ o page)).trans (keepsPulls_failTold_pullFail s o page)

theorem keepsPulls_pullStart (s : State) (o page : Nat) : KeepsPulls s (s.pullStart o page) := by
  unfold State.pullStart
  dsimp only
  split
  · exact keepsPulls_pullFail s o page
  · exact keepsPulls_of rfl

/-- The owner's further pulls, each of which may fail in its turn (R418). -/
theorem keepsPulls_pullPump (s : State) (o : Nat) : KeepsPulls s (s.pullPump o) := by
  have hstart : ∀ (s : State) (p : Nat) (c : Prop) [Decidable c], KeepsPulls s (if c then s else s.pullStart o p) := fun s p c _ =>
    keepsPulls_ite (keepsPulls_refl s) (keepsPulls_pullStart s o p)
  unfold State.pullPump
  dsimp only
  split
  · exact keepsPulls_refl s
  · exact (keepsPulls_foldl (fun s p => hstart s p _) _ s).trans (keepsPulls_foldl (fun s p => hstart s p _) _ _)

/-- An owner whose pull fails is marked, and where the event record has room an event tells the page (R420). -/
theorem pullFail_pump {o page : Nat} (hr : EvRoom s) : ((s.pullFail o page).pullPump o |>.owner o).pullFailed = true ∧
    ∃ y ∈ ((s.pullFail o page).pullPump o).trust.events, y.ty = 0x2B ∧ y.o = o ∧ y.data = BitVec.ofNat 64 page := by
  obtain ⟨hfailed, -, hevents⟩ := (keepsPulls_failTold_pullFail s o page).trans (keepsPulls_pullPump _ o)
  obtain ⟨y, hy, htells⟩ := failTold_event (o := o) (page := page) ((keepsPulls_pageLost s o page).2.1 hr)
  exact ⟨hfailed o (failTold_pullFailed _ o page), y, hevents y hy, htells⟩

end

/-! ### O26 -/

section
variable {s : State} {a b : Fin 16} {own fn : Nat}

/-- FRZ 0: the owner is asked to freeze, and the thread waits for it. -/
theorem frz_freezeOwner (h : s.iss.src.s[a].toNat % 16 = 0) (ho : own = s.iss.src.s[a].toNat / 2 ^ 8 % 16) (h0 : own ≠ 0)
    (hf : (s.owner own).frozen = false) (hn : (s.owner own).freezing = none) : Next (s.frz a) (fun t =>
      Parked (s.setOwner own { s.owner own with freezing := some 0x80, causes := (s.owner own).causes ++ [0x80] }) t (.frz own)) := by
  rw [frz_eq h (Nat.zero_le 4) ho fun _ => h0]
  dsimp only
  rw [if_neg (Bool.eq_false_iff.mp hf), freezeOwner_running hf hn]
  exact next_of ⟨rfl, fun _ => rfl⟩

/-- FRZ 1: a frozen owner is released. -/
theorem frz_releaseOwner (h : s.iss.src.s[a].toNat % 16 = 1) (ho : own = s.iss.src.s[a].toNat / 2 ^ 8 % 16) (h0 : own ≠ 0)
    (hf : (s.owner own).frozen = true) (hs : (s.owner own).inScrub = false) :
    s.frz a = .next (s.setOwner own { s.owner own with releasing := true }) := by
  rw [frz_eq h (by decide) ho fun _ => h0]
  exact congrArg Host.Outcome.next (releaseOwner_frozen hf hs)

/-- FRZ 2: the function freezes. -/
theorem frz_freezeFn (h : s.iss.src.s[a].toNat % 16 = 2) (ho : own = s.iss.src.s[a].toNat / 2 ^ 8 % 16) (hfn : fn = s.iss.src.s[a].toNat / 2 ^ 16 % 2 ^ 10)
    (hf : s.fnOf fn own = true) : Next (s.frz a) (fun t => SameBytes s t ∧ t.me = s.me ∧ (t.fn? fn).map (·.frozen) = some true) := by
  obtain ⟨f, hfound⟩ := fnOf_fn? hf
  rw [frz_eq h (by decide) ho fun l => absurd l (by decide), ← hfn]
  show Next (.next (if s.fnOf fn own then s.freezeFn fn 0x80 else s)) _
  rw [if_pos hf]
  refine next_of ⟨fun _ => rfl, rfl, ?_⟩
  exact congrArg (Option.map (·.frozen)) (fn?_modFn (g := fun f => { f with frozen := true }) hfound fun _ => rfl)

/-- FRZ 3: the function is released. -/
theorem frz_releaseFn (h : s.iss.src.s[a].toNat % 16 = 3) (ho : own = s.iss.src.s[a].toNat / 2 ^ 8 % 16) (hfn : fn = s.iss.src.s[a].toNat / 2 ^ 16 % 2 ^ 10)
    (hf : s.fnOf fn own = true) :
    Next (s.frz a) (fun t => SameBytes s t ∧ t.me = s.me ∧ t.owners = s.owners ∧ (t.fn? fn).map (·.frozen) = some false) := by
  obtain ⟨f, hfound⟩ := fnOf_fn? hf
  rw [frz_eq h (by decide) ho fun l => absurd l (by decide), ← hfn]
  show Next (.next (if s.fnOf fn own then s.modFn fn (fun f => { f with frozen := false }) else s)) _
  rw [if_pos hf]
  refine next_of ⟨fun _ => rfl, rfl, rfl, ?_⟩
  exact congrArg (Option.map (·.frozen)) (fn?_modFn (g := fun f => { f with frozen := false }) hfound fun _ => rfl)

/-- FRZ 4: the task of the number in s[a][63:32] ends. -/
theorem frz_endTask {x : Thread} (h : s.iss.src.s[a].toNat % 16 = 4) (ho : own = s.iss.src.s[a].toNat / 2 ^ 8 % 16) (hs : Idle s) (ht : s.threads = [x])
    (hu : s.me.uid ≠ x.uid) (hxo : x.pl.o = own) (hx : x.tid.toNat = s.iss.src.s[a].toNat / 2 ^ 32)
    (hme : ¬(s.me.pl.o = own ∧ s.me.tid.toNat = s.iss.src.s[a].toNat / 2 ^ 32)) :
    Next (s.frz a) (fun t => SameBytes s t ∧ t.me = s.me ∧ t.threads = [] ∧ ∀ k, (k, x.uid) ∉ t.mem.resv) := by
  have hlt : s.iss.src.s[a].toNat / 2 ^ 32 < 2 ^ 32 := by rw [← hx]; exact x.tid.isLt
  have htid : x.tid = BitVec.ofNat 32 (s.iss.src.s[a].toNat / 2 ^ 32 % 2 ^ 32) := BitVec.eq_of_toNat_eq (by
    rw [BitVec.toNat_ofNat, Nat.mod_mod, Nat.mod_eq_of_lt hlt, hx])
  rw [frz_eq h (by decide) ho fun l => absurd l (by decide)]
  refine next_of (endTask_alone hs ht hu hxo htid fun ⟨hp, ht⟩ => hme ⟨hp, ?_⟩)
  rw [ht, ← htid, hx]

/-- SLOTCTL 2: the engine goes to the owner that the operand names, and what another owner had in it is kept (R329, R332). -/
theorem slotctl_spill_next (h : s.iss.src.s[a].toNat % 16 = 2) {v idx y k : Nat} (hv : v = s.iss.src.s[b].toNat) (hi : idx = v % 64) (hy : y = v / 2 ^ 6 % 16)
    (hk : k = v / 2 ^ 10 % 16) : Next (s.slotctl a b) (fun t => t.me = s.me ∧ t.threads = s.threads ∧
      (match (s.engineAt idx y).tag with
       | some o => if o = k then SameBytes s t else OutsideSave s t o
       | none => SameBytes s t) ∧
      (t.engineAt idx y).tag = some k ∧
      ((s.engineAt idx y).tag ≠ some k → s.rot.spilled = [] →
        t.engineAt idx y = { idx := idx, x := y, tag := some k } ∧
        ∀ o, (s.engineAt idx y).tag = some o → t.rot.spilled = [(o, idx * 16 + y, s.engineAt idx y)])) := by
  subst hk hi hy hv
  rw [slotctl_spill h]
  refine next_of ⟨spillEngine_me, spillEngine_threads, spillEngine_bytes, ?_, fun ht hs => ⟨?_, fun o ho => ?_⟩⟩
  · rw [engineAt_spillEngine, spillIn_tag]
  · rw [engineAt_spillEngine, spillIn_fresh ht hs]
  · rw [spillEngine_spilled, spillKept_other ho ht hs]

/-- A refused page fails its pull (R420). -/
theorem pullRefusal_fails {o p : Nat} (ho : o < 16) (hp : s.rot.pause = none) (hx : s.host.ixHeld = []) (hr : EvRoom s) (hf : s.pullFlying o p = true) :
    Next (exec (.pullRefusal o p) s) (fun t => (t.owner o).pullFailed = true ∧ ∃ y ∈ t.trust.events, y.ty = 0x2B ∧ y.o = o ∧ y.data = BitVec.ofNat 64 p) := by
  have hh : ¬(s.ixHolds = true) := by simp [State.ixHolds, hp, hx]
  have he : exec (.pullRefusal o p) s = .next ((s.pullFail o p).pullPump o) := by
    show execPullRefusal o p s = _
    unfold execPullRefusal State.pageRefused
    rw [if_neg hh, Nat.mod_eq_of_lt ho, if_pos hf]
  rw [he]
  exact next_of (pullFail_pump hr)

/-- A page that does not come within 2^24 beats fails its pull (R420). -/
theorem pullTimeout_fails {o p : Nat} (ho : o < 16) (hp : s.rot.pause = none) (hr : EvRoom s) (hf : ∃ y ∈ s.trust.pulls, y.o = o ∧ y.page = p ∧ y.start + 2 ^ 24 ≤ s.q) :
    Next (exec (.pullTimeout o p) s) (fun t => (t.owner o).pullFailed = true ∧ ∃ y ∈ t.trust.events, y.ty = 0x2B ∧ y.o = o ∧ y.data = BitVec.ofNat 64 p) := by
  have hany : (s.trust.pulls.any (fun x => x.o == o && x.page == p && decide (x.start + 2 ^ 24 ≤ s.q)) && s.rot.pause.isNone) = true := by
    obtain ⟨y, hy, hyo, hyp, hlate⟩ := hf
    rw [hp, Option.isNone_none, Bool.and_true]
    refine List.any_eq_true.mpr ⟨y, hy, ?_⟩
    rw [hyo, hyp, beq_self_eq_true, beq_self_eq_true, decide_eq_true hlate]
    rfl
  have he : exec (.pullTimeout o p) s = .next ((s.pullFail o p).pullPump o) := by
    show execPullTimeout o p s = _
    unfold execPullTimeout
    rw [Nat.mod_eq_of_lt ho]
    exact if_pos hany
  rw [he]
  exact next_of (pullFail_pump hr)

/-- A jump to an aligned target sets the program counter (R107, R108). -/
theorem jumpTo_aligned {j : Word} (h : (ea0 j).toNat % 4 = 0) : s.jumpTo j = .next { s with me := { s.me with pc := ea0 j } } := by
  have hnot : ¬(((ea0 j).toNat % 4 != 0) = true) := by simp [h]
  exact if_neg hnot

end

/-- Settles O26: a row of a monitor form, a fault, a failed pull or a jump at a time. -/
theorem controlFormsComplete : Obligations.ControlFormsComplete := by
  unfold Obligations.ControlFormsComplete
  intro s a b w code sub o p x u v j ten own fn fresh
  refine ⟨rotctl_suspend, rotctl_resume, rotctl_extraRotation, rotctl_extraSwitch, fun h => slotctl_place h rfl, fun h => slotctl_remove h rfl,
    fun h => slotctl_spill_next h rfl rfl rfl rfl, fun h => frz_freezeOwner h rfl, fun h => frz_releaseOwner h rfl, fun h => frz_freezeFn h rfl rfl,
    fun h => frz_releaseFn h rfl rfl, fun h ht _ hu ho hx hme hn hst hpk hpl hl => frz_endTask h rfl ⟨hn, hst, hpk, hpl, hl⟩ ht hu ho hx hme,
    fun hp _ => ⟨fun h => exec_unassignedWord_fault hp (wordSub_major h), fun h => exec_unassignedWord_fault hp (wordSub_function h)⟩,
    fun hp => exec_instructionFetchFault hp code sub, pullRefusal_fails, pullTimeout_fails, fun _ hj => ⟨jumpTo_aligned hj, jumpTo_aligned hj⟩⟩

end Sys2Proof.Laws

/-! SUPPORT. ScalarLogic: the smaller and larger value, the counts of bits, and O2. -/

namespace Sys2Proof.Laws

open Sys2Proof.Machine Sys2Proof.Safety

/-! ### The smaller and the larger value (R100) -/

theorem toInt_minS (x y : Word) : (minS x y).toInt = min x.toInt y.toInt := by
  simp only [minS, BitVec.slt_iff_toInt_lt]; split <;> omega

theorem toInt_maxS (x y : Word) : (maxS x y).toInt = max x.toInt y.toInt := by
  simp only [maxS, BitVec.slt_iff_toInt_lt]; split <;> omega

theorem toNat_minU (x y : Word) : (minU x y).toNat = min x.toNat y.toNat := by
  simp only [minU, BitVec.ult_iff_toNat_lt]; split <;> omega

theorem toNat_maxU (x y : Word) : (maxU x y).toNat = max x.toNat y.toNat := by
  simp only [maxU, BitVec.ult_iff_toNat_lt]; split <;> omega

/-! ### Counts of bits (R100) -/

/-- The highest 1 bit of a word that is not 0 stands at the binary logarithm, below which the count of leading zeros begins. -/
theorem toNat_clz64 {x : Word} (h : x ≠ 0) : x.toNat.log2 < 64 ∧ (clz64 x).toNat = 63 - x.toNat.log2 := by
  have hx : x.toNat ≠ 0 := BitVec.toNat_ne_iff_ne.2 h
  refine ⟨(Nat.log2_lt hx).2 x.isLt, ?_⟩
  rw [clz64, if_neg h, BitVec.toNat_ofNat]
  omega

theorem clz64_spec (x : Word) : (clz64 x).toNat ≤ 64 ∧ (x = 0 → clz64 x = 64) ∧
    (x ≠ 0 → x.getLsbD (63 - (clz64 x).toNat) = true) ∧ ∀ k, 64 - (clz64 x).toNat ≤ k → x.getLsbD k = false := by
  by_cases h : x = 0
  · subst h
    exact ⟨Nat.le_refl 64, fun _ => rfl, fun h => absurd rfl h, fun _ _ => BitVec.getLsbD_zero⟩
  · obtain ⟨hlog, hclz⟩ := toNat_clz64 h
    have hx : x.toNat ≠ 0 := BitVec.toNat_ne_iff_ne.2 h
    rw [hclz]
    refine ⟨by omega, fun h0 => absurd h0 h, fun _ => ?_, fun k hk => ?_⟩
    · rw [show 63 - (63 - x.toNat.log2) = x.toNat.log2 by omega]
      exact Nat.testBit_log2 hx
    · exact Nat.testBit_lt_two_pow ((Nat.log2_lt hx).1 (by omega))

/-- The search for the lowest 1 bit stops at a 1 bit, or at the end, past 0 bits only. -/
theorem ctzFrom_spec (a f k : Nat) : ctzFrom a f k ≤ k + f ∧ (ctzFrom a f k < k + f → bit a (ctzFrom a f k) = true) ∧
    ∀ j, k ≤ j → j < ctzFrom a f k → bit a j = false := by
  induction f generalizing k with
  | zero => exact ⟨Nat.le_refl k, fun h => absurd h (Nat.lt_irrefl k), fun j hk hj => absurd hk (Nat.not_le.2 hj)⟩
  | succ f ih =>
    unfold ctzFrom
    split
    next hb => exact ⟨by omega, fun _ => hb, fun j hk hj => absurd hk (Nat.not_le.2 hj)⟩
    next hb =>
      obtain ⟨hle, hstop, hbelow⟩ := ih (k + 1)
      refine ⟨by omega, fun h => hstop (by omega), fun j hk hj => ?_⟩
      rcases Nat.eq_or_lt_of_le hk with rfl | hlt
      · exact Bool.eq_false_iff.2 hb
      · exact hbelow j hlt hj

theorem toNat_ctz64 (x : Word) : (ctz64 x).toNat = ctzFrom x.toNat 64 0 := by
  obtain ⟨hle, -, -⟩ := ctzFrom_spec x.toNat 64 0
  exact Nat.mod_eq_of_lt (by omega)

theorem ctz64_spec (x : Word) : (ctz64 x).toNat ≤ 64 ∧ (x = 0 → ctz64 x = 64) ∧
    (x ≠ 0 → x.getLsbD (ctz64 x).toNat = true) ∧ ∀ k, k < (ctz64 x).toNat → x.getLsbD k = false := by
  obtain ⟨hle, hstop, hbelow⟩ := ctzFrom_spec x.toNat 64 0
  simp only [← toNat_ctz64, bit_toNat, Nat.zero_le, forall_const, Nat.zero_add] at hle hstop hbelow
  refine ⟨hle, fun h => ?_, fun h => hstop ?_, hbelow⟩
  · subst h; rfl
  · by_contra hend
    exact h (BitVec.eq_of_getLsbD_eq fun k hk => by rw [hbelow k (by omega)]; exact BitVec.getLsbD_zero.symm)

theorem popNat_eq_length (a f : Nat) : popNat a f = ((List.range f).filter (bit a)).length := by
  induction f with
  | zero => rfl
  | succ f ih =>
    rw [popNat, ih, List.range_succ, List.filter_append, List.length_append, Nat.add_comm]
    cases h : bit a f <;> simp [h]

theorem toNat_popc64 (x : Word) : (popc64 x).toNat = ((List.range 64).filter (fun k => x.getLsbD k)).length := by
  have hbits : bit x.toNat = fun k => x.getLsbD k := funext (bit_toNat x)
  have hle : ((List.range 64).filter fun k => x.getLsbD k).length ≤ (List.range 64).length := List.length_filter_le _ _
  rw [List.length_range] at hle
  rw [popc64, popNat_eq_length, hbits, BitVec.toNat_ofNat, Nat.mod_eq_of_lt (by omega)]

/-! ### The statement -/

/-- Settles O2: each form writes one value, which is the rule's own expression or is described by its lemma. -/
theorem logicMinMaxCounts : Obligations.LogicMinMaxCounts := by
  unfold Obligations.LogicMinMaxCounts
  exact ⟨fun s d a b i => ⟨next_wS rfl, next_wS rfl, next_wS rfl, next_wS rfl, next_wS rfl, next_wS rfl, next_wS rfl, next_wS rfl, next_wS rfl⟩,
    fun s d a b => ⟨next_wS_of (toInt_minS _ _), next_wS_of (toInt_maxS _ _), next_wS_of (toNat_minU _ _), next_wS_of (toNat_maxU _ _),
      next_wS_of (clz64_spec _), next_wS_of (ctz64_spec _), next_wS_of (toNat_popc64 _)⟩⟩

end Sys2Proof.Laws

/-! SUPPORT. ScalarShifts: arithmetic shifts and rotates, the bit fields of a word, and O3. -/

namespace Sys2Proof.Laws

open Sys2Proof.Machine Sys2Proof.Safety

/-! ### Shifts and rotates (R35, R101) -/

theorem toInt_sar64 (x : Word) (n : Nat) : (sar64 x n).toInt = x.toInt / 2 ^ (n % 64) := by
  rw [sar64, BitVec.toInt_sshiftRight, Int.shiftRight_eq_div_pow]
  norm_cast

/-- A rotation by 0 has no bits that come round. -/
theorem rotl64_eq_rotateLeft (x : Word) (n : Nat) : rotl64 x n = x.rotateLeft (n % 64) := by
  rw [rotl64, BitVec.rotateLeft_def, Nat.mod_mod]
  by_cases h : n % 64 = 0
  · simp [h, BitVec.ushiftRight_eq_zero (x := x) (n := 64) (Nat.le_refl 64)]
  · rw [Nat.mod_eq_of_lt (show 64 - n % 64 < 64 by omega)]

/-! ### Bit fields (R102): the field in use is `extractLsb'` at its position and of its width -/

section
variable (a old : Word) (p e : Nat)

theorem toNat_extractField : (a.extractLsb' p (fieldW p e)).toNat = a.toNat / 2 ^ p % 2 ^ fieldW p e := by
  rw [BitVec.extractLsb'_toNat, Nat.shiftRight_eq_div_pow]

theorem bfxU_eq_setWidth : bfxU a p e = (a.extractLsb' p (fieldW p e)).setWidth 64 := by
  rw [bfxU, ← toNat_extractField, BitVec.ofNat_toNat]

/-- The top bit of the field is its sign. -/
theorem bfxS_eq_signExtend : bfxS a p e = (a.extractLsb' p (fieldW p e)).signExtend 64 := by
  rw [BitVec.signExtend, BitVec.toInt_eq_msb_cond, BitVec.msb_eq_getLsbD_last, ← bit_toNat, toNat_extractField, bfxS]
  norm_cast

theorem getLsbD_bfxU {k : Nat} (hk : k < 64) : (bfxU a p e).getLsbD k = (decide (k < fieldW p e) && a.getLsbD (p + k)) := by
  rw [bfxU_eq_setWidth, BitVec.getLsbD_setWidth, BitVec.getLsbD_extractLsb', decide_eq_true hk, Bool.true_and]

theorem getLsbD_bfxS (hp : p < 64) {k : Nat} (hk : k < 64) : (bfxS a p e).getLsbD k = a.getLsbD (p + min k (fieldW p e - 1)) := by
  have hw : 0 < fieldW p e := by unfold fieldW; omega
  rw [bfxS_eq_signExtend, BitVec.getLsbD_signExtend, BitVec.msb_eq_getLsbD_last, BitVec.getLsbD_extractLsb', BitVec.getLsbD_extractLsb',
    decide_eq_true hk, Bool.true_and]
  split
  next h => rw [decide_eq_true h, Bool.true_and, Nat.min_eq_left (by omega)]
  next h => rw [decide_eq_true (by omega), Bool.true_and, Nat.min_eq_right (by omega)]

/-- Insertion replaces the middle of three parts of a number. -/
theorem insert_eq_parts (x y w : Nat) :
    x - x / 2 ^ p % 2 ^ w * 2 ^ p + y % 2 ^ w * 2 ^ p = 2 ^ p * (2 ^ w * (x / 2 ^ p / 2 ^ w) + y % 2 ^ w) + x % 2 ^ p := by
  have hlow := Nat.div_add_mod x (2 ^ p)
  have hmid := Nat.div_add_mod (x / 2 ^ p) (2 ^ w)
  have hx : x = 2 ^ p * (2 ^ w * (x / 2 ^ p / 2 ^ w)) + x / 2 ^ p % 2 ^ w * 2 ^ p + x % 2 ^ p := by
    rw [Nat.mul_comm (x / 2 ^ p % 2 ^ w), ← Nat.mul_add, hmid, hlow]
  rw [Nat.mul_add, Nat.mul_comm (2 ^ p) (y % 2 ^ w)]
  omega

theorem getLsbD_bfi64 {k : Nat} (hk : k < 64) :
    (bfi64 old a p e).getLsbD k = if p ≤ k ∧ k < p + fieldW p e then a.getLsbD (k - p) else old.getLsbD k := by
  rw [bfi64, insert_eq_parts, BitVec.getLsbD_ofNat, decide_eq_true hk, Bool.true_and, Nat.testBit_two_pow_mul_add _ (Nat.mod_lt _ (by positivity)),
    Nat.testBit_two_pow_mul_add _ (Nat.mod_lt _ (by positivity)), Nat.testBit_mod_two_pow, Nat.testBit_mod_two_pow, Nat.testBit_div_two_pow,
    Nat.testBit_div_two_pow]
  split
  next hlow => rw [if_neg (by omega), decide_eq_true hlow, Bool.true_and]; rfl
  next hlow =>
    split
    next hmid => rw [if_pos (by omega), decide_eq_true hmid, Bool.true_and]; rfl
    next hmid => rw [if_neg (by omega), show k - p - fieldW p e + fieldW p e + p = k by omega]; rfl

end

/-! ### The statement -/

/-- An immediate amount is below 64 as it stands. -/
theorem amount_mod (k : BitVec 6) : k.toNat % 64 = k.toNat := Nat.mod_eq_of_lt k.isLt

/-- Settles O3: the amounts are taken modulo 64, and each bit of a field's result is one bit of a source. -/
theorem shiftsFieldsConstants : Obligations.ShiftsFieldsConstants := by
  unfold Obligations.ShiftsFieldsConstants
  exact ⟨fun s d a b k => ⟨next_wS rfl, next_wS rfl, next_wS_of (toInt_sar64 _ _), next_wS (rotl64_eq_rotateLeft _ _),
      next_wS (congrArg (_ <<< ·) (amount_mod k)), next_wS (congrArg (_ >>> ·) (amount_mod k)),
      next_wS_of ((toInt_sar64 _ _).trans (by rw [amount_mod]; rfl)), next_wS ((rotl64_eq_rotateLeft _ _).trans (by rw [amount_mod]; rfl))⟩,
    fun s d a p m i => ⟨next_wS_of fun _ => getLsbD_bfxS _ _ _ p.isLt, next_wS_of fun _ => getLsbD_bfxU _ _ _,
      next_wS_of fun _ => getLsbD_bfi64 _ _ _ _, next_wS rfl, next_wS rfl⟩⟩

end Sys2Proof.Laws

/-! SUPPORT. Compares: the conditions of the compares, the predicates that a bundle reads, and O4. -/

namespace Sys2Proof.Laws

open Sys2Proof.Machine Sys2Proof.Safety

/-! ### Immediates and predicates as sources (R97, R60, R105) -/

theorem toInt_sx (i : BitVec 12) : (sx i).toInt = i.toInt := BitVec.toInt_signExtend_of_le (by decide)

theorem toNat_zx (i : BitVec 12) : (zx i).toNat = i.toNat := by
  rw [zx, BitVec.toNat_setWidth_of_le (by decide)]

theorem bne_eq_decide_ne (x y : Word) : (x != y) = decide (x ≠ y) := by
  rw [bne, beq_eq_decide, decide_not]

/-- q7 reads 1, whatever the predicate word holds. -/
theorem rP_eq (s : State) (k : Fin 16) : s.rP k = (decide (k = 7) || s.iss.src.pw.getLsbD k.val) := by
  rw [State.rP, predBit, bit_toNat, beq_eq_decide]
  congr 1
  exact decide_eq_decide.2 (Fin.val_inj (b := (7 : Fin 16)))

/-! ### The statement -/

/-- Settles O4: a compare writes the library's order on words, read as integers or as naturals; predicates and the hints are as the bundle read them. -/
theorem comparesPredicatesSelect : Obligations.ComparesPredicatesSelect := by
  unfold Obligations.ComparesPredicatesSelect
  refine ⟨fun s d a b i => ⟨?_, ?_, ?_, ?_, ?_, ?_, ?_, ?_, ?_, ?_, ?_, ?_⟩, fun s d a b c n => ⟨?_, ?_, ?_, ?_, ?_, rfl, rfl⟩⟩
  · exact next_wP (beq_eq_decide _ _)
  · exact next_wP (bne_eq_decide_ne _ _)
  · exact next_wP BitVec.slt_eq_decide
  · exact next_wP BitVec.sle_eq_decide
  · exact next_wP BitVec.ult_eq_decide
  · exact next_wP BitVec.ule_eq_decide
  · exact next_wP (beq_eq_decide _ _)
  · exact next_wP (bne_eq_decide_ne _ _)
  · exact next_wP (by rw [BitVec.slt_eq_decide, toInt_sx]; rfl)
  · exact next_wP (by rw [BitVec.sle_eq_decide, toInt_sx]; rfl)
  · exact next_wP (by rw [BitVec.ult_eq_decide, toNat_zx]; rfl)
  · exact next_wP (by rw [BitVec.ule_eq_decide, toNat_zx]; rfl)
  · exact next_wP ((beq_eq_decide _ _).trans (decide_eq_decide.2 (Fin.val_inj (b := (1 : Fin 16)))))
  · exact next_wP (by rw [rP_eq, rP_eq])
  · exact next_wP (by rw [rP_eq, rP_eq])
  · exact next_wP (by rw [rP_eq])
  · exact next_wS (by rw [rP_eq]; rfl)

end Sys2Proof.Laws

/-! SUPPORT. Transfers: branches, calls, loops, jumps, traps and the return, each from the bundle's address and size, and O9. -/

namespace Sys2Proof.Laws

open Sys2Proof.Machine Sys2Proof.Safety

section
variable {s : State}

/-! ### Transfers (R107, R108) -/

/-- Outside a stream the core performs the branch itself (R210). -/
theorem exec_br (h : PlainTask s) (o : BitVec 20) : exec (.br o) s = .next (s.setPc (target s.iss.b o)) := by
  obtain ⟨hstrm, -⟩ := h
  show execBr o s = _
  rw [execBr, inStream_task hstrm, if_neg Bool.false_ne_true]

theorem next_call (o : BitVec 20) : Next (exec (.call o) s) (fun t =>
    ∃ u, WroteS s u 13 ((s.iss.b + BitVec.ofNat 48 s.iss.z).setWidth 64) ∧ t = u.setPc (target s.iss.b o)) :=
  next_of ⟨_, wroteS_wS s 13 _, rfl⟩

theorem next_dbnz (d : Fin 16) (o : BitVec 16) : Next (exec (.dbnz d o) s) (fun t =>
    ∃ u, WroteS s u d (s.iss.src.s[d] - 1) ∧ t = if s.iss.src.s[d] - 1 = 0 then u else u.setPc (target s.iss.b o)) :=
  next_of ⟨_, wroteS_wS s d _, rfl⟩

theorem jumpTo_misaligned {j : Word} (hs : PlainTask s) (h : (ea0 j).toNat % 4 ≠ 0) :
    Next (s.jumpTo j) (fun t => TookFault s t 3 0 s.iss.b (ea0 j)) := by
  have hodd : ((ea0 j).toNat % 4 != 0) = true := by simp [h]
  rw [State.jumpTo, if_pos hodd]
  exact next_raise hs

/-- jmp and ret differ in nothing (R107). -/
theorem exec_jump {i : Instr} {a : Fin 16} (h : i = .jmp a ∨ i = .ret a) : exec i s = s.jumpTo s.iss.src.s[a] := by
  rcases h with rfl | rfl <;> rfl

end

/-! ### The statement -/

/-- Settles O9: the transfers set the PC, the misaligned jump and the traps are faults of their bundle, and the return is `Thread.rte`. -/
theorem transfersTrapsReturn : Obligations.TransfersTrapsReturn := by
  unfold Obligations.TransfersTrapsReturn
  refine ⟨fun s d a o p hs => ⟨exec_br hs o, next_call o, next_dbnz d p, fun i hi => ?_⟩, fun s n hs => ⟨next_raise hs, next_raise hs, rfl⟩⟩
  rw [exec_jump hi]
  exact ⟨jumpTo_aligned, jumpTo_misaligned hs⟩

end Sys2Proof.Laws

/-! SUPPORT. Endings: exit, yield and go, the two forms that a stream's fetch unit performs, and O10. -/

namespace Sys2Proof.Laws

open Sys2Proof.Machine Sys2Proof.Safety

section
variable {s : State} {sid : Nat}

/-! ### The streams of the graph (R211, R212) -/

/-- An update of one stream changes that stream alone, and nothing outside the list of streams. -/
theorem modStream_frame (s : State) (sid : Nat) (f : Stream → Stream) :
    s.modStream sid f = { s with graph := { s.graph with streams := (s.modStream sid f).graph.streams } } := rfl

theorem mem_modStream {f : Stream → Stream} {x : Stream} :
    x ∈ (s.modStream sid f).graph.streams ↔ ∃ st ∈ s.graph.streams, (if st.id = sid then f st else st) = x := by
  simp [State.modStream]

theorem mem_modStream_of_ne {f : Stream → Stream} {st : Stream} (h : st ∈ s.graph.streams) (hne : st.id ≠ sid) :
    st ∈ (s.modStream sid f).graph.streams :=
  mem_modStream.2 ⟨st, h, if_neg hne⟩

theorem length_modStream (f : Stream → Stream) : (s.modStream sid f).graph.streams.length = s.graph.streams.length := List.length_map _

/-! ### exit (R110, R212) -/

/-- A stream notes that a core has performed its exit, once. -/
def withExit (c : Nat) (st : Stream) : Stream := { st with exited := if st.exited.contains c then st.exited else st.exited ++ [c] }

theorem mem_exited_withExit (c : Nat) (st : Stream) : c ∈ (withExit c st).exited := by
  unfold withExit
  split
  next h => exact List.contains_iff_mem.1 h
  next => exact List.mem_append_right _ List.mem_cons_self

theorem exec_exit_task (h : s.me.strm = none) : exec .exit s = .next (s.parkAfter .exit) := by
  show execExit s = _
  rw [execExit, h]

theorem exec_exit_stream (h : s.me.strm = some sid) : exec .exit s = .next (s.modStream sid (withExit s.me.pl.c)) := by
  show execExit s = _
  rw [execExit, h]
  rfl

theorem exited_of_mem {c : Nat} {st : Stream} (h : st ∈ (s.modStream sid (withExit c)).graph.streams) (hid : st.id = sid) : c ∈ st.exited := by
  obtain ⟨x, -, rfl⟩ := mem_modStream.1 h
  by_cases hx : x.id = sid
  · rw [if_pos hx]; exact mem_exited_withExit c x
  · rw [if_neg hx] at hid; exact absurd hid hx

/-! ### yield and go (R111, R204) -/

theorem next_yield : Next (exec .yield s) (fun t => t = if s.readyWaits s.me.pl then { s with me := { s.me with turns := 8 } } else s) := by
  refine next_ite (fun h => next_of ?_) (fun h => next_of ?_)
  · rw [if_pos h]; rfl
  · rw [if_neg h]

/-- A go to the thread's own core has no effect (log 124); any other ends the run of remote loads and waits to depart. -/
theorem next_go {a : Fin 16} (h : (namePlace s.me.pl.o s.iss.src.s[a]).l < s.nslot s.me.pl.o) : Next (exec (.go a) s) (fun t =>
    if namePlace s.me.pl.o s.iss.src.s[a] = s.me.pl then t = s
    else t = { s with me := { s.me with run := 0, park := .migrate (namePlace s.me.pl.o s.iss.src.s[a]), woken := false } }) := by
  show Next (execGo a s) _
  refine next_ite (fun hout => absurd h (Nat.not_lt.2 hout)) fun _ =>
    next_ite (fun (hown : namePlace _ s.iss.src.s[a] = _) => next_of ?_) (fun (hown : ¬namePlace _ s.iss.src.s[a] = _) => next_of ?_)
  · rw [if_pos hown]
  · rw [if_neg hown]; rfl

theorem next_go_outside {a : Fin 16} (hs : PlainTask s) (h : s.nslot s.me.pl.o ≤ (namePlace s.me.pl.o s.iss.src.s[a]).l) :
    Next (exec (.go a) s) (fun t => TookFault s t 5 0 s.iss.b (ea0 s.iss.src.s[a])) := by
  show Next (execGo a s) _
  exact next_ite (fun _ => next_raise hs) (fun hin => absurd h hin)

/-! ### send and sloop in a stream (R211) -/

theorem inStream_stream (h : s.me.strm = some sid) : s.inStream = true := by rw [State.inStream, h]; rfl

theorem exec_send_stream (h : s.me.strm = some sid) : exec .send s = .next s := if_pos (inStream_stream h)

/-- A loop record that is opened takes its trip count. -/
def withTrips (start : Addr) (n : Nat) (l : SLoop) : SLoop := if l.start = start ∧ l.left = 0 then { l with left := n } else l

theorem withTrips_eq (start : Addr) (n : Nat) : (fun l : SLoop => if l.start = start && l.left = 0 then { l with left := n } else l) = withTrips start n := by
  funext l
  simp only [withTrips, Bool.and_eq_true, decide_eq_true_eq]

/-- sloop acts at the first core of its stream, on the loop that begins after it (R211). -/
theorem exec_sloop_stream (h : s.me.strm = some sid) (d : Fin 16) {o : BitVec 16} (ho : o ≠ 0) :
    exec (.sloop d o) s = .next { s with graph := { s.graph with streams := s.graph.streams.map (fun st =>
      if st.id = sid ∧ State.streamOff st s.me.pl.c = 0 then
        { st with loops := st.loops.map (withTrips (s.iss.b + BitVec.ofNat 48 s.iss.z) s.iss.src.s[d].toNat) } else st) } } := by
  show execSloop d o s = _
  rw [execSloop, inStream_stream h, if_neg (by decide), if_neg ho, h]
  simp only [withTrips_eq, State.modStream, State.modGraph, beq_iff_eq, ite_and]
  rfl

end

/-! ### The statement -/

/-- Settles O10: exit by whether the thread is a task's or a stream's, then a form at a time. -/
theorem endYieldGoAndLoops : Obligations.EndYieldGoAndLoops := by
  unfold Obligations.EndYieldGoAndLoops
  intro s d a o dst
  refine ⟨fun h => ?_, fun sid h => ?_, next_yield, next_go, next_go_outside, fun sid h => ⟨exec_send_stream h, exec_sloop_stream h d⟩⟩
  · rw [exec_exit_task h]
    exact next_of (parked_parkAfter s _)
  · rw [exec_exit_stream h]
    exact next_of ⟨modStream_frame s sid _, fun _ => rfl, length_modStream _, fun _ => exited_of_mem, fun _ => mem_modStream_of_ne⟩

end Sys2Proof.Laws

/-! SUPPORT. MonitorFields: a monitor register that keeps the bits of its fields and nothing else, the level below which it is protected, and O12. -/

namespace Sys2Proof.Laws

open Sys2Proof.Machine Sys2Proof.Safety

section
variable {s : State} {n : BitVec 12}

/-! ### rsr and wsr of a monitor number (R114, R350) -/

theorem monitorLevel_of (h : s.me.pl.o = 0) : s.monitorLevel = true := by rw [State.monitorLevel, h]; rfl

theorem monitorLevel_below (h : s.me.pl.o ≠ 0) : s.monitorLevel = false := beq_false_of_ne h

theorem exec_rsr_monitor (d : Fin 16) (hn : 0x800 ≤ n.toNat) (h : s.me.pl.o = 0) : exec (.rsr d n) s = .next (s.wS d (s.readMon n.toNat)) := by
  show execRsr d n s = _
  rw [execRsr, if_neg (Nat.not_lt.2 hn), if_pos (monitorLevel_of h)]

/-- Every monitor register but OWNCFG, whose write may enable an owner (R445), takes its write at once. -/
theorem exec_wsr_monitor (a : Fin 16) (hn : 0x800 ≤ n.toNat) (hcfg : n.toNat ≠ 0x861) (h : s.me.pl.o = 0) :
    exec (.wsr a n) s = .next (s.writeMon n.toNat s.iss.src.s[a]) := by
  show execWsr a n s = _
  rw [execWsr, if_neg (Nat.not_lt.2 hn), monitorLevel_of h, if_neg (by decide), decide_eq_false hcfg, Bool.false_and, Bool.false_and,
    if_neg Bool.false_ne_true]
  rfl

theorem next_rsr_protected (d : Fin 16) (hs : PlainTask s) (hn : 0x800 ≤ n.toNat) (h : s.me.pl.o ≠ 0) :
    Next (exec (.rsr d n) s) (fun t => TookFault s t 5 0 s.iss.b (n.setWidth 48)) := by
  show Next (execRsr d n s) _
  rw [execRsr, if_neg (Nat.not_lt.2 hn), monitorLevel_below h, if_neg Bool.false_ne_true]
  exact next_raise hs

theorem next_wsr_protected (a : Fin 16) (hs : PlainTask s) (hn : 0x800 ≤ n.toNat) (h : s.me.pl.o ≠ 0) :
    Next (exec (.wsr a n) s) (fun t => TookFault s t 5 0 s.iss.b (n.setWidth 48)) := by
  show Next (execWsr a n s) _
  rw [execWsr, if_neg (Nat.not_lt.2 hn), monitorLevel_below h, Bool.not_false, if_pos rfl]
  exact next_raise hs

/-! ### A register that keeps the bits of its fields (R11) -/

/-- A write that reaches the monitor registers alone, after which the register numbered n reads as the bits of its fields m. -/
theorem next_wsr_field {a d : Fin 16} {m : Word} (h : s.me.pl.o = 0)
    (hw : s.writeMon n.toNat s.iss.src.s[a] = { s with regs := (s.writeMon n.toNat s.iss.src.s[a]).regs })
    (hr : (s.writeMon n.toNat s.iss.src.s[a]).readMon n.toNat = s.iss.src.s[a] &&& m)
    (hn : 0x800 ≤ n.toNat := by decide) (hcfg : n.toNat ≠ 0x861 := by decide) :
    Next (exec (.wsr a n) s) (fun t => t = { s with regs := t.regs } ∧ SameBytes s t ∧
      Next (exec (.rsr d n) t) (fun u => WroteS t u d (s.iss.src.s[a] &&& m))) := by
  have hme : (s.writeMon n.toNat s.iss.src.s[a]).me = s.me := by rw [hw]
  rw [exec_wsr_monitor a hn hcfg h]
  refine next_of ⟨hw, fun _ => by rw [hw], ?_⟩
  rw [exec_rsr_monitor d hn (by rw [hme]; exact h)]
  exact next_wS hr

end

/-! ### The statement -/

/-- Settles O12: each number of the list is one branch of `writeMon`, which masks the value, and one of `readMon`; below the monitor level no branch is reached. -/
theorem monitorRegisters : Obligations.MonitorRegisters := by
  unfold Obligations.MonitorRegisters
  refine ⟨fun s a d h => ?_, fun s a n hs h hn => ⟨next_rsr_protected a hs hn h, next_wsr_protected a hs hn h⟩⟩
  simp only [List.forall_mem_cons]
  exact ⟨next_wsr_field h rfl rfl, next_wsr_field h rfl rfl, next_wsr_field h rfl rfl, next_wsr_field h rfl rfl, next_wsr_field h rfl rfl, next_wsr_field h rfl rfl,
    next_wsr_field h rfl rfl, next_wsr_field h rfl rfl, next_wsr_field h rfl rfl, next_wsr_field h rfl rfl, next_wsr_field h rfl rfl, next_wsr_field h rfl rfl,
    next_wsr_field h rfl rfl, next_wsr_field h rfl rfl, next_wsr_field h rfl rfl, next_wsr_field h rfl rfl, next_wsr_field h rfl rfl, next_wsr_field h rfl rfl,
    next_wsr_field h rfl rfl, next_wsr_field h rfl rfl, next_wsr_field h rfl rfl, next_wsr_field h rfl rfl, next_wsr_field h rfl rfl, next_wsr_field h rfl rfl,
    next_wsr_field h rfl rfl, next_wsr_field h rfl rfl, next_wsr_field h rfl rfl, next_wsr_field h rfl rfl, next_wsr_field h rfl rfl,
    List.forall_mem_nil _⟩

end Sys2Proof.Laws

/-! SUPPORT. Lanes: a register built from lanes is read lane by lane, with the union of the lanes' flags; lanes as signed numbers; whole registers over
integer and over floating lanes. -/

namespace Sys2Proof.Laws

open Sys2Proof.Machine Sys2Proof.Safety

/-! ### A register and its lanes (R116) -/

theorem unlanes_lt (w : Nat) (xs : List Nat) : unlanes w xs < 2 ^ (w * xs.length) := by
  induction xs with
  | nil => exact Nat.one_pos
  | cons x xs ih =>
    have hx : x % 2 ^ w < 2 ^ w := Nat.mod_lt _ (by positivity)
    have hxs : 2 ^ w * (unlanes w xs + 1) ≤ 2 ^ w * 2 ^ (w * xs.length) := Nat.mul_le_mul_left _ ih
    rw [unlanes, List.length_cons, Nat.mul_succ, Nat.pow_add, Nat.mul_comm (2 ^ (w * _))]
    rw [Nat.mul_succ] at hxs
    omega

/-- Lane j of the number that a list of lanes makes is entry j, and 0 past its end. -/
theorem lane_unlanes (w : Nat) (xs : List Nat) (j : Nat) : unlanes w xs / 2 ^ (w * j) % 2 ^ w = xs.getD j 0 % 2 ^ w := by
  induction xs generalizing j with
  | nil => rw [unlanes, Nat.zero_div, List.getD_nil]
  | cons x xs ih =>
    cases j with
    | zero => rw [unlanes, Nat.mul_zero, Nat.pow_zero, Nat.div_one, Nat.add_mul_mod_self_left, Nat.mod_mod, List.getD_cons_zero]
    | succ j =>
      rw [unlanes, Nat.mul_succ, Nat.add_comm (w * j), Nat.pow_add, ← Nat.div_div_eq_div_mul, Nat.add_mul_div_left _ _ (by positivity),
        Nat.div_eq_of_lt (Nat.mod_lt _ (by positivity)), Nat.zero_add, ih, List.getD_cons_succ]

theorem lane_lt (w : Nat) (v : VWord) (j : Nat) : lane w v j < 2 ^ w := Nat.mod_lt _ (by positivity)

theorem lane_eq_extractLsb' (w : Nat) (v : VWord) (j : Nat) : lane w v j = (v.extractLsb' (w * j) w).toNat := by
  rw [BitVec.extractLsb'_toNat, Nat.shiftRight_eq_div_pow, lane]

/-- Lanes that fit a register are read back as they were written, and the lanes above them are 0. -/
theorem lanesAre_ofLanes {w n : Nat} (hw : w * n ≤ 128) (g : Nat → Nat) : LanesAre w n (ofLanes w n g) g := by
  have hlt := unlanes_lt w ((List.range n).map g)
  rw [List.length_map, List.length_range] at hlt
  have hnat : (ofLanes w n g).toNat = unlanes w ((List.range n).map g) := Nat.mod_eq_of_lt (hlt.trans_le (Nat.pow_le_pow_right (by decide) hw))
  have hlane (j : Nat) : lane w (ofLanes w n g) j = ((List.range n).map g).getD j 0 % 2 ^ w := by rw [lane, hnat, lane_unlanes]
  exact ⟨fun j hj => by rw [hlane]; simp [hj], fun j hj => by rw [hlane]; simp [hj]⟩

/-- Lanes are given modulo 2^w. -/
theorem lanesAre_congr {w n : Nat} {r : VWord} {f g : Nat → Nat} (hfg : ∀ j, j < n → f j ≡ g j [MOD 2 ^ w]) (h : LanesAre w n r f) : LanesAre w n r g :=
  ⟨fun j hj => (h.1 j hj).trans (hfg j hj), h.2⟩

/-! ### The flags of the lanes (R41, R117) -/

theorem getLsbD_foldl_or (rs : List (Nat × Flags)) (f : Flags) (k : Nat) :
    (rs.foldl (fun a r => a ||| r.2) f).getLsbD k = true ↔ f.getLsbD k = true ∨ ∃ r ∈ rs, r.2.getLsbD k = true := by
  induction rs generalizing f with
  | nil => simp
  | cons r rs ih => rw [List.foldl_cons, ih, BitVec.getLsbD_or, Bool.or_eq_true, List.exists_mem_cons_iff, or_assoc]

theorem getLsbD_flags_ofLanesF (w n : Nat) (g : Nat → Nat × Flags) (k : Nat) :
    (ofLanesF w n g).2.getLsbD k = true ↔ ∃ j, j < n ∧ (g j).2.getLsbD k = true := by
  rw [ofLanesF, getLsbD_foldl_or]
  simp

theorem fst_ofLanesF (w n : Nat) (g : Nat → Nat × Flags) : (ofLanesF w n g).1 = ofLanes w n fun j => (g j).1 := by
  rw [ofLanesF, ofLanes, List.map_map]; rfl

/-- Lanes that raise no flag. -/
theorem ofLanesF_zero (w n : Nat) (g : Nat → Nat) : ofLanesF w n (fun j => (g j, 0)) = (ofLanes w n g, 0) := by
  refine Prod.ext (fst_ofLanesF w n _) (BitVec.eq_of_getLsbD_eq fun k _ => Bool.eq_iff_iff.2 ?_)
  rw [getLsbD_flags_ofLanesF]
  simp

theorem vRes_zero (s : State) (d : Fin 16) (r : VWord) : vRes s d (r, 0) = .next (s.wV d r) := congrArg Host.Outcome.next (orF_zero _)

/-- A form that computes its lanes with their flags writes those lanes and flags. -/
theorem next_ofLanesF {s : State} {d : Fin 16} {w n : Nat} {g : Nat → Nat × Flags} (hw : w * n ≤ 128) :
    Next (vRes s d (ofLanesF w n g)) (fun t => WroteLanes s t d w n g) :=
  next_vRes (fst_ofLanesF w n g ▸ lanesAre_ofLanes hw _) (getLsbD_flags_ofLanesF w n g)

/-- A form that computes its lanes without flags writes every list of lanes that agrees with them modulo 2^w. -/
theorem next_ofLanes {s : State} {d : Fin 16} {w n : Nat} {f g : Nat → Nat} (hw : w * n ≤ 128) (hfg : ∀ j, j < n → f j ≡ g j [MOD 2 ^ w]) :
    Next (.next (s.wV d (ofLanes w n f))) (fun t => WroteInts s t d w n g) :=
  next_ints (lanesAre_congr hfg (lanesAre_ofLanes hw f))

/-- A form whose lanes keep their bits below w writes a register of exactly those lanes. -/
theorem next_ofLanes_of {s : State} {d : Fin 16} {w n : Nat} {f : Nat → Nat} {P : VWord → Prop} (hw : w * n ≤ 128) (hf : ∀ j, f j < 2 ^ w)
    (hP : ∀ r, (∀ j, j < n → lane w r j = f j) → P r) : Next (.next (s.wV d (ofLanes w n f))) (fun t => ∃ r, WroteV s t d r 0 ∧ P r) := by
  obtain ⟨hlane, -⟩ := lanesAre_ofLanes hw f
  exact ⟨_, rfl, _, wroteV_wV0 s d _, hP _ fun j hj => (hlane j hj).trans (Nat.mod_eq_of_lt (hf j))⟩

/-! ### Integers in lanes (R33) -/

theorem lowBits_eq_toNat_ofInt (w : Nat) (x : Int) : lowBits w x = (BitVec.ofInt w x).toNat := by
  rw [BitVec.toNat_ofInt, lowBits, Nat.cast_pow]; rfl

theorem lowBits_lt (w : Nat) (x : Int) : lowBits w x < 2 ^ w := by
  rw [lowBits_eq_toNat_ofInt]; exact BitVec.isLt _

/-- The low bits of an integer are any number that agrees with it modulo 2^w. -/
theorem lowBits_modEq {w m : Nat} {x : Int} (h : x ≡ m [ZMOD 2 ^ w]) : lowBits w x ≡ m [MOD 2 ^ w] := by
  have hcast : (lowBits w x : Int) = x % 2 ^ w := Int.toNat_of_nonneg (Int.emod_nonneg _ (by positivity))
  rw [← Int.natCast_modEq_iff, hcast]
  exact_mod_cast (Int.mod_modEq x (2 ^ w)).trans h

theorem laneInt_toNat {w : Nat} (x : BitVec w) : laneInt w x.toNat = x.toInt := by
  rw [laneInt, BitVec.toInt_eq_msb_cond, BitVec.msb_eq_decide]
  simp

theorem laneInt_lowBits {w : Nat} {x : Int} (hw : 0 < w) (hlo : -2 ^ (w - 1) ≤ x) (hhi : x < 2 ^ (w - 1)) : laneInt w (lowBits w x) = x := by
  rw [lowBits_eq_toNat_ofInt, laneInt_toNat, BitVec.toInt_ofInt_eq_self hw hlo hhi]

/-! ### Lane types (R87, R116) -/

theorem width_pos (t : LaneT) : 0 < LaneT.width t := by cases t <;> decide

theorem width_le (t : LaneT) : LaneT.width t ≤ 128 := by cases t <;> decide

theorem lanes_fit (t : LaneT) : LaneT.width t * LaneT.count t ≤ 128 := Nat.mul_div_le 128 _

theorem isF_of_isInt {t : LaneT} (h : t.isInt = true) : t.isF = false := by
  revert h; cases t <;> decide

theorem isInt_of_isI {t : LaneT} (h : t.isI = true) : t.isInt = true := by rw [LaneT.isInt, h, Bool.true_or]

theorem laneVal_of_isI {t : LaneT} (h : t.isI = true) (x : Nat) : laneVal t x = laneInt (LaneT.width t) x := if_pos h

/-! ### Forms over integer or floating lanes (R119, R122) -/

section
variable {s : State} {d : Fin 16} {t : LaneT} {fi : Nat → Nat → Nat} {ff : Fmt → Nat → Nat → Nat × Flags} {a b : VWord}

theorem vMap2_of_isInt (h : t.isInt = true) : vMap2 t fi ff a b =
    (ofLanes (LaneT.width t) (LaneT.count t) fun j => fi (lane (LaneT.width t) a j) (lane (LaneT.width t) b j), 0) := by
  simp only [vMap2, isF_of_isInt h, Bool.false_eq_true, if_false, ofLanesF_zero]

theorem vMap2_of_isF (h : t.isF = true) : vMap2 t fi ff a b =
    ofLanesF (LaneT.width t) (LaneT.count t) fun j => ff (LaneT.fmt t) (lane (LaneT.width t) a j) (lane (LaneT.width t) b j) := by
  simp only [vMap2, h, if_true]

theorem next_vMap2_int {g : Nat → Nat} (h : t.isInt = true)
    (hg : ∀ j, fi (lane (LaneT.width t) a j) (lane (LaneT.width t) b j) ≡ g j [MOD 2 ^ LaneT.width t]) :
    Next (vRes s d (vMap2 t fi ff a b)) (fun u => WroteInts s u d (LaneT.width t) (LaneT.count t) g) := by
  rw [vMap2_of_isInt h, vRes_zero]
  exact next_ofLanes (lanes_fit t) fun j _ => hg j

theorem next_vMap2_flt (h : t.isF = true) : Next (vRes s d (vMap2 t fi ff a b)) (fun u =>
    WroteLanes s u d (LaneT.width t) (LaneT.count t) fun j => ff (LaneT.fmt t) (lane (LaneT.width t) a j) (lane (LaneT.width t) b j)) := by
  rw [vMap2_of_isF h]
  exact next_ofLanesF (lanes_fit t)

end

end Sys2Proof.Laws

/-! SUPPORT. LaneArithmetic: differences and absolute values modulo 2^w, the lane compares, and O5. -/

namespace Sys2Proof.Laws

open Sys2Proof.Machine Sys2Proof.Safety

/-! ### Differences, negations and absolute values modulo 2^w (R119) -/

theorem lowBits_sub_modEq {w x y : Nat} (hy : y < 2 ^ w) : lowBits w ((x : Int) - y) ≡ x + 2 ^ w - y [MOD 2 ^ w] := by
  apply lowBits_modEq
  rw [Nat.cast_sub (by omega), Nat.cast_add, Nat.cast_pow, Int.modEq_iff_dvd]
  exact ⟨1, by push_cast; ring⟩

theorem lowBits_neg_modEq {w x : Nat} (hx : x < 2 ^ w) : lowBits w (-(x : Int)) ≡ 2 ^ w - x [MOD 2 ^ w] := by
  simpa using lowBits_sub_modEq (x := 0) hx

theorem natAbs_laneInt {w x : Nat} (hx : x < 2 ^ w) : (laneInt w x).natAbs = if x < 2 ^ (w - 1) then x else 2 ^ w - x := by
  have hpow : ((2 ^ w : Nat) : Int) = 2 ^ w := by norm_cast
  unfold laneInt
  split <;> split <;> omega

theorem iAbs_modEq {t : LaneT} {x : Nat} (h : t.isI = true) (hx : x < 2 ^ LaneT.width t) :
    iAbs t x ≡ if x < 2 ^ (LaneT.width t - 1) then x else 2 ^ LaneT.width t - x [MOD 2 ^ LaneT.width t] := by
  rw [iAbs, laneVal_of_isI h, natAbs_laneInt hx]
  exact lowBits_modEq rfl

/-! ### Lane compares (R125) -/

section
variable {s : State} {d : Fin 16} {t : LaneT} {cc : Nat} {a b : VWord}

theorem vCmpL_of_isInt (h : t.isInt = true) : vCmpL cc t a b = (ofLanes (LaneT.width t) (LaneT.count t) fun j =>
    if iCmp t cc (lane (LaneT.width t) a j) (lane (LaneT.width t) b j) then 2 ^ LaneT.width t - 1 else 0, 0) := by
  simp only [vCmpL, isF_of_isInt h, Bool.false_eq_true, if_false, ofLanesF_zero]

theorem vCmpL_of_isF (h : t.isF = true) : vCmpL cc t a b = ofLanesF (LaneT.width t) (LaneT.count t) fun j =>
    (if (fCmp (LaneT.fmt t) cc (lane (LaneT.width t) a j) (lane (LaneT.width t) b j)).1 then 2 ^ LaneT.width t - 1 else 0,
      (fCmp (LaneT.fmt t) cc (lane (LaneT.width t) a j) (lane (LaneT.width t) b j)).2) := by
  simp only [vCmpL, h, if_true]

theorem next_vCmpL_int {p : Nat → Bool} (h : t.isInt = true) (hp : ∀ j, iCmp t cc (lane (LaneT.width t) a j) (lane (LaneT.width t) b j) = p j) :
    Next (vRes s d (vCmpL cc t a b)) (fun u => WroteInts s u d (LaneT.width t) (LaneT.count t) fun j => if p j then 2 ^ LaneT.width t - 1 else 0) := by
  rw [vCmpL_of_isInt h, vRes_zero]
  exact next_ofLanes (lanes_fit t) fun j _ => by rw [hp j]

theorem next_vCmpL_flt (h : t.isF = true) : Next (vRes s d (vCmpL cc t a b)) (fun u => WroteLanes s u d (LaneT.width t) (LaneT.count t) fun j =>
    (if (fCmp (LaneT.fmt t) cc (lane (LaneT.width t) a j) (lane (LaneT.width t) b j)).1 then 2 ^ LaneT.width t - 1 else 0,
      (fCmp (LaneT.fmt t) cc (lane (LaneT.width t) a j) (lane (LaneT.width t) b j)).2)) := by
  rw [vCmpL_of_isF h]
  exact next_ofLanesF (lanes_fit t)

end

/-! ### The statement -/

/-- Settles O5: each form is one function of two lanes, over integers modulo 2^w or over floating values. -/
theorem laneArithmeticAndOrder : Obligations.LaneArithmeticAndOrder := by
  unfold Obligations.LaneArithmeticAndOrder
  exact ⟨fun s d a b t =>
      ⟨fun h => ⟨next_vMap2_int h fun _ => Nat.mod_modEq _ _, next_vMap2_int h fun _ => lowBits_sub_modEq (lane_lt _ _ _),
          next_vMap2_int h fun _ => Nat.mod_modEq _ _, next_vMap2_int h fun _ => lowBits_neg_modEq (lane_lt _ _ _)⟩,
        fun h => next_vMap2_int (isInt_of_isI h) fun _ => iAbs_modEq h (lane_lt _ _ _),
        fun h => ⟨next_vMap2_flt h, next_vMap2_flt h, next_vMap2_flt h, next_vMap2_flt h, next_vMap2_flt h⟩⟩,
    fun s d a b t =>
      ⟨fun h => ⟨next_vMap2_int h fun _ => rfl, next_vMap2_int h fun _ => rfl, next_vCmpL_int h fun _ => beq_eq_decide _ _,
          next_vCmpL_int h fun _ => rfl, next_vCmpL_int h fun _ => rfl⟩,
        fun h => ⟨next_vMap2_flt h, next_vMap2_flt h, next_vCmpL_flt h, next_vCmpL_flt h, next_vCmpL_flt h⟩⟩⟩

end Sys2Proof.Laws

/-! SUPPORT. LaneMoves: selection by bits, arithmetic shifts and saturation lane by lane, the widths of packed lanes, and O6. -/

namespace Sys2Proof.Laws

open Sys2Proof.Machine Sys2Proof.Safety

/-! ### Selection (R126) -/

theorem getLsbD_select (p q m : VWord) (i : Nat) (hi : i < 128) :
    ((p &&& m) ||| (q &&& ~~~m)).getLsbD i = if m.getLsbD i then p.getLsbD i else q.getLsbD i := by
  rw [BitVec.getLsbD_or, BitVec.getLsbD_and, BitVec.getLsbD_and, BitVec.getLsbD_not, decide_eq_true hi, Bool.true_and]
  cases m.getLsbD i <;> simp

/-! ### Arithmetic shifts (R120) -/

/-- The arithmetic shift of a lane is that of the lane as a bit vector. -/
theorem iSar_toNat {w : Nat} (x : BitVec w) (n : Nat) : iSar w x.toNat n = (x.sshiftRight n).toNat := by
  rw [iSar, laneInt_toNat, lowBits_eq_toNat_ofInt, BitVec.sshiftRight, Int.shiftRight_eq_div_pow, Nat.cast_pow, Nat.cast_ofNat]

theorem laneInt_iSar (w : Nat) (v : VWord) (j n : Nat) : laneInt w (iSar w (lane w v j) n) = laneInt w (lane w v j) / 2 ^ n := by
  rw [lane_eq_extractLsb', iSar_toNat, laneInt_toNat, laneInt_toNat, BitVec.toInt_sshiftRight, Int.shiftRight_eq_div_pow]
  norm_cast

/-! ### Saturation (R121) -/

theorem clampI_eq_max_min {lo hi : Int} (h : lo ≤ hi) (x : Int) : clampI lo hi x = max lo (min hi x) := by
  unfold clampI
  split
  · omega
  · split <;> omega

theorem rangeLo_le_rangeHi (b : Bool) (w : Nat) : rangeLo b w ≤ rangeHi b w := by
  have h1 : (1 : Int) ≤ 2 ^ (w - 1) := one_le_pow₀ (by decide)
  have h2 : (1 : Int) ≤ 2 ^ w := one_le_pow₀ (by decide)
  cases b <;> simp only [rangeLo, rangeHi, if_true, Bool.false_eq_true, if_false] <;> omega

/-- A wider integer has every value of a narrower one. -/
theorem range_mono (b : Bool) {v w : Nat} (h : v ≤ w) : rangeLo b w ≤ rangeLo b v ∧ rangeHi b v ≤ rangeHi b w := by
  have h1 : (2 : Int) ^ (v - 1) ≤ 2 ^ (w - 1) := pow_le_pow_right₀ (by decide) (by omega)
  have h2 : (2 : Int) ^ v ≤ 2 ^ w := pow_le_pow_right₀ (by decide) h
  cases b <;> simp only [rangeLo, rangeHi, if_true, Bool.false_eq_true, if_false] <;> omega

/-- A value in the range of a lane is read back as it was written. -/
theorem laneVal_lowBits {t : LaneT} {x : Int} (hlo : rangeLo t.isI (LaneT.width t) ≤ x) (hhi : x ≤ rangeHi t.isI (LaneT.width t)) :
    laneVal t (lowBits (LaneT.width t) x) = x := by
  cases ht : t.isI with
  | true =>
    rw [ht, rangeLo, if_pos rfl] at hlo
    rw [ht, rangeHi, if_pos rfl] at hhi
    rw [laneVal_of_isI ht]
    exact laneInt_lowBits (width_pos t) hlo (by omega)
  | false =>
    rw [ht, rangeLo, if_neg Bool.false_ne_true] at hlo
    rw [ht, rangeHi, if_neg Bool.false_ne_true] at hhi
    rw [laneVal, ht, if_neg Bool.false_ne_true, lowBits, Int.emod_eq_of_lt hlo (by omega), Int.toNat_of_nonneg hlo]

theorem laneVal_saturate (t : LaneT) (x : Int) : laneVal t (lowBits (LaneT.width t) (saturate t.isI (LaneT.width t / 2) x)) =
    max (rangeLo t.isI (LaneT.width t / 2)) (min (rangeHi t.isI (LaneT.width t / 2)) x) := by
  have hrange := rangeLo_le_rangeHi t.isI (LaneT.width t / 2)
  obtain ⟨hlo, hhi⟩ := range_mono t.isI (Nat.div_le_self (LaneT.width t) 2)
  rw [saturate, clampI_eq_max_min hrange, laneVal_lowBits] <;> omega

/-! ### Packed and unpacked lanes (R129, R130) -/

theorem packed_lanes_fit (t : LaneT) : LaneT.width t / 2 * (2 * LaneT.count t) ≤ 128 := by cases t <;> decide

theorem unpacked_lanes_fit (t : LaneT) : 2 * LaneT.width t * (LaneT.count t / 2) ≤ 128 := by cases t <;> decide

/-! ### The statement -/

/-- Settles O6: the bitwise forms are those of the whole register, shifts and saturation act in each lane, and the moves choose lanes. -/
theorem laneLogicShiftsMoves : Obligations.LaneLogicShiftsMoves := by
  unfold Obligations.LaneLogicShiftsMoves
  refine ⟨fun s d a b c t k h => ⟨next_wV rfl, next_wV rfl, next_wV rfl, next_wV rfl, ?_, ?_, ?_, ?_, ?_, ?_⟩,
    fun s d a b t => ⟨fun h => ⟨?_, ?_, ?_, ?_⟩, fun h => ?_, fun h => ?_⟩⟩
  · exact ⟨_, rfl, _, wroteV_wV0 s d _, getLsbD_select _ _ _⟩
  · exact next_ofLanes (lanes_fit t) fun _ _ => Nat.mod_modEq _ _
  · exact next_ofLanes (lanes_fit t) fun _ _ => rfl
  · exact next_ofLanes_of (lanes_fit t) (fun _ => lowBits_lt _ _) fun r hr j hj => by rw [hr j hj]; exact laneInt_iSar _ _ _ _
  · exact next_ofLanes (lanes_fit t) fun _ _ => Nat.mod_modEq _ _
  · exact next_ofLanes_of (lanes_fit t) (fun _ => lowBits_lt _ _) fun r hr j hj => by rw [hr j hj]; exact laneVal_saturate t _
  · exact next_ofLanes (lanes_fit t) fun _ _ => Nat.mod_modEq _ _
  · exact next_wS_of rfl
  · refine next_ofLanes (lanes_fit t) fun j _ => ?_
    split
    · exact Nat.mod_modEq _ _
    · rfl
  · exact next_ofLanes (lanes_fit t) fun _ _ => rfl
  · exact next_ofLanesF (packed_lanes_fit t)
  · exact next_ofLanesF (unpacked_lanes_fit t)

end Sys2Proof.Laws

/-! SUPPORT. LaneSums: the widths of converted lanes, the tree of vsum over integers, the sums of vdot.i8, and O7. -/

namespace Sys2Proof.Laws

open Sys2Proof.Machine Sys2Proof.Safety

/-! ### Lanes of a format and converted lanes (R124, R135) -/

theorem converted_lanes_fit (t ts : LaneT) : LaneT.width t * min (LaneT.count ts) (LaneT.count t) ≤ 128 :=
  (Nat.mul_le_mul_left _ (Nat.min_le_right _ _)).trans (lanes_fit t)

theorem format_lanes_fit (f : Fmt) : f.w * (128 / f.w) ≤ 128 := Nat.mul_div_le 128 _

/-! ### The tree of vsum over integers (R131): every level keeps the sum modulo 2^w -/

/-- The addition of integer lanes that vsum's tree performs, modulo m. -/
def addMod (m x y : Nat) : Nat × Flags := ((x + y) % m, 0)

/-- One level of the tree leaves half as many lanes, of the same sum modulo m, and raises no flag. -/
theorem sumPairs_addMod {m : Nat} (hm : 0 < m) : ∀ xs : List Nat, (∀ x ∈ xs, x < m) →
    (sumPairs (addMod m) xs).2 = 0 ∧ (sumPairs (addMod m) xs).1.sum ≡ xs.sum [MOD m] ∧
      (sumPairs (addMod m) xs).1.length = (xs.length + 1) / 2 ∧ ∀ x ∈ (sumPairs (addMod m) xs).1, x < m
  | [], h => ⟨rfl, rfl, rfl, h⟩
  | [_], h => ⟨rfl, rfl, (Nat.div_self Nat.two_pos).symm, h⟩
  | x :: y :: xs, h => by
    obtain ⟨hflags, hsum, hlen, hlt⟩ := sumPairs_addMod hm xs fun z hz => h z (List.mem_cons_of_mem _ (List.mem_cons_of_mem _ hz))
    rw [sumPairs]
    refine ⟨?_, ?_, ?_, List.forall_mem_cons.2 ⟨Nat.mod_lt _ hm, hlt⟩⟩
    · rw [hflags]; exact BitVec.or_self
    · rw [List.sum_cons, List.sum_cons, List.sum_cons, ← Nat.add_assoc]
      exact (Nat.mod_modEq _ _).add hsum
    · rw [List.length_cons, hlen, List.length_cons, List.length_cons]; omega

/-- The grouping of the tree does not affect the total of integer lanes. -/
theorem sumTree_addMod {m : Nat} (hm : 0 < m) (k : Nat) (xs : List Nat) (hlen : xs.length ≤ 2 ^ k) (hlt : ∀ x ∈ xs, x < m) :
    sumTree (addMod m) k xs = (xs.sum % m, 0) := by
  induction k generalizing xs with
  | zero =>
    match xs, hlen, hlt with
    | [], _, _ => rw [List.sum_nil, Nat.zero_mod]; rfl
    | [x], _, hlt => rw [List.sum_singleton, Nat.mod_eq_of_lt (hlt x (List.mem_singleton_self x))]; rfl
  | succ k ih =>
    obtain ⟨hflags, hsum, hhalf, hlt'⟩ := sumPairs_addMod hm xs hlt
    rw [sumTree, ih _ (by rw [hhalf]; omega) hlt', hflags, hsum]; exact congrArg (Prod.mk _) BitVec.or_self

theorem vSumL_of_isInt {rm : RM} {t : LaneT} (h : t.isInt = true) (v : VWord) : vSumL rm t v =
    (ofLanes (LaneT.width t) 1 fun _ => ((List.range (LaneT.count t)).map (lane (LaneT.width t) v)).sum, 0) := by
  have hadd : (fun x y => if t.isF = true then fAdd (LaneT.fmt t) rm x y else ((x + y) % 2 ^ LaneT.width t, 0)) = addMod (2 ^ LaneT.width t) := by
    rw [isF_of_isInt h]; rfl
  have hcount : LaneT.count t ≤ 2 ^ Nat.log2 (LaneT.count t) := by revert h; cases t <;> decide
  simp only [vSumL]
  rw [hadd, sumTree_addMod (by positivity) _ _ (by simpa using hcount) (by simp [lane_lt])]
  rfl

/-! ### Dot products of bytes (R134) -/

/-- The four products of a lane, added to it one after the other. -/
theorem vDotI8L_eq (d a b : VWord) : vDotI8L d a b = ofLanes 32 4 fun j => lowBits 32
    ((lane 32 d j : Int) + laneInt 8 (lane 8 a (4 * j)) * laneInt 8 (lane 8 b (4 * j)) + laneInt 8 (lane 8 a (4 * j + 1)) * laneInt 8 (lane 8 b (4 * j + 1)) +
      laneInt 8 (lane 8 a (4 * j + 2)) * laneInt 8 (lane 8 b (4 * j + 2)) + laneInt 8 (lane 8 a (4 * j + 3)) * laneInt 8 (lane 8 b (4 * j + 3))) := by
  simp only [vDotI8L, List.range_succ, List.range_zero, List.nil_append, List.cons_append, List.foldl_cons, List.foldl_nil, Nat.add_zero, zero_add, ← add_assoc]

/-! ### The statement -/

/-- Settles O7: each form computes its lanes one by one; the tree of the integer lane sum has the total modulo 2^w as its value (`vSumL_of_isInt`). -/
theorem fusedDotSumConversions : Obligations.FusedDotSumConversions := by
  unfold Obligations.FusedDotSumConversions
  refine ⟨fun s d a b c ft t => ⟨?_, ?_, ?_, ?_, ?_, fun h => ?_, ?_⟩, fun s d a b t ts => ⟨fun h => ⟨?_, ?_, ?_⟩, fun _ => ?_, ?_, ?_⟩⟩
  · exact next_ofLanesF (format_lanes_fit _)
  · exact next_ofLanesF (format_lanes_fit _)
  · exact ⟨_, rfl, wroteV_wV s d _ _⟩
  · exact next_ofLanesF (by decide)
  · show Next (.next (s.wV d (vDotI8L _ _ _))) _
    rw [vDotI8L_eq]
    exact next_ofLanes (by decide) fun _ _ => rfl
  · show Next (vRes s d (vSumL _ _ _)) _
    rw [vSumL_of_isInt h, vRes_zero]
    exact next_ofLanes ((Nat.mul_one _).trans_le (width_le t)) fun _ _ => rfl
  · exact ⟨_, rfl, wroteV_wV s d _ _⟩
  · exact next_vMap2_flt h
  · exact next_ofLanesF (lanes_fit t)
  · exact next_vMap2_flt h
  · exact next_ofLanesF (converted_lanes_fit t ts)
  · exact next_ofLanesF (by decide)
  · exact next_ofLanesF (by decide)

end Sys2Proof.Laws

/-! SUPPORT. SpecialFunctionUnit: the request that a core with tasks alone offers, the landing of an operation's result with its flags, and O29. -/

namespace Sys2Proof.Laws

open Sys2Proof.Machine Sys2Proof.Safety

/-! ### The offer of a core and its acceptance (R143, R144) -/

/-- The stream's request goes first and the oldest one next: with no stream's request, the oldest is the offer. -/
theorem head?_offer_of_tasks {rs : List SfuReq} {p : SfuReq → Bool} {r : SfuReq} (hr : rs.find? p = some r) (ht : ∀ x ∈ rs, x.strm = false) :
    ((rs.filter p).filter (·.strm) ++ (rs.filter p).filter (fun x => !x.strm)).head? = some r := by
  have htask : ∀ x ∈ rs.filter p, x.strm = false := fun x hx => ht x (List.mem_filter.mp hx).1
  have hnone : (rs.filter p).filter (·.strm) = [] := List.filter_eq_nil_iff.mpr fun x hx => by simp [htask x hx]
  have hall : (rs.filter p).filter (fun x => !x.strm) = rs.filter p := List.filter_eq_self.mpr fun x hx => by simp [htask x hx]
  rw [hnone, hall, List.nil_append, List.head?_filter, hr]

/-- In its layer's cycle the offered request of a task is accepted, charged to its owner, and the threads that wait for an entry are woken. -/
theorem exec_sfuAccept_task {s : State} {o l c : Nat} {r : SfuReq}
    (hr : s.sfu.find? (fun x => x.pl = ⟨o, l, c⟩ && x.land.isNone && decide (x.beat < s.beat)) = some r) (ht : ∀ x ∈ s.sfu, x.strm = false)
    (hc : c / 16 = s.q % 8) : exec (.sfuAccept o l c) s = .next ((State.charge { s with
      sfu := s.sfu.map (fun x => if x.id = r.id then { x with land := some (s.beat + 4) } else x) } o 3 1).wakeParked ⟨o, l, c⟩ .sfu) := by
  have hstrm : r.strm = false := ht r (List.mem_of_find?_eq_some hr)
  show execSfuAccept o l c s = _
  unfold execSfuAccept
  simp only [beq_eq_decide, head?_offer_of_tasks hr ht, hc, hstrm, decide_eq_true_eq, Bool.false_eq_true, if_true, if_false]

/-- Woken are the threads of the place that are parked so (R59). -/
theorem wakeParked_threads (s : State) (p : Place) (k : Park) :
    (s.wakeParked p k).threads = s.threads.map (fun x => if x.pl = p ∧ x.park = k then { x with woken := true } else x) := by
  unfold State.wakeParked
  simp only [Bool.and_eq_true, decide_eq_true_eq]

/-! ### The landing of a result with its flags (R142, R145) -/

/-- The operation with this number lands, where the thread has it. -/
def landById (id : Nat) (t : Thread) : Thread :=
  match t.ops.find? (fun o => o.id == id) with
  | some o => State.landOp t o
  | none => t

theorem landById_uid (id : Nat) (t : Thread) : (landById id t).uid = t.uid := by
  unfold landById
  split
  · exact landOp_uid t _
  · rfl

theorem landById_only {x : Thread} {o : Op} (hops : x.ops = [o]) : landById o.id x = State.landOp x o := by
  have hfind : x.ops.find? (fun p => p.id == o.id) = some o := by rw [hops]; exact List.find?_cons_of_pos (beq_self_eq_true o.id)
  unfold landById
  rw [hfind]

/-- An operation that has its result, with the flags that the result raises. -/
def withResult (o : Op) (res : VWord) (fl : Flags) : Op := { o with res := some res, flags := fl, fault := none }

/-- A register's result reaches the thread's only operation, and nothing else of the thread changes. -/
theorem finished_only {x : Thread} {o : Op} {d : Dest} {res : VWord} {fl : Flags} (hops : x.ops = [o]) (hd : o.dest = some d) :
    finished o.id res fl none x = { x with ops := [withResult o res fl] } := by
  simp [finished, withResult, hops, hd]

/-- The only operation of a task's thread lands as its result comes: its register and FCSR take the result as one write. -/
theorem landById_finished_only {x : Thread} {o : Op} {d : Dest} {res : VWord} {fl : Flags} (hs : x.strm = none) (hops : x.ops = [o])
    (hd : o.dest = some d) (hdisc : o.disc = false) (hrsv : o.rsv = false) : landById o.id (finished o.id res fl none x) =
      withDest { x with ops := [], fcsr := x.fcsr ||| fl.setWidth 64, woken := x.woken || x.park == Park.limit } d res := by
  let o' := withResult o res fl
  let x' : Thread := { x with ops := [o'] }
  have hlanded : landed x' o' = { x with ops := [], fcsr := x.fcsr ||| fl.setWidth 64, woken := x.woken || x.park == Park.limit } := by
    simp [landed, x', o', withResult]
  calc landById o.id (finished o.id res fl none x)
      = landById o'.id x' := by rw [finished_only hops hd]; rfl
    _ = State.landOp x' o' := landById_only rfl
    _ = if o'.disc then landedDiscarded x' o' else withDest (landed x' o') d res := landOp_task hrsv rfl hs hd rfl
    _ = withDest (landed x' o') d res := if_neg (Bool.eq_false_iff.mp hdisc)
    _ = _ := by rw [hlanded]

/-- The bits of FCSR below five are its flags, and flags are ORed into it (R41). -/
theorem getLsbD_fcsr_or (f : Word) (fl : Flags) {n : Nat} (hn : n < 5) :
    (f ||| fl.setWidth 64).getLsbD n = true ↔ f.getLsbD n = true ∨ fl.getLsbD n = true := by
  have hw : n < 64 := by omega
  simp [hw]

/-! ### The four lanes (R142, R149) -/

/-- What a request returns: its function of each of the four lanes, with the union of their flags. -/
def sfuLanes (f : Nat) (a : VWord) : VWord × Flags := ofLanesF 32 4 fun j => sfuLane f (lane 32 a j)

/-- The pipeline computes its lanes as any form over floating lanes does. -/
theorem vMap1_sfuLane (f : Nat) (a : VWord) : vMap1 .f32 (fun y => y) (fun _ y => sfuLane f y) a = sfuLanes f a := vMap2_of_isF rfl

theorem lane_sfuLanes (f : Nat) (a : VWord) {j : Nat} (hj : j < 4) : lane 32 (sfuLanes f a).1 j = (sfuLane f (lane 32 a j)).1 % 2 ^ 32 := by
  obtain ⟨hlane, -⟩ := lanesAre_ofLanes (w := 32) (n := 4) (by decide) fun i => (sfuLane f (lane 32 a i)).1
  rw [sfuLanes, fst_ofLanesF, hlane j hj]

theorem getLsbD_flags_sfuLanes (f : Nat) (a : VWord) (k : Nat) :
    (sfuLanes f a).2.getLsbD k = true ↔ ∃ j, j < 4 ∧ (sfuLane f (lane 32 a j)).2.getLsbD k = true := getLsbD_flags_ofLanesF 32 4 _ k

/-- A task's request whose result is there leaves the unit; its operation takes the result and lands at once. -/
theorem exec_sfuResultLand_task {s : State} {id b : Nat} {r : SfuReq} (hr : s.sfu.find? (fun x => x.id == id) = some r) (hstrm : r.strm = false)
    (hland : r.land = some b) (hb : b ≤ s.beat) : exec (.sfuResultLand id) s =
      .next ((State.modThread { s with sfu := s.sfu.filter (fun z => z.id != id) } r.uid
        (finished id (sfuLanes r.f r.arg).1 (sfuLanes r.f r.arg).2 none)).modThread r.uid (landById id)) := by
  show execSfuResultLand id s = _
  unfold execSfuResultLand
  simp only [hr, hland, hstrm, Nat.not_lt.mpr hb, vMap1_sfuLane, finishOp_eq, Bool.false_eq_true, if_false]
  rfl

/-! ### The statement -/

/-- Settles O29: a core without a stream's request offers its oldest one, and a landing finishes the thread's only operation and writes its register. -/
theorem specialFunctionService : Obligations.SpecialFunctionService := by
  unfold Obligations.SpecialFunctionService
  refine fun s o l c id r => ⟨fun hr ht hc => ?_, fun x y b k hr hstrm hland hb hx hs hops hid hd hdisc hrsv => ?_⟩
  · rw [exec_sfuAccept_task hr ht hc]
    exact next_of ⟨fun _ => rfl, rfl, rfl, owner_charge _ o 3 1, wakeParked_threads _ _ _⟩
  · subst hid
    rw [exec_sfuResultLand_task hr hstrm hland hb]
    obtain ⟨-, -, hfinished, -⟩ := onThread_modThread (s := { s with sfu := s.sfu.filter (fun z => z.id != y.id) }) hx
      (f := finished y.id (sfuLanes r.f r.arg).1 (sfuLanes r.f r.arg).2 none) (fun _ => rfl)
    obtain ⟨-, -, hlanded, -⟩ := onThread_modThread hfinished (landById_uid y.id)
    rw [landById_finished_only hs hops hd hdisc hrsv] at hlanded
    refine next_of ⟨fun _ => by rw [modThread_mem, modThread_mem], by rw [modThread_frame, modThread_frame], _, (sfuLanes r.f r.arg).1, hlanded, rfl,
      fun j hj => lane_sfuLanes r.f r.arg hj, fun n hn => ?_⟩
    exact (getLsbD_fcsr_or _ _ hn).trans (or_congr_right (getLsbD_flags_sfuLanes r.f r.arg n))

end Sys2Proof.Laws

/-! SUPPORT. OwnScratchpad: the bytes of a load as numbers and lanes, what a write leaves in memory, the loads and stores of the own scratchpad, and O13. -/

namespace Sys2Proof.Laws

open Sys2Proof.Machine Sys2Proof.Safety

/-! ### The bytes of a load, as numbers and as lanes (R1, R116, R168) -/

/-- Two words side by side, as one number. -/
theorem toNat_append_add {v w : Nat} (hi : BitVec v) (lo : BitVec w) : (hi ++ lo).toNat = lo.toNat + 2 ^ w * hi.toNat := by
  rw [BitVec.toNat_append, ← Nat.shiftLeft_add_eq_or_of_lt lo.isLt, Nat.shiftLeft_eq]
  ring

/-- A number read little-endian is made of the lanes of eight bits of its bytes. -/
theorem leNat_eq_unlanes (bs : List Byte) : leNat bs = unlanes 8 (bs.map (·.toNat)) := by
  induction bs with
  | nil => rfl
  | cons b bs ih => rw [leNat, List.map_cons, unlanes, ih, Nat.mod_eq_of_lt b.isLt]; rfl

theorem unlanes_concat (w : Nat) (xs : List Nat) (y : Nat) : unlanes w (xs ++ [y]) = unlanes w xs + y % 2 ^ w * 2 ^ (w * xs.length) := by
  induction xs with
  | nil => simp [unlanes]
  | cons x xs ih =>
    rw [List.cons_append, unlanes, unlanes, ih, List.length_cons]
    ring

/-- The sum that a broadcast load forms has the value in each of its lanes. -/
theorem foldl_broadcast (w x n : Nat) :
    (List.range n).foldl (fun a j => a + x % 2 ^ w * 2 ^ (w * j)) 0 = unlanes w ((List.range n).map fun _ => x) := by
  induction n with
  | zero => rfl
  | succ n ih => rw [List.range_succ, List.foldl_append, List.map_append, ih, List.map_singleton, unlanes_concat, List.length_map, List.length_range]; rfl

/-- A vector load takes a byte in each lane of eight bits. -/
theorem loadVal_vec (m : Mem) (k : Nat) : loadVal .vec (m.read k 16) = ofLanes 8 16 fun j => (m.getB (k + j)).toNat := by
  show BitVec.ofNat 128 (leNat (m.read k 16)) = _
  rw [leNat_eq_unlanes, read_eq, List.map_map]
  rfl

/-- A broadcast load takes the number that was read in every lane. -/
theorem loadVal_bc (w : Nat) (bs : List Byte) : loadVal (.bc w) bs = ofLanes w (128 / w) fun _ => leNat bs := congrArg (BitVec.ofNat 128) (foldl_broadcast w (leNat bs) (128 / w))

/-- A scalar load without a sign takes the number that was read. -/
theorem loadVal_zx {w : Nat} {bs : List Byte} {x : BitVec w} (hx : leNat bs = x.toNat) : (loadVal .zx bs).setWidth 64 = x.setWidth 64 := by
  apply BitVec.eq_of_toNat_eq
  simp [loadVal, hx]

/-- The sign of a number of w bits is its highest bit. -/
theorem toInt_eq_of_bit {w : Nat} (x : BitVec w) (hw : 0 < w) : x.toInt = if bit x.toNat (w - 1) then (x.toNat : Int) - 2 ^ w else x.toNat := by
  obtain ⟨v, rfl⟩ : ∃ v, w = v + 1 := ⟨w - 1, by omega⟩
  have hlt := x.isLt
  have hbit : bit x.toNat v = decide (2 ^ v ≤ x.toNat) := by
    rw [Bool.eq_iff_iff]
    simp only [bit, beq_iff_eq, decide_eq_true_eq]
    have hq : x.toNat / 2 ^ v < 2 := Nat.div_lt_of_lt_mul (by rw [← Nat.pow_succ]; exact hlt)
    rw [Nat.mod_eq_of_lt hq]
    constructor
    · intro h; by_contra hn; rw [Nat.div_eq_of_lt (by omega)] at h; omega
    · intro h; have := (Nat.one_le_div_iff (by positivity)).mpr h; omega
  rw [BitVec.toInt_eq_toNat_cond, Nat.add_sub_cancel, hbit]
  rw [Nat.pow_succ] at hlt ⊢
  by_cases h : 2 ^ v ≤ x.toNat
  · rw [if_neg (by omega), if_pos (by simpa using h)]; push_cast; ring
  · rw [if_pos (by omega), if_neg (by simpa using h)]

/-- A scalar load with a sign extends the number that was read. -/
theorem loadVal_sx {w : Nat} {bs : List Byte} {x : BitVec w} (hx : leNat bs = x.toNat) (hl : 8 * bs.length = w) (h0 : 0 < w) :
    (loadVal .sx bs).setWidth 64 = x.signExtend 64 := by
  have hv : loadVal .sx bs = BitVec.ofNat 128 (BitVec.ofInt 64 x.toInt).toNat := by
    rw [toInt_eq_of_bit x h0, ← hx]
    unfold loadVal
    rw [← hl]
  rw [hv, BitVec.signExtend]
  apply BitVec.eq_of_toNat_eq
  rw [BitVec.toNat_setWidth, BitVec.toNat_ofNat]
  have := (BitVec.ofInt 64 x.toInt).isLt
  omega

/-- A read is the numbers of its two parts side by side, the lower part first (R1). -/
theorem leNat_read_add (m : Mem) (n : Nat) : ∀ k j, leNat (m.read k (n + j)) = leNat (m.read k n) + 256 ^ n * leNat (m.read (k + n) j) := by
  induction n with
  | zero => intro k j; simp [Mem.read, leNat]
  | succ n ih =>
    intro k j
    rw [Nat.succ_add, Mem.read, Mem.read, leNat, leNat, ih, Nat.pow_succ, Nat.add_assoc k 1 n, Nat.add_comm 1 n]
    ring

theorem leNat_read_one (m : Mem) (k : Nat) : leNat (m.read k 1) = (m.getB k).toNat := rfl

theorem leNat_read_pair {m : Mem} {k n w : Nat} {lo hi : BitVec w} (hw : 256 ^ n = 2 ^ w) (hlo : leNat (m.read k n) = lo.toNat)
    (hhi : leNat (m.read (k + n) n) = hi.toNat) : leNat (m.read k (n + n)) = (hi ++ lo).toNat := by
  rw [leNat_read_add, toNat_append_add, hlo, hhi, hw]

theorem leNat_read_two (m : Mem) (k : Nat) : leNat (m.read k 2) = (m.getB (k + 1) ++ m.getB k).toNat :=
  leNat_read_pair (n := 1) rfl (leNat_read_one m k) (leNat_read_one m (k + 1))

theorem leNat_read_four (m : Mem) (k : Nat) :
    leNat (m.read k 4) = ((m.getB (k + 3) ++ m.getB (k + 2) : BitVec 16) ++ (m.getB (k + 1) ++ m.getB k : BitVec 16)).toNat :=
  leNat_read_pair (n := 2) rfl (leNat_read_two m k) (leNat_read_two m (k + 2))

theorem leNat_read_eight (m : Mem) (k : Nat) :
    leNat (m.read k 8) = (((m.getB (k + 7) ++ m.getB (k + 6) : BitVec 16) ++ (m.getB (k + 5) ++ m.getB (k + 4) : BitVec 16) : BitVec 32) ++
      ((m.getB (k + 3) ++ m.getB (k + 2) : BitVec 16) ++ (m.getB (k + 1) ++ m.getB k : BitVec 16) : BitVec 32)).toNat :=
  leNat_read_pair (n := 4) rfl (leNat_read_four m k) (leNat_read_four m (k + 4))

/-- The low n bytes of a register are its fields of eight bits, lowest first (R168). -/
theorem leBytes_toNat {w : Nat} (x : BitVec w) (n : Nat) : leBytes n x.toNat = (List.range n).map fun k => x.extractLsb' (8 * k) 8 := by
  have key : ∀ n y, leBytes n y = (List.range n).map fun k => BitVec.ofNat 8 (y / 256 ^ k) := by
    intro n
    induction n with
    | zero => exact fun _ => rfl
    | succ n ih =>
      intro y
      rw [leBytes, ih, List.range_succ_eq_map, List.map_cons, List.map_map, Nat.pow_zero, Nat.div_one]
      congr 1
      refine List.map_congr_left fun k _ => ?_
      rw [Function.comp, Nat.pow_succ', Nat.div_div_eq_div_mul]
  rw [key]
  refine List.map_congr_left fun k _ => BitVec.eq_of_toNat_eq ?_
  rw [BitVec.toNat_ofNat, BitVec.extractLsb'_toNat, Nat.shiftRight_eq_div_pow, Nat.pow_mul]

/-! ### What a write leaves in memory -/

/-- A run of bytes written over the cells of a state stands there at its keys, and every other byte reads as before. -/
theorem stored_write {s t : State} {m : Mem} {key : Nat} {bs : List Byte} (hm : MemOk s) (hc : m.cells = s.mem.cells) (h : t.mem = m.write key bs) :
    Stored s t key bs := by
  have hwf : m.wf = true := (wf_congr hc).trans hm
  refine ⟨fun i hi => ?_, fun a ha => ?_⟩
  · rw [h, getB_write bs m key _ hwf, if_pos (by omega), Nat.add_sub_cancel_left]
  · rw [h, getB_write bs m key _ hwf, if_neg (by omega), getB_congr hc]

/-! ### Accesses to the own scratchpad (R158, R165, R199, R266) -/

section
variable {s : State} {ea : Addr} {n off : Nat} {f : LdFmt} {d : Dest}

/-- An access to the own scratchpad resolves there. -/
theorem resolve_own {u : State.Use} (h : OwnScratch s ea n off) (hu : u = .load ∨ u = .store) : s.resolve ea n u = .at (.scr s.me.pl off) := by
  obtain ⟨-, halign, hregion, -, -, -⟩ := h
  exact resolve_scr halign hregion hu

/-- No acquire and no reduction of the thread holds it. -/
theorem withOwn_own (h : OwnScratch s ea n off) (k : Res) : s.withOwn off n k = k := by
  obtain ⟨-, -, -, -, hacq, hred⟩ := h
  unfold State.withOwn
  rw [hacq, hred]
  rfl

/-- No channel holds it. -/
theorem withChan_own (h : OwnScratch s ea n off) (k : Res) : s.withChan off n ea k = k := by
  obtain ⟨-, -, -, hchan, -, -⟩ := h
  unfold State.withChan State.chanCheck
  rw [hchan]

/-- A load of the own scratchpad is short (R158). -/
theorem loadForm_own (h : OwnScratch s ea n off) (tag : Option (BitVec 16)) : s.loadForm ea n f d tag = s.shortLoad ea off n f d tag := by
  unfold State.loadForm
  simp only [h.1]
  rw [withLoc_at (resolve_own h (.inl rfl))]
  simp only [if_true]

/-- With its tag in agreement and its sector good, a short load ends the run and writes its destination. -/
theorem shortLoad_reads {tag : Option (BitVec 16)} (h : OwnScratch s ea n off) (ht : ∀ t ∈ tag, s.mem.tag (scrKey s.me.pl off) = t)
    (hp : s.mem.poisoned (scrKey s.me.pl off) = false) :
    s.shortLoad ea off n f d tag = .next ((s.modMe fun t => { t with run := 0 }).wDest d (loadVal f (s.mem.read (scrKey s.me.pl off) n))) := by
  unfold State.shortLoad
  rw [withOwn_own h, withChan_own h]
  cases tag with
  | none => simp only [hp, Bool.false_eq_true, if_false]
  | some t => simp only [ht t rfl, hp, bne_self_eq_false, Bool.false_eq_true, if_false]

/-- A tag that disagrees is a fault before the mark of the sector is looked at (log 97). -/
theorem shortLoad_mismatch {t : BitVec 16} (h : OwnScratch s ea n off) (ht : s.mem.tag (scrKey s.me.pl off) ≠ t) :
    s.shortLoad ea off n f d (some t) = .next (s.raise 8 1 ea) := by
  unfold State.shortLoad
  rw [withOwn_own h, withChan_own h]
  exact if_pos (bne_iff_ne.mpr ht)

/-- A poisoned sector is a fault where the tag agrees. -/
theorem shortLoad_poisoned {t : BitVec 16} (h : OwnScratch s ea n off) (ht : s.mem.tag (scrKey s.me.pl off) = t)
    (hp : s.mem.poisoned (scrKey s.me.pl off) = true) : s.shortLoad ea off n f d (some t) = .next (s.raise 9 0 ea) := by
  unfold State.shortLoad
  rw [withOwn_own h, withChan_own h]
  simp only [ht, hp, bne_self_eq_false, Bool.false_eq_true, if_false, if_true]

/-- A plain load of the own scratchpad takes its bytes as it issues (R158, R168). -/
theorem loadForm_reads (h : OwnScratch s ea n off) (hp : s.mem.poisoned (scrKey s.me.pl off) = false) :
    s.loadForm ea n f d none = .next (State.wDest { s with me := { s.me with run := 0 } } d (loadVal f (s.mem.read (scrKey s.me.pl off) n))) :=
  (loadForm_own h none).trans (shortLoad_reads h nofun hp)

/-- A scalar load of the own scratchpad writes s[d] with what its form makes of the bytes. -/
theorem scalarLoad_reads {k : Fin 16} {x : Word} (hp : s.mem.poisoned (scrKey s.me.pl off) = false) (hx : (loadVal f (s.mem.read (scrKey s.me.pl off) n)).setWidth 64 = x)
    (h : OwnScratch s ea n off) : Next (s.loadForm ea n f (.s k) none) (fun t => WroteS { s with me := { s.me with run := 0 } } t k x) := by
  rw [loadForm_reads h hp]
  exact next_wS hx

/-- A vector load of the own scratchpad writes v[d] with the lanes that its form makes of the bytes. -/
theorem vectorLoad_reads {k : Fin 16} {w m : Nat} {g : Nat → Nat} (hp : s.mem.poisoned (scrKey s.me.pl off) = false)
    (hx : loadVal f (s.mem.read (scrKey s.me.pl off) n) = ofLanes w m g) (hw : w * m ≤ 128) (hg : ∀ j, g j < 2 ^ w) (h : OwnScratch s ea n off) :
    Next (s.loadForm ea n f (.v k) none) (fun t => ∃ r, WroteV { s with me := { s.me with run := 0 } } t k r 0 ∧ ∀ j, j < m → lane w r j = g j) := by
  obtain ⟨hlane, -⟩ := lanesAre_ofLanes hw g
  rw [loadForm_reads h hp, hx]
  exact next_of ⟨_, wroteV_wV0 _ k _, fun j hj => (hlane j hj).trans (Nat.mod_eq_of_lt (hg j))⟩

/-- A broadcast load writes the number in every lane. -/
theorem broadcastLoad_reads {k : Fin 16} {w m : Nat} {x : BitVec w} (hp : s.mem.poisoned (scrKey s.me.pl off) = false)
    (hx : leNat (s.mem.read (scrKey s.me.pl off) n) = x.toNat) (hm : 128 / w = m) (h : OwnScratch s ea n off) :
    Next (s.loadForm ea n (.bc w) (.v k) none) (fun t => ∃ r, WroteV { s with me := { s.me with run := 0 } } t k r 0 ∧ ∀ j, j < m → lane w r j = x.toNat) :=
  vectorLoad_reads hp (by rw [loadVal_bc, hx, hm]) (hm ▸ Nat.mul_div_le 128 w) (fun _ => x.isLt) h

/-- A store to the own scratchpad is performed as it issues (R158). -/
theorem storeForm_own {bs : List Byte} (h : OwnScratch s ea bs.length off) :
    s.storeForm ea bs = .next (s.modMem fun m => m.write (scrKey s.me.pl off) bs) := by
  unfold State.storeForm
  simp only [h.1]
  rw [withLoc_at (resolve_own h (.inr rfl))]
  simp only [if_true]
  rw [withOwn_own h, withChan_own h]

/-- Its bytes land at their keys, and nothing else of the state changes. -/
theorem storeForm_stores {bs : List Byte} (hm : MemOk s) (h : OwnScratch s ea bs.length off) : Next (s.storeForm ea bs) (fun t =>
    t = { s with mem := { s.mem with cells := t.mem.cells } } ∧ Stored s t (scrKey s.me.pl off) bs) := by
  rw [storeForm_own h]
  refine next_of ⟨?_, stored_write hm rfl rfl⟩
  show { s with mem := s.mem.write _ bs } = _
  rw [write_frame]
  rfl

end

/-! ### The statement -/

/-- Settles O13: every load of the own scratchpad is short and writes what its form makes of the bytes, every store is one write of its bytes. -/
theorem ownScratchpadAccesses : Obligations.OwnScratchpadAccesses := by
  unfold Obligations.OwnScratchpadAccesses
  refine ⟨?_, ?_⟩
  · intro s d a i off ea e0 k m h w x u hp
    have hb : leNat (s.mem.read k 1) = (m 0).toNat := leNat_read_one s.mem k
    have hh : leNat (s.mem.read k 2) = h.toNat := leNat_read_two s.mem k
    have hw : leNat (s.mem.read k 4) = w.toNat := leNat_read_four s.mem k
    have hx : leNat (s.mem.read k 8) = x.toNat := leNat_read_eight s.mem k
    have hlen : ∀ n, 8 * (s.mem.read k n).length = 8 * n := fun n => by rw [read_length]
    exact ⟨fun ho => ⟨scalarLoad_reads hp (loadVal_sx hb (hlen 1) (by decide)) ho, scalarLoad_reads hp (loadVal_zx hb) ho⟩,
      fun ho => ⟨scalarLoad_reads hp (loadVal_sx hh (hlen 2) (by decide)) ho, scalarLoad_reads hp (loadVal_zx hh) ho⟩,
      fun ho => ⟨scalarLoad_reads hp (loadVal_sx hw (hlen 4) (by decide)) ho, scalarLoad_reads hp (loadVal_zx hw) ho⟩,
      scalarLoad_reads hp ((loadVal_sx hx (hlen 8) (by decide)).trans (BitVec.signExtend_eq x)),
      vectorLoad_reads hp (loadVal_vec s.mem k) (by decide) (fun j => (m j).isLt),
      broadcastLoad_reads hp hb rfl, broadcastLoad_reads hp hh rfl, broadcastLoad_reads hp hw rfl, broadcastLoad_reads hp hx rfl⟩
  · intro s d a i off hm ea x p hp ho
    have hs : p ∈ plainStores s d a i := by
      simpa only [plainStores, leBytes_toNat] using hp
    rw [exec_plainStores s d a i p hs]
    exact storeForm_stores hm ho

end Sys2Proof.Laws

/-! SUPPORT. TaggedTimed: tagged and timed loads, the fault of a misaligned access, and O15. -/

namespace Sys2Proof.Laws

open Sys2Proof.Machine Sys2Proof.Safety

/-! ### Tagged and timed loads (R169, R170) -/

section
variable {s : State} {ea : Addr} {n off : Nat} {f : LdFmt} {d : Dest}

/-- vldk on a byte of the own scratchpad is a short load with its tag (R169). -/
theorem vldkForm_own {tag : BitVec 16} (h : OwnScratch s ea 16 off) : s.vldkForm ea d tag = s.shortLoad ea off 16 .vec d (some tag) := by
  unfold State.vldkForm
  obtain ⟨-, -, hregion, -⟩ := id h
  simp only [hregion]
  exact loadForm_own h (some tag)

theorem vldkForm_reads {k : Fin 16} {tag : BitVec 16} (h : OwnScratch s ea 16 off) (ht : s.mem.tag (scrKey s.me.pl off) = tag)
    (hp : s.mem.poisoned (scrKey s.me.pl off) = false) : Next (s.vldkForm ea (.v k) tag) (fun t =>
      ∃ r, WroteV { s with me := { s.me with run := 0 } } t k r 0 ∧ ∀ j, j < 16 → lane 8 r j = (s.mem.getB (scrKey s.me.pl off + j)).toNat) := by
  have hread := shortLoad_reads (f := .vec) (d := .v k) h (fun t e => Option.some.inj e ▸ ht) hp
  exact next_of_eq ((vldkForm_own h).trans (hread.trans (loadForm_reads h hp).symm)) (vectorLoad_reads hp (loadVal_vec s.mem _) (by decide)
    (fun j => (s.mem.getB (_ + j)).isLt) h)

/-- A timed load with a due is long and sets out from where it resolves, its own scratchpad included; it ends the run (R159, R170). -/
theorem timedLoad_own {u : BitVec 12} (hs : s.me.strm = none) (h : OwnScratch s ea n off) (hu : u ≠ 0) (hr : OpRoom s) :
    s.timedLoad ea n f d u = (s.modMe fun t => { t with run := 0 }).longLoad ea n f d none (s.dueAt u.toNat) (.scr s.me.pl off) := by
  unfold State.timedLoad
  rw [if_neg hu, withLoc_at (resolve_own h (.inl rfl))]
  simp only [if_true]
  rw [withChan_own h, if_neg (by simp [atLimit_of_room hs hr])]

/-- A long load with any due sets out where there is room for its operation. -/
theorem longLoad_timed {due : Option Nat} {l : Loc} (hs : s.me.strm = none) (hr : OpRoom s) : Next (s.longLoad ea n f d none due l)
    (fun t => Issued s t (fun o => o.dest = some d ∧ o.counts = true ∧ o.ea = ea) (.load n f none) l) := by
  unfold State.longLoad
  rw [if_neg (by simp [atLimit_of_room hs hr])]
  exact next_of (issued_issueOp s _ _ l ea _ ⟨rfl, rfl, rfl⟩ rfl rfl rfl rfl)

theorem timedLoad_issues {u : BitVec 12} (hs : s.me.strm = none) (hu : u ≠ 0) (hr : OpRoom s) (h : OwnScratch s ea n off) :
    Next (s.timedLoad ea n f d u) (fun t => Issued { s with me := { s.me with run := 0 } } t (fun o => o.dest = some d ∧ o.counts = true ∧ o.ea = ea)
      (.load n f none) (.scr s.me.pl off)) :=
  next_of_eq (timedLoad_own hs h hu hr) (longLoad_timed (s := { s with me := { s.me with run := 0 } }) hs hr)

/-- A due of 0 is an operand fault (R170). -/
theorem timedLoad_due_zero (ea : Addr) (n : Nat) (f : LdFmt) (d : Dest) (h : PlainTask s) : Next (s.timedLoad ea n f d 0) (fun t => TookFault s t 2 3 s.iss.b s.iss.b) :=
  next_of_eq (if_pos rfl) (next_raise h)

end

/-! ### Misaligned accesses (R174, R189) -/

/-- The bundle at which a fault of the thread is precise: its own, or that of the areg whose region is open (R82, R189). -/
def faultAt (s : State) : Addr := match s.me.region with | some r => r.b | none => s.iss.b

section
variable {s : State} {ea : Addr} {n : Nat}

/-- Alignment stands before all else of the address (R174). -/
theorem withLoc_misaligned (ha : ea.toNat % n ≠ 0) (u : State.Use) (k : State → Loc → Res) : s.withLoc ea n u k = .next (s.raise 3 0 ea) := by
  have hres : s.resolve ea n u = .flt 3 0 := if_pos (bne_iff_ne.mpr ha)
  unfold State.withLoc
  rw [hres]
  rfl

theorem loadForm_misaligned (ha : ea.toNat % n ≠ 0) (f : LdFmt) (d : Dest) (tag : Option (BitVec 16)) : s.loadForm ea n f d tag = .next (s.raise 3 0 ea) := by
  unfold State.loadForm
  cases s.me.region with
  | none => exact withLoc_misaligned ha _ _
  | some r => exact withLoc_misaligned ha _ _

theorem storeForm_misaligned {bs : List Byte} (ha : ea.toNat % bs.length ≠ 0) : s.storeForm ea bs = .next (s.raise 3 0 ea) := by
  unfold State.storeForm
  cases s.me.region with
  | none => exact withLoc_misaligned ha _ _
  | some r => exact withLoc_misaligned ha _ _

/-- A region none of whose results has landed since breaks without a register write (R189). -/
theorem breakRegion_regs {t : Thread} (h : ∀ r, t.region = some r → r.late = []) : t.breakRegion.s = t.s ∧ t.breakRegion.v = t.v := by
  unfold Thread.breakRegion
  cases hr : t.region with
  | none => exact ⟨rfl, rfl⟩
  | some r => dsimp only; rw [h r hr]; exact ⟨rfl, rfl⟩

/-- A fault that is taken leaves the registers and the region; the thread ends as failed with it, or stands at its handler. -/
theorem takeFault_outcome (t : Thread) (f : FaultRec) : (t.takeFault f).region = t.region ∧ (t.takeFault f).s = t.s ∧ (t.takeFault f).v = t.v ∧
    (t.trapb = 0 ∨ t.fcode ≠ 0 → (t.takeFault f).park = .dead f) ∧
    (¬(t.trapb = 0 ∨ t.fcode ≠ 0) → (t.takeFault f).pc = t.trapb ∧ (t.takeFault f).fcode = BitVec.ofNat 16 (f.code + f.sub * 256) ∧
      (t.takeFault f).fpc = f.fpc &&& ~~~3#48 ∧ (t.takeFault f).faddr = f.faddr) := by
  obtain ⟨hc, e⟩ | ⟨⟨h0, h1⟩, e⟩ := takeFault_cases t f <;> rw [e]
  · exact ⟨rfl, rfl, rfl, fun _ => rfl, fun hn => absurd hc hn⟩
  · exact ⟨rfl, rfl, rfl, fun hc => absurd hc (not_or.mpr ⟨h0, not_not.mpr h1⟩), fun _ => ⟨rfl, rfl, rfl, rfl⟩⟩

/-- A fault of a task is taken at the bundle, or at the areg of the region that it breaks. -/
theorem raise_task (hs : s.me.strm = none) (c n : Nat) (a : Addr) : (s.raise c n a).me =
    { s.me.breakRegion with pc := faultAt s }.takeFault { op := s.newId, code := c, sub := n, fpc := faultAt s, faddr := a } := by
  unfold State.raise
  rw [hs]
  rfl

/-- What a misaligned access leaves: no region, every byte, the registers but for results that a region gives back, and the fault. -/
theorem misaligned_raise (hs : s.me.strm = none) : let t := s.raise 3 0 ea
    t.me.region = none ∧ SameBytes s t ∧ ((∀ r, s.me.region = some r → r.late = []) → t.me.s = s.me.s ∧ t.me.v = s.me.v) ∧
      (if s.me.trapb = 0 ∨ s.me.fcode ≠ 0 then ∃ f : FaultRec, t.me.park = .dead f ∧ f.code = 3 ∧ f.sub = 0 ∧ f.fpc = faultAt s ∧ f.faddr = ea
       else t.me.pc = s.me.trapb ∧ t.me.fcode = 3 ∧ t.me.fpc = faultAt s &&& ~~~3#48 ∧ t.me.faddr = ea) := by
  have hframe := breakRegion_frame s.me
  obtain ⟨hregion, hs', hv, hdead, hhandler⟩ := takeFault_outcome { s.me.breakRegion with pc := faultAt s } { op := s.newId, code := 3, sub := 0, fpc := faultAt s, faddr := ea }
  intro t
  have hme : t.me = _ := raise_task hs 3 0 ea
  rw [hme]
  refine ⟨hregion.trans (by rw [hframe]), fun a => by rw [raise_mem], fun hlate => ?_, ?_⟩
  · obtain ⟨h1, h2⟩ := breakRegion_regs hlate
    exact ⟨hs'.trans h1, hv.trans h2⟩
  · have htrapb : s.me.breakRegion.trapb = s.me.trapb := by rw [hframe]
    have hfcode : s.me.breakRegion.fcode = s.me.fcode := by rw [hframe]
    by_cases hc : s.me.trapb = 0 ∨ s.me.fcode ≠ 0
    · rw [if_pos hc]
      rw [← htrapb, ← hfcode] at hc
      exact ⟨_, hdead hc, rfl, rfl, rfl, rfl⟩
    · rw [if_neg hc]
      rw [← htrapb, ← hfcode] at hc
      obtain ⟨hpc, hcode, hfpc, hfaddr⟩ := hhandler hc
      exact ⟨hpc.trans htrapb, hcode.trans (show BitVec.ofNat 16 (3 + 0 * 256) = 3 from rfl), hfpc, hfaddr⟩

end

/-- The plain accesses that an address can misalign, with their sizes. -/
def sizedAccesses (d a : Fin 16) (i : BitVec 12) : List (Instr × Nat) :=
  [(.ldH d a i, 2), (.ldW d a i, 4), (.ldD d a i, 8), (.ldnH d a i, 2), (.ldnW d a i, 4), (.vld d a i, 16), (.stH d a i, 2), (.stW d a i, 4),
    (.stD d a i, 8), (.vst d a i, 16)]

/-- Each of them faults at a misaligned address, whatever else the address is. -/
theorem exec_misaligned (s : State) (d a : Fin 16) (i : BitVec 12) : ∀ p ∈ sizedAccesses d a i, (eaOff (s.rS a) i).toNat % p.2 ≠ 0 →
    exec p.1 s = .next (s.raise 3 0 (eaOff (s.rS a) i)) := by
  unfold sizedAccesses
  simp only [List.forall_mem_cons]
  exact ⟨fun h => loadForm_misaligned h _ _ _, fun h => loadForm_misaligned h _ _ _, fun h => loadForm_misaligned h _ _ _, fun h => loadForm_misaligned h _ _ _,
    fun h => loadForm_misaligned h _ _ _, fun h => loadForm_misaligned h _ _ _, fun h => storeForm_misaligned (bs := s.sBytes d 2) h,
    fun h => storeForm_misaligned (bs := s.sBytes d 4) h, fun h => storeForm_misaligned (bs := s.sBytes d 8) h,
    fun h => storeForm_misaligned (bs := s.vBytes d) h, List.forall_mem_nil _⟩

/-! ### The statement -/

/-- Settles O15: a tagged load is a short load that tests its tag first, a timed load is a long load, and a misaligned access raises its fault before it resolves. -/
theorem taggedTimedMisaligned : Obligations.TaggedTimedMisaligned := by
  unfold Obligations.TaggedTimedMisaligned
  refine ⟨?_, ?_⟩
  · intro s d a b n off ea k u hs
    have htask : ∀ {m : Nat}, OwnScratch s ea m off → PlainTask s := fun h => ⟨hs, h.1⟩
    refine ⟨fun ho ht hp => vldkForm_reads ho ht hp, fun ho ht _ => ?_, fun ho ht hp => ?_, fun ho ht _ => ?_, fun ho hn hr => timedLoad_issues hs hn hr ho,
      fun ho hn hr => timedLoad_issues hs hn hr ho, fun hregion => ⟨timedLoad_due_zero (ea0 (s.rS a)) 8 .zx (.s d) ⟨hs, hregion⟩, timedLoad_due_zero (ea0 (s.rS a)) 16 .vec (.v d) ⟨hs, hregion⟩⟩⟩
    · exact next_of_eq ((vldkForm_own ho).trans (shortLoad_mismatch ho ht)) (next_raise (htask ho))
    · exact next_of_eq ((vldkForm_own ho).trans (shortLoad_poisoned ho ht hp)) (next_raise (htask ho))
    · exact next_mono (next_of_eq ((vldkForm_own ho).trans (shortLoad_mismatch ho ht)) (next_raise (htask ho))) fun _ => .inl
  · intro s d a i hs ea at_ p hp ha
    rw [exec_misaligned s d a i p hp ha]
    exact next_of (misaligned_raise hs)

end Sys2Proof.Laws

/-! SUPPORT. AtHome: what settling leaves, prefetches, fences and steps, and O16; answers, loads and stores performed at their home, and O30. -/

namespace Sys2Proof.Laws

open Sys2Proof.Machine Sys2Proof.Safety

/-! ### What settling leaves (R163, R305 to R307, R434) -/

section
variable {s t : State}

theorem settles_ite {c : Prop} [Decidable c] {u : State} (ht : Settles s t) (hu : Settles s u) : Settles s (if c then t else u) := by
  split
  · exact ht
  · exact hu

/-- A fill of an L1 line settles caches and draws. -/
theorem settles_fillL1 (s : State) (p : Place) (ea : Addr) (l : Loc) : Settles s (s.fillL1 p ea l) := by
  unfold State.fillL1
  split
  · exact settles_refl s
  · dsimp only
    exact settles_ite (settles_refl s) (settles_trans (settles_modLine s _ _) (settles_ite (settles_of rfl rfl) (settles_of rfl rfl)))

/-- What settles reads every byte as before. -/
theorem sameBytes_of_settles (h : Settles s t) : SameBytes s t := fun a => by rw [h.1]; rfl

theorem cells_of_settles (h : Settles s t) : t.mem.cells = s.mem.cells := by rw [h.1]; rfl

/-- What settles leaves every thread and the network. -/
theorem thread?_of_settles (h : Settles s t) (u : Nat) : t.thread? u = s.thread? u := by rw [h.1]; rfl

theorem net_of_settles (h : Settles s t) : t.net = s.net := by rw [h.1]; rfl

/-- No key of a location turns on what settles: the owners' descriptors are as before. -/
theorem locKey_of_settles (h : Settles s t) (l : Loc) : t.locKey l = s.locKey l := by
  have hdesc : ∀ o, (t.owner o).desc = (s.owner o).desc := fun o => by rw [h.2 o]
  cases l <;> simp only [State.locKey, State.dramKey, hdesc]

theorem lostKey_of_settles (h : Settles s t) (k : Nat) : t.lostKey k = s.lostKey k := by rw [h.1]; rfl

end

/-! ### Prefetches, fences, steps (R171, R172, R408) -/

theorem settles_pref (s : State) (a : Fin 16) : Next (execPref a s) (Settles s) := by
  unfold execPref
  dsimp only
  split
  · exact next_of (settles_trans (settles_chargeMem s _ _) (settles_fillL1 _ _ _ _))
  · exact next_of (settles_refl s)

theorem settles_prefR (s : State) (a : Fin 16) : Next (execPrefR a s) (Settles s) := by
  unfold execPrefR
  split
  · exact next_of (settles_chargeKept s _)
  · exact next_of (settles_refl s)

/-- The fences with their scopes. -/
def fences : List (Instr × Nat) := [(.fenceK, 0), (.fenceS, 1), (.fenceO, 2), (.fenceY, 3)]

theorem exec_fences (s : State) : ∀ p ∈ fences, exec p.1 s = .next (s.parkAfter (.fence p.2)) := by
  unfold fences
  simp only [List.forall_mem_cons]
  exact ⟨rfl, rfl, rfl, rfl, List.forall_mem_nil _⟩

/-- areg opens a region where its number of words and its bundle allow it (R188, R189). -/
theorem execAreg_opens {s : State} {n : Fin 16} (h1 : 1 ≤ n.val) (h8 : n.val ≤ 8) (hp : s.iss.pair = false) : execAreg n s =
    .next (State.bump (s.modMe fun t => { t with region := some { b := s.iss.b, left := n.val, wait := false, words := [], grp := s.newId } })) := by
  unfold execAreg
  rw [if_neg (by simp only [Bool.or_eq_true, decide_eq_true_eq]; omega), hp]
  rfl

theorem execStep_parks {s : State} (hr : s.me.resv = .none) (hf : s.me.fcode = 0) : execStep s = .next (s.parkAfter .step) := by
  unfold execStep
  rw [hr, hf]
  rfl

theorem execStep_faults {s : State} (h : s.me.resv ≠ .none ∨ s.me.fcode ≠ 0) : execStep s = .next (s.raise 2 6 s.iss.b) := by
  unfold execStep
  exact if_pos (by simpa using h)

/-- Settles O16: a prefetch settles caches and counters, a fence and a step park, areg opens its region. -/
theorem prefetchFenceRegionStep : Obligations.PrefetchFenceRegionStep := by
  unfold Obligations.PrefetchFenceRegionStep
  intro s a n
  refine ⟨next_mono (settles_pref s a) fun t h => ⟨h, sameBytes_of_settles h⟩, next_mono (settles_prefR s a) fun t h => ⟨h, sameBytes_of_settles h⟩, fun p hp => ?_,
    fun h1 h8 hpair => execAreg_opens h1 h8 hpair, fun hr hf => ?_, fun htask h => ?_⟩
  · exact next_of_eq (exec_fences s p hp) (next_of (parked_parkAfter s _))
  · exact next_of_eq (execStep_parks hr hf) (next_of (parked_parkAfter s _))
  · exact next_of_eq (execStep_faults h) (next_raise htask)

/-! ### Answers (R345) -/

section
variable {s s' : State} {r : Req}

/-- An answer from a state with the same threads and the same network is an answer. -/
theorem answered_of_same (hn : s'.net = s.net) (ht : ∀ u, s'.thread? u = s.thread? u) (res : VWord) : Answered s (s'.answer r res none) r res := by
  have h := answered_answer s' r res
  unfold Answered AnsweredAs at h ⊢
  simpa only [hn, ht] using h

/-- A request that ends with a fault has left; its thread keeps its registers, and the operation behind it has the fault. -/
def AnsweredFault (s t : State) (r : Req) (code sub : Nat) : Prop :=
  t.net = s.net.filter (fun x => x.id != r.id) ∧ ∀ x, s.thread? r.uid = some x → ∃ y, t.thread? r.uid = some y ∧ y.s = x.s ∧ y.v = x.v ∧
    ∀ o ∈ x.ops, o.id = r.id → o.dest ≠ none →
      ∃ g : FaultRec, g.code = code ∧ g.sub = sub ∧ g.fpc = r.fpc ∧ g.faddr = r.ea ∧ { o with res := some 0, flags := 0, fault := some g } ∈ y.ops

theorem answeredFault_answer (s : State) (r : Req) (code sub : Nat) : AnsweredFault s (s.answer r 0 (State.reqFault r code sub)) r code sub := by
  unfold AnsweredFault State.answer
  rw [finishOp_eq]
  refine ⟨by rw [modThread_frame], fun x hx => ⟨finished r.id 0 0 (State.reqFault r code sub) x, ?_, rfl, rfl, fun o ho hi hd => ?_⟩⟩
  · rw [thread?_modThread _ _ _ (finished r.id 0 0 _) (fun _ => rfl), if_pos rfl]
    exact congrArg (Option.map _) hx
  · refine ⟨{ op := r.id, code := code, sub := sub, fpc := r.fpc, faddr := r.ea }, rfl, rfl, rfl, rfl, List.mem_filter.mpr ⟨List.mem_map.mpr ⟨o, ho, if_pos hi⟩, ?_⟩⟩
    cases hdest : o.dest with
    | none => exact absurd hdest hd
    | some d => simp

theorem answeredFault_of_same (hn : s'.net = s.net) (ht : ∀ u, s'.thread? u = s.thread? u) (code sub : Nat) :
    AnsweredFault s (s'.answer r 0 (State.reqFault r code sub)) r code sub := by
  have h := answeredFault_answer s' r code sub
  unfold AnsweredFault at h ⊢
  simpa only [hn, ht] using h

end

/-! ### Loads at their home (R159, R164) -/

section
variable {s : State} {id n : Nat} {f : LdFmt} {r : Req}

/-- A request that has arrived is performed. -/
theorem withReq_arriving (h : Arriving s id r) (f : Req → Res) : s.withReq id f = f r := by
  obtain ⟨hreq, hmay⟩ := h
  unfold State.withReq
  rw [hreq]
  exact if_pos hmay

theorem id_of_arriving (h : Arriving s id r) : r.id = id := by
  obtain ⟨hreq, -⟩ := h
  simpa using List.find?_some hreq

theorem exec_remoteLoadServe_load (h : Arriving s id r) {tag : Option (BitVec 16)} (hk : r.kind = .load n f tag) :
    exec (.remoteLoadServe id) s = .next (s.loadPerform r n f tag) := by
  refine (withReq_arriving h _).trans ?_
  rw [hk]

/-- A scratchpad that no channel holds, or a slice window: bytes that no cache stands before. -/
def InScratch (s : State) (n : Nat) (l : Loc) : Prop := (∃ p off, l = .scr p off ∧ s.chanAt p off n = none) ∨ ∃ k off, l = .slice k off

/-- There a load reads the mark of the sector and the bytes as they stand. -/
theorem loadPerform_inScratch (h : InScratch s n r.loc) : s.loadPerform r n f none =
    if s.mem.poisoned (s.locKey r.loc) = true then s.answer r 0 (State.reqFault r 9 0) else s.answer r (loadVal f (s.mem.read (s.locKey r.loc) n)) none := by
  unfold State.loadPerform
  obtain ⟨p, off, hl, hc⟩ | ⟨k, off, hl⟩ := h
  · have hpass : s.chanCheck p off n = .pass := by unfold State.chanCheck; rw [hc]
    simp only [hl, hpass, Bool.false_eq_true, if_false]
  · simp only [hl, Bool.false_eq_true, if_false]

/-- A load of DRAM that its core's L1 does not serve settles its home slice and reads the sector as it stands there. -/
theorem loadPerform_dram {o p : Nat} {k : Kind} {tag : Option (BitVec 16)} (hk : r.kind = .load n f tag) (hl : r.loc = .dram o p k)
    (hc : s.inOwnL1 r.pl (s.locKey r.loc / 128) = false) : ∃ s', Settles s s' ∧ s.loadPerform r n f tag =
      if s.poisonedKey (s.locKey r.loc) = true then s'.answer r 0 (State.reqFault r 9 0) else s'.answer r (loadVal f (s.mem.read (s.locKey r.loc) n)) none := by
  rw [hl] at hc
  have hcopy : (s.lineOf (.dram o p k)).bind (s.l1Copy r.pl) = none := by
    cases k with
    | cacheable => exact Option.isSome_eq_false_iff.mp hc |> Option.isNone_iff_eq_none.mp
    | _ => rfl
  have hserves : s.l1Serves r = false := by
    unfold State.l1Serves
    rw [hk, hl]
    cases k with
    | cacheable => exact hc
    | _ => rfl
  have hseen : s.loadBytes r n = s.mem.read (s.locKey r.loc) n := by
    unfold State.loadBytes State.seenStores
    rw [hserves]
    rfl
  have hbad : s.locBad (.dram o p k) = s.poisonedKey (s.locKey (.dram o p k)) := rfl
  refine ⟨(s.chargeMem false (.dram o p k)).fillL1 r.pl r.ea (.dram o p k), settles_trans (settles_chargeMem _ _ _) (settles_fillL1 _ _ _ _), ?_⟩
  unfold State.loadPerform
  simp only [hl, hcopy, hserves, hbad, Bool.false_eq_true, if_false, hseen]

end

/-! ### Stores at their home (R163, R260) -/

section
variable {s t : State} {r : Req} {l : Loc} {bs : List Byte}

theorem noteOuter_frame (s : State) (w : Nat × Nat × Nat) (l : Loc) (n : Nat) : s.noteOuter w l n = { s with host := (s.noteOuter w l n).host } := by
  unfold State.noteOuter
  split <;> rfl

/-- A write at a location whose layer is not lost stores its bytes over the cells (R399). -/
theorem stored_writeLoc (hm : MemOk s) (hc : t.mem.cells = s.mem.cells) (hl : t.lostKey (t.locKey l) = false) :
    Stored s (t.writeLoc l bs) (t.locKey l) bs := by
  unfold State.writeLoc
  rw [hl, Bool.false_and, if_neg Bool.false_ne_true]
  dsimp only
  split
  · exact stored_write (m := (t.keepCode _ _ _).mem) hm ((keepCode_cells t _ _ _).trans hc) rfl
  · exact stored_write hm hc rfl

/-- A write of the device changes memory and what hosts and peers still read; it leaves the network and the threads. -/
@[simp] theorem writeDev_net (s : State) (w : Nat × Nat × Nat) (l : Loc) (bs : List Byte) : (s.writeDev w l bs).net = s.net := by
  unfold State.writeDev State.writeLoc State.noteOuter
  (repeat' split) <;> rfl

@[simp] theorem writeDev_thread? (s : State) (w : Nat × Nat × Nat) (l : Loc) (bs : List Byte) (u : Nat) : (s.writeDev w l bs).thread? u = s.thread? u := by
  unfold State.writeDev State.writeLoc State.noteOuter
  (repeat' split) <;> rfl

/-- The write of a store that answers: from a state that has been settled, and whose network and threads are those of s. -/
theorem stores_of_settles (hm : MemOk s) (h : Settles s t) (hlost : s.lostKey (s.locKey r.loc) = false) (w : Nat × Nat × Nat) :
    Answered s ((t.writeDev w r.loc bs).answer r 0 none) r 0 ∧ Stored s ((t.writeDev w r.loc bs).answer r 0 none) (s.locKey r.loc) bs := by
  have hkey : (t.noteOuter w r.loc bs.length).locKey r.loc = s.locKey r.loc := by rw [noteOuter_frame]; exact locKey_of_settles h r.loc
  refine ⟨answered_of_same ((writeDev_net _ _ _ _).trans (net_of_settles h)) (fun u => (writeDev_thread? _ _ _ _ u).trans (thread?_of_settles h u)) 0, ?_⟩
  · have hcells : (t.noteOuter w r.loc bs.length).mem.cells = s.mem.cells := by rw [noteOuter_mem]; exact cells_of_settles h
    have hl : (t.noteOuter w r.loc bs.length).lostKey ((t.noteOuter w r.loc bs.length).locKey r.loc) = false := by
      rw [hkey, noteOuter_frame]
      exact (lostKey_of_settles h _).trans hlost
    have hst := stored_writeLoc (bs := bs) hm hcells hl
    rw [hkey] at hst
    unfold Stored at hst ⊢
    rwa [answer_mem]

/-- A store that no channel and no lost layer holds writes its bytes at its home and answers. -/
theorem storePerform_stores (hm : MemOk s) (hlost : s.lostKey (s.locKey r.loc) = false)
    (hchan : ∀ p off, r.loc = .scr p off → s.chanAt p off bs.length = none) (hpeer : ∀ o k ia, r.loc ≠ .peer o k ia) :
    Answered s (s.storePerform r bs) r 0 ∧ Stored s (s.storePerform r bs) (s.locKey r.loc) bs := by
  -- The home's line is touched and the other L1 copies go (R163); a scratchpad has neither.
  have hsettle : Settles s ((s.chargeMem true r.loc).invalL1 (s.locKey r.loc / 128) (some r.pl)) := settles_trans (settles_chargeMem s true r.loc) (settles_of rfl rfl)
  have far := stores_of_settles (bs := bs) hm hsettle hlost (s.writer r)
  have near := stores_of_settles (bs := bs) hm (settles_refl s) hlost (s.writer r)
  unfold State.storePerform
  cases hloc : r.loc with
  | peer o k ia => exact absurd hloc (hpeer o k ia)
  | scr p off =>
    have hpass : s.chanCheck p off bs.length = .pass := by unfold State.chanCheck; rw [hchan p off hloc]
    simp only [hpass]
    rwa [hloc] at near
  | slice k off => rwa [hloc] at near
  | dram o p k => rwa [hloc] at far
  | flash o f => rwa [hloc] at far

/-- An evpost that no source holds back reaches the arbiter's queue (R353, R356). -/
theorem evpost_posts {d : Word} (hh : s.evpostHeld r = false) :
    let t := ((s.publishBy (fun w => w.2.2 == r.uid || w.2.2 == 0)).raiseEv { ty := 0x40, o := r.pl.o, data := d, src := 2 ^ 32 + r.uid }).answer r 0 none
    Answered s t r 0 ∧ SameBytes s t ∧ t.trust.events = s.trust.events ++ [{ ty := 0x40, o := r.pl.o, data := d, src := 2 ^ 32 + r.uid, q := s.q }] := by
  intro t
  refine ⟨answered_of_same rfl (fun _ => rfl) 0, fun a => by rw [answer_mem]; rfl, ?_⟩
  have hjoin := raiseEv_joins (s.publishBy (fun w => w.2.2 == r.uid || w.2.2 == 0)) { ty := 0x40, o := r.pl.o, data := d, src := 2 ^ 32 + r.uid } hh
  show (State.answer _ r 0 none).trust.events = _
  rw [hjoin, State.answer, finishOp_eq, modThread_frame]
  rfl

end

/-! ### The statement -/

/-- Settles O30: a load reads where its bytes lie, after the home has settled; a store is one write there; an evpost joins the arbiter's queue or waits. -/
theorem loadsAndStoresPerformed : Obligations.LoadsAndStoresPerformed := by
  unfold Obligations.LoadsAndStoresPerformed
  intro s id r harr key
  have hid := id_of_arriving harr
  have hstore : ∀ {bs}, r.kind = .store bs → exec (.storePerform id) s = .next (s.storePerform r bs) := fun hk => by
    refine (withReq_arriving harr _).trans ?_
    rw [hk]
  refine ⟨fun n f hk hloc hp => ?_, fun n f o p k hk hloc hc hp => ?_, fun n f hk hbad => ?_, fun bs hk hm hlost hchan hpeer => ?_, fun d hk hh => ?_, fun d hk hh => ?_⟩
  · rw [exec_remoteLoadServe_load harr hk, loadPerform_inScratch hloc, if_neg (Bool.eq_false_iff.mp hp)]
    exact next_of ⟨answered_answer s r _, fun a => by rw [answer_mem]⟩
  · obtain ⟨s', hs, e⟩ := loadPerform_dram hk hloc hc
    rw [exec_remoteLoadServe_load harr hk, e, if_neg (Bool.eq_false_iff.mp hp)]
    exact next_of ⟨answered_of_same (net_of_settles hs) (thread?_of_settles hs) _, fun a => by rw [answer_mem]; exact sameBytes_of_settles hs a⟩
  · have poisoned : ∃ s', Settles s s' ∧ s.loadPerform r n f none = s'.answer r 0 (State.reqFault r 9 0) := by
      obtain ⟨hloc, hp⟩ | ⟨⟨o, p, k, hloc⟩, hc, hp⟩ := hbad
      · exact ⟨s, settles_refl s, by rw [loadPerform_inScratch hloc, if_pos hp]⟩
      · obtain ⟨s', hs, e⟩ := loadPerform_dram hk hloc hc
        exact ⟨s', hs, by rw [e, if_pos hp]⟩
    obtain ⟨s', hs, e⟩ := poisoned
    rw [exec_remoteLoadServe_load harr hk, e]
    obtain ⟨hnet, hthread⟩ := answeredFault_of_same (r := r) (net_of_settles hs) (thread?_of_settles hs) 9 0
    exact next_of ⟨hid ▸ hnet, fun a => by rw [answer_mem]; exact sameBytes_of_settles hs a, hthread⟩
  · rw [hstore hk]
    exact next_of (storePerform_stores hm hlost hchan hpeer)
  · refine (withReq_arriving harr _).trans ?_
    rw [hk]
    exact if_pos hh
  · have hexec : exec (.storePerform id) s = .next (((s.publishBy (fun w => w.2.2 == r.uid || w.2.2 == 0)).raiseEv
        { ty := 0x40, o := r.pl.o, data := d, src := 2 ^ 32 + r.uid }).answer r 0 none) := by
      refine (withReq_arriving harr _).trans ?_
      rw [hk]
      exact if_neg (Bool.eq_false_iff.mp hh)
    rw [hexec]
    exact next_of (evpost_posts hh)

end Sys2Proof.Laws

/-! SUPPORT. KeptByOperations: what each operation of the machine leaves of the form of memory. -/

namespace Sys2Proof.Laws

open Sys2Proof.Machine Sys2Proof.Safety

/-! An operation that leaves memory as it was has a lemma `_mem`; one that changes marks, reservations or copies beside the cells has a lemma `_wf` between the
two forms; one that writes bytes has a lemma `_wf` from the form before to the form after. An operation that may have no answer has that lemma of each of its
answers. Each is proved from the lemmas of the operations it is made of. -/

/-! ### Conditions, folds, cells -/

/-- The shapes of a condition and of a fold: what each branch and each step leaves of memory. -/
@[simp] theorem ite_mem {c : Prop} [Decidable c] (s t : State) : (if c then s else t).mem = if c then s.mem else t.mem := apply_ite _ _ _ _
@[simp] theorem ite_wf {c : Prop} [Decidable c] (m n : Mem) : (if c then m else n).wf = if c then m.wf else n.wf := apply_ite _ _ _ _
@[simp] theorem foldl_mem {α : Type} {f : State → α → State} (h : ∀ s x, (f s x).mem = s.mem) (xs : List α) (s : State) : (xs.foldl f s).mem = s.mem :=
  foldl_same State.mem f h xs s
@[simp] theorem foldl_wf_eq {α : Type} {f : State → α → State} (h : ∀ s x, (f s x).mem.wf = s.mem.wf) (xs : List α) (s : State) :
    (xs.foldl f s).mem.wf = s.mem.wf :=
  foldl_same (fun s => s.mem.wf) f h xs s
@[simp] theorem foldl_wf {α : Type} {f : State → α → State} (h : ∀ s x, s.mem.wf = true → (f s x).mem.wf = true) (xs : List α) {s : State}
    (hs : s.mem.wf = true) : (xs.foldl f s).mem.wf = true := foldl_keeps (fun s => s.mem.wf = true) f h xs s hs
/-- Only the cells bear on the form, not the marks beside them. -/
@[simp] theorem wf_mk (m : Mem) (p : List Nat) f t r w c : (Mem.mk m.cells p f t r w c).wf = m.wf := rfl
/-- What an access at a home, a walk or a prefetch settles beside the bytes is no part of the form (R434). -/
theorem wf_of_settles {s t : State} (h : Settles s t) : t.mem.wf = s.mem.wf := wf_congr (cells_of_settles h)
theorem memOk_iff (s : State) : MemOk s ↔ s.mem.wf = true := Iff.rfl
theorem setClk_memOk {s : State} (c : Clk) (h : MemOk s) : MemOk { s with clk := c } := h
/-- The bound below the keys may be lowered to one that a listed key passed. -/
theorem cellsWfFrom_lower {cs : List Host.Cell} {lo : Option Nat} {k : Nat} (hk : ∀ l, lo = some l → l < k) (h : cellsWfFrom (some k) cs = true) :
    cellsWfFrom lo cs = true := by
  cases cs with
  | nil => rfl
  | cons c cs =>
    simp only [cellsWfFrom, Bool.and_eq_true, decide_eq_true_eq] at h ⊢
    refine ⟨⟨?_, h.1.2⟩, h.2⟩
    cases lo with
    | none => rfl
    | some l => exact decide_eq_true ((hk l rfl).trans h.1.1)

/-- Bytes changed in place, and the zero ones dropped: the keys still ascend, and no zero is listed. -/
theorem mapFilter_wf (f : Nat → Byte → Byte) (cs : List Host.Cell) :
    ∀ lo, cellsWfFrom lo cs = true → cellsWfFrom lo ((cs.map (fun c => (c.1, f c.1 c.2))).filter (fun c => c.2 != 0)) = true := by
  induction cs with
  | nil => exact fun _ _ => rfl
  | cons c cs ih =>
    obtain ⟨k, b⟩ := c
    intro lo h
    simp only [cellsWfFrom, Bool.and_eq_true] at h
    obtain ⟨⟨hlo, -⟩, hcs⟩ := h
    rw [List.map_cons, List.filter_cons]
    split
    · next hb =>
      simp only [cellsWfFrom, Bool.and_eq_true]
      exact ⟨⟨hlo, hb⟩, ih _ hcs⟩
    · refine cellsWfFrom_lower (fun l e => ?_) (ih _ hcs)
      subst e
      exact of_decide_eq_true hlo

/-! ### Marks, bytes and fields of the state -/

theorem modTrust_memOk {s : State} (f : Trust → Trust) (h : MemOk s) : MemOk (s.modTrust f) := h
theorem modOwner_memOk {s : State} (h : MemOk s) (o : Nat) (f : Owner → Owner) : MemOk (s.modOwner o f) := h
@[simp] theorem modLine_mem (s : State) (key : Nat) (f : MicaLine → MicaLine) : (s.modLine key f).mem = s.mem := rfl
@[simp] theorem markPoison_wf (s : State) (key : Nat) (bad : Bool) : (s.markPoison key bad).mem.wf = s.mem.wf := by
  unfold State.markPoison
  (repeat' split) <;> simp [*]
@[simp] theorem writeLoc_wf (s : State) (l : Loc) (bs : List Byte) (h : s.mem.wf = true) : (s.writeLoc l bs).mem.wf = true := writeLoc_memOk s l bs h
@[simp] theorem publishBy_mem (s : State) (p : Nat × Nat × Nat → Bool) : (s.publishBy p).mem = s.mem := rfl
@[simp] theorem writeDev_wf (s : State) (w : Nat × Nat × Nat) (l : Loc) (bs : List Byte) (h : s.mem.wf = true) : (s.writeDev w l bs).mem.wf = true :=
  writeDev_memOk s w l bs h
@[simp] theorem platWrite_wf (s : State) (a : Nat) (bs : List Byte) (h : s.mem.wf = true) : (s.platWrite a bs).mem.wf = true := platWrite_memOk bs s a h
@[simp] theorem modStream_mem (s : State) (sid : Nat) (f : Machine.Stream → Machine.Stream) : (s.modStream sid f).mem = s.mem := rfl

/-! ### Translation and the first-level caches -/

@[simp] theorem putTlb_mem (s : State) (n : Nat) (t : Tlb) : (s.putTlb n t).mem = s.mem := by
  unfold State.putTlb
  simp
@[simp] theorem fillL1_mem (s : State) (p : Place) (ea : Addr) (loc : Loc) : (s.fillL1 p ea loc).mem = s.mem := by
  unfold State.fillL1
  dsimp only
  (repeat' split) <;> simp

/-! ### Accesses at a home (R163, R164, R305 to R307) -/

@[simp] theorem evictLine_wf (s : State) (c : MicaLine) : (s.evictLine c).mem.wf = s.mem.wf := wf_of_settles (settles_evictLine _ _)
@[simp] theorem homeTouch_wf (s : State) (w keep : Bool) (l : Loc) : (s.homeTouch w keep l).mem.wf = s.mem.wf := wf_of_settles (settles_homeTouch _ _ _ _)
@[simp] theorem settled_wf (s t : State) : (s.settled t).mem.wf = s.mem.wf := rfl
@[simp] theorem chargeMem_wf (s : State) (write : Bool) (l : Loc) : (s.chargeMem write l).mem.wf = s.mem.wf := by
  unfold State.chargeMem
  (repeat' split) <;> simp [*]
theorem chargeMem_memOk {s : State} (w : Bool) (l : Loc) (h : MemOk s) : MemOk (s.chargeMem w l) := (chargeMem_wf s w l).trans h
@[simp] theorem chargeOld_wf (s : State) (l : Loc) : (s.chargeOld l).mem.wf = s.mem.wf := by
  unfold State.chargeOld
  (repeat' split) <;> simp [*]
@[simp] theorem walkFill_wf (s : State) (p : Place) (va : Nat) : (s.walkFill p va).2.mem.wf = s.mem.wf := wf_of_settles (settles_walkFill _ _ _)

/-! ### Regions on their way (R188) -/

@[simp] theorem shipRegion_mem (s : State) (r : Region) : (s.shipRegion r).mem = s.mem := by
  unfold State.shipRegion
  dsimp only
  (repeat' split) <;> simp

/-! ### Fetches (R340) -/

@[simp] theorem fetchTouch_wf (s : State) (p : Place) (a : Addr) : (s.fetchTouch p a).mem.wf = s.mem.wf := by
  unfold State.fetchTouch
  dsimp only
  (repeat' split) <;> simp

/-! ### Queues (R193) -/

@[simp] theorem setQueue_mem (s : State) (p : Place) (q : Nat) (es : List VWord) : (s.setQueue p q es).mem = s.mem := rfl
@[simp] theorem wakeQueue_mem (s : State) (p : Place) (q : Nat) : (s.wakeQueue p q).mem = s.mem := by
  unfold State.wakeQueue
  (repeat' split) <;> simp [*]
@[simp] theorem joinQueue_mem (s : State) (p : Place) (q : Nat) (v : VWord) (r : Req) : (s.joinQueue p q v r).mem = s.mem := by
  unfold State.joinQueue
  simp
@[simp] theorem arrivePush_mem (s : State) (r : Req) : (s.arrivePush r).mem = s.mem := by
  unfold State.arrivePush
  (repeat' split) <;> simp [*]
@[simp] theorem unitPush_mem (s : State) (p : Place) (q : Nat) (v : VWord) : (s.unitPush p q v).mem = s.mem := by
  unfold State.unitPush
  simp
@[simp] theorem acceptHeld_mem (s : State) (p : Place) (q : Nat) : (s.acceptHeld p q).mem = s.mem := by
  unfold State.acceptHeld
  (repeat' split) <;> simp [*]

/-! ### Requests performed at their home (R159, R179 to R193, R296) -/

@[simp] theorem ixDrop_mem (s : State) : s.ixDrop.mem = s.mem := rfl
@[simp] theorem ixSend_mem (s : State) (o k l bytes : Nat) (op : IxOp) (ia : Nat) : (s.ixSend o k l bytes op ia).mem = s.mem := rfl
@[simp] theorem peerAnswer_mem (s : State) (r : Req) (o k ia n bytes : Nat) (op : IxOp) (val : Nat → VWord) :
    (s.peerAnswer r o k ia n bytes op val).mem = s.mem := by
  unfold State.peerAnswer
  dsimp only
  (repeat' split) <;> simp
@[simp] theorem peerPost_mem (s : State) (r : Req) (o k ia bytes : Nat) (op : IxOp) : (s.peerPost r o k ia bytes op).mem = s.mem := by
  unfold State.peerPost
  simp
@[simp] theorem noteSeen_mem (s : State) (r : Req) : (s.noteSeen r).mem = s.mem := by
  unfold State.noteSeen
  simp
@[simp] theorem loadPerform_wf (s : State) (r : Req) (n : Nat) (f : LdFmt) (tag : Option (BitVec 16)) : (s.loadPerform r n f tag).mem.wf = s.mem.wf := by
  unfold State.loadPerform
  dsimp only
  (repeat' split) <;> simp
@[simp] theorem storePerform_wf (s : State) (r : Req) (bs : List Byte) (h : s.mem.wf = true) : (s.storePerform r bs).mem.wf = true := by
  unfold State.storePerform
  (repeat' split) <;> simp [h]
@[simp] theorem freeResv_wf (s : State) (key uid : Nat) : (s.freeResv key uid).mem.wf = s.mem.wf := rfl
/-- A request on a sync word writes its quadword, or marks, reservations and answers only (R183 to R187). -/
@[simp] theorem syncDo_wf (s : State) (r : Req) (h : s.mem.wf = true) : (s.syncDo r).mem.wf = true := by
  unfold State.syncDo
  cases r.kind with
  | ldfe | ldff | stfe | stf | feClr | lrw | scq | rsvRel => simp [h]
  | _ => exact h
@[simp] theorem waiterScan_wf (s : State) (key n : Nat) (h : s.mem.wf = true) : (s.waiterScan key n).mem.wf = true := by
  induction n generalizing s with
  | zero => exact h
  | succ n ih =>
    unfold State.waiterScan
    split <;> simp [h, ih]
@[simp] theorem syncArrive_wf (s : State) (r : Req) (h : s.mem.wf = true) : (s.syncArrive r).mem.wf = true := by
  unfold State.syncArrive
  simp [h]
@[simp] theorem homeWrite_wf (s : State) (w : Nat × Nat × Nat) (l : Loc) (bs : List Byte) (h : s.mem.wf = true) :
    (s.homeWrite w l bs).mem.wf = true := homeWrite_memOk s w l bs h
@[simp] theorem outWrite_wf (s : State) (l : Loc) (bs : List Byte) (h : s.mem.wf = true) : (s.outWrite l bs).mem.wf = true := by
  unfold State.outWrite
  split
  · exact writeOut_memOk _ _ _ (by simp [MemOk, h])
  · exact writeOut_memOk _ _ _ (by simp [MemOk, h])
@[simp] theorem amoDo_wf (s : State) (r : Req) (op : AmoOp) (n : Nat) (x e : Word) (h : s.mem.wf = true) : (s.amoDo r op n x e).mem.wf = true := by
  unfold State.amoDo
  dsimp only
  (repeat' split) <;> simp [h]
@[simp] theorem redDone_mem (s : State) (r : Req) (flt : Option FaultRec) : (s.redDone r flt).mem = s.mem := by
  unfold State.redDone
  simp
@[simp] theorem redDo_wf (s : State) (r : Req) (n : Nat) (op : IxOp) (f : Nat → Nat) (h : s.mem.wf = true) : (s.redDo r n op f).mem.wf = true := by
  unfold State.redDo
  dsimp only
  (repeat' split) <;> simp [h]
/-- The words of an atomic region in turn (R188). -/
@[simp] theorem regionWords_wf (s : State) (r : Req) (bad : Bool) (ws : List RWord) (h : s.mem.wf = true) : (s.regionWords r bad ws).mem.wf = true := by
  induction ws generalizing s with
  | nil => exact h
  | cons w ws ih =>
    unfold State.regionWords
    refine ih _ ?_
    (repeat' split) <;> simp [h]
@[simp] theorem regionDo_wf (s : State) (r : Req) (ws : List RWord) (h : s.mem.wf = true) : (s.regionDo r ws).mem.wf = true := by
  unfold State.regionDo
  dsimp only
  (repeat' split) <;> simp [h]
@[simp] theorem setBar_mem (s : State) (p : Place) (b : Bar) : (s.setBar p b).mem = s.mem := rfl
@[simp] theorem barRelease_mem (s : State) (p : Place) (k : Nat) : (s.barRelease p k).mem = s.mem := by
  unfold State.barRelease
  simp
@[simp] theorem barArrive_mem (s : State) (r : Req) (p : Place) (k : Nat) : (s.barArrive r p k).mem = s.mem := by
  unfold State.barArrive
  simp
@[simp] theorem barWait_mem (s : State) (r : Req) (p : Place) (k : Nat) : (s.barWait r p k).mem = s.mem := by
  unfold State.barWait
  simp
@[simp] theorem barDo_mem (s : State) (r : Req) : (s.barDo r).mem = s.mem := by
  unfold State.barDo
  dsimp only
  (repeat' split) <;> simp
@[simp] theorem chargeDrop_mem (s : State) (launch n : Nat) : (s.chargeDrop launch n).mem = s.mem := rfl
@[simp] theorem deliver_wf (s : State) (o : Nat) (t : BitVec 32) (v : VWord) (from_ : Nat) (h : s.mem.wf = true) : (s.deliver o t v from_).mem.wf = true := by
  unfold State.deliver
  (repeat' split) <;> simp [h]
@[simp] theorem msgDo_wf (s : State) (r : Req) (h : s.mem.wf = true) : (s.msgDo r).mem.wf = true := by
  unfold State.msgDo
  dsimp only
  (repeat' split) <;> simp [h]

/-! ### Rows and save areas (R329, R330) -/

@[simp] theorem saveOut_wf (s : State) (o kib : Nat) (h : s.mem.wf = true) : (s.saveOut o kib).mem.wf = true := by
  unfold State.saveOut
  dsimp only
  split
  · exact h
  · exact foldl_keeps (fun m => m.wf = true) _ (fun m i hm => saveKib_keeps s _ _ m hm) _ _ h
@[simp] theorem saveRow_wf (s : State) (o : Nat) (h : s.mem.wf = true) : (s.saveRow o).mem.wf = true := by
  unfold State.saveRow
  simp [h]
/-- A row claimed evicts at most one thread to its save area (R330). -/
theorem claimRow_wf {s : State} {p : Place} {x : Nat × State} (h : s.mem.wf = true) (e : s.claimRow p = some x) : x.2.mem.wf = true := by
  unfold State.claimRow at e
  repeat' split at e
  all_goals cases e
  all_goals simp [h]
@[simp] theorem evictFail_mem (s : State) (p : Place) (seen : List Nat) : (s.evictFail p seen).mem = s.mem := by
  unfold State.evictFail
  (repeat' split) <;> simp [*]
@[simp] theorem takeRow_mem (s : State) (t : Thread) (k : Nat) : (s.takeRow t k).mem = s.mem := rfl

/-! ### Records, placing, launches and tasks (R279 to R297) -/

@[simp] theorem unitWrite_wf (s : State) (l : Loc) (bs : List Byte) (h : s.mem.wf = true) : (s.unitWrite l bs).mem.wf = true := unitWrite_memOk s l bs h
@[simp] theorem ownerWrite_wf (s : State) (o : Nat) (ea : Addr) (qs : List Word) (h : s.mem.wf = true) : (s.ownerWrite o ea qs).mem.wf = true := by
  unfold State.ownerWrite
  split <;> simp [h]
@[simp] theorem countRefused_mem (s : State) (q : Nat) : (s.countRefused q).mem = s.mem := rfl
@[simp] theorem countDropped_mem (s : State) (q : Nat) : (s.countDropped q).mem = s.mem := rfl
@[simp] theorem touchNodes_wf (s : State) (o pmax : Nat) (q : List Word) : (s.touchNodes o pmax q).mem.wf = s.mem.wf := by
  unfold State.touchNodes
  simp
@[simp] theorem acceptRec_mem (s : State) (o wq : Nat) (fn : Option Nat) (q : List Word) (ns : List Node) : (s.acceptRec o wq fn q ns).1.mem = s.mem := rfl
@[simp] theorem spawnArrive_wf (s : State) (r : Req) (h : s.mem.wf = true) : (s.spawnArrive r).mem.wf = true := by
  unfold State.spawnArrive
  dsimp only
  (repeat' split) <;> simp [h]
@[simp] theorem hostArrive_wf (s : State) (a : Arrival) (h : s.mem.wf = true) : (s.hostArrive a).mem.wf = true := by
  unfold State.hostArrive
  dsimp only
  (repeat' split) <;> simp [h]
@[simp] theorem streamRow_wf (s : State) (st : Machine.Stream) (p : Place) (h : s.mem.wf = true) : (s.streamRow st p).mem.wf = true := by
  unfold State.streamRow
  split
  · next e => simp [claimRow_wf h e]
  · split <;> simp [h]
@[simp] theorem placeStream_wf (s : State) (sid : Nat) (h : s.mem.wf = true) : (s.placeStream sid).mem.wf = true := by
  unfold State.placeStream
  split
  · exact h
  · exact foldl_wf (fun s k hs => by simp [hs]) _ (by simp [h])
@[simp] theorem unqueue_mem (s : State) (p : Placing) : (s.unqueue p).mem = s.mem := rfl
@[simp] theorem sendTask_mem (s : State) (p : Placing) (c : Place) : (s.sendTask p c).mem = s.mem := rfl
theorem placeHead_wf {s t : State} {p : Placing} (h : s.mem.wf = true) (e : s.placeHead p = some t) : t.mem.wf = true := by
  unfold State.placeHead at e
  repeat' split at e
  · cases e
  · cases e; simp [h]
  · cases e; simp [h]
  · obtain ⟨c, -, rfl⟩ := Option.map_eq_some_iff.mp e
    simp [h]
/-- The first head of a queue that finds its place. -/
theorem findSome_placeHead_wf {s t : State} {ps : List Placing} (h : s.mem.wf = true) (e : ps.findSome? (fun p => s.placeHead p) = some t) : t.mem.wf = true :=
  let ⟨_, _, e⟩ := List.exists_of_findSome?_eq_some e
  placeHead_wf h e
@[simp] theorem pumpStreams_wf (s : State) (n : Nat) (h : s.mem.wf = true) : (s.pumpStreams n).mem.wf = true := by
  induction n generalizing s with
  | zero => exact h
  | succ n ih =>
    unfold State.pumpStreams
    split
    · next e => exact ih _ (findSome_placeHead_wf h e)
    · exact h
@[simp] theorem searchFail_mem (s : State) (p : Placing) : (s.searchFail p).mem = s.mem := by
  unfold State.searchFail
  dsimp only
  (repeat' split) <;> simp
@[simp] theorem place_wf (s : State) (p : Placing) (h : s.mem.wf = true) : (s.place p).mem.wf = true := by
  unfold State.place
  extract_lets s1
  have h1 : s1.mem.wf = true := by rw [State.modGraph_mem]; exact h
  split
  · exact h1
  · cases e : s1.placeHead p with
    | none => simp [h1]
    | some t => exact placeHead_wf h1 e
@[simp] theorem pumpPlacing_wf (s : State) (n : Nat) (h : s.mem.wf = true) : (s.pumpPlacing n).mem.wf = true := by
  induction n generalizing s with
  | zero => exact h
  | succ n ih =>
    unfold State.pumpPlacing
    split
    · next e => exact ih _ (findSome_placeHead_wf h e)
    · split
      · exact ih _ (by simp [h])
      · exact h
@[simp] theorem pumpHeads_wf (s : State) (h : s.mem.wf = true) : s.pumpHeads.mem.wf = true := by
  unfold State.pumpHeads
  refine foldl_wf (fun s p hs => ?_) _ (by simp [h])
  split <;> simp [hs]
@[simp] theorem restoreRow_mem (s : State) (u k : Nat) : (s.restoreRow u k).mem = s.mem := by
  unfold State.restoreRow
  simp
@[simp] theorem dropPacket_mem (s : State) (id : Nat) : (s.dropPacket id).mem = s.mem := rfl
@[simp] theorem takeSpill_mem (s : State) (pk : Packet) (k : Nat) : (s.takeSpill pk k).mem = s.mem := rfl
@[simp] theorem offerRow_wf (s : State) (p : Place) (h : s.mem.wf = true) : (s.offerRow p).mem.wf = true := by
  unfold State.offerRow
  dsimp only
  (repeat' split) <;> simp [h]
@[simp] theorem setLaunch_mem (s : State) (x : Launch) : (s.setLaunch x).mem = s.mem := rfl
@[simp] theorem completeLaunch_wf (s : State) (x : Launch) (status : Nat) (h : s.mem.wf = true) : (s.completeLaunch x status).mem.wf = true := by
  unfold State.completeLaunch
  dsimp only
  (repeat' split) <;> simp [h]
@[simp] theorem endLaunch_wf (s : State) (x : Launch) (st : Nat) (h : s.mem.wf = true) : (s.endLaunch x st).mem.wf = true := by
  unfold State.endLaunch
  dsimp only
  split <;> simp [h]
@[simp] theorem settle_wf (s : State) (lid : Nat) (h : s.mem.wf = true) : (s.settle lid).mem.wf = true := by
  unfold State.settle
  dsimp only
  (repeat' split) <;> simp [h]
@[simp] theorem launchEnd_wf (s : State) (lid : Nat) (h : s.mem.wf = true) : (s.launchEnd lid).mem.wf = true := by
  unfold State.launchEnd
  (repeat' split) <;> simp [h]
@[simp] theorem dispatchTask_wf (s : State) (o : Nat) (r : Ready) (h : s.mem.wf = true) : (s.dispatchTask o r).mem.wf = true := by
  unfold State.dispatchTask
  split
  · exact h
  · extract_lets n t s1 q sid st
    have h1 : s1.mem.wf = true := by rw [State.modGraph_mem, State.bump_mem]; exact h
    split
    · exact place_wf _ _ h1
    · exact place_wf _ _ (by rw [State.modGraph_mem, State.bump_mem]; exact h1)
@[simp] theorem taskEnd_wf (s : State) (o : Nat) (tid : BitVec 32) (tk : Machine.Task) (fail : Option FailRep) (h : s.mem.wf = true) :
    (s.taskEnd o tid tk fail).mem.wf = true := by
  unfold State.taskEnd
  dsimp only
  split <;> simp [h]
@[simp] theorem freeResvOf_wf (s : State) (u : Nat) (h : s.mem.wf = true) : (s.freeResvOf u).mem.wf = true := by
  unfold State.freeResvOf
  exact foldl_wf (fun s k hs => by simp [hs]) _ h
@[simp] theorem dropWaits_mem (s : State) (u : Nat) : (s.dropWaits u).mem = s.mem := rfl
@[simp] theorem endThread_wf (s : State) (t : Thread) (fail : Option FaultRec) (h : s.mem.wf = true) : (s.endThread t fail).mem.wf = true := by
  unfold State.endThread
  refine taskEnd_wf _ _ _ _ _ ?_
  split
  · exact offerRow_wf _ _ (by simp [h])
  · simp [h]

/-! ### Threads, turns and packets (R200 to R202) -/

@[simp] theorem wakeParked_mem (s : State) (p : Place) (k : Park) : (s.wakeParked p k).mem = s.mem := rfl
@[simp] theorem wakeChans_mem (s : State) (p : Place) : (s.wakeChans p).mem = s.mem := rfl
@[simp] theorem meterBeat_mem (s : State) : s.meterBeat.mem = s.mem := by
  unfold State.meterBeat
  simp
@[simp] theorem bindSlot_mem (s : State) (p : Place) (slot : Nat) : (s.bindSlot p slot).mem = s.mem := by
  unfold State.bindSlot
  (repeat' split) <;> simp [*]
@[simp] theorem endTurn_mem (s : State) (p : Place) (slot : Nat) : (s.endTurn p slot).mem = s.mem := by
  unfold State.endTurn
  dsimp only
  (repeat' split) <;> simp
@[simp] theorem setStage_mem (s : State) (pid : Nat) (g : PStage) : (s.setStage pid g).mem = s.mem := rfl
@[simp] theorem spill_wf (s : State) (pk : Packet) (h : s.mem.wf = true) : (s.spill pk).mem.wf = true := by
  unfold State.spill
  simp [h]
@[simp] theorem packetMeets_mem (s : State) (pk : Packet) : (s.packetMeets pk).mem = s.mem := by
  unfold State.packetMeets
  simp
@[simp] theorem offerWaiting_wf (s : State) (p : Place) (h : s.mem.wf = true) : (s.offerWaiting p).mem.wf = true := by
  unfold State.offerWaiting
  (repeat' split)
  · exact h
  · simp [h]
  · exact h
  · next e => simp [claimRow_wf h e]
  · simp [h]
@[simp] theorem arrive_wf (s : State) (pk : Packet) (h : s.mem.wf = true) : (s.arrive pk).mem.wf = true := by
  unfold State.arrive
  dsimp only
  split
  · simp [h]
  · split
    · next e => simp [claimRow_wf h e]
    · simp [h]
@[simp] theorem rearrive_mem (s : State) (o : Nat) : (s.rearrive o).mem = s.mem := rfl
@[simp] theorem unbindRows_mem (s : State) : s.unbindRows.mem = s.mem := rfl
@[simp] theorem releaseOwners_mem (s : State) : s.releaseOwners.mem = s.mem := by
  unfold State.releaseOwners
  dsimp only
  split
  · rfl
  · rw [unbindRows_mem]
    exact foldl_mem (fun s o => by simp) _ s
@[simp] theorem layOut_wf (s : State) (t : Thread) (h : s.mem.wf = true) : (s.layOut t).mem.wf = true := by
  unfold State.layOut
  simp [h]
@[simp] theorem buryDone_wf (s : State) (n : Nat) (h : s.mem.wf = true) : (s.buryDone n).mem.wf = true := by
  induction n generalizing s with
  | zero => exact h
  | succ n ih =>
    unfold State.buryDone
    split
    · split
      · exact ih _ (by simp [h])
      · exact h
    · exact h
@[simp] theorem bury_wf (s : State) (n : Nat) (h : s.mem.wf = true) : (s.bury n).mem.wf = true := by
  unfold State.bury
  exact buryDone_wf _ _ (foldl_wf (fun s t hs => by simp [hs]) _ h)

/-! ### The copy units (R243 to R257) -/

@[simp] theorem setCopy_mem (s : State) (p : Place) (m : Copy) : (s.setCopy p m).mem = s.mem := rfl
@[simp] theorem clearWhole_wf (s : State) (ts : List (Nat × Nat)) (key : Nat) : (s.clearWhole ts key).mem.wf = s.mem.wf := by
  unfold State.clearWhole
  simp
@[simp] theorem unitRead_wf (s : State) (l : Loc) : (s.unitRead l).2.mem.wf = s.mem.wf := by
  unfold State.unitRead
  dsimp only
  (repeat' split) <;> simp
@[simp] theorem unitStore_wf (s : State) (o : Nat) (l : Loc) (bs : List Byte) (h : s.mem.wf = true) : (s.unitStore o l bs).2.mem.wf = true := by
  unfold State.unitStore
  dsimp only
  (repeat' split) <;> simp [h]
/-- A copy unit writes at most one unit of its command (R249). -/
@[simp] theorem copyWrite_wf (s : State) (p : Place) (m : Copy) (n : Nat) (h : s.mem.wf = true) : (s.copyWrite p m n).1.mem.wf = true := by
  unfold State.copyWrite
  split
  · exact h
  · next w hw =>
    extract_lets m1
    split
    · exact h
    · split
      · exact h
      · next l sel hl =>
        have hu := unitStore_wf s p.o l w.bytes h
        split
        · next e => rw [e] at hu; exact hu
        · next s' e =>
          rw [e] at hu
          simp [show s'.mem.wf = true from hu]
@[simp] theorem copyWrites_wf (s : State) (p : Place) (m : Copy) (sel : Nat → Bool) (h : s.mem.wf = true) : (s.copyWrites p m sel).1.mem.wf = true := by
  unfold State.copyWrites
  exact foldl_keeps (fun x : State × Copy => x.1.mem.wf = true) _ (fun x n hx => copyWrite_wf _ _ _ _ hx) _ _ h
@[simp] theorem markSector_mem (s : State) (p : Place) (ch sector : Nat) : (s.markSector p ch sector).mem = s.mem := by
  unfold State.markSector
  simp
@[simp] theorem markAll_mem (s : State) (p : Place) (m : Copy) (ks : List Nat) : (s.markAll p m ks).mem = s.mem := by
  unfold State.markAll
  (repeat' split) <;> simp [*]
@[simp] theorem settleMarks_wf (s : State) (p : Place) (m : Copy) (h : s.mem.wf = true) : (s.settleMarks p m).1.mem.wf = true := by
  unfold State.settleMarks
  extract_lets later whole sectors blocks s1 s2
  have h1 : s1.mem.wf = true := foldl_wf (fun s b hs => by simp [hs]) _ h
  have h2 : s2.mem.wf = true := by simp [s2, h1]
  dsimp only
  split <;> simp [h2]
@[simp] theorem finishCopy_wf (s : State) (p : Place) (m : Copy) (h : s.mem.wf = true) : (s.finishCopy p m).mem.wf = true := by
  unfold State.finishCopy
  extract_lets blocks s1 s2 s3 st s4 c s5 s6
  have h1 : s1.mem.wf = true := foldl_wf (fun s b hs => by simp [hs]) _ h
  have h3 : s3.mem.wf = true := by
    unfold s3
    split <;> simp [s2, h1]
  have h4 : s4.mem.wf = true := by
    unfold s4
    (repeat' split) <;> simp [h3, write_wf]
  have h6 : s6.mem.wf = true := by
    unfold s6
    split <;> simp [s5, h4]
  split <;> simp [h6]

/-! ### The engines (R218 to R242) -/

@[simp] theorem meetTag_mem (s : State) (c : Cmd) (p : Machine.Part) : (s.meetTag c p).mem = s.mem := by
  unfold State.meetTag
  simp
@[simp] theorem engineCycle_mem (s : State) : s.engineCycle.mem = s.mem := by
  unfold State.engineCycle
  exact foldl_mem (fun s o => by simp) _ _
theorem engineCycle_memOk {s : State} (h : MemOk s) : MemOk s.engineCycle := memOk_congr (by rw [engineCycle_mem]) h
@[simp] theorem readoutWrite_wf (s : State) (c : Cmd) (w : PWrite) (h : s.mem.wf = true) : (s.readoutWrite c w).1.mem.wf = true := by
  unfold State.readoutWrite
  dsimp only
  (repeat' split) <;> simp [h]
@[simp] theorem readoutWrites_wf (s : State) (c : Cmd) (sel : Nat → Bool) (h : s.mem.wf = true) : (s.readoutWrites c sel).1.mem.wf = true := by
  unfold State.readoutWrites
  exact foldl_keeps (fun x : State × Cmd => x.1.mem.wf = true) _ (fun x w hx => readoutWrite_wf _ _ _ hx) _ _ h
@[simp] theorem failPart_mem (s : State) (c : Cmd) (p : Machine.Part) (f : Nat × Nat × Nat) (info : Nat) : (s.failPart c p f info).mem = s.mem := rfl
@[simp] theorem runPart_mem (s : State) (c : Cmd) (p : Machine.Part) : (s.runPart c p).mem = s.mem := by
  unfold State.runPart
  dsimp only
  (repeat' split) <;> simp
@[simp] theorem stepPart_mem (s : State) (c : Cmd) (p : Machine.Part) : (s.stepPart c p).mem = s.mem := rfl
@[simp] theorem startPart_mem (s : State) (c : Cmd) (p : Machine.Part) : (s.startPart c p).mem = s.mem := by
  unfold State.startPart
  dsimp only
  (repeat' split) <;> simp
@[simp] theorem dropCmd_mem (s : State) (cid : Nat) : (s.dropCmd cid).mem = s.mem := rfl
@[simp] theorem readoutTags_wf (s : State) (c : Cmd) : (s.readoutTags c).mem.wf = s.mem.wf := by
  unfold State.readoutTags
  exact foldl_wf_eq (fun s b => by simp) _ s
@[simp] theorem landStatus_mem (s : State) (c : Cmd) : (s.landStatus c).mem = s.mem := by
  unfold State.landStatus
  simp

/-! ### Owners and the way partition (R298 to R313) -/

@[simp] theorem incomplete_mem (s : State) (d : Descr) : (s.incomplete d).mem = s.mem := by
  unfold State.incomplete
  exact foldl_mem (fun s e => by simp) _ s
@[simp] theorem enableOwner_mem (s : State) (o : Nat) (cfg : Word) : (s.enableOwner o cfg).mem = s.mem := by
  unfold State.enableOwner
  simp
@[simp] theorem writeOwncfg_mem (s : State) (v : Word) : (s.writeOwncfg v).mem = s.mem := by
  unfold State.writeOwncfg
  dsimp only
  (repeat' split) <;> simp
@[simp] theorem writeCapent_mem (s : State) (v : Word) : (s.writeCapent v).mem = s.mem := by
  unfold State.writeCapent
  simp
@[simp] theorem writeRrange_mem (s : State) (k : Nat) (v : Word) : (s.writeRrange k v).mem = s.mem := rfl
@[simp] theorem wakeWaypart_mem (s : State) (n : Nat) : (s.wakeWaypart n).mem = s.mem := rfl
@[simp] theorem endWaypart_wf (s : State) (n : Nat) (h : s.mem.wf = true) : (s.endWaypart n).mem.wf = true := by
  unfold State.endWaypart
  dsimp only
  split <;> simp [h, clear_wf]
@[simp] theorem wakeFrz_mem (s : State) (o : Nat) : (s.wakeFrz o).mem = s.mem := rfl

/-! ### Streams (R206 to R217) -/

@[simp] theorem fetchNow_wf (s : State) (p : Place) (b : Addr) : (s.fetchNow p b).1.mem.wf = s.mem.wf := by
  unfold State.fetchNow
  split
  · have hw := walkFill_wf s p ‹Nat›
    split <;> (next e => rw [e] at hw; exact hw)
  · rfl
theorem inject_wf {s : State} {st : Machine.Stream} {x : State × Machine.Stream} (h : s.mem.wf = true) (e : s.inject st = some x) : x.1.mem.wf = true := by
  unfold State.inject at e
  extract_lets st1 r r1 add at e
  have hr : r1.1.mem.wf = true := by simp [r1, r, h]
  have ha : ∀ {st ws f}, add st ws f = some x → x.1.mem.wf = true := by
    intro st ws f e
    cases e
    exact hr
  split at e
  · cases e; exact h
  · split at e
    · obtain ⟨u, -, e⟩ := Option.bind_eq_some_iff.mp e
      exact ha e
    · exact ha e
    · exact ha e
    · cases e
    · cases e
@[simp] theorem beatOpens_mem (s : State) (st : Machine.Stream) (b : Nat) : (s.beatOpens st b).1.mem = s.mem := rfl
/-- A stream beat opens, injects a bundle and starts the commands that wait for it (R214). -/
theorem beginBeat_wf {s t : State} {st : Machine.Stream} (h : s.mem.wf = true) (e : s.beginBeat st = some t) : t.mem.wf = true := by
  unfold State.beginBeat at e
  extract_lets b ts x at e
  split at e
  · cases e
  · split at e
    · cases e
    · next s2 st2 hi =>
      extract_lets ks s3 at e
      have h2 : s2.mem.wf = true := inject_wf (s := x.1) h hi
      split at e
      · cases e
      · cases e
        exact foldl_wf (fun s k hs => by split <;> simp [hs]) _ (by simp [s3, h2])
@[simp] theorem endStream_wf (s : State) (st : Machine.Stream) (fail : Option FailRep) (h : s.mem.wf = true) : (s.endStream st fail).mem.wf = true := by
  unfold State.endStream
  have hd : ∀ ts, (List.foldl (fun (s : State) (t : Thread) => (s.dropWaits t.uid).dropThread t.uid) s ts).mem.wf = true :=
    fun ts => foldl_wf (fun s t hs => by simp [hs]) ts h
  extract_lets ts s1 s2 s3 s4
  have h1 : s1.mem.wf = true := hd _
  have h2 : s2.mem.wf = true := h1
  have h3 : s3.mem.wf = true := by rw [State.modGraph_mem]; exact h2
  have h4 : s4.mem.wf = true := foldl_wf (fun s t hs => by simp [hs]) _ (pumpStreams_wf _ _ h3)
  exact taskEnd_wf _ _ _ _ _ h4

/-! ### Walks, invalidations, keys, ends of tasks and events (R341 to R356) -/

@[simp] theorem dropWalk_mem (s : State) (id : Nat) : (s.dropWalk id).mem = s.mem := rfl
@[simp] theorem wakeWalk_mem (s : State) (id : Nat) (fault : Option Nat) : (s.wakeWalk id fault).mem = s.mem := rfl
theorem walkEnd_wf (s : State) (w : Walk) : (s.walkEnd w).2.mem.wf = s.mem.wf := by
  unfold State.walkEnd
  split
  · exact walkFill_wf _ _ _
  · have hw := walkFill_wf s ⟨w.o, w.l, ‹Nat›⟩ w.va
    split
    · next e =>
      rw [e] at hw
      rw [← hw]
      exact foldl_wf_eq (fun s c => by simp) _ _
    · exact hw
@[simp] theorem sweepCode_wf (s : State) (kind own page : Nat) : (s.sweepCode kind own page).mem.wf = s.mem.wf := by
  unfold State.sweepCode
  (repeat' split) <;> simp [*]
@[simp] theorem invalidate_wf (s : State) (kind own page : Nat) : (s.invalidate kind own page).mem.wf = s.mem.wf := by
  unfold State.invalidate
  simp
@[simp] theorem putKey_mem (s : State) (k : Nat) (x : BitVec 512) : (s.putKey k x).mem = s.mem := rfl
@[simp] theorem emptyKey_mem (s : State) (k : Nat) : (s.emptyKey k).mem = s.mem := rfl
@[simp] theorem spillEngine_wf (s : State) (idx x o : Nat) (h : s.mem.wf = true) : (s.spillEngine idx x o).mem.wf = true := by
  unfold State.spillEngine
  dsimp only
  (repeat' split) <;> simp [h]
@[simp] theorem endTask_wf (s : State) (o : Nat) (tid : BitVec 32) (h : s.mem.wf = true) : (s.endTask o tid).mem.wf = true := by
  unfold State.endTask
  dsimp only
  split
  · split <;> simp [h]
  · refine foldl_wf (fun s p hs => by simp [hs]) _ (foldl_wf (fun s k hs => by simp [hs]) _ (bury_wf _ _ ?_))
    exact foldl_wf (fun s t hs => by simp [hs]) _ h
@[simp] theorem freezeOwner_mem (s : State) (o : Nat) : (s.freezeOwner o).mem = s.mem := by
  unfold State.freezeOwner
  simp
@[simp] theorem releaseOwner_mem (s : State) (o : Nat) : (s.releaseOwner o).mem = s.mem := by
  unfold State.releaseOwner
  simp
@[simp] theorem writeEv_wf (s : State) (e : Ev) (h : s.mem.wf = true) : (s.writeEv e).mem.wf = true := by
  unfold State.writeEv
  dsimp only
  (repeat' split) <;> simp [h]
@[simp] theorem takeEv_wf (s : State) (k : Nat) (h : s.mem.wf = true) : (s.takeEv k).mem.wf = true := by
  unfold State.takeEv
  dsimp only
  (repeat' split) <;> simp [h]

/-! ### Installations (R380 to R394) -/

@[simp] theorem setInstall_mem (s : State) (x : Install) : (s.setInstall x).mem = s.mem := rfl
@[simp] theorem failInstall_mem (s : State) (x : Install) (c : Nat) : (s.failInstall x c).mem = s.mem := rfl
@[simp] theorem retireBlock_mem (s : State) (o e block : Nat) : (s.retireBlock o e block).mem = s.mem := by
  unfold State.retireBlock
  simp
@[simp] theorem countErase_mem (s : State) (block : Nat) : (s.countErase block).mem = s.mem := rfl
@[simp] theorem eraseBytes_wf (s : State) (e off n : Nat) (h : s.mem.wf = true) : (s.eraseBytes e off n).mem.wf = true := eraseBytes_memOk s e off n h
@[simp] theorem installArrive_mem (s : State) (x : Install) : (s.installArrive x).mem = s.mem := by
  unfold State.installArrive
  simp
@[simp] theorem installChecks_mem (s : State) (x : Install) : (s.installChecks x).mem = s.mem := by
  unfold State.installChecks
  simp
@[simp] theorem dropInstalled_mem (s : State) (x : Install) : (s.dropInstalled x).mem = s.mem := rfl
@[simp] theorem installErased_wf (s : State) (x : Install) (h : s.mem.wf = true) : (s.installErased x).mem.wf = true := by
  unfold State.installErased
  simp [h]
@[simp] theorem installPage_wf (s : State) (x : Install) (ok : Bool) (h : s.mem.wf = true) : (s.installPage x ok).mem.wf = true := by
  unfold State.installPage
  dsimp only
  (repeat' split) <;> simp [h, write_wf]
@[simp] theorem installDone_mem (s : State) (x : Install) : (s.installDone x).mem = s.mem := rfl
@[simp] theorem trimInstalls_mem (s : State) (o : Nat) : (s.trimInstalls o).mem = s.mem := by
  unfold State.trimInstalls
  dsimp only
  (repeat' split) <;> simp
@[simp] theorem installEnd_wf (s : State) (x : Install) (h : s.mem.wf = true) : (s.installEnd x).mem.wf = true := by
  unfold State.installEnd
  dsimp only
  (repeat' split) <;> simp [h]

/-! ### Errors of memory, columns and lanes (R395 to R406) -/

@[simp] theorem poisonEv_mem (s : State) (data : Nat) : (s.poisonEv data).mem = s.mem := rfl
@[simp] theorem poisonShale_wf (s : State) (stack layer sector : Nat) : (s.poisonShale stack layer sector).mem.wf = s.mem.wf := rfl
@[simp] theorem flashErrs_mem (s : State) : s.flashErrs.mem = s.mem := by
  unfold State.flashErrs
  rw [foldl_mem (fun s e => by simp), State.modFlash_mem]
@[simp] theorem colEv_mem (s : State) (ty : Nat) (c : Column) : (s.colEv ty c).mem = s.mem := rfl
@[simp] theorem shaleError_wf (s : State) (k layer sector : Nat) (two : Bool) : (s.shaleError k layer sector two).mem.wf = s.mem.wf := by
  unfold State.shaleError
  simp
@[simp] theorem memError_wf (s : State) (unit n : Nat) (h : s.mem.wf = true) : (s.memError unit n).mem.wf = true := by
  unfold State.memError
  split
  · simp [h]
  · simp [h]
  · exact h
  · extract_lets k way set at_ s1 x
    have h1 : s1.mem.wf = true := by simp [s1, h]
    split <;> simp [h1]
  · dsimp only
    split <;> simp [h]
  · simp [h]
  · split
    · split <;> simp [h]
    · exact h
  · simp [h]
@[simp] theorem patrolRead_mem (s : State) : s.patrolRead.mem = s.mem := by
  unfold State.patrolRead
  simp
@[simp] theorem patrolEnd_mem (s : State) : s.patrolEnd.mem = s.mem := by
  unfold State.patrolEnd
  simp
@[simp] theorem laneEv_mem (s : State) (ty tile region : Nat) : (s.laneEv ty tile region).mem = s.mem := rfl
@[simp] theorem halve_mem (s : State) (tile region : Nat) : (s.halve tile region).mem = s.mem := by
  unfold State.halve
  simp
@[simp] theorem applyRepair_mem (s : State) (r : Repair) : (s.applyRepair r).mem = s.mem := by
  unfold State.applyRepair
  simp

/-! ### Images, restores and pulled pages (R407 to R421) -/

@[simp] theorem globalStop_mem (s : State) (o : Nat) : (s.globalStop o).mem = s.mem := by
  unfold State.globalStop
  simp
@[simp] theorem localStop_mem (s : State) (o : Nat) : (s.localStop o).mem = s.mem := by
  unfold State.localStop
  simp
@[simp] theorem stepResume_mem (s : State) (o : Nat) : (s.stepResume o).mem = s.mem := by
  unfold State.stepResume
  simp
@[simp] theorem imageWrite_wf (s : State) (o : Nat) (key : BitVec 512) (base n off : Nat) (bs : List Byte) (h : s.mem.wf = true) :
    (s.imageWrite o key base n off bs).mem.wf = true := by
  induction n generalizing s off bs with
  | zero => exact h
  | succ n ih => exact ih _ _ _ (by simp [h])
theorem zero4k_memOk {s : State} (a : Nat) (h : MemOk s) : MemOk (s.zero4k a) := by
  unfold State.zero4k
  exact foldl_keeps MemOk _ (fun s i hs => unitWrite_memOk s _ _ hs) _ _ h
@[simp] theorem slateEnd_mem (s : State) (code : Nat) : (s.slateEnd code).mem = s.mem := rfl
theorem imageStart_memOk {s : State} (o : Nat) (h : MemOk s) : MemOk (s.imageStart o) := by
  have he : ∀ c, MemOk (s.slateEnd c) := fun _ => h
  unfold State.imageStart
  split
  · exact he _
  · split
    · exact he _
    · split
      · exact he _
      · split
        · exact he _
        · extract_lets s1
          have h1 : MemOk s1 := by
            unfold s1
            split
            · exact zero4k_memOk _ h
            · exact h
          exact modTrust_memOk _ (zero4k_memOk _ h1)
@[simp] theorem imageStart_wf (s : State) (o : Nat) (h : s.mem.wf = true) : (s.imageStart o).mem.wf = true := imageStart_memOk o h
@[simp] theorem imageFill_wf (s : State) (o : Nat) (h : s.mem.wf = true) : (s.imageFill o).mem.wf = true := by
  unfold State.imageFill
  split
  · simp [h]
  · simp [h]
  · extract_lets b s1
    have h1 : s1.mem.wf = true := foldl_wf (fun s e hs => foldl_wf (fun s i hs => by simp [hs]) _ hs) _ h
    split
    · simp [h]
    · rw [State.modTrust_mem]
      exact imageWrite_wf _ _ _ _ _ _ _ h1
@[simp] theorem imageCommit_wf (s : State) (o : Nat) (h : s.mem.wf = true) : (s.imageCommit o).mem.wf = true := by
  unfold State.imageCommit
  split <;> simp [h]
/-- A shard restored writes its bytes, then the marks of its sectors and its F bits (R417). -/
@[simp] theorem restoreShard_wf (s : State) (o : Nat) (img : List Byte) (tab : List State.Shard) (e : State.Shard) (h : s.mem.wf = true) :
    (s.restoreShard o img tab e).mem.wf = true := by
  unfold State.restoreShard
  extract_lets bs at_ sectors s1 s2 s3
  have h1 : s1.mem.wf = true := by
    unfold s1
    split
    · exact foldl_wf (fun s k hs => by simp [hs]) _ h
    · exact h
  have h2 : s2.mem.wf = true := foldl_wf (fun s x hs => by dsimp only; split <;> simp [hs, setB_wf]) _ h1
  have h3 : s3.mem.wf = true := foldl_wf (fun s k hs => by dsimp only; (repeat' split) <;> simp [hs]) _ h2
  split
  · exact foldl_wf (fun s k hs => by split <;> simp [hs]) _ h3
  · exact h3
@[simp] theorem dropGraph_wf (s : State) (o : Nat) (h : s.mem.wf = true) : (s.dropGraph o).mem.wf = true := by
  unfold State.dropGraph
  exact foldl_wf (fun s x hs => by simp [hs]) _ (foldl_wf (fun s b hs => by simp [hs]) _ h)
@[simp] theorem restoreInbox_wf (s : State) (x : Inbox) (h : s.mem.wf = true) : (s.restoreInbox x).mem.wf = true := by
  unfold State.restoreInbox
  exact foldl_wf (fun s i hs => by simp [hs]) _ h
@[simp] theorem putGraphPos_wf (s : State) (o : Nat) (g : GraphPos) (h : s.mem.wf = true) : (s.putGraphPos o g).mem.wf = true := by
  unfold State.putGraphPos
  exact foldl_wf (fun s x hs => by simp [hs]) _ h
@[simp] theorem asEnabled_wf (s : State) (o : Nat) : (s.asEnabled o).mem.wf = s.mem.wf := by
  unfold State.asEnabled
  simp
@[simp] theorem restore_wf (s : State) (o : Nat) (h : s.mem.wf = true) : (s.restore o).mem.wf = true := by
  unfold State.restore
  dsimp only
  have hf : ∀ (img : List Byte) (tab es : List State.Shard), (es.foldl (fun (s : State) e => s.restoreShard o img tab e) s).mem.wf = true :=
    fun img tab es => foldl_wf (fun s e hs => by simp [hs]) es h
  (repeat' split) <;> simp [h, hf]
@[simp] theorem pullClear_wf (s : State) (o page : Nat) (h : s.mem.wf = true) : (s.pullClear o page).mem.wf = true := by
  unfold State.pullClear
  simp [h]
theorem pullClear_memOk {s : State} (o page : Nat) (h : MemOk s) : MemOk (s.pullClear o page) := pullClear_wf s o page h
@[simp] theorem holdIx_mem (s : State) (x : IxIn) : (s.holdIx x).mem = s.mem := rfl
@[simp] theorem pullMeet_wf (s : State) (r : Req) (h : s.mem.wf = true) : (s.pullMeet r).mem.wf = true := by
  unfold State.pullMeet
  cases r.kind with
  | load | amo | ldfe | ldff | lrw | spawn | red | redF | store | stfe | stf | feClr | scq | rsvRel => simp [h]
  | region ws =>
    simp only [answer_mem]
    refine foldl_wf (fun s w hs => ?_) _ h
    split <;> simp [hs]
  | _ => exact h
@[simp] theorem pullCopies_mem (s : State) (o page : Nat) : (s.pullCopies o page).mem = s.mem := by
  unfold State.pullCopies
  refine foldl_mem (fun s c => ?_) _ s
  split <;> simp
@[simp] theorem pullCmds_mem (s : State) (o page : Nat) : (s.pullCmds o page).mem = s.mem := rfl
@[simp] theorem pullInstalls_mem (s : State) (o page : Nat) : (s.pullInstalls o page).mem = s.mem := rfl
/-- A page that cannot be pulled reads as zeros with its sectors poisoned (R420). -/
@[simp] theorem pullFail_wf (s : State) (o page : Nat) (h : s.mem.wf = true) : (s.pullFail o page).mem.wf = true := by
  unfold State.pullFail
  refine foldl_wf (fun s r hs => ?_) _ ?_
  · (repeat' split) <;> simp [hs]
  · refine pullClear_wf _ _ _ ?_
    rw [State.raiseEv_mem, State.modOwner_mem]
    refine foldl_wf (fun s k hs => ?_) _ (by simp [h])
    split <;> simp [hs, write_wf]
@[simp] theorem pullStart_wf (s : State) (o page : Nat) (h : s.mem.wf = true) : (s.pullStart o page).mem.wf = true := by
  unfold State.pullStart
  dsimp only
  split <;> simp [h]
@[simp] theorem tokenArrives_mem (s : State) (o dev num : Nat) : (s.tokenArrives o dev num).mem = s.mem := by
  unfold State.tokenArrives
  simp

/-! ### Metering, teardown, reset and boot (R423 to R446) -/

@[simp] theorem ringNotice_mem (s : State) : s.ringNotice.mem = s.mem := by
  unfold State.ringNotice
  simp
@[simp] theorem produce_mem (s : State) (o : Nat) (final lost : Bool) : (s.produce o final lost).mem = s.mem := by
  unfold State.produce
  simp
@[simp] theorem writeRec_wf (s : State) (h : s.mem.wf = true) : s.writeRec.mem.wf = true := by
  unfold State.writeRec
  split
  · exact h
  · extract_lets bs a s1 tl s2
    have h1 : MemOk s1 := foldl_keeps MemOk _ (fun s i hs => unitWrite_memOk s _ _ hs) _ _ h
    have h2 : s2.mem.wf = true := by
      rw [State.modTrust_mem, State.modRegs_mem]
      exact h1
    split <;> simp [h2]
@[simp] theorem setProg_mem (s : State) (busy : Bool) (o stage total done : Nat) : (s.setProg busy o stage total done).mem = s.mem := by
  unfold State.setProg
  rw [State.modRegs_mem]
@[simp] theorem clearPlat_wf (s : State) (a n : Nat) (h : s.mem.wf = true) : (s.clearPlat a n).mem.wf = true := clearPlat_memOk s a n h
@[simp] theorem dropOuter_mem (s : State) (lo n : Nat) : (s.dropOuter lo n).mem = s.mem := rfl
@[simp] theorem clearStacks_wf (s : State) (d : List Nat) (h : s.mem.wf = true) : (s.clearStacks d).mem.wf = true := clearStacks_memOk d s h
@[simp] theorem wakeScrub_mem (s : State) (p : Nat → Bool) : (s.wakeScrub p).mem = s.mem := rfl
/-- An owner drained loses no byte yet (R439, R441). -/
@[simp] theorem drainOwner_mem (s : State) (o : Nat) : (s.drainOwner o).mem = s.mem := by
  unfold State.drainOwner
  dsimp only
  rw [wakeFrz_mem, unbindRows_mem, State.modTrust_mem, State.modFlash_mem, State.modGraph_mem, foldl_mem (fun s f => by simp), State.raiseEv_mem,
    State.modOwner_mem, foldl_mem (fun s c => by simp)]
@[simp] theorem drainEnd_wf (s : State) (o : Nat) (h : s.mem.wf = true) : (s.drainEnd o).mem.wf = true := by
  unfold State.drainEnd
  extract_lets s1 s2 s3
  have h2 : s2.mem.wf = true := foldl_wf (fun s x hs => by simp [hs]) _ h
  have h3 : s3.mem.wf = true := by simp [s3, h2]
  simp [h3]
@[simp] theorem drainPump_wf (s : State) (h : s.mem.wf = true) : s.drainPump.mem.wf = true := by
  unfold State.drainPump
  split <;> simp [h]
@[simp] theorem clearTiles_wf (s : State) (o : Nat) (h : s.mem.wf = true) : (s.clearTiles o).mem.wf = true := by
  unfold State.clearTiles
  simp [h, clear_wf]
theorem setSlices_memOk {s : State} (h : MemOk s) (xs : List Slice) : MemOk { s with slices := xs } := h
/-- A slice cleared, without ways and lines. -/
theorem clearSlice_memOk {s : State} (h : MemOk s) (lo k n : Nat) (x : Slice) :
    MemOk (((s.modMem (fun m => m.clear lo k)).setSlice x).wakeWaypart n) := by
  rw [memOk_iff, wakeWaypart_mem, setSlice_mem, State.modMem_mem]
  exact clear_wf _ _ _ h
theorem clearSlices_memOk {s : State} (o : Nat) (h : MemOk s) : MemOk (s.clearSlices o) := by
  unfold State.clearSlices
  extract_lets d s1 s2
  have h1 : MemOk s1 := foldl_keeps MemOk _ (fun s n hs => clearSlice_memOk hs _ _ _ _) _ _ h
  have h2 : MemOk s2 := foldl_keeps MemOk _ (fun s k hs => setSlices_memOk (modOwner_memOk hs _ _) _) _ _ h1
  clear_value s2
  exact h2
@[simp] theorem clearSlices_wf (s : State) (o : Nat) (h : s.mem.wf = true) : (s.clearSlices o).mem.wf = true := clearSlices_memOk o h
/-- The teardown clears its slices, its stacks and its areas unit by unit (R439). -/
@[simp] theorem scrubUnit_wf (s : State) (h : s.mem.wf = true) : s.scrubUnit.mem.wf = true := by
  unfold State.scrubUnit
  extract_lets o d n a b up lo
  have hu : ∀ t : State, (up t).mem = t.mem := fun t => by unfold up; rw [State.modTrust_mem, setProg_mem]
  split
  · exact h
  · split
    · split
      · rw [hu, State.modMem_mem]
        exact clear_wf _ _ _ h
      · exact h
    · split
      · rw [hu, State.charge_mem, State.modMem_mem, dropOuter_mem]
        exact clear_wf _ _ _ h
      · exact h
    · split
      · rw [hu, State.charge_mem]
        exact clearPlat_wf _ _ _ h
      · exact h
    · exact h
@[simp] theorem scrubKeys_wf (s : State) (o : Nat) (h : s.mem.wf = true) : (s.scrubKeys o).mem.wf = true := by
  unfold State.scrubKeys
  rw [setProg_mem]
  exact foldl_wf (fun s k hs => by simp [hs]) _ h
@[simp] theorem endScrub_mem (s : State) (o : Nat) : (s.endScrub o).mem = s.mem := by
  unfold State.endScrub
  simp
/-- What a reset leaves of the cells is their bytes changed in place, the zero ones dropped (R423). -/
@[simp] theorem afterReset_wf (s : State) (applied : Bool) (h : s.mem.wf = true) : (s.afterReset applied).mem.wf = true := by
  unfold State.afterReset
  extract_lets stay left
  exact mapFilter_wf left _ _ h
@[simp] theorem resetNow_wf (s : State) (h : s.mem.wf = true) : s.resetNow.mem.wf = true := by
  unfold State.resetNow
  split <;> simp [h]
@[simp] theorem finishPending_wf (s : State) (p : Pending) (h : s.mem.wf = true) : (s.finishPending p).mem.wf = true := by
  unfold State.finishPending
  extract_lets s1 s2
  have h1 : s1.mem.wf = true := by unfold s1; split <;> simp [h]
  have h2 : s2.mem.wf = true := by
    rw [State.charge_mem, incomplete_mem]
    exact foldl_wf (fun s a hs => clearPlat_wf _ _ _ hs) _ (clearStacks_wf _ _ h1)
  simp [h2]
/-- The boot erases what is still pending, then writes the payload (R425). -/
@[simp] theorem bootWith_wf (s : State) (img : List Byte) (h : s.mem.wf = true) : (s.bootWith img).mem.wf = true := by
  unfold State.bootWith
  extract_lets len pay d svn n s1 key0 s2 s3 s4 s5 scrubs s6 s7 cause s8 t s9
  have h5 : s5.mem.wf = true := by
    rw [State.modRot_mem, State.modOwner_mem, putKey_mem, putKey_mem, State.modTrust_mem]
    simp [s1, h]
  have h6 : s6.mem.wf = true := foldl_wf (fun s p hs => by simp [hs]) _ h5
  have h7 : s7.mem.wf = true := platWrite_wf _ _ _ h6
  have h8 : s8.mem.wf = true := by simp [s8, h7]
  rw [State.bump_mem, State.modGraph_mem, State.bump_mem]
  exact h8
@[simp] theorem rfail_mem (s : State) (e : Nat) : (s.rfail e).mem = s.mem := rfl
@[simp] theorem rorder_mem (s : State) : s.rorder.mem = s.mem := by
  unfold State.rorder
  simp
@[simp] theorem verifyImage_mem (s : State) : s.verifyImage.mem = s.mem := by
  unfold State.verifyImage
  simp
@[simp] theorem debugRead_mem (s : State) (o data : Nat) (bs : List Byte) : (s.debugRead o data bs).mem = s.mem := rfl

/-! ### Pauses of the rotation (R314 to R331) -/

@[simp] theorem setPause_mem (s : State) (p : Pause) : (s.setPause p).mem = s.mem := rfl
@[simp] theorem emptySlot_wf (s : State) (o l : Nat) (h : s.mem.wf = true) : (s.emptySlot o l).mem.wf = true := emptySlot_memOk s o l h
@[simp] theorem applyChange_wf (s : State) (a : SlotChange) (h : s.mem.wf = true) : (s.applyChange a).mem.wf = true := by
  unfold State.applyChange
  dsimp only
  (repeat' split) <;> simp [h]
@[simp] theorem moveOn_mem (s : State) : s.moveOn.mem = s.mem := rfl
@[simp] theorem advanceCur_mem (s : State) : s.advanceCur.mem = s.mem := by
  unfold State.advanceCur
  refine foldl_mem (fun s i => ?_) _ s
  dsimp only
  (repeat' split) <;> simp
@[simp] theorem retireOne_mem (s : State) (moves : Bool) (f : Nat × Nat) : (s.retireOne moves f).mem = s.mem := by
  unfold State.retireOne
  simp
@[simp] theorem chargeSaves_wf (s : State) (was : List Tenancy) (h : s.mem.wf = true) : (s.chargeSaves was).mem.wf = true := by
  unfold State.chargeSaves
  refine foldl_wf (fun s t hs => ?_) _ h
  dsimp only
  (repeat' split) <;> simp [hs]
@[simp] theorem needSaves_mem (s : State) : s.needSaves.mem = s.mem := by
  unfold State.needSaves
  simp
@[simp] theorem emptyCaches_mem (s : State) : s.emptyCaches.mem = s.mem := rfl
@[simp] theorem mapSwitch_wf (s : State) (p : Pause) (h : s.mem.wf = true) : (s.mapSwitch p).mem.wf = true := by
  unfold State.mapSwitch
  extract_lets s1 was s2 s3 s4
  have h1 : s1.mem.wf = true := by
    rw [State.modRot_mem]
    exact foldl_wf (fun s c hs => by simp [hs]) _ h
  have h2 : s2.mem.wf = true := foldl_wf (fun s f hs => by simp [hs]) _ h1
  have h3 : s3.mem.wf = true := by unfold s3; split <;> simp [h2]
  have h4 : s4.mem.wf = true := by unfold s4; split <;> simp [h3]
  simp [h4]
@[simp] theorem capture_mem (s : State) : s.capture.mem = s.mem := rfl
@[simp] theorem turnsBroken_mem (s : State) : s.turnsBroken.mem = s.mem := by
  unfold State.turnsBroken
  simp
@[simp] theorem resumeIssue_wf (s : State) (p : Pause) (h : s.mem.wf = true) : (s.resumeIssue p).mem.wf = true := by
  unfold State.resumeIssue
  extract_lets s1 s2 s3 s4 s5 s6
  have h4 : s4.mem.wf = true := by simp [s4, s3, s2, s1, h]
  have h5 : s5.mem.wf = true := foldl_wf (fun s o hs => by split <;> simp [hs]) _ h4
  exact pumpHeads_wf _ (foldl_wf (fun s x hs => by simp [hs]) _ h5)

/-! ### The host port and peers (R357 to R377) -/

@[simp] theorem writePiece_wf (s : State) (l : Loc) (bs : List Byte) (h : s.mem.wf = true) : (s.writePiece l bs).mem.wf = true := by
  unfold State.writePiece
  simp [h]
@[simp] theorem readPieces_wf (s : State) (ps : List (Loc × Nat × Nat)) (bs : List Byte) : (s.readPieces ps bs).1.mem.wf = s.mem.wf := by
  induction ps generalizing s bs with
  | nil => rfl
  | cons p ps ih => exact (ih _ _).trans (by simp)
@[simp] theorem writePieces_wf (base : Nat) (bytes : List Byte) (s : State) (ps : List (Loc × Nat × Nat)) (h : s.mem.wf = true) :
    (State.writePieces base bytes s ps).mem.wf = true := by
  induction ps generalizing s with
  | nil => exact h
  | cons p ps ih => exact ih _ (by simp [h])
@[simp] theorem sendPending_mem (s : State) (fn : Nat) : (s.sendPending fn).mem = s.mem := by
  unfold State.sendPending
  split
  · split
    · exact foldl_mem (fun s v => by simp) _ _
    · rfl
  · rfl
@[simp] theorem servePost_mem (s : State) (fn off : Nat) (bytes : List Byte) (kept : Bool) : (s.servePost fn off bytes kept).mem = s.mem := by
  unfold State.servePost
  (repeat' split) <;> simp [*]
@[simp] theorem unsupported_mem (s : State) (fn : Nat) : (s.unsupported fn).mem = s.mem := rfl
theorem windowRead_wf {s t : State} {f : Fn} {fn off len : Nat} (h : s.mem.wf = true) (e : s.windowRead f fn off len = some t) : t.mem.wf = true := by
  unfold State.windowRead at e
  repeat' split at e
  · cases e; simp [h]
  · cases e
  · cases e; simp [h]
theorem windowWrite_wf {s t : State} {f : Fn} {fn off : Nat} {bytes : List Byte} (h : s.mem.wf = true) (e : s.windowWrite f fn off bytes = some t) :
    t.mem.wf = true := by
  unfold State.windowWrite at e
  dsimp only at e
  repeat' split at e
  · cases e; simp [h]
  · cases e
  · cases e; simp [h]
@[simp] theorem configRead_mem (s : State) (fn off len : Nat) : (s.configRead fn off len).mem = s.mem := by
  unfold State.configRead
  (repeat' split) <;> simp [*]
theorem serveRead_wf {s t : State} {fn off len : Nat} (h : s.mem.wf = true) (e : s.serveRead fn off len = some t) : t.mem.wf = true := by
  unfold State.serveRead at e
  dsimp only at e
  split at e
  · cases e; exact h
  · split at e
    · split at e
      · cases e; simp [h]
      · exact windowRead_wf h e
    · cases e; split <;> simp [h]
    · cases e; split <;> simp [h]
    · cases e; simp [h]
    · split at e
      · cases e; simp [h]
      · exact windowRead_wf h e
theorem serveWrite_wf {s t : State} {fn off : Nat} {bytes : List Byte} {kept : Bool} (h : s.mem.wf = true) (e : s.serveWrite fn off bytes kept = some t) :
    t.mem.wf = true := by
  unfold State.serveWrite at e
  dsimp only at e
  split at e
  · cases e; exact h
  · split at e
    · split at e
      · cases e; exact h
      · exact windowWrite_wf h e
    · split at e
      · cases e; exact h
      · cases e
        rw [sendPending_mem]
        exact foldl_wf (fun s k hs => by simp [hs]) _ h
    · cases e; simp [h]
    · cases e; exact h
    · split at e
      · cases e; exact h
      · exact windowWrite_wf h e
@[simp] theorem ixAnswer_mem (s : State) (r : IxReq) (ok : Bool) (bs : List Byte) : (s.ixAnswer r ok bs).mem = s.mem := rfl
@[simp] theorem inboundDo_wf (s : State) (r : IxReq) (l : Loc) (h : s.mem.wf = true) : (s.inboundDo r l).mem.wf = true := by
  unfold State.inboundDo
  dsimp only
  cases r.op with
  | store => simp [h]
  | load | amo | red | redF => split <;> simp [h]
  | msg => exact h
theorem servePeer_wf {s t : State} {r : IxReq} (h : s.mem.wf = true) (e : s.servePeer r = some t) : t.mem.wf = true := by
  unfold State.servePeer at e
  repeat' split at e
  all_goals cases e
  all_goals simp [h]
@[simp] theorem recoveryRead_mem (s : State) (fn off len : Nat) : (s.recoveryRead fn off len).mem = s.mem := by
  unfold State.recoveryRead
  simp
theorem serveHost_wf {s t : State} {kept : Bool} {r : HostReq} (h : s.mem.wf = true) (e : s.serveHost kept r = some t) : t.mem.wf = true := by
  unfold State.serveHost at e
  split at e
  · cases e; split <;> simp [h]
  · split at e
    · exact serveRead_wf h e
    · cases e; split <;> simp [h]
  · split at e
    · exact serveWrite_wf h e
    · cases e; exact h
  · exact servePeer_wf h e
/-- A held request of the port that is served. -/
theorem heldMove_wf {s : State} {f : HeldReq → Bool} {x : Nat × HeldReq × State} (h : s.mem.wf = true) (e : s.heldMove f = some x) : x.2.2.mem.wf = true := by
  unfold State.heldMove at e
  obtain ⟨y, -, e⟩ := List.exists_of_findSome?_eq_some e
  split at e
  · obtain ⟨t, ht, rfl⟩ := Option.map_eq_some_iff.mp e
    exact serveHost_wf (by exact h) ht
  · cases e
/-- A turn of the port among the owners serves one held request, or waits (R301, R304). -/
@[simp] theorem roundStep_wf (s : State) (inw : Bool) (h : s.mem.wf = true) : (s.roundStep inw).mem.wf = true := by
  unfold State.roundStep
  extract_lets r ws put shares turn
  have hp : ∀ (t : State) o l w, (put t o l w).mem = t.mem := fun t o l w => by simp [put]
  have ht : ∀ {o left ws k x t}, turn = some (o, left, ws, k, x, t) → t.mem.wf = true := by
    intro o left ws k x t e
    unfold turn at e
    split at e
    · next hm =>
      cases e
      split at hm
      · cases hm
      · exact heldMove_wf h hm
    · obtain ⟨o', -, e⟩ := List.exists_of_findSome?_eq_some e
      obtain ⟨m, hm, e⟩ := Option.map_eq_some_iff.mp e
      cases e
      exact heldMove_wf h hm
  clear_value turn
  split
  · rw [hp]; exact h
  · have := ht rfl
    extract_lets n goes
    split
    · split <;> (rw [hp]; exact this)
    · rw [hp, State.modHost_mem]; exact h
@[simp] theorem idlePort_mem (s : State) : s.idlePort.mem = s.mem := by
  unfold State.idlePort
  simp
@[simp] theorem takeHost_wf (s : State) (x : HostReq) (h : s.mem.wf = true) : (s.takeHost x).mem.wf = true := by
  unfold State.takeHost
  extract_lets s1 hold
  have h1 : s1.mem.wf = true := by simp [s1, h]
  have hh : hold.mem.wf = true := by simp [hold, h1]
  split
  · exact hh
  · split
    · next e => exact serveHost_wf h1 e
    · exact hh
@[simp] theorem hostPump_wf (s : State) (h : s.mem.wf = true) : s.hostPump.mem.wf = true := by
  unfold State.hostPump
  split
  · exact h
  · refine roundStep_wf _ _ (roundStep_wf _ _ ?_)
    cases e : s.heldMove _ with
    | none => exact h
    | some m => exact heldMove_wf h e
@[simp] theorem dropRecs_mem (s : State) (p : Nat → Bool) : (s.dropRecs p).mem = s.mem := rfl
@[simp] theorem resetPf_mem (s : State) : s.resetPf.mem = s.mem := rfl

/-! ### The pull unit (R419, R420) -/

@[simp] theorem pullPump_wf (s : State) (o : Nat) (h : s.mem.wf = true) : (s.pullPump o).mem.wf = true := by
  unfold State.pullPump
  split
  · exact h
  · exact foldl_wf (fun s p hs => by split <;> simp [hs]) _ (foldl_wf (fun s p hs => by split <;> simp [hs]) _ h)
theorem pullPump_memOk {s : State} (o : Nat) (h : MemOk s) : MemOk (s.pullPump o) := pullPump_wf s o h
@[simp] theorem pullPumpAll_wf (s : State) (h : s.mem.wf = true) : s.pullPumpAll.mem.wf = true := by
  unfold State.pullPumpAll
  exact foldl_wf (fun s o hs => by simp [hs]) _ h
@[simp] theorem writePullcfg_wf (s : State) (v : Word) (h : s.mem.wf = true) : (s.writePullcfg v).mem.wf = true := by
  unfold State.writePullcfg
  generalize (0x800FFFFFFFFFF000 : Word) = m
  dsimp only
  split
  · exact pullPump_wf _ _ h
  · exact h
@[simp] theorem pullServe_wf (s : State) (o dev rown p : Nat) (h : s.mem.wf = true) : (s.pullServe o dev rown p).mem.wf = true := by
  unfold State.pullServe
  split
  · rw [State.charge_mem, State.send_mem]
    exact foldl_wf (fun s i hs => (chargeMem_wf _ _ _).trans hs) _ h
  · simp [h]
/-- A sector written with its mark. -/
theorem writeMarked_memOk {s : State} (k k' : Nat) (bs : List Byte) (b : Bool) (h : MemOk s) :
    MemOk ((s.modMem (fun m => m.write k bs)).markPoison k' b) := (markPoison_wf _ _ _).trans (write_wf _ _ _ h)
@[simp] theorem pageArrives_wf (s : State) (o page : Nat) (bytes marks : List Byte) (h : s.mem.wf = true) :
    (s.pageArrives o page bytes marks).mem.wf = true := by
  rw [← memOk_iff]
  unfold State.pageArrives
  split
  · exact h
  · extract_lets s1
    suffices h1 : MemOk s1 from pullPump_memOk _ (pullClear_memOk _ _ h1)
    refine foldl_keeps MemOk _ (fun s i hs => ?_) _ _ h
    extract_lets k s1
    have h1 : MemOk s1 := chargeMem_memOk _ _ hs
    split
    · exact h1
    · exact writeMarked_memOk _ _ _ _ h1
@[simp] theorem pageRefused_wf (s : State) (o page : Nat) (h : s.mem.wf = true) : (s.pageRefused o page).mem.wf = true := by
  unfold State.pageRefused
  split <;> simp [h]
@[simp] theorem ixDo_wf (s : State) (a : IxIn) (h : s.mem.wf = true) : (s.ixDo a).mem.wf = true := by
  cases a with
  | token o dev num => simpa [State.ixDo] using h
  | serve o dev rown p => exact pullServe_wf s _ dev rown p h
  | page o page bytes marks => exact pageArrives_wf s _ page bytes marks h
  | refused o page => exact pageRefused_wf s _ page h
@[simp] theorem portPump_wf (s : State) (h : s.mem.wf = true) : s.portPump.mem.wf = true := by
  unfold State.portPump
  (repeat' split) <;> simp [h]

/-! ### The monitor's registers (R93, R115) -/

@[simp] theorem writeFncfg_mem (s : State) (v : Word) : (s.writeFncfg v).mem = s.mem := by
  unfold State.writeFncfg
  simp
@[simp] theorem writeSlcmd_mem (s : State) (v : Word) : (s.writeSlcmd v).mem = s.mem := by
  unfold State.writeSlcmd
  simp
@[simp] theorem writeRoot_mem (s : State) (one : Bool) (v : Word) : (s.writeRoot one v).mem = s.mem := by
  unfold State.writeRoot
  simp
@[simp] theorem writeMon_wf (s : State) (n : Nat) (v : Word) (h : s.mem.wf = true) : (s.writeMon n v).mem.wf = true := by
  unfold State.writeMon
  split <;> simp [h]

/-! ### Bundles and turns (R70, R74) -/

@[simp] theorem readPending_mem (s : State) : s.readPending.mem = s.mem := by
  unfold State.readPending
  simp
@[simp] theorem pairWait_wf (s s' : State) (h : s.mem.wf = true) (h' : s'.mem.wf = true) : (s.pairWait s').mem.wf = true := by
  unfold State.pairWait
  (repeat' split) <;> simp [h, h']
@[simp] theorem waitMark_mem (s : State) (w : Bool) : (s.waitMark w).mem = s.mem := by
  unfold State.waitMark
  simp
@[simp] theorem afterBundle_mem (s : State) (before : Option Region) (w : Bool) : (s.afterBundle before w).mem = s.mem := by
  unfold State.afterBundle
  dsimp only
  (repeat' split) <;> simp
@[simp] theorem overTurn_wf (s : State) (p : Place) (slot : Nat) (stream : Bool) (h : s.mem.wf = true) : (s.overTurn p slot stream).mem.wf = true := by
  unfold State.overTurn
  dsimp only
  split <;> simp [h]
@[simp] theorem boundAt_wf (s : State) (p : Place) (slot : Nat) (h : s.mem.wf = true) : (s.boundAt p slot).1.mem.wf = true := by
  unfold State.boundAt
  simp [h]
@[simp] theorem takeUp_mem (s : State) (t : Thread) : (s.takeUp t).mem = s.mem := rfl
@[simp] theorem idleTurn_mem (s : State) (x : Turn) : (s.idleTurn x).mem = s.mem := by
  unfold State.idleTurn
  simp
@[simp] theorem missTurn_mem (s : State) (x : Turn) : (s.missTurn x).mem = s.mem := by
  unfold State.missTurn
  (repeat' split) <;> simp [*]
@[simp] theorem beginTurn_wf (s : State) (x : Turn) (h : s.mem.wf = true) : (s.beginTurn x).mem.wf = true := by
  unfold State.beginTurn
  dsimp only
  (repeat' split) <;> simp [h]

/-! ### The clock (R5) -/

@[simp] theorem tripNow_mem (s : State) : s.tripNow.mem = s.mem := by
  unfold State.tripNow
  simp
@[simp] theorem halveNow_mem (s : State) : s.halveNow.mem = s.mem := rfl
@[simp] theorem atBoundary_wf (s : State) (h : s.mem.wf = true) : s.atBoundary.mem.wf = true := by
  unfold State.atBoundary
  simp [h]
theorem atBoundary_memOk {s : State} (h : MemOk s) : MemOk s.atBoundary := atBoundary_wf s h
/-- The quartz count goes on, and what it makes due is listed (R5). -/
theorem tick_memOk {s : State} (h : MemOk s) : MemOk s.tick := by
  unfold State.tick
  extract_lets s1 c1 s2 c2 s3
  have h1 : MemOk s1 := by
    unfold s1
    split
    · exact h
    · exact engineCycle_memOk h
  have h2 : MemOk s2 := atBoundary_memOk (setClk_memOk _ h1)
  have h3 : MemOk s3 := setClk_memOk _ h2
  split
  · exact setClk_memOk _ h3
  · exact h3

end Sys2Proof.Laws

/-! SUPPORT. KeptByForms: every form of a thread keeps memory in its form. -/

namespace Sys2Proof.Laws

open Sys2Proof.Machine Sys2Proof.Safety
section
variable {s s' : State}

/-! ### Faults, waits and the accesses of a form -/

theorem memOk_of_settled (h : MemOk s) (e : s' = s.settled s') : MemOk s' := by rw [e]; exact h
theorem raise_memOk (h : MemOk s) (c n : Nat) (a : Addr) : MemOk (s.raise c n a) := memOk_congr (by simp) h
theorem rewind_memOk (h : MemOk s) (p : Park) : MemOk (s.rewind p) := h
theorem modMe_memOk (h : MemOk s) (f : Thread → Thread) : MemOk (s.modMe f) := h
theorem missAt_memOk (h : MemOk s) (va : Nat) (ea : Addr) (f : Bool) : MemOk (s.missAt va ea f) := memOk_congr (by simp) h

/-- A form that resolves its address faults, misses, waits, or goes on from a state that settled no byte. -/
theorem withLoc_memOk {ea : Addr} {n : Nat} {u : State.Use} {k : State → Loc → Res} (h : MemOk s) (hit : ∀ s' l, MemOk s' → Next (k s' l) MemOk) :
    Next (s.withLoc ea n u k) MemOk :=
  withLoc_cases (fun _ _ _ _ e => raise_memOk (memOk_of_settled h e) _ _ _) (fun _ => missAt_memOk h _ _ _) (fun _ l e => hit _ l (memOk_of_settled h e))
    (fun _ e => memOk_of_settled h e)
theorem withChan_memOk {off n : Nat} {ea : Addr} {k : Res} (h : MemOk s) (go : Next k MemOk) : Next (s.withChan off n ea k) MemOk :=
  withChan_cases (rewind_memOk h _) (fun _ _ => raise_memOk h _ _ _) go
/-- A form that parks at a limit, or goes on. -/
theorem limited_memOk {c : Prop} [Decidable c] {p : Park} {t : State} (h : MemOk s) (ht : MemOk t) :
    Next (if c then .next (s.rewind p) else .next t) MemOk := next_ite (fun _ => next_of (rewind_memOk h _)) (fun _ => next_of ht)
theorem ownChan_memOk {off n : Nat} {ea : Addr} {k : Res} {c : Prop} [Decidable c] (h : MemOk s) (go : Next k MemOk) :
    Next (if c then s.withChan off n ea k else k) MemOk := next_ite (fun _ => withChan_memOk h go) (fun _ => go)
/-- A condition of a form: the fault, or the rest. -/
theorem guarded_memOk {c : Prop} [Decidable c] {x y : Nat} {a : Addr} {k : Res} (h : MemOk s) (go : Next k MemOk) :
    Next (if c then .next (s.raise x y a) else k) MemOk := next_ite (fun _ => next_of (raise_memOk h _ _ _)) (fun _ => go)

/-! ### Loads, stores, prefetches and regions (R158 to R172, R188) -/

/-- Inside an atomic region a word is recorded, and nothing is written before the region is performed (R188). -/
theorem regionWord_memOk (h : MemOk s) (r : Region) (ea : Addr) (n : Nat) (st : Option (List Byte)) (ld : Option Dest) (f : LdFmt) :
    Next (s.regionWord r ea n st ld f) MemOk :=
  regionWord_cases (fun _ _ _ _ e => raise_memOk (memOk_of_settled h e) _ _ _) (fun _ => missAt_memOk h _ _ _) (fun _ e => memOk_of_settled h e)
    (fun _ e => rewind_memOk (memOk_of_settled h e) _) (fun s' _ e => (memOk_of_settled h e : MemOk s'))
    (fun s' _ _ _ e _ _ _ => (memOk_of_settled h e : MemOk s'))
theorem longLoad_memOk (h : MemOk s) (ea : Addr) (n : Nat) (f : LdFmt) (d : Dest) (tag : Option (BitVec 16)) (due : Option Nat) (l : Loc) :
    Next (s.longLoad ea n f d tag due l) MemOk := longLoad_cases (rewind_memOk h _) (fun _ _ _ _ _ _ _ => h)
theorem wDest_memOk (h : MemOk s) (d : Dest) (x : VWord) : MemOk (s.wDest d x) := memOk_congr (by simp) h
theorem shortLoad_memOk (h : MemOk s) (ea : Addr) (off n : Nat) (f : LdFmt) (d : Dest) (tag : Option (BitVec 16)) : Next (s.shortLoad ea off n f d tag) MemOk :=
  shortLoad_cases (rewind_memOk h _) (rewind_memOk h _) (fun _ _ => raise_memOk h _ _ _) (wDest_memOk (modMe_memOk h _) _ _)
theorem remoteLoad_memOk (h : MemOk s) (p : Place) (ea : Addr) (n : Nat) (f : LdFmt) (d : Dest) (tag : Option (BitVec 16)) (l : Loc) :
    Next (s.remoteLoad p ea n f d tag l) MemOk :=
  remoteLoad_cases (rewind_memOk h _) (rewind_memOk (modMe_memOk h _) _) (fun _ _ _ => longLoad_memOk (modMe_memOk h _) _ _ _ _ _ _ _)
theorem farLoad_memOk (h : MemOk s) (ea : Addr) (n : Nat) (f : LdFmt) (d : Dest) (tag : Option (BitVec 16)) (due : Option Nat) (l : Loc) :
    Next (if s.atLimit then .next (s.rewind .limit) else (s.modMe (fun t => { t with run := 0 })).longLoad ea n f d tag due l) MemOk :=
  next_ite (fun _ => next_of (rewind_memOk h _)) (fun _ => longLoad_memOk (modMe_memOk h _) _ _ _ _ _ _ _)
/-- A load takes its bytes at issue or asks for them; either way it writes none (R158, R159). -/
theorem loadForm_memOk (h : MemOk s) (ea : Addr) (n : Nat) (f : LdFmt) (d : Dest) (tag : Option (BitVec 16)) : Next (s.loadForm ea n f d tag) MemOk := by
  unfold State.loadForm
  split
  · exact regionWord_memOk h _ _ _ _ _ _
  · refine withLoc_memOk h fun s' l hs => ?_
    split
    · exact next_ite (fun _ => shortLoad_memOk hs _ _ _ _ _ _) (fun _ => guarded_memOk hs (remoteLoad_memOk hs _ _ _ _ _ _ _))
    · exact guarded_memOk hs (farLoad_memOk hs _ _ _ _ _ _ _)
theorem vldkForm_memOk (h : MemOk s) (ea : Addr) (d : Dest) (tag : BitVec 16) : Next (s.vldkForm ea d tag) MemOk := by
  unfold State.vldkForm
  split
  · exact next_of (raise_memOk h _ _ _)
  · exact loadForm_memOk h _ _ _ _ _
theorem timedLoad_memOk (h : MemOk s) (ea : Addr) (n : Nat) (f : LdFmt) (d : Dest) (u : BitVec 12) : Next (s.timedLoad ea n f d u) MemOk := by
  refine guarded_memOk h (withLoc_memOk h fun s' l hs => ?_)
  dsimp only
  split
  · exact ownChan_memOk hs (farLoad_memOk hs _ _ _ _ _ _ _)
  · exact farLoad_memOk hs _ _ _ _ _ _ _
/-- The store of the own scratchpad is the one form that writes bytes as it issues (R158). -/
theorem storeForm_memOk (h : MemOk s) (ea : Addr) (bs : List Byte) : Next (s.storeForm ea bs) MemOk := by
  unfold State.storeForm
  dsimp only
  split
  · exact regionWord_memOk h _ _ _ _ _ _
  · refine withLoc_memOk h fun s' l hs => ?_
    split
    · exact next_ite (fun _ => withOwn_cases (rewind_memOk hs _) (withChan_memOk hs (next_of (write_wf _ _ _ hs)))) (fun _ => guarded_memOk hs (next_of hs))
    · exact guarded_memOk hs (next_of hs)
theorem pref_memOk (h : MemOk s) (a : Fin 16) : Next (execPref a s) MemOk := next_mono (settles_pref s a) fun _ e => memOk_congr (cells_of_settles e) h
theorem prefR_memOk (h : MemOk s) (a : Fin 16) : Next (execPrefR a s) MemOk := next_mono (settles_prefR s a) fun _ e => memOk_congr (cells_of_settles e) h
theorem areg_memOk (h : MemOk s) (n : Fin 16) : Next (execAreg n s) MemOk := guarded_memOk h (guarded_memOk h (next_of h))

/-! ### Synchronisation (R179 to R199) -/

/-- A request on a sync word or an atomic leaves for its home, and is performed there (R183 to R187). -/
theorem syncStore_memOk (h : MemOk s) (ea : Addr) (counts : Bool) (u : State.Use) (k : ReqKind) : Next (s.syncStore ea counts u k) MemOk :=
  withLoc_memOk h fun _ _ hs => limited_memOk hs hs
theorem syncLoad_memOk (h : MemOk s) (d : Fin 16) (ea : Addr) (k : ReqKind) : Next (s.syncLoad d ea k) MemOk :=
  withLoc_memOk h fun _ _ hs => limited_memOk hs hs
theorem resvEnd_memOk (h : MemOk s) (ea : Addr) (u : State.Use) (k : ReqKind) : Next (s.resvEnd ea u k) MemOk :=
  withLoc_memOk h fun _ _ hs => guarded_memOk hs (next_of hs)
theorem lrw_memOk (h : MemOk s) (d a : Fin 16) : Next (execLrw d a s) MemOk := by
  unfold execLrw
  exact withLoc_memOk h fun _ _ hs => guarded_memOk hs (limited_memOk hs hs)
theorem amoForm_memOk (h : MemOk s) (d a b : Fin 16) (n : Nat) (op : AmoOp) : Next (s.amoForm d a b n op) MemOk := by
  unfold State.amoForm
  refine withLoc_memOk h fun s' l hs => ?_
  dsimp only
  split
  · exact ownChan_memOk hs (limited_memOk hs hs)
  · exact limited_memOk hs hs
theorem redForm_memOk (h : MemOk s) (a : Fin 16) (n : Nat) (k : ReqKind) : Next (s.redForm a n k) MemOk := by
  unfold State.redForm
  refine withLoc_memOk h fun s' l hs => ?_
  dsimp only
  split
  · exact ownChan_memOk hs (limited_memOk hs hs)
  · exact limited_memOk hs hs
/-- A barrier operation leaves for its entry; a wait or a release parks the thread (R191). -/
theorem barForm_memOk (h : MemOk s) (x : Word) (acq rel wait : Bool) (k : Nat → ReqKind) : Next (s.barForm x acq rel wait k) MemOk :=
  barForm_cases (raise_memOk h _ _ _) (fun _ _ _ _ _ => by split <;> exact h)
theorem qpush_memOk (h : MemOk s) (a b : Fin 16) : Next (execQpush a b s) MemOk := by
  unfold execQpush
  exact withName_cases (raise_memOk h _ _ _) (fun _ => next_of h)
theorem qpop_memOk (h : MemOk s) (d a : Fin 16) : Next (execQpop d a s) MemOk := by
  refine guarded_memOk h (withAcq_cases (rewind_memOk h _) ?_)
  split
  · exact next_of h
  · exact next_of (memOk_congr (by simp) h)
theorem qpeek_memOk (h : MemOk s) (d a : Fin 16) : Next (execQpeek d a s) MemOk := by
  refine guarded_memOk h (withAcq_cases (rewind_memOk h _) ?_)
  split
  · exact next_of h
  · exact next_of (memOk_congr (by simp) h)
theorem qredTurn_memOk (h : MemOk s) (d a b : Fin 16) (add : VWord → VWord → VWord × Flags) : Next (qredTurn s d a b add) MemOk := by
  refine guarded_memOk h (guarded_memOk h ?_)
  dsimp only
  refine next_ite (fun _ => withAcq_cases (rewind_memOk h _) ?_) (fun _ => next_of ?_)
  · split
    · exact next_of h
    · exact next_of (memOk_congr (by simp) h)
  · split <;> exact h
theorem spawn_memOk (h : MemOk s) (d a : Fin 16) : Next (execSpawn d a s) MemOk := by
  unfold execSpawn
  refine withLoc_memOk h fun s' l hs => ?_
  dsimp only
  split
  · exact next_of (raise_memOk hs _ _ _)
  · exact ownChan_memOk hs (limited_memOk hs hs)
  · exact limited_memOk hs hs

/-! ### Control (R110, R111, R206 to R212, R408) -/

theorem jumpTo_memOk (h : MemOk s) (x : Word) : Next (s.jumpTo x) MemOk := guarded_memOk h (next_of h)
theorem streamOnly_memOk (h : MemOk s) : Next s.streamOnly MemOk := next_ite (fun _ => next_of h) (fun _ => next_of (raise_memOk h _ _ _))
theorem br_memOk (h : MemOk s) (o : BitVec 20) : Next (execBr o s) MemOk := next_ite (fun _ => next_of h) (fun _ => next_of h)
theorem dbnz_memOk (h : MemOk s) (d : Fin 16) (o : BitVec 16) : Next (execDbnz d o s) MemOk := next_of (by split <;> exact h)
theorem sloop_memOk (h : MemOk s) (d : Fin 16) (o : BitVec 16) : Next (execSloop d o s) MemOk := by
  refine next_ite (fun _ => streamOnly_memOk h) (fun _ => guarded_memOk h ?_)
  dsimp only
  split <;> exact next_of h
theorem exit_memOk (h : MemOk s) : Next (execExit s) MemOk := by
  unfold execExit
  split <;> exact next_of h
theorem yield_memOk (h : MemOk s) : Next (execYield s) MemOk := next_ite (fun _ => next_of h) (fun _ => next_of h)
theorem go_memOk (h : MemOk s) (a : Fin 16) : Next (execGo a s) MemOk := guarded_memOk h (next_ite (fun _ => next_of h) (fun _ => next_of h))
theorem step_memOk (h : MemOk s) : Next (execStep s) MemOk := guarded_memOk h (next_of h)

/-! ### The function unit, engines, copies, installs and special registers (R142, R218 to R257, R386, R113) -/

theorem sfuIssue_memOk (h : MemOk s) (f : Nat) (d a : Fin 16) (u : BitVec 8) : Next (s.sfuIssue f d a u) MemOk :=
  sfuIssue_cases (rewind_memOk h _) (rewind_memOk h _) (fun _ _ _ _ _ _ _ => h)
theorem mgrp_memOk (h : MemOk s) (e a : Fin 16) : Next (execMgrp e a s) MemOk := by
  unfold execMgrp
  split
  · exact guarded_memOk h (guarded_memOk h (next_of h))
  · exact next_of (raise_memOk h _ _ _)
theorem matForm_memOk (h : MemOk s) (form : Nat) (d b a : Fin 16) : Next (s.matForm form d b a) MemOk :=
  matForm_cases (raise_memOk h) (rewind_memOk h) (fun _ _ _ _ _ _ => h)
theorem mstat_memOk (h : MemOk s) (d b : Fin 16) : Next (execMstat d b s) MemOk := withEg_cases (raise_memOk h _ _ _) (fun _ => limited_memOk h h)
theorem mfence_memOk (h : MemOk s) (b : Fin 16) : Next (execMfence b s) MemOk := withEg_cases (raise_memOk h _ _ _) (fun _ => next_of h)
theorem copyForm_memOk (h : MemOk s) (k : Nat) (a : Fin 16) : Next (s.copyForm k a) MemOk := copyForm_cases (raise_memOk h) (rewind_memOk h) (fun _ _ _ => h)
theorem chset_memOk (h : MemOk s) (b a : Fin 16) : Next (execChset b a s) MemOk := by
  refine withChannel_cases (raise_memOk h _ _ _) (guarded_memOk h ?_)
  split
  · exact next_of (raise_memOk h _ _ _)
  · exact withChan_memOk h (guarded_memOk h (next_of h))
theorem chq_memOk (h : MemOk s) (d b : Fin 16) : Next (execChq d b s) MemOk := withChannel_cases (raise_memOk h _ _ _) (next_of h)
theorem publish_memOk (h : MemOk s) (a : Fin 16) : Next (execPublish a s) MemOk := next_ite (fun _ => next_of h) (fun _ => next_of (raise_memOk h _ _ _))
theorem winst_memOk (h : MemOk s) (d a : Fin 16) : Next (execWinst d a s) MemOk :=
  withDesc_cases (raise_memOk h) (fun _ => rewind_memOk h _) (rewind_memOk h _) fun _ => guarded_memOk h (guarded_memOk h (guarded_memOk h (limited_memOk h h)))
theorem wstat_memOk (h : MemOk s) (d a : Fin 16) : Next (execWstat d a s) MemOk := limited_memOk h h
theorem rsr_memOk (h : MemOk s) (d : Fin 16) (n : BitVec 12) : Next (execRsr d n s) MemOk :=
  next_ite (fun _ => next_of h) (fun _ => next_ite (fun _ => next_of h) (fun _ => next_of (raise_memOk h _ _ _)))
theorem mrecv_memOk (h : MemOk s) (d : Fin 16) : Next (execMrecv d s) MemOk := limited_memOk h h
/-- Of the special registers only the monitor's reach past the thread (R114, R115). -/
theorem wsr_memOk (h : MemOk s) (a : Fin 16) (n : BitVec 12) : Next (execWsr a n s) MemOk := by
  have hw : MemOk (s.writeMon n.toNat (s.rS a)) := writeMon_wf _ _ _ h
  exact next_ite (fun _ => next_of h) fun _ => guarded_memOk h (next_ite (fun _ => next_of hw) (fun _ => next_of hw))

/-! ### Every form of a thread -/

/-- Every form of a thread keeps memory in its form. -/
theorem userForm_memOk (h : MemOk s) (i : Instr) (hw : i.hasWord = true) (hm : instrIsMonitor i = false) : Next (exec i s) MemOk := by
  cases i with
  | ldB | ldH | ldW | ldD | ldnB | ldnH | ldnW | vld | vldBc => exact loadForm_memOk h _ _ _ _ _
  | vldk => exact vldkForm_memOk h _ _ _
  | ldt | vldt => exact timedLoad_memOk h _ _ _ _ _
  | stB | stH | stW | stD | vst => exact storeForm_memOk h _ _
  | pref a => exact pref_memOk h a
  | prefR a => exact prefR_memOk h a
  | areg n => exact areg_memOk h n
  | lrw d a => exact lrw_memOk h d a
  | ldfe | ldff => exact syncLoad_memOk h _ _ _
  | stfe | stf | feClr => exact syncStore_memOk h _ _ _ _
  | scq | rsvRel => exact resvEnd_memOk h _ _ _
  | amoD | amoW => exact amoForm_memOk h _ _ _ _ _
  | redD | redW | redFaddF32 => exact redForm_memOk h _ _ _
  | barInit a b => exact barForm_memOk h (s.rS a) false true false fun k => .barInit k (bits (s.rS b).toNat 15 0)
  | barArrive a | barWait a | barSync a => exact barForm_memOk h (s.rS a) _ _ _ _
  | qpush a b => exact qpush_memOk h a b
  | qpop d a => exact qpop_memOk h d a
  | qpeek d a => exact qpeek_memOk h d a
  | qredI32 | qredI64 | qredF32 => exact qredTurn_memOk h _ _ _ _
  | mrecv d => exact mrecv_memOk h d
  | spawn d a => exact spawn_memOk h d a
  | br o => exact br_memOk h o
  | dbnz d o => exact dbnz_memOk h d o
  | jmp | ret => exact jumpTo_memOk h _
  | send => exact streamOnly_memOk h
  | sloop d o => exact sloop_memOk h d o
  | exit => exact exit_memOk h
  | yield => exact yield_memOk h
  | step => exact step_memOk h
  | go a => exact go_memOk h a
  | trap | brk => exact next_of (raise_memOk h _ _ _)
  | fexp2 | flog2 | frcp | frsqrt | fsqrt | fsinp | fcosp | ftanh | fsigm => exact sfuIssue_memOk h _ _ _ _
  | mgrp d a => exact mgrp_memOk h d a
  | mclr | mmaG8 | mmaI8 | mmaBf16 | mmaG8bf | mrd | mrdq => exact matForm_memOk h _ _ _ _
  | mstat d b => exact mstat_memOk h d b
  | mfence b => exact mfence_memOk h b
  | cp1d | cp2d | cp3d | cpGather | cpScatter | cpFill => exact copyForm_memOk h _ _
  | chset a b => exact chset_memOk h b a
  | chq d b => exact chq_memOk h d b
  | publish a => exact publish_memOk h a
  | winst d a => exact winst_memOk h d a
  | wstat d a => exact wstat_memOk h d a
  | rsr d n => exact rsr_memOk h d n
  | wsr a n => exact wsr_memOk h a n
  | call | rte | fenceK | fenceS | fenceO | fenceY | msg | hint | nop | add | sub | mul | mulh | mulhn | div | divn | rem | remn | and | or | xor | andn
  | orn | shl | shr | sar | rotl | min | max | minn | maxn | clz | ctz | popc | mov | cmpEq | cmpNe | cmpLt | cmpLe | cmpLtn | cmpLen | pset | pand | por
  | pnot | addi | andi | ori | xori | shli | shri | sari | roti | bfx | bfxn | bfi | li | lis | sel | vsel | vfma | vfms | vdotG8 | vdotBf16 | vdotI8
  | cmpiEq | cmpiNe | cmpiLt | cmpiLe | cmpiLtn | cmpiLen | vadd | vsub | vmul | vneg | vabs | vmin | vmax | vand | vor | vxor | vandn | vshl | vshr | vsar
  | vcmpEq | vcmpLt | vcmpLe | vsum | vbcast | vext | vins | vperm | vround | vscale | vexpo | vrcpa | vrsqrta | vsat | vpack | vunpack | vshli | vcvt =>
    exact next_of h
  | tlbinv | keyld | keyzap | scrub | evpost | rotctlSuspend | rotctlResume | rotctlExtraRotation | rotctlExtraSwitch | slotctlPlace | slotctlRemove
  | slotctlSpill | waypart | frzFreezeOwner | frzReleaseOwner | frzFreezeFunction | frzReleaseFunction | frzEndTask => exact absurd hm.symm Bool.false_ne_true
  | _ => exact absurd hw Bool.false_ne_true

end

end Sys2Proof.Laws

/-! SUPPORT. KeptByRows: the rows of the monitor and of the device keep memory in its form. -/

namespace Sys2Proof.Laws

open Sys2Proof.Machine Sys2Proof.Safety
section
variable {s : State}

/-! ### The monitor's forms and the events that need more than one rule -/

/-- What a request performed keeps, its row keeps. -/
theorem withReq_memOk {id : Nat} {f : Req → Res} (h : MemOk s) (go : ∀ r, Next (f r) MemOk) : Next (s.withReq id f) MemOk :=
  withReq_cases h fun r _ _ => go r
theorem rotctl_memOk (a : Fin 16) (h : s.mem.wf = true) : Next (s.rotctl a) MemOk := by
  unfold State.rotctl
  split <;> exact next_of (by simp [MemOk, h])
theorem slotctl_memOk (a b : Fin 16) (h : s.mem.wf = true) : Next (s.slotctl a b) MemOk := by
  unfold State.slotctl
  dsimp only
  (repeat' split) <;> exact next_of (by simp [MemOk, h])
theorem frz_memOk (a : Fin 16) (h : s.mem.wf = true) : Next (s.frz a) MemOk := by
  unfold State.frz
  dsimp only
  (repeat' split) <;> exact next_of (by simp [MemOk, h])
theorem rowRestore_memOk (uid : Nat) (h : s.mem.wf = true) : Next (execRowRestore uid s) MemOk := by
  unfold execRowRestore
  split
  · exact next_of h
  · refine next_ite (fun _ => ?_) (fun _ => next_of h)
    split
    · next e => exact next_of (by simp [MemOk, claimRow_wf h e])
    · exact next_of (by simp [MemOk, h])
/-- A unit of a copy fails, waits, reads and sends, or stores where its bytes are in hand (R249). -/
theorem copyUnit_wf {p : Place} {m : Copy} {x : State × Copy} (h : s.mem.wf = true) (e : s.copyUnit p m = some x) : x.1.mem.wf = true := by
  unfold State.copyUnit at e
  extract_lets fail dst stray invalid src to_ at e
  have hf : ∀ c, fail c = some x → x.1.mem.wf = true := by
    intro c e
    cases e
    exact h
  clear_value fail src to_
  split at e
  · exact hf _ e
  · split at e
    · cases e
    · exact hf _ e
    · split at e
      · next l sel _ _ _ =>
        extract_lets clash y s1 m1 r sent at e
        replace e := (Option.ite_none_left_eq_some.mp e).2
        have h1 : s1.mem.wf = true := by
          unfold s1 y
          split
          · exact copyWrites_wf _ _ _ _ h
          · exact h
        have hr : r.2.mem.wf = true := by
          unfold r
          split
          · exact (unitRead_wf _ _).trans h1
          · exact h1
        clear_value s1 m1 r sent
        split at e
        · cases e; exact h1
        · replace e := (Option.ite_none_left_eq_some.mp e).2
          split at e
          · cases e; exact hr
          · next bs s2 =>
            have hu := fun l => unitStore_wf s2 p.o l bs hr
            split at e
            · next o k ia _ =>
              have hu := hu (.peer o k ia)
              split at e <;> (next eu => cases e; rw [eu] at hu; exact hu)
            · cases e; exact hr
      · cases e
@[simp] theorem copyUnits_wf (p : Place) (m : Copy) (n : Nat) (h : s.mem.wf = true) : (s.copyUnits p m n).1.mem.wf = true := by
  induction n generalizing s m with
  | zero => exact h
  | succ n ih =>
    unfold State.copyUnits
    split
    · exact h
    · split
      · exact h
      · next e => exact ih _ (copyUnit_wf h e)
theorem copyUnitTurn_memOk (o l c : Nat) (h : s.mem.wf = true) : Next (execCopyUnitTurn o l c s) MemOk := by
  unfold execCopyUnitTurn
  dsimp only
  split
  · exact next_of h
  · refine next_ite (fun _ => next_of h) (fun _ => next_of ?_)
    rw [memOk_iff, setCopy_mem]
    exact settleMarks_wf _ _ _ (copyUnits_wf _ _ _ h)
theorem streamBeatBegin_memOk (sid : Nat) (h : s.mem.wf = true) : Next (execStreamBeatBegin sid s) MemOk := by
  unfold execStreamBeatBegin
  split
  · refine next_ite (fun _ => ?_) (fun _ => next_of h)
    split
    · next e => exact next_of (beginBeat_wf h e)
    · exact next_of h
  · exact next_of h
/-- A walk that ends changes no byte; what it settles is beside the cells (R343). -/
theorem tlbWalkEnd_memOk (wid : Nat) (h : s.mem.wf = true) : Next (execTlbWalkEnd wid s) MemOk := by
  unfold execTlbWalkEnd
  split
  · exact next_of h
  · next w _ =>
    refine next_ite (fun _ => next_of h) fun _ => next_ite (fun _ => next_of h) fun _ => ?_
    have hw : (s.walkEnd w).2.mem.wf = true := (walkEnd_wf s w).trans h
    split
    · next e => rw [e] at hw; exact next_of (by simpa [MemOk] using hw)
    · exact next_of h
    · next s1 e =>
      rw [e] at hw
      exact next_of (bury_wf _ _ (by simpa using hw))
theorem freezeStart_memOk (o : Nat) (h : s.mem.wf = true) : Next (execFreezeStart o s) MemOk := by
  unfold execFreezeStart
  split
  · refine next_ite (fun _ => next_of h) fun _ => next_ite (fun _ => next_of (by simp [MemOk, h])) fun _ => ?_
    extract_lets s1
    have h1 : s1.mem.wf = true := foldl_wf (fun s c hs => by simp [hs]) _ h
    exact next_of (by simp [MemOk, h1])
  · exact next_of h
theorem parkAfter_memOk (h : MemOk s) (p : Park) : MemOk (s.parkAfter p) := h
theorem raiseEv_memOk (h : MemOk s) (e : Ev) : MemOk (s.raiseEv e) := h
theorem setProg_memOk (h : MemOk s) (busy : Bool) (o stage total done : Nat) : MemOk (s.setProg busy o stage total done) := by
  rw [memOk_iff, setProg_mem]
  exact h
theorem scrub_memOk (a : Fin 16) (h : MemOk s) : Next (execScrub a s) MemOk := by
  unfold execScrub
  extract_lets o d total entry s1
  have h1 : MemOk s1 := modTrust_memOk _ h
  refine guarded_memOk h (next_ite (fun _ => next_of h) fun _ => next_ite (fun _ => next_of (rewind_memOk h _)) fun _ => next_of ?_)
  exact parkAfter_memOk (raiseEv_memOk (modOwner_memOk (setProg_memOk h1 _ _ _ _ _) _ _) _) _
/-- The areas on the platform are cleared one by one (R439). -/
theorem teardownAreas_memOk (h : s.mem.wf = true) : Next (execTeardownAreas s) MemOk := by
  unfold execTeardownAreas
  extract_lets o as left s1
  have h1 : s1.mem.wf = true := by
    rw [incomplete_mem]
    exact foldl_wf (fun s a hs => clearPlat_wf _ _ _ hs) _ h
  refine next_ite (fun _ => next_of ?_) (fun _ => next_of h)
  rw [memOk_iff, setProg_mem, State.charge_mem]
  exact h1
theorem configurationWrite_memOk (fn what val : Nat) (h : s.mem.wf = true) : Next (execConfigurationWrite fn what val s) MemOk := by
  unfold execConfigurationWrite
  refine next_ite (fun _ => next_of h) fun _ => next_ite (fun _ => ?_) fun _ => ?_
  · refine next_ite (fun _ => next_of h) fun _ => next_ite (fun _ => next_of (by simp [MemOk, h])) fun _ => next_of ?_
    rw [memOk_iff, State.modHost_mem]
    exact foldl_wf (fun s k hs => by simp [hs]) _ h
  · (repeat' split) <;> exact next_of (by simp [MemOk, h])
theorem syncOpArrive_memOk (id : Nat) (h : MemOk s) : Next (execSyncOpArrive id s) MemOk := by
  refine withReq_memOk h fun r => ?_
  cases r.kind with
  | ldfe | ldff | stfe | stf | feClr | lrw | scq | rsvRel => exact next_of (syncArrive_wf _ _ h)
  | _ => exact next_of h
theorem installRequestArrive_memOk (id : Nat) (h : s.mem.wf = true) : Next (execInstallRequestArrive id s) MemOk := by
  unfold execInstallRequestArrive
  split
  · split <;> exact next_of (by simp [MemOk, h])
  · exact withReq_memOk h fun r => by split <;> exact next_of (by simp [MemOk, h])

/-! ### The rows -/

/-- The rows of the monitor's forms and of the device's events. -/
theorem row_memOk (h : s.mem.wf = true) (i : Instr) (hi : (!i.hasWord || instrIsMonitor i) = true) : Next (exec i s) MemOk := by
  cases i with
  | evpost | beatBoundary | capentWrite | coreLogicFailure | eventAccept | hostMemoryWrite | hostPost | hotReset | instructionFetchFault |
  ixnarInboundRequest | layerLost | linkDown | linkUp | pfFlr | powerLoss | pullRefusal | pullReply | pullRequestServe | registerWrite | rrangeWrite |
  stepReadyToken | stepResume =>
    simp only [exec, execEvpost, execBeatBoundary, execCapentWrite, execCoreLogicFailure, execEventAccept, execHostMemoryWrite, execHostPost, execHotReset,
      execInstructionFetchFault, execIxnarInboundRequest, execLayerLost, execLinkDown, execLinkUp, execPfFlr, execPowerLoss, execPullRefusal, execPullReply,
      execPullRequestServe, execRegisterWrite, execRrangeWrite, execStepReadyToken, execStepResume]
    (repeat' split) <;> exact next_of (by simp [MemOk, h])
  | syncOpArrive id => exact syncOpArrive_memOk id h
  | installRequestArrive id => exact installRequestArrive_memOk id h
  | rotctlSuspend a | rotctlResume a | rotctlExtraRotation a | rotctlExtraSwitch a => exact rotctl_memOk a h
  | slotctlPlace a b | slotctlRemove a b | slotctlSpill a b => exact slotctl_memOk a b h
  | frzFreezeOwner a | frzReleaseOwner a | frzFreezeFunction a | frzReleaseFunction a | frzEndTask a => exact frz_memOk a h
  | amoPerform | atomicRegionPerform | barrierOpArrive | messageArrive | queuePushArrive | reductionPerform | remoteLoadServe | storePerform =>
    refine withReq_memOk h fun r => ?_
    (repeat' split) <;> exact next_of (by simp [MemOk, h])
  | rowRestore uid => exact rowRestore_memOk uid h
  | copyUnitTurn o l c => exact copyUnitTurn_memOk o l c h
  | streamBeatBegin sid => exact streamBeatBegin_memOk sid h
  | tlbWalkEnd wid => exact tlbWalkEnd_memOk wid h
  | freezeStart o => exact freezeStart_memOk o h
  | scrub a => exact scrub_memOk a h
  | teardownAreas => exact teardownAreas_memOk h
  | configurationWrite fn what val => exact configurationWrite_memOk fn what val h
  | unassignedWord | longResultLand | fenceComplete =>
    dsimp only [exec, execUnassignedWord, execLongResultLand, execFenceComplete]
    (repeat' split) <;> exact next_of (by simp [MemOk, h])
  | recordArrive | launchStart | taskDispatch | sfuAccept | sfuResultLand | migrationDepart | packetArrive | exitComplete =>
    dsimp only [exec, execRecordArrive, execLaunchStart, execTaskDispatch, execSfuAccept, execSfuResultLand, execMigrationDepart, execPacketArrive,
      execExitComplete]
    (repeat' split) <;> exact next_of (by simp [MemOk, h])
  | pairExchange | copyCommandBegin | copyCommandComplete =>
    dsimp only [exec, execPairExchange, execCopyCommandBegin, execCopyCommandComplete]
    (repeat' split) <;> exact next_of (by simp [MemOk, h])
  | engineCommandArrive | engineCommandStart | engineCommandComplete | mfenceComplete =>
    dsimp only [exec, execEngineCommandArrive, execEngineCommandStart, execEngineCommandComplete, execMfenceComplete]
    (repeat' split) <;> exact next_of (by simp [MemOk, h])
  | ownerEnable | waypart | waypartComplete | streamStart | streamEnd =>
    dsimp only [exec, execOwnerEnable, execWaypart, execWaypartComplete, execStreamStart, execStreamEnd]
    (repeat' split) <;> exact next_of (by simp [MemOk, h])
  | tlbinv | tlbinvAck | keyld | keyzap =>
    dsimp only [exec, execTlbinv, execTlbinvAck, execKeyld, execKeyzap]
    (repeat' split) <;> exact next_of (by simp [MemOk, h])
  | installPageProgrammed | installEnd =>
    dsimp only [exec, execInstallPageProgrammed, execInstallEnd]
    (repeat' split) <;> exact next_of (by simp [MemOk, h])
  | patrolScrubRead | rebuildSector | laneFailure | refreshRateChange | thermalEvent | thermalTrip =>
    dsimp only [exec, execPatrolScrubRead, execRebuildSector, execLaneFailure, execRefreshRateChange, execThermalEvent, execThermalTrip]
    (repeat' split) <;> exact next_of (by simp [MemOk, h])
  | localStop | slateWriteImage | slateRestore | slateCommandEnd =>
    dsimp only [exec, execLocalStop, execSlateWriteImage, execSlateRestore, execSlateCommandEnd]
    (repeat' split) <;> exact next_of (by simp [MemOk, h])
  | teardownTiles | teardownSlices | teardownDram | teardownKeys | meteringInterval | meteringRecordWrite |
  powerOnReset | mgmtReset | obsidianBoot =>
    dsimp only [exec, execTeardownTiles, execTeardownSlices, execTeardownDram, execTeardownKeys,
      execMeteringInterval, execMeteringRecordWrite, execPowerOnReset, execMgmtReset, execObsidianBoot]
    (repeat' split) <;> exact next_of (by simp [MemOk, h])
  | recoveryBegin | recoveryAppend | recoveryCommit | recoveryWriteDone | recoveryAbort | recoveryReset |
  recoveryBufferWrite | mgmtFreeze | mgmtRelease | mgmtReadreg | mgmtReadmem =>
    dsimp only [exec, execRecoveryBegin, execRecoveryAppend,
      execRecoveryCommit, execRecoveryWriteDone, execRecoveryAbort, execRecoveryReset, execRecoveryBufferWrite, execMgmtFreeze, execMgmtRelease,
      execMgmtReadreg, execMgmtReadmem]
    (repeat' split) <;> exact next_of (by simp [MemOk, h, write_wf, clear_wf])
  | rotationDue | switchDue | engineStepStop | routerFlush | memoryDrainEnd | rotationMove | moveEnd | slotMapSwitch | issueResume =>
    dsimp only [exec, execRotationDue, execSwitchDue, execEngineStepStop, execRouterFlush, execMemoryDrainEnd, execRotationMove, execMoveEnd,
      execSlotMapSwitch, execIssueResume]
    (repeat' split) <;> exact next_of (by simp [MemOk, h])
  | hostMemoryRead | vfFlr | spdmRequest | msixVectorUnmask | pullTimeout | ixnarLinkStateChange =>
    dsimp only [exec, execHostMemoryRead, execVfFlr, execSpdmRequest, execMsixVectorUnmask, execPullTimeout,
      execIxnarLinkStateChange]
    (repeat' split) <;> exact next_of (by simp [MemOk, h])
  | _ => exact absurd hi Bool.false_ne_true

end

end Sys2Proof.Laws

/-! SUPPORT. KeptByStep: what is due, the turns, the choice of a step, and O57. -/

namespace Sys2Proof.Laws

open Sys2Proof.Machine Sys2Proof.Safety
section
variable {s : State}

/-- Every row of the table of meanings keeps memory in its form. -/
theorem exec_memOk (h : MemOk s) (i : Instr) : Next (exec i s) MemOk := by
  by_cases hi : (!i.hasWord || instrIsMonitor i) = true
  · exact row_memOk h i hi
  · obtain ⟨hw, hm⟩ : i.hasWord = true ∧ instrIsMonitor i = false := by simpa using hi
    exact userForm_memOk h i hw hm

/-! ### What is due -/

theorem drawn_memOk (h : MemOk s) : MemOk s.drawn := h

theorem engineFetch_memOk (cid : Nat) (h : s.mem.wf = true) : Next (execEngineFetch cid s) MemOk := by
  unfold execEngineFetch
  dsimp only
  (repeat' split) <;> exact next_of (by simp [MemOk, h])
theorem engineStep_memOk (cid i j : Nat) (h : s.mem.wf = true) : Next (execEngineStep cid i j s) MemOk := by
  unfold execEngineStep
  dsimp only
  (repeat' split) <;> exact next_of (by simp [MemOk, h])
theorem engineWrite_memOk (cid : Nat) (h : s.mem.wf = true) : Next (execEngineWrite cid s) MemOk := by
  unfold execEngineWrite
  dsimp only
  (repeat' split) <;> exact next_of (by simp [MemOk, h])
theorem copyWrite_memOk (p : Place) (h : s.mem.wf = true) : Next (execCopyWrite p s) MemOk := by
  unfold execCopyWrite
  split
  · exact next_of h
  · refine next_ite (fun _ => next_of h) fun _ => next_of ?_
    rw [memOk_iff, setCopy_mem]
    exact settleMarks_wf _ _ _ (copyWrites_wf _ _ _ _ h)
theorem dispatch_memOk (h : MemOk s) : Next (s.run .dispatch) MemOk := by
  rw [State.run]
  split
  · exact exec_memOk h (.taskDispatch _)
  · exact next_of h
/-- A request is performed by the row of its kind. -/
theorem runRequest_memOk (id : Nat) (h : MemOk s) : Next (s.runRequest id) MemOk := by
  unfold State.runRequest
  split
  · exact next_of h
  · next r _ =>
    cases r.kind with
    | load => exact exec_memOk h (.remoteLoadServe id)
    | store | evpost => exact exec_memOk h (.storePerform id)
    | ldfe | ldff | stfe | stf | feClr | lrw | scq | rsvRel => exact exec_memOk h (.syncOpArrive id)
    | amo => exact exec_memOk h (.amoPerform id)
    | red | redF => exact exec_memOk h (.reductionPerform id)
    | region => exact exec_memOk h (.atomicRegionPerform id)
    | barInit | barArrive | barWait | barSync => exact exec_memOk h (.barrierOpArrive id)
    | push => exact exec_memOk h (.queuePushArrive id)
    | msg | mrecv => exact exec_memOk h (.messageArrive id)
    | spawn => exact exec_memOk h (.recordArrive id)
    | wstat => exact exec_memOk h (.installRequestArrive id)
/-- Every step of the device is a row, or one of its units at work. -/
theorem run_memOk (h : MemOk s) (d : Due) : Next (s.run d) MemOk := by
  cases d with
  | issueResume => exact exec_memOk h .issueResume
  | rotationDue => exact exec_memOk h .rotationDue
  | switchDue => exact exec_memOk h .switchDue
  | slotMapSwitch => exact exec_memOk h .slotMapSwitch
  | moveEnd => exact exec_memOk h .moveEnd
  | rotationMove => exact exec_memOk h .rotationMove
  | routerFlush => exact exec_memOk h .routerFlush
  | memoryDrainEnd => exact exec_memOk h .memoryDrainEnd
  | engineStepStop cid i j => exact exec_memOk h (.engineStepStop cid i j)
  | freezeStart o => exact exec_memOk h (.freezeStart o)
  | sfuResultLand id => exact exec_memOk h (.sfuResultLand id)
  | sfuAccept o l c => exact exec_memOk h (.sfuAccept o l c)
  | streamEnd sid => exact exec_memOk h (.streamEnd sid)
  | streamStart sid => exact exec_memOk h (.streamStart sid)
  | streamBeatBegin sid => exact exec_memOk h (.streamBeatBegin sid)
  | beatBoundary => exact exec_memOk h .beatBoundary
  | engineArrive cid i j => exact exec_memOk h (.engineCommandArrive cid i j)
  | engineStart cid i j => exact exec_memOk h (.engineCommandStart cid i j)
  | engineFetch cid => exact engineFetch_memOk cid h
  | engineStep cid i j => exact engineStep_memOk cid i j h
  | engineWrite cid => exact engineWrite_memOk cid h
  | copyWrite p => exact copyWrite_memOk p h
  | engineComplete cid => exact exec_memOk h (.engineCommandComplete cid)
  | mfenceComplete uid => exact exec_memOk h (.mfenceComplete uid)
  | meteringInterval => exact exec_memOk h .meteringInterval
  | meteringWrite => exact exec_memOk h .meteringRecordWrite
  | drainEnd => exact next_of (drainPump_wf _ h)
  | launchEnd lid => exact next_of (launchEnd_wf _ _ h)
  | verify => exact next_of (by simpa [MemOk] using h)
  | copyBegin p => exact exec_memOk h (.copyCommandBegin p.o p.l p.c)
  | copyTurn p => exact exec_memOk h (.copyUnitTurn p.o p.l p.c)
  | copyComplete p => exact exec_memOk h (.copyCommandComplete p.o p.l p.c)
  | land uid id => exact exec_memOk h (.longResultLand uid id)
  | depart uid => exact exec_memOk h (.migrationDepart uid)
  | arrive pid => exact exec_memOk h (.packetArrive pid)
  | exit uid => exact exec_memOk h (.exitComplete uid)
  | fence uid => exact exec_memOk h (.fenceComplete uid)
  | request id => exact runRequest_memOk id h
  | record id => exact exec_memOk h (.recordArrive id)
  | launch q => exact exec_memOk h (.launchStart q)
  | dispatch => exact dispatch_memOk h
  | walkEnd wid => exact exec_memOk h (.tlbWalkEnd wid)
  | evict k => exact next_of (by simpa [MemOk] using h)
  | outward k => exact next_of h
  | tlbinvAck uid => exact exec_memOk h (.tlbinvAck uid)
  | pairExchange uid => exact exec_memOk h (.pairExchange uid)
  | waypart n => exact exec_memOk h (.waypartComplete n)
  | restore uid => exact exec_memOk h (.rowRestore uid)
  | rowOffer p => exact next_of (offerWaiting_wf _ _ h)
  | installArrive id => exact exec_memOk h (.installRequestArrive id)
  | installPage id => exact exec_memOk (drawn_memOk h) (.installPageProgrammed id (s.free.getLsbD 0))
  | installEnd id => exact exec_memOk h (.installEnd id)
  | accept k => exact exec_memOk h (.eventAccept k)
  | localStop o => exact exec_memOk h (.localStop o)
  | slateWrite => exact exec_memOk h .slateWriteImage
  | slateRestore => exact exec_memOk h .slateRestore
  | slateEnd code => exact exec_memOk h (.slateCommandEnd code)
  | tiles => exact exec_memOk h .teardownTiles
  | slices => exact exec_memOk h .teardownSlices
  | dram => exact exec_memOk h .teardownDram
  | areas => exact exec_memOk h .teardownAreas
  | keys => exact exec_memOk h .teardownKeys
  | scrubUnit => exact next_of (scrubUnit_wf _ h)
  | pullTimeout o page => exact exec_memOk h (.pullTimeout o page)
  | pullPump => exact next_of (pullPumpAll_wf _ h)
  | hostPump => exact next_of (portPump_wf _ h)
  | patrolRead => exact next_of (by simpa [MemOk] using h)
  | patrolEnd => exact next_of (by simpa [MemOk] using h)
  | flashErrs => exact next_of (by simpa [MemOk] using h)
  | boot => exact exec_memOk h .obsidianBoot
  | reset => exact next_of (resetNow_wf _ h)

/-! ### The turn of a thread or of a stream -/

theorem latch_memOk (h : MemOk s) (b : Addr) (z : Nat) (t : Thread) : MemOk (s.latch b z t) := h
theorem turnDone_memOk {p : Place} {slot : Nat} {b : Bool} {r : Res} (h : Next r MemOk) : Next (State.turnDone p slot b r) MemOk := by
  obtain ⟨t, rfl, ht⟩ := h
  exact next_of (overTurn_wf _ _ _ _ ht)
theorem closeTurn_memOk {p : Place} {slot : Nat} {r : Res} (h : Next r MemOk) : Next (State.closeTurn p slot r) MemOk := by
  obtain ⟨t, rfl, ht⟩ := h
  exact next_of (overTurn_wf _ _ _ _ ht)
theorem buried_memOk {r : Res} (h : Next r MemOk) : Next (State.buried r) MemOk := by
  obtain ⟨t, rfl, ht⟩ := h
  exact next_of (bury_wf _ _ ht)
theorem performWord_memOk (h : MemOk s) (d : Decoded) : Next (s.performWord d) MemOk := next_ite (fun _ => exec_memOk h d.i) (fun _ => next_of h)
/-- The words of a bundle in turn, a pair's second half from where its first left, or from where the pair waits. -/
theorem performBundle_memOk (ds : List Decoded) (h : MemOk s) : Next (s.performBundle ds) MemOk := by
  induction ds generalizing s with
  | nil => exact next_of h
  | cons d ds ih =>
    cases ds with
    | nil => exact performWord_memOk h d
    | cons d' ds =>
      unfold State.performBundle
      obtain ⟨s', e, hs⟩ := performWord_memOk h d
      rw [e]
      dsimp only
      have ht : MemOk (if s'.iss.status = .running then s.pairWait s' else s') := by
        split
        · exact pairWait_wf _ _ h hs
        · exact hs
      exact next_ite (fun _ => ih ht) (fun _ => next_of ht)
theorem performDecoded_memOk (h : MemOk s) (b : Addr) (ds : List Decoded) : Next (s.performDecoded b ds) MemOk := by
  unfold State.performDecoded
  extract_lets z src s1 before stray
  have h1 : MemOk s1 := by
    simp only [s1, memOk_iff, State.setPc_mem, State.latch_mem, readPending_mem]
    exact h
  refine guarded_memOk h1 ?_
  obtain ⟨t, e, ht⟩ := performBundle_memOk ds h1
  rw [e]
  exact next_of (by simpa [MemOk] using ht)
theorem performFormed_memOk (h : MemOk s) (x : Bundle) : Next (s.performFormed x) MemOk := by
  unfold State.performFormed
  split
  · exact exec_memOk (latch_memOk h _ _ _) (.unassignedWord _)
  · dsimp only
    split
    · exact next_of (raise_memOk (latch_memOk h _ _ _) _ _ _)
    · exact performDecoded_memOk h _ _
theorem taskTurn_memOk (h : MemOk s) : Next s.taskTurn MemOk := by
  unfold State.taskTurn
  dsimp only
  split
  · exact closeTurn_memOk (next_of h)
  · split
    · exact closeTurn_memOk (next_of h)
    · exact closeTurn_memOk (next_of (missAt_memOk (latch_memOk h _ _ _) _ _ _))
    · exact closeTurn_memOk (exec_memOk (latch_memOk h _ _ _) (.instructionFetchFault _ _))
    · exact closeTurn_memOk (next_of (raise_memOk (latch_memOk h _ _ _) _ _ _))
    · exact turnDone_memOk (performFormed_memOk h _)
theorem streamTurn_memOk (h : MemOk s) (st : Machine.Stream) : Next (s.streamTurn st) MemOk := by
  unfold State.streamTurn
  dsimp only
  split
  · exact next_of (overTurn_wf _ _ _ _ h)
  · refine turnDone_memOk ?_
    have h1 : ∀ b z pc, MemOk ((s.latch b z (s.linked st s.me)).setPc pc) := fun _ _ _ => h
    split
    · exact exec_memOk (latch_memOk (h1 _ _ _) _ _ _) (.unassignedWord _)
    · split
      · exact next_of (raise_memOk (h1 _ _ _) _ _ _)
      · split
        · exact next_ite (fun _ => next_of (raise_memOk (h1 _ _ _) _ _ _)) (fun _ => next_of (h1 _ _ _))
        · exact performBundle_memOk _ (h1 _ _ _)
theorem issueTurn_memOk (h : MemOk s) : Next s.issueTurn MemOk := by
  unfold State.issueTurn
  split
  · exact taskTurn_memOk h
  · split
    · exact streamTurn_memOk h _
    · exact next_of (overTurn_wf _ _ _ _ h)

/-! ### The choice of a step, and O57 -/

theorem takeInput_memOk (h : MemOk s) (i : Instr) : Next (s.takeInput i) MemOk :=
  next_ite (fun _ => exec_memOk (setClk_memOk _ h) i) (fun _ => next_of (setClk_memOk _ h))
theorem perform_memOk (h : MemOk s) (x : State.Pick) : Next (s.perform x) MemOk := by
  cases x with
  | clock => exact next_of (tick_memOk h)
  | turn x => exact next_of (beginTurn_wf _ _ (setClk_memOk _ h))
  | due d => exact buried_memOk (run_memOk h d)
  | input i => exact buried_memOk (takeInput_memOk h i)
/-- With no power and no input there is no next state; every other pick has one, in the same form (log 77). -/
theorem pickStep_memOk (h : MemOk s) {t : State} (e : s.pickStep = .next t) : MemOk t := by
  unfold State.pickStep at e
  split at e
  · obtain ⟨t', e', ht⟩ := buried_memOk (run_memOk (setClk_memOk _ h) _)
    rw [e'] at e
    cases e
    exact ht
  · split at e
    · cases e
    · next x xs _ =>
      obtain ⟨t', e', ht⟩ := perform_memOk (drawn_memOk h) ((x :: xs).getD (Config.choose s.clk.draw % (x :: xs).length) x)
      rw [e'] at e
      cases e
      exact ht

end

/-- Settles O57: what each operation leaves of memory, then each form and each event, then the turns and the choice of a step. -/
theorem stepKeepsMemoryOk : Obligations.StepKeepsMemoryOk := by
  unfold Obligations.StepKeepsMemoryOk
  intro s t h e
  unfold step at e
  split at e
  · obtain ⟨t', e', ht⟩ := issueTurn_memOk (setClk_memOk { s.clk with ctl := .pick } h)
    rw [e'] at e
    cases e
    exact ht
  · exact pickStep_memOk h e

end Sys2Proof.Laws

/-! SUPPORT. SyncIssue: what the forms that meet at a sync word, an atomic's home or a named place of the owner send out, and O17 and O18. -/

namespace Sys2Proof.Laws

open Sys2Proof.Machine Sys2Proof.Safety

/-! ### Full/empty forms (R183, R199) -/

section
variable {s : State} {ea : Addr} {n : Nat} {k : ReqKind} {l : Loc} {d : Fin 16}

theorem not_full_of_room (h : OpRoom s) : s.me.full = false := decide_eq_false (Nat.not_le.mpr h)

theorem syncLoad_issues (hl : Translates s ea 8 .syncRd l) (hr : OpRoom s) : Next (s.syncLoad d ea k)
    (fun t => Issued s t (fun o => o.dest = some (.s d) ∧ o.acq = true ∧ o.rel = false ∧ o.counts = true) k l) := by
  unfold State.syncLoad
  rw [withLoc_at (resolve_of_translates hl), not_full_of_room hr]
  exact next_of (issued_issueOp s _ k l ea _ ⟨rfl, rfl, rfl, rfl⟩ rfl rfl rfl rfl)

theorem syncStore_issues {u : State.Use} {counts : Bool} (hl : Translates s ea 8 u l) (hr : OpRoom s) : Next (s.syncStore ea counts u k)
    (fun t => Issued s t (fun o => o.dest = none ∧ o.acq = false ∧ o.rel = true ∧ o.counts = counts) k l) := by
  unfold State.syncStore
  rw [withLoc_at (resolve_of_translates hl), not_full_of_room hr, Bool.and_false]
  exact next_of (issued_issueOp s _ k l ea _ ⟨rfl, rfl, rfl, rfl⟩ rfl rfl rfl rfl)

/-! ### Reservations (R184, R185) -/

theorem resvEnd_issues {u : State.Use} (hl : Translates s ea 8 u l) (hheld : s.me.resv = .held ea) : Next (s.resvEnd ea u k)
    (fun t => Issued { s with me := { s.me with resv := .none } } t (fun o => o.dest = none ∧ o.rel = true) k l) := by
  unfold State.resvEnd
  rw [withLoc_at (resolve_of_translates hl), hheld, bne_self_eq_false]
  exact next_of (issued_issueOp { s with me := { s.me with resv := .none } } _ k l ea _ ⟨rfl, rfl⟩ rfl rfl rfl rfl)

/-- A reservation that is not held on this word is not given up: the form faults. -/
theorem resvEnd_faults {u : State.Use} (hl : Translates s ea 8 u l) (htask : PlainTask s) (hheld : s.me.resv ≠ .held ea) :
    Next (s.resvEnd ea u k) (fun t => TookFault s t 2 4 s.iss.b ea) := by
  unfold State.resvEnd
  rw [withLoc_at (resolve_of_translates hl), if_pos (bne_iff_ne.mpr hheld)]
  exact next_raise htask

variable {a : Fin 16}

theorem execLrw_issues (hl : Translates s (ea0 (s.rS a)) 8 .syncRd l) (hresv : s.me.resv = .none) (hr : OpRoom s) : Next (execLrw d a s)
    (fun t => Issued { s with me := { s.me with resv := .requested (ea0 (s.rS a)) } } t
      (fun o => o.dest = some (.s d) ∧ o.acq = true ∧ o.counts = true) .lrw l) := by
  unfold execLrw
  dsimp only
  rw [withLoc_at (resolve_of_translates hl), hresv, bne_self_eq_false, not_full_of_room hr]
  exact next_of (issued_issueOp { s with me := { s.me with resv := .requested (ea0 (s.rS a)) } } _ .lrw l _ _ ⟨rfl, rfl, rfl⟩ rfl rfl rfl rfl)

theorem execLrw_faults (hl : Translates s (ea0 (s.rS a)) 8 .syncRd l) (htask : PlainTask s) (hresv : s.me.resv ≠ .none) :
    Next (execLrw d a s) (fun t => TookFault s t 2 4 s.iss.b (ea0 (s.rS a))) := by
  unfold execLrw
  dsimp only
  rw [withLoc_at (resolve_of_translates hl), if_pos (bne_iff_ne.mpr hresv)]
  exact next_raise htask

end

/-- The full/empty loads, with the requests that they send. -/
def feLoads (d a : Fin 16) : List (Instr × ReqKind) := [(.ldfe d a, .ldfe), (.ldff d a, .ldff)]

/-- The full/empty stores, with the requests that they send, and whether they count against the limit of R66. -/
def feStores (s : State) (a b : Fin 16) : List (Instr × ReqKind × Bool) :=
  [(.stfe a b, .stfe s.iss.src.s[b], true), (.stf a b, .stf s.iss.src.s[b], false), (.feClr a, .feClr, false)]

theorem exec_feLoads (s : State) (d a : Fin 16) : ∀ p ∈ feLoads d a, exec p.1 s = s.syncLoad d (ea0 (s.rS a)) p.2 := by
  unfold feLoads
  simp only [List.forall_mem_cons]
  exact ⟨rfl, rfl, List.forall_mem_nil _⟩

theorem exec_feStores (s : State) (a b : Fin 16) : ∀ p ∈ feStores s a b, exec p.1 s = s.syncStore (ea0 (s.rS a)) p.2.2 .syncWr p.2.1 := by
  unfold feStores
  simp only [List.forall_mem_cons]
  exact ⟨rfl, rfl, rfl, List.forall_mem_nil _⟩

/-- Settles O17: each full/empty form is one of two forms, which set out where their word translates; a reservation is asked for where none is, and given up
where it is held. -/
theorem fullEmptyAndReservationIssue : Obligations.FullEmptyAndReservationIssue := by
  unfold Obligations.FullEmptyAndReservationIssue
  refine ⟨?_, ?_⟩
  · intro s d a b l hr ea x
    refine ⟨fun hl p hp => ?_, fun hl p hp => ?_⟩
    · rw [exec_feLoads s d a p hp]
      exact syncLoad_issues hl hr
    · rw [exec_feStores s a b p hp]
      exact syncStore_issues hl hr
  · intro s d a b l ea
    exact ⟨execLrw_issues, fun hl htask hresv => next_mono (execLrw_faults hl htask hresv) fun t h => ⟨_, h⟩,
      resvEnd_issues, resvEnd_issues, resvEnd_faults, resvEnd_faults⟩

/-! ### Atomics and reductions (R186, R187) -/

section
variable {s : State} {d a b : Fin 16} {n : Nat} {l : Loc}

/-- Off its own scratchpad a returning atomic sets out, and its thread leaves the issue turn. -/
theorem amoForm_issues {op : AmoOp} (hl : Translates s (ea0 (s.rS a)) n .atomic l) (hoff : ∀ off, l ≠ .scr s.me.pl off) (hr : OpRoom s) :
    Next (s.amoForm d a b n op) (fun t => ∃ u, Issued s u (fun y => y.dest = some (.s d) ∧ y.acq = true ∧ y.rel = true) (.amo op n (s.rS b) (s.rS d)) l ∧
      t = { u with me := { u.me with park := .amo s.clk.id, woken := false } }) := by
  unfold State.amoForm
  dsimp only
  rw [withLoc_at (resolve_of_translates hl), not_full_of_room hr]
  have hissued := issued_issueOp s { s.newOp with dest := some (.s d), ea := ea0 (s.rS a), n := n, acq := true, rel := true, counts := true }
    (.amo op n (s.rS b) (s.rS d)) l (ea0 (s.rS a)) (fun y => y.dest = some (.s d) ∧ y.acq = true ∧ y.rel = true) ⟨rfl, rfl, rfl⟩ rfl rfl rfl rfl
  cases l with
  | scr p off =>
    exact next_of_eq (if_neg fun e : p = s.me.pl => hoff off (e ▸ rfl)) (next_of ⟨_, hissued, rfl⟩)
  | _ => exact next_of ⟨_, hissued, rfl⟩

/-- Off its own scratchpad a reduction sets out, or the limit of R187 rewinds it. -/
theorem redForm_elsewhere {k : ReqKind} (hl : Translates s (ea0 (s.rS a)) n .atomic l) (hoff : ∀ off, l ≠ .scr s.me.pl off) :
    s.redForm a n k = if s.me.redpend = 32 then .next (s.rewind .redLimit) else
      .next ((s.modMe fun t => { t with redpend := t.redpend + 1 }).issueOp { s.newOp with ea := ea0 (s.rS a), n := n, red := true } (s.newReq k l (ea0 (s.rS a)))) := by
  unfold State.redForm
  dsimp only
  rw [withLoc_at (resolve_of_translates hl)]
  cases l with
  | scr p off => exact if_neg fun e : p = s.me.pl => hoff off (e ▸ rfl)
  | _ => rfl

theorem redForm_issues {k : ReqKind} (hl : Translates s (ea0 (s.rS a)) n .atomic l) (hoff : ∀ off, l ≠ .scr s.me.pl off) (hp : s.me.redpend ≠ 32) :
    Next (s.redForm a n k) (fun t => Issued { s with me := { s.me with redpend := s.me.redpend + 1 } } t (fun y => y.dest = none ∧ y.red = true) k l) := by
  rw [redForm_elsewhere hl hoff, if_neg hp]
  exact next_of (issued_issueOp { s with me := { s.me with redpend := s.me.redpend + 1 } } _ k l _ _ ⟨rfl, rfl⟩ rfl rfl rfl rfl)

theorem redForm_limit {k : ReqKind} (hl : Translates s (ea0 (s.rS a)) n .atomic l) (hoff : ∀ off, l ≠ .scr s.me.pl off) (hregion : s.me.region = none)
    (hp : s.me.redpend = 32) : Next (s.redForm a n k) (fun t => Rewound s t .redLimit) := by
  rw [redForm_elsewhere hl hoff, if_pos hp]
  exact next_of (rewound_rewind s .redLimit hregion)

end

/-- The returning atomics, with their sizes. -/
def atomics (d a b : Fin 16) (o : AmoOp) : List (Instr × Nat) := [(.amoD d a b o, 8), (.amoW d a b o, 4)]

/-- The reductions, with their sizes and the requests that they send. -/
def reductions (s : State) (a b : Fin 16) (r : RedOp) : List (Instr × Nat × ReqKind) :=
  [(.redD a b r, 8, .red r 8 s.iss.src.s[b]), (.redW a b r, 4, .red r 4 s.iss.src.s[b]), (.redFaddF32 a b, 4, .redF (s.iss.src.s[b].setWidth 32))]

theorem exec_atomics (s : State) (d a b : Fin 16) (o : AmoOp) : ∀ p ∈ atomics d a b o, exec p.1 s = s.amoForm d a b p.2 o := by
  unfold atomics
  simp only [List.forall_mem_cons]
  exact ⟨rfl, rfl, List.forall_mem_nil _⟩

theorem exec_reductions (s : State) (a b : Fin 16) (r : RedOp) : ∀ p ∈ reductions s a b r, exec p.1 s = s.redForm a p.2.1 p.2.2 := by
  unfold reductions
  simp only [List.forall_mem_cons]
  exact ⟨rfl, rfl, rfl, List.forall_mem_nil _⟩

/-! ### Barriers and queues by name (R190, R191, R193) -/

/-- What a thread does after its request has set out: it leaves the issue turn, or goes on. -/
def parkedBy (w : Option Park) (u : State) : State := match w with | some p => u.parkAfter p | none => u

/-- The forms that name a barrier or a queue, with the requests that they send to its core, and how their thread waits. -/
def namedForms (s : State) (a b : Fin 16) : List (Instr × ReqKind × Option Park) :=
  let x := s.iss.src.s[a]
  [(.barInit a b, .barInit (nameBar x) (bits s.iss.src.s[b].toNat 15 0), none), (.barArrive a, .barArrive (nameBar x), none),
    (.barWait a, .barWait (nameBar x), some (.bar s.clk.id)), (.barSync a, .barSync (nameBar x), some (.bar s.clk.id)),
    (.qpush a b, .push (nameQueue x) s.iss.src.v[b], some (.push s.clk.id))]

/-- A named form goes to the place of its name, with an operation that addresses no register. -/
theorem exec_namedForms (s : State) (a b : Fin 16) : ∀ p ∈ namedForms s a b, ∃ acq rel, exec p.1 s = s.withName (s.rS a) fun home =>
    .next (parkedBy p.2.2 (s.issueOp { s.newOp with acq := acq, rel := rel } (s.newReq p.2.1 (.scr home 0) (ea0 (s.rS a))))) := by
  unfold namedForms
  simp only [List.forall_mem_cons]
  exact ⟨⟨false, true, rfl⟩, ⟨false, true, rfl⟩, ⟨true, false, rfl⟩, ⟨true, true, rfl⟩, ⟨false, true, rfl⟩, List.forall_mem_nil _⟩

section
variable {s : State} {a b : Fin 16}

theorem namedForms_issue (hin : nameSlot (s.rS a) < s.nslot s.me.pl.o) : ∀ p ∈ namedForms s a b, Next (exec p.1 s) (fun t =>
    ∃ u, Issued s u (fun o => o.dest = none) p.2.1 (.scr (namePlace s.me.pl.o (s.rS a)) 0) ∧ t = parkedBy p.2.2 u) := by
  intro p hp
  obtain ⟨acq, rel, e⟩ := exec_namedForms s a b p hp
  rw [e, State.withName, if_neg (Nat.not_le.mpr hin)]
  exact next_of ⟨_, issued_issueOp s _ _ _ _ _ rfl rfl rfl rfl rfl, rfl⟩

theorem namedForms_fault (htask : PlainTask s) (hout : s.nslot s.me.pl.o ≤ nameSlot (s.rS a)) : ∀ p ∈ namedForms s a b,
    Next (exec p.1 s) (fun t => TookFault s t 5 0 s.iss.b (ea0 (s.rS a))) := by
  intro p hp
  obtain ⟨acq, rel, e⟩ := exec_namedForms s a b p hp
  rw [e, State.withName, if_pos hout]
  exact next_raise htask

end

/-- Bits h to 0 of a number are its remainder (R7). -/
theorem bits_low (x h : Nat) : bits x h 0 = x % 2 ^ (h + 1) := by rw [bits, Nat.pow_zero, Nat.div_one, Nat.sub_zero]

/-- Settles O18: atomics and reductions are one form each, which sets out from where it resolves; the named forms share the check of their name. -/
theorem atomicsBarriersPushesIssue : Obligations.AtomicsBarriersPushesIssue := by
  unfold Obligations.AtomicsBarriersPushesIssue
  refine ⟨?_, ?_⟩
  · intro s d a b o r l hoff ea x more
    refine ⟨fun p hp hl hr => ?_, fun p hp hl => ?_⟩
    · rw [exec_atomics s d a b o p hp]
      exact amoForm_issues hl hoff hr
    · rw [exec_reductions s a b r p hp]
      exact ⟨redForm_issues hl hoff, fun htask => redForm_limit hl hoff htask.2⟩
  · intro s a b x home k forms
    have hforms : forms = namedForms s a b := by
      simp only [forms, namedForms, nameBar, nameQueue, bits_low]
      rfl
    rw [hforms]
    refine ⟨fun hin p hp => next_mono (namedForms_issue hin p hp) fun t ⟨u, hu, e⟩ => ⟨u, hu, e.trans ?_⟩, namedForms_fault⟩
    cases p.2.2 <;> rfl

end Sys2Proof.Laws

/-! SUPPORT. QueueIssue: the queues of a core, reads of an inbound queue, messages and spawn, and O19. -/

namespace Sys2Proof.Laws

open Sys2Proof.Machine Sys2Proof.Safety

/-! ### What a core holds (R192) -/

theorem core_pl (s : State) (p : Place) : (s.core p).pl = p := by
  unfold State.core
  cases h : s.cores.find? (fun c => c.pl = p) with
  | none => rfl
  | some c => simpa using List.find?_some h

/-- A core that is set is found at its place. -/
theorem core_setCore (s : State) (c : Core) : (s.setCore c).core c.pl = c := by
  have hset : (fun d : Core => decide ((if d.pl = c.pl then c else d).pl = c.pl)) = fun d : Core => decide (d.pl = c.pl) := by
    funext d
    split <;> simp [*]
  unfold State.core State.setCore
  by_cases h : s.cores.any (fun d => d.pl = c.pl) = true
  · obtain ⟨d, hd, hpl⟩ := List.any_eq_true.mp h
    obtain ⟨e, he⟩ := Option.isSome_iff_exists.mp (List.find?_isSome (p := fun d : Core => decide (d.pl = c.pl)) |>.mpr ⟨d, hd, hpl⟩)
    have hepl : e.pl = c.pl := by simpa using List.find?_some he
    simp only [if_pos h, List.find?_map, Function.comp_def, hset, he, Option.map_some, Option.getD_some, if_pos hepl]
  · have hnone : s.cores.find? (fun d => d.pl = c.pl) = none := List.find?_eq_none.mpr fun d hd hpl => h (List.any_eq_true.mpr ⟨d, hd, hpl⟩)
    simp only [if_neg h, List.find?_append, hnone, List.find?_singleton, decide_true, Option.none_or, if_true, Option.getD_some]

/-- A queue that is set reads as it was set. -/
theorem queue_setQueue (s : State) (p : Place) (q : Nat) (es : List VWord) : ((s.setQueue p q es).core p).queue q = es := by
  have h := core_setCore s { s.core p with queues := alSet q es (s.core p).queues }
  rw [show Core.pl { s.core p with queues := _ } = p from core_pl s p] at h
  show (State.core (s.setCore _) p).queue q = es
  rw [h, Core.queue, alGet_alSet, if_pos rfl]

/-- What a core holds turns on the cores alone. -/
theorem core_congr {s t : State} (h : t.cores = s.cores) (p : Place) : t.core p = s.core p := by unfold State.core; rw [h]

/-- With no push held, none is accepted as an entry frees. -/
theorem acceptHeld_none {s : State} {p : Place} {q : Nat} (h : s.heldPush p q = none) : s.acceptHeld p q = s := by
  unfold State.acceptHeld
  split
  · rw [h]
  · rfl

/-- A fold whose step changes nothing at any member of the list changes nothing. -/
theorem foldl_unchanged {α β : Type} {f : β → α → β} {b : β} {xs : List α} (h : ∀ x ∈ xs, f b x = b) : xs.foldl f b = b := by
  induction xs with
  | nil => rfl
  | cons x xs ih =>
    rw [List.foldl_cons, h x List.mem_cons_self]
    exact ih fun y hy => h y (List.mem_cons_of_mem x hy)

/-- With no thread parked at a queue, none is woken there. -/
theorem wakeQueue_unparked {s : State} {p : Place} {q : Nat} (h : ∀ t ∈ s.allThreads, ∀ n, t.park ≠ .queue q n) : s.wakeQueue p q = s := by
  have hnone : State.firstParked s.allThreads p q = none := foldl_unchanged fun t ht => by
    dsimp only
    split
    · next k n hpark =>
      have hk : k ≠ q := fun e => h t ht n (e ▸ hpark)
      simp [hk]
    · rfl
  unfold State.wakeQueue
  rw [hnone]

/-- A vector write parks no thread. -/
theorem unparked_wV {s : State} {q : Nat} (d : Fin 16) (x : VWord) (h : ∀ t ∈ s.allThreads, ∀ n, t.park ≠ .queue q n) :
    ∀ t ∈ (s.wV d x).allThreads, ∀ n, t.park ≠ .queue q n := by
  unfold State.allThreads State.wV at *
  simp only [Thread.setV_uid]
  split
  · simp_all
  · simp_all

/-! ### Reads of an inbound queue (R194, R199) -/

section
variable {s : State} {d a : Fin 16} {e : VWord} {es : List VWord}

theorem withAcq_free (h : s.me.ops.any (·.acq) = false) (k : Res) : s.withAcq k = k := by
  unfold State.withAcq
  rw [h]
  rfl

/-- A pending acquire holds a task's short access at its bundle (R199, log 18). -/
theorem withAcq_waits (hs : s.me.strm = none) (h : s.me.ops.any (·.acq) = true) (k : Res) : s.withAcq k = .next (s.rewind .acq) := by
  unfold State.withAcq
  rw [h, inStream_task hs]
  rfl

/-- A thread that finds its queue empty rewinds and parks there, with a fresh stamp. -/
def ParkedAtQueue (s t : State) (q : Nat) : Prop := ∃ u, Rewound s u (.queue q s.clk.id) ∧ t = { u with clk := { u.clk with id := u.clk.id + 1 } }

theorem parkedAtQueue_parkQueue (hr : s.me.region = none) (q : Nat) : ParkedAtQueue s (s.parkQueue q) q := ⟨_, rewound_rewind s _ hr, rfl⟩

variable (ha : a.val < 8)
include ha

theorem execQpop_takes (hacq : s.me.ops.any (·.acq) = false) (hq : (s.core s.me.pl).queue a.val = e :: es) (hheld : s.heldPush s.me.pl a.val = none) :
    Next (execQpop d a s) (fun t => ∃ u, WroteV s u d e 0 ∧ t = { u with cores := t.cores } ∧ (t.core s.me.pl).queue a.val = es) := by
  refine next_of_eq ((if_neg (Nat.not_le.mpr ha)).trans (withAcq_free hacq _)) ?_
  rw [hq]
  dsimp only
  rw [acceptHeld_none (s := (s.wV d e).setQueue s.me.pl a.val es) hheld]
  exact next_of ⟨s.wV d e, wroteV_wV0 s d e, rfl, queue_setQueue _ _ _ _⟩

theorem execQpeek_reads (hacq : s.me.ops.any (·.acq) = false) (hq : (s.core s.me.pl).queue a.val = e :: es)
    (hparked : ∀ t ∈ s.allThreads, ∀ k n, t.park ≠ .queue k n) : Next (execQpeek d a s) (fun t => WroteV s t d e 0) := by
  refine next_of_eq ((if_neg (Nat.not_le.mpr ha)).trans (withAcq_free hacq _)) ?_
  rw [hq]
  dsimp only
  rw [wakeQueue_unparked (unparked_wV d e fun t ht => hparked t ht a.val)]
  exact next_of (wroteV_wV0 s d e)

/-- On an empty queue both park. -/
theorem queueRead_parks (hacq : s.me.ops.any (·.acq) = false) (hq : (s.core s.me.pl).queue a.val = []) (hr : s.me.region = none) :
    ∀ i, i = Instr.qpop d a ∨ i = Instr.qpeek d a → Next (exec i s) (fun t => ParkedAtQueue s t a.val) := by
  rintro i (rfl | rfl) <;> refine next_of_eq ((if_neg (Nat.not_le.mpr ha)).trans (withAcq_free hacq _)) ?_ <;> rw [hq]
  · exact next_of (parkedAtQueue_parkQueue hr _)
  · exact next_of (parkedAtQueue_parkQueue hr _)

/-- While an acquire of the thread is pending, both wait at their bundle (R199, log 18). -/
theorem queueRead_waits (hs : s.me.strm = none) (hacq : s.me.ops.any (·.acq) = true) (hr : s.me.region = none) :
    ∀ i, i = Instr.qpop d a ∨ i = Instr.qpeek d a → Next (exec i s) (fun t => Rewound s t .acq) := by
  rintro i (rfl | rfl) <;>
    exact next_of_eq ((if_neg (Nat.not_le.mpr ha)).trans (withAcq_waits hs hacq _)) (next_of (rewound_rewind s .acq hr))

end

/-! ### Reductions of a queue (R195) -/

/-- The entries that a reduction of a queue adds. -/
def qredCount (s : State) (b : Fin 16) : Nat := s.iss.src.s[b].toNat % 65536

/-- An entry has been added and has left its queue, and the position has moved on. -/
def qredTook (s : State) (d a : Fin 16) (r : VWord × Flags) (es : List VWord) : State :=
  (((s.wV d r.1).orF r.2).setQueue s.me.pl a.val es).modMe fun t => { t with qpos := t.qpos + 1 }

/-- A turn ends the reduction where its count is reached, and otherwise stays on the bundle. -/
def qredEnd (s : State) (b : Addr) (count : Nat) : State :=
  if count ≤ s.me.qpos.toNat then s.modMe fun t => { t with qpos := 0 } else (s.setPc b).status .rewound

section
variable {s : State} {d a b : Fin 16} {e : VWord} {es : List VWord} {add : VWord → VWord → VWord × Flags}

theorem qredTurn_ends (ha : a.val < 8) (hpair : s.iss.pair = false) (hc : qredCount s b ≤ s.me.qpos.toNat) :
    qredTurn s d a b add = .next { s with me := { s.me with qpos := 0 } } := by
  have hbits : bits (s.rS b).toNat 15 0 ≤ s.me.qpos.toNat := by rwa [bits_low]
  unfold qredTurn
  rw [if_neg (Nat.not_le.mpr ha), hpair]
  simp only [Nat.not_lt.mpr hbits, hbits, Bool.false_eq_true, if_false, if_true]
  rfl

theorem qredTurn_waits (ha : a.val < 8) (hs : s.me.strm = none) (hpair : s.iss.pair = false) (hc : s.me.qpos.toNat < qredCount s b)
    (hacq : s.me.ops.any (·.acq) = true) : qredTurn s d a b add = .next (s.rewind .acq) := by
  have hbits : s.me.qpos.toNat < bits (s.rS b).toNat 15 0 := by rwa [bits_low]
  unfold qredTurn
  rw [if_neg (Nat.not_le.mpr ha), hpair]
  simp only [hbits, Bool.false_eq_true, if_false, if_true]
  exact withAcq_waits hs hacq _

theorem qredTurn_parks (ha : a.val < 8) (hpair : s.iss.pair = false) (hc : s.me.qpos.toNat < qredCount s b) (hacq : s.me.ops.any (·.acq) = false)
    (hq : (s.core s.me.pl).queue a.val = []) : qredTurn s d a b add = .next (s.parkQueue a.val) := by
  have hbits : s.me.qpos.toNat < bits (s.rS b).toNat 15 0 := by rwa [bits_low]
  unfold qredTurn
  rw [if_neg (Nat.not_le.mpr ha), hpair]
  simp only [hbits, hq, withAcq_free hacq, Bool.false_eq_true, if_false, if_true]

theorem qredTurn_takes (ha : a.val < 8) (hpair : s.iss.pair = false) (hc : s.me.qpos.toNat < qredCount s b) (hacq : s.me.ops.any (·.acq) = false)
    (hq : (s.core s.me.pl).queue a.val = e :: es) (hheld : s.heldPush s.me.pl a.val = none) :
    qredTurn s d a b add = .next (qredEnd (qredTook s d a (add s.iss.src.v[d] e) es) s.iss.b (qredCount s b)) := by
  have hbits : s.me.qpos.toNat < bits (s.rS b).toNat 15 0 := by rwa [bits_low]
  have haccept := acceptHeld_none (s := ((s.wV d (add (s.rV d) e).1).orF (add (s.rV d) e).2).setQueue s.me.pl a.val es) hheld
  unfold qredTurn
  rw [if_neg (Nat.not_le.mpr ha), hpair]
  simp only [hbits, hq, withAcq_free hacq, haccept, Bool.false_eq_true, if_false, if_true]
  simp only [bits_low]
  rfl

/-- The position after an entry, below a count of sixteen bits, is one more. -/
theorem qredTook_qpos (hc : s.me.qpos.toNat < qredCount s b) (r : VWord × Flags) : (qredTook s d a r es).me.qpos.toNat = s.me.qpos.toNat + 1 := by
  have hme : (qredTook s d a r es).me.qpos = s.me.qpos + 1 := congrArg (· + 1) (Thread.setV_qpos s.me d r.1)
  have hcount : qredCount s b < 65536 := Nat.mod_lt _ (by decide)
  rw [hme, BitVec.toNat_add]
  exact Nat.mod_eq_of_lt (by rw [show BitVec.toNat 1 = 1 from rfl]; omega)

/-- However the turn ends, the entry has left its queue. -/
theorem queue_qredEnd (s : State) (d a : Fin 16) (r : VWord × Flags) (es : List VWord) (c : Addr) (n : Nat) :
    ((qredEnd (qredTook s d a r es) c n).core s.me.pl).queue a.val = es := by
  have hcores : (qredEnd (qredTook s d a r es) c n).cores = (((s.wV d r.1).orF r.2).setQueue s.me.pl a.val es).cores := by
    unfold qredEnd
    split <;> rfl
  rw [core_congr hcores]
  exact queue_setQueue _ _ _ _

/-- Before its count a reduction takes an entry, and its PC stays on the bundle. -/
theorem qredTurn_goesOn (ha : a.val < 8) (hpair : s.iss.pair = false) (hc : s.me.qpos.toNat + 1 < qredCount s b) (hacq : s.me.ops.any (·.acq) = false)
    (hq : (s.core s.me.pl).queue a.val = e :: es) (hheld : s.heldPush s.me.pl a.val = none) : Next (qredTurn s d a b add) (fun t =>
      ∃ u, WroteV s u d (add s.iss.src.v[d] e).1 (add s.iss.src.v[d] e).2 ∧
        t = { u with me := { u.me with qpos := s.me.qpos + 1, pc := s.iss.b }, iss := { s.iss with status := .rewound }, cores := t.cores } ∧
        (t.core s.me.pl).queue a.val = es) := by
  have hlt : s.me.qpos.toNat < qredCount s b := by omega
  rw [qredTurn_takes ha hpair hlt hacq hq hheld]
  refine next_of ⟨_, wroteV_wV s d _ _, ?_, queue_qredEnd s d a _ es _ _⟩
  rw [qredEnd, if_neg (by rw [qredTook_qpos hlt]; omega), ← Thread.setV_qpos s.me d (add s.iss.src.v[d] e).1]
  rfl

/-- At its count a reduction takes its last entry, and the position is 0 again. -/
theorem qredTurn_completes (ha : a.val < 8) (hpair : s.iss.pair = false) (hc : s.me.qpos.toNat + 1 = qredCount s b) (hacq : s.me.ops.any (·.acq) = false)
    (hq : (s.core s.me.pl).queue a.val = e :: es) (hheld : s.heldPush s.me.pl a.val = none) : Next (qredTurn s d a b add) (fun t =>
      ∃ u, WroteV s u d (add s.iss.src.v[d] e).1 (add s.iss.src.v[d] e).2 ∧ t = { u with me := { u.me with qpos := 0 }, cores := t.cores } ∧
        (t.core s.me.pl).queue a.val = es) := by
  have hlt : s.me.qpos.toNat < qredCount s b := by omega
  rw [qredTurn_takes ha hpair hlt hacq hq hheld]
  refine next_of ⟨_, wroteV_wV s d _ _, ?_, queue_qredEnd s d a _ es _ _⟩
  rw [qredEnd, if_pos (by rw [qredTook_qpos hlt]; omega)]
  rfl

end

/-- The reductions of a queue, with their lane types and rounding modes. -/
def queueReductions (s : State) (d a b : Fin 16) : List (Instr × LaneT × Nat) :=
  [(.qredI32 d a b, .i32, 0), (.qredI64 d a b, .i64, 0), (.qredF32 d a b, .f32, s.iss.src.rm)]

theorem exec_queueReductions (s : State) (d a b : Fin 16) : ∀ p ∈ queueReductions s d a b, exec p.1 s = qredTurn s d a b (vAddL p.2.2 p.2.1) := by
  unfold queueReductions
  simp only [List.forall_mem_cons]
  exact ⟨rfl, rfl, rfl, List.forall_mem_nil _⟩

/-! ### Messages and spawn (R197, R198, R205) -/

section
variable {s : State} {d a b : Fin 16}

theorem execMsg_issues (s : State) (a b : Fin 16) : Next (execMsg a b s) (fun t => Issued s t (fun o => o.dest = none ∧ o.rel = true)
    (.msg ((s.rS a).toNat / 2 ^ 32 % 16) ((s.rS a).setWidth 32) (s.rV b) s.me.task.launch) (.peer s.me.pl.o 0 0)) :=
  next_of (issued_issueOp s _ _ _ _ _ ⟨rfl, rfl⟩ rfl rfl rfl rfl)

theorem execMrecv_issues (hr : OpRoom s) : Next (execMrecv d s) (fun t => Issued s t (fun o => o.dest = some (.v d) ∧ o.acq = true ∧ o.counts = true)
    (.mrecv s.me.tid) (.peer s.me.pl.o 0 0)) := by
  unfold execMrecv
  rw [not_full_of_room hr]
  exact next_of (issued_issueOp s _ _ _ _ _ ⟨rfl, rfl, rfl⟩ rfl rfl rfl rfl)

/-- A launch record in memory of the owner sets out from where it translates. -/
theorem execSpawn_issues {l : Loc} (hl : Translates s (ea0 (s.rS a)) 128 .load l) (hscr : ∀ p off, l ≠ .scr p off) (hpeer : ∀ o n ia, l ≠ .peer o n ia)
    (hr : OpRoom s) : Next (execSpawn d a s) (fun t => Issued s t (fun o => o.dest = some (.s d) ∧ o.rel = true ∧ o.counts = true) (.spawn 0 []) l) := by
  unfold execSpawn
  dsimp only
  rw [withLoc_at (resolve_of_translates hl), not_full_of_room hr]
  cases l with
  | scr p off => exact absurd rfl (hscr p off)
  | peer o n ia => exact absurd rfl (hpeer o n ia)
  | _ => exact next_of (issued_issueOp s _ _ _ _ _ ⟨rfl, rfl, rfl⟩ rfl rfl rfl rfl)

end

/-- Settles O19: qpop and qpeek by what stands in the queue and what the thread waits for; a reduction by where its position stands to its count. -/
theorem queuesMessagesSpawn : Obligations.QueuesMessagesSpawn := by
  unfold Obligations.QueuesMessagesSpawn
  refine ⟨?_, ?_⟩
  · intro s d a b e es ha hs home q
    refine ⟨execQpop_takes ha, execQpeek_reads ha, queueRead_waits ha hs, queueRead_parks ha, fun hacq hq hheld hpair hc p hp => ?_, fun hpair p hp => ?_⟩
    · rw [exec_queueReductions s d a b p hp]
      exact qredTurn_goesOn ha hpair hc hacq hq hheld
    · rw [exec_queueReductions s d a b p hp]
      refine ⟨fun hacq hr hc => ?_, fun hacq hq hr hc => ?_, fun hacq hq hheld hc => qredTurn_completes ha hpair hc hacq hq hheld, qredTurn_ends ha hpair⟩
      · exact next_of_eq (qredTurn_waits ha hs hpair hc hacq) (next_of (rewound_rewind s .acq hr))
      · exact next_of_eq (qredTurn_parks ha hpair hc hacq hq) (next_of (parkedAtQueue_parkQueue hr _))
  · intro s d a b l x
    exact ⟨execMsg_issues s a b, fun hr => ⟨execMrecv_issues hr, fun hl hscr hpeer => execSpawn_issues hl hscr hpeer hr⟩⟩

end Sys2Proof.Laws

/-! SUPPORT. SyncAtHome: answers with a change of their thread, writes at a home, sync words, atomics and reductions performed there, and O31. -/

namespace Sys2Proof.Laws

open Sys2Proof.Machine Sys2Proof.Safety

/-! ### Answers with a change of their thread (R345) -/

/-- A change of a thread that leaves its number, its operations and what it waits for. -/
def KeepsOps (g : Thread → Thread) : Prop := ∀ t, (g t).uid = t.uid ∧ (g t).ops = t.ops ∧ (g t).park = t.park

section
variable {s s' : State} {r : Req}

/-- An answer after such a change is an answer with it, from a state with the same threads and the same network. -/
theorem answeredAs_modThread {g : Thread → Thread} (hg : KeepsOps g) (hn : s'.net = s.net) (ht : ∀ u, s'.thread? u = s.thread? u) (res : VWord) :
    AnsweredAs g s ((s'.modThread r.uid g).answer r res none) r res := by
  obtain ⟨hnet, hother, hthis⟩ := answered_answer (s'.modThread r.uid g) r res
  have hmod : ∀ u, (s'.modThread r.uid g).thread? u = if u = r.uid then (s.thread? u).map g else s.thread? u := fun u => by
    rw [thread?_modThread s' r.uid u g fun t => (hg t).1, ht]
  refine ⟨?_, fun u hu => ?_, fun x hx => ?_⟩
  · rw [hnet, modThread_frame]
    exact congrArg (List.filter _) hn
  · rw [hother u hu, hmod, if_neg hu]
  · obtain ⟨-, hops, hpark⟩ := hg x
    have hgx : (s'.modThread r.uid g).thread? r.uid = some (g x) := by rw [hmod, if_pos rfl, hx]; rfl
    obtain ⟨y, hy, heq, hwoken, hmine, hrest, hdone⟩ := hthis (g x) hgx
    rw [hops] at hmine hrest
    rw [hpark] at hwoken
    exact ⟨y, hy, heq, hwoken, hmine, hrest, hdone⟩

/-! ### Writes at a home (R163, R399) -/

/-- What has been stored stands where the cells are the same. -/
theorem stored_congr {t t' : State} {key : Nat} {bs : List Byte} (h : t'.mem.cells = t.mem.cells) (hs : Stored s t key bs) : Stored s t' key bs := by
  unfold Stored at hs ⊢
  simpa only [getB_congr h] using hs

/-- A write of the device over what has been settled stores its bytes. -/
theorem stored_writeDev {t : State} {bs : List Byte} (hm : MemOk s) (h : Settles s t) (hlost : s.lostKey (s.locKey r.loc) = false) (w : Nat × Nat × Nat) :
    Stored s (t.writeDev w r.loc bs) (s.locKey r.loc) bs :=
  stored_congr (by rw [answer_mem]) (stores_of_settles (r := r) (bs := bs) hm h hlost w).2

/-- A write at a location whose layer is not lost, or whose sector Mica holds, stores its bytes over the cells (R399). -/
theorem stored_writeLoc_kept {t : State} {l : Loc} {bs : List Byte} (hm : MemOk s) (hc : t.mem.cells = s.mem.cells)
    (hl : (t.lostKey (t.locKey l) && (t.micaHas (t.locKey l)).isNone) = false) : Stored s (t.writeLoc l bs) (t.locKey l) bs := by
  unfold State.writeLoc
  rw [hl, if_neg Bool.false_ne_true]
  dsimp only
  split
  · exact stored_write (m := (t.keepCode _ _ _).mem) hm ((keepCode_cells t _ _ _).trans hc) rfl
  · exact stored_write hm hc rfl

/-- A sector that reads as good is not lost, or Mica holds it: a write there is not dropped. -/
theorem written_of_unpoisoned {key : Nat} (h : s.poisonedKey key = false) : (s.lostKey key && (s.micaHas key).isNone) = false := by
  unfold State.poisonedKey at h
  cases hm : s.micaHas key with
  | some c => exact Bool.and_false _
  | none =>
    rw [hm] at h
    unfold State.storedBad at h
    simp only [Bool.or_eq_false_iff] at h
    rw [h.1.2, Bool.false_and]

end

/-! ### Sync words (R179 to R185) -/

/-- The requests of sync pages. -/
def isSyncForm : ReqKind → Bool
  | .ldfe | .ldff | .stfe _ | .stf _ | .feClr | .lrw | .scq _ | .rsvRel => true
  | _ => false

section
variable {s u : State} {id o p : Nat} {r : Req} {v : VWord}

theorem exec_syncOpArrive (h : Arriving s id r) (hk : isSyncForm r.kind = true) : exec (.syncOpArrive id) s = .next (s.syncArrive r) := by
  refine (withReq_arriving h _).trans ?_
  cases hkind : r.kind with
  | ldfe | ldff | stfe | stf | feClr | lrw | scq | rsvRel => rfl
  | _ => rw [hkind] at hk; cases hk

/-- An lrw heads the queue of a word that has none (R184). -/
theorem syncCond_lrw {key : Nat} : s.syncCond .lrw key = true ↔ ∀ x ∈ s.mem.resv, x.1 ≠ key := by
  unfold State.syncCond
  simp only [Bool.not_eq_true', List.any_eq_false, beq_iff_eq]

/-- With no request waiting, no scan performs one. -/
theorem waiterScan_idle (h : ∀ x ∈ s.net, x.arrived = none) (key n : Nat) : s.waiterScan key n = s := by
  have hnone : s.nextWaiter key = none := foldl_unchanged fun x hx => by rw [h x hx]
  cases n with
  | zero => rfl
  | succ n => unfold State.waiterScan; rw [hnone]

/-- A request whose condition holds is performed, and an lrw where an entry is free; with no request waiting, nothing else happens. -/
theorem syncArrive_answers (harr : r.arrived = none) (hidle : ∀ x ∈ s.net, x.arrived = none) (hc : s.syncCond r.kind (s.locKey r.loc) = true)
    (he : r.kind ≠ .lrw ∨ s.entryFree r = true) (hdo : s.syncDo r = u.answer r v none) (hn : u.net = s.net) : s.syncArrive r = u.answer r v none := by
  have hnet : (u.answer r v none).net = s.net.filter (fun x => x.id != r.id) := by
    rw [(answered_answer u r v).1, hn]
  unfold State.syncArrive
  rw [harr]
  dsimp only
  rw [if_neg (by simp), if_pos (by simpa [hc] using he), hdo]
  exact waiterScan_idle (fun x hx => hidle x (List.mem_of_mem_filter (hnet ▸ hx))) _ _

/-- A request whose condition fails, or an lrw, waits where an entry is free, and is otherwise not accepted (R181). -/
theorem syncArrive_waits (harr : r.arrived = none) (hc : s.syncCond r.kind (s.locKey r.loc) = false) :
    (s.entryFree r = true → s.syncArrive r = s.await r) ∧ (s.entryFree r = false → s.syncArrive r = s) := by
  unfold State.syncArrive
  rw [harr]
  simp only [hc]
  exact ⟨fun h => by simp [h], fun h => by simp [h]⟩

theorem syncArrive_lrw_unaccepted (harr : r.arrived = none) (hk : r.kind = .lrw) (he : s.entryFree r = false) : s.syncArrive r = s := by
  unfold State.syncArrive
  simp [harr, hk, he]

theorem awaits_await (s : State) (r : Req) : Awaits s (s.await r) r := by
  unfold Awaits State.await State.bump
  simp only [beq_iff_eq]
  rfl

end

/-- A request has reached its word of a sync page, whose sector reads as good, and none waits in the network. -/
structure AtSyncWord (s : State) (id : Nat) (r : Req) (o p : Nat) : Prop where
  arriving : Arriving s id r
  loc : r.loc = .dram o p .sync
  fresh : r.arrived = none
  idle : ∀ x ∈ s.net, x.arrived = none
  good : s.poisonedKey (s.dramKey o p) = false
  memOk : MemOk s

/-- The doubleword at a key, as a long result takes it. -/
def syncWord (s : State) (key : Nat) : VWord := BitVec.ofNat 128 (leNat (s.mem.read key 8))

section
variable {s u : State} {id o p : Nat} {r : Req} {v : VWord} (h : AtSyncWord s id r o p)
include h

theorem AtSyncWord.locKey : s.locKey r.loc = s.dramKey o p := by rw [h.loc]; rfl

/-- A sync page is served by Shale: its home counts the access and touches no cache (R163, R434). -/
theorem AtSyncWord.charged (w : Bool) : s.chargeMem w r.loc = s.charge o (if w then 5 else 4) 128 := by rw [h.loc]; rfl

/-- What the performance answers, when its condition holds. -/
theorem sync_performs (hk : isSyncForm r.kind = true) (hc : s.syncCond r.kind (s.dramKey o p) = true) (he : r.kind ≠ .lrw ∨ s.entryFree r = true)
    (hdo : s.syncDo r = u.answer r v none) (hn : u.net = s.net) (ht : ∀ k, u.thread? k = s.thread? k) :
    Next (exec (.syncOpArrive id) s) (fun t => Answered s t r v ∧ t.mem = u.mem) := by
  rw [exec_syncOpArrive h.arriving hk, syncArrive_answers h.fresh h.idle (h.locKey ▸ hc) he hdo hn]
  exact next_of ⟨answered_of_same hn ht v, answer_mem _ _ _ _⟩

theorem ldfe_performs (hk : r.kind = .ldfe) (hf : s.mem.f (s.dramKey o p) = true) : Next (exec (.syncOpArrive id) s)
    (fun t => Answered s t r (syncWord s (s.dramKey o p)) ∧ t.mem = s.mem.setF (s.dramKey o p) false) := by
  have hdo : s.syncDo r = ((s.charge o 4 128).modMem fun m => m.setF (s.dramKey o p) false).answer r (syncWord s (s.dramKey o p)) none := by
    unfold State.syncDo
    simp only [hk, h.locKey, h.good, h.charged, syncWord, Bool.false_eq_true, if_false]
  exact sync_performs h (by rw [hk]; rfl) (by rw [hk]; exact hf) (.inl (by rw [hk]; exact ReqKind.noConfusion)) hdo rfl fun _ => rfl

theorem ldff_performs (hk : r.kind = .ldff) (hf : s.mem.f (s.dramKey o p) = true) : Next (exec (.syncOpArrive id) s)
    (fun t => Answered s t r (syncWord s (s.dramKey o p)) ∧ t.mem = s.mem) := by
  have hdo : s.syncDo r = (s.charge o 4 128).answer r (syncWord s (s.dramKey o p)) none := by
    unfold State.syncDo
    simp only [hk, h.locKey, h.good, h.charged, syncWord, Bool.false_eq_true, if_false]
  exact sync_performs (u := s.charge o 4 128) h (by rw [hk]; rfl) (by rw [hk]; exact hf) (.inl (by rw [hk]; exact ReqKind.noConfusion)) hdo rfl fun _ => rfl

theorem feClr_performs (hk : r.kind = .feClr) : Next (exec (.syncOpArrive id) s) (fun t => Answered s t r 0 ∧ t.mem = s.mem.setF (s.dramKey o p) false) := by
  have hdo : s.syncDo r = (s.modMem fun m => m.setF (s.dramKey o p) false).answer r 0 none := by
    unfold State.syncDo
    simp only [hk, h.locKey]
  exact sync_performs h (by rw [hk]; rfl) (by rw [hk]; rfl) (.inl (by rw [hk]; exact ReqKind.noConfusion)) hdo rfl fun _ => rfl

/-- An lrw whose word has no reservation queue heads it (R184). -/
theorem lrw_performs (hk : r.kind = .lrw) (hq : ∀ x ∈ s.mem.resv, x.1 ≠ s.dramKey o p) (he : s.entryFree r = true) : Next (exec (.syncOpArrive id) s)
    (fun t => Answered s t r (syncWord s (s.dramKey o p)) ∧ t.mem = { s.mem with resv := s.mem.resv ++ [(s.dramKey o p, r.uid)] }) := by
  have hdo : s.syncDo r = ((s.charge o 4 128).modMem fun m => { m with resv := m.resv ++ [(s.dramKey o p, r.uid)] }).answer r
      (syncWord s (s.dramKey o p)) none := by
    unfold State.syncDo
    simp only [hk, h.locKey, h.good, h.charged, syncWord, Bool.false_eq_true, if_false]
  exact sync_performs h (by rw [hk]; rfl) (by rw [hk]; exact syncCond_lrw.mpr hq) (.inr he) hdo rfl fun _ => rfl

theorem rsvRel_performs (hk : r.kind = .rsvRel) : Next (exec (.syncOpArrive id) s)
    (fun t => Answered s t r 0 ∧ t.mem = (s.freeResv (s.dramKey o p) r.uid).mem) := by
  have hdo : s.syncDo r = (s.freeResv (s.dramKey o p) r.uid).answer r 0 none := by
    unfold State.syncDo
    simp only [hk, h.locKey]
  exact sync_performs h (by rw [hk]; rfl) (by rw [hk]; rfl) (.inl (by rw [hk]; exact ReqKind.noConfusion)) hdo rfl fun _ => rfl

/-- The write of a sync word at its bank group stores the doubleword, and leaves F bits and reservations. -/
theorem syncWrite_stores (w : Nat × Nat × Nat) (bs : List Byte) : let t := (s.charge o 5 128).writeDev w r.loc bs
    Stored s t (s.dramKey o p) bs ∧ t.mem.fbit = s.mem.fbit ∧ t.mem.resv = s.mem.resv := by
  intro t
  have hkey : ((s.charge o 5 128).noteOuter w r.loc bs.length).locKey r.loc = s.dramKey o p := by
    rw [noteOuter_frame]
    exact (locKey_of_settles (settles_charge s o 5 128) r.loc).trans h.locKey
  have hcells : ((s.charge o 5 128).noteOuter w r.loc bs.length).mem = s.mem := noteOuter_mem _ _ _ _
  have hkept := written_of_unpoisoned h.good
  obtain ⟨-, hfbit, -, hresv⟩ := writeLoc_marks ((s.charge o 5 128).noteOuter w r.loc bs.length) r.loc bs
  refine ⟨?_, hfbit.trans (congrArg Mem.fbit hcells), hresv.trans (congrArg Mem.resv hcells)⟩
  have hst := stored_writeLoc_kept (bs := bs) (l := r.loc) h.memOk (congrArg Mem.cells hcells) (by rw [hkey, noteOuter_frame]; exact hkept)
  rwa [hkey] at hst

/-- A store to a sync word sets F, whether it waited for F = 0 or not (R183). -/
theorem syncStore_performs {x : Word} (hk : (r.kind = .stfe x ∧ s.mem.f (s.dramKey o p) = false) ∨ r.kind = .stf x) : Next (exec (.syncOpArrive id) s)
    (fun t => Answered s t r 0 ∧ Stored s t (s.dramKey o p) (leBytes 8 x.toNat) ∧ t.mem.fbit = setIns s.mem.fbit (s.dramKey o p / 8) ∧ t.mem.resv = s.mem.resv) := by
  have hdo : s.syncDo r = (((s.charge o 5 128).writeDev (s.writer r) r.loc (leBytes 8 x.toNat)).modMem fun m => m.setF (s.dramKey o p) true).answer r 0 none := by
    unfold State.syncDo
    obtain ⟨hk, -⟩ | hk := hk <;> simp only [hk, h.locKey, h.charged, if_true]
  have hform : isSyncForm r.kind = true ∧ s.syncCond r.kind (s.dramKey o p) = true ∧ r.kind ≠ .lrw := by
    obtain ⟨hk, hf⟩ | hk := hk <;> rw [hk]
    · exact ⟨rfl, by unfold State.syncCond; rw [hf]; rfl, ReqKind.noConfusion⟩
    · exact ⟨rfl, rfl, ReqKind.noConfusion⟩
  obtain ⟨hsync, hc, hlrw⟩ := hform
  obtain ⟨hst, hfbit, hresv⟩ := syncWrite_stores h (s.writer r) (leBytes 8 x.toNat)
  refine next_mono (sync_performs h hsync hc (.inl hlrw) hdo (writeDev_net _ _ _ _) fun k => writeDev_thread? _ _ _ _ k) fun t ⟨ha, hmem⟩ => ⟨ha, ?_, ?_, ?_⟩
  · exact stored_congr (congrArg Mem.cells hmem) hst
  · exact (congrArg Mem.fbit hmem).trans (congrArg (setIns · _) hfbit)
  · exact (congrArg Mem.resv hmem).trans hresv

/-- An scq writes its word and frees its thread's reservation (R184). -/
theorem scq_performs {x : Word} (hk : r.kind = .scq x) : Next (exec (.syncOpArrive id) s) (fun t => Answered s t r 0 ∧
    Stored s t (s.dramKey o p) (leBytes 8 x.toNat) ∧ t.mem.fbit = s.mem.fbit ∧
    t.mem.resv = s.mem.resv.filter (fun y => y.1 != s.dramKey o p || y.2 != r.uid)) := by
  have hdo : s.syncDo r = (((s.charge o 5 128).writeDev (s.writer r) r.loc (leBytes 8 x.toNat)).freeResv (s.dramKey o p) r.uid).answer r 0 none := by
    unfold State.syncDo
    simp only [hk, h.locKey, h.charged, if_true]
  obtain ⟨hst, hfbit, hresv⟩ := syncWrite_stores h (s.writer r) (leBytes 8 x.toNat)
  refine next_mono (sync_performs h (by rw [hk]; rfl) (by rw [hk]; rfl) (.inl (by rw [hk]; exact ReqKind.noConfusion)) hdo (writeDev_net _ _ _ _)
    fun k => writeDev_thread? _ _ _ _ k) fun t ⟨ha, hmem⟩ => ⟨ha, ?_, ?_, ?_⟩
  · exact stored_congr (congrArg Mem.cells hmem) hst
  · exact (congrArg Mem.fbit hmem).trans hfbit
  · exact (congrArg Mem.resv hmem).trans (congrArg (List.filter _) hresv)

/-- The condition of the request fails on its word (R183, R184). -/
def SyncBlocked (s : State) (k : ReqKind) (key : Nat) : Prop :=
  ((k = .ldfe ∨ k = .ldff) ∧ s.mem.f key = false) ∨ (∃ x, k = .stfe x ∧ s.mem.f key = true) ∨ (k = .lrw ∧ ∃ x ∈ s.mem.resv, x.1 = key)

omit h in
theorem syncCond_of_blocked {k : ReqKind} {key : Nat} (hb : SyncBlocked s k key) : isSyncForm k = true ∧ s.syncCond k key = false := by
  obtain ⟨rfl | rfl, hf⟩ | ⟨x, rfl, hf⟩ | ⟨rfl, x, hx, hkey⟩ := hb
  · exact ⟨rfl, hf⟩
  · exact ⟨rfl, hf⟩
  · exact ⟨rfl, by unfold State.syncCond; rw [hf]; rfl⟩
  · exact ⟨rfl, Bool.eq_false_iff.mpr fun hc => syncCond_lrw.mp hc x hx hkey⟩

theorem sync_waits (hb : SyncBlocked s r.kind (s.dramKey o p)) :
    (s.entryFree r = true → Next (exec (.syncOpArrive id) s) (fun t => Awaits s t r)) ∧ (s.entryFree r = false → exec (.syncOpArrive id) s = .next s) := by
  obtain ⟨hk, hc⟩ := syncCond_of_blocked hb
  obtain ⟨hwait, hrefuse⟩ := syncArrive_waits h.fresh (h.locKey ▸ hc)
  rw [exec_syncOpArrive h.arriving hk]
  exact ⟨fun he => by rw [hwait he]; exact next_of (awaits_await s r), fun he => by rw [hrefuse he]⟩

theorem lrw_unaccepted (hk : r.kind = .lrw) (he : s.entryFree r = false) : exec (.syncOpArrive id) s = .next s := by
  rw [exec_syncOpArrive h.arriving (by rw [hk]; rfl), syncArrive_lrw_unaccepted h.fresh hk he]

end

/-! ### Atomics and reductions (R186, R187) -/

theorem leNat_leBytes (n : Nat) : ∀ x, leNat (leBytes n x) = x % 256 ^ n := by
  induction n with
  | zero => exact fun x => (Nat.mod_one x).symm
  | succ n ih =>
    intro x
    rw [leBytes, leNat, ih, BitVec.toNat_ofNat, pow_succ' 256 n]
    exact Nat.mod_mul.symm

theorem length_leBytes (n : Nat) : ∀ x, (leBytes n x).length = n := by
  induction n with
  | zero => exact fun _ => rfl
  | succ n ih => exact fun x => congrArg (· + 1) (ih (x / 256))

theorem leNat_lt (bs : List Byte) : leNat bs < 2 ^ (8 * bs.length) := by
  have h := unlanes_lt 8 (bs.map (·.toNat))
  rwa [← leNat_eq_unlanes, List.length_map] at h

/-- A load with a sign extends the number that was stored (R168). -/
theorem loadVal_sx_leBytes {n old : Nat} (hn : 0 < n) (ho : old < 2 ^ (8 * n)) :
    loadVal .sx (leBytes n old) = (BitVec.ofInt 64 (laneInt (8 * n) old)).setWidth 128 := by
  have hle : leNat (leBytes n old) = old := by
    rw [leNat_leBytes, show 256 = 2 ^ 8 from rfl, ← Nat.pow_mul]
    exact Nat.mod_eq_of_lt ho
  have hold : (BitVec.ofNat (8 * n) old).toNat = old := by rw [BitVec.toNat_ofNat, Nat.mod_eq_of_lt ho]
  have hsign := toInt_eq_of_bit (BitVec.ofNat (8 * n) old) (by omega)
  rw [hold] at hsign
  unfold loadVal
  dsimp only
  rw [hle, length_leBytes, ← hsign, ← laneInt_toNat, hold]
  exact BitVec.ofNat_toNat 128 _

/-- An atomic or a reduction of n bytes has reached its home, which no channel holds and whose sector is neither poisoned nor lost. -/
structure AtAtomicHome (s : State) (id : Nat) (r : Req) (n : Nat) : Prop where
  arriving : Arriving s id r
  memOk : MemOk s
  size : n = 4 ∨ n = 8
  here : ∀ o k ia, r.loc ≠ .peer o k ia
  chan : ∀ p off, r.loc = .scr p off → s.chanAt p off n = none
  good : s.poisonedKey (s.locKey r.loc) = false
  kept : s.lostKey (s.locKey r.loc) = false

/-- The n bytes at a home, as a number. -/
def oldAt (s : State) (l : Loc) (n : Nat) : Nat := leNat (s.mem.read (s.locKey l) n)

/-- The home of an atomic, with the new bytes written (R163, R186). -/
def atomicWritten (s : State) (r : Req) (bs : List Byte) : State := (s.chargeOld r.loc).homeWrite (s.writer r) r.loc bs

theorem settles_chargeOld (s : State) (l : Loc) : Settles s (s.chargeOld l) := by
  unfold State.chargeOld
  split
  · exact settles_chargeMem _ _ _
  · exact settles_refl s

/-- A write at a home is a write of the device after the home has settled. -/
theorem homeWrite_eq (s : State) (w : Nat × Nat × Nat) (l : Loc) (bs : List Byte) : ∃ t, Settles s t ∧ s.homeWrite w l bs = t.writeDev w l bs := by
  unfold State.homeWrite
  split
  · exact ⟨(s.chargeMem true l).invalL1 _ none, settles_trans (settles_chargeMem s true l) (settles_of rfl rfl), rfl⟩
  · exact ⟨_, settles_chargeMem s true l, rfl⟩

section
variable {s : State} {id n : Nat} {r : Req} (h : AtAtomicHome s id r n)
include h

theorem AtAtomicHome.unheld : s.chanHolds r.loc n = false := by
  have hchan := h.chan
  unfold State.chanHolds
  cases hloc : r.loc with
  | scr p off => unfold State.chanCheck; simp only [hchan p off hloc]; rfl
  | _ => rfl

/-- It stores its bytes, and leaves the network and the threads. -/
theorem atomicWritten_stores (bs : List Byte) : Stored s (atomicWritten s r bs) (s.locKey r.loc) bs ∧ (atomicWritten s r bs).net = s.net ∧
    ∀ u, (atomicWritten s r bs).thread? u = s.thread? u := by
  obtain ⟨t, ht, e⟩ := homeWrite_eq (s.chargeOld r.loc) (s.writer r) r.loc bs
  have hs : Settles s t := settles_trans (settles_chargeOld s r.loc) ht
  unfold atomicWritten
  rw [e]
  exact ⟨stored_writeDev h.memOk hs h.kept _, (writeDev_net _ _ _ _).trans (net_of_settles hs), fun u => (writeDev_thread? _ _ _ _ u).trans (thread?_of_settles hs u)⟩

/-- A returning atomic writes its new value and answers the old one. -/
theorem amoDo_eq (op : AmoOp) (x e : Word) : s.amoDo r op n x e =
    (atomicWritten s r (leBytes n (State.amoVal op n (oldAt s r.loc n) (x.toNat % 2 ^ (8 * n)) (e.toNat % 2 ^ (8 * n))))).answer r
      (State.amoRes op n (oldAt s r.loc n)) none := by
  have hhere := h.here
  unfold State.amoDo atomicWritten oldAt
  split
  · next hloc => exact absurd hloc (hhere _ _ _)
  · simp only [h.unheld, h.good, Bool.false_eq_true, if_false]

/-- A reduction writes its new value, answers nothing and is done. -/
theorem redDo_eq (op : IxOp) (f : Nat → Nat) : s.redDo r n op f = (atomicWritten s r (leBytes n (f (oldAt s r.loc n)))).redDone r none := by
  have hhere := h.here
  unfold State.redDo atomicWritten oldAt
  split
  · next hloc => exact absurd hloc (hhere _ _ _)
  · simp only [h.unheld, h.good, Bool.false_eq_true, if_false]

theorem amo_performs {op : AmoOp} {x e : Word} (hk : r.kind = .amo op n x e) : Next (exec (.amoPerform id) s) (fun t =>
    Stored s t (s.locKey r.loc) (leBytes n (State.amoVal op n (oldAt s r.loc n) (x.toNat % 2 ^ (8 * n)) (e.toNat % 2 ^ (8 * n)))) ∧
    Answered s t r (State.amoRes op n (oldAt s r.loc n))) := by
  have hexec : exec (.amoPerform id) s = .next (s.amoDo r op n x e) := by
    refine (withReq_arriving h.arriving _).trans ?_
    rw [hk]
  obtain ⟨hst, hnet, hthread⟩ := atomicWritten_stores h (leBytes n (State.amoVal op n (oldAt s r.loc n) (x.toNat % 2 ^ (8 * n)) (e.toNat % 2 ^ (8 * n))))
  rw [hexec, amoDo_eq h]
  exact next_of ⟨stored_congr (congrArg Mem.cells (answer_mem _ _ _ _)) hst, answered_of_same hnet hthread _⟩

/-- REDPEND falls by one. -/
def lowerRedpend (t : Thread) : Thread := { t with redpend := t.redpend - 1 }

theorem reduction_performs {op : IxOp} {f : Nat → Nat} : Stored s (s.redDo r n op f) (s.locKey r.loc) (leBytes n (f (oldAt s r.loc n))) ∧
    AnsweredAs lowerRedpend s (s.redDo r n op f) r 0 := by
  obtain ⟨hst, hnet, hthread⟩ := atomicWritten_stores h (leBytes n (f (oldAt s r.loc n)))
  rw [redDo_eq h]
  exact ⟨stored_congr (congrArg Mem.cells (redDone_mem _ _ _)) hst, answeredAs_modThread (g := lowerRedpend) (fun _ => ⟨rfl, rfl, rfl⟩) hnet hthread 0⟩

end

/-- The new value of each atomic, from the old one, the operand and the expected value (R186). -/
def atomicValues (n old v e : Nat) : List (AmoOp × Nat) :=
  let so := laneInt (8 * n) old
  let sv := laneInt (8 * n) v
  [(.add, (old + v) % 2 ^ (8 * n)), (.min, if so < sv then old else v), (.max, if so < sv then v else old), (.minn, min old v), (.maxn, max old v),
    (.and, old &&& v), (.or, old ||| v), (.xor, old ^^^ v), (.swap, v), (.cas, if old = e then v else old)]

theorem amoVal_atomicValues (n old v e : Nat) : ∀ p ∈ atomicValues n old v e, State.amoVal p.1 n old v e = p.2 := by
  unfold atomicValues
  simp only [List.forall_mem_cons]
  exact ⟨rfl, rfl, rfl, rfl, rfl, rfl, rfl, rfl, rfl, rfl, List.forall_mem_nil _⟩

/-- The new value of each reduction (R187). -/
def reductionValues (n old v : Nat) : List (RedOp × Nat) :=
  let so := laneInt (8 * n) old
  let sv := laneInt (8 * n) v
  [(.add, (old + v) % 2 ^ (8 * n)), (.min, if so < sv then old else v), (.max, if so < sv then v else old), (.and, old &&& v), (.or, old ||| v), (.xor, old ^^^ v)]

theorem redVal_reductionValues (n old v : Nat) : ∀ p ∈ reductionValues n old v, State.redVal p.1 n old v = p.2 := by
  unfold reductionValues
  simp only [List.forall_mem_cons]
  exact ⟨rfl, rfl, rfl, rfl, rfl, rfl, List.forall_mem_nil _⟩

/-- What an atomic answers: the old value, extended with its sign but for the two unsigned forms (R186). -/
theorem amoRes_eq {n old : Nat} (hn : 0 < n) (ho : old < 2 ^ (8 * n)) (op : AmoOp) : State.amoRes op n old =
    if op = .minn ∨ op = .maxn then BitVec.ofNat 128 old else (BitVec.ofInt 64 (laneInt (8 * n) old)).setWidth 128 := by
  rw [← loadVal_sx_leBytes hn ho]
  cases op <;> rfl

/-! ### The statement -/

/-- Settles O31: a request at a sync word by its kind, with its condition or without; an atomic and a reduction are one write at their home. -/
theorem syncWordsAndAtomicsPerformed : Obligations.SyncWordsAndAtomicsPerformed := by
  unfold Obligations.SyncWordsAndAtomicsPerformed
  refine ⟨?_, ?_⟩
  · intro s id r o p harr hloc hfresh hidle hgood hm key word resv
    have h : AtSyncWord s id r o p := ⟨harr, hloc, hfresh, hidle, hgood, hm⟩
    have same : ∀ {t : State}, t.mem.cells = s.mem.cells → SameBytes s t := fun e a => getB_congr e a
    refine ⟨fun hk hf => next_mono (ldfe_performs h hk hf) fun t ⟨ha, e⟩ => ⟨ha, same (by rw [e]; rfl), by rw [e]; rfl, by simp only [resv, e]; rfl⟩,
      ldff_performs h, fun x hk => syncStore_performs h hk,
      fun hk => next_mono (feClr_performs h hk) fun t ⟨ha, e⟩ => ⟨ha, same (by rw [e]; rfl), by rw [e]; rfl⟩,
      fun hk hq he => next_mono (lrw_performs h hk hq he) fun t ⟨ha, e⟩ => ⟨ha, same (by rw [e]), by rw [e], by simp only [resv, e]; rfl⟩,
      fun x hk => scq_performs h hk,
      fun hk => next_mono (rsvRel_performs h hk) fun t ⟨ha, e⟩ => ⟨ha, same (by rw [e]; rfl), by simp only [resv, e]; rfl⟩,
      sync_waits h, lrw_unaccepted h⟩
  · intro s id n r x e b harr hm hn hhere hchan hgood hkept key w old v so sv lower
    have h : AtAtomicHome s id r n := ⟨harr, hm, hn, hhere, hchan, hgood, hkept⟩
    have hn0 : 0 < n := by omega
    have hold : oldAt s r.loc n < 2 ^ (8 * n) := by
      have := leNat_lt (s.mem.read (s.locKey r.loc) n)
      rwa [read_length] at this
    refine ⟨fun p hp hk => ?_, fun p hp hk => ?_, fun hk h4 => ?_⟩
    · have hv := amoVal_atomicValues n old v (e.toNat % 2 ^ w) p hp
      rw [← hv]
      exact next_mono (amo_performs h hk) fun t ⟨hst, ha⟩ => ⟨hst, amoRes_eq hn0 hold p.1 ▸ ha⟩
    · have hv := redVal_reductionValues n old v p hp
      rw [← hv]
      refine next_of_eq ((withReq_arriving harr _).trans ?_) (next_of (reduction_performs h (op := .red p.1 n x)
        (f := fun old => State.redVal p.1 n old (x.toNat % 2 ^ (8 * n)))))
      rw [hk]
    · subst h4
      refine next_of_eq ((withReq_arriving harr _).trans ?_) (next_of (reduction_performs h (op := .redF b) (f := fun old => State.faddVal old b.toNat)))
      rw [hk]

end Sys2Proof.Laws

/-! SUPPORT. RegionAtHome: the keys of one sector, the words of an atomic region in turn, and O32. -/

namespace Sys2Proof.Laws

open Sys2Proof.Machine Sys2Proof.Safety

/-! ### The keys of one sector (R21, R163) -/

/-- A byte of the sector of an offset, by its place in the sector. -/
theorem dramKey_sector (s : State) (o p : Nat) {j : Nat} (hj : j < 128) : s.dramKey o (p / 128 * 128 + j) = s.dramKey o p / 128 * 128 + j := by
  have hline : (p / 128 * 128 + j) / 1024 = p / 1024 := by omega
  have hin : (p / 128 * 128 + j) % 1024 = p % 1024 / 128 * 128 + j := by omega
  have hlt : p / 128 * 128 + j < 2 ^ 27 * (s.owner o).desc.dram.length ↔ p < 2 ^ 27 * (s.owner o).desc.dram.length := by omega
  unfold State.dramKey stackKey pastKey
  simp only [hline, hin, hlt]
  split <;> omega

/-- A sector stands in one layer of one column, so its bytes are lost together (R399). -/
theorem lostKey_sector (s : State) (k : Nat) {j : Nat} (hj : j < 128) : s.lostKey (k / 128 * 128 + j) = s.lostKey k := by
  have hcol : (k / 128 * 128 + j) / 2 ^ 27 = k / 2 ^ 27 := by omega
  have hlayer : (k / 128 * 128 + j) % 2 ^ 27 / 2 ^ 24 = k % 2 ^ 27 / 2 ^ 24 := by omega
  have hlt : k / 128 * 128 + j < 2 ^ 37 ↔ k < 2 ^ 37 := by omega
  unfold State.lostKey
  simp only [hcol, hlayer, hlt]

/-! ### The words of a region in turn (R188) -/

/-- The cells of a write turn on the cells before it alone. -/
theorem write_cells_congr {m n : Mem} (h : m.cells = n.cells) (bs : List Byte) (a : Nat) : (m.write a bs).cells = (n.write a bs).cells := by
  induction bs generalizing m n a with
  | nil => exact h
  | cons b bs ih => exact ih (m := m.setB a b) (n := n.setB a b) (congrArg (cellsSet · a b) h) (a + 1)

/-- What a word of a region does to memory, in the sector at base. -/
def wordWrite (base : Nat) (m : Mem) (w : RWord) : Mem := match w.store with | some bs => m.write (base + w.ea.toNat % 128) bs | none => m

theorem wordWrite_cells_congr {m n : Mem} (h : m.cells = n.cells) (base : Nat) (w : RWord) : (wordWrite base m w).cells = (wordWrite base n w).cells := by
  unfold wordWrite
  split
  · exact write_cells_congr h _ _
  · exact h

/-- A state that keeps the places of s: every location has its key, and the same layers are lost. -/
def SamePlaces (s t : State) : Prop := (∀ l, t.locKey l = s.locKey l) ∧ ∀ k, t.lostKey k = s.lostKey k

section
variable {s t : State} {r : Req} {bad : Bool}

theorem samePlaces_of_settles (h : Settles s t) : SamePlaces s t := ⟨locKey_of_settles h, lostKey_of_settles h⟩

theorem samePlaces_of_fields (ho : t.owners = s.owners) (hc : t.cols = s.cols) : SamePlaces s t := by
  have howner : ∀ o, t.owner o = s.owner o := fun o => by unfold State.owner; rw [ho]
  refine ⟨fun l => by cases l <;> simp only [State.locKey, State.dramKey, howner], fun k => ?_⟩
  unfold State.lostKey State.column
  rw [hc]

theorem SamePlaces.trans {u : State} (h : SamePlaces s t) (k : SamePlaces t u) : SamePlaces s u :=
  ⟨fun l => (k.1 l).trans (h.1 l), fun x => (k.2 x).trans (h.2 x)⟩

theorem writeDev_owners (t : State) (w : Nat × Nat × Nat) (l : Loc) (bs : List Byte) : (t.writeDev w l bs).owners = t.owners := by
  unfold State.writeDev State.writeLoc State.noteOuter
  (repeat' split) <;> rfl

theorem writeDev_cols (t : State) (w : Nat × Nat × Nat) (l : Loc) (bs : List Byte) : (t.writeDev w l bs).cols = t.cols := by
  unfold State.writeDev State.writeLoc State.noteOuter
  (repeat' split) <;> rfl

/-- A write of the device where no layer is lost writes its bytes over the cells. -/
theorem writeDev_cells {l : Loc} (bs : List Byte) (w : Nat × Nat × Nat) (h : t.lostKey (t.locKey l) = false) :
    (t.writeDev w l bs).mem.cells = (t.mem.write (t.locKey l) bs).cells := by
  have hkey : (t.noteOuter w l bs.length).locKey l = t.locKey l := by rw [noteOuter_frame]; exact locKey_of_settles (settles_refl t) l
  have hlost : (t.noteOuter w l bs.length).lostKey (t.locKey l) = false := by rw [noteOuter_frame]; exact h
  unfold State.writeDev State.writeLoc
  rw [hkey, hlost, Bool.false_and, if_neg Bool.false_ne_true]
  dsimp only
  split
  · exact write_cells_congr ((keepCode_cells _ _ _ _).trans (congrArg Mem.cells (noteOuter_mem _ _ _ _))) bs _
  · rw [State.modMem_mem, hkey]
    exact write_cells_congr (congrArg Mem.cells (noteOuter_mem _ _ _ _)) bs _

/-- The store of a region's word, where it has one. -/
def wordStored (t : State) (r : Req) (w : RWord) : State :=
  match w.store with | some bs => t.writeDev (t.writer r) (State.wordLoc r.loc w.ea) bs | none => t

/-- A word of a region: its store, then its load. -/
def wordDone (t : State) (r : Req) (bad : Bool) (w : RWord) : State :=
  match w.load with
  | some (_, id) => (wordStored t r w).finishOp r.uid id (if bad then 0 else loadVal w.fmt ((wordStored t r w).readLoc (State.wordLoc r.loc w.ea) w.n)) 0 none
  | none => wordStored t r w

theorem regionWords_cons (t : State) (r : Req) (bad : Bool) (w : RWord) (ws : List RWord) :
    t.regionWords r bad (w :: ws) = (wordDone t r bad w).regionWords r bad ws := rfl

/-- A load of a region changes its thread alone. -/
theorem wordDone_frame (t : State) (r : Req) (bad : Bool) (w : RWord) :
    wordDone t r bad w = { wordStored t r w with me := (wordDone t r bad w).me, threads := (wordDone t r bad w).threads } := by
  unfold wordDone
  split
  · rw [finishOp_eq, modThread_frame]
  · rfl

/-- The words of a region stand in one sector, of a layer that is not lost. -/
structure AtRegion (s : State) (r : Req) (base : Nat) : Prop where
  key : ∀ ea : Addr, s.locKey (State.wordLoc r.loc ea) = base + ea.toNat % 128
  kept : ∀ j, j < 128 → s.lostKey (base + j) = false

theorem atRegion_dram {o p : Nat} {k : Kind} (hl : r.loc = .dram o p k) (hlost : s.lostKey (s.locKey r.loc) = false) :
    AtRegion s r (s.locKey r.loc / 128 * 128) := by
  refine ⟨fun ea => ?_, fun j hj => (lostKey_sector s _ hj).trans hlost⟩
  rw [hl]
  exact dramKey_sector s o p (Nat.mod_lt _ (by decide))

section
variable {base : Nat} (h : AtRegion s r base) (hp : SamePlaces s t)
include h hp

/-- A store of a region writes its bytes in the sector, and keeps every place, the network and the threads. -/
theorem wordStored_writes (w : RWord) : SamePlaces s (wordStored t r w) ∧ (wordStored t r w).net = t.net ∧
    (wordStored t r w).mem.cells = (wordWrite base t.mem w).cells := by
  obtain ⟨hkey, hlost⟩ := hp
  unfold wordStored wordWrite
  cases w.store with
  | none => exact ⟨⟨hkey, hlost⟩, rfl, rfl⟩
  | some bs =>
    have hk : t.locKey (State.wordLoc r.loc w.ea) = base + w.ea.toNat % 128 := (hkey _).trans (h.key w.ea)
    refine ⟨SamePlaces.trans ⟨hkey, hlost⟩ (samePlaces_of_fields (writeDev_owners _ _ _ _) (writeDev_cols _ _ _ _)), writeDev_net _ _ _ _, ?_⟩
    have hcells := writeDev_cells (t := t) (l := State.wordLoc r.loc w.ea) bs (t.writer r)
      (by rw [hk, hlost]; exact h.kept _ (Nat.mod_lt _ (by decide)))
    rwa [hk] at hcells

theorem wordDone_writes (w : RWord) : SamePlaces s (wordDone t r bad w) ∧ (wordDone t r bad w).net = t.net ∧
    (wordDone t r bad w).mem.cells = (wordWrite base t.mem w).cells := by
  obtain ⟨hplaces, hnet, hcells⟩ := wordStored_writes h hp w
  rw [wordDone_frame]
  exact ⟨hplaces.trans (samePlaces_of_fields rfl rfl), hnet, hcells⟩

end

/-- The stores of a region are performed in program order, and the network keeps its requests. -/
theorem regionWords_writes {base : Nat} (h : AtRegion s r base) (ws : List RWord) : ∀ {t : State} {m : Mem}, SamePlaces s t → t.mem.cells = m.cells →
    (t.regionWords r bad ws).net = t.net ∧ (t.regionWords r bad ws).mem.cells = (ws.foldl (wordWrite base) m).cells := by
  induction ws with
  | nil => exact fun _ hm => ⟨rfl, hm⟩
  | cons w ws ih =>
    intro t m hp hm
    obtain ⟨hplaces, hnet, hcells⟩ := wordDone_writes (bad := bad) h hp w
    obtain ⟨hnet', hcells'⟩ := ih hplaces (hcells.trans (wordWrite_cells_congr hm base w))
    rw [regionWords_cons, List.foldl_cons]
    exact ⟨hnet'.trans hnet, hcells'⟩

/-- A region at a good sector is its words, after the home has settled, and then its answer. -/
theorem regionDo_eq (ws : List RWord) (hgood : s.poisonedKey (s.locKey r.loc) = false) :
    ∃ u, Settles s u ∧ s.regionDo r ws = (u.regionWords r false ws).answer r 0 none := by
  unfold State.regionDo
  dsimp only
  rw [hgood]
  refine ⟨_, ?_, rfl⟩
  have hold : ∀ c : Bool, Settles s (if c = true then s.chargeOld r.loc else s) := fun c => settles_ite (settles_chargeOld s r.loc) (settles_refl s)
  exact settles_ite (settles_trans (settles_trans (hold _) (settles_chargeMem _ _ _)) (settles_of rfl rfl)) (settles_trans (hold _) (settles_chargeMem _ _ _))

/-- The one load of a region leaves its bytes in its operation, which the region's own answer leaves alone. -/
theorem regionLoad_answers {u : State} {base : Nat} {w : RWord} {d : Dest} {k : Nat} {x : Thread} {o : Op} (h : AtRegion s r base) (hs : Settles s u)
    (hstore : w.store = none) (hload : w.load = some (d, k)) (hx : s.thread? r.uid = some x) (hops : x.ops = [o]) (hid : o.id = k) (hdest : o.dest = some d)
    (hr : r.id ≠ k) : ∃ y, ((u.regionWords r false [w]).answer r 0 none).thread? r.uid = some y ∧
      y.ops = [{ o with res := some (loadVal w.fmt (s.mem.read (base + w.ea.toNat % 128) w.n)), flags := 0, fault := none }] := by
  have hread : u.readLoc (State.wordLoc r.loc w.ea) w.n = s.mem.read (base + w.ea.toNat % 128) w.n := by
    unfold State.readLoc
    rw [locKey_of_settles hs, h.key, read_eq, read_eq]
    exact List.map_congr_left fun i _ => getB_congr (cells_of_settles hs) _
  have hwords : u.regionWords r false [w] = u.finishOp r.uid k (loadVal w.fmt (s.mem.read (base + w.ea.toNat % 128) w.n)) 0 none := by
    rw [regionWords_cons, wordDone, hload, ← hread]
    unfold wordStored
    rw [hstore]
    rfl
  have hfinished : ∀ i v (t : State), (t.finishOp r.uid i v 0 none).thread? r.uid = (t.thread? r.uid).map (finished i v 0 none) := fun i v t => by
    rw [finishOp_eq, thread?_modThread _ _ _ (finished i v 0 none) (fun _ => rfl), if_pos rfl]
  refine ⟨finished r.id 0 0 none (finished k (loadVal w.fmt (s.mem.read (base + w.ea.toNat % 128) w.n)) 0 none x), ?_, ?_⟩
  · have hthread := hfinished k (loadVal w.fmt (s.mem.read (base + w.ea.toNat % 128) w.n)) u
    rw [thread?_of_settles hs, hx] at hthread
    rw [hwords, State.answer, hfinished]
    exact congrArg (Option.map _) hthread
  · have hne : ¬k = r.id := fun e => hr e.symm
    simp [finished, hops, hid, hdest, hne]

end

/-! ### The statement -/

/-- Settles O32: the words one by one over the cells, and the load's own operation. -/
theorem regionsPerformed : Obligations.RegionsPerformed := by
  unfold Obligations.RegionsPerformed
  intro s id o p k r ws harr hk hl hgood hlost base
  have hregion := atRegion_dram hl hlost
  obtain ⟨u, hu, e⟩ := regionDo_eq ws hgood
  obtain ⟨hnet, hcells⟩ := regionWords_writes (bad := false) hregion ws (samePlaces_of_settles hu) (cells_of_settles hu)
  have hexec : exec (.atomicRegionPerform id) s = .next (s.regionDo r ws) := by
    refine (withReq_arriving harr _).trans ?_
    rw [hk]
  rw [hexec, e]
  refine next_of ⟨?_, ?_, fun w d k x o hws hstore hload hx hops hid hdest hr => ?_⟩
  · rw [(answered_answer _ r 0).1, hnet, net_of_settles hu]
  · rw [answer_mem]
    exact hcells
  · subst hws
    exact regionLoad_answers hregion hu hstore hload hx hops hid hdest hr

end Sys2Proof.Laws

/-! SUPPORT. Arrivals: barriers, pushes and messages at the place where they arrive, clause by clause, and O33. -/

namespace Sys2Proof.Laws

open Sys2Proof.Machine Sys2Proof.Safety

/-! ### Barriers (R191) -/

section
variable {s t : State}

theorem barOf_k (c : Core) (k : Nat) : (State.barOf c k).k = k := by
  unfold State.barOf
  cases h : c.bars.find? (fun b => b.k == k) with
  | none => rfl
  | some b => simpa using List.find?_some h

/-- A barrier that is set is found under its number. -/
theorem barOf_setBar (s : State) (p : Place) (b : Bar) : State.barOf ((s.setBar p b).core p) b.k = b := by
  have hcore := core_setCore s { s.core p with bars := if (s.core p).bars.any (fun x => x.k == b.k) then (s.core p).bars.map (fun x => if x.k == b.k then b else x)
    else (s.core p).bars ++ [b] }
  have hset : (fun x : Bar => (if x.k == b.k then b else x).k == b.k) = fun x : Bar => x.k == b.k := by
    funext x
    split <;> simp [*]
  rw [show Core.pl { s.core p with bars := _ } = p from core_pl s p] at hcore
  show State.barOf ((s.setCore _).core p) b.k = b
  rw [hcore, State.barOf]
  dsimp only
  by_cases h : (s.core p).bars.any (fun x => x.k == b.k) = true
  · obtain ⟨x, hx, hk⟩ := List.any_eq_true.mp h
    obtain ⟨y, hy⟩ := Option.isSome_iff_exists.mp (List.find?_isSome (p := fun x : Bar => x.k == b.k) |>.mpr ⟨x, hx, hk⟩)
    have hyk : (y.k == b.k) = true := List.find?_some (p := fun x : Bar => x.k == b.k) hy
    simp only [if_pos h, List.find?_map, Function.comp_def, hset, hy, Option.map_some, Option.getD_some, if_pos hyk]
  · have hnone : (s.core p).bars.find? (fun x => x.k == b.k) = none := List.find?_eq_none.mpr fun x hx hk => h (List.any_eq_true.mpr ⟨x, hx, hk⟩)
    simp only [if_neg h, List.find?_append, hnone, List.find?_singleton, beq_self_eq_true, Option.none_or, if_true, Option.getD_some]

/-- A thread's arrival record takes a barrier's name and a generation. -/
def recorded (name g : Nat) (t : Thread) : Thread := { t with barRec := some (name, g) }

theorem keepsOps_recorded (name g : Nat) : KeepsOps (recorded name g) := fun _ => ⟨rfl, rfl, rfl⟩

theorem sameBytes_of_mem (h : t.mem = s.mem) : SameBytes s t := fun a => by rw [h]

theorem setBar_net (s : State) (p : Place) (b : Bar) : (s.setBar p b).net = s.net := rfl
theorem setBar_thread? (s : State) (p : Place) (b : Bar) (u : Nat) : (s.setBar p b).thread? u = s.thread? u := rfl

theorem modThread_cores (s : State) (u : Nat) (f : Thread → Thread) : (s.modThread u f).cores = s.cores := by rw [modThread_frame]
theorem modThread_net (s : State) (u : Nat) (f : Thread → Thread) : (s.modThread u f).net = s.net := by rw [modThread_frame]

theorem answer_cores (s : State) (r : Req) (v : VWord) (f : Option FaultRec) : (s.answer r v f).cores = s.cores := by
  rw [State.answer, finishOp_eq, modThread_cores]

theorem answer_net (s : State) (r : Req) (v : VWord) (f : Option FaultRec) : (s.answer r v f).net = s.net.filter (fun x => x.id != r.id) := by
  rw [State.answer, finishOp_eq, modThread_net]

/-- An end of an operation leaves the arrival record of its thread. -/
theorem answer_barRec (s : State) (r : Req) (v : VWord) (f : Option FaultRec) (u : Nat) :
    ((s.answer r v f).thread? u).map (·.barRec) = (s.thread? u).map (·.barRec) := by
  rw [State.answer, finishOp_eq, thread?_modThread _ _ _ (finished r.id v 0 f) (fun _ => rfl)]
  split
  · rw [Option.map_map]; rfl
  · rfl

/-- Requests that are answered in turn leave the network; the cores and the arrival records stay. -/
theorem foldl_answer (xs : List Req) : ∀ s : State, let t := xs.foldl (fun s r => s.answer r 0 none) s
    t.cores = s.cores ∧ (∀ y ∈ t.net, y ∈ s.net ∧ ∀ x ∈ xs, y.id ≠ x.id) ∧ ∀ u, (t.thread? u).map (·.barRec) = (s.thread? u).map (·.barRec) := by
  induction xs with
  | nil => exact fun s => ⟨rfl, fun y hy => ⟨hy, fun _ => nofun⟩, fun _ => rfl⟩
  | cons x xs ih =>
    intro s
    obtain ⟨hcores, hnet, hrec⟩ := ih (s.answer x 0 none)
    refine ⟨hcores.trans (answer_cores _ _ _ _), fun y hy => ?_, fun u => (hrec u).trans (answer_barRec _ _ _ _ u)⟩
    obtain ⟨hmem, hne⟩ := hnet y hy
    rw [answer_net, List.mem_filter] at hmem
    refine ⟨hmem.1, fun z hz => ?_⟩
    obtain rfl | hz := List.mem_cons.mp hz
    · simpa using hmem.2
    · exact hne z hz

end

section
variable {s : State} {id k : Nat} {r : Req} {p : Place}

theorem exec_barrierOpArrive (h : Arriving s id r) : exec (.barrierOpArrive id) s = .next (s.barDo r) := withReq_arriving h _

/-- The state in which the sender's record names the barrier at its generation. -/
def arrivalRecorded (s : State) (r : Req) (p : Place) (k : Nat) : State := s.modThread r.uid (recorded (State.barKey p k) (State.barOf (s.core p) k).g)

/-- An arrival raises A, fills the generation, or finds a free barrier. -/
theorem barArrive_eq (s : State) (r : Req) (p : Place) (k : Nat) : s.barArrive r p k =
    let b := State.barOf (s.core p) k
    if b.n = 0 then arrivalRecorded s r p k
    else if b.a + 1 = b.n then ((arrivalRecorded s r p k).setBar p { b with a := 0, g := (b.g + 1) % 65536 }).barRelease p k
    else (arrivalRecorded s r p k).setBar p { b with a := b.a + 1 } := rfl

theorem barOf_set {b' : Bar} (hk : b'.k = k) (t : State) : State.barOf ((t.setBar p b').core p) k = b' := hk ▸ barOf_setBar t p b'

theorem barDo_init {n : Nat} (hloc : r.loc = .scr p 0) (hk : r.kind = .barInit k n) :
    s.barDo r = (s.setBar p { State.barOf (s.core p) k with n := n, a := 0 }).answer r 0 none := by
  unfold State.barDo
  simp only [hloc, hk]

theorem barInit_sets {n : Nat} (harr : Arriving s id r) (hloc : r.loc = .scr p 0) (hk : r.kind = .barInit k n) : Next (exec (.barrierOpArrive id) s) (fun t =>
    Answered s t r 0 ∧ State.barOf (t.core p) k = { State.barOf (s.core p) k with n := n, a := 0 } ∧ SameBytes s t) := by
  rw [exec_barrierOpArrive harr, barDo_init hloc hk]
  generalize hb : { State.barOf (s.core p) k with n := n, a := 0 } = b
  have hbk : b.k = k := hb ▸ barOf_k (s.core p) k
  refine next_of ⟨answered_of_same (setBar_net s p b) (setBar_thread? s p b) 0, ?_, sameBytes_of_mem ((answer_mem _ _ _ _).trans (setBar_mem s p b))⟩
  rw [core_congr (answer_cores _ _ _ _)]
  exact barOf_set hbk s

/-- A barrier is set beside a record that is taken. -/
theorem setBar_arrivalRecorded (s : State) (r : Req) (p : Place) (k : Nat) (b : Bar) : (arrivalRecorded s r p k).setBar p b =
    (s.setBar p b).modThread r.uid (recorded (State.barKey p k) (State.barOf (s.core p) k).g) := by
  unfold arrivalRecorded State.modThread
  by_cases hc : (decide (s.me.uid = r.uid) && r.uid != 0) = true
  · exact (congrArg (State.setBar · p b) (if_pos hc)).trans (if_pos hc).symm
  · exact (congrArg (State.setBar · p b) (if_neg hc)).trans (if_neg hc).symm

theorem barDo_arrive (hloc : r.loc = .scr p 0) (hk : r.kind = .barArrive k) : s.barDo r = (s.barArrive r p k).answer r 0 none := by
  unfold State.barDo
  simp only [hloc, hk]

theorem barDo_wait (hloc : r.loc = .scr p 0) (hfresh : r.arrived = none) (hk : r.kind = .barWait k) : s.barDo r = s.barWait r p k := by
  unfold State.barDo
  simp only [hloc, hk, hfresh, Option.isSome_none, Bool.false_eq_true, if_false]

theorem barDo_sync (hloc : r.loc = .scr p 0) (hfresh : r.arrived = none) (hk : r.kind = .barSync k) : s.barDo r = (s.barArrive r p k).barWait r p k := by
  unfold State.barDo
  simp only [hloc, hk, hfresh, Option.isSome_none, Bool.false_eq_true, if_false]

/-- An arrival that does not fill a generation raises A. -/
theorem barArrive_counts (harr : Arriving s id r) (hloc : r.loc = .scr p 0) (hk : r.kind = .barArrive k) (hn : (State.barOf (s.core p) k).n ≠ 0)
    (ha : (State.barOf (s.core p) k).a + 1 ≠ (State.barOf (s.core p) k).n) : Next (exec (.barrierOpArrive id) s) (fun t =>
      AnsweredAs (recorded (State.barKey p k) (State.barOf (s.core p) k).g) s t r 0 ∧
      State.barOf (t.core p) k = { State.barOf (s.core p) k with a := (State.barOf (s.core p) k).a + 1 } ∧ SameBytes s t) := by
  rw [exec_barrierOpArrive harr, barDo_arrive hloc hk, barArrive_eq, if_neg hn, if_neg ha]
  generalize hb : { State.barOf (s.core p) k with a := (State.barOf (s.core p) k).a + 1 } = b
  have hbk : b.k = k := hb ▸ barOf_k (s.core p) k
  rw [setBar_arrivalRecorded]
  refine next_of ⟨answeredAs_modThread (keepsOps_recorded _ _) (setBar_net s p b) (setBar_thread? s p b) 0, ?_,
    sameBytes_of_mem ((answer_mem _ _ _ _).trans ((modThread_mem _ _ _).trans (setBar_mem s p b)))⟩
  rw [core_congr ((answer_cores _ _ _ _).trans (modThread_cores _ _ _))]
  exact barOf_set hbk s

/-- An arrival at a free barrier leaves it free. -/
theorem barArrive_free (harr : Arriving s id r) (hloc : r.loc = .scr p 0) (hk : r.kind = .barArrive k) (hn : (State.barOf (s.core p) k).n = 0) :
    Next (exec (.barrierOpArrive id) s) (fun t => AnsweredAs (recorded (State.barKey p k) (State.barOf (s.core p) k).g) s t r 0 ∧ t.cores = s.cores ∧ SameBytes s t) := by
  rw [exec_barrierOpArrive harr, barDo_arrive hloc hk, barArrive_eq, if_pos hn]
  exact next_of ⟨answeredAs_modThread (keepsOps_recorded _ _) rfl (fun _ => rfl) 0, (answer_cores _ _ _ _).trans (modThread_cores _ _ _),
    sameBytes_of_mem ((answer_mem _ _ _ _).trans (modThread_mem _ _ _))⟩

/-- A wait at a free barrier, or for a generation that has passed, is over at once. -/
theorem barWait_passes {c : Option (Nat × Nat)} (hrec : (s.thread? r.uid).map (·.barRec) = some c)
    (h : (State.barOf (s.core p) k).n = 0 ∨ ∃ g, c = some (State.barKey p k, g) ∧ g ≠ (State.barOf (s.core p) k).g) : s.barWait r p k = s.answer r 0 none := by
  obtain ⟨x, hx, rfl⟩ := Option.map_eq_some_iff.mp hrec
  unfold State.barWait
  dsimp only
  rw [hx, Option.bind_some]
  obtain hn | ⟨g, hg, hne⟩ := h
  · exact if_pos (by rw [hn]; rfl)
  · exact if_pos (by simp [hg, hne])

/-- Any other wait stays until the generation changes. -/
theorem barWait_stays {c : Option (Nat × Nat)} (hrec : (s.thread? r.uid).map (·.barRec) = some c) (hn : (State.barOf (s.core p) k).n ≠ 0)
    (h : ∀ g, c = some (State.barKey p k, g) → g = (State.barOf (s.core p) k).g) : s.barWait r p k = s.await r := by
  obtain ⟨x, hx, rfl⟩ := Option.map_eq_some_iff.mp hrec
  unfold State.barWait
  dsimp only
  rw [hx, Option.bind_some]
  refine if_neg ?_
  cases hc : x.barRec with
  | none => simp [hn]
  | some e =>
    obtain ⟨name, g⟩ := e
    have hg : name = State.barKey p k → g = (State.barOf (s.core p) k).g := fun e => h g (e ▸ hc)
    simpa [hn] using hg

theorem barWait_performs {x : Thread} (harr : Arriving s id r) (hloc : r.loc = .scr p 0) (hfresh : r.arrived = none) (hk : r.kind = .barWait k)
    (hx : s.thread? r.uid = some x) :
    ((State.barOf (s.core p) k).n = 0 ∨ (∃ g, x.barRec = some (State.barKey p k, g) ∧ g ≠ (State.barOf (s.core p) k).g) →
      Next (exec (.barrierOpArrive id) s) (fun t => Answered s t r 0 ∧ t.cores = s.cores ∧ SameBytes s t)) ∧
    ((State.barOf (s.core p) k).n ≠ 0 → (∀ g, x.barRec = some (State.barKey p k, g) → g = (State.barOf (s.core p) k).g) →
      Next (exec (.barrierOpArrive id) s) (fun t => Awaits s t r)) := by
  have hrec : (s.thread? r.uid).map (·.barRec) = some x.barRec := by rw [hx]; rfl
  rw [exec_barrierOpArrive harr, barDo_wait hloc hfresh hk]
  refine ⟨fun h => ?_, fun hn h => ?_⟩
  · rw [barWait_passes hrec h]
    exact next_of ⟨answered_answer s r 0, answer_cores _ _ _ _, sameBytes_of_mem (answer_mem _ _ _ _)⟩
  · rw [barWait_stays hrec hn h]
    exact next_of (awaits_await s r)

/-- The state in which an arrival has filled a generation and its waiters have been released. -/
def generationFilled (s : State) (r : Req) (p : Place) (k : Nat) : State :=
  ((arrivalRecorded s r p k).setBar p { State.barOf (s.core p) k with a := 0, g := ((State.barOf (s.core p) k).g + 1) % 65536 }).barRelease p k

/-- The barrier stands at its next generation, no waiter of it is left, and the sender's record names the one before. -/
theorem generationFilled_released {x : Thread} (hx : s.thread? r.uid = some x) :
    State.barOf ((generationFilled s r p k).core p) k = { State.barOf (s.core p) k with a := 0, g := ((State.barOf (s.core p) k).g + 1) % 65536 } ∧
    (∀ y ∈ (generationFilled s r p k).net, ¬(y.arrived.isSome ∧ y.loc = .scr p 0 ∧ y.kind.bar? = some k)) ∧
    ((generationFilled s r p k).thread? r.uid).map (·.barRec) = some (some (State.barKey p k, (State.barOf (s.core p) k).g)) := by
  unfold generationFilled
  generalize hb : { State.barOf (s.core p) k with a := 0, g := ((State.barOf (s.core p) k).g + 1) % 65536 } = b
  have hbk : b.k = k := hb ▸ barOf_k (s.core p) k
  rw [setBar_arrivalRecorded]
  generalize hu : (s.setBar p b).modThread r.uid (recorded (State.barKey p k) (State.barOf (s.core p) k).g) = u
  obtain ⟨hcores, hnet, hrec⟩ := foldl_answer (u.net.filter (fun y => y.arrived.isSome && y.loc == .scr p 0 && y.kind.bar? == some k)) u
  refine ⟨?_, fun y hy hwait => ?_, ?_⟩
  · refine (congrArg (State.barOf · k) (core_congr hcores p)).trans ?_
    rw [← hu, core_congr (modThread_cores _ _ _)]
    exact barOf_set hbk s
  · obtain ⟨hmem, hne⟩ := hnet y hy
    exact hne y (List.mem_filter.mpr ⟨hmem, by simpa [and_assoc] using hwait⟩) rfl
  · refine (hrec r.uid).trans ?_
    rw [← hu, thread?_modThread _ _ _ (recorded _ _) (fun _ => rfl), if_pos rfl, setBar_thread?, hx]
    rfl

theorem generation_changes (g : Nat) : g ≠ (g + 1) % 65536 := by omega

/-- An arrival that fills its generation answers its own request too, whether or not it waits. -/
theorem barDo_fills {x : Thread} (hloc : r.loc = .scr p 0) (hfresh : r.arrived = none) (hx : s.thread? r.uid = some x)
    (hk : r.kind = .barArrive k ∨ r.kind = .barSync k) (hn : (State.barOf (s.core p) k).n ≠ 0)
    (ha : (State.barOf (s.core p) k).a + 1 = (State.barOf (s.core p) k).n) : s.barDo r = (generationFilled s r p k).answer r 0 none := by
  have harrive : s.barArrive r p k = generationFilled s r p k := by
    rw [barArrive_eq, if_neg hn, if_pos ha]
    rfl
  obtain hk | hk := hk
  · rw [barDo_arrive hloc hk, harrive]
  · obtain ⟨hbar, -, hrec⟩ := generationFilled_released (p := p) (k := k) hx
    rw [barDo_sync hloc hfresh hk, harrive]
    exact barWait_passes hrec (.inr ⟨_, rfl, by rw [hbar]; exact generation_changes _⟩)

theorem barrier_fills {x : Thread} (harr : Arriving s id r) (hloc : r.loc = .scr p 0) (hfresh : r.arrived = none) (hx : s.thread? r.uid = some x)
    (hk : r.kind = .barArrive k ∨ r.kind = .barSync k) (hn : (State.barOf (s.core p) k).n ≠ 0)
    (ha : (State.barOf (s.core p) k).a + 1 = (State.barOf (s.core p) k).n) : Next (exec (.barrierOpArrive id) s) (fun t =>
      State.barOf (t.core p) k = { State.barOf (s.core p) k with a := 0, g := ((State.barOf (s.core p) k).g + 1) % 65536 } ∧ SameBytes s t ∧
      (∀ y ∈ t.net, y.id ≠ r.id) ∧ ∀ y ∈ t.net, ¬(y.arrived.isSome ∧ y.loc = .scr p 0 ∧ y.kind.bar? = some k)) := by
  obtain ⟨hbar, hgone, -⟩ := generationFilled_released (p := p) (k := k) hx
  have hmem : (generationFilled s r p k).mem = s.mem := by simp [generationFilled, arrivalRecorded]
  rw [exec_barrierOpArrive harr, barDo_fills hloc hfresh hx hk hn ha]
  refine next_of ⟨(congrArg (State.barOf · k) (core_congr (answer_cores _ _ _ _) p)).trans hbar, sameBytes_of_mem ((answer_mem _ _ _ _).trans hmem),
    fun y hy => ?_, fun y hy => ?_⟩ <;> rw [answer_net] at hy
  · simpa using (List.mem_filter.mp hy).2
  · exact hgone y (List.mem_of_mem_filter hy)

/-- A bar.sync that does not fill its generation arrives and waits; its request has no list of a bank group to join, and where it alone has its number,
no request's bank changes. -/
theorem barSync_waits {x : Thread} (harr : Arriving s id r) (hloc : r.loc = .scr p 0) (hfresh : r.arrived = none) (hx : s.thread? r.uid = some x)
    (hk : r.kind = .barSync k) (hn : (State.barOf (s.core p) k).n ≠ 0) (ha : (State.barOf (s.core p) k).a + 1 ≠ (State.barOf (s.core p) k).n)
    (halone : ∀ y ∈ s.net, y.id = r.id → y = r) : Next (exec (.barrierOpArrive id) s) (fun t =>
      State.barOf (t.core p) k = { State.barOf (s.core p) k with a := (State.barOf (s.core p) k).a + 1 } ∧ SameBytes s t ∧
      t.net = s.net.map (fun y => if y.id = r.id then { y with arrived := some s.clk.id } else y) ∧
      t.thread? r.uid = some (recorded (State.barKey p k) (State.barOf (s.core p) k).g x)) := by
  rw [exec_barrierOpArrive harr, barDo_sync hloc hfresh hk, barArrive_eq, if_neg hn, if_neg ha]
  generalize hb : { State.barOf (s.core p) k with a := (State.barOf (s.core p) k).a + 1 } = b
  have hbk : b.k = k := hb ▸ barOf_k (s.core p) k
  rw [setBar_arrivalRecorded]
  generalize hu : (s.setBar p b).modThread r.uid (recorded (State.barKey p k) (State.barOf (s.core p) k).g) = u
  have hnet : u.net = s.net := by rw [← hu, modThread_net, setBar_net]
  have hclk : u.clk = s.clk := by rw [← hu, modThread_frame]; rfl
  have hthread : u.thread? r.uid = some (recorded (State.barKey p k) (State.barOf (s.core p) k).g x) := by
    rw [← hu, thread?_modThread _ _ _ (recorded _ _) (fun _ => rfl), if_pos rfl, setBar_thread?, hx]
    rfl
  have hbar : State.barOf (u.core p) k = b := by
    rw [← hu, core_congr (modThread_cores _ _ _)]
    exact barOf_set hbk s
  have hbank : u.bankOf r = r.bank := by
    unfold State.bankOf
    rw [hk, hloc]
    exact Option.or_none
  have hstays := barWait_stays (s := u) (r := r) (p := p) (k := k) (congrArg (Option.map _) hthread) (by rw [hbar, ← hb]; exact hn) fun g hg => by
    rw [hbar, ← hb]
    exact (Prod.mk.inj (Option.some.inj hg)).2.symm
  rw [hstays]
  refine next_of ⟨hbar, sameBytes_of_mem (by rw [await_mem, ← hu, modThread_mem, setBar_mem]), ?_, hthread⟩
  show List.map _ u.net = _
  rw [hnet]
  refine List.map_congr_left fun y hy => ?_
  by_cases hid : y.id = r.id
  · rw [if_pos (by simpa using hid), if_pos hid, halone y hy hid, hbank, State.newId, hclk]
  · rw [if_neg (by simpa using hid), if_neg hid]

end

/-! ### Pushes (R181, R193) -/

section
variable {s : State} {id q : Nat} {r : Req} {p : Place} {v : VWord}

theorem exec_queuePushArrive (harr : Arriving s id r) (hfresh : r.arrived = none) (hk : r.kind = .push q v) (hloc : r.loc = .scr p 0) :
    exec (.queuePushArrive id) s = if !decide (((s.core p).queue q).length < 16) && !s.entryFree r then .next s else .next (s.arrivePush r) := by
  refine (withReq_arriving harr _).trans ?_
  simp only [hk, hloc, hfresh, Option.isSome_none, Bool.false_or]

/-- With an entry of the queue free and no earlier push held, a push joins the tail (R193). -/
theorem queuePush_joins (harr : Arriving s id r) (hfresh : r.arrived = none) (hk : r.kind = .push q v) (hloc : r.loc = .scr p 0)
    (hroom : ((s.core p).queue q).length < 16) (hheld : s.heldPush p q = none) : exec (.queuePushArrive id) s = .next (s.joinQueue p q v r) := by
  rw [exec_queuePushArrive harr hfresh hk hloc, State.arrivePush]
  simp only [hk, hloc, hroom, hheld, decide_true, Bool.not_true, Bool.false_and, Bool.false_eq_true, if_false, Option.isNone_none, Bool.and_true, if_true]

/-- At a full queue a push is held, or not accepted (R181, R193). -/
theorem queuePush_waits (harr : Arriving s id r) (hfresh : r.arrived = none) (hk : r.kind = .push q v) (hloc : r.loc = .scr p 0)
    (hfull : 16 ≤ ((s.core p).queue q).length) : (s.entryFree r = true → Next (exec (.queuePushArrive id) s) (fun t => Awaits s t r)) ∧
      (s.entryFree r = false → exec (.queuePushArrive id) s = .next s) := by
  have hroom : ¬((s.core p).queue q).length < 16 := Nat.not_lt.mpr hfull
  rw [exec_queuePushArrive harr hfresh hk hloc, State.arrivePush]
  simp only [hk, hloc, hroom, decide_false, Bool.not_false, Bool.true_and, Bool.false_and, Bool.false_eq_true, if_false]
  refine ⟨fun he => ?_, fun he => ?_⟩
  · rw [he]
    exact next_of (awaits_await s r)
  · rw [he]
    rfl

/-- A push that joins is answered, and then a parked thread is woken. -/
theorem joinQueue_eq (s : State) (p : Place) (q : Nat) (v : VWord) (r : Req) : s.joinQueue p q v r =
    ((s.setQueue p q ((s.core p).queue q ++ [v])).answer r 0 none).wakeQueue p q := rfl

/-- A thread after a change of one thread is a thread from before, or one that has changed. -/
theorem mem_allThreads_modThread {u : Nat} {f : Thread → Thread} (hf : ∀ t, (f t).uid = t.uid) {t : Thread} (ht : t ∈ (s.modThread u f).allThreads) :
    t ∈ s.allThreads ∨ ∃ x ∈ s.allThreads, t = f x := by
  have hmap : ∀ {ts : List Thread}, t ∈ ts.map (fun x => if x.uid = u then f x else x) → t ∈ ts ∨ ∃ x ∈ ts, t = f x := by
    intro ts h
    obtain ⟨x, hx, rfl⟩ := List.mem_map.mp h
    split
    · exact .inr ⟨x, hx, rfl⟩
    · exact .inl hx
  unfold State.modThread State.allThreads at ht
  unfold State.allThreads
  split at ht
  · rw [show ({ s with me := f s.me } : State).me.uid = s.me.uid from hf s.me] at ht
    by_cases h0 : s.me.uid = 0
    · rw [if_pos h0] at ht ⊢
      exact .inl ht
    · rw [if_neg h0] at ht ⊢
      obtain rfl | ht := List.mem_cons.mp ht
      · exact .inr ⟨s.me, List.mem_cons_self, rfl⟩
      · exact .inl (List.mem_cons_of_mem _ ht)
  · by_cases h0 : s.me.uid = 0
    · rw [if_pos h0] at ht ⊢
      exact hmap ht
    · rw [if_neg h0] at ht ⊢
      obtain rfl | ht := List.mem_cons.mp ht
      · exact .inl List.mem_cons_self
      · obtain h | ⟨x, hx, e⟩ := hmap ht
        · exact .inl (List.mem_cons_of_mem _ h)
        · exact .inr ⟨x, List.mem_cons_of_mem _ hx, e⟩

/-- An answer parks no thread. -/
theorem unparked_answer (h : ∀ t ∈ s.allThreads, ∀ n, t.park ≠ .queue q n) (r : Req) (v : VWord) (f : Option FaultRec) :
    ∀ t ∈ (s.answer r v f).allThreads, ∀ n, t.park ≠ .queue q n := by
  intro t ht
  rw [State.answer, finishOp_eq] at ht
  obtain ht | ⟨x, hx, rfl⟩ := mem_allThreads_modThread (f := finished r.id v 0 f) (fun _ => rfl) ht
  · exact h t ht
  · exact h x hx

/-- Where no thread is parked at the queue, the entry joins, its sender is answered, and nothing is woken (R193). -/
theorem joinQueue_answers (hparked : ∀ t ∈ s.allThreads, ∀ n, t.park ≠ .queue q n) : Answered s (s.joinQueue p q v r) r 0 ∧
    ((s.joinQueue p q v r).core p).queue q = (s.core p).queue q ++ [v] ∧ SameBytes s (s.joinQueue p q v r) := by
  rw [joinQueue_eq, wakeQueue_unparked (unparked_answer (s := s.setQueue p q _) hparked _ _ _)]
  refine ⟨answered_of_same rfl (fun _ => rfl) 0, ?_, sameBytes_of_mem ((answer_mem _ _ _ _).trans (setQueue_mem _ _ _ _))⟩
  rw [core_congr (answer_cores _ _ _ _)]
  exact queue_setQueue _ _ _ _

/-- The one thread there is, parked at the queue and not yet woken, is woken (R194). -/
theorem wakeQueue_one {x : Thread} {n : Nat} (hme : s.me.uid = 0) (hthreads : s.threads = [x]) (hpark : x.park = .queue q n) (hpl : x.pl = p)
    (hwoken : x.woken = false) (huid : x.uid ≠ 0) : (s.wakeQueue p q).cores = s.cores ∧ (s.wakeQueue p q).threads = [{ x with woken := true }] := by
  have hfirst : State.firstParked s.allThreads p q = some (n, x.uid) := by
    unfold State.allThreads State.firstParked
    rw [if_pos hme, hthreads, List.foldl_cons, List.foldl_nil, hpark]
    simp [hpl, hwoken]
  unfold State.wakeQueue
  rw [hfirst]
  dsimp only
  refine ⟨modThread_cores _ _ _, ?_⟩
  unfold State.modThread
  rw [if_neg (by rw [hme]; simp [huid.symm])]
  dsimp only
  rw [hthreads, List.map_singleton, if_pos rfl]

/-- A change of a thread other than the machine's own thread goes to the list. -/
theorem modThread_threads (hme : s.me.uid = 0) (f : Thread → Thread) {u : Nat} : (s.modThread u f).me = s.me ∧
    (s.modThread u f).threads = s.threads.map (fun x => if x.uid = u then f x else x) := by
  have hother : ¬((decide (s.me.uid = u) && u != 0) = true) := by
    rw [hme]
    by_cases h : u = 0
    · simp [h]
    · simp [Ne.symm h]
  unfold State.modThread
  rw [if_neg hother]
  exact ⟨rfl, rfl⟩

/-- So is one that was parked there before the entry joined. -/
theorem joinQueue_wakes {x : Thread} {n : Nat} (hme : s.me.uid = 0) (hthreads : s.threads = [x]) (hpark : x.park = .queue q n) (hpl : x.pl = p)
    (hwoken : x.woken = false) (huid : x.uid ≠ 0) : ((s.joinQueue p q v r).core p).queue q = (s.core p).queue q ++ [v] ∧
      (s.joinQueue p q v r).threads.map (·.woken) = [true] := by
  generalize hu : (s.setQueue p q ((s.core p).queue q ++ [v])).answer r 0 none = u
  have hcores : u.cores = (s.setQueue p q ((s.core p).queue q ++ [v])).cores := hu ▸ answer_cores _ _ _ _
  obtain ⟨hume, huthreads⟩ : u.me = s.me ∧ u.threads = [if x.uid = r.uid then finished r.id 0 0 none x else x] := by
    rw [← hu, State.answer, finishOp_eq]
    obtain ⟨hm, ht⟩ := modThread_threads (s := { s.setQueue p q ((s.core p).queue q ++ [v]) with net := s.net.filter (fun y => y.id != r.id) }) hme (finished r.id 0 0 none) (u := r.uid)
    exact ⟨hm, ht.trans (congrArg (List.map _) hthreads)⟩
  obtain ⟨y, hy, hypark, hypl, hywoken, hyuid⟩ : ∃ y, u.threads = [y] ∧ y.park = .queue q n ∧ y.pl = p ∧ y.woken = false ∧ y.uid = x.uid := by
    refine ⟨_, huthreads, ?_⟩
    split
    · exact ⟨hpark, hpl, by simp [finished, hwoken, hpark], rfl⟩
    · exact ⟨hpark, hpl, hwoken, rfl⟩
  obtain ⟨hwcores, hwthreads⟩ := wakeQueue_one (s := u) (by rw [hume]; exact hme) hy hypark hypl hywoken (by rw [hyuid]; exact huid)
  rw [joinQueue_eq, hu, hwthreads, core_congr (hwcores.trans hcores)]
  exact ⟨queue_setQueue _ _ _ _, rfl⟩

end

/-! ### Messages (R197, R198, R296) -/

/-- A platform write changes bytes of the memory and copies of the L1. -/
theorem platWrite_frame (bs : List Byte) : ∀ (s : State) (a : Nat), s.platWrite a bs = { s with mem := (s.platWrite a bs).mem, l1 := (s.platWrite a bs).l1 } := by
  induction bs with
  | nil => exact fun _ _ => rfl
  | cons b bs ih => exact fun s a => ih _ _

theorem platWrite_getB (bs : List Byte) : ∀ (s : State) (a k : Nat), MemOk s → (∀ i, i < bs.length → k ≠ s.dramKey 0 (a + i)) →
    (s.platWrite a bs).mem.getB k = s.mem.getB k := by
  induction bs with
  | nil => exact fun _ _ _ _ _ => rfl
  | cons b bs ih =>
    intro s a k h hk
    refine (ih ((s.modMem (fun m => m.setB (s.dramKey 0 a) b)).dropCopies _) (a + 1) k (setB_wf _ _ _ h) fun i hi => ?_).trans ((getB_setB _ _ _ _ h).trans (if_neg (hk 0 (Nat.succ_pos _))))
    rw [Nat.add_assoc, Nat.add_comm 1]
    exact hk (i + 1) (Nat.succ_lt_succ hi)

section
variable {s : State} {id : Nat} {r : Req} {tid : BitVec 32} {v : VWord} {b : Inbox}

theorem exec_messageArrive (h : Arriving s id r) : exec (.messageArrive id) s = .next (s.msgDo r) := withReq_arriving h _

/-- The inboxes with the messages of one task changed. -/
def withInbox (s : State) (r : Req) (tid : BitVec 32) (f : Inbox → Inbox) : State :=
  s.modGraph (fun g => { g with inboxes := g.inboxes.map (fun y => if y.o == r.pl.o && y.tid == tid then f y else y) })

/-- The message joins at the tail. -/
def withMessage (v : VWord) (b : Inbox) : Inbox := { b with msgs := b.msgs ++ [v], count := b.count + 1 }

/-- The area of the inbox takes free bytes for the message (log 46). -/
def areaWritten (s : State) (r : Req) (b : Inbox) : State := (s.drawn.charge r.pl.o 5 128).platWrite (s.inboxAt b) (leBytes 16 s.free.toNat)

theorem deliver_joins (hbox : s.graph.inboxes.find? (fun y => y.o == r.pl.o && y.tid == tid) = some b) (hfresh : ∀ x ∈ s.net, x.arrived = none)
    (hroom : b.msgs.length < 32) (from_ : Nat) : s.deliver r.pl.o tid v from_ = withInbox (areaWritten s r b) r tid (withMessage v) := by
  have hnone : s.mrecvOf r.pl.o tid = none := List.find?_eq_none.mpr fun x hx => by simp [hfresh x hx]
  unfold State.deliver
  rw [hbox]
  dsimp only
  rw [hnone]
  exact if_pos hroom

/-- A charge to a meter moves no key of the memory. -/
theorem dramKey_charge (s : State) (o k n p a : Nat) : (s.charge o k n).dramKey p a = s.dramKey p a := by
  unfold State.dramKey
  rw [owner_charge]

/-- A message to a task with an inbox that has room, and no waiting mrecv, joins the inbox (R296). -/
theorem message_joins {lch : Nat} (harr : Arriving s id r) (hk : r.kind = .msg 0 tid v lch)
    (hbox : s.graph.inboxes.find? (fun y => y.o == r.pl.o && y.tid == tid) = some b) (hfresh : ∀ x ∈ s.net, x.arrived = none)
    (hroom : b.msgs.length < 32) : Next (exec (.messageArrive id) s) (fun t => Answered s t r 0 ∧
      (MemOk s → ∀ a, (∀ i, i < 16 → a ≠ s.dramKey 0 (s.inboxAt b + i)) → t.mem.getB a = s.mem.getB a) ∧ t.graph.launches = s.graph.launches ∧
      t.graph.inboxes = (withInbox s r tid (withMessage v)).graph.inboxes) := by
  have hdo : s.msgDo r = (s.deliver r.pl.o tid v lch).answer r 0 none := by
    unfold State.msgDo
    simp only [hk]
  rw [exec_messageArrive harr, hdo, deliver_joins hbox hfresh hroom]
  have hgraph : ∀ t : State, (t.answer r 0 none).graph = t.graph := fun t => by rw [State.answer, finishOp_eq, modThread_frame]
  have harea : (areaWritten s r b).graph = s.graph := by unfold areaWritten; rw [platWrite_frame]; rfl
  refine next_of ⟨answered_of_same ?_ (fun u => ?_) 0, fun hok a ha => ?_, ?_, ?_⟩
  · show (areaWritten s r b).net = s.net
    unfold areaWritten
    rw [platWrite_frame]
    rfl
  · show (areaWritten s r b).thread? u = s.thread? u
    unfold areaWritten
    rw [platWrite_frame]
    rfl
  · rw [answer_mem]
    refine platWrite_getB _ _ _ a hok fun i hi => ?_
    rw [dramKey_charge]
    exact ha i (by rwa [length_leBytes] at hi)
  · rw [hgraph]
    exact congrArg (·.launches) harea
  · rw [hgraph]
    exact congrArg (fun g : Graph => g.inboxes.map _) harea

/-- An mrecv takes the oldest message of its inbox (R197). -/
theorem mrecv_takes {w : VWord} {ws : List VWord} (harr : Arriving s id r) (hk : r.kind = .mrecv tid)
    (hbox : s.graph.inboxes.find? (fun y => y.o == r.pl.o && y.tid == tid) = some b) (hmsgs : b.msgs = w :: ws) :
    Next (exec (.messageArrive id) s) (fun t => Answered s t r w ∧ SameBytes s t ∧
      t.graph.inboxes = (withInbox s r tid (fun y => { y with msgs := ws })).graph.inboxes) := by
  have hdo : s.msgDo r = (withInbox (s.charge r.pl.o 4 128) r tid (fun y => { y with msgs := ws })).answer r w none := by
    unfold State.msgDo
    simp only [hk, hbox, hmsgs]
    rfl
  rw [exec_messageArrive harr, hdo]
  refine next_of ⟨answered_of_same rfl (fun _ => rfl) w, sameBytes_of_mem (answer_mem _ _ _ _), ?_⟩
  rw [State.answer, finishOp_eq, modThread_frame]
  rfl

/-- With no message there, an mrecv waits for one. -/
theorem mrecv_waits (harr : Arriving s id r) (hfresh : r.arrived = none) (hk : r.kind = .mrecv tid)
    (hbox : s.graph.inboxes.find? (fun y => y.o == r.pl.o && y.tid == tid) = some b) (hmsgs : b.msgs = []) :
    Next (exec (.messageArrive id) s) (fun t => Awaits s t r) := by
  have hdo : s.msgDo r = s.await r := by
    unfold State.msgDo
    simp only [hk, hbox, hmsgs, hfresh, Option.isSome_none, Bool.false_eq_true, if_false]
  rw [exec_messageArrive harr, hdo]
  exact next_of (awaits_await s r)

end

/-! ### The statement -/

/-- A thread whose request is a bar.sync. -/
def synchronising : Thread := { uid := 1 }
def syncRequest : Req := { id := 1, uid := 1, pl := ⟨0, 0, 0⟩, loc := .scr ⟨0, 0, 0⟩ 0, kind := .barSync 0 }
/-- A request to a sync word of DRAM under the number of the other, not yet with a bank group. -/
def sameRequestNumber : Req := { id := 1, uid := 0, pl := ⟨0, 0, 0⟩, loc := .dram 0 0 .sync, kind := .feClr }
/-- Two requests share one number. The device gives each request that it sends a fresh number, so this is no state that the clause was meant for, but no premise shuts it out. -/
def requestNumberTwice : State := { State.reset with
  threads := [synchronising], net := [syncRequest, sameRequestNumber], cores := [{ pl := ⟨0, 0, 0⟩, bars := [{ k := 0, n := 2 }] }] }

theorem requestNumberTwice_arriving : Arriving requestNumberTwice 1 syncRequest := ⟨by decide, by decide⟩

/-- The wait of the bar.sync gives the other request its bank group. -/
theorem requestNumberTwice_banks : (requestNumberTwice.barDo syncRequest).net.map (·.bank.isSome) = [false, true] := by decide

/-- Refutes O33: the clause on a bar.sync that waits asks nothing of other requests with its number, and says that of those only the stamp of arrival changes;
in requestNumberTwice the other one also takes its bank group. Where the bar.sync alone has its number the clause holds (barSync_waits), and the others hold as they
stand: those on barriers by barInit_sets, barArrive_counts, barArrive_free, barrier_fills and barWait_performs, those on pushes by queuePush_joins with
joinQueue_answers and joinQueue_wakes, and by queuePush_waits, those on messages by message_joins, mrecv_takes and mrecv_waits. -/
theorem not_barriersPushesMessagesArrive : ¬ Obligations.BarriersPushesMessagesArrive := by
  unfold Obligations.BarriersPushesMessagesArrive
  rintro ⟨h, -⟩
  obtain ⟨-, -, -, -, -, -, hsync⟩ := h requestNumberTwice 1 0 0 syncRequest ⟨0, 0, 0⟩ synchronising requestNumberTwice_arriving rfl rfl (by decide)
  obtain ⟨t, hnext, -, -, hnet, -⟩ := hsync rfl (by decide) (by decide)
  rw [exec_barrierOpArrive requestNumberTwice_arriving] at hnext
  obtain rfl := Host.Outcome.next.inj hnext
  have hbanks := congrArg (List.map (·.bank.isSome)) hnet
  rw [requestNumberTwice_banks] at hbanks
  exact absurd hbanks (by decide)

end Sys2Proof.Laws

/-! SUPPORT. Records: what the arrival of a spawned record leaves, refused and accepted, and O40. -/

namespace Sys2Proof.Laws

open Sys2Proof.Machine Sys2Proof.Safety

/-! ### What settling leaves of the graph unit and of an owner (R305, R434) -/

section
variable {s t : State}

theorem graph_of_settles (h : Settles s t) : t.graph = s.graph := by rw [h.1]; rfl

theorem wqcfg_of_settles (h : Settles s t) (q : Nat) : t.wqcfg q = s.wqcfg q := by unfold State.wqcfg; rw [graph_of_settles h]
theorem occ_of_settles (h : Settles s t) (q : Nat) : t.occ q = s.occ q := by unfold State.occ; rw [graph_of_settles h]

/-- The slots and the next task id of an owner are no metering counters. -/
theorem nslot_of_settles (h : Settles s t) (o : Nat) : t.nslot o = s.nslot o := by
  unfold State.nslot
  rw [h.2 o]

theorem nextTid_of_settles (h : Settles s t) (o : Nat) : (t.owner o).nextTid = (s.owner o).nextTid := by rw [h.2 o]

end

/-! ### A record that a spawn brings to a queue (R205, R280, R283, R284) -/

section
variable {s : State} {id w o p : Nat} {ws : List Word} {k : Kind} {r : Req}

/-- The quads of the record that a spawn names. -/
def spawnQuads (s : State) (r : Req) : List Word := quadsOf 16 (s.readLoc r.loc 128)
/-- The queue that a record names (R282). -/
def queueNo (q : List Word) : Nat := bits (qd q 0) 17 8

/-- The checks of the queue itself pass: it is enabled, it is the owner's, and it has room. -/
def QueueTakes (s : State) (r : Req) : Prop :=
  let wq := queueNo (spawnQuads s r)
  bit (s.wqcfg wq) 63 = true ∧ bits (s.wqcfg wq) 55 52 = r.pl.o ∧ s.occ wq < 64

/-- A record in DRAM whose check waits for no table is judged as it arrives. -/
theorem exec_recordArrive (harr : Arriving s id r) (hk : r.kind = .spawn w ws) (hloc : r.loc = .dram o p k) (hwait : s.spawnWaits r = false) :
    exec (.recordArrive id) s = .next (s.spawnArrive r) := by
  obtain ⟨hreq, hmay⟩ := harr
  change execRecordArrive id s = _
  unfold execRecordArrive
  simp only [hreq, hk, hloc, hmay, hwait, Bool.not_false, Bool.and_self, if_true]

/-- Only the tables of a graph record are waited for, and only where the queue takes records and the record's own fields are good (R283, R419). -/
theorem spawnWaits_of_queue (h : ¬QueueTakes s r) : s.spawnWaits r = false := by
  unfold QueueTakes at h
  unfold State.spawnWaits
  dsimp only at h ⊢
  rw [Bool.eq_false_iff]
  intro hw
  simp only [Bool.and_eq_true, beq_iff_eq, decide_eq_true_eq] at hw
  obtain ⟨⟨⟨hen, hown⟩, hocc⟩, -⟩ := hw
  exact h ⟨hen, hown, hocc⟩

theorem recWaits_of_bad {pmax : Nat} {q : List Word} (h : recBad (s.nslot o) false q = true ∨ pmax < rPrio q ∨ rKind q ≠ 3) : s.recWaits o pmax q = false := by
  unfold State.recWaits
  obtain h | h | h := h
  · rw [h, Bool.not_true, Bool.and_false, Bool.false_and, Bool.false_and]
  · rw [decide_eq_false (Nat.not_le.mpr h), Bool.and_false, Bool.false_and]
  · rw [beq_eq_false_iff_ne.mpr h]
    rfl

theorem spawnWaits_of_record (h : recBad (s.nslot r.pl.o) false (spawnQuads s r) = true ∨
    bits (s.wqcfg (queueNo (spawnQuads s r))) 57 56 < rPrio (spawnQuads s r) ∨ rKind (spawnQuads s r) ≠ 3) : s.spawnWaits r = false := by
  unfold State.spawnWaits
  exact Bool.and_eq_false_iff.mpr (.inr (recWaits_of_bad h))

theorem touchNodes_of_bad {pmax : Nat} {q : List Word} (h : recBad (s.nslot o) false q = true ∨ pmax < rPrio q ∨ rKind q ≠ 3) : s.touchNodes o pmax q = s := by
  unfold State.touchNodes
  refine if_neg fun hread => ?_
  simp only [Bool.and_eq_true, decide_eq_true_eq, Bool.not_eq_true'] at hread
  obtain ⟨⟨hkind, hgood⟩, hprio⟩ := hread
  obtain h | h | h := h
  · rw [h] at hgood
    cases hgood
  · omega
  · exact h hkind

theorem answer_graph (s : State) (r : Req) (v : VWord) (f : Option FaultRec) : (s.answer r v f).graph = s.graph := by
  rw [State.answer, finishOp_eq, modThread_frame]

theorem answer_owner (s : State) (r : Req) (v : VWord) (f : Option FaultRec) (o : Nat) : (s.answer r v f).owner o = s.owner o := by
  rw [State.answer, finishOp_eq, modThread_frame]
  rfl

/-- A record that is refused: its sector has been read, the queue's REFUSED counts it, and the answer is its code (R283). -/
def refusedAs (s : State) (r : Req) (code : Nat) : State :=
  ((s.chargeMem false r.loc).countRefused (queueNo (spawnQuads s r))).answer r (BitVec.ofNat 128 (2 ^ 63 + code)) none

theorem refusedAs_refuses (s : State) (r : Req) (code : Nat) : let t := refusedAs s r code
    SameBytes s t ∧ Answered s t r (BitVec.ofNat 128 (2 ^ 63 + code)) ∧ t.graph.recs = s.graph.recs ∧
      alGet 0 (queueNo (spawnQuads s r)) t.graph.refused = (alGet 0 (queueNo (spawnQuads s r)) s.graph.refused + 1) % 65536 := by
  have hset := settles_chargeMem s false r.loc
  have hnet := net_of_settles hset
  have hthread := thread?_of_settles hset
  unfold refusedAs
  dsimp only
  rw [answer_graph, ← graph_of_settles hset]
  refine ⟨fun a => ?_, answered_of_same (by exact hnet) (by exact hthread) _, rfl, (alGet_alSet _ _ _ _ _).trans (if_pos rfl)⟩
  rw [answer_mem]
  exact sameBytes_of_settles hset a

theorem refusedAs_nslot (s : State) (r : Req) (code o : Nat) : (refusedAs s r code).nslot o = s.nslot o := by
  have hslot := nslot_of_settles (settles_chargeMem s false r.loc) o
  unfold State.nslot at hslot ⊢
  rw [refusedAs, answer_owner]
  exact hslot

/-- What a record past the checks of its queue comes to, by the checks of its own fields and of its tables (R283). -/
def judged (s : State) (r : Req) : State :=
  let q := spawnQuads s r
  let pmax := bits (s.wqcfg (queueNo q)) 57 56
  match (s.chargeMem false r.loc).checkRec r.pl.o pmax q with
  | .error e => (refusedAs s r e).touchNodes r.pl.o pmax q
  | .ok ns =>
    let a := ((s.chargeMem false r.loc).touchNodes r.pl.o pmax q).acceptRec r.pl.o (queueNo q) none q ns
    a.1.answer r (a.2.setWidth 128) none

/-- A record that reads unpoisoned is judged by its queue first (R283). -/
theorem spawnArrive_eq (hbad : s.locBad r.loc = false) : s.spawnArrive r =
    let wq := queueNo (spawnQuads s r)
    if !bit (s.wqcfg wq) 63 || bits (s.wqcfg wq) 55 52 != r.pl.o then refusedAs s r 1
    else if 64 ≤ s.occ wq then refusedAs s r 2
    else judged s r := by
  have hset := settles_chargeMem s false r.loc
  unfold State.spawnArrive judged
  rw [if_neg (by rw [hbad]; exact Bool.false_ne_true)]
  dsimp only
  rw [wqcfg_of_settles hset, occ_of_settles hset]
  rfl

/-- Code 3: a field is outside its limits. -/
theorem judged_bad (h : recBad (s.nslot r.pl.o) false (spawnQuads s r) = true) : judged s r = refusedAs s r 3 := by
  have hslot := nslot_of_settles (settles_chargeMem s false r.loc) r.pl.o
  have hcheck : ∀ pmax, (s.chargeMem false r.loc).checkRec r.pl.o pmax (spawnQuads s r) = .error 3 := fun pmax => by
    unfold State.checkRec
    rw [hslot]
    exact if_pos h
  unfold judged
  simp only [hcheck]
  exact touchNodes_of_bad (.inl (by rw [refusedAs_nslot]; exact h))

/-- Code 5: the priority is above the queue's. -/
theorem judged_high (h : recBad (s.nslot r.pl.o) false (spawnQuads s r) = false)
    (hprio : bits (s.wqcfg (queueNo (spawnQuads s r))) 57 56 < rPrio (spawnQuads s r)) : judged s r = refusedAs s r 5 := by
  have hslot := nslot_of_settles (settles_chargeMem s false r.loc) r.pl.o
  have hcheck : (s.chargeMem false r.loc).checkRec r.pl.o (bits (s.wqcfg (queueNo (spawnQuads s r))) 57 56) (spawnQuads s r) = .error 5 := by
    unfold State.checkRec
    rw [hslot, if_neg (by rw [h]; exact Bool.false_ne_true)]
    exact if_pos hprio
  unfold judged
  simp only [hcheck]
  exact touchNodes_of_bad (.inr (.inl hprio))

/-- A record of one node joins its queue, and its COUNT task ids are assigned from the owner's next one on (R284). -/
def joinOne (u : State) (o : Nat) (q : List Word) : State :=
  let tid := (u.owner o).nextTid
  (u.modOwner o (fun x => { x with nextTid := tidAdd tid (rCount q) })).modGraph (fun g =>
    { g with recs := g.recs ++ [{ q := q, nodes := [{ q := q, tid := tid }], wq := queueNo q, fn := none, o := o }] })

theorem joinOne_nextTid (u : State) (o : Nat) (q : List Word) : ((joinOne u o q).owner o).nextTid = tidAdd (u.owner o).nextTid (rCount q) := by
  have h := owner_modOwner u o o (fun x => { x with nextTid := tidAdd (u.owner o).nextTid (rCount q) })
  rw [if_pos rfl] at h
  exact congrArg Owner.nextTid h

theorem acceptRec_single (u : State) (o : Nat) (q : List Word) : u.acceptRec o (queueNo q) none q [{ q := q }] = (joinOne u o q, (u.owner o).nextTid) := rfl

/-- A record that is accepted as one node: the answer is the first of its ids (R284). -/
def acceptedAs (s : State) (r : Req) : State :=
  (joinOne (s.chargeMem false r.loc) r.pl.o (spawnQuads s r)).answer r ((s.owner r.pl.o).nextTid.setWidth 128) none

theorem judged_single (h : recBad (s.nslot r.pl.o) false (spawnQuads s r) = false)
    (hprio : rPrio (spawnQuads s r) ≤ bits (s.wqcfg (queueNo (spawnQuads s r))) 57 56) (hkind : rKind (spawnQuads s r) ≠ 3) : judged s r = acceptedAs s r := by
  have hslot := nslot_of_settles (settles_chargeMem s false r.loc) r.pl.o
  have hcheck : (s.chargeMem false r.loc).checkRec r.pl.o (bits (s.wqcfg (queueNo (spawnQuads s r))) 57 56) (spawnQuads s r) = .ok [{ q := spawnQuads s r }] := by
    unfold State.checkRec
    rw [hslot, if_neg (by rw [h]; exact Bool.false_ne_true), if_neg (Nat.not_lt.mpr hprio), if_neg hkind]
  unfold judged acceptedAs
  simp only [hcheck, touchNodes_of_bad (.inr (.inr hkind)), acceptRec_single, nextTid_of_settles (settles_chargeMem s false r.loc)]

theorem acceptedAs_accepts (s : State) (r : Req) : let t := acceptedAs s r
    let q := spawnQuads s r
    let tid := (s.owner r.pl.o).nextTid
    SameBytes s t ∧ Answered s t r (tid.setWidth 128) ∧ t.graph.refused = s.graph.refused ∧
      t.graph.recs = s.graph.recs ++ [{ q := q, nodes := [{ q := q, tid := tid }], wq := queueNo q, fn := none, o := r.pl.o }] ∧
      (t.owner r.pl.o).nextTid = tidAdd tid (rCount q) := by
  have hset := settles_chargeMem s false r.loc
  have htid := nextTid_of_settles hset r.pl.o
  have hgraph := graph_of_settles hset
  have hnet := net_of_settles hset
  have hthread := thread?_of_settles hset
  unfold acceptedAs
  dsimp only
  rw [answer_graph, answer_owner]
  refine ⟨fun a => ?_, answered_of_same (by exact hnet) (by exact hthread) _, ?_, ?_, ?_⟩
  · rw [answer_mem]
    exact sameBytes_of_settles hset a
  · rw [← hgraph]
    rfl
  · rw [← hgraph, ← htid]
    rfl
  · rw [← htid]
    exact joinOne_nextTid _ _ _

/-- The id that follows COUNT ids skips 0 (R284). -/
theorem tidAdd_eq (t : BitVec 32) (n : Nat) : tidAdd t n = if t.toNat + n < 2 ^ 32 then BitVec.ofNat 32 (t.toNat + n) else BitVec.ofNat 32 (t.toNat + n + 1) := by
  unfold tidAdd
  exact apply_ite (BitVec.ofNat 32) _ _ _

end

/-! ### The statement -/

/-- Settles O40: a record is judged by its queue (`spawnArrive_eq`) and then by its own fields (`judged_bad`, `judged_high`, `judged_single`); what a refusal
leaves is the same for each code. -/
theorem recordsArrive : Obligations.RecordsArrive := by
  unfold Obligations.RecordsArrive
  intro s id w o p ws r k harr hk hloc hbad
  have hq : quadsOf 16 (s.mem.read (s.dramKey o p) 128) = spawnQuads s r := by
    unfold spawnQuads
    rw [hloc]
    rfl
  rw [hq]
  intro q wq cfg waiting refused
  have hrefused : ∀ code, s.spawnWaits r = false → s.spawnArrive r = refusedAs s r code → refused code := fun code hwait harrive =>
    next_of_eq ((exec_recordArrive harr hk hloc hwait).trans (congrArg _ harrive)) (next_of (refusedAs_refuses s r code))
  have harrive := spawnArrive_eq hbad
  refine ⟨fun h => ?_, fun hen hown => ⟨fun hfull => ?_, fun hroom hfield => ?_, fun hroom hgood hprio => ?_, fun hroom hgood hprio hkind => ?_⟩⟩
  · refine hrefused 1 (spawnWaits_of_queue fun ⟨hen, hown, _⟩ => ?_) (harrive.trans (if_pos ?_))
    · exact h.elim (fun hoff => Bool.false_ne_true (hoff.symm.trans hen)) (fun hother => hother hown)
    · simp only [Bool.or_eq_true, Bool.not_eq_true', bne_iff_ne]
      exact h
  all_goals
    have hqueue : ¬(!bit (s.wqcfg wq) 63 || bits (s.wqcfg wq) 55 52 != r.pl.o) = true := by
      simpa only [Bool.or_eq_true, Bool.not_eq_true', bne_iff_ne, not_or, Bool.not_eq_false, ne_eq, not_not] using ⟨hen, hown⟩
    replace harrive := harrive.trans (if_neg hqueue)
  · exact hrefused 2 (spawnWaits_of_queue fun ⟨_, _, hocc⟩ => Nat.not_le.mpr hocc hfull) (harrive.trans (if_pos hfull))
  all_goals replace harrive := harrive.trans (if_neg (Nat.not_le.mpr hroom))
  · exact hrefused 3 (spawnWaits_of_record (.inl hfield)) (harrive.trans (judged_bad hfield))
  · exact hrefused 5 (spawnWaits_of_record (.inr (.inl hprio))) (harrive.trans (judged_high hgood hprio))
  · have hone : rKind (spawnQuads s r) ≠ 3 := fun h3 => by rw [show rKind (spawnQuads s r) = 0 from hkind] at h3; cases h3
    have hcount : rCount (spawnQuads s r) = bits (qd q 0) 47 32 := if_pos hkind
    obtain ⟨hbytes, hanswer, hrefs, hrecs, htid⟩ := acceptedAs_accepts s r
    rw [hcount, tidAdd_eq] at htid
    exact next_of_eq ((exec_recordArrive harr hk hloc (spawnWaits_of_record (.inr (.inr hone)))).trans (congrArg _ (harrive.trans (judged_single hgood hprio hone))))
      (next_of ⟨hbytes, hanswer, hrefs, hrecs, htid⟩)

end Sys2Proof.Laws

/-! SUPPORT. Travels: rows that are offered, departures, arrivals and restored rows, and O35. -/

namespace Sys2Proof.Laws

open Sys2Proof.Machine Sys2Proof.Safety

/-! ### A row that is offered while nothing but evicted rows waits for it (R202, R330) -/

section
variable {s t : State}

/-- Rows may have come back to threads, and metering counters may have moved; memory, the graph unit's work, and every thread's number and stream are as before. -/
def OnlyRows (s t : State) : Prop :=
  t.mem = s.mem ∧ t.graph = s.graph ∧ (∀ y ∈ t.threads, ∃ x ∈ s.threads, y.uid = x.uid ∧ y.strm = x.strm) ∧ ∀ o, (t.owner o).stepped = (s.owner o).stepped

theorem onlyRows_refl (s : State) : OnlyRows s s := ⟨rfl, rfl, fun y hy => ⟨y, hy, rfl, rfl⟩, fun _ => rfl⟩

theorem OnlyRows.trans {u : State} (h : OnlyRows s t) (k : OnlyRows t u) : OnlyRows s u := by
  obtain ⟨hmem, hgraph, hthreads, hstep⟩ := h
  obtain ⟨kmem, kgraph, kthreads, kstep⟩ := k
  refine ⟨kmem.trans hmem, kgraph.trans hgraph, fun z hz => ?_, fun o => (kstep o).trans (hstep o)⟩
  obtain ⟨y, hy, huid, hstrm⟩ := kthreads z hz
  obtain ⟨x, hx, huid', hstrm'⟩ := hthreads y hy
  exact ⟨x, hx, huid.trans huid', hstrm.trans hstrm'⟩

theorem onlyRows_charge (s : State) (o k n : Nat) : OnlyRows s (s.charge o k n) :=
  ⟨rfl, rfl, fun y hy => ⟨y, hy, rfl, rfl⟩, fun j => by rw [owner_charge]⟩

theorem onlyRows_modThread {u : Nat} {f : Thread → Thread} (hf : ∀ x, (f x).uid = x.uid ∧ (f x).strm = x.strm) : OnlyRows s (s.modThread u f) := by
  unfold State.modThread
  split
  · exact ⟨rfl, rfl, fun y hy => ⟨y, hy, rfl, rfl⟩, fun _ => rfl⟩
  · refine ⟨rfl, rfl, fun y hy => ?_, fun _ => rfl⟩
    obtain ⟨x, hx, rfl⟩ := List.mem_map.mp hy
    refine ⟨x, hx, ?_⟩
    split
    · exact hf x
    · exact ⟨rfl, rfl⟩

theorem onlyRows_restoreRow (s : State) (u k : Nat) : OnlyRows s (s.restoreRow u k) :=
  (onlyRows_charge s _ 4 1024).trans (onlyRows_modThread fun _ => ⟨rfl, rfl⟩)

/-- With no packet spilled, no task in a placement queue and no stream, only an evicted row takes the row that is offered. -/
theorem onlyRows_offerRow (p : Place) (hpk : ∀ k ∈ s.graph.packets, k.stage ≠ .spilled) (hpl : s.graph.placing = []) (hst : s.graph.streams = []) :
    OnlyRows s (s.offerRow p) := by
  have hspill : ∀ x, s.oldestSpill x = none := fun x => by
    have hnone : s.graph.packets.filter (fun k => k.stage == .spilled && k.t.pl == x) = [] :=
      List.filter_eq_nil_iff.mpr fun k hk => by simp [hpk k hk]
    unfold State.oldestSpill
    rw [hnone]
    rfl
  have hhead : ∀ x, s.headFor x = none := fun x => by unfold State.headFor State.heads; rw [hpl]; rfl
  have hnone : ∀ {α β : Type} (xs : List α), xs.findSome? (fun _ => (none : Option β)) = none := fun _ => List.findSome?_eq_none_iff.mpr (fun _ _ => rfl)
  unfold State.offerRow
  split
  · exact onlyRows_refl s
  · simp only []
    split
    · exact onlyRows_restoreRow s _ _
    · simp only [hst, hspill, hhead, List.find?_nil, Option.map_none, hnone]
      exact onlyRows_refl s

end

/-! ### A departure (R200, R201, R408) -/

section
variable {s t : State} {uid : Nat} {x : Thread} {dst : Place}

/-- The thread has left, and its packet stands among the packets. -/
def departed (s : State) (uid : Nat) (pk : Packet) : State := (s.dropThread uid).modGraph (fun g => { g with packets := g.packets ++ [pk] })

theorem departed_threads (s : State) (uid : Nat) (pk : Packet) : ∀ y ∈ (departed s uid pk).threads, y.uid ≠ uid := fun y hy => by
  simpa using (List.mem_filter.mp hy).2

/-- An owner has a stepped packet (R408). -/
def markStepped (s : State) (o : Nat) : State := s.modOwner o (fun x => { x with stepped := true })

theorem markStepped_stepped (s : State) (o : Nat) : ((markStepped s o).owner o).stepped = true := by
  rw [markStepped, owner_modOwner, if_pos rfl]

theorem markStepped_desc (s : State) (o k : Nat) : ((markStepped s o).owner k).desc = (s.owner k).desc := by
  rw [markStepped, owner_modOwner]
  split
  · rename_i hk
    have hsame : s.owner k = s.owner o := by unfold State.owner; simp only [show Fin.ofNat 16 k = Fin.ofNat 16 o from Fin.ext hk]
    rw [hsame]
  · rfl

theorem willTrap_no_held (h : x.held = []) : x.willTrap = false := by unfold Thread.willTrap; rw [h]; exact Bool.and_false _

/-- The packet of a migration: what travels, and the core that it left. -/
def migrant (s : State) (x : Thread) (dst : Place) : Packet := { id := s.newId, stage := .flight, t := State.carried x dst, src := some x.pl }
/-- The packet of a step, which stays where its thread stood. -/
def stepper (s : State) (x : Thread) : Packet := { id := s.newId, stage := .stepped, t := State.carried x x.pl }

theorem execMigrationDepart_migrates (hx : s.thread? uid = some x) (hdep : s.departs x = true) (hheld : x.held = []) (hpark : x.park = .migrate dst) :
    exec (.migrationDepart uid) s = .next ((departed s uid (migrant s x dst)).bump.offerRow x.pl) := by
  change execMigrationDepart uid s = _
  unfold execMigrationDepart
  simp only [hx, hdep, hpark, willTrap_no_held hheld, Bool.not_true, Bool.false_eq_true, if_false]
  rfl

theorem execMigrationDepart_steps (hx : s.thread? uid = some x) (hdep : s.departs x = true) (hheld : x.held = []) (hpark : x.park = .step) (hpass : x.pass ≠ 1)
    (hcfg : bit (s.owner x.pl.o).stepcfg.toNat 63 = true) : exec (.migrationDepart uid) s =
      .next (((markStepped (departed s uid (stepper s x)) x.pl.o).bump.saveRow x.pl.o).offerRow x.pl) := by
  change execMigrationDepart uid s = _
  unfold execMigrationDepart
  simp only [hx, hdep, hpark, willTrap_no_held hheld, beq_eq_false_iff_ne.mpr hpass, hcfg, Bool.or_self, Bool.not_true, Bool.false_eq_true, if_false, if_true]
  rfl

/-- R200: a migrating thread leaves its row, and its packet is in flight. -/
theorem migrationDepart_migrates (hx : s.thread? uid = some x) (hdep : s.departs x = true) (hheld : x.held = []) (hpark : x.park = .migrate dst)
    (hpk : s.graph.packets = []) (hpl : s.graph.placing = []) (hst : s.graph.streams = []) :
    Next (exec (.migrationDepart uid) s) (fun t => SameBytes s t ∧ (∀ y ∈ t.threads, y.uid ≠ uid) ∧ t.graph.packets = [migrant s x dst]) := by
  rw [execMigrationDepart_migrates hx hdep hheld hpark]
  have hpackets : (departed s uid (migrant s x dst)).bump.graph.packets = [migrant s x dst] := congrArg (· ++ [migrant s x dst]) hpk
  obtain ⟨hmem, hgraph, hthreads, -⟩ := onlyRows_offerRow (s := (departed s uid (migrant s x dst)).bump) x.pl
    (by rw [hpackets]; exact List.forall_mem_singleton.mpr PStage.noConfusion) hpl hst
  refine next_of ⟨fun a => by rw [hmem]; rfl, fun y hy => ?_, by rw [hgraph, hpackets]⟩
  obtain ⟨z, hz, huid, -⟩ := hthreads y hy
  rw [huid]
  exact departed_threads s uid (migrant s x dst) z hz

/-- The save area of an owner lies by the memory, the platform's registers and the owners' descriptors (R329, R333). -/
theorem outsideSave_congr {u : State} {o : Nat} (hmem : u.mem = s.mem) (hregs : u.regs = s.regs) (hdesc : ∀ k, (u.owner k).desc = (s.owner k).desc)
    (h : OutsideSave u t o) : OutsideSave s t o := by
  have hkey : ∀ k p, u.dramKey k p = s.dramKey k p := fun k p => by unfold State.dramKey; rw [hdesc]
  have hread : ∀ n a, u.platRead a n = s.platRead a n := fun n => by
    induction n with
    | zero => exact fun _ => rfl
    | succ n ih => exact fun a => by rw [State.platRead, State.platRead, hmem, hkey, ih]
  unfold OutsideSave SameBytes MemOk State.saveSize State.platNat at h ⊢
  simpa only [hmem, hregs, hkey, hread] using h

/-- R408: a step leaves its row as a stepped packet, which is written to its owner's save area. -/
theorem migrationDepart_steps (hx : s.thread? uid = some x) (hdep : s.departs x = true) (hheld : x.held = []) (hpark : x.park = .step) (hpass : x.pass ≠ 1)
    (hcfg : bit (s.owner x.pl.o).stepcfg.toNat 63 = true) (hpk : s.graph.packets = []) (hpl : s.graph.placing = []) (hst : s.graph.streams = []) :
    Next (exec (.migrationDepart uid) s) (fun t => OutsideSave s t x.pl.o ∧ (∀ y ∈ t.threads, y.uid ≠ uid) ∧ (t.owner x.pl.o).stepped = true ∧
      t.graph.packets = [stepper s x]) := by
  rw [execMigrationDepart_steps hx hdep hheld hpark hpass hcfg]
  generalize hu : (markStepped (departed s uid (stepper s x)) x.pl.o).bump = u
  have hgraph : u.graph = (departed s uid (stepper s x)).graph := hu ▸ rfl
  have hthreads : u.threads = (departed s uid (stepper s x)).threads := hu ▸ rfl
  have hstepped : (u.owner x.pl.o).stepped = true := hu ▸ markStepped_stepped _ _
  have hdesc : ∀ k, (u.owner k).desc = (s.owner k).desc := hu ▸ fun k => markStepped_desc _ _ k
  have hpackets : u.graph.packets = [stepper s x] := hgraph ▸ congrArg (· ++ [stepper s x]) hpk
  obtain ⟨omem, ograph, othreads, ostep⟩ := onlyRows_offerRow (s := u.saveRow x.pl.o) x.pl
    (by rw [show (u.saveRow x.pl.o).graph = u.graph from rfl, hpackets]; exact List.forall_mem_singleton.mpr PStage.noConfusion)
    ((congrArg Graph.placing hgraph).trans hpl) ((congrArg Graph.streams hgraph).trans hst)
  refine next_of ⟨?_, fun y hy => ?_, ?_, ?_⟩
  · exact outsideSave_congr (hu ▸ rfl) (hu ▸ rfl) hdesc (outsideSave_of_mem (saveOut_outside u x.pl.o 1) omem)
  · obtain ⟨z, hz, huid, -⟩ := othreads y hy
    rw [huid]
    exact departed_threads s uid (stepper s x) z (hthreads ▸ hz)
  · rw [ostep]
    exact (congrArg Owner.stepped (owner_charge _ _ _ _ _)).trans hstepped
  · rw [ograph]
    exact hpackets

end

/-! ### An arrival (R202) -/

section
variable {s : State} {n : Nat} {k : Packet}

/-- What stands in a mailbox of a place stands in one of the device's cores. -/
theorem mem_mbox_core {p : Place} {m : Copy} (hm : m ∈ (s.core p).mbox) : ∃ c ∈ s.cores, m ∈ c.mbox := by
  unfold State.core at hm
  cases hc : s.cores.find? (fun c => c.pl = p) with
  | none =>
    rw [hc] at hm
    cases hm
  | some c =>
    rw [hc] at hm
    exact ⟨c, List.mem_of_find?_eq_some hc, hm⟩

/-- Where no pause has captured anything, no packet stands behind another or behind a request (R324). -/
theorem packetBehind_uncaptured (hpk : s.graph.packets = [k]) (hnet : ∀ y ∈ s.net, y.cap = false) (hbox : ∀ c ∈ s.cores, ∀ m ∈ c.mbox, ∀ w ∈ m.wq, w.cap = false) :
    s.packetBehind k = false := by
  have hself : s.graph.packets.any (fun j => j.cap && j.stage == .flight && j.src == k.src && j.t.pl == k.t.pl && decide (j.id < k.id)) = false := by
    rw [hpk]
    simp
  have hunits : ∀ p l, s.unitCap p l = false := fun p l => by
    unfold State.unitCap
    rw [List.any_eq_false]
    intro m hm
    obtain ⟨c, hc, hm⟩ := mem_mbox_core hm
    rw [Bool.not_eq_true, List.any_eq_false]
    intro w hw
    rw [hbox c hc m hm w hw]
    exact Bool.false_ne_true
  unfold State.packetBehind
  rw [hself, Bool.false_or, Bool.or_eq_false_iff, Bool.and_eq_false_iff, Bool.and_eq_false_iff]
  refine ⟨.inr (List.any_eq_false.mpr fun y hy => ?_), .inr ?_⟩
  · rw [hnet y hy]
    exact Bool.false_ne_true
  · simp only [hunits]
    cases k.src <;> rfl

/-- A packet in flight takes a free row of its core. -/
theorem packetArrive_takes (hp : s.rot.pause = none) (hpk : s.graph.packets = [k]) (hstage : k.stage = .flight) (hnet : ∀ y ∈ s.net, y.cap = false)
    (hbox : ∀ c ∈ s.cores, ∀ m ∈ c.mbox, ∀ w ∈ m.wq, w.cap = false) (hrow : s.freeRow k.t.pl = some n) :
    exec (.packetArrive k.id) s = .next ((s.dropPacket k.id).takeRow k.t n) := by
  have hfind : s.graph.packets.find? (fun j => j.id == k.id) = some k := by
    rw [hpk, List.find?_cons, beq_self_eq_true]
  have hspill : s.graph.packets.any (fun j => j.stage == .spilled && j.t.pl == k.t.pl) = false := by
    rw [hpk, List.any_cons, hstage]
    rfl
  have hclaim : s.claimRow k.t.pl = some (n, s) := by
    unfold State.claimRow
    rw [hrow]
  change execPacketArrive k.id s = _
  unfold execPacketArrive State.arrive
  simp only [hfind, hstage, netHeld_unpaused hp, packetBehind_uncaptured hpk hnet hbox, hspill, hclaim, bne_self_eq_false, Bool.or_self, Bool.false_eq_true, if_false]

theorem dropPacket_only (hpk : s.graph.packets = [k]) : (s.dropPacket k.id).graph.packets = [] := by
  show s.graph.packets.filter (fun j => j.id != k.id) = []
  rw [hpk]
  simp

end

/-! ### A row that comes back (R330) -/

section
variable {s : State} {n m : Nat} {x : Thread}

/-- The older of two evicted rows of a place. -/
def olderEvicted (p : Place) (a : Option Thread) (t : Thread) : Option Thread :=
  match t.evicted with
  | some e => if t.pl == p then (match a with | some b => if e < b.evicted.getD 0 then some t else a | none => some t) else a
  | none => a

theorem oldestEvicted_eq (s : State) (p : Place) : s.oldestEvicted p = s.threads.foldl (olderEvicted p) none := rfl

theorem olderEvicted_none (p : Place) (a : Option Thread) (h : x.evicted = none) : olderEvicted p a x = a := by
  unfold olderEvicted
  rw [h]

theorem olderEvicted_first (h : x.evicted = some n) : olderEvicted x.pl none x = some x := by
  unfold olderEvicted
  rw [h]
  exact if_pos (beq_self_eq_true _)

theorem olderEvicted_self (h : x.evicted = some n) : olderEvicted x.pl (some x) x = some x := by
  unfold olderEvicted
  simp only [h, Option.getD_some, Nat.lt_irrefl, ite_self]

/-- The only evicted row is the oldest. -/
theorem foldl_olderEvicted {ts : List Thread} (hev : x.evicted = some n) (honly : ∀ y ∈ ts, y.evicted ≠ none → y = x) :
    ts.foldl (olderEvicted x.pl) (some x) = some x ∧ (x ∈ ts → ts.foldl (olderEvicted x.pl) none = some x) := by
  induction ts with
  | nil => exact ⟨rfl, fun h => absurd h List.not_mem_nil⟩
  | cons y ts ih =>
    obtain ⟨hstays, hfound⟩ := ih fun z hz => honly z (List.mem_cons_of_mem y hz)
    rw [List.foldl_cons, List.foldl_cons]
    by_cases hy : y.evicted = none
    · rw [olderEvicted_none _ _ hy, olderEvicted_none _ _ hy]
      refine ⟨hstays, fun hx => hfound ((List.mem_cons.mp hx).resolve_left fun e => ?_)⟩
      rw [← e, hev] at hy
      cases hy
    · rw [honly y List.mem_cons_self hy, olderEvicted_self hev, olderEvicted_first hev]
      exact ⟨hstays, fun _ => hstays⟩

theorem oldestEvicted_only (hev : x.evicted = some n) (honly : ∀ y ∈ s.threads, y.evicted ≠ none → y = x) (hx : x ∈ s.threads) : s.oldestEvicted x.pl = some x := by
  rw [oldestEvicted_eq]
  exact (foldl_olderEvicted hev honly).2 hx

/-- The oldest evicted row of a resident owner takes a free row. -/
theorem rowRestore_restores (hp : s.rot.pause = none) (hx : s.thread? x.uid = some x) (hev : x.evicted = some n) (hold : s.oldestEvicted x.pl = some x)
    (hres : s.resident x.pl.o x.pl.l = true) (hrow : s.freeRow x.pl = some m) : exec (.rowRestore x.uid) s = .next (s.restoreRow x.uid m) := by
  have hclaim : s.claimRow x.pl = some (m, s) := by
    unfold State.claimRow
    rw [hrow]
  change execRowRestore x.uid s = _
  unfold execRowRestore
  simp only [hx, hev, hres, hp, hold, hclaim, Option.isSome_some, Option.isNone_none, Option.map_some, beq_self_eq_true, Bool.and_self, if_true]

/-- What a thread is when its row comes back. -/
def restored (s : State) (m : Nat) (t : Thread) : Thread :=
  { t with row := m, evicted := none, met := [], slot := if s.strmStarted t then some 0 else none, turns := 0, readyAt := s.nextBeat, since := 4 * (s.nextBeat * 8) + 1 }

theorem thread?_restoreRow (hx : s.thread? x.uid = some x) (m : Nat) : (s.restoreRow x.uid m).thread? x.uid = some (restored s m x) := by
  have hcharge : ∀ o, (s.charge o 4 1024).thread? x.uid = some x := fun _ => hx
  refine (thread?_modThread _ _ _ (restored s m) fun _ => rfl).trans ?_
  rw [if_pos rfl, hcharge]
  rfl

end

/-! ### The statement -/

/-- Settles O35: a departure puts one packet among none (`migrationDepart_migrates`, `migrationDepart_steps`), an arrival takes it out again into a row, and the only
evicted row is the one that comes back. -/
theorem migrationAndArrival : Obligations.MigrationAndArrival := by
  unfold Obligations.MigrationAndArrival
  intro s uid pid n x dst k hp out idle
  have hout : ∀ d, out (State.carried x d) d := fun d => by
    refine ⟨rfl, rfl, rfl, rfl, rfl, rfl, rfl, rfl, rfl, rfl, rfl, rfl, rfl, rfl, fun i => ?_, fun i => ?_⟩
    · exact Vector.getElem_ofFn i.isLt
    · exact Vector.getElem_ofFn i.isLt
  have hdeparts : idle → s.departs x = true := fun ⟨_, hops, hsaw, _, hwoken, hev, hfrozen, _⟩ => departs_idle hp hops hsaw hwoken hfrozen hev
  refine ⟨fun hidle hpark => ?_, fun hidle hpark hpass hcfg => ?_, fun hpk hid hstage hnet hbox hrow => ?_, fun hx hme hev honly hmem huid hres m hrow => ?_⟩
  · obtain ⟨hx, -, -, hheld, -, -, -, hpk, hpl, hst⟩ := id hidle
    exact next_mono (migrationDepart_migrates hx (hdeparts hidle) hheld hpark hpk hpl hst) fun t ⟨hbytes, hgone, hpackets⟩ =>
      ⟨hbytes, hgone, _, hpackets, rfl, hout dst⟩
  · obtain ⟨hx, -, -, hheld, -, -, -, hpk, hpl, hst⟩ := id hidle
    exact next_mono (migrationDepart_steps hx (hdeparts hidle) hheld hpark hpass hcfg hpk hpl hst) fun t ⟨hbytes, hgone, hstepped, hpackets⟩ =>
      ⟨hbytes, hgone, hstepped, _, hpackets, rfl, hout x.pl⟩
  · subst hid
    exact next_of_eq (packetArrive_takes hp hpk hstage hnet hbox hrow) (next_of ⟨fun _ => rfl, dropPacket_only hpk, rfl⟩)
  · subst huid
    exact next_of_eq (rowRestore_restores hp hx hev (oldestEvicted_only hev honly hmem) hres hrow)
      (next_of ⟨sameBytes_of_mem (onlyRows_restoreRow s _ m).1, _, thread?_restoreRow hx m, rfl, rfl, rfl, rfl, rfl, rfl, rfl, rfl⟩)

end Sys2Proof.Laws

/-! SUPPORT. StreamLife: the start, the beats, a core's turn and the end of a row stream, and O36. -/

namespace Sys2Proof.Laws

open Sys2Proof.Machine Sys2Proof.Safety

section
variable {s : State} {sid : Nat} {st : Machine.Stream}

/-! ### The only stream -/

theorem stream?_only (hst : s.graph.streams = [st]) : s.stream? st.id = some st := by
  unfold State.stream?
  rw [hst, List.find?_cons, beq_self_eq_true]

theorem modStream_only (hst : s.graph.streams = [st]) (f : Machine.Stream → Machine.Stream) : s.modStream st.id f = { s with graph := { s.graph with streams := [f st] } } := by
  have hmap : s.graph.streams.map (fun x => if x.id == st.id then f x else x) = [f st] := by
    rw [hst, List.map_cons, if_pos (beq_self_eq_true _), List.map_nil]
  show ({ s with graph := { s.graph with streams := s.graph.streams.map (fun x => if x.id == st.id then f x else x) } } : State) = _
  rw [hmap]

/-- Stream beats may begin (R208, R214). -/
theorem streamLive_of (hq : s.q % 8 = 0) (hres : s.resident st.o st.l = true) (hp : s.rot.pause = none) (htrip : s.trust.tripped = false) :
    s.streamLive st = true := by
  unfold State.streamLive
  rw [hq, hres, hp, htrip]
  rfl

/-! ### The start (R207) -/

/-- A placed stream is ready once each core of its reach holds its row and slot 0 is free there. -/
theorem streamReady_of (hplaced : st.placed = true) (hstart : st.started = false) (hfail : st.fail = none)
    (hrows : ∀ p ∈ State.reach st, (∃ x ∈ s.threads, x.strm = some st.id ∧ x.pl = p ∧ x.evicted = none ∧ x.readyAt ≤ s.beat) ∧
      ∀ x ∈ s.threads, x.pl = p → x.strm = none → x.slot ≠ some 0) : s.streamReady st = true := by
  unfold State.streamReady
  rw [hplaced, hstart, hfail]
  simp only [Option.isNone_none, Bool.not_false, Bool.and_self, Bool.true_and, List.all_eq_true, Bool.and_eq_true]
  intro p hp
  obtain ⟨⟨x, hx, hstrm, hpl, hev, hready⟩, hfree⟩ := hrows p hp
  constructor
  · refine List.any_eq_true.mpr ⟨x, hx, ?_⟩
    simp [hstrm, hpl, hev, hready]
  · rw [Bool.not_eq_true', List.any_eq_false]
    intro y hy
    simp only [Bool.and_eq_true, beq_iff_eq, Option.isNone_iff_eq_none, not_and]
    rintro ⟨hpl, hslot⟩ hstrm
    exact hfree y hy hpl hstrm hslot

theorem streamStart_starts (hst : s.graph.streams = [st]) (hready : s.streamReady st = true) (hlive : s.streamLive st = true) : exec (.streamStart st.id) s =
    .next { s with graph := { s.graph with streams := [{ st with started := true, fpc := st.proto.pc }] },
                   threads := s.threads.map (fun x => if x.strm = some st.id then { x with slot := some 0 } else x) } := by
  change execStreamStart st.id s = _
  unfold execStreamStart
  simp only [stream?_only hst, hready, hlive, modStream_only hst, Bool.and_self, if_true, beq_iff_eq]

/-! ### A stream beat (R208, R214) -/

/-- The number of the stream beat that comes next. -/
def nextStreamBeat (st : Machine.Stream) : Nat := match st.beat with | some b => b + 1 | none => 0

/-- What the stream's beat becomes. -/
def beatAfter (st : Machine.Stream) : Option Nat := match st.beat with | some b => some (b + 1) | none => some 0

theorem some_nextStreamBeat (st : Machine.Stream) : some (nextStreamBeat st) = beatAfter st := by
  unfold nextStreamBeat beatAfter
  cases st.beat <;> rfl

theorem exec_streamBeatBegin (hst : s.graph.streams = [st]) (hstart : st.started = true) (hfail : st.fail = none) (hlive : s.streamLive st = true) :
    exec (.streamBeatBegin st.id) s = .next ((s.beginBeat st).getD (s.modStream st.id (fun x => { x with frozen := true }))) := by
  change execStreamBeatBegin st.id s = _
  unfold execStreamBeatBegin
  simp only [stream?_only hst, hstart, hfail, hlive, Option.isNone_none, Bool.and_self, if_true]
  cases s.beginBeat st <;> rfl

/-- A thread of the stream keeps stream beat b from beginning: a result that is due is not there, or its row or its core is not (R214, R330, R400). -/
def keepsBack (s : State) (b : Nat) (x : Thread) : Bool :=
  (State.dueOps x b).any (·.res.isNone) || x.evicted.isSome || decide (s.beat < x.readyAt) || x.owed || s.coreDown x.pl

/-- Stream beat b begins, where nothing keeps it back and its bundle meets no condition of R214. -/
def beatOf (s : State) (st : Machine.Stream) (b : Nat) : Option State :=
  if (s.streamThreads st.id).any (keepsBack s b) then none
  else match (s.beatOpens st b).1.inject (s.beatOpens st b).2 with
    | none => none
    | some (t, z) =>
      if (t.streamThreads st.id).any (t.coreHolds z b) || (t.startingParts st.id b).any (fun k => match t.partAt k with | some x => !t.partReady x.1 x.2 | none => false) then none
      else some ((t.startingParts st.id b).foldl (fun (s : State) k => match s.partAt k with | some x => s.startPart x.1 x.2 | none => s) (t.modStream st.id (fun _ => z)))

theorem beginBeat_eq (s : State) (st : Machine.Stream) : s.beginBeat st = beatOf s st (nextStreamBeat st) := rfl

/-- A timed result that is due and is not there holds the line (R214, condition 1). -/
theorem beginBeat_waits (h : ∃ x ∈ s.threads, x.strm = some st.id ∧ ∃ o ∈ x.ops, o.due = beatAfter st ∧ o.res = none) : s.beginBeat st = none := by
  obtain ⟨x, hx, hstrm, o, ho, hdue, hres⟩ := h
  have hmine : x ∈ s.streamThreads st.id := List.mem_filter.mpr ⟨hx, beq_iff_eq.mpr hstrm⟩
  have hop : o ∈ State.dueOps x (nextStreamBeat st) := List.mem_filter.mpr ⟨ho, beq_iff_eq.mpr (hdue.trans (some_nextStreamBeat st).symm)⟩
  have hlate : (State.dueOps x (nextStreamBeat st)).any (·.res.isNone) = true := List.any_eq_true.mpr ⟨o, hop, by rw [hres]; rfl⟩
  rw [beginBeat_eq]
  refine if_pos (List.any_eq_true.mpr ⟨x, hmine, ?_⟩)
  unfold keepsBack
  rw [hlate]
  rfl

/-- A stream beat turns the links of the beat before over to the neighbours (R209). -/
def turnedOver (sid : Nat) (x : Thread) : Thread := if x.strm = some sid then { x with linksPrev := x.links } else x
/-- Every core of the stream has turned its links over. -/
def linksTurned (s : State) (sid : Nat) : State := { s with threads := s.threads.map (turnedOver sid) }
/-- The stream in its next beat, with nothing injected yet. -/
def beatOn (s : State) (st : Machine.Stream) : Machine.Stream := { st with beat := beatAfter st, began := s.beat, frozen := false }

/-- What the next stream beat asks of the threads, the copies and the engines of the device, where none of them has anything under way (R214, R330, R400). -/
def Unhindered (s : State) : Prop :=
  (∀ x ∈ s.threads, x.ops = [] ∧ x.evicted = none ∧ x.readyAt ≤ s.beat ∧ x.owed = false ∧ s.coreDown x.pl = false) ∧ s.cmds = [] ∧
    ∀ c ∈ s.cores, ∀ m ∈ c.mbox, m.mb ≠ 4

theorem dueOps_none {x : Thread} (h : x.ops = []) (b : Nat) : State.dueOps x b = [] := by unfold State.dueOps; rw [h]; rfl

theorem landDue_none {x : Thread} (h : x.ops = []) (b : Nat) : State.landDue st b x = x := by
  unfold State.landDue
  rw [dueOps_none h]
  rfl

/-- With no result due, a stream beat opens with the links alone. -/
theorem beatOpens_idle (h : ∀ x ∈ s.threads, x.ops = []) : s.beatOpens st (nextStreamBeat st) = (linksTurned s st.id, beatOn s st) := by
  have hthreads : s.threads.map (fun (t : Thread) => if t.strm == some st.id then State.landDue st (nextStreamBeat st) { t with linksPrev := t.links } else t) =
      s.threads.map (turnedOver st.id) := List.map_congr_left fun x hx => by
    have hland : State.landDue st (nextStreamBeat st) { x with linksPrev := x.links } = { x with linksPrev := x.links } := landDue_none (by exact h x hx) _
    unfold turnedOver
    simp only [beq_iff_eq, hland]
  have hfaults : ∀ (ts : List Thread) (z : Machine.Stream), (∀ x ∈ ts, x.ops = []) → State.dueFaults ts (nextStreamBeat st) z = z := fun ts z hts => by
    unfold State.dueFaults
    induction ts with
    | nil => rfl
    | cons x ts ih =>
      rw [List.foldl_cons, dueOps_none (hts x List.mem_cons_self)]
      exact ih fun y hy => hts y (List.mem_cons_of_mem x hy)
  unfold State.beatOpens
  rw [hthreads, hfaults (s.streamThreads st.id) _ fun x hx => h x (List.mem_filter.mp hx).1, some_nextStreamBeat]
  rfl

/-- No copy waits for a mailbox (R246). -/
theorem no_mailbox_wait (h : ∀ c ∈ s.cores, ∀ m ∈ c.mbox, m.mb ≠ 4) (p : Place) : (s.core p).mbox.any (fun m => m.mb == 4) = false := by
  rw [List.any_eq_false]
  intro m hm
  obtain ⟨c, hc, hm⟩ := mem_mbox_core hm
  simpa using h c hc m hm

/-- An unhindered stream beat begins: once its bundle is injected and no core meets a condition by it, the stream goes on. -/
theorem beginBeat_goes {t : State} {z : Machine.Stream} (h : Unhindered s)
    (hinj : (linksTurned s st.id).inject (beatOn s st) = some (t, z)) (hcmds : t.cmds = [])
    (hcores : ∀ x ∈ t.threads, t.coreHolds z (nextStreamBeat st) x = false) : s.beginBeat st = some (t.modStream st.id (fun _ => z)) := by
  obtain ⟨hthreads, -, -⟩ := h
  have hfree : (s.streamThreads st.id).any (keepsBack s (nextStreamBeat st)) = false := by
    rw [List.any_eq_false]
    intro x hx
    obtain ⟨hops, hev, hready, howed, hdown⟩ := hthreads x (List.mem_filter.mp hx).1
    unfold keepsBack
    rw [dueOps_none hops, hev, howed, hdown, decide_eq_false (Nat.not_lt.mpr hready)]
    exact Bool.false_ne_true
  have hheld : (t.streamThreads st.id).any (t.coreHolds z (nextStreamBeat st)) = false :=
    List.any_eq_false.mpr fun x hx => by rw [hcores x (List.mem_filter.mp hx).1]; exact Bool.false_ne_true
  have hparts : t.startingParts st.id (nextStreamBeat st) = [] := by unfold State.startingParts; rw [hcmds]; rfl
  rw [beginBeat_eq]
  unfold beatOf
  rw [if_neg (by rw [hfree]; exact Bool.false_ne_true), beatOpens_idle fun x hx => (hthreads x hx).1]
  simp only [hinj, hparts, hheld, List.any_nil, Bool.or_self, Bool.false_eq_true, if_false, List.foldl_nil]

/-! ### What a stream beat injects (R208, R210, R214) -/

theorem settles_fetchTouch (s : State) (p : Place) (a : Addr) : Settles s (s.fetchTouch p a) := by
  unfold State.fetchTouch
  dsimp only
  split
  · exact settles_ite (settles_drawn s) (settles_trans (settles_drawn s) (settles_chargeMem _ _ _))
  · exact settles_refl s

theorem advance_fresh (h : st.inj = []) : State.advance st = st := by
  unfold State.advance
  rw [h]
  rfl

/-- A closed stream injects nothing. -/
theorem inject_closed (hinj : st.inj = []) (hclosed : st.closed = true) : s.inject st = some (s, st) := by
  unfold State.inject
  rw [advance_fresh hinj]
  exact if_pos hclosed

/-- The control form of a bundle names no access to memory and is none that the fetch unit acts on, or the bundle has none. -/
def PlainControl (y : SBundle) : Prop :=
  ∀ i, State.control y = some i → instrAccess i = none ∧ i ≠ .send ∧ (∀ o, i ≠ .br o) ∧ ∀ d o, i ≠ .sloop d o

theorem unitChecks_plain {x : Bundle} (h : PlainControl { b := x.b, w := x.ws }) : s.unitChecks st x = some (st, none) := by
  unfold State.unitChecks
  cases hctl : State.control { b := x.b, w := x.ws } with
  | none => rfl
  | some i =>
    obtain ⟨-, hsend, hbr, hloop⟩ := h i hctl
    cases i with
    | send => exact absurd rfl hsend
    | br o => exact absurd rfl (hbr o)
    | sloop d o => exact absurd rfl (hloop d o)
    | _ => rfl

/-- The first bundle of a stream is injected as it is fetched. -/
theorem inject_plain {x : Bundle} (hinj : st.inj = []) (hclosed : st.closed = false) (hfetch : s.fetchBundle (State.origin st) st.fpc = .ok x)
    (hplain : PlainControl { b := x.b, w := x.ws }) :
    s.inject st = some (s.fetchTouch (State.origin st) st.fpc, { st with inj := [{ b := st.fpc, w := x.ws, flt := none }] }) := by
  have hnow : s.fetchNow (State.origin st) st.fpc = (s, .ok x) := by
    unfold State.fetchNow
    rw [hfetch]
  unfold State.inject
  rw [advance_fresh hinj, if_neg (by rw [hclosed]; exact Bool.false_ne_true), hnow]
  simp only [unitChecks_plain hplain, Option.bind_some, hinj, List.nil_append]

/-- A core performs none but the stream's bundles (R208). -/
theorem mem_of_bundleAt {c b : Nat} {y : SBundle} (h : State.bundleAt st c b = some y) : y ∈ st.inj := by
  unfold State.bundleAt at h
  split at h
  · cases h
  · exact List.mem_of_getElem? h

/-- No core meets a condition of R214 by a bundle whose form names no access to memory. -/
theorem coreHolds_plain (hbox : ∀ c ∈ s.cores, ∀ m ∈ c.mbox, m.mb ≠ 4) (hplain : ∀ y ∈ st.inj, ∀ i, State.control y = some i → instrAccess i = none) (b : Nat) (x : Thread) :
    s.coreHolds st b x = false := by
  unfold State.coreHolds
  rw [no_mailbox_wait hbox, Bool.false_or]
  split
  · rfl
  · rename_i y hy
    split
    · rfl
    · rename_i d hd
      have haccess : instrAccess d.i = none := hplain y (mem_of_bundleAt hy) d.i (by unfold State.control; rw [hd]; rfl)
      have hfree : ∀ u : State, u.accessHolds st d.i = false := fun u => by unfold State.accessHolds; rw [haccess]
      simp only [hfree, Bool.and_false]

/-- What the beginning of a stream beat leaves: the stream in its next beat, and the links of the beat before turned over. -/
def BeatBegun (s t : State) (z : Machine.Stream) : Prop :=
  SameBytes s t ∧ t.graph.streams = [z] ∧ t.threads = s.threads.map (turnedOver z.id)

/-- A closed stream's beat begins. -/
theorem streamBeatBegin_closed (hst : s.graph.streams = [st]) (hstart : st.started = true) (hfail : st.fail = none) (hlive : s.streamLive st = true) (h : Unhindered s)
    (hinj : st.inj = []) (hclosed : st.closed = true) : Next (exec (.streamBeatBegin st.id) s) (fun t => BeatBegun s t (beatOn s st)) := by
  obtain ⟨-, hcmds, hbox⟩ := id h
  have hbeat := beginBeat_goes h (inject_closed (s := linksTurned s st.id) (st := beatOn s st) hinj hclosed) hcmds
    (fun x _ => coreHolds_plain (s := linksTurned s st.id) (by exact hbox) (by rw [show (beatOn s st).inj = [] from hinj]; exact fun _ hy => absurd hy List.not_mem_nil) _ x)
  rw [exec_streamBeatBegin hst hstart hfail hlive, hbeat, Option.getD_some, modStream_only (by exact hst)]
  exact next_of ⟨fun _ => rfl, rfl, rfl⟩

/-- An open stream's first beat injects its bundle. -/
theorem streamBeatBegin_injects {x : Bundle} (hst : s.graph.streams = [st]) (hstart : st.started = true) (hfail : st.fail = none) (hlive : s.streamLive st = true)
    (h : Unhindered s) (hinj : st.inj = []) (hclosed : st.closed = false) (hfetch : s.fetchBundle (State.origin st) st.fpc = .ok x)
    (hplain : PlainControl { b := x.b, w := x.ws }) :
    Next (exec (.streamBeatBegin st.id) s) (fun t => BeatBegun s t { beatOn s st with inj := [{ b := st.fpc, w := x.ws, flt := none }] }) := by
  obtain ⟨-, hcmds, hbox⟩ := id h
  have hinject := inject_plain (s := linksTurned s st.id) (st := beatOn s st) hinj hclosed hfetch hplain
  have hset := settles_fetchTouch (linksTurned s st.id) (State.origin (beatOn s st)) (beatOn s st).fpc
  generalize State.fetchTouch _ _ _ = u at hinject hset
  have hgraph : u.graph = s.graph := (graph_of_settles hset).trans rfl
  have hthreads : u.threads = s.threads.map (turnedOver st.id) := by rw [hset.1]; rfl
  have hucmds : u.cmds = [] := by rw [hset.1]; exact hcmds
  have hubox : ∀ c ∈ u.cores, ∀ m ∈ c.mbox, m.mb ≠ 4 := by rw [hset.1]; exact hbox
  have hbeat := beginBeat_goes h hinject hucmds (fun y _ => coreHolds_plain hubox (fun z hz i hi => by
    obtain rfl := List.mem_singleton.mp hz
    obtain ⟨haccess, -⟩ := hplain i hi
    exact haccess) _ y)
  rw [exec_streamBeatBegin hst hstart hfail hlive, hbeat, Option.getD_some, modStream_only (hgraph ▸ hst)]
  exact next_of ⟨fun a => sameBytes_of_settles hset a, rfl, hthreads⟩

/-! ### A core's turn (R208, R209) -/

/-- The core's thread stands at its bundle of the present stream beat, with its neighbours' links read. -/
def atStreamBundle (s : State) (st : Machine.Stream) (x : SBundle) : State :=
  (s.latch x.b (4 * x.w.length) (s.linked st s.me)).setPc (x.b + BitVec.ofNat 48 (4 * x.w.length))

/-- A bundle whose words all decode and pass every check, and in which the fetch unit has found no fault, is performed (R82, R211). -/
theorem streamTurn_performs {x : SBundle} (hx : State.bundleAt st s.me.pl.c (st.beat.getD 0) = some x) (hflt : x.flt = none) (hwords : firstWord wordSub 0 x.w = none)
    (hform : (atStreamBundle s st x).formFault x.b (decoded x.w) = none) :
    s.streamTurn st = State.turnDone s.me.pl 0 true ((atStreamBundle s st x).performBundle (decoded x.w)) := by
  unfold atStreamBundle at hform ⊢
  unfold State.streamTurn
  simp only [hx, hwords, hform, hflt]

theorem step_stream (hctl : s.clk.ctl = .issue) (hstrm : s.me.strm = some sid) (hst : s.stream? sid = some st) :
    step s = State.streamTurn { s with clk := { s.clk with ctl := .pick } } st := by
  have hst' : State.stream? { s with clk := { s.clk with ctl := .pick } } sid = some st := hst
  unfold step State.issueTurn
  simp only [hctl, hstrm, hst']

/-! ### The end (R212, R216) -/

/-- Threads leave their rows with what they wait for. -/
def withoutThreads (s : State) (ts : List Thread) : State := ts.foldl (fun (s : State) t => (s.dropWaits t.uid).dropThread t.uid) s

theorem withoutThreads_keeps (ts : List Thread) : ∀ s : State, (withoutThreads s ts).mem = s.mem ∧ (withoutThreads s ts).graph = s.graph ∧
    ∀ y ∈ (withoutThreads s ts).threads, y ∈ s.threads ∧ ∀ t ∈ ts, y.uid ≠ t.uid := by
  induction ts with
  | nil => exact fun s => ⟨rfl, rfl, fun y hy => ⟨hy, fun _ ht => absurd ht List.not_mem_nil⟩⟩
  | cons t ts ih =>
    intro s
    obtain ⟨hmem, hgraph, hthreads⟩ := ih ((s.dropWaits t.uid).dropThread t.uid)
    refine ⟨hmem, hgraph, fun y hy => ?_⟩
    obtain ⟨hy', hrest⟩ := hthreads y hy
    obtain ⟨hin, hne⟩ := List.mem_filter.mp hy'
    exact ⟨hin, List.forall_mem_cons.mpr ⟨by simpa using hne, hrest⟩⟩

/-- The rows of several threads are offered, while nothing but evicted rows waits for one. -/
theorem onlyRows_offerRows (ts : List Thread) : ∀ {s : State}, (∀ k ∈ s.graph.packets, k.stage ≠ .spilled) → s.graph.placing = [] → s.graph.streams = [] →
    OnlyRows s (ts.foldl (fun (s : State) t => s.offerRow t.pl) s) := by
  induction ts with
  | nil => exact fun _ _ _ => onlyRows_refl _
  | cons t ts ih =>
    intro s hpk hpl hst
    have hfirst := onlyRows_offerRow t.pl hpk hpl hst
    obtain ⟨-, hgraph, -, -⟩ := id hfirst
    exact hfirst.trans (ih (hgraph ▸ hpk) (hgraph ▸ hpl) (hgraph ▸ hst))

/-- The parts of the stream's commands that have not begun are given up (R216). -/
def givenUp (s : State) (sid : Nat) : State :=
  { s with cmds := s.cmds.map (fun (c : Cmd) => if c.strm == some sid && c.startAt.isSome then
    { c with parts := c.parts.map (fun (p : Part) => if p.started then p else { p with started := true, done := true, code := 8, sub := 2 }) } else c) }

/-- The stream is no more: its rows and what it has waiting are gone. -/
def unstreamed (s : State) (st : Machine.Stream) : State :=
  (givenUp (withoutThreads s (s.streamThreads st.id)) st.id).modGraph (fun g =>
    { g with streams := g.streams.filter (fun x => x.id != st.id), placing := g.placing.filter (fun p => p.t.strm != some st.id) })

theorem unstreamed_streams (hst : s.graph.streams = [st]) : (unstreamed s st).graph.streams = [] := by
  obtain ⟨-, hgraph, -⟩ := withoutThreads_keeps (s.streamThreads st.id) s
  show (withoutThreads s (s.streamThreads st.id)).graph.streams.filter (fun x => x.id != st.id) = []
  rw [hgraph, hst]
  simp

theorem unstreamed_placing (hpl : s.graph.placing = []) : (unstreamed s st).graph.placing = [] := by
  obtain ⟨-, hgraph, -⟩ := withoutThreads_keeps (s.streamThreads st.id) s
  show (withoutThreads s (s.streamThreads st.id)).graph.placing.filter (fun p => p.t.strm != some st.id) = []
  rw [hgraph, hpl]
  rfl

/-- No thread of the stream is left. -/
theorem unstreamed_threads (s : State) (st : Machine.Stream) : ∀ y ∈ (unstreamed s st).threads, y.strm ≠ some st.id := fun y hy hstrm => by
  obtain ⟨-, -, hthreads⟩ := withoutThreads_keeps (s.streamThreads st.id) s
  obtain ⟨hin, hne⟩ := hthreads y hy
  exact hne y (List.mem_filter.mpr ⟨hin, beq_iff_eq.mpr hstrm⟩) rfl

theorem endStream_eq (hpl : s.graph.placing = []) (f : Option FailRep) : s.endStream st f =
    ((s.streamThreads st.id).foldl (fun (s : State) t => s.offerRow t.pl) (unstreamed s st)).taskEnd st.o st.tid { launch := st.launch, node := st.node } f := by
  have hpump : (unstreamed s st).pumpStreams (unstreamed s st).graph.placing.length = unstreamed s st := by
    rw [unstreamed_placing hpl]
    rfl
  conv_rhs => rw [← hpump]
  rfl

/-- A stream ends with its rows and its task, while no other work waits for a row or belongs to its launch. -/
theorem endStream_ends (hst : s.graph.streams = [st]) (hpl : s.graph.placing = []) (hpk : s.graph.packets = []) (hl : s.graph.launches = []) (f : Option FailRep) :
    let t := s.endStream st f
    SameBytes s t ∧ t.graph.streams = [] ∧ ∀ x ∈ t.threads, x.strm ≠ some st.id := by
  obtain ⟨wmem, wgraph, -⟩ := withoutThreads_keeps (s.streamThreads st.id) s
  have hpackets : (unstreamed s st).graph.packets = [] := (congrArg Graph.packets wgraph).trans hpk
  have hlaunches : (unstreamed s st).graph.launches = [] := (congrArg Graph.launches wgraph).trans hl
  obtain ⟨hmem, hgraph, hthreads, -⟩ := onlyRows_offerRows (s.streamThreads st.id) (s := unstreamed s st)
    (by rw [hpackets]; exact fun _ hk => absurd hk List.not_mem_nil) (unstreamed_placing hpl) (unstreamed_streams hst)
  intro t
  have ht : t = _ := (endStream_eq hpl f).trans (taskEnd_idle (by rw [hgraph]; exact hlaunches) _ _ _ _)
  rw [ht]
  refine ⟨sameBytes_of_mem (hmem.trans wmem), (congrArg Graph.streams hgraph).trans (unstreamed_streams hst), fun y hy => ?_⟩
  obtain ⟨x, hx, -, hstrm⟩ := hthreads y hy
  rw [hstrm]
  exact unstreamed_threads s st x hx

/-- A stream with no store on its way ends once its cores have exited and its results have landed. -/
theorem execStreamEnd_ends (hst : s.graph.streams = [st]) (hlive : s.streamLive st = true) (hstart : st.started = true) (hfail : st.fail = none)
    (hexit : ∀ p ∈ State.reach st, p.c ∈ st.exited) (hdone : ∀ x ∈ s.threads, x.strm = some st.id → x.ops = [] ∧ x.owed = false) (hnet : s.net = []) :
    exec (.streamEnd st.id) s = .next (s.endStream st none) := by
  have hmine : ∀ x ∈ s.streamThreads st.id, x.ops = [] ∧ x.owed = false := fun x hx => by
    obtain ⟨hin, hstrm⟩ := List.mem_filter.mp hx
    exact hdone x hin (beq_iff_eq.mp hstrm)
  have howed : (s.streamThreads st.id).any (·.owed) = false := List.any_eq_false.mpr fun x hx => by
    obtain ⟨-, h⟩ := hmine x hx
    rw [h]
    exact Bool.false_ne_true
  have hstores : s.storesDone st = true := by
    unfold State.storesDone
    rw [hnet]
    rfl
  have hstream : s.streamDone st = true := by
    unfold State.streamDone
    rw [Bool.and_eq_true, List.all_eq_true, List.all_eq_true]
    refine ⟨fun p hp => List.contains_iff_mem.mpr (hexit p hp), fun x hx => ?_⟩
    obtain ⟨h, -⟩ := hmine x hx
    rw [h]
    rfl
  change execStreamEnd st.id s = _
  unfold execStreamEnd
  simp only [stream?_only hst, hstart, hlive, hfail, howed, hstores, hstream, Option.isSome_none, Option.map_none, Bool.false_and, Bool.or_false, Bool.false_or,
    Bool.not_false, Bool.and_self, if_true]

end

/-! ### The statement -/

/-- Settles O36: a stream starts, its beat begins or waits, a core takes its turn, and the stream ends, each clause by the lemma of its row. -/
theorem streamsAdvance : Obligations.StreamsAdvance := by
  unfold Obligations.StreamsAdvance
  intro s sid st hst hid hq hres hp htrip
  subst hid
  have hlive := streamLive_of hq hres hp htrip
  refine ⟨fun hplaced hstart hfail hrows => ?_, fun hstart hfail hclosed hinj hthreads hcmds hbox => ?_,
    fun x hstart hfail hclosed hinj hthreads hcmds hbox hfetch hplain => ?_, ?_, fun hstart hfail hlate => ?_,
    fun hstart hfail hexit hdone hnet hpl hpk hl => ?_⟩
  · exact next_of_eq (streamStart_starts hst (streamReady_of hplaced hstart hfail hrows) hlive) (next_of ⟨fun _ => rfl, rfl, rfl⟩)
  · exact streamBeatBegin_closed hst hstart hfail hlive ⟨hthreads, hcmds, hbox⟩ hinj hclosed
  · exact streamBeatBegin_injects hst hstart hfail hlive ⟨hthreads, hcmds, hbox⟩ hinj hclosed hfetch hplain
  · intro x hctl hstrm hx hflt hwords s0 s1 hform
    exact (step_stream hctl hstrm (stream?_only hst)).trans (streamTurn_performs (s := s0) hx hflt hwords hform)
  · refine next_of_eq (exec_streamBeatBegin hst hstart hfail hlive) (next_of ?_)
    rw [beginBeat_waits hlate]
    exact modStream_only hst _
  · exact next_of_eq (execStreamEnd_ends hst hlive hstart hfail hexit hdone hnet) (next_of (endStream_ends hst hpl hpk hl none))

end Sys2Proof.Laws

/-! SUPPORT. StepStops: what the device does of its own accord, the turns and the choice of a step all answer a next state; memory at reset; O56 and O59. -/

namespace Sys2Proof.Laws

open Sys2Proof.Machine Sys2Proof.Safety

section
variable {s : State}

/-! ### What the device does of its own accord -/

theorem answers_ite {c : Prop} [Decidable c] {r r' : Res} (h : c → Answers r) (h' : ¬c → Answers r') : Answers (if c then r else r') := by
  split
  · exact h ‹_›
  · exact h' ‹_›

theorem answers_exec (i : Instr) (s : State) : Answers (exec i s) := everyMeaningAnswersNext i s

/-- The four steps of units that are no rows of the table. -/
theorem answers_engineFetch (cid : Nat) : Answers (execEngineFetch cid s) := by
  unfold execEngineFetch
  dsimp only
  (repeat' split) <;> exact answers_next _
theorem answers_engineStep (cid i j : Nat) : Answers (execEngineStep cid i j s) := by
  unfold execEngineStep
  dsimp only
  (repeat' split) <;> exact answers_next _
theorem answers_engineWrite (cid : Nat) : Answers (execEngineWrite cid s) := by
  unfold execEngineWrite
  dsimp only
  (repeat' split) <;> exact answers_next _
theorem answers_copyWrite (p : Place) : Answers (execCopyWrite p s) := by
  unfold execCopyWrite
  (repeat' split) <;> exact answers_next _

theorem answers_dispatch : Answers (s.run .dispatch) := by
  rw [State.run]
  split
  · exact answers_exec (.taskDispatch _) s
  · exact answers_next _

/-- A request is performed by the row of its kind. -/
theorem answers_runRequest (id : Nat) : Answers (s.runRequest id) := by
  unfold State.runRequest
  split
  · exact answers_next _
  · next r _ =>
    cases r.kind with
    | load => exact answers_exec (.remoteLoadServe id) s
    | store | evpost => exact answers_exec (.storePerform id) s
    | ldfe | ldff | stfe | stf | feClr | lrw | scq | rsvRel => exact answers_exec (.syncOpArrive id) s
    | amo => exact answers_exec (.amoPerform id) s
    | red | redF => exact answers_exec (.reductionPerform id) s
    | region => exact answers_exec (.atomicRegionPerform id) s
    | barInit | barArrive | barWait | barSync => exact answers_exec (.barrierOpArrive id) s
    | push => exact answers_exec (.queuePushArrive id) s
    | msg | mrecv => exact answers_exec (.messageArrive id) s
    | spawn => exact answers_exec (.recordArrive id) s
    | wstat => exact answers_exec (.installRequestArrive id) s

/-- Every step of the device is a row, or one of its units at work. -/
theorem answers_run (d : Due) : Answers (s.run d) := by
  cases d with
  | issueResume => exact answers_exec .issueResume s
  | rotationDue => exact answers_exec .rotationDue s
  | switchDue => exact answers_exec .switchDue s
  | slotMapSwitch => exact answers_exec .slotMapSwitch s
  | moveEnd => exact answers_exec .moveEnd s
  | rotationMove => exact answers_exec .rotationMove s
  | routerFlush => exact answers_exec .routerFlush s
  | memoryDrainEnd => exact answers_exec .memoryDrainEnd s
  | engineStepStop cid i j => exact answers_exec (.engineStepStop cid i j) s
  | freezeStart o => exact answers_exec (.freezeStart o) s
  | sfuResultLand id => exact answers_exec (.sfuResultLand id) s
  | sfuAccept o l c => exact answers_exec (.sfuAccept o l c) s
  | streamEnd sid => exact answers_exec (.streamEnd sid) s
  | streamStart sid => exact answers_exec (.streamStart sid) s
  | streamBeatBegin sid => exact answers_exec (.streamBeatBegin sid) s
  | beatBoundary => exact answers_exec .beatBoundary s
  | engineArrive cid i j => exact answers_exec (.engineCommandArrive cid i j) s
  | engineStart cid i j => exact answers_exec (.engineCommandStart cid i j) s
  | engineFetch cid => exact answers_engineFetch cid
  | engineStep cid i j => exact answers_engineStep cid i j
  | engineWrite cid => exact answers_engineWrite cid
  | copyWrite p => exact answers_copyWrite p
  | engineComplete cid => exact answers_exec (.engineCommandComplete cid) s
  | mfenceComplete uid => exact answers_exec (.mfenceComplete uid) s
  | meteringInterval => exact answers_exec .meteringInterval s
  | meteringWrite => exact answers_exec .meteringRecordWrite s
  | copyBegin p => exact answers_exec (.copyCommandBegin p.o p.l p.c) s
  | copyTurn p => exact answers_exec (.copyUnitTurn p.o p.l p.c) s
  | copyComplete p => exact answers_exec (.copyCommandComplete p.o p.l p.c) s
  | land uid id => exact answers_exec (.longResultLand uid id) s
  | depart uid => exact answers_exec (.migrationDepart uid) s
  | arrive pid => exact answers_exec (.packetArrive pid) s
  | exit uid => exact answers_exec (.exitComplete uid) s
  | fence uid => exact answers_exec (.fenceComplete uid) s
  | request id => exact answers_runRequest id
  | record id => exact answers_exec (.recordArrive id) s
  | launch q => exact answers_exec (.launchStart q) s
  | dispatch => exact answers_dispatch
  | walkEnd wid => exact answers_exec (.tlbWalkEnd wid) s
  | tlbinvAck uid => exact answers_exec (.tlbinvAck uid) s
  | pairExchange uid => exact answers_exec (.pairExchange uid) s
  | waypart n => exact answers_exec (.waypartComplete n) s
  | restore uid => exact answers_exec (.rowRestore uid) s
  | installArrive id => exact answers_exec (.installRequestArrive id) s
  | installPage id => exact answers_exec (.installPageProgrammed id (s.free.getLsbD 0)) s.drawn
  | installEnd id => exact answers_exec (.installEnd id) s
  | accept k => exact answers_exec (.eventAccept k) s
  | localStop o => exact answers_exec (.localStop o) s
  | slateWrite => exact answers_exec .slateWriteImage s
  | slateRestore => exact answers_exec .slateRestore s
  | slateEnd code => exact answers_exec (.slateCommandEnd code) s
  | tiles => exact answers_exec .teardownTiles s
  | slices => exact answers_exec .teardownSlices s
  | dram => exact answers_exec .teardownDram s
  | areas => exact answers_exec .teardownAreas s
  | keys => exact answers_exec .teardownKeys s
  | pullTimeout o page => exact answers_exec (.pullTimeout o page) s
  | boot => exact answers_exec .obsidianBoot s
  | drainEnd | launchEnd | verify | evict | outward | rowOffer | scrubUnit | pullPump | hostPump | patrolRead | patrolEnd | flashErrs | reset => exact answers_next _

/-! ### Bundles and turns (R54, R70, R82) -/

theorem answers_turnDone {p : Place} {slot : Nat} {b : Bool} {r : Res} (h : Answers r) : Answers (State.turnDone p slot b r) := by
  obtain ⟨t, rfl⟩ := h
  exact answers_next _
theorem answers_closeTurn {p : Place} {slot : Nat} {r : Res} (h : Answers r) : Answers (State.closeTurn p slot r) := by
  obtain ⟨t, rfl⟩ := h
  exact answers_next _
theorem answers_buried {r : Res} (h : Answers r) : Answers (State.buried r) := by
  obtain ⟨t, rfl⟩ := h
  exact answers_next _

theorem answers_performWord (d : Decoded) : Answers (s.performWord d) := answers_ite (fun _ => answers_exec d.i s) (fun _ => answers_next _)

theorem answers_performBundle (ds : List Decoded) : Answers (s.performBundle ds) := by
  induction ds generalizing s with
  | nil => exact answers_next _
  | cons d ds ih =>
    cases ds with
    | nil => exact answers_performWord d
    | cons d' ds =>
      unfold State.performBundle
      obtain ⟨s', e⟩ := answers_performWord (s := s) d
      rw [e]
      exact answers_ite (fun _ => ih) (fun _ => answers_next _)

theorem answers_performDecoded (b : Addr) (ds : List Decoded) : Answers (s.performDecoded b ds) := by
  unfold State.performDecoded
  extract_lets z src s1 before stray
  refine answers_ite (fun _ => answers_next _) fun _ => ?_
  obtain ⟨t, e⟩ := answers_performBundle (s := s1) ds
  rw [e]
  exact answers_next _

theorem answers_performFormed (x : Bundle) : Answers (s.performFormed x) := by
  unfold State.performFormed
  split
  · exact answers_exec (.unassignedWord _) _
  · dsimp only
    split
    · exact answers_next _
    · exact answers_performDecoded _ _

theorem answers_taskTurn : Answers s.taskTurn := by
  unfold State.taskTurn
  dsimp only
  split
  · exact answers_closeTurn (answers_next _)
  · split
    · exact answers_closeTurn (answers_next _)
    · exact answers_closeTurn (answers_next _)
    · exact answers_closeTurn (answers_exec (.instructionFetchFault _ _) _)
    · exact answers_closeTurn (answers_next _)
    · exact answers_turnDone (answers_performFormed _)

theorem answers_streamTurn (st : Machine.Stream) : Answers (s.streamTurn st) := by
  unfold State.streamTurn
  dsimp only
  split
  · exact answers_next _
  · refine answers_turnDone ?_
    split
    · exact answers_exec (.unassignedWord _) _
    · split
      · exact answers_next _
      · split
        · exact answers_ite (fun _ => answers_next _) (fun _ => answers_next _)
        · exact answers_performBundle _

theorem answers_issueTurn : Answers s.issueTurn := by
  unfold State.issueTurn
  split
  · exact answers_taskTurn
  · split
    · exact answers_streamTurn _
    · exact answers_next _

/-! ### The choice of a step (R54, R423) -/

theorem answers_takeInput (i : Instr) : Answers (s.takeInput i) := answers_ite (fun _ => answers_exec i _) (fun _ => answers_next _)

theorem answers_perform (x : State.Pick) : Answers (s.perform x) := by
  cases x with
  | clock | turn => exact answers_next _
  | due d => exact answers_buried (answers_run d)
  | input i => exact answers_buried (answers_takeInput i)

/-- A powered device may always let its clock or a turn go on, so only one without power has nothing to pick (log 77). -/
theorem unpowered_of_picks_nil (h : s.picks = []) : s.clk.inputs = [] ∧ s.trust.power = false := by
  unfold State.picks at h
  obtain ⟨hin, hpow⟩ := List.append_eq_nil_iff.mp h
  have hp : s.trust.power = false := by
    by_contra hp
    cases htodo : s.clk.todo <;> simp [hp, htodo] at hpow
  exact ⟨by simpa using hin, hp⟩

theorem pickStep_answers_or_unpowered : Answers s.pickStep ∨ (s.pickStep = .fault .unpowered ∧ s.clk.inputs = [] ∧ s.trust.power = false) := by
  unfold State.pickStep
  split
  · exact .inl (answers_buried (answers_run _))
  · split
    · next h => exact .inr ⟨rfl, unpowered_of_picks_nil h⟩
    · exact .inl (answers_perform _)

end

/-- Settles O59: every row, unit and turn answers a next state, and the choice of a step has nothing to choose only without power and input. -/
theorem stepStopsOnlyUnpowered : Obligations.StepStopsOnlyUnpowered := by
  unfold Obligations.StepStopsOnlyUnpowered
  intro s
  unfold step
  cases hctl : s.clk.ctl with
  | issue => exact .inl answers_issueTurn
  | pick => exact pickStep_answers_or_unpowered.imp id fun ⟨hf, hin, hp⟩ => ⟨hf, rfl, hin, hp⟩

/-- Settles O56: no byte is listed at reset. -/
theorem resetMemoryOk : Obligations.ResetMemoryOk := by
  unfold Obligations.ResetMemoryOk
  exact empty_wf

end Sys2Proof.Laws

/-! SUPPORT. UnitForms: a descriptor in the own scratchpad, group registers, matrix commands and markers, and O21; copy commands, channels and publish, and O22;
install commands, and O23. -/

namespace Sys2Proof.Laws

open Sys2Proof.Machine Sys2Proof.Safety

/-! ### A descriptor in the own scratchpad (R223, R244) -/

/-- The quads of the 64 bytes at an offset of the thread's own scratchpad. -/
def ownDesc (s : State) (off : Nat) : List Word := quadsOf 8 (s.mem.read (scrKey s.me.pl off) 64)

section
variable {s : State} {a : Fin 16} {off : Nat}

/-- A descriptor that nothing holds back is read as it stands. -/
theorem withDesc_own (h : OwnScratch s (ea0 (s.rS a)) 64 off) (k : Addr → List Word → Res) : s.withDesc a k = k (ea0 (s.rS a)) (ownDesc s off) := by
  obtain ⟨-, halign, hregion, -, -, -⟩ := id h
  unfold State.withDesc
  simp only [halign, hregion, bne_self_eq_false, Bool.false_eq_true, if_false, if_true]
  rw [withOwn_own h, withChan_own h]
  rfl

end

/-! ### Group registers (R222) -/

/-- The fields of a capability (R219). -/
theorem cap_fields (c : Word) : capSlot c = c.toNat / 2 ^ 24 % 256 ∧ capGc c = c.toNat % 8 + 1 ∧ capX c = c.toNat / 2 ^ 16 % 16 ∧
    capGr c = c.toNat / 2 ^ 8 % 16 + 1 := by
  simp [capSlot, capGc, capX, capGr, bits]

section
variable {s : State} {e a : Fin 16}

theorem exec_mgrp : exec (.mgrp e a) s = execMgrp e a s := rfl

theorem mgrp_keeps (he : e.val < 4) (hslot : capSlot (s.rS a &&& capMask) + capGc (s.rS a &&& capMask) ≤ s.nslot s.me.pl.o)
    (hrow : capX (s.rS a &&& capMask) + capGr (s.rS a &&& capMask) ≤ 16) :
    execMgrp e a s = .next { s with me := { s.me with eg := s.me.eg.set e.val (s.rS a &&& capMask) } } := by
  unfold execMgrp
  rw [dif_pos he]
  dsimp only
  rw [if_neg (by omega), if_neg (by omega)]
  rfl

theorem mgrp_slots (hs : PlainTask s) (he : e.val < 4) (hslot : s.nslot s.me.pl.o < capSlot (s.rS a &&& capMask) + capGc (s.rS a &&& capMask)) :
    Next (execMgrp e a s) (fun t => TookFault s t 5 0 s.iss.b 0) := by
  unfold execMgrp
  rw [dif_pos he]
  dsimp only
  rw [if_pos hslot]
  exact next_of (tookFault_raise s 5 0 0 hs)

theorem mgrp_rows (hs : PlainTask s) (he : e.val < 4) (hslot : capSlot (s.rS a &&& capMask) + capGc (s.rS a &&& capMask) ≤ s.nslot s.me.pl.o)
    (hrow : 16 < capX (s.rS a &&& capMask) + capGr (s.rS a &&& capMask)) : Next (execMgrp e a s) (fun t => TookFault s t 2 3 s.iss.b s.iss.b) := by
  unfold execMgrp
  rw [dif_pos he]
  dsimp only
  rw [if_neg (by omega), if_pos hrow]
  exact next_of (tookFault_raise s 2 3 s.iss.b hs)

end

/-! ### Matrix commands (R223, R225) -/

theorem exec_matrixForms (s : State) (d a b : Fin 16) : ∀ p ∈ ([(.mclr d a b, 1), (.mmaG8 d a b, 2), (.mmaI8 d a b, 3), (.mmaBf16 d a b, 4),
    (.mmaG8bf d a b, 5), (.mrd d a b, 6), (.mrdq d a b, 7)] : List (Instr × Nat)), exec p.1 s = s.matForm p.2 d b a := by
  simp only [List.forall_mem_cons]
  exact ⟨rfl, rfl, rfl, rfl, rfl, rfl, rfl, List.forall_mem_nil _⟩

/-- The operation and the command of a matrix command that a task submits. -/
def matOp (s : State) (d : Fin 16) (ea : Addr) : Op := { s.newOp with dest := some (.s d), counts := true, acc := false, cmd := true, ea := ea, due := none }
def matCmd (s : State) (form : Nat) (cap : Word) (ea : Addr) (q : List Word) : Cmd :=
  { id := s.newId, uid := s.me.uid, pl := s.me.pl, fpc := s.iss.b, desc := ea, form := form, cap := cap, q := q, strm := none
    startAt := if mStart q = 0 then none else some (s.me.taskb + BitVec.ofNat 64 (mStart q)), parts := groupParts cap }
def matSubmitted (s : State) (d : Fin 16) (form : Nat) (cap : Word) (ea : Addr) (q : List Word) : State :=
  State.bump { s with me := s.me.addOp (matOp s d ea), cmds := s.cmds ++ [matCmd s form cap ea q] }

section
variable {s : State} {form off : Nat} {d b a : Fin 16}

theorem withEg_in {hb : b.val < 4} (k : Word → Res) : s.withEg b k = k s.me.eg[b.val] := dif_pos hb

theorem matForm_bad {n : Nat} (hs : PlainTask s) (hb : b.val < 4) (h : OwnScratch s (ea0 (s.rS a)) 64 off)
    (hbad : State.matBad false form s.me.eg[b.val] (ownDesc s off) = some n) :
    s.matForm form d b a = .next (s.raise 2 5 (ea0 (s.rS a) + BitVec.ofNat 48 (8 * n))) := by
  unfold State.matForm
  rw [withEg_in (hb := hb), withDesc_own h, inStream_task hs.1, hbad]

/-- A good descriptor is submitted, or the limit of R66 rewinds its thread. -/
theorem matForm_good (hs : PlainTask s) (hb : b.val < 4) (h : OwnScratch s (ea0 (s.rS a)) 64 off)
    (hgood : State.matBad false form s.me.eg[b.val] (ownDesc s off) = none) (hrange : s.matRange s.me.pl form s.me.eg[b.val] (ownDesc s off) = none)
    (hslot : form = 7 → bits (qd (ownDesc s off) 4) 23 16 < s.nslot s.me.pl.o) :
    s.matForm form d b a = if s.atLimit then .next (s.rewind .limit) else .next (matSubmitted s d form s.me.eg[b.val] (ea0 (s.rS a)) (ownDesc s off)) := by
  have hq : (decide (form = 7) && decide (s.nslot s.me.pl.o ≤ bits (qd (ownDesc s off) 4) 23 16)) = false := by
    simpa using hslot
  unfold State.matForm
  rw [withEg_in (hb := hb), withDesc_own h]
  simp only [inStream_task hs.1, hgood, hrange, hq, Bool.false_and, Bool.false_eq_true, if_false, State.dueAt, hs.1]
  rfl

/-- What a submitted matrix command adds to the state. -/
theorem matSubmitted_joins (cap : Word) (ea : Addr) (q : List Word) : ∃ x c,
    matSubmitted s d form cap ea q = { s with me := s.me.addOp x, cmds := s.cmds ++ [c], clk := { s.clk with id := s.clk.id + 1 } } ∧
    SameBytes s (matSubmitted s d form cap ea q) ∧ x.id = s.clk.id ∧ x.dest = some (.s d) ∧ x.counts = true ∧ x.cmd = true ∧ x.res = none ∧
    c.id = s.clk.id ∧ c.uid = s.me.uid ∧ c.form = form ∧ c.cap = cap ∧ c.q = q ∧ c.desc = ea ∧ c.parts = groupParts cap ∧
    c.startAt = if bits (qd q 7) 15 0 = 0 then none else some (s.me.taskb + BitVec.ofNat 64 (bits (qd q 7) 15 0)) :=
  ⟨matOp s d ea, matCmd s form cap ea q, rfl, fun _ => rfl, rfl, rfl, rfl, rfl, rfl, rfl, rfl, rfl, rfl, rfl, rfl, rfl, rfl⟩

/-! ### Markers (R239, R240) -/

/-- The operation of an mstat. -/
def mstatOp (s : State) (d : Fin 16) : Op := { s.newOp with dest := some (.s d), counts := true, acc := false, acq := true, cmd := true }

theorem exec_mstat (hb : b.val < 4) (hr : OpRoom s) :
    exec (.mstat d b) s = .next (s.markForm 8 s.me.eg[b.val] (mstatOp s d)) := by
  show execMstat d b s = _
  unfold execMstat
  rw [withEg_in (hb := hb), if_neg (by simp [not_full_of_room hr])]
  rfl

theorem exec_mfence (hb : b.val < 4) :
    exec (.mfence b) s = .next ((s.markForm 9 s.me.eg[b.val] { s.newOp with acc := false, cmd := true }).parkAfter (.mfence s.newId)) := by
  show execMfence b s = _
  unfold execMfence
  rw [withEg_in (hb := hb)]

end

/-- Settles O21: a descriptor in the own scratchpad is one that every matrix command checks in the same way and submits; the two markers carry none. The lowest
of several bad quads, scale arrays that are not read, PROTECTION before ILLEGAL_OPERAND and a poisoned descriptor read as it stands are the model's choices
(log 134, 135, 136, 93). -/
theorem engineCommandsIssue : Obligations.EngineCommandsIssue := by
  unfold Obligations.EngineCommandsIssue
  refine ⟨?_, ?_, ?_⟩
  · intro s d a c slot cols x rows
    obtain ⟨hslot, hcols, hx, hrows⟩ := cap_fields c
    rw [show slot = capSlot c from hslot.symm, show cols = capGc c from hcols.symm, show x = capX c from hx.symm, show rows = capGr c from hrows.symm]
    exact ⟨mgrp_keeps (e := d.castLE _) d.isLt, fun hs => mgrp_slots (e := d.castLE _) hs d.isLt, fun hs => mgrp_rows (e := d.castLE _) hs d.isLt⟩
  · intro s d a b off hs ea g cap q ho p hp
    rw [exec_matrixForms s d a g p hp]
    refine ⟨fun n hbad => ?_, fun hgood hrange hslot => ?_⟩
    · rw [matForm_bad (b := g) hs b.isLt ho hbad]
      exact next_of (tookFault_raise s 2 5 _ hs)
    · rw [matForm_good (b := g) hs b.isLt ho hgood hrange hslot]
      refine ⟨fun hroom => ?_, fun hfull => ?_⟩
      · rw [if_neg (by simp [atLimit_of_room hs.1 hroom])]
        exact next_of (matSubmitted_joins cap ea q)
      · rw [if_pos (atLimit_of_full hs.1 hfull)]
        exact next_of (rewound_rewind s .limit hs.2)
  · intro s d b g sent
    refine ⟨fun hroom => ?_, ?_⟩
    · rw [exec_mstat (b := g) b.isLt hroom]
      exact next_of ⟨mstatOp s d, ⟨_, rfl, fun _ => rfl, rfl, rfl, rfl, rfl, rfl, rfl, rfl⟩, rfl, rfl, rfl⟩
    · rw [exec_mfence (b := g) b.isLt]
      exact next_of ⟨{ s.newOp with acc := false, cmd := true }, ⟨_, rfl, fun _ => rfl, rfl, rfl, rfl, rfl, rfl, rfl, rfl⟩, rfl, rfl⟩

/-! ### Copy commands (R244) -/

theorem exec_copyForms (s : State) (a : Fin 16) : ∀ p ∈ ([(.cp1d a, 0), (.cp2d a, 1), (.cp3d a, 2), (.cpGather a, 3), (.cpScatter a, 4), (.cpFill a, 5)] :
    List (Instr × Nat)), exec p.1 s = s.copyForm p.2 a := by
  simp only [List.forall_mem_cons]
  exact ⟨rfl, rfl, rfl, rfl, rfl, rfl, List.forall_mem_nil _⟩

/-- The command of a copy form in a mailbox of its core. -/
def boxed (s : State) (kind k : Nat) (q : List Word) : Copy := { mb := k, id := s.newId, uid := s.me.uid, kind := kind, q := q }
def copySubmitted (s : State) (m : Copy) : State := State.bump (s.setCore { s.core s.me.pl with mbox := (s.core s.me.pl).mbox ++ [m] })

theorem copySubmitted_joins (s : State) (m : Copy) :
    let t := copySubmitted s m
    t = { s with cores := t.cores, clk := { s.clk with id := s.clk.id + 1 } } ∧ SameBytes s t ∧ (t.core s.me.pl).mbox = (s.core s.me.pl).mbox ++ [m] := by
  refine ⟨rfl, fun _ => rfl, ?_⟩
  have h := core_setCore s { s.core s.me.pl with mbox := (s.core s.me.pl).mbox ++ [m] }
  rw [core_pl] at h
  exact congrArg Core.mbox h

/-- All four mailboxes hold a command. -/
theorem freeBox_none {c : Core} (h : ∀ k, k < 4 → ∃ m ∈ c.mbox, m.mb = k) : State.freeBox c = none := by
  unfold State.freeBox
  rw [List.find?_eq_none]
  intro k hk
  simpa using h k (List.mem_range.mp hk)

/-- The lowest-numbered mailbox without a command. -/
theorem freeBox_some {c : Core} {k : Nat} (hk : k < 4) (hfree : ∀ m ∈ c.mbox, m.mb ≠ k) (hlow : ∀ j, j < k → ∃ m ∈ c.mbox, m.mb = j) :
    State.freeBox c = some k := by
  unfold State.freeBox
  rw [List.find?_range_eq_some]
  exact ⟨by simpa using hfree, List.mem_range.mpr hk, fun j hj => by simpa using hlow j hj⟩

section
variable {s : State} {kind off : Nat} {a : Fin 16}

theorem copyForm_bad {n : Nat} (h : OwnScratch s (ea0 (s.rS a)) 64 off) (hbad : s.copyBad kind (ownDesc s off) = some n) :
    s.copyForm kind a = .next (s.raise 2 5 (ea0 (s.rS a) + BitVec.ofNat 48 (8 * n))) := by
  unfold State.copyForm
  rw [withDesc_own h, hbad]

/-- A good descriptor goes to the lowest-numbered empty mailbox, or, with none, its thread waits for one. -/
theorem copyForm_good (hs : PlainTask s) (h : OwnScratch s (ea0 (s.rS a)) 64 off) (hgood : s.copyBad kind (ownDesc s off) = none)
    (hslot : bit (qd (ownDesc s off) 5) 4 = true → bits (qd (ownDesc s off) 5) 63 40 / 2 ^ 16 % 256 < s.nslot s.me.pl.o) :
    s.copyForm kind a = match State.freeBox (s.core s.me.pl) with
      | none => .next (s.rewind .mailbox)
      | some k => .next (copySubmitted s (boxed s kind k (ownDesc s off))) := by
  have hq : (cPush (ownDesc s off) && decide (s.nslot s.me.pl.o ≤ bits (cQname (ownDesc s off)) 23 16)) = false := by
    rw [Bool.and_eq_false_imp]
    intro hp
    exact decide_eq_false (Nat.not_le_of_lt (hslot hp))
  unfold State.copyForm
  rw [withDesc_own h, hgood]
  simp only [hq, inStream_task hs.1, Bool.false_eq_true, if_false]
  rfl

end

/-! ### Channels and publish (R253, R255, R257) -/

/-- The channel that a doubleword describes (R253). -/
def chanOf (w : Nat) : Chan := { base := bits w 15 0, size := bits w 32 16, marks := List.replicate (bits w 32 16 / 128) (bit w 33) }
/-- A channel of the thread's core is replaced. -/
def chanSet (s : State) (b : Nat) (c : Chan) : State := s.setCore { s.core s.me.pl with chans := alSet b c (s.core s.me.pl).chans }

section
variable {s : State} {d b a : Fin 16} {off : Nat}

theorem core_chanSet (b : Nat) (c : Chan) : (chanSet s b c).core s.me.pl = { s.core s.me.pl with chans := alSet b c (s.core s.me.pl).chans } := by
  have h := core_setCore s { s.core s.me.pl with chans := alSet b c (s.core s.me.pl).chans }
  rw [core_pl] at h
  exact h

theorem withChannel_in (hb : b.val < 4) (k : Res) : s.withChannel b k = k := if_neg (Nat.not_le_of_lt hb)

theorem exec_chset (hb : b.val < 4) (halign : (ea0 (s.rS a)).toNat % 8 = 0) (hregion : s.region s.me.pl (ea0 (s.rS a)) = .scr s.me.pl off)
    (hchan : s.chanAt s.me.pl off 8 = none) {w : Nat} (hw : w = leNat (s.mem.read (scrKey s.me.pl off) 8)) (hbase : bits w 15 0 % 128 = 0)
    (hsize : bits w 32 16 % 128 = 0) (hend : bits w 15 0 + bits w 32 16 ≤ 65536) :
    exec (.chset a b) s = .next ((chanSet s b.val (chanOf w)).wakeChans s.me.pl) := by
  subst hw
  show s.withChannel b _ = _
  rw [withChannel_in hb]
  simp only [halign, State.ownOff, hregion, State.withChan, State.chanCheck, hchan, hbase, hsize, Nat.not_lt.mpr hend, bne_self_eq_false, Bool.or_self,
    decide_false, Bool.false_eq_true, if_false, if_true]
  rfl

/-- A channel that is replaced leaves the others, and wakes the threads of its core that nothing holds any more. -/
theorem chanSet_wakes (b : Nat) (c : Chan) :
    let t := (chanSet s b c).wakeChans s.me.pl
    SameBytes s t ∧ (∃ xs, t.cores = (s.setCore { s.core s.me.pl with chans := xs }).cores ∧
      ∀ j, j ≠ b → alGet ({} : Chan) j xs = alGet ({} : Chan) j (s.core s.me.pl).chans) ∧
    t = { s with cores := t.cores, threads := s.threads.map (fun y => match y.park with
      | .chan i n => if y.pl = s.me.pl ∧ t.chanCheck s.me.pl i n ≠ .park then { y with woken := true } else y
      | _ => y) } ∧
    alGet ({} : Chan) b (t.core s.me.pl).chans = c := by
  intro t
  have hcheck : ∀ i n, t.chanCheck s.me.pl i n = (chanSet s b c).chanCheck s.me.pl i n := fun _ _ => rfl
  refine ⟨fun _ => rfl, ⟨_, rfl, fun j hj => ?_⟩, ?_, ?_⟩
  · rw [alGet_alSet, if_neg hj]
  · simp only [hcheck]
    show { s with cores := _, threads := _ } = { s with cores := _, threads := _ }
    congr 1
    refine List.map_congr_left fun y _ => ?_
    cases y.park <;> simp
  · have hcore : t.core s.me.pl = (chanSet s b c).core s.me.pl := rfl
    rw [hcore, core_chanSet, alGet_alSet, if_pos rfl]

theorem exec_chq (hb : b.val < 4) {x : Chan} (hx : x = alGet ({} : Chan) b.val (s.core s.me.pl).chans) :
    exec (.chq d b) s = .next (s.wS d (BitVec.ofNat 64 ((x.err.getD (0, 0)).2 * 2 ^ 40 + (x.err.getD (0, 0)).1 * 2 ^ 32 + x.wm))) := by
  subst hx
  exact withChannel_in hb _

theorem pair_number (x : Word) : bits x.toNat 5 0 = x.toNat % 64 := by simp [bits]

theorem publish_parks {k : Nat} (hk : k = (s.rS a).toNat % 64) (h : ∃ p ∈ (s.owner s.me.pl.o).pairs, p.k = k) :
    Next (exec (.publish a) s) (fun t => Parked s t (.publish k)) := by
  show Next (execPublish a s) _
  unfold execPublish
  rw [pair_number, ← hk]
  dsimp only
  rw [if_pos (by simpa using h)]
  exact next_of (parked_parkAfter s _)

theorem publish_faults {k : Nat} (hk : k = (s.rS a).toNat % 64) (hs : PlainTask s) (h : ∀ p ∈ (s.owner s.me.pl.o).pairs, p.k ≠ k) :
    Next (exec (.publish a) s) (fun t => TookFault s t 5 0 s.iss.b (ea0 (s.rS a))) := by
  show Next (execPublish a s) _
  unfold execPublish
  rw [pair_number, ← hk]
  dsimp only
  rw [if_neg (by simpa using h)]
  exact next_of (tookFault_raise s 5 0 _ hs)

end

/-- Settles O22: every copy form checks its descriptor in the same way and takes the lowest empty mailbox; a channel that is replaced opens to those that it no
longer holds. The lowest of several bad quads, and a poisoned descriptor or channel word read as it stands, are the model's choices (log 134, log 93). -/
theorem copiesChannelsPublish : Obligations.CopiesChannelsPublish := by
  unfold Obligations.CopiesChannelsPublish
  refine ⟨?_, ?_⟩
  · intro s a off hs ea q box ho p hp
    rw [exec_copyForms s a p hp]
    refine ⟨fun n hbad => ?_, fun hgood hslot hfull => ?_, fun hgood hslot k hk hfree hlow => ?_⟩
    · rw [copyForm_bad ho hbad]
      exact next_of (tookFault_raise s 2 5 _ hs)
    · rw [copyForm_good hs ho hgood hslot, freeBox_none hfull]
      exact next_of (rewound_rewind s .mailbox hs.2)
    · rw [copyForm_good hs ho hgood hslot, freeBox_some hk hfree hlow]
      exact next_of (copySubmitted_joins s _)
  · intro s d a b off ea g w base size x k
    have hbase : bits w 15 0 = base := by simp [bits, base]
    have hsize : bits w 32 16 = size := by simp [bits, size]
    refine ⟨fun halign hregion hchan hb hs hend => ?_, ?_, publish_parks rfl, publish_faults rfl⟩
    · rw [exec_chset (b := g) b.isLt halign hregion hchan rfl (by rw [hbase]; exact hb) (by rw [hsize]; exact hs) (by rw [hbase, hsize]; exact hend)]
      have hc : chanOf w = { base := base, size := size, marks := List.replicate (size / 128) (bit w 33), err := none } := by rw [chanOf, hbase, hsize]
      obtain ⟨hmem, hothers, hframe, hchan⟩ := chanSet_wakes (s := s) b.val (chanOf w)
      exact next_of ⟨hmem, hothers, hframe, hchan.trans hc⟩
    · rw [exec_chq (b := g) b.isLt rfl]
      exact next_of (wroteS_wS s d _)

/-! ### Install commands (R386, R391) -/

section
variable {s : State} {d a : Fin 16} {off : Nat}

/-- The operation of an install (R386). -/
def winstOp (s : State) (d a : Fin 16) : Op := { s.newOp with dest := some (.s d), counts := true, acc := false, cmd := true, ea := ea0 (s.rS a) }

theorem exec_winst (h : OwnScratch s (ea0 (s.rS a)) 64 off) {q : List Word} (hq : q = ownDesc s off) : exec (.winst d a) s =
    if iLen q = 0 || decide (2 ^ 24 < iLen q) then .next (s.raise 2 5 (ea0 (s.rS a) + 16))
    else if iCrec q % 64 != 0 then .next (s.raise 2 5 (ea0 (s.rS a) + 24))
    else if iPush q && decide (s.nslot s.me.pl.o ≤ bits (iQname q) 23 16) then .next (s.raise 5 0 (ea0 (s.rS a) + 32))
    else if s.atLimit then .next (s.rewind .limit)
    else .next (State.bump { (s.modFlash (fun f => { f with installs := f.installs ++ [{ rid := s.newId, uid := s.me.uid, pl := s.me.pl, o := s.me.pl.o, q := q }] })) with
      me := s.me.addOp (winstOp s d a) }) := by
  subst hq
  show execWinst d a s = _
  unfold execWinst
  rw [withDesc_own h]
  rfl

/-- A length within its limits passes the first check. -/
theorem length_passes {q : List Word} (h1 : 1 ≤ iLen q) (h2 : iLen q ≤ 2 ^ 24) : (decide (iLen q = 0) || decide (2 ^ 24 < iLen q)) = false := by
  rw [Bool.or_eq_false_iff, decide_eq_false_iff_not, decide_eq_false_iff_not]
  omega

theorem wstat_issues (hs : PlainTask s) (hr : OpRoom s) :
    Next (exec (.wstat d a) s) (fun t => Issued s t (fun o => o.dest = some (.s d) ∧ o.acq = true ∧ o.counts = true)
      (.wstat ((s.rS a).toNat % 2 ^ 32)) (.peer s.me.pl.o 0 0)) := by
  show Next (execWstat d a s) _
  unfold execWstat
  rw [if_neg (by simp [atLimit_of_room hs.1 hr])]
  have hn : bits (s.rS a).toNat 31 0 = (s.rS a).toNat % 2 ^ 32 := by simp [bits]
  rw [hn]
  exact next_of (issued_issueOp s _ _ _ 0 _ ⟨rfl, rfl, rfl⟩ rfl rfl rfl rfl)

end

/-- Settles O23: the checks of winst come quad by quad, and what passes them joins the install unit. LEN's quad before CREC's, and a poisoned descriptor read as it
stands, are the model's choices (log 93); a wstat travels (log 39). -/
theorem installFormsIssue : Obligations.InstallFormsIssue := by
  unfold Obligations.InstallFormsIssue
  intro s d a off hs hroom ea q len
  rw [show len = iLen q from rfl, show bits (qd q 3) 47 0 = iCrec q from rfl]
  refine ⟨fun ho h1 h2 hc hp => ?_, fun ho hl => ?_, fun ho h1 h2 => ⟨fun hc => ?_, fun hc hp hn => ?_⟩, wstat_issues hs hroom⟩
  · have hpush : (iPush q && decide (s.nslot s.me.pl.o ≤ bits (iQname q) 23 16)) = false := by
      rw [Bool.and_eq_false_imp]
      exact fun h => decide_eq_false (Nat.not_le_of_lt (hp h))
    rw [exec_winst ho (q := q) rfl, if_neg (Bool.eq_false_iff.mp (length_passes h1 h2)), if_neg (by simpa using hc), if_neg (Bool.eq_false_iff.mp hpush),
      if_neg (by simp [atLimit_of_room hs.1 hroom])]
    exact next_of ⟨winstOp s d a, rfl, fun _ => rfl, rfl, rfl, rfl, rfl⟩
  · rw [exec_winst ho (q := q) rfl, if_pos (by simpa using hl)]
    exact next_of (tookFault_raise s 2 5 _ hs)
  · rw [exec_winst ho (q := q) rfl, if_neg (Bool.eq_false_iff.mp (length_passes h1 h2)), if_pos (by simpa using hc)]
    exact next_of (tookFault_raise s 2 5 _ hs)
  · rw [exec_winst ho (q := q) rfl, if_neg (Bool.eq_false_iff.mp (length_passes h1 h2)), if_neg (by simpa using hc), if_pos (by
      rw [Bool.and_eq_true]
      exact ⟨hp, decide_eq_true hn⟩)]
    exact next_of (tookFault_raise s 5 0 _ hs)

end Sys2Proof.Laws

/-! SUPPORT. PairSwap: the exchange of a published pair, and O39. -/

namespace Sys2Proof.Laws

open Sys2Proof.Machine Sys2Proof.Safety

section
variable {s : State} {uid k : Nat} {x : Thread}

/-- A buffer pair that is exchanged at the count to come (R257). -/
def exchanged (s : State) (k : Nat) (p : Pair) : Pair := if p.k = k then { p with cur := !p.cur, qf := s.q + 1 } else p
/-- The pair k of the owner is exchanged, and the thread wakes. -/
def pairSwapped (s : State) (uid k : Nat) (x : Thread) : State :=
  (s.modOwner x.pl.o (fun y => { y with pairs := y.pairs.map (exchanged s k) })).modThread uid (fun t => { t with woken := true })

/-- What the turn of a published pair answers, by what it still waits for (R257). -/
theorem pairExchange_eq (hx : s.thread? uid = some x) (hpark : x.park = .publish k) : exec (.pairExchange uid) s =
    if (x.woken || x.ops.any (fun o => o.acc || o.cmd) || s.sawOpen x || s.cores.any (fun c => c.mbox.any (fun m => m.uid == uid)) ||
        s.cmds.any (fun c => c.uid == uid)) || (!s.clk.todo.isEmpty || (s.owner x.pl.o).pairs.any (fun p => p.k == k && p.qf == s.q + 1)) ||
        (s.owner x.pl.o).frozen then .next s
    else .next (pairSwapped s uid k x) := by
  show execPairExchange uid s = _
  unfold execPairExchange pairSwapped exchanged
  simp only [hx, hpark, beq_iff_eq]

/-- Nothing of the thread is under way. -/
theorem idle_publisher (hwoken : x.woken = false) (hsaw : x.saw = []) (hops : ∀ o ∈ x.ops, o.acc = false ∧ o.cmd = false)
    (hbox : ∀ c ∈ s.cores, ∀ m ∈ c.mbox, m.uid ≠ uid) (hcmds : ∀ c ∈ s.cmds, c.uid ≠ uid) :
    (x.woken || x.ops.any (fun o => o.acc || o.cmd) || s.sawOpen x || s.cores.any (fun c => c.mbox.any (fun m => m.uid == uid)) ||
      s.cmds.any (fun c => c.uid == uid)) = false := by
  have hopen : s.sawOpen x = false := by rw [State.sawOpen, hsaw]; rfl
  simpa [hwoken, hopen] using ⟨⟨hops, hbox⟩, hcmds⟩

theorem thread?_pairSwapped (hx : s.thread? uid = some x) : (pairSwapped s uid k x).thread? uid = some { x with woken := true } := by
  unfold pairSwapped
  refine (thread?_modThread _ uid uid (fun t => { t with woken := true }) fun _ => rfl).trans ?_
  rw [if_pos rfl]
  exact congrArg (Option.map _) hx

theorem owners_modThread (u : Nat) (f : Thread → Thread) : (s.modThread u f).owners = s.owners := by
  unfold State.modThread
  split <;> rfl

theorem owner_pairSwapped : (pairSwapped s uid k x).owner x.pl.o = { s.owner x.pl.o with pairs := (s.owner x.pl.o).pairs.map (exchanged s k) } := by
  unfold pairSwapped
  rw [State.owner, owners_modThread]
  exact (owner_modOwner s _ _ _).trans (if_pos rfl)

theorem mem_pairSwapped : (pairSwapped s uid k x).mem = s.mem := by
  unfold pairSwapped State.modThread
  split <;> rfl

end

/-- Settles O39: the turn waits for the rest of the count and for a pair that has been exchanged in it, and exchanges the pair otherwise. -/
theorem pairsExchange : Obligations.PairsExchange := by
  unfold Obligations.PairsExchange
  intro s uid k x hx hpark hwoken hsaw hops hbox hcmds hfrozen
  rw [pairExchange_eq hx hpark, idle_publisher hwoken hsaw hops hbox hcmds, hfrozen, Bool.false_or, Bool.or_false]
  refine ⟨fun hwait => if_pos ?_, fun htodo hqf => ?_⟩
  · simpa using hwait
  · rw [if_neg (by simpa [htodo] using hqf)]
    have hmem := mem_pairSwapped (s := s) (uid := uid) (k := k) (x := x)
    exact next_of ⟨fun a => congrArg (Mem.getB · a) hmem, thread?_pairSwapped hx, hmem, owner_pairSwapped⟩

end Sys2Proof.Laws

/-! SUPPORT. ControlRows: the other selectors of rotctl, slotctl and frz, the end of a task that nobody runs, and O25. -/

namespace Sys2Proof.Laws

open Sys2Proof.Machine Sys2Proof.Safety

/-! ### The rows act by the selector alone (R317, R352) -/

section
variable {s : State} {a b : Fin 16} {i : Instr}

theorem exec_rotctlRow (h : i = .rotctlSuspend a ∨ i = .rotctlResume a ∨ i = .rotctlExtraRotation a ∨ i = .rotctlExtraSwitch a) :
    exec i s = s.rotctl a := by
  obtain rfl | rfl | rfl | rfl := h <;> rfl

theorem exec_slotctlRow (h : i = .slotctlPlace a b ∨ i = .slotctlRemove a b ∨ i = .slotctlSpill a b) : exec i s = s.slotctl a b := by
  obtain rfl | rfl | rfl := h <;> rfl

theorem exec_frzRow (h : i = .frzFreezeOwner a ∨ i = .frzReleaseOwner a ∨ i = .frzFreezeFunction a ∨ i = .frzReleaseFunction a ∨ i = .frzEndTask a) :
    exec i s = s.frz a := by
  obtain rfl | rfl | rfl | rfl | rfl := h <;> rfl

/-- A selector that the table does not have. -/
theorem rotctl_undefined (h : 4 ≤ s.iss.src.s[a].toNat % 16) : s.rotctl a = .next (s.raise 2 3 s.iss.b) := by
  obtain ⟨k, hk⟩ := Nat.exists_eq_add_of_le' h
  unfold State.rotctl
  rw [selector_eq, hk]
  rfl

theorem slotctl_undefined (h : 3 ≤ s.iss.src.s[a].toNat % 16) : s.slotctl a b = .next (s.raise 2 3 s.iss.b) := by
  obtain ⟨k, hk⟩ := Nat.exists_eq_add_of_le' h
  unfold State.slotctl
  dsimp only
  rw [selector_eq, hk]
  rfl

/-- An operation that the table does not have, and a freeze or a release of owner 0 (R352). -/
theorem frz_undefined (h : 4 < s.iss.src.s[a].toNat % 16 ∨ s.iss.src.s[a].toNat / 2 ^ 8 % 16 = 0 ∧ s.iss.src.s[a].toNat % 16 ≤ 1) :
    s.frz a = .next (s.raise 2 3 s.iss.b) := by
  unfold State.frz
  dsimp only
  rw [selector_eq, if_pos]
  show (decide _ || (s.iss.src.s[a].toNat / 2 ^ 8 % 16 == 0 && decide _)) = true
  simpa using h

end

/-! ### The end of a task that nobody runs (R352) -/

section
variable {s : State} {o : Nat} {tid : BitVec 32}

/-- With no thread that has ended as failed, nothing is buried. -/
theorem bury_none (h : ∀ t ∈ s.threads, ∀ f, t.park ≠ .dead f) (n : Nat) : s.bury n = s := by
  have hdead : ∀ t ∈ s.threads, State.isDead t = false := fun t ht => by
    unfold State.isDead
    split
    · exact absurd ‹_› (h t ht _)
    · rfl
  unfold State.bury
  rw [List.filter_eq_nil_iff.mpr fun t ht => Bool.eq_false_iff.mp (hdead t ht), List.foldl_nil]
  cases n with
  | zero => rfl
  | succ n =>
    unfold State.buryDone
    rw [List.find?_eq_none.mpr fun t ht => by simp [hdead t ht]]

theorem endTask_nobody (ht : ∀ t ∈ s.threads, ¬(t.pl.o = o ∧ t.tid = tid) ∧ ∀ f, t.park ≠ .dead f) (hme : ¬(s.me.uid ≠ 0 ∧ s.me.pl.o = o ∧ s.me.tid = tid))
    (hst : s.graph.streams = []) (hpk : s.graph.packets = []) (hpl : s.graph.placing = []) : s.endTask o tid = s := by
  have hmine : s.allThreads.filter (fun t => t.pl.o == o && t.tid == tid) = [] := by
    rw [List.filter_eq_nil_iff]
    intro t hmem
    unfold State.allThreads at hmem
    simp only [Bool.and_eq_true, beq_iff_eq]
    split at hmem
    · exact (ht t hmem).1
    · rcases List.mem_cons.mp hmem with rfl | hmem
      · exact fun h => hme ⟨‹_›, h⟩
      · exact (ht t hmem).1
  unfold State.endTask
  rw [hst, List.find?_nil]
  dsimp only
  rw [hmine, List.foldl_nil, bury_none fun t hm => (ht t hm).2, hpk, List.filter_nil, List.foldl_nil, hpl, List.filter_nil, List.foldl_nil]

end

/-! ### The operations of frz that change nothing -/

section
variable {s : State} {a : Fin 16} {own fn : Nat}

theorem frz_releaseIgnored (h : s.iss.src.s[a].toNat % 16 = 1) (ho : own = s.iss.src.s[a].toNat / 2 ^ 8 % 16) (h0 : own ≠ 0)
    (hf : (s.owner own).frozen = false ∨ (s.owner own).inScrub = true) : s.frz a = .next s := by
  have hrel : s.releaseOwner own = s := if_neg (by rcases hf with hf | hf <;> simp [hf])
  rw [frz_eq h (by decide) ho fun _ => h0]
  exact congrArg Host.Outcome.next hrel

/-- A function that does not belong to the owner keeps its state. -/
theorem frz_otherFn (h : s.iss.src.s[a].toNat % 16 = 2 ∨ s.iss.src.s[a].toNat % 16 = 3) (ho : own = s.iss.src.s[a].toNat / 2 ^ 8 % 16)
    (hfn : fn = s.iss.src.s[a].toNat / 2 ^ 16 % 2 ^ 10) (hf : s.fnOf fn own = false) : s.frz a = .next s := by
  rcases h with h | h <;>
  · rw [frz_eq h (by decide) ho fun l => absurd l (by decide), ← hfn]
    exact congrArg Host.Outcome.next (if_neg (Bool.eq_false_iff.mp hf))

theorem frz_endsTask (h : s.iss.src.s[a].toNat % 16 = 4) (ho : own = s.iss.src.s[a].toNat / 2 ^ 8 % 16) :
    s.frz a = .next (s.endTask own (BitVec.ofNat 32 (s.iss.src.s[a].toNat / 2 ^ 32))) := by
  have htid : BitVec.ofNat 32 (s.iss.src.s[a].toNat / 2 ^ 32 % 2 ^ 32) = BitVec.ofNat 32 (s.iss.src.s[a].toNat / 2 ^ 32) :=
    BitVec.eq_of_toNat_eq (by simp)
  rw [frz_eq h (by decide) ho fun l => absurd l (by decide)]
  exact congrArg (fun t => Host.Outcome.next (s.endTask own t)) htid

/-- The number of a task is the upper half of the operand. -/
theorem tid_eq_iff (x : Word) (t : BitVec 32) : t = BitVec.ofNat 32 (x.toNat / 2 ^ 32) ↔ t.toNat = x.toNat / 2 ^ 32 := by
  have hlt : x.toNat / 2 ^ 32 < 2 ^ 32 := Nat.div_lt_of_lt_mul x.isLt
  rw [← BitVec.toNat_inj, BitVec.toNat_ofNat, Nat.mod_eq_of_lt hlt]

theorem frz_endsNobody (h : s.iss.src.s[a].toNat % 16 = 4) (ho : own = s.iss.src.s[a].toNat / 2 ^ 8 % 16)
    (ht : ∀ t ∈ s.threads, ¬(t.pl.o = own ∧ t.tid.toNat = s.iss.src.s[a].toNat / 2 ^ 32) ∧ ∀ f, t.park ≠ .dead f)
    (hme : ¬(s.me.uid ≠ 0 ∧ s.me.pl.o = own ∧ s.me.tid.toNat = s.iss.src.s[a].toNat / 2 ^ 32))
    (hst : s.graph.streams = []) (hpk : s.graph.packets = []) (hpl : s.graph.placing = []) : s.frz a = .next s := by
  rw [frz_endsTask h ho, endTask_nobody (by simpa only [tid_eq_iff] using ht) (by simpa only [tid_eq_iff] using hme) hst hpk hpl]

end

/-- Settles O25: each row acts by its selector; what the other selectors do is one exception. The layout of a save area is the device's own affair (log 16). -/
theorem rotationSlotFreezeControl : Obligations.RotationSlotFreezeControl := by
  unfold Obligations.RotationSlotFreezeControl
  refine ⟨?_, ?_⟩
  · intro s a b i sel v ten
    refine ⟨fun hi => ?_, fun hi => ?_⟩
    · rw [exec_rotctlRow hi]
      refine ⟨rotctl_suspend, rotctl_resume, rotctl_extraRotation, rotctl_extraSwitch, fun hs h => ?_⟩
      rw [rotctl_undefined h]
      exact next_of (tookFault_raise s 2 3 _ hs)
    · rw [exec_slotctlRow hi]
      refine ⟨fun h => slotctl_place h rfl, fun h => slotctl_remove h rfl, fun h => ?_, fun hs h => ?_⟩
      · exact next_mono (slotctl_spill_next h rfl rfl rfl rfl) fun t ⟨hme, _, hbytes, htag, _⟩ => ⟨hme, htag, hbytes⟩
      · rw [slotctl_undefined h]
        exact next_of (tookFault_raise s 2 3 _ hs)
  · intro s a i hi v op o f
    rw [exec_frzRow hi]
    refine ⟨fun h => frz_freezeOwner h rfl, fun h => frz_releaseOwner h rfl, fun h => frz_releaseIgnored h rfl, fun h => frz_freezeFn h rfl rfl,
      fun h => frz_releaseFn h rfl rfl, fun h => frz_otherFn h rfl rfl, fun h => frz_endsNobody h rfl, fun h => frz_endsTask h rfl, fun hs h => ?_⟩
    rw [frz_undefined h]
    exact next_of (tookFault_raise s 2 3 _ hs)

end Sys2Proof.Laws

/-! SUPPORT. UnitWrites: the write of a unit of the device at an address of DRAM (R163, R268), and platform bytes (R333). -/

namespace Sys2Proof.Laws

open Sys2Proof.Machine Sys2Proof.Safety

section
variable {s t : State} {o p : Nat} {k : Kind} {l : Loc} {bs : List Byte}

theorem me_of_settles (h : Settles s t) : t.me = s.me := by rw [h.1]; rfl
theorem threads_of_settles (h : Settles s t) : t.threads = s.threads := by rw [h.1]; rfl
theorem regs_of_settles (h : Settles s t) : t.regs = s.regs := by rw [h.1]; rfl
theorem trust_of_settles (h : Settles s t) : t.trust = s.trust := by rw [h.1]; rfl
theorem rot_of_settles (h : Settles s t) : t.rot = s.rot := by rw [h.1]; rfl
theorem cores_of_settles (h : Settles s t) : t.cores = s.cores := by rw [h.1]; rfl
theorem cmds_of_settles (h : Settles s t) : t.cmds = s.cmds := by rw [h.1]; rfl
theorem cols_of_settles (h : Settles s t) : t.cols = s.cols := by rw [h.1]; rfl
theorem host_of_settles (h : Settles s t) : t.host = s.host := by rw [h.1]; rfl

theorem writeLoc_frame (s : State) (l : Loc) (bs : List Byte) : s.writeLoc l bs = { s with mem := (s.writeLoc l bs).mem } := by
  unfold State.writeLoc
  split
  · rfl
  · cases l with
    | dram o p k => cases k <;> rfl
    | _ => rfl

/-- A write that hosts and peers see at once changes memory and what they still read. -/
theorem writeOut_frame (s : State) (l : Loc) (bs : List Byte) : s.writeOut l bs = { s with mem := (s.writeOut l bs).mem, host := (s.writeOut l bs).host } := by
  unfold State.writeOut
  dsimp only
  rw [writeLoc_frame]
  rfl

/-- A unit's write touches the home of the line, and then writes through (R163). -/
theorem unitWrite_dram (s : State) (o p : Nat) (k : Kind) (bs : List Byte) :
    ∃ t, Settles s t ∧ s.unitWrite (.dram o p k) bs = t.writeOut (.dram o p k) bs :=
  ⟨(s.chargeMem true (.dram o p k)).invalL1 (s.locKey (.dram o p k) / 128) none, settles_trans (settles_chargeMem s true _) (settles_of rfl rfl), rfl⟩

/-- What no settling changes, and no byte of memory and nothing at the hosts, a unit's write leaves. -/
theorem unitWrite_keeps {α : Type} (f : State → α) (hs : ∀ s t, Settles s t → f t = f s) (hw : ∀ s m h, f { s with mem := m, host := h } = f s)
    (s : State) (l : Loc) (bs : List Byte) : f (s.unitWrite l bs) = f s := by
  have hloc : ∀ l, f (s.writeLoc l bs) = f s := fun l => by
    rw [writeLoc_frame]
    exact hw s _ s.host
  cases l with
  | dram o p k =>
    obtain ⟨t, ht, he⟩ := unitWrite_dram s o p k bs
    rw [he, writeOut_frame, hw, hs s t ht]
  | scr p off => exact hloc _
  | slice n off => exact hloc _
  | flash o p => exact hloc _
  | peer o k ia => exact hloc _

section
variable (s l bs)
@[simp] theorem unitWrite_me : (s.unitWrite l bs).me = s.me := unitWrite_keeps State.me (fun _ _ => me_of_settles) (fun _ _ _ => rfl) s l bs
@[simp] theorem unitWrite_threads : (s.unitWrite l bs).threads = s.threads := unitWrite_keeps State.threads (fun _ _ => threads_of_settles) (fun _ _ _ => rfl) s l bs
@[simp] theorem unitWrite_regs : (s.unitWrite l bs).regs = s.regs := unitWrite_keeps State.regs (fun _ _ => regs_of_settles) (fun _ _ _ => rfl) s l bs
@[simp] theorem unitWrite_trust : (s.unitWrite l bs).trust = s.trust := unitWrite_keeps State.trust (fun _ _ => trust_of_settles) (fun _ _ _ => rfl) s l bs
@[simp] theorem unitWrite_graph : (s.unitWrite l bs).graph = s.graph := unitWrite_keeps State.graph (fun _ _ => graph_of_settles) (fun _ _ _ => rfl) s l bs
@[simp] theorem unitWrite_rot : (s.unitWrite l bs).rot = s.rot := unitWrite_keeps State.rot (fun _ _ => rot_of_settles) (fun _ _ _ => rfl) s l bs
@[simp] theorem unitWrite_cols : (s.unitWrite l bs).cols = s.cols := unitWrite_keeps State.cols (fun _ _ => cols_of_settles) (fun _ _ _ => rfl) s l bs
@[simp] theorem unitWrite_cores : (s.unitWrite l bs).cores = s.cores := unitWrite_keeps State.cores (fun _ _ => cores_of_settles) (fun _ _ _ => rfl) s l bs
@[simp] theorem unitWrite_net : (s.unitWrite l bs).net = s.net := unitWrite_keeps State.net (fun _ _ => net_of_settles) (fun _ _ _ => rfl) s l bs
@[simp] theorem unitWrite_cmds : (s.unitWrite l bs).cmds = s.cmds := unitWrite_keeps State.cmds (fun _ _ => cmds_of_settles) (fun _ _ _ => rfl) s l bs
end

/-- A unit's write leaves the owners but for their counters (R434). -/
theorem owner_unitWrite (s : State) (l : Loc) (bs : List Byte) (j : Nat) :
    (s.unitWrite l bs).owner j = { s.owner j with meter := ((s.unitWrite l bs).owner j).meter } := by
  have hunmetered : ∀ x y : Owner, { x with meter := Vector.replicate 14 0 } = { y with meter := Vector.replicate 14 0 } → x = { y with meter := x.meter } :=
    fun x y h => congrArg (fun z : Owner => { z with meter := x.meter }) h
  refine hunmetered _ _ (unitWrite_keeps (fun u => { u.owner j with meter := Vector.replicate 14 0 }) (fun u t h => ?_) (fun _ _ _ => rfl) s l bs)
  dsimp only
  rw [h.2 j]

theorem locKey_unitWrite (l : Loc) (bs : List Byte) (l' : Loc) : (s.unitWrite l bs).locKey l' = s.locKey l' := by
  cases l' <;> simp only [State.locKey, State.dramKey] <;> rw [owner_unitWrite]

theorem dramKey_unitWrite (l : Loc) (bs : List Byte) (o p : Nat) : (s.unitWrite l bs).dramKey o p = s.dramKey o p := by
  unfold State.dramKey
  rw [owner_unitWrite]

theorem lostKey_unitWrite (l : Loc) (bs : List Byte) (key : Nat) : (s.unitWrite l bs).lostKey key = s.lostKey key := by
  unfold State.lostKey State.column
  rw [unitWrite_cols]

/-- A unit's bytes stand where the address lies, unless the layer there is lost (R399). -/
theorem stored_unitWrite (hm : MemOk s) (hl : s.lostKey (s.dramKey o p) = false) : Stored s (s.unitWrite (.dram o p k) bs) (s.dramKey o p) bs := by
  obtain ⟨t, ht, he⟩ := unitWrite_dram s o p k bs
  rw [he]
  have hkey : t.locKey (.dram o p k) = s.dramKey o p := locKey_of_settles ht _
  have h : Stored s (t.writeOut (.dram o p k) bs) (t.locKey (.dram o p k)) bs :=
    stored_writeLoc (l := .dram o p k) hm (show t.mem.cells = s.mem.cells from cells_of_settles ht) (by
      show t.lostKey (t.locKey (.dram o p k)) = false
      rw [hkey, lostKey_of_settles ht, hl])
  rwa [hkey] at h

end

/-! ### Platform bytes (R333) -/

section
variable {s : State} {a n : Nat}

/-- A block of 1 KiB lies in one piece of a stack (R298). -/
theorem dramKey_add {o p i : Nat} (h : p % 1024 + i < 1024) : s.dramKey o (p + i) = s.dramKey o p + i := by
  unfold State.dramKey
  have hdiv : (p + i) / 1024 = p / 1024 := by omega
  have hmod : (p + i) % 1024 = p % 1024 + i := by omega
  have hlim : p + i < 2 ^ 27 * (s.owner o).desc.dram.length ↔ p < 2 ^ 27 * (s.owner o).desc.dram.length := by omega
  dsimp only
  rw [hdiv, hmod]
  simp only [hlim, stackKey, pastKey]
  split <;> omega

theorem platRead_eq (s : State) (a n : Nat) : s.platRead a n = (List.range n).map (fun i => s.mem.getB (s.dramKey 0 (a + i))) := by
  induction n generalizing a with
  | zero => rfl
  | succ n ih =>
    unfold State.platRead
    rw [ih, List.range_succ_eq_map, List.map_cons, List.map_map]
    refine congrArg (_ :: ·) (List.map_congr_left fun i _ => ?_)
    rw [Function.comp_apply, Nat.succ_eq_add_one, Nat.add_right_comm, Nat.add_assoc]

theorem length_platRead (s : State) (a n : Nat) : (s.platRead a n).length = n := by rw [platRead_eq, List.length_map, List.length_range]

/-- Platform bytes of one block are read where they stand. -/
theorem platRead_block (h : a % 1024 + n ≤ 1024) : s.platRead a n = s.mem.read (s.dramKey 0 a) n := by
  rw [platRead_eq, read_eq]
  exact List.map_congr_left fun i hi => by rw [dramKey_add (by have := List.mem_range.mp hi; omega)]

/-- What is stored is read back. -/
theorem read_of_stored {s t : State} {key : Nat} {bs : List Byte} (h : Stored s t key bs) : t.mem.read key bs.length = bs := by
  rw [read_eq]
  refine List.ext_getElem (by simp) fun i h1 h2 => ?_
  simp [h.1 i h2, h2]

end

end Sys2Proof.Laws

/-! SUPPORT. Services: tlbinv, keyld, keyzap, evpost, scrub and waypart, and O27. -/

namespace Sys2Proof.Laws

open Sys2Proof.Machine Sys2Proof.Safety

section
variable {s : State} {a b : Fin 16}

/-! ### tlbinv and evpost (R344, R353) -/

theorem tlbinv_parks (h : (s.iss.src.s[a]).toNat / 2 ^ 60 ≤ 4) : Next (exec (.tlbinv a) s) (fun t =>
    Parked s t (.tlbinv ((s.iss.src.s[a]).toNat / 2 ^ 60) ((s.iss.src.s[a]).toNat / 2 ^ 56 % 16) ((s.iss.src.s[a]).toNat % 2 ^ 48 / 65536 * 65536) false 0)) := by
  have hlt := (s.iss.src.s[a]).isLt
  have hkind : bits (s.rS a).toNat 63 60 = (s.iss.src.s[a]).toNat / 2 ^ 60 := by
    show (s.iss.src.s[a]).toNat / 2 ^ 60 % 16 = _
    omega
  have hpage : bits (s.rS a).toNat 47 16 = (s.iss.src.s[a]).toNat % 2 ^ 48 / 65536 := by
    show (s.iss.src.s[a]).toNat / 2 ^ 16 % 2 ^ 32 = _
    omega
  have he : exec (.tlbinv a) s = .next (s.parkAfter (.tlbinv (bits (s.rS a).toNat 63 60) (bits (s.rS a).toNat 59 56) (bits (s.rS a).toNat 47 16 * 65536) false 0)) :=
    if_neg (Nat.not_lt.mpr (hkind ▸ h))
  rw [he, hkind, hpage]
  exact next_of (parked_parkAfter s _)

theorem evpost_issues : Next (exec (.evpost a) s) (fun t =>
    Issued s t (fun p => p.dest = none ∧ p.rel = true) (.evpost (s.iss.src.s[a])) (.peer s.me.pl.o 0 0)) :=
  next_of (issued_issueOp s _ _ _ 0 _ ⟨rfl, rfl⟩ rfl rfl rfl rfl)

/-! ### Keys (R432, R433) -/

/-- A slot that no enabled owner names is emptied. -/
theorem keyzap_empties (h : ∀ k, k < 16 → s.enabled k = true → (s.iss.src.s[a]).toNat % 32 ∉ s.keysNamed k) :
    exec (.keyzap a) s = .next { s with trust := { s.trust with keys := s.trust.keys.filter (fun p => p.1 != (s.iss.src.s[a]).toNat % 32) } } := by
  have hk : bits (s.rS a).toNat 4 0 = (s.iss.src.s[a]).toNat % 32 := by simp [bits, State.rS]
  show execKeyzap a s = _
  unfold execKeyzap
  rw [hk]
  dsimp only
  rw [if_neg (by simpa using h)]
  rfl

/-- The state after a good keyld: the slot holds the block, and the block is zeroed (R432). -/
def keyLoaded (s : State) (k at_ : Nat) (ea : Addr) (blk : List Byte) : State :=
  ((((s.chargeMem false (.dram 0 at_ .cacheable)).putKey k (BitVec.ofNat 512 (leNat blk))).unitWrite (.dram 0 at_ .cacheable) (List.replicate 64 0)).parkAfter
    (.keyld k ea)).modMe (fun t => { t with woken := true })

theorem keyld_loads {k at_ : Nat} (hk : k = (s.iss.src.s[a]).toNat % 32) (hat : at_ = (s.iss.src.s[b]).toNat % 2 ^ 48) (halign : (s.iss.src.s[b]).toNat % 64 = 0)
    (hfree : s.blockedKey k = false) (hgood : s.platPoisoned at_ = false) (hhalves : (s.platRead at_ 64).take 32 ≠ (s.platRead at_ 64).drop 32) :
    exec (.keyld a b) s = .next (keyLoaded s k at_ ((s.iss.src.s[b]).setWidth 48) (s.platRead at_ 64)) := by
  have hslot : bits (s.rS a).toNat 4 0 = k := by rw [hk]; simp [bits, State.rS]
  have hea : (ea0 (s.rS b)).toNat = at_ := by rw [hat]; exact BitVec.toNat_setWidth ..
  have hmul : at_ % 64 = 0 := by omega
  show execKeyld a b s = _
  unfold execKeyld
  rw [hslot]
  dsimp only
  rw [hea, if_neg (by simp [hmul]), if_neg (by simp [hfree]), if_neg (by simp [hgood]), if_neg hhalves]
  rfl

section
variable {k at_ : Nat} {ea : Addr} {blk : List Byte}

/-- A key that is put into its slot changes nothing else. -/
theorem keyLoaded_trust : (keyLoaded s k at_ ea blk).trust.keys = alSet k (BitVec.ofNat 512 (leNat blk)) s.trust.keys := by
  unfold keyLoaded State.modMe State.parkAfter
  dsimp only
  rw [unitWrite_trust]
  unfold State.putKey State.modTrust
  dsimp only
  rw [trust_of_settles (settles_chargeMem s false _)]

theorem keyLoaded_me : (keyLoaded s k at_ ea blk).me = { s.me with park := .keyld k ea, woken := true } := by
  unfold keyLoaded State.modMe State.parkAfter
  dsimp only
  rw [unitWrite_me]
  unfold State.putKey State.modTrust
  dsimp only
  rw [me_of_settles (settles_chargeMem s false _)]

theorem keyLoaded_regs : (keyLoaded s k at_ ea blk).regs = s.regs := by
  unfold keyLoaded State.modMe State.parkAfter
  dsimp only
  rw [unitWrite_regs]
  exact regs_of_settles (s := s) (t := s.chargeMem false (.dram 0 at_ .cacheable)) (settles_chargeMem s false _)

/-- What platform bytes are read from. -/
theorem platRead_congr {s t : State} (hm : t.mem = s.mem) (ho : t.owners = s.owners) (a n : Nat) : t.platRead a n = s.platRead a n := by
  have howner : t.owner 0 = s.owner 0 := by unfold State.owner; rw [ho]
  rw [platRead_eq, platRead_eq, hm]
  unfold State.dramKey
  rw [howner]

theorem keyLoaded_platRead (n : Nat) : (keyLoaded s k at_ ea blk).platRead at_ n =
    (((s.chargeMem false (.dram 0 at_ .cacheable)).putKey k (BitVec.ofNat 512 (leNat blk))).unitWrite (.dram 0 at_ .cacheable) (List.replicate 64 0)).platRead
      at_ n := by
  unfold keyLoaded
  exact platRead_congr (by simp only [State.modMe_mem, State.parkAfter_mem]) (by simp only [State.modMe_owners, State.parkAfter_owners]) at_ n

/-- The block reads as zeros, unless its layer is lost (R399). -/
theorem keyLoaded_zeroes (halign : at_ % 64 = 0) (hm : MemOk s) (hl : s.lostKey (s.dramKey 0 at_) = false) :
    (keyLoaded s k at_ ea blk).platRead at_ 64 = List.replicate 64 0 := by
  have hs := settles_chargeMem s false (.dram 0 at_ .cacheable)
  rw [keyLoaded_platRead, platRead_block (by omega), dramKey_unitWrite]
  generalize s.chargeMem false (.dram 0 at_ .cacheable) = u at hs
  have hkey : u.dramKey 0 at_ = s.dramKey 0 at_ := locKey_of_settles hs (.dram 0 at_ .cacheable)
  have hlost : u.lostKey (u.dramKey 0 at_) = false := by rw [hkey, lostKey_of_settles hs, hl]
  have hm' : MemOk (u.putKey k (BitVec.ofNat 512 (leNat blk))) := (wf_of_settles hs).trans hm
  have hread := read_of_stored (stored_unitWrite (k := .cacheable) (bs := List.replicate 64 0) hm' hlost)
  rwa [List.length_replicate] at hread

end

/-! ### scrub (R438) -/

/-- Where the arbiter has room, an event that is raised waits there. -/
theorem raiseEv_told (h : EvRoom s) (e : Ev) : ∃ y ∈ (s.raiseEv e).trust.events, y.ty = e.ty ∧ y.o = e.o := by
  rw [raiseEv_joins _ _ (heldKind_of_room h _)]
  exact ⟨_, List.mem_append_right _ (List.mem_singleton_self _), rfl, rfl⟩

/-- The state after a scrub that starts, with the scrub register that names it (R438, R442). -/
def scrubStarted (s : State) (o : Nat) (entry : Pending) (w : Word) : State :=
  (((((s.modTrust (fun t => { t with pendings := t.pendings ++ [entry] })).modRegs (fun r => { r with scrubprog := w })).modOwner o
    (fun x => { x with freezing := some 0x81 })).raiseEv { ty := 0x31, o := o, src := 6 })).parkAfter (.scrub o)

/-- The scrub register names the owner whose scrub runs (R438). -/
theorem setProg_busy {o : Nat} (ho : o < 16) (s : State) (total : Nat) :
    ∃ w, s.setProg true o 1 total 0 = s.modRegs (fun r => { r with scrubprog := w }) ∧ bit w.toNat 63 = true ∧ bits w.toNat 62 59 = o := by
  have hlt : total % 2 ^ 24 < 2 ^ 24 := Nat.mod_lt _ (by decide)
  refine ⟨_, rfl, ?_⟩
  rw [if_pos rfl, BitVec.toNat_ofNat, Nat.mod_eq_of_lt (by omega)]
  refine ⟨?_, ?_⟩
  · rw [bit, beq_iff_eq]
    omega
  · show _ / 2 ^ 59 % 16 = o
    omega

/-- What the teardown of an owner keeps of it (R438). -/
def scrubEntry (s : State) (o : Nat) : Pending :=
  { o := o, desc := (s.owner o).desc, areas := s.areasOf o, keys := [State.dkey (s.owner o).cfg.toNat, State.fkey (s.owner o).cfg.toNat] }

theorem scrub_starts {o : Nat} (ho : o = (s.iss.src.s[a]).toNat % 16) (h0 : o ≠ 0) (hs : (s.owner o).inScrub = false) (hf : (s.owner o).freezing = none)
    (he : s.enabled o = true) (hb : s.progBusy = false) : ∃ entry w, exec (.scrub a) s = .next (scrubStarted s o entry w) ∧
      bit w.toNat 63 = true ∧ bits w.toNat 62 59 = o ∧ entry.o = o ∧ entry.desc = (s.owner o).desc ∧ entry.final = false := by
  have hsel : bits (s.rS a).toNat 3 0 = o := ho ▸ selector_eq s a
  have hlt : o < 16 := ho ▸ Nat.mod_lt _ (by decide)
  obtain ⟨w, hw, hbusy, hprog⟩ := setProg_busy hlt
    (s.modTrust (fun t => { t with pendings := t.pendings ++ [scrubEntry s o] })) (256 * (s.owner o).desc.mica.length + 2048 * (s.owner o).desc.dram.length + State.areaUnits (s.areasOf o))
  refine ⟨scrubEntry s o, w, ?_, hbusy, hprog, rfl, rfl, rfl⟩
  show execScrub a s = _
  unfold execScrub
  rw [hsel]
  dsimp only
  rw [if_neg h0, if_neg (by simp [hs, hf, he]), if_neg (by simp [hb])]
  exact congrArg (fun u : State => Host.Outcome.next (((u.modOwner o (fun x => { x with freezing := some 0x81 })).raiseEv { ty := 0x31, o := o, src := 6 }).parkAfter
    (.scrub o))) hw

section
variable {o : Nat} {entry : Pending} {w : Word}

theorem scrubStarted_owner : ((scrubStarted s o entry w).owner o).freezing = some 0x81 := by
  have h := owner_modOwner ((s.modTrust (fun t => { t with pendings := t.pendings ++ [entry] })).modRegs (fun r => { r with scrubprog := w })) o o
    (fun x => { x with freezing := some 0x81 })
  rw [if_pos rfl] at h
  exact congrArg Owner.freezing h

theorem scrubStarted_me : (scrubStarted s o entry w).me = { s.me with park := .scrub o, woken := false } := rfl
theorem scrubStarted_mem : (scrubStarted s o entry w).mem = s.mem := by
  unfold scrubStarted
  rw [State.parkAfter_mem, State.raiseEv_mem, State.modOwner_mem, State.modRegs_mem, State.modTrust_mem]
theorem scrubStarted_prog : (scrubStarted s o entry w).regs.scrubprog = w := rfl
theorem scrubStarted_pendings : (scrubStarted s o entry w).trust.pendings = s.trust.pendings ++ [entry] := rfl

theorem scrubStarted_event (h : EvRoom s) : ∃ e ∈ (scrubStarted s o entry w).trust.events, e.ty = 0x31 ∧ e.o = o :=
  raiseEv_told (s := ((s.modTrust (fun t => { t with pendings := t.pendings ++ [entry] })).modRegs (fun r => { r with scrubprog := w })).modOwner o
    (fun x => { x with freezing := some 0x81 })) h { ty := 0x31, o := o, src := 6 }

theorem scrubStarted_next (hbusy : bit w.toNat 63 = true) (hprog : bits w.toNat 62 59 = o) (ho : entry.o = o) (hd : entry.desc = (s.owner o).desc)
    (hf : entry.final = false) : Next (.next (scrubStarted s o entry w)) (fun t =>
      (t.owner o).freezing = some 0x81 ∧ t.me = { s.me with park := .scrub o, woken := false } ∧ SameBytes s t ∧ t.progBusy = true ∧ t.progOwner = o ∧
      (∃ q, t.trust.pendings = s.trust.pendings ++ [q] ∧ q.o = o ∧ q.desc = (s.owner o).desc ∧ q.final = false) ∧
      (EvRoom s → ∃ e ∈ t.trust.events, e.ty = 0x31 ∧ e.o = o)) := by
  refine next_of ⟨scrubStarted_owner, scrubStarted_me, fun k => congrArg (Mem.getB · k) scrubStarted_mem, ?_, ?_, ⟨entry, scrubStarted_pendings, ho, hd, hf⟩,
    scrubStarted_event⟩
  · rw [State.progBusy, scrubStarted_prog, hbusy]
  · rw [State.progOwner, scrubStarted_prog, hprog]

end

/-! ### waypart (R309) -/

theorem slice_n (s : State) (n : Nat) : (s.slice n).n = n := by
  unfold State.slice
  cases h : s.slices.find? (fun x => x.n == n) with
  | none => rfl
  | some x => simpa using List.find?_some h

/-- The slice that is set is read back. -/
theorem slice_setSlice {x : Slice} {n : Nat} (hx : x.n = n) : (s.setSlice x).slice n = x := by
  subst hx
  have hcomp : ((fun y : Slice => y.n == x.n) ∘ fun y => if y.n == x.n then x else y) = fun y => y.n == x.n := by
    funext y
    simp only [Function.comp]
    split <;> simp [*]
  unfold State.slice State.setSlice
  dsimp only
  split
  · rename_i h
    obtain ⟨y, hy⟩ := Option.isSome_iff_exists.mp (List.find?_isSome.mpr (List.any_eq_true.mp h))
    rw [List.find?_map, hcomp, hy, Option.map_some, if_pos (List.find?_some hy)]
    rfl
  · rename_i h
    rw [List.find?_append, List.find?_eq_none.mpr fun y hy hp => h (List.any_eq_true.mpr ⟨y, hy, hp⟩)]
    simp

/-- A change of a slice's ways has started, and the thread waits for its end. -/
def wayChanging (s : State) (n w : Nat) : State :=
  (s.setSlice { s.slice n with target := some ((s.slice n).ways, w), size := min (s.slice n).ways w }).parkAfter (.waypart n)

theorem slice_wayChanging (s : State) (n w : Nat) :
    (wayChanging s n w).slice n = { s.slice n with target := some ((s.slice n).ways, w), size := min (s.slice n).ways w } :=
  slice_setSlice (x := { s.slice n with target := some ((s.slice n).ways, w), size := min (s.slice n).ways w }) (slice_n s n)

theorem wayChanging_next (s : State) (n w : Nat) : Next (.next (wayChanging s n w)) (fun t =>
    (t.slice n).target = some ((s.slice n).ways, w) ∧ (t.slice n).size = min (s.slice n).ways w ∧
    t = { s with slices := t.slices, me := { s.me with park := .waypart n, woken := false } } ∧ SameBytes s t) := by
  refine next_of ⟨?_, ?_, rfl, fun _ => rfl⟩ <;> rw [slice_wayChanging]

theorem waypart_starts {n : Nat} (hn : n = (s.iss.src.s[a]).toNat % 64) (hw : (s.iss.src.s[b]).toNat % 16 ≤ 12) (hmap : bit s.regs.slicemap.toNat n = true)
    (hnone : (s.slice n).target = none) : exec (.waypart a b) s = .next (wayChanging s n ((s.iss.src.s[b]).toNat % 16)) := by
  have hsel : bits (s.rS a).toNat 5 0 = n := hn ▸ position_eq _
  show execWaypart a b s = _
  unfold execWaypart
  rw [hsel, selector_eq]
  dsimp only
  rw [if_neg (Nat.not_lt.mpr hw), if_neg (by simp [hmap]), if_neg (by simp [hnone])]
  rfl

end

/-- Settles O27: each service by its own operation. That keyld takes its whole effect at issue is the model's choice (log 37). -/
theorem monitorServices : Obligations.MonitorServices := by
  unfold Obligations.MonitorServices
  intro s a b x y blk o n
  refine ⟨tlbinv_parks, fun halign hfree hgood hhalves => ?_, keyzap_empties, evpost_issues, fun h0 hs hf he hb => ?_, fun hw hmap hnone => ?_⟩
  · rw [keyld_loads rfl rfl halign hfree hgood hhalves]
    exact next_of ⟨keyLoaded_trust, keyLoaded_me, keyLoaded_regs, keyLoaded_zeroes (by omega)⟩
  · obtain ⟨entry, w, hexec, hbusy, hprog, howner, hdesc, hfinal⟩ := scrub_starts rfl h0 hs hf he hb
    rw [hexec]
    exact scrubStarted_next hbusy hprog howner hdesc hfinal
  · rw [waypart_starts rfl hw hmap hnone]
    exact wayChanging_next s _ _

end Sys2Proof.Laws

/-! SUPPORT. CopyUnit: the beginning of a copy command, a turn of its units, its completion, and O38. -/

namespace Sys2Proof.Laws

open Sys2Proof.Machine Sys2Proof.Safety

/-! ### The command of a core (R245) -/

section
variable {s : State} {p : Place} {m m' : Copy}

theorem copyHead_alone (h : (s.core p).mbox = [m]) : s.copyHead p = some m := by rw [State.copyHead, h]; rfl

theorem core_setMbox (s : State) (p : Place) (xs : List Copy) : (s.setCore { s.core p with mbox := xs }).core p = { s.core p with mbox := xs } := by
  have h := core_setCore s { s.core p with mbox := xs }
  rwa [core_pl] at h

/-- The only command of a core is replaced. -/
theorem mbox_setCopy (h : (s.core p).mbox = [m]) (hid : m'.id = m.id) : ((s.setCopy p m').core p).mbox = [m'] := by
  unfold State.setCopy
  dsimp only
  rw [core_setMbox, h]
  simp [hid]

theorem unitRuns_resident (hres : s.resident p.o p.l = true) (hpause : s.rot.pause = none) (htrip : s.trust.tripped = false) : s.unitRuns p = true := by
  simp [State.unitRuns, hres, hpause, htrip]

/-- Nothing of the submitting thread from before the command is under way. -/
theorem submitted_quiet (hx : ∀ x, s.thread? m.uid = some x → x.saw = [] ∧ ∀ y ∈ x.ops, y.acc = false ∧ y.acq = false)
    (hnet : ∀ r ∈ s.net, r.uid = m.uid → m.id ≤ r.id) : s.submitted m = true := by
  have hreq : s.net.any (fun r => r.uid == m.uid && decide (r.id < m.id)) = false := by simpa using hnet
  unfold State.submitted
  rw [hreq]
  cases h : s.thread? m.uid with
  | none => rfl
  | some x =>
    obtain ⟨hsaw, hops⟩ := hx x h
    have hquiet : x.ops.any (fun o => decide (o.id < m.id) && (o.acc || o.acq)) = false := by
      rw [List.any_eq_false]
      intro y hy
      simp [hops y hy]
    simp [hquiet, State.sawOpen, hsaw]

/-! ### Beginning (R245, R248) -/

section
variable {o l c : Nat}

section
variable (hp : p = ⟨o, l, c⟩) (h : (s.core p).mbox = [m]) (hruns : s.unitRuns p = true) (hbegun : m.begun = false) (hsub : s.submitted m = true)
include hp h hruns hbegun hsub

theorem copyCommandBegin_plain (hk : isIndexed m.kind = false) : exec (.copyCommandBegin o l c) s = .next (s.setCopy p { m with begun := true }) := by
  subst hp
  show execCopyCommandBegin o l c s = _
  unfold execCopyCommandBegin
  simp only [copyHead_alone h, hbegun, hruns, hsub, hk, Bool.not_true, Bool.or_self, Bool.false_eq_true, if_false]

/-- An indexed form reads its index array, which is not poisoned. -/
theorem copyCommandBegin_indexed {off : Nat} (hk : isIndexed m.kind = true) (hown : s.ownOff p (BitVec.ofNat 48 (qd m.q 4)) = some off)
    (hgood : ∀ i, i < cRows m.kind m.q → s.mem.poisoned (scrKey p off + 4 * i) = false) : exec (.copyCommandBegin o l c) s =
      .next (s.setCopy p { m with begun := true, idx := (List.range (cRows m.kind m.q)).map (fun i => leNat (s.mem.read (scrKey p off + 4 * i) 4)) }) := by
  subst hp
  have hclean : (List.range (cRows m.kind m.q)).any (fun i => s.mem.poisoned (scrKey ⟨o, l, c⟩ off + 4 * i)) = false := by simpa using hgood
  show execCopyCommandBegin o l c s = _
  unfold execCopyCommandBegin
  simp only [copyHead_alone h, hbegun, hruns, hsub, hk, hown, hclean, Bool.not_true, Bool.or_self, Bool.false_eq_true, if_false, if_true]

end

theorem setCopy_next (h : (s.core p).mbox = [m]) (hid : m'.id = m.id) :
    Next (.next (s.setCopy p m')) (fun t => SameBytes s t ∧ (t.core p).mbox = [m']) :=
  next_of ⟨fun _ => rfl, mbox_setCopy h hid⟩

/-- An address in the own scratchpad is an offset there. -/
theorem ownOff_own {ea : Addr} {off : Nat} (h : s.region p ea = .scr p off) : s.ownOff p ea = some off := by
  unfold State.ownOff
  rw [h]
  exact if_pos rfl

end

/-! ### One unit of 16 bytes in the own scratchpad (R248) -/

/-- A descriptor with neither CHEN nor TAGEN nor PUSH. -/
theorem plain_flags (h : bits (qd m.q 5) 4 2 = 0) : cChen m.q = false ∧ cTagen m.q = false ∧ cPush m.q = false := by
  have hz : qd m.q 5 / 2 ^ 2 % 8 = 0 := h
  simp only [cChen, cTagen, cPush, bit, beq_eq_false_iff_ne]
  omega

section
variable {src dst : Nat}

/-- The first unit of a one-dimensional copy lies at the two bases. -/
theorem firstUnit (hk : m.kind = 0) (hu : m.unit = 0) : m.srcAt m.unit = some (BitVec.ofNat 48 (cSrc m.q)) ∧ m.dstAt m.unit = BitVec.ofNat 48 (cDst m.q) := by
  simp [Copy.srcAt, Copy.dstAt, hk, hu, cPlane, cRow, cCol]

/-- A scratchpad is no home of a line: an access there touches no cache. -/
theorem chargeMem_scr (w : Bool) (q : Place) (off : Nat) : s.chargeMem w (.scr q off) = s := by
  have htouch : s.homeTouch w false (.scr q off) = s := by
    have hhome : s.homeOf (.scr q off) = none := ite_self _
    unfold State.homeTouch
    rw [hhome]
  show s.settled (s.homeTouch w false (.scr q off)) = s
  rw [htouch, settled_self]

theorem unitRead_scr (hgood : s.poisonedKey (scrKey p src) = false) :
    s.unitRead (.scr p src) = (.ok (s.mem.read (scrKey p src) 16), s) := by
  have hbad : s.locBad (.scr p src) = false := hgood
  unfold State.unitRead
  dsimp only
  rw [hbad, if_neg Bool.false_ne_true, chargeMem_scr]
  rfl

/-- The command after its only unit has been read and sent. -/
def unitSent (s : State) (p : Place) (m : Copy) (src dst : Nat) : Copy :=
  { m with unit := 1, finished := true, wq := [{ n := 0, ea := BitVec.ofNat 48 (cDst m.q), loc := .scr p dst, bytes := s.mem.read (scrKey p src) 16 }] }

theorem copyUnit_sends (hk : m.kind = 0) (hu : m.unit = 0) (hwq : m.wq = []) (hfail : m.fail = none) (hw : cW m.q = 16) (hflags : bits (qd m.q 5) 4 2 = 0)
    (hsrc : s.region p (BitVec.ofNat 48 (cSrc m.q)) = .scr p src) (hdst : s.region p (BitVec.ofNat 48 (cDst m.q)) = .scr p dst)
    (hgood : s.poisonedKey (scrKey p src) = false) : s.copyUnit p m = some (s, unitSent s p m src dst) := by
  obtain ⟨hchen, -, -⟩ := plain_flags hflags
  obtain ⟨hs, hd⟩ := firstUnit hk hu
  have hfrom : s.sourceLoc p (BitVec.ofNat 48 (cSrc m.q)) = .ok (.scr p src) := by
    unfold State.sourceLoc State.unitLoc
    rw [hsrc]
  have hto : s.shadowLoc p m.shadow (BitVec.ofNat 48 (cDst m.q)) = .ok (.scr p dst, m.shadow) := by
    unfold State.shadowLoc
    rw [hdst]
  have htotal : cTotal m.kind m.q = 1 := by simp [cTotal, cRows, cPlanes, hk, hw]
  unfold State.copyUnit unitSent
  simp only [hs, hd, hchen, hsrc, hdst, hfrom, hto, Bool.false_and]
  simp [State.firstError, Except.map, State.copyClash, State.srcClash, State.markClash, State.heldBack, hwq, hfail, hu, htotal, unitRead_scr hgood]

/-- The threads of the core that CHEN names look again at its channels. -/
def chenWoken (s : State) (p : Place) (m : Copy) : State :=
  match s.chenCore p m with
  | some c => s.wakeChans c
  | none => s

theorem chenWoken_core (s : State) (p : Place) (m : Copy) (q : Place) : (chenWoken s p m).core q = s.core q := by
  unfold chenWoken
  split <;> rfl
theorem chenWoken_mem (s : State) (p : Place) (m : Copy) : (chenWoken s p m).mem = s.mem := by
  unfold chenWoken
  split <;> rfl

/-- With no tags and no channel, nothing is marked. -/
theorem settleMarks_plain (hflags : bits (qd m.q 5) 4 2 = 0) (htouched : m.touched = []) : s.settleMarks p m = (chenWoken s p m, m) := by
  obtain ⟨hchen, htagen, -⟩ := plain_flags hflags
  have hdone : s.doneSectors p m = [] := by
    unfold State.doneSectors
    rw [htouched]
    rfl
  unfold State.settleMarks
  simp [hdone, htagen, State.markAll, hchen]
  rfl

section
variable {o l c : Nat}

/-- A turn of the copy unit takes the only unit of the command (R248). -/
theorem copyUnitTurn_sends (hp : p = ⟨o, l, c⟩) (h : (s.core p).mbox = [m]) (hruns : s.unitRuns p = true) (hbegun : m.begun = true)
    (hfin : m.finished = false) (htouched : m.touched = []) (hflags : bits (qd m.q 5) 4 2 = 0)
    (hunit : s.copyUnit p m = some (s, unitSent s p m src dst)) :
    exec (.copyUnitTurn o l c) s = .next ((chenWoken s p (unitSent s p m src dst)).setCopy p (unitSent s p m src dst)) := by
  subst hp
  have hunits : s.copyUnits ⟨o, l, c⟩ m 32 = (s, unitSent s ⟨o, l, c⟩ m src dst) := by
    unfold State.copyUnits
    rw [hunit]
    unfold State.copyUnits
    simp [hfin, unitSent]
  have hmarks := settleMarks_plain (s := s) (p := ⟨o, l, c⟩) (m := unitSent s ⟨o, l, c⟩ m src dst) hflags htouched
  show execCopyUnitTurn o l c s = _
  unfold execCopyUnitTurn
  simp only [copyHead_alone h, hbegun, hfin, hruns, Bool.not_true, Bool.or_self, Bool.false_eq_true, if_false]
  rw [hunits]
  dsimp only
  rw [hmarks]

theorem mem_setCopy : (s.setCopy p m).mem = s.mem := rfl

end

end

/-! ### Completion (R250) -/

section
variable {w : CWrite} {m' : Copy} {dst : Nat} {bs : List Byte}

/-- The bytes of a number are those of its low part. -/
theorem leBytes_mod (n : Nat) : ∀ x, leBytes n (x % 256 ^ n) = leBytes n x := by
  induction n with
  | zero => exact fun _ => rfl
  | succ n ih =>
    intro x
    have hlow : BitVec.ofNat 8 (x % 256 ^ (n + 1)) = BitVec.ofNat 8 x := BitVec.eq_of_toNat_eq (by
      rw [BitVec.toNat_ofNat, BitVec.toNat_ofNat]
      exact Nat.mod_mod_of_dvd _ (Dvd.intro_left (256 ^ n) (pow_succ 256 n).symm))
    have hhigh : x % 256 ^ (n + 1) / 256 = x / 256 % 256 ^ n := by
      rw [pow_succ', Nat.mod_mul_right_div_self]
    rw [leBytes, leBytes, hlow, hhigh, ih]

/-- The state from which a plain command leaves its mailbox. -/
def statusStored (s : State) (p : Place) (m : Copy) : State :=
  if bits (qd m.q 7) 47 0 = 0 then s
  else match s.ownOff p (BitVec.ofNat 48 (qd m.q 7)) with
    | some off => s.modMem (fun x => x.write (scrKey p off) (leBytes 8 (State.copyStatus m).toNat))
    | none => s

theorem copyStatus_done (hfail : m.fail = none) : State.copyStatus m = BitVec.ofNat 64 (m.unit * 2 ^ 32) := by
  rw [State.copyStatus, hfail, Option.getD_none, Nat.zero_mul, Nat.zero_mul, Nat.add_zero]

/-- A plain command that has not failed stores its status, leaves its mailbox and wakes who waits for one. -/
theorem finishCopy_plain (hfail : m.fail = none) (hflags : bits (qd m.q 5) 4 2 = 0) : s.finishCopy p m =
    chenWoken (((statusStored s p m).setCore (State.takeBox { (statusStored s p m).core p with
      mbox := ((statusStored s p m).core p).mbox.filter (fun x => x.id != m.id) })).wakeParked p .mailbox) p m := by
  obtain ⟨hchen, htagen, hpush⟩ := plain_flags hflags
  unfold State.finishCopy statusStored chenWoken
  simp [htagen, State.markAll, hchen, hpush, hfail] <;> rfl

theorem mbox_takeBox_nil {k : Core} (h : k.mbox = []) : (State.takeBox k).mbox = [] := by
  unfold State.takeBox
  rw [h]
  cases State.freeBox k <;> exact h

/-- The only command of a core leaves its mailbox empty. -/
theorem finishCopy_empties (hfail : m.fail = none) (hflags : bits (qd m.q 5) 4 2 = 0) (hbox : ((statusStored s p m).core p).mbox = [m']) (hid : m'.id = m.id) : ((s.finishCopy p m).core p).mbox = [] := by
  rw [finishCopy_plain hfail hflags, chenWoken_core]
  have hpl : ((statusStored s p m).core p).pl = p := core_pl _ p
  have hnil : ((statusStored s p m).core p).mbox.filter (fun x => x.id != m.id) = [] := by
    simp [hbox, hid]
  have hcore : ∀ k : Core, k.pl = p → k.mbox = [] → (((statusStored s p m).setCore (State.takeBox k)).core p).mbox = [] := by
    intro k hk hm
    have hpl' : (State.takeBox k).pl = p := by
      unfold State.takeBox
      split <;> exact hk
    have h := core_setCore (statusStored s p m) (State.takeBox k)
    rw [hpl'] at h
    rw [h, mbox_takeBox_nil hm]
  exact hcore _ hpl hnil

theorem finishCopy_mem (hfail : m.fail = none) (hflags : bits (qd m.q 5) 4 2 = 0) : (s.finishCopy p m).mem = (statusStored s p m).mem := by
  rw [finishCopy_plain hfail hflags, chenWoken_mem, wakeParked_mem]
  rfl

/-! ### The writes that are left (R249, R269) -/

/-- A captured write stands nowhere before it. -/
theorem copyBehind_none (h : (s.core p).mbox = [m]) (hwq : m.wq = [w]) (hnet : ∀ y ∈ s.net, y.cap = false) : s.copyBehind p w = false := by
  have hreq : s.reqCap p w.loc = false := by
    unfold State.reqCap
    rw [List.any_eq_false]
    intro y hy
    simp [hnet y hy]
  have hunit : w.cap = false → s.unitCap p w.loc = false := by
    intro hcap
    simp [State.unitCap, h, hwq, hcap]
  unfold State.copyBehind
  cases hcap : w.cap with
  | true => rfl
  | false => simp [hreq, hunit hcap]

/-- A write to a scratchpad that is already placed goes where it was sent. -/
theorem writeAt_scr (hlate : w.late = false) (hloc : w.loc = .scr p dst) (hreg : s.region p w.ea = .scr p dst) : s.writeAt p m w = .ok (.scr p dst, m.shadow) := by
  have hfixed : s.unfixed p m w = false := by
    unfold State.unfixed State.openPair
    rw [hlate, hreg]
    rfl
  unfold State.writeAt
  rw [hfixed, hloc]
  exact if_neg Bool.false_ne_true

theorem copyHeld_scr (hlate : w.late = false) (hloc : w.loc = .scr p dst) (hreg : s.region p w.ea = .scr p dst) : s.copyHeld p m w = false := by
  unfold State.copyHeld
  rw [writeAt_scr hlate hloc hreg]
  rfl

theorem writes_free (hwq : m.wq = [w]) (hheld : s.copyHeld p m w = false) (hbehind : s.copyBehind p w = false) :
    m.wq.any (fun w => s.copyHeld p m w || s.copyBehind p w) = false := by
  simp [hwq, hheld, hbehind]

/-- A byte of a scratchpad lies on no column. -/
theorem lostKey_scr (q : Place) (off : Nat) : s.lostKey (scrKey q off) = false := by
  have hfar : ¬scrKey q off < 2 ^ 37 := by unfold scrKey; omega
  unfold State.lostKey
  rw [decide_eq_false hfar, Bool.false_and]

theorem writeLoc_scr (q : Place) (off : Nat) : s.writeLoc (.scr q off) bs = s.modMem (fun x => x.write (scrKey q off) bs) := by
  unfold State.writeLoc
  rw [show s.locKey (.scr q off) = scrKey q off from rfl, lostKey_scr, Bool.false_and, if_neg Bool.false_ne_true]
  rfl

/-- The command after its only write, which is performed. -/
def writeDone (m : Copy) (key : Nat) : Copy := { m with wq := [], touched := State.touch m.touched key }

theorem copyWrites_one (htouched : m.touched = []) (hfail : m.fail = none) (hwq : m.wq = [w]) (hlate : w.late = false) (hloc : w.loc = .scr p dst)
    (hreg : s.region p w.ea = .scr p dst) (hbehind : s.copyBehind p w = false) :
    s.copyWrites p m (fun _ => true) = (s.modMem (fun x => x.write (scrKey p dst) w.bytes), writeDone m (scrKey p dst)) := by
  have hheld := copyHeld_scr (m := m) hlate hloc hreg
  have hchosen : s.chosen p m (fun _ => true) false ((List.range m.wq.length).zip m.wq) = [w.n] := by
    rw [hwq]
    simp [State.chosen, hheld, hbehind]
  have hpart : alGet 0 (scrKey p dst / 128) (State.touch m.touched (scrKey p dst)) ≠ 255 := by
    rw [htouched, State.touch, alGet_alSet, if_pos rfl, show alGet 0 (scrKey p dst / 128) ([] : List (Nat × Nat)) = 0 from rfl]
    have h : scrKey p dst % 128 / 16 < 8 := by omega
    revert h
    generalize scrKey p dst % 128 / 16 = j
    revert j
    decide
  have hwrite : s.copyWrite p m w.n = (s.modMem (fun x => x.write (scrKey p dst) w.bytes), writeDone m (scrKey p dst)) := by
    unfold State.copyWrite
    rw [hwq]
    simp only [List.find?_cons, beq_self_eq_true, hfail, Option.isSome_none, Bool.false_and, Bool.false_eq_true, if_false]
    rw [writeAt_scr hlate hloc hreg]
    simp [State.unitStore, writeLoc_scr, State.clearWhole, State.locKey, hpart, writeDone, hfail]
  unfold State.copyWrites
  rw [hchosen, List.foldl_cons, List.foldl_nil, hwrite]

theorem copyWrites_none (hwq : m.wq = []) (sel : Nat → Bool) : s.copyWrites p m sel = (s, m) := by
  unfold State.copyWrites
  rw [hwq]
  rfl

theorem copyCommandComplete_eq {o l c : Nat} (hp : p = ⟨o, l, c⟩) (h : (s.core p).mbox = [m]) (hruns : s.unitRuns p = true) (hfin : m.finished = true)
    (hfree : m.wq.any (fun w => s.copyHeld p m w || s.copyBehind p w) = false) : exec (.copyCommandComplete o l c) s =
      .next ((s.copyWrites p m (fun _ => true)).1.finishCopy p (s.copyWrites p m (fun _ => true)).2) := by
  subst hp
  show execCopyCommandComplete o l c s = _
  unfold execCopyCommandComplete
  simp only [copyHead_alone h, hfin, hruns, hfree, Bool.not_false, Bool.and_self, if_true]

end

end

/-- Settles O38: the head command of a core begins, takes its unit of 16 bytes, and leaves its mailbox with its status stored. -/
theorem copyUnitsMove : Obligations.CopyUnitsMove := by
  unfold Obligations.CopyUnitsMove
  intro s o l c m src dst off bs p hbox hres hpause htrip
  have hruns : s.unitRuns p = true := unitRuns_resident hres hpause htrip
  refine ⟨fun hbegun hx hnet => ⟨fun h3 h4 => ?_, ?_⟩, ?_, ?_⟩
  · rw [copyCommandBegin_plain rfl hbox hruns hbegun (submitted_quiet hx hnet) (by simp [isIndexed, h3, h4])]
    exact setCopy_next hbox rfl
  · intro hk hreg n hgood
    have hidx : isIndexed m.kind = true := by simpa [isIndexed] using hk
    have hn : cRows m.kind m.q = n := by
      unfold cRows
      rcases hk with hk | hk <;> rw [hk] <;> rfl
    rw [copyCommandBegin_indexed rfl hbox hruns hbegun (submitted_quiet hx hnet) hidx (ownOff_own hreg) (hn ▸ hgood), hn]
    exact setCopy_next hbox rfl
  · intro hbegun hfin _ hk hu htouched hwq hfail hw hflags hsrc hdst hgood
    rw [copyUnitTurn_sends rfl hbox hruns hbegun hfin htouched hflags (copyUnit_sends hk hu hwq hfail hw hflags hsrc hdst hgood)]
    refine next_of ⟨?_, _, mbox_setCopy (m := m) ?_ rfl, rfl, rfl, rfl, hfail, rfl⟩
    · rw [mem_setCopy, chenWoken_mem]
    · rw [chenWoken_core, hbox]
  · intro hm hnet hfin hfail htouched hflags
    refine ⟨fun hstatus hwq => ?_, fun w hstatus hwq hlate hloc hbytes hreg => ?_, fun hstatus hwq hreg => ?_⟩
    · have hst : statusStored s p m = s := if_pos hstatus
      rw [copyCommandComplete_eq rfl hbox hruns hfin (by rw [hwq]; rfl), copyWrites_none hwq]
      refine next_of ⟨fun k => ?_, finishCopy_empties hfail hflags (by rw [hst]; exact hbox) rfl⟩
      rw [finishCopy_mem hfail hflags, hst]
    · have hbehind := copyBehind_none hbox hwq hnet
      rw [copyCommandComplete_eq rfl hbox hruns hfin (writes_free hwq (copyHeld_scr hlate hloc hreg) hbehind),
        copyWrites_one htouched hfail hwq hlate hloc hreg hbehind, hbytes]
      dsimp only
      have hst : statusStored (s.modMem (fun x => x.write (scrKey p dst) bs)) p (writeDone m (scrKey p dst)) = s.modMem (fun x => x.write (scrKey p dst) bs) :=
        if_pos hstatus
      have hmem := finishCopy_mem (s := s.modMem (fun x => x.write (scrKey p dst) bs)) (p := p) (m := writeDone m (scrKey p dst)) hfail hflags
      rw [hst] at hmem
      refine next_of ⟨stored_write hm rfl hmem, ?_, finishCopy_empties hfail hflags (m' := m) (by rw [hst]; exact hbox) rfl⟩
      rw [hmem]
      exact write_poison _ _ _
    · have hst : statusStored s p m = s.modMem (fun x => x.write (scrKey p off) (leBytes 8 (State.copyStatus m).toNat)) := by
        unfold statusStored
        rw [if_neg hstatus, ownOff_own hreg]
      have hword : leBytes 8 (State.copyStatus m).toNat = leBytes 8 (m.unit * 2 ^ 32) := by
        rw [copyStatus_done hfail, BitVec.toNat_ofNat, show (2 : Nat) ^ 64 = 256 ^ 8 by norm_num, leBytes_mod]
      have hmem := finishCopy_mem (s := s) (p := p) hfail hflags
      rw [hst, hword] at hmem
      rw [copyCommandComplete_eq rfl hbox hruns hfin (by rw [hwq]; rfl), copyWrites_none hwq]
      exact next_of ⟨stored_write hm rfl hmem, finishCopy_empties hfail hflags (by rw [hst]; exact hbox) rfl⟩

end Sys2Proof.Laws

/-! SUPPORT. EngineParts: the arrival, the start and the completion of a command with one part, and O37. -/

namespace Sys2Proof.Laws

open Sys2Proof.Machine Sys2Proof.Safety

/-- The only command under way, and its only part, of a thread that runs no stream; no pause and no trip holds. -/
structure OnePart (s : State) (cid : Nat) (c : Cmd) (p : Part) (x : Thread) : Prop where
  cmds : s.cmds = [c]
  id : c.id = cid
  parts : c.parts = [p]
  unpaused : s.rot.pause = none
  thread : s.thread? c.uid = some x
  task : c.strm = none
  untripped : s.trust.tripped = false

section
variable {s : State} {c : Cmd} {i j : Nat}

/-- An engine that is set is the engine of the part. -/
theorem engineOf_setEngine {e : Engine} (he : e.idx = (s.engineOf c i j).idx) (hx : e.x = (s.engineOf c i j).x) : (s.setEngine e).engineOf c i j = e := by
  have hplace := engineAt_place (s := s) (idx := ((s.tenancyOf c.pl.o (State.engSlot c j)).map (·.idx)).getD 0) (x := State.engX c i)
  exact engineAt_setEngine (he.trans hplace.1) (hx.trans hplace.2)

/-- The engine with the tiles that an mclr names cleared to their anchors (R230). -/
def clearedTiles (q : List Word) (e : Engine) : Engine :=
  { e with a0 := if bit (qd q 0) 32 then { anchor := laneInt 11 (bits (qd q 0) 10 0) } else e.a0
           a1 := if bit (qd q 0) 33 then { anchor := laneInt 11 (bits (qd q 0) 26 16) } else e.a1 }

/-- What fetching leaves of a command (R233). -/
theorem fetchPart_kept (s : State) (c : Cmd) (p : Part) : (s.fetchPart c p).id = c.id ∧ (s.fetchPart c p).parts = c.parts ∧
    (s.fetchPart c p).form = c.form ∧ (s.fetchPart c p).q = c.q := by
  unfold State.fetchPart
  generalize State.partRows c p = ks
  induction ks generalizing c with
  | nil => exact ⟨rfl, rfl, rfl, rfl⟩
  | cons k ks ih => exact ih (s.fetchRow c k (fun _ => true))

/-- A capability entry of the engine accepts the command (R220). -/
def Accepted (s : State) (c : Cmd) (i j : Nat) : Prop := ∃ a ∈ s.caps, a.o = c.pl.o ∧ a.l = State.engSlot c j ∧ a.x = State.engX c i ∧ capMatches a.val c.cap = true

theorem accepted_iff : s.caps.any (fun e => e.o == c.pl.o && e.l == State.engSlot c j && e.x == State.engX c i && capMatches e.val c.cap) = true ↔
    Accepted s c i j := by
  simp [Accepted, and_assoc]

end

theorem cmds_modThread (s : State) (u : Nat) (f : Thread → Thread) : (s.modThread u f).cmds = s.cmds := by
  unfold State.modThread
  split <;> rfl

theorem thread?_finished (s : State) (u id : Nat) (res : VWord) (fl : Flags) (flt : Option FaultRec) :
    (s.modThread u (finished id res fl flt)).thread? u = (s.thread? u).map (finished id res fl flt) :=
  (thread?_modThread s u u (finished id res fl flt) fun _ => rfl).trans (if_pos rfl)

/-- A tile keeps its two marks through an accumulation (R232). -/
theorem accumulate_range {c : Cmd} {p : Part} {t : Acc} (h : t.range = true) : (State.accumulate c p t).range = true := by
  unfold State.accumulate
  dsimp only
  rw [h, Bool.true_or, Bool.true_or]
theorem accumulate_inexact {c : Cmd} {p : Part} {t : Acc} (h : t.inexact = true) : (State.accumulate c p t).inexact = true := by
  unfold State.accumulate
  dsimp only
  rw [h, Bool.true_or]

/-- The only operation of a task's thread lands as its result comes, and its failure is held (R64, R345). -/
theorem landById_finished_held {x : Thread} {o : Op} {d : Dest} {res : VWord} {fl : Flags} (flt : Option FaultRec) (hs : x.strm = none) (hops : x.ops = [o])
    (hd : o.dest = some d) (hdisc : o.disc = false) (hrsv : o.rsv = false) : landById o.id (finished o.id res fl flt x) =
      withDest { x with ops := [], fcsr := x.fcsr ||| fl.setWidth 64, held := x.held ++ flt.toList, woken := x.woken || x.park == Park.limit } d res := by
  have hfinished : finished o.id res fl flt x = { x with ops := [{ o with res := some res, flags := fl, fault := flt }] } := by simp [finished, hops, hd]
  refine (congrArg (landById o.id) hfinished).trans ((landById_only (o := { o with res := some res, flags := fl, fault := flt }) rfl).trans ?_)
  unfold State.landOp
  simp only [hrsv, hdisc, Bool.false_eq_true, if_false]
  refine (landReg_task (d := d) (v := res) ?_ ?_ ?_).trans ?_
  · exact hs
  · exact hd
  · rfl
  · simp

section
variable {s : State} {cid : Nat} {c : Cmd} {p p' : Part} {x : Thread} (h : OnePart s cid c p x)
include h

/-! ### The only command and its only part -/

theorem OnePart.cmd? : s.cmd? cid = some c := by
  unfold State.cmd?
  rw [h.cmds]
  exact List.find?_cons_of_pos (by simp [h.id])

theorem OnePart.part? : State.part? c p.i p.j = some p := by
  unfold State.part?
  rw [h.parts]
  exact List.find?_cons_of_pos (by simp)

/-- No part of another command stands at an engine. -/
theorem OnePart.partsAt (a b : Nat) : s.partsAt c a b = [] := by
  simp [State.partsAt, h.cmds]

/-- The part is replaced. -/
theorem OnePart.setPart (hi : p'.i = p.i) (hj : p'.j = p.j) : State.Cmd.setPart c p' = { c with parts := [p'] } := by
  simp [State.Cmd.setPart, h.parts, hi, hj]

/-- The command is replaced. -/
theorem OnePart.setCmd {t : State} {d : Cmd} (ht : t.cmds = s.cmds) (hd : d.id = c.id) : (t.setCmd d).cmds = [d] := by
  simp [State.setCmd, ht, h.cmds, hd]

theorem OnePart.engineRuns (hres : s.resident c.pl.o (State.engSlot c p.j) = true) : s.engineRuns c p.j = true := by
  simp [State.engineRuns, hres, h.unpaused, h.untripped]

theorem OnePart.engineBusy : s.engineBusy c p = false := by
  unfold State.engineBusy
  rw [h.partsAt]
  rfl

omit h in
/-- A free engine, or one with tiles of the owner, is no other owner's. -/
theorem otherTag_own (htag : (s.engineOf c p.i p.j).tag = none ∨ (s.engineOf c p.i p.j).tag = some c.pl.o) : s.otherTag c p = false := by
  unfold State.otherTag
  rcases htag with htag | htag <;> simp [htag]

/-! ### Arrival (R220, R226, R242) -/

section
variable (hops : ∀ o ∈ x.ops, o.acc = false ∧ (o.id < cid → o.acq = false)) (hsaw : x.saw = [])
include hops hsaw

/-- The part as it stands at its engine. -/
def arrivedPart (s : State) (p : Part) : Part := { p with arrived := some s.newId, cap := false }

/-- Nothing of the thread stands before the command. -/
theorem OnePart.cmdWaits : s.cmdWaits c = false := by
  have hids : ∀ o ∈ x.ops, o.id < c.id → o.acq = false := fun o ho hlt => (hops o ho).2 (h.id ▸ hlt)
  have hacc : x.ops.any (fun o => decide (o.id < c.id) && (o.acc || o.acq)) = false := by
    rw [List.any_eq_false]
    intro o ho
    by_cases hlt : o.id < c.id
    · simp [(hops o ho).1, hids o ho hlt]
    · simp [hlt]
  have hacq : x.ops.any (fun o => decide (o.id < c.id) && o.acq) = false := by
    rw [List.any_eq_false]
    intro o ho
    by_cases hlt : o.id < c.id
    · simp [hids o ho hlt]
    · simp [hlt]
  have hopen : s.sawOpen x = false := by rw [State.sawOpen, hsaw]; rfl
  unfold State.cmdWaits
  rw [h.thread]
  simp [hacc, hacq, hopen]

/-- What the arrival of a part answers, by the capabilities of its engine and the tag there. -/
theorem OnePart.arrive (harr : p.arrived = none) (hdone : p.done = false) : exec (.engineCommandArrive cid p.i p.j) s =
    if !s.caps.any (fun e => e.o == c.pl.o && e.l == State.engSlot c p.j && e.x == State.engX c p.i && capMatches e.val c.cap) then
      .next (s.failPart c (arrivedPart s p) (0x0A, 0, c.desc.toNat) 0).bump
    else if s.otherTag c p then .next (s.meetTag c (arrivedPart s p)).bump
    else .next ((s.setEngine { s.engineOf c p.i p.j with tag := some c.pl.o }).setCmd (State.Cmd.setPart c (arrivedPart s p))).bump := by
  have hbehind : s.partBehind c p.i p.j = false := by unfold State.partBehind; rw [h.partsAt]; rfl
  show execEngineCommandArrive cid p.i p.j s = _
  unfold execEngineCommandArrive
  simp only [arrivedPart, h.cmd?, h.part?, h.partsAt, harr, hdone, h.cmdWaits hops hsaw, hbehind, netHeld_unpaused h.unpaused, List.any_nil, Bool.and_false,
    Option.isSome_none, Bool.or_self, Bool.false_eq_true, if_false]

end

section
variable (hops : ∀ o ∈ x.ops, o.acc = false ∧ (o.id < cid → o.acq = false)) (hsaw : x.saw = []) (harr : p.arrived = none) (hdone : p.done = false)
include hops hsaw harr hdone

/-- A free engine takes the tag of the owner whose part arrives. -/
theorem OnePart.arrive_takes (hacc : Accepted s c p.i p.j) (htag : (s.engineOf c p.i p.j).tag = none ∨ (s.engineOf c p.i p.j).tag = some c.pl.o) :
    Next (exec (.engineCommandArrive cid p.i p.j) s) (fun t => SameBytes s t ∧ t.cmds = [{ c with parts := [arrivedPart s p] }] ∧
      t.engineOf c p.i p.j = { s.engineOf c p.i p.j with tag := some c.pl.o }) := by
  rw [h.arrive hops hsaw harr hdone, accepted_iff.mpr hacc, otherTag_own htag, h.setPart (p' := arrivedPart s p) rfl rfl]
  refine next_of ⟨fun _ => rfl, ?_, ?_⟩
  · exact h.setCmd (t := s.setEngine _) rfl rfl
  · exact engineOf_setEngine (s := s) (e := { s.engineOf c p.i p.j with tag := some c.pl.o }) rfl rfl

/-- Another owner's tiles keep the part waiting, and an event tells it. -/
theorem OnePart.arrive_meets (hacc : Accepted s c p.i p.j) (hforeign : p.foreign = false) (htag : ∃ o, (s.engineOf c p.i p.j).tag = some o ∧ o ≠ c.pl.o) :
    Next (exec (.engineCommandArrive cid p.i p.j) s) (fun t => SameBytes s t ∧ t.cmds = [{ c with parts := [{ arrivedPart s p with foreign := true }] }] ∧
      t.engineOf c p.i p.j = s.engineOf c p.i p.j ∧ (EvRoom s → ∃ v ∈ t.trust.events, v.ty = 0x05 ∧ v.o = c.pl.o)) := by
  obtain ⟨o, ho, hne⟩ := htag
  have hother : s.otherTag c p = true := by rw [State.otherTag, ho]; simpa using hne
  have hfirst : (!s.cmds.any (fun d => d.pl.o == c.pl.o && d.parts.any (fun x => x.foreign && State.engSlot d x.j == State.engSlot c (arrivedPart s p).j &&
      State.engX d x.i == State.engX c (arrivedPart s p).i))) = true := by
    simp [h.cmds, h.parts, hforeign]
  rw [h.arrive hops hsaw harr hdone, accepted_iff.mpr hacc, hother]
  unfold State.meetTag
  dsimp only
  rw [hfirst, h.setPart (p' := { arrivedPart s p with foreign := true }) rfl rfl]
  refine next_of ⟨fun _ => rfl, ?_, rfl, fun hroom => ?_⟩
  · exact h.setCmd rfl rfl
  · exact raiseEv_told (s := s.setCmd _) hroom _

/-- A part that no entry accepts ends at once (R220, R225). -/
theorem OnePart.arrive_rejected (hacc : ¬Accepted s c p.i p.j) :
    Next (exec (.engineCommandArrive cid p.i p.j) s) (fun t => SameBytes s t ∧ t.engines = s.engines ∧ t.cmds = [{ c with parts := [{ arrivedPart s p with
      started := true, done := true, code := 0x0A, sub := 0, faddr := BitVec.ofNat 48 c.desc.toNat, info := 0 }] }]) := by
  have hnone : s.caps.any (fun e => e.o == c.pl.o && e.l == State.engSlot c p.j && e.x == State.engX c p.i && capMatches e.val c.cap) = false := by
    rw [Bool.eq_false_iff]
    exact fun hany => hacc (accepted_iff.mp hany)
  rw [h.arrive hops hsaw harr hdone, hnone]
  unfold State.failPart
  rw [h.setPart (p' := { arrivedPart s p with started := true, done := true, code := 0x0A, sub := 0, faddr := BitVec.ofNat 48 c.desc.toNat, info := 0 })
    rfl rfl]
  exact next_of ⟨fun _ => rfl, rfl, h.setCmd (t := s) rfl rfl⟩

end

/-! ### The start of a part (R228, R230, R232) -/

section
variable (harr : p.arrived.isSome = true) (hdone : p.done = false) (hstarted : p.started = false) (hforeign : p.foreign = false) (hstart : c.startAt = none)
  (hres : s.resident c.pl.o (State.engSlot c p.j) = true) (htag : (s.engineOf c p.i p.j).tag = none ∨ (s.engineOf c p.i p.j).tag = some c.pl.o)
include harr hdone hstarted hforeign hstart hres htag

/-- A part that misses no operand runs. -/
theorem OnePart.start_runs (hall : State.partAbsent (s.fetchPart c p) p = none) : exec (.engineCommandStart cid p.i p.j) s = .next (s.runPart c p) := by
  have hother := otherTag_own htag
  have hruns := h.engineRuns hres
  have hready : s.partReady c p = true := by simp [State.partReady, harr, hforeign, hother, hruns, h.engineBusy, hall]
  have hstartPart : s.startPart c p = s.runPart c p := by
    unfold State.startPart
    simp [hstarted, hdone, hruns, hstart, hready]
  show execEngineCommandStart cid p.i p.j s = _
  unfold execEngineCommandStart
  simp only [h.cmd?, h.part?, hother, h.task, hstartPart, Bool.and_false, Option.isSome_none, Bool.false_and, Bool.false_eq_true, if_false]

/-- mclr clears the tiles that it names, in one step (R230). -/
theorem OnePart.start_clears (hform : c.form = 1) : Next (exec (.engineCommandStart cid p.i p.j) s) (fun t => SameBytes s t ∧
    t.cmds = [{ c with parts := [{ p with started := true, done := true, left := 0, info := 0 }] }] ∧
    t.engineOf c p.i p.j = clearedTiles c.q (s.engineOf c p.i p.j)) := by
  have hrows : ∀ d : Cmd, d.form = 1 → State.partRows d p = [] := fun d hd => by simp [State.partRows, hd]
  have hfetch : s.fetchPart c p = c := by rw [State.fetchPart, hrows c hform]; rfl
  have hall : State.partAbsent (s.fetchPart c p) p = none := by rw [hfetch, State.partAbsent, hrows c hform]; rfl
  rw [h.start_runs harr hdone hstarted hforeign hstart hres htag hall]
  unfold State.runPart
  rw [if_pos hform]
  have hengine : (if bit (qd c.q 0) 33 then { (if bit (qd c.q 0) 32 then { s.engineOf c p.i p.j with a0 := { anchor := laneInt 11 (bits (qd c.q 0) 10 0) } }
      else s.engineOf c p.i p.j) with a1 := { anchor := laneInt 11 (bits (qd c.q 0) 26 16) } }
      else if bit (qd c.q 0) 32 then { s.engineOf c p.i p.j with a0 := { anchor := laneInt 11 (bits (qd c.q 0) 10 0) } } else s.engineOf c p.i p.j) =
      clearedTiles c.q (s.engineOf c p.i p.j) := by
    unfold clearedTiles
    cases bit (qd c.q 0) 32 <;> cases bit (qd c.q 0) 33 <;> rfl
  dsimp only
  rw [hengine]
  refine next_of ⟨fun _ => rfl, ?_, engineOf_setEngine (s := s) (e := clearedTiles c.q (s.engineOf c p.i p.j)) rfl rfl⟩
  refine (h.setCmd (t := s.setEngine _) (d := State.Cmd.setPart c { p with started := true, done := true, left := 0, info := 0 }) rfl rfl).trans ?_
  exact congrArg (fun d : Cmd => [d]) (h.setPart (p' := { p with started := true, done := true, left := 0, info := 0 }) rfl rfl)

/-- An mma whose rows are all there adds its products into its tile, and computes for K cycles (R228, R232). -/
theorem OnePart.start_accumulates (h2 : 2 ≤ c.form) (h5 : c.form ≤ 5) (hk : 1 ≤ mK c.q) (hall : State.partAbsent (s.fetchPart c p) p = none)
    (hgood : State.partFails (s.fetchPart c p) p = []) {old new : Acc} (hold : old = State.tile (s.engineOf c p.i p.j) (bit (qd c.q 5) 16))
    (hnew : new = State.accumulate (s.fetchPart c p) p old) : Next (exec (.engineCommandStart cid p.i p.j) s) (fun t => SameBytes s t ∧
      t.engineOf c p.i p.j = State.setTile (s.engineOf c p.i p.j) (bit (qd c.q 5) 16) new ∧
      t.cmds = [{ s.fetchPart c p with parts := [{ p with started := true, done := false, left := mK c.q, info := State.tileInfo new }] }]) := by
  obtain ⟨hid, hparts, hform, -⟩ := fetchPart_kept s c p
  have hacc : mAcc c.form c.q = bit (qd c.q 5) 16 := by
    unfold mAcc
    rw [if_neg]
    simp only [Bool.or_eq_true, decide_eq_true_eq]
    omega
  have hnofail : State.firstFail ([] ++ ((none : Option Nat).map (fun a => (8, 3, a))).toList) = none := rfl
  have hleft : (mK c.q == 0) = false := by rw [beq_eq_false_iff_ne]; omega
  rw [h.start_runs harr hdone hstarted hforeign hstart hres htag hall]
  unfold State.runPart
  rw [if_neg (by omega), if_pos h5]
  dsimp only
  rw [hgood, hall, hform, hacc, ← hold, ← hnew, hleft, hnofail]
  dsimp only
  refine next_of ⟨fun _ => rfl, engineOf_setEngine (s := s) (e := State.setTile (s.engineOf c p.i p.j) (bit (qd c.q 5) 16) new) ?_ ?_, ?_⟩
  · cases bit (qd c.q 5) 16 <;> rfl
  · cases bit (qd c.q 5) 16 <;> rfl
  · refine (h.setCmd (t := s.setEngine _) (d := State.Cmd.setPart (s.fetchPart c p)
      { p with started := true, done := false, left := mK c.q, info := State.tileInfo new }) rfl hid).trans ?_
    simp [State.Cmd.setPart, hparts, h.parts, hform]

end

/-! ### Completion (R225, R240) -/

section
variable {o : Op} {d : Fin 16} (hdone : p.done = true)
include hdone

/-- A command with its part done and no writes left lands its status. -/
theorem OnePart.complete (hwq : c.wq = []) (hpushed : c.pushed = none) (hfrozen : (s.owner c.pl.o).frozen = false) (h6 : c.form ≠ 6) (h7 : c.form ≠ 7)
    (h9 : c.form ≠ 9) : exec (.engineCommandComplete cid) s = .next (s.landStatus c) := by
  have hahead : s.writesAhead c = false := by simp [State.writesAhead, h.cmds]
  have hwrites : s.readoutWrites c (fun _ => true) = (s, c) := by
    unfold State.readoutWrites
    rw [hwq]
    exact congrArg (fun ws => (s, { c with wq := ws })) hwq.symm
  have hall : c.parts.all (·.done) = true := by simp [h.parts, hdone]
  show execEngineCommandComplete cid s = _
  unfold execEngineCommandComplete
  simp [h.cmd?, hall, h9, h.unpaused, hfrozen, hahead, hwq, hpushed, hwrites, h6, h7]

/-- A marker that every engine has finished leaves its thread, with no failure (R240). -/
theorem OnePart.mfence_completes (hcode : p.code = 0) (hform : c.form = 9) (hops : x.ops = [o]) (hid : o.id = cid) (hd : o.dest = none)
    (hcounts : o.counts = false) :
    Next (exec (.mfenceComplete c.uid) s) (fun t => SameBytes s t ∧ t.cmds = [] ∧ t.thread? c.uid = some { x with ops := [] }) := by
  have hall : c.parts.all (·.done) = true := by simp [h.parts, hdone]
  have hfault : State.cmdFault c = none := by simp [State.cmdFault, State.failedPart, h.parts, hcode]
  have hfind : s.cmds.find? (fun d => d.uid == c.uid && d.form == 9) = some c := by simp [h.cmds, hform]
  have hexec : exec (.mfenceComplete c.uid) s = .next ((s.dropCmd c.id).modThread c.uid (finished c.id 0 0 none)) := by
    show execMfenceComplete c.uid s = _
    unfold execMfenceComplete
    simp only [hfind, hall, hfault, if_true]
    rfl
  have hgone : finished c.id 0 0 none x = { x with ops := [] } := by simp [finished, hops, hd, hid, h.id, hcounts]
  rw [hexec]
  refine next_of ⟨fun k => ?_, ?_, ?_⟩
  · rw [modThread_mem]
    rfl
  · rw [cmds_modThread]
    simp [State.dropCmd, h.cmds]
  · rw [thread?_finished, ← hgone]
    exact congrArg (Option.map (finished c.id 0 0 none)) h.thread

end

/-- The state after the status of a task's command has landed. -/
theorem OnePart.landStatus_eq : s.landStatus c = ((s.dropCmd c.id).finishOp c.uid c.id ((State.statusWord c).setWidth 128)
    (if c.form = 8 then 0 else BitVec.ofNat 5 (State.statusWord c).toNat) (State.cmdFault c)).modThread c.uid (landById c.id) := by
  unfold State.landStatus
  rw [h.task]
  rfl

theorem OnePart.dropCmd_cmds : (s.dropCmd c.id).cmds = [] := by simp [State.dropCmd, h.cmds]

/-- What lands reaches the command's thread; the command is gone, and no byte changes. -/
theorem OnePart.landStatus_next : SameBytes s (s.landStatus c) ∧ (s.landStatus c).cmds = [] ∧ (s.landStatus c).thread? c.uid =
    some (landById c.id (finished c.id ((State.statusWord c).setWidth 128) (if c.form = 8 then 0 else BitVec.ofNat 5 (State.statusWord c).toNat)
      (State.cmdFault c) x)) := by
  rw [h.landStatus_eq, finishOp_eq]
  refine ⟨fun k => ?_, ?_, ?_⟩
  · rw [modThread_mem, modThread_mem]
    rfl
  · rw [cmds_modThread, cmds_modThread, h.dropCmd_cmds]
  · rw [thread?_modThread _ _ _ _ (landById_uid c.id), if_pos rfl, thread?_finished]
    exact congrArg (fun y => (Option.map (finished _ _ _ _) y).map (landById c.id)) h.thread

section
variable {o : Op} {d : Fin 16} (hops : x.ops = [o]) (hid : o.id = cid) (hdest : o.dest = some (.s d)) (hdisc : o.disc = false) (hrsv : o.rsv = false)
  (hs : x.strm = none)
include hops hid hdest hdisc hrsv hs

/-- The status lands in its register, and a failure is held. -/
theorem OnePart.landed_thread {w : Word} {fl : Flags} {flt : Option FaultRec} : landById c.id (finished c.id (w.setWidth 128) fl flt x) =
    { x with ops := [], s := x.s.set d w, fcsr := x.fcsr ||| fl.setWidth 64, held := x.held ++ flt.toList, woken := x.woken || x.park == Park.limit } := by
  have hland := landById_finished_held (res := w.setWidth 128) (fl := fl) flt hs hops hdest hdisc hrsv
  rw [hid, ← h.id] at hland
  rw [hland]
  simp [withDest]

/-- A command that has not failed lands RANGE, INEXACT and its flags. -/
theorem OnePart.lands_status (hcode : p.code = 0) : (s.landStatus c).thread? c.uid = some { x with
    ops := [], s := x.s.set d (BitVec.ofNat 64 p.info),
    fcsr := x.fcsr ||| (if c.form = 8 then 0 else (BitVec.ofNat 5 p.info).setWidth 64), woken := x.woken || x.park == Park.limit } := by
  have hfailed : State.failedPart c = none := by simp [State.failedPart, h.parts, hcode]
  have hword : State.statusWord c = BitVec.ofNat 64 p.info := by simp [State.statusWord, hfailed, h.parts]
  have hflags : (if c.form = 8 then 0 else BitVec.ofNat 5 (BitVec.ofNat 64 p.info).toNat : Flags) = if c.form = 8 then 0 else BitVec.ofNat 5 p.info := by
    refine congrArg (fun y : Flags => if c.form = 8 then 0 else y) (BitVec.eq_of_toNat_eq ?_)
    rw [BitVec.toNat_ofNat, BitVec.toNat_ofNat, BitVec.toNat_ofNat]
    exact Nat.mod_mod_of_dvd _ (by decide)
  rw [h.landStatus_next.2.2, State.cmdFault, hfailed, hword, hflags, h.landed_thread hops hid hdest hdisc hrsv hs]
  cases Nat.decEq c.form 8 with
  | isTrue h8 => simp [h8]
  | isFalse h8 => simp [h8]

/-- A command that has failed lands its code, and holds the failure (R225). -/
theorem OnePart.lands_failure (hcode : p.code ≠ 0) (h8 : c.form ≠ 8) : ∃ y, (s.landStatus c).thread? c.uid = some y ∧
    y.s[d] = BitVec.ofNat 64 (p.sub * 2 ^ 24 + p.code * 2 ^ 16 + p.info) ∧
    y.held = x.held ++ [{ op := cid, code := p.code, sub := p.sub, fpc := c.fpc, faddr := p.faddr }] := by
  have hfailed : State.failedPart c = some p := by simp [State.failedPart, h.parts, hcode]
  have hword : State.statusWord c = BitVec.ofNat 64 (p.sub * 2 ^ 24 + p.code * 2 ^ 16 + p.info) := by simp [State.statusWord, hfailed, h.parts, h8]
  refine ⟨_, h.landStatus_next.2.2.trans (congrArg some (h.landed_thread hops hid hdest hdisc hrsv hs)), ?_, ?_⟩
  · rw [hword]
    exact Vector.getElem_set_self _
  · rw [State.cmdFault, hfailed, ← h.id]
    rfl

end

end

/-- Settles O37: a part by its arrival, its start and its completion. A rejected part adds 0 to RANGE and INEXACT of the status (log 133). -/
theorem enginesPerform : Obligations.EnginesPerform := by
  unfold Obligations.EnginesPerform
  intro s cid i j c p x hcmds hid hparts hi hj hpause hx hstrm htrip
  subst hi hj
  have h : OnePart s cid c p x := ⟨hcmds, hid, hparts, hpause, hx, hstrm, htrip⟩
  refine ⟨fun harr hdone hops hsaw => ⟨?_, ?_, ?_⟩, ?_, ?_, ?_⟩
  · exact fun hacc htag => h.arrive_takes hops hsaw harr hdone hacc htag
  · exact fun hacc hforeign htag => h.arrive_meets hops hsaw harr hdone hacc hforeign htag
  · exact fun hacc => h.arrive_rejected hops hsaw harr hdone hacc
  · intro harr hdone hstarted hforeign hstart hres htag
    refine ⟨fun hform => h.start_clears harr hdone hstarted hforeign hstart hres htag hform, ?_⟩
    intro h2 h5 hk hall hgood
    refine next_mono (h.start_accumulates harr hdone hstarted hforeign hstart hres htag h2 h5 hk hall hgood rfl rfl) fun t ⟨hbytes, hengine, hc⟩ => ?_
    refine ⟨hbytes, _, hengine, rfl, rfl, ?_, accumulate_range, accumulate_inexact, hc⟩
    show Nat.add _ (mK (s.fetchPart c p).q) = Nat.add _ (mK c.q)
    rw [(fetchPart_kept s c p).2.2.2]
    rfl
  · intro o d hdone hwq hpushed hfrozen h6 h7 h9 hops ho hdest hdisc hrsv hs
    obtain ⟨hbytes, hgone, -⟩ := h.landStatus_next
    rw [h.complete hdone hwq hpushed hfrozen h6 h7 h9]
    exact ⟨fun hcode => next_of ⟨hbytes, hgone, h.lands_status hops ho hdest hdisc hrsv hs hcode⟩,
      fun hcode h8 => next_of ⟨hbytes, hgone, h.lands_failure hops ho hdest hdisc hrsv hs hcode h8⟩⟩
  · exact fun o hdone hcode hform hops ho hd hcounts => h.mfence_completes hdone hcode hform hops ho hd hcounts

end Sys2Proof.Laws

/-! SUPPORT. LaunchStart: a launch of one node starts, its task is dispatched, and O41. -/

namespace Sys2Proof.Laws

open Sys2Proof.Machine Sys2Proof.Safety

/-! ### Whose turn it is (R281, R288) -/

section
variable {s : State} {o q : Nat} {r : Rec}

/-- The graph unit runs for an owner that is placed, with no pause and no freeze. -/
theorem graphRuns_open (hpause : s.rot.pause = none) (hfrozen : (s.owner o).frozen = false) (hplaced : s.unplaced o = false) : s.graphRuns o = true := by
  simp [State.graphRuns, hpause, hfrozen, hplaced]

/-- The only record that waits is the next to start. -/
theorem startTurn_alone (hruns : s.graphRuns r.o = true) (hstep : (s.owner r.o).stepped = false) (hrecs : s.graph.recs = [r]) (hlaunches : s.graph.launches = []) :
    s.startTurn r.o = some r.wq := by
  have hopen : s.openLaunches r.o = 0 := by simp [State.openLaunches, hlaunches]
  have hqueues : s.startable r.o = [r.wq] := by simp [State.startable, hrecs, List.eraseDups_cons]
  unfold State.startTurn
  rw [hruns, hstep, hopen, hqueues]
  by_cases hlast : alGet 0 r.o s.graph.rr ≤ r.wq <;> simp [hlast]

end

/-! ### A launch of one node (R286) -/

section
variable {s : State} {lid : Nat} {x : Launch} {n : Node}

/-- The run of a node that is ready, none of its tasks dispatched. -/
def readyRun (n : Node) : NodeRun := { st := .ready, undisp := rCount n.q, live := 0 }

/-- The tasks of a launch's only node. -/
def nodeTasks (x : Launch) (n : Node) : List Machine.Ready :=
  (List.range (rCount n.q)).map (fun i => { o := x.r.o, launch := x.id, node := 0, k := i, prio := rPrio n.q })

theorem skipAll_alone (hnodes : x.r.nodes = [n]) (hsucc : n.succ = []) (hruns : x.runs = [{}]) : State.skipAll x 1 = x := by
  have honce : State.skipOnce x = { x with runs := [{}] } := by simp [State.skipOnce, hruns, hnodes, hsucc]
  unfold State.skipAll State.skipAll
  rw [honce, ← hruns]

theorem newlyReady_alone (hnodes : x.r.nodes = [n]) (hsucc : n.succ = []) (hruns : x.runs = [{}]) : State.newlyReady x = [0] := by
  simp [State.newlyReady, State.predsDone, hruns, hnodes, hsucc]

/-- The only node of a new launch becomes ready, with its tasks (R286). -/
theorem settle_alone (hl : s.graph.launches = [x]) (hid : x.id = lid) (hnodes : x.r.nodes = [n]) (hsucc : n.succ = []) (hruns : x.runs = [{}]) :
    s.settle lid = (s.setLaunch { x with runs := [readyRun n] }).modGraph (fun g => { g with ready := g.ready ++ nodeTasks x n }) := by
  have hfind : s.launch? lid = some x := by
    unfold State.launch?
    rw [hl]
    exact List.find?_cons_of_pos (by simp [hid])
  have hready : State.readyNodes x [0] = { x with runs := [readyRun n] } := by simp [State.readyNodes, readyRun, hruns, hnodes]
  have htasks : State.readyTasks { x with runs := [readyRun n] } [0] = nodeTasks x n := by simp [State.readyTasks, nodeTasks, hnodes]
  have hend : State.endStatus { x with runs := [readyRun n] } = none := by simp [State.endStatus, readyRun]
  unfold State.settle
  rw [hfind]
  dsimp only
  rw [show x.runs.length = 1 by rw [hruns]; rfl, skipAll_alone hnodes hsucc hruns, newlyReady_alone hnodes hsucc hruns, hready, htasks, hend]

end

/-! ### The start (R281, R286) -/

section
variable {s : State} {r : Rec} {n : Node}

/-- The launch of a record, before its nodes run. -/
def newLaunch (s : State) (r : Rec) : Launch := { id := s.newId, r := r, runs := [{}] }

/-- The state in which the launch of the only record stands, before it settles. -/
def launchOpened (s : State) (r : Rec) : State :=
  let t := s.bump.modGraph (fun g => { g with recs := g.recs.eraseP (fun x => x.wq == r.wq), rr := alSet r.o (r.wq + 1) g.rr, launches := g.launches ++ [newLaunch s r] })
  State.modOwner { t with l1 := t.l1.filter (fun e => !(!e.fused && e.pl.o == r.o && State.fuses r e.pl.l)) } r.o (fun x => { x with launched := true })

theorem launchStart_opens (hnodes : r.nodes = [n]) (hrecs : s.graph.recs = [r]) (hturn : s.startTurn r.o = some r.wq) :
    exec (.launchStart r.wq) s = .next ((launchOpened s r).settle s.newId) := by
  have hfind : s.graph.recs.find? (fun x => x.wq == r.wq) = some r := by simp [hrecs]
  show execLaunchStart r.wq s = _
  unfold execLaunchStart
  simp only [hfind, hturn, if_true, hnodes]
  rfl

/-- A launch starts: its node is ready, with all its tasks (R286). -/
theorem launchStart_starts (hruns : s.graphRuns r.o = true) (hstep : (s.owner r.o).stepped = false) (hnodes : r.nodes = [n]) (hsucc : n.succ = [])
    (hrecs : s.graph.recs = [r]) (hlaunches : s.graph.launches = []) : Next (exec (.launchStart r.wq) s) (fun t => SameBytes s t ∧
      t.graph.recs = [] ∧ (t.owner r.o).launched = true ∧ t.threads = s.threads ∧
      t.graph.launches = [{ id := s.clk.id, r := r, runs := [{ st := .ready, undisp := rCount n.q, live := 0 }] }] ∧
      t.graph.ready = s.graph.ready ++ (List.range (rCount n.q)).map (fun i => { o := r.o, launch := s.clk.id, node := 0, k := i, prio := rPrio n.q })) := by
  have hl : (launchOpened s r).graph.launches = [newLaunch s r] := by
    show s.graph.launches ++ [newLaunch s r] = _
    rw [hlaunches, List.nil_append]
  rw [launchStart_opens hnodes hrecs (startTurn_alone hruns hstep hrecs hlaunches), settle_alone (lid := s.newId) hl rfl hnodes hsucc rfl]
  refine next_of ⟨fun _ => rfl, ?_, ?_, rfl, ?_, rfl⟩
  · show s.graph.recs.eraseP (fun x => x.wq == r.wq) = []
    simp [hrecs]
  · show ((launchOpened s r).owner r.o).launched = true
    unfold launchOpened
    rw [owner_modOwner, if_pos rfl]
  · show (launchOpened s r).graph.launches.map _ = _
    rw [hl]
    simp [newLaunch, readyRun, State.newId]

end

/-! ### The dispatcher's choice (R287, R288) -/

/-- The element that alone meets a test is the one that is found. -/
theorem find?_unique {α : Type} {p : α → Bool} {a : α} {l : List α} (hmem : a ∈ l) (hp : p a = true) (honly : ∀ b, p b = true → b = a) : l.find? p = some a := by
  cases hfind : l.find? p with
  | none => exact absurd hp (by simpa using List.find?_eq_none.mp hfind a hmem)
  | some b => rw [honly b (List.find?_some hfind)]

section
variable {s : State} {o : Nat} {x : Launch} {y : Machine.Ready} {n : Node}

theorem readyHead_alone (hready : s.graph.ready = [y]) (hprio : y.prio < 4) : s.readyHead y.o = some y := by
  unfold State.readyHead
  rw [hready]
  have hcases : y.prio = 3 ∨ y.prio = 2 ∨ y.prio = 1 ∨ y.prio = 0 := by omega
  rcases hcases with h | h | h | h <;> simp [h]

theorem readyHead_other (hready : s.graph.ready = [y]) (hne : o ≠ y.o) : s.readyHead o = none := by
  simp [State.readyHead, hready, Ne.symm hne]

theorem launch?_alone (hlaunches : s.graph.launches = [x]) (hid : x.id = y.launch) : s.launch? y.launch = some x := by
  simp [State.launch?, hlaunches, hid]

/-- The only task that is ready, of a launch that holds no slot for itself, can be dispatched for its owner, -/
theorem dispatchable_alone (hruns : s.graphRuns y.o = true) (hready : s.graph.ready = [y]) (hprio : y.prio < 4) (hnode : y.node = 0)
    (hlaunches : s.graph.launches = [x]) (hid : x.id = y.launch) (hnodes : x.r.nodes = [n]) (hfree : s.inboxFree y.o = true)
    (hfuse : rFuse n.q = false) (hrfuse : rFuse x.r.q = false) : s.dispatchable y.o = some y := by
  unfold State.dispatchable
  rw [hruns, hfree, readyHead_alone hready hprio]
  simp only [launch?_alone hlaunches hid, hnodes, hnode]
  simp [hfuse, hrfuse]

/-- and nothing for another. -/
theorem dispatchable_other (hready : s.graph.ready = [y]) (hne : o ≠ y.o) : s.dispatchable o = none := by
  unfold State.dispatchable
  rw [readyHead_other hready hne]
  split <;> rfl

/-- The turn is that of the only owner with a task to dispatch (R288). -/
theorem dispTurn_alone (hlt : y.o < 16) (hready : s.graph.ready = [y]) (hdisp : s.dispatchable y.o = some y) : s.dispTurn = some y.o := by
  have honly (k : Nat) (hk : (s.dispatchable k).isSome = true) : k = y.o := by
    by_contra hne
    rw [dispatchable_other hready hne] at hk
    cases hk
  unfold State.dispTurn
  dsimp only
  split
  next hrest => exact congrArg some (honly _ (Bool.and_eq_true_iff.mp hrest).2)
  next =>
    refine find?_unique (List.mem_map.mpr ⟨(y.o + 15 * (s.graph.dispOwner + 1)) % 16, List.mem_range.mpr (Nat.mod_lt _ (by decide)), by omega⟩) ?_ honly
    rw [hdisp]; rfl

end

/-! ### The context of a task (R289) -/

/-- The context that a node entry describes for its task y, with id tid (R289). -/
def TaskContext (n : Node) (lid : Nat) (y : Machine.Ready) (t : Thread) : Prop :=
  t.pc = (n.q.getD 1 0).setWidth 48 ∧ t.trapb = (n.q.getD 2 0).setWidth 48 &&& ~~~3#48 ∧ t.tid = tidAdd n.tid y.k ∧ t.pw = 0x80 ∧ t.fcsr = 0 ∧
  t.taskb = 0 ∧ t.ops = [] ∧ t.park = .none ∧ t.task = { launch := lid, node := 0, prio := y.prio } ∧ (∀ i : Fin 16, t.v[i] = 0) ∧
  ∀ i : Fin 16, t.s[i] = if i.val ≠ 0 ∧ i.val = bits (qd n.q 0) 27 24 then BitVec.ofNat 64 y.k else if 1 ≤ i.val ∧ i.val ≤ 6 then n.q.getD (i.val + 5) 0 else 0

/-- The registers that a task begins with: s[1] to s[6] of its entry, -/
theorem entryRegs (q : List Word) (i : Fin 16) :
    (((((((Vector.replicate 16 (0 : Word)).set 1 (q.getD 6 0)).set 2 (q.getD 7 0)).set 3 (q.getD 8 0)).set 4 (q.getD 9 0)).set 5 (q.getD 10 0)).set 6 (q.getD 11 0))[i] =
      if 1 ≤ i.val ∧ i.val ≤ 6 then q.getD (i.val + 5) 0 else 0 := by
  fin_cases i <;> rfl

/-- and KREG, its index (R289). -/
theorem getElem_set_kreg (v : Vector Word 16) (w : Word) (k : Nat) (hlt : k < 16) (i : Fin 16) :
    (v.set (Fin.ofNat 16 k) w)[i] = if i.val = k then w else v[i] := by
  simp [Vector.getElem_set, Nat.mod_eq_of_lt hlt, eq_comm]

section
variable {s : State} {x : Launch} {y : Machine.Ready} {n : Node}

/-- Dispatch creates the context that the node entry describes (R289). -/
theorem newThread_context (hnode : y.node = 0) (hkind : rKind n.q = 0) : TaskContext n x.id y (s.newThread x y n) := by
  have hlt : bits (qd n.q 0) 27 24 < 16 := Nat.mod_lt _ (by decide)
  unfold State.newThread
  simp only [hkind, hnode]
  by_cases hkreg : bits (qd n.q 0) 27 24 = 0
  · simp only [hkreg]
    refine ⟨rfl, rfl, rfl, rfl, rfl, rfl, rfl, rfl, rfl, fun i => by simp, fun i => (entryRegs n.q i).trans (if_neg ?_).symm⟩
    rw [hkreg]; omega
  · rw [if_pos (by simpa using hkreg)]
    refine ⟨rfl, rfl, rfl, rfl, rfl, rfl, rfl, rfl, rfl, fun i => by simp, fun i => ?_⟩
    rw [getElem_set_kreg _ _ _ hlt, entryRegs]
    refine if_congr ?_ rfl rfl
    omega

/-- The place in the placement queues that the context asks for. -/
def taskPlacing (s : State) (o : Nat) (x : Launch) (y : Machine.Ready) (n : Node) : Placing :=
  { o := o, hslot := rHslot n.q, hx := rHx n.q, radius := if rFuse x.r.q then min 6 (rRadius n.q) else rRadius n.q, t := s.newThread x y n }

/-- The state in which the task has its inbox, before it is placed. -/
def inboxGiven (s : State) (o : Nat) (x : Launch) (y : Machine.Ready) (n : Node) : State :=
  s.bump.modGraph (fun g =>
    { g with ready := g.ready.filter (fun z => !(z.launch == y.launch && z.node == y.node && z.k == y.k))
             inboxes := g.inboxes ++ [{ o := o, tid := (s.newThread x y n).tid, launch := x.id, k := s.inboxPlace o }]
             launches := g.launches.map (fun z => if z.id == x.id then
               { z with runs := (List.range z.runs.length).map (fun k =>
                   let r := z.runs.getD k {}
                   if k == y.node then { r with undisp := r.undisp - 1, live := r.live + 1 } else r) } else z)
             dispLeft := (if g.dispOwner == o && g.dispLeft != 0 then g.dispLeft else max 1 ((s.roundW o).getD o 1)) - 1
             dispW := s.roundW o
             dispOwner := o })

theorem dispatchTask_places (hlaunch : s.launch? y.launch = some x) (hnodes : x.r.nodes = [n]) (hnode : y.node = 0) (hkind : rKind n.q = 0) (o : Nat) :
    s.dispatchTask o y = (inboxGiven s o x y n).place (taskPlacing s o x y n) := by
  have hentry : x.r.nodes.getD y.node { q := [] } = n := by rw [hnodes, hnode]; rfl
  unfold State.dispatchTask
  rw [hlaunch]
  dsimp only
  rw [hentry, if_pos hkind]
  rfl

end

/-! ### Placement of a task (R290, R291, R329) -/

section
variable {s : State} {p : Placing}

/-- A freeze that is asked for moves no context, packet or byte. -/
theorem askFreeze_keeps (s : State) (o c : Nat) : (s.askFreeze o c).graph = s.graph ∧ (s.askFreeze o c).threads = s.threads ∧ (s.askFreeze o c).mem = s.mem := by
  unfold State.askFreeze
  split <;> exact ⟨rfl, rfl, rfl⟩

theorem evictFail_keeps (s : State) (c : Place) (seen : List Nat) :
    (s.evictFail c seen).graph = s.graph ∧ (s.evictFail c seen).threads = s.threads ∧ (s.evictFail c seen).mem = s.mem := by
  unfold State.evictFail
  split
  · split
    · exact askFreeze_keeps s _ 3
    · exact ⟨rfl, rfl, rfl⟩
  · exact ⟨rfl, rfl, rfl⟩

/-- What a search without success changes: owners, and what the head of the queue has met. -/
theorem searchFail_alone (hplacing : s.graph.placing = [p]) :
    ∃ met, (s.searchFail p).graph = { s.graph with placing := [{ p with t := { p.t with met := met } }] } ∧ (s.searchFail p).threads = s.threads ∧ (s.searchFail p).mem = s.mem := by
  have hsame : s.graph = { s.graph with placing := [{ p with t := { p.t with met := p.t.met } }] } := by
    show s.graph = { s.graph with placing := [p] }
    rw [← hplacing]
  unfold State.searchFail
  split
  · exact ⟨p.t.met, hsame, rfl, rfl⟩
  · split
    next c _ =>
      obtain ⟨hg, ht, hm⟩ := evictFail_keeps s c p.t.met
      refine ⟨s.metNow c p.t.met, ?_, ht, hm⟩
      rw [State.modGraph_graph, hg, hplacing]
      simp
    next => exact ⟨p.t.met, hsame, rfl, rfl⟩

/-- The only task that is queued leaves for its core (R202). -/
theorem sendTask_alone (hplacing : s.graph.placing = [p]) (c : Place) :
    (s.sendTask p c).graph = { s.graph with placing := [], packets := s.graph.packets ++ [{ id := s.newId, stage := .flight, t := { p.t with pl := c }, sent := true }] } := by
  unfold State.sendTask State.unqueue
  simp [hplacing]

/-- A task whose placement queue is empty leaves for the first core that takes it, or waits as the head of the queue (R291). -/
theorem place_first (hstream : p.t.strm = none) (hplacing : s.graph.placing = []) :
    (s.place p).threads = s.threads ∧ (s.place p).mem = s.mem ∧
      ((∃ c, (s.place p).graph = { s.graph with packets := s.graph.packets ++ [{ id := s.newId, stage := .flight, t := { p.t with pl := c }, sent := true }] }) ∨
       (∃ met, (s.place p).graph = { s.graph with placing := [{ p with t := { p.t with met := met } }] })) := by
  have h1 : (s.modGraph (fun g => { g with placing := g.placing ++ [p] })).graph.placing = [p] := by rw [State.modGraph_graph, hplacing]; rfl
  unfold State.place State.placeHead
  rw [hstream, hplacing]
  simp only [Option.isNone_none, List.any_nil, Bool.and_false]
  generalize hs1 : s.modGraph (fun g => { g with placing := g.placing ++ [p] }) = s1 at *
  cases hsearch : s1.search p with
  | some c => exact ⟨by subst hs1; rfl, by subst hs1; rfl, .inl ⟨c, (sendTask_alone h1 c).trans (by subst hs1; rw [← hplacing]; rfl)⟩⟩
  | none =>
    obtain ⟨met, hg, ht, hm⟩ := searchFail_alone h1
    exact ⟨ht.trans (by subst hs1; rfl), hm.trans (by subst hs1; rfl), .inr ⟨met, hg.trans (by subst hs1; rfl)⟩⟩

end

/-! ### The two statements -/

section
variable {s : State} {x : Launch} {y : Machine.Ready} {n : Node}

/-- The dispatcher gives the only ready task an inbox and its context, and places it (R287 to R290, R295). -/
theorem taskDispatch_places (hruns : s.graphRuns y.o = true) (hlt : y.o < 16) (hready : s.graph.ready = [y]) (hprio : y.prio < 4) (hnode : y.node = 0)
    (hlaunches : s.graph.launches = [x]) (hid : x.id = y.launch) (hnodes : x.r.nodes = [n]) (hfree : s.inboxFree y.o = true) (hplacing : s.graph.placing = [])
    (hkind : rKind n.q = 0) (hfuse : rFuse n.q = false) (hrfuse : rFuse x.r.q = false) :
    Next (exec (.taskDispatch y.o) s) (fun t => SameBytes s t ∧ t.graph.ready = [] ∧ t.threads = s.threads ∧
      t.graph.inboxes = s.graph.inboxes ++ [{ o := y.o, tid := tidAdd n.tid y.k, launch := x.id, k := s.inboxPlace y.o }] ∧
      ((∃ k, t.graph.packets = s.graph.packets ++ [k] ∧ k.stage = .flight ∧ TaskContext n x.id y k.t ∧ t.graph.placing = []) ∨
       (∃ k, t.graph.placing = [k] ∧ TaskContext n x.id y k.t ∧ t.graph.packets = s.graph.packets))) := by
  have hdisp := dispatchable_alone hruns hready hprio hnode hlaunches hid hnodes hfree hfuse hrfuse
  have hctx : TaskContext n x.id y (s.newThread x y n) := newThread_context hnode hkind
  have hexec : exec (.taskDispatch y.o) s = .next ((inboxGiven s y.o x y n).place (taskPlacing s y.o x y n)) := by
    rw [← dispatchTask_places (launch?_alone hlaunches hid) hnodes hnode hkind]
    show execTaskDispatch y.o s = _
    unfold execTaskDispatch
    rw [if_pos (dispTurn_alone hlt hready hdisp), hdisp]
  have hstream : (taskPlacing s y.o x y n).t.strm = none := by
    show (s.newThread x y n).strm = none
    unfold State.newThread
    dsimp only
    split <;> rfl
  obtain ⟨hthreads, hmem, hplace⟩ := place_first (s := inboxGiven s y.o x y n) hstream hplacing
  have htid : (s.newThread x y n).tid = tidAdd n.tid y.k := hctx.2.2.1
  have hleft : (inboxGiven s y.o x y n).graph.ready = [] := by
    show s.graph.ready.filter _ = []
    simp [hready]
  have hinbox : (inboxGiven s y.o x y n).graph.inboxes = s.graph.inboxes ++ [{ o := y.o, tid := tidAdd n.tid y.k, launch := x.id, k := s.inboxPlace y.o }] := by
    rw [← htid]; rfl
  rw [hexec]
  refine next_of ⟨fun a => by rw [hmem]; rfl, ?_⟩
  obtain ⟨c, hg⟩ | ⟨met, hg⟩ := hplace
  · exact ⟨by rw [hg]; exact hleft, hthreads, by rw [hg]; exact hinbox, .inl ⟨_, by rw [hg]; rfl, rfl, hctx, by rw [hg]; exact hplacing⟩⟩
  · exact ⟨by rw [hg]; exact hleft, hthreads, by rw [hg]; exact hinbox, .inr ⟨_, by rw [hg], hctx, by rw [hg]; rfl⟩⟩

end

/-- Settles O41: one record stands, so that its launch starts and its only node is ready; one task is ready, so that it is dispatched with the context of its entry. -/
theorem launchesStartAndDispatch : Obligations.LaunchesStartAndDispatch := by
  unfold Obligations.LaunchesStartAndDispatch
  intro s q o r n x y hpause _ hfrozen hplaced ho hnodes hsucc
  refine ⟨?_, ?_⟩
  · intro hrecs hq hstep hlaunches
    subst ho hq
    exact launchStart_starts (graphRuns_open hpause hfrozen hplaced) hstep hnodes hsucc hrecs hlaunches
  · intro hready hyo hprio hnode hlaunches hid hr hfree hplacing hkind hfuse hrfuse
    subst hyo hr
    exact taskDispatch_places (graphRuns_open hpause hfrozen hplaced) ‹_› hready hprio hnode hlaunches hid hnodes hfree hplacing hkind hfuse hrfuse

end Sys2Proof.Laws

/-! SUPPORT. Keyed: lists whose elements are found by a number: extents, slices and functions. -/

namespace Sys2Proof.Laws

open Sys2Proof.Machine Sys2Proof.Safety

section
variable {α : Type} (key : α → Nat)

/-- An update that keeps every key moves no element. -/
theorem find?_map_key {f : α → α} (hf : ∀ y, key (f y) = key y) (k : Nat) (l : List α) :
    (l.map f).find? (fun y => key y == k) = (l.find? (fun y => key y == k)).map f := by
  rw [List.find?_map]
  congr 2
  funext y
  rw [Function.comp_apply, hf]

/-- An element that is set under its key is what is found there, and every other is found as before. -/
theorem find?_upsert (x : α) (k : Nat) (l : List α) :
    (if l.any (fun y => key y == key x) then l.map (fun y => if key y == key x then x else y) else l ++ [x]).find? (fun y => key y == k) =
      if k = key x then some x else l.find? (fun y => key y == k) := by
  have hkey (y : α) : key (if key y == key x then x else y) = key y := by
    by_cases h : key y = key x <;> simp [h]
  by_cases hk : k = key x
  · subst hk
    rw [if_pos rfl]
    by_cases hany : l.any (fun y => key y == key x) = true
    · obtain ⟨y, hy⟩ := Option.isSome_iff_exists.mp (List.find?_isSome.mpr (List.any_eq_true.mp hany))
      rw [if_pos hany, find?_map_key key hkey, hy, Option.map_some, if_pos (List.find?_some hy)]
    · rw [if_neg hany, List.find?_append, List.find?_eq_none.mpr fun y hy hp => hany (List.any_eq_true.mpr ⟨y, hy, hp⟩)]
      simp
  · rw [if_neg hk]
    by_cases hany : l.any (fun y => key y == key x) = true
    · rw [if_pos hany, find?_map_key key hkey]
      cases hy : l.find? (fun y => key y == k) with
      | none => rfl
      | some y =>
        have : key y = k := by simpa using List.find?_some hy
        simp [this, hk]
    · rw [if_neg hany, List.find?_append]
      simp [Ne.symm hk]

end

section
variable (s : State)

@[simp] theorem extent_e (e : Nat) : (s.extent e).e = e := by
  unfold State.extent
  cases h : s.flash.exts.find? (fun x => x.e == e) with
  | none => rfl
  | some x => simpa using List.find?_some h

theorem extent_setExtent (x : Extent) (e : Nat) : (s.setExtent x).extent e = if e = x.e then x else s.extent e := by
  unfold State.extent
  rw [show (s.setExtent x).flash.exts = if s.flash.exts.any (fun y => y.e == x.e) then s.flash.exts.map (fun y => if y.e == x.e then x else y) else s.flash.exts ++ [x] from rfl,
    find?_upsert Extent.e]
  split <;> rfl

/-- What makes no extent complete leaves an incomplete one so. -/
theorem incomplete_extent (es : List Nat) (e : Nat) :
    ((es.foldl (fun (s : State) e => s.setExtent { s.extent e with complete := false, progd := [] }) s).extent e) =
      if e ∈ es then { s.extent e with complete := false, progd := [] } else s.extent e := by
  induction es generalizing s with
  | nil => rfl
  | cons a es ih =>
    rw [List.foldl_cons, ih, extent_setExtent]
    by_cases ha : e = a
    · subst ha; simp
    · simp [ha]

end

/-- Slices that are changed in place keep their numbers. -/
theorem slice_map {s t : State} {f : Slice → Slice} (hf : ∀ y, (f y).n = y.n) (ht : t.slices = s.slices.map f) {n : Nat} (hs : ∃ y ∈ s.slices, y.n = n) :
    t.slice n = f (s.slice n) := by
  obtain ⟨y, hy⟩ := Option.isSome_iff_exists.mp (List.find?_isSome (p := fun x : Slice => x.n == n).mpr (by simpa using hs))
  unfold State.slice
  rw [ht, find?_map_key Slice.n hf, hy]
  rfl

end Sys2Proof.Laws

/-! SUPPORT. OwnersEvents: owners, their tables, freezes, ways and events, and O42. -/

namespace Sys2Proof.Laws

open Sys2Proof.Machine Sys2Proof.Safety

/-! ### OWNCFG (R301) -/

section
variable {s : State} {v : Word} {w : Nat}

theorem ownsel_eq (s : State) : s.ownsel = s.regs.ownsel.toNat % 16 := by simp [State.ownsel, bits]

theorem incomplete_owners (s : State) (d : Descr) : (s.incomplete d).owners = s.owners := by
  unfold State.incomplete
  induction State.extents d generalizing s with
  | nil => rfl
  | cons e es ih => rw [List.foldl_cons, ih]; rfl

theorem owner_congr {s t : State} (h : t.owners = s.owners) (o : Nat) : t.owner o = s.owner o := by unfold State.owner; rw [h]

theorem owner_of_mod (s : State) {o k : Nat} (h : o % 16 = k % 16) : s.owner o = s.owner k := by
  unfold State.owner
  simp only [show Fin.ofNat 16 o = Fin.ofNat 16 k from Fin.ext h]

/-- What an owner is when its enabling ends (R284, R301, R409, R434). -/
theorem owner_enableOwner (s : State) (o : Nat) (cfg : Word) : (s.enableOwner o cfg).owner o =
    { s.owner o with cfg := cfg, err := 0, desc := s.readDescr o, nextTid := 1, nextInst := 1, ibused := 0, num := 0, meter := Vector.replicate 14 0
                     local_ := false, held := false, stepped := false, tokens := [], frozen := false, freezing := none, causes := [], releasing := false
                     pullFailed := false, launched := false } := by
  unfold State.enableOwner
  dsimp only
  rw [owner_congr (incomplete_owners _ _), owner_modOwner, if_pos rfl]

/-- A code of 0 says that every slice that the descriptor names is live (R301). -/
theorem slices_live_of_enableCode {o cfg : Nat} (h : s.enableCode o cfg = 0) : ∀ x ∈ (s.readDescr o).mica, bit s.regs.slicemap.toNat x = true := by
  unfold State.enableCode at h
  dsimp only at h
  split at h
  · cases h
  · split at h
    · cases h
    next hlive =>
      intro x hx
      by_contra hdead
      refine hlive (Bool.or_eq_true_iff.mpr (.inl (List.any_eq_true.mpr ⟨x, hx, by simpa using hdead⟩)))

theorem extents_incomplete (s : State) (o : Nat) (cfg : Word) : ∀ e ∈ State.extents (s.readDescr o), ((s.enableOwner o cfg).extent e).complete = false := by
  intro e he
  unfold State.enableOwner State.incomplete
  dsimp only
  rw [incomplete_extent, if_pos he]

theorem exec_ownerEnable (hen : bit v.toNat 63 = true) (hoff : s.enabled s.ownsel = false) : exec (.ownerEnable v) s =
    .next (if s.enableCode s.ownsel v.toNat = 0 then s.enableOwner s.ownsel (v &&& 0xFFFFFFFFFC000000)
      else s.modOwner s.ownsel (fun x => { x with cfg := v &&& 0xFFFFFFFFFC000000 &&& 0x7FFFFFFFFFFFFFFF, err := s.enableCode s.ownsel v.toNat })) := by
  show execOwnerEnable v s = _
  unfold execOwnerEnable State.writeOwncfg
  simp [hen, hoff]

theorem ownerEnable_accepts (hen : bit v.toNat 63 = true) (hw : w = s.ownsel) (hoff : s.enabled w = false) (hcode : s.enableCode w v.toNat = 0) :
    Next (exec (.ownerEnable v) s) (fun t => SameBytes s t ∧ (t.owner w).cfg = v &&& 0xFFFFFFFFFC000000 ∧ (t.owner w).err = 0 ∧
      (t.owner w).desc = s.readDescr w ∧ (t.owner w).nextTid = 1 ∧ (t.owner w).meter = Vector.replicate 14 0 ∧ (t.owner w).frozen = false ∧
      (∀ x ∈ (s.readDescr w).mica, bit s.regs.slicemap.toNat x = true) ∧ ∀ e ∈ State.extents (s.readDescr w), (t.extent e).complete = false) := by
  subst hw
  rw [exec_ownerEnable hen hoff, if_pos hcode]
  have hmem : (s.enableOwner s.ownsel (v &&& 0xFFFFFFFFFC000000)).mem = s.mem := by
    unfold State.enableOwner
    rw [incomplete_mem, State.modOwner_mem]
  refine next_of ⟨fun a => congrArg (Mem.getB · a) hmem, ?_⟩
  rw [owner_enableOwner]
  exact ⟨rfl, rfl, rfl, rfl, rfl, rfl, slices_live_of_enableCode hcode, extents_incomplete s _ _⟩

theorem ownerEnable_refuses (hen : bit v.toNat 63 = true) (hw : w = s.ownsel) (hoff : s.enabled w = false) (hcode : s.enableCode w v.toNat ≠ 0) :
    Next (exec (.ownerEnable v) s) (fun t => t = s.setOwner w { s.owner w with cfg := v &&& 0x7FFFFFFFFC000000, err := s.enableCode w v.toNat }) := by
  subst hw
  rw [exec_ownerEnable hen hoff, if_neg hcode]
  refine next_of ?_
  show s.setOwner _ { s.owner _ with cfg := v &&& 0xFFFFFFFFFC000000 &&& 0x7FFFFFFFFFFFFFFF, err := _ } = _
  rw [BitVec.and_assoc]
  rfl

end

/-! ### Capabilities and ranges (R303, R306) -/

section
variable {s : State} {v : Word} {w k : Nat}

/-- What CAPENT keeps of a word (R302). -/
def capMask (v : Word) : Word := v &&& 0xFFFF8000FF0F0F07

theorem capentWrite_refuses (hw : w = s.ownsel)
    (h : (bit (capMask v).toNat 47 = true ∧ bits (capMask v).toNat 63 48 = 0) ∨ s.nslot w ≤ bits s.regs.capsel.toNat 15 8) : exec (.capentWrite v) s = .next s := by
  subst hw
  show Host.Outcome.next (s.writeCapent v) = _
  unfold State.writeCapent
  dsimp only
  rw [if_pos (by simpa [capMask] using h)]

theorem capentWrite_replaces (hw : w = s.ownsel) (hcheck : ¬(bit (capMask v).toNat 47 = true ∧ bits (capMask v).toNat 63 48 = 0))
    (hslot : bits s.regs.capsel.toNat 15 8 < s.nslot w) : Next (exec (.capentWrite v) s) (fun t =>
      let mine := fun (c : Cap) => c.o == w && c.l == bits s.regs.capsel.toNat 15 8 && c.x == bits s.regs.capsel.toNat 7 4 && c.k == bits s.regs.capsel.toNat 2 0
      t = { s with caps := t.caps } ∧ (t.caps.find? mine).map (·.val) = some (capMask v) ∧ t.caps.filter (fun c => !mine c) = s.caps.filter (fun c => !mine c)) := by
  subst hw
  show Next (.next (s.writeCapent v)) _
  unfold State.writeCapent
  dsimp only
  rw [if_neg (by simpa [capMask] using And.intro (not_and.mp hcheck) hslot)]
  refine next_of ⟨rfl, ?_, ?_⟩
  · rw [List.find?_append, List.find?_eq_none.mpr fun c hc hmine => by simpa [hmine] using (List.mem_filter.mp hc).2]
    simp [capMask]
  · simp [List.filter_append, List.filter_filter]

theorem alGet_filter_ne {β : Type} (d : β) (k : Nat) (xs : List (Nat × β)) : alGet d k (xs.filter (fun c => c.1 != k)) = d := by
  induction xs with
  | nil => rfl
  | cons x xs ih =>
    by_cases h : x.1 = k
    · rw [List.filter_cons_of_neg (by simp [h]), ih]
    · rw [List.filter_cons_of_pos (by simp [h])]
      obtain ⟨j, z⟩ := x
      simp only [alGet]
      rw [if_neg h, ih]

theorem rrangeWrite_zeroes (hw : w = s.ownsel) (h : k < 8) : Next (exec (.rrangeWrite k v) s) (fun t => SameBytes s t ∧
      t.owner w = { s.owner w with rrange := (s.owner w).rrange.set k (v &&& 0x80FFFFFFFFFFFFF0) } ∧ ∀ x ∈ t.slices, alGet 0 (w * 8 + k) x.ctr = 0) := by
  subst hw
  have hk : k % 8 = k := Nat.mod_eq_of_lt h
  refine next_of ⟨fun _ => rfl, ?_, ?_⟩
  · refine (owner_modOwner s s.ownsel s.ownsel (fun x => { x with rrange := x.rrange.set (Fin.ofNat 8 k) (v &&& 0x80FFFFFFFFFFFFF0) })).trans ((if_pos rfl).trans ?_)
    simp [Fin.ofNat, hk]
  · intro x hx
    obtain ⟨y, _, rfl⟩ := List.mem_map.mp hx
    rw [hk]
    exact alGet_filter_ne 0 _ _

end

/-! ### Freezes (R313, R439) -/

section
variable {s : State} {o c : Nat} {cs : List Nat}

/-- The event of a violation of an owner. -/
def violation (s : State) (o c : Nat) : Ev := { ty := 1, o := o, cause := c, data := s.clk.quartz, src := 1 }

/-- The causes of a freeze are raised one by one. -/
def raisedAll (s : State) (o : Nat) (cs : List Nat) : State := cs.foldl (fun (s : State) c => s.raiseEv (violation s o c)) s

theorem raiseEv_room (h : EvRoom s) (e : Ev) : s.raiseEv e = s.modTrust (fun t => { t with events := s.trust.events ++ [{ e with q := s.q }] }) :=
  raiseEv_joins _ _ (heldKind_of_room h _)

/-- An event that is raised and not accepted leaves the arbiter's room as it was. -/
theorem evRoom_raiseEv (h : EvRoom s) {e : Ev} (he : e.seq = none) : EvRoom (s.raiseEv e) := by
  rw [raiseEv_room h]
  unfold EvRoom
  simp only [State.modTrust_trust, List.filter_append, List.length_append]
  simpa [he, EvRoom] using h

/-- Where the arbiter has room, every cause becomes an event. -/
theorem raisedAll_room (h : EvRoom s) (o : Nat) (cs : List Nat) : EvRoom (raisedAll s o cs) ∧ raisedAll s o cs =
    s.modTrust (fun t => { t with events := s.trust.events ++ cs.map (fun x => { violation s o x with q := s.q }) }) := by
  unfold raisedAll
  induction cs generalizing s with
  | nil => exact ⟨h, by rw [List.map_nil, List.append_nil]; rfl⟩
  | cons c cs ih =>
    obtain ⟨hroom, heq⟩ := ih (evRoom_raiseEv h (e := violation s o c) rfl)
    refine ⟨hroom, ?_⟩
    rw [List.foldl_cons, heq, raiseEv_room h]
    simp [State.modTrust, violation, State.q]

/-- The slots of an owner are frozen. -/
def frozenNow (s : State) (o c : Nat) : State :=
  s.modOwner o (fun x => { x with frozen := true, freezing := none, causes := [], vcause := c, qz := s.q })

theorem freezeStart_freezes (hc : (s.owner o).freezing = some c) (hpause : s.rot.pause = none) (hq : s.q % 8 = 0) (hroom : EvRoom s) (hne : c ≠ 0x81)
    (hcauses : (s.owner o).causes = cs ++ [c]) : Next (exec (.freezeStart o) s) (fun t => SameBytes s t ∧
      t.owner o = { s.owner o with frozen := true, freezing := none, causes := [], vcause := c, qz := s.q } ∧
      t.trust.events = s.trust.events ++ (cs ++ [c]).map (fun x => { ty := 0x01, o := o, cause := x, data := s.clk.quartz, src := 1, q := s.q })) := by
  obtain ⟨hroom', heq⟩ := raisedAll_room hroom o cs
  have hexec : exec (.freezeStart o) s = .next ((((frozenNow (raisedAll s o cs) o c).raiseEv (violation (raisedAll s o cs) o c)).unbindRows).wakeFrz o) := by
    show execFreezeStart o s = _
    unfold execFreezeStart
    rw [hc]
    dsimp only
    rw [if_neg (by simp [hpause, hq]), if_neg hne, hcauses, List.dropLast_concat]
    rfl
  rw [hexec]
  have hcauses' : EvRoom (frozenNow (raisedAll s o cs) o c) := hroom'
  rw [raiseEv_room hcauses']
  refine next_of ⟨fun a => congrArg (Mem.getB · a) (show (raisedAll s o cs).mem = s.mem by rw [heq]; rfl), ?_, ?_⟩
  · refine (owner_congr (s := frozenNow (raisedAll s o cs) o c) (by rw [heq]; rfl) o).trans ?_
    rw [frozenNow, owner_modOwner, if_pos rfl, heq]
    rfl
  · show (raisedAll s o cs).trust.events ++ [{ violation (raisedAll s o cs) o c with q := (raisedAll s o cs).q }] = _
    rw [heq, List.map_append, ← List.append_assoc]
    rfl

/-- The owner is out of use and in scrub, and nothing else of the graph unit, the registers and Obsidian's entries has changed since s. -/
def Draining (s : State) (o : Nat) (t : State) : Prop :=
  ((t.owner o).cfg.getLsbD 63 = false ∧ (t.owner o).inScrub = true ∧ (t.owner o).frozen = true ∧ (t.owner o).vcause = 0x81) ∧
  t.graph = s.graph ∧ t.regs = s.regs ∧ t.trust.pendings = s.trust.pendings

theorem draining_freezeFn {t : State} (h : Draining s o t) (f : Nat) : Draining s o (t.freezeFn f 0x81) := by
  obtain ⟨⟨hcfg, hscrub, hfrozen, hcause⟩, hkept⟩ := h
  refine ⟨?_, hkept⟩
  let own := ((t.fn? f).map (·.o)).getD 0
  have heq : (t.freezeFn f 0x81).owner o = if o % 16 = own % 16 then { t.owner own with vcause := 0x81, fn := f } else t.owner o :=
    owner_modOwner (t.modFn f (fun x => { x with frozen := true })) own o (fun x => { x with vcause := 0x81, fn := f })
  rw [heq]
  split
  next hsame =>
    rw [owner_of_mod t hsame.symm]
    exact ⟨hcfg, hscrub, hfrozen, rfl⟩
  next => exact ⟨hcfg, hscrub, hfrozen, hcause⟩

/-- The owner is disabled and in scrub, and its slots are frozen (R441). -/
def scrubbing (s : State) (o : Nat) : State :=
  s.modOwner o (fun x => { x with cfg := x.cfg &&& 0x7FFFFFFFFFFFFFFF, inScrub := true, frozen := true, freezing := none, causes := [], releasing := false
                                  vcause := 0x81, qz := s.q, pullcfg := x.pullcfg &&& 0x7FFFFFFFFFFFFFFF })

theorem draining_scrubbing (s : State) (o : Nat) : Draining s o (scrubbing s o) := by
  refine ⟨?_, rfl, rfl, rfl⟩
  unfold scrubbing
  rw [owner_modOwner, if_pos rfl]
  refine ⟨?_, rfl, rfl, rfl⟩
  show ((s.owner o).cfg &&& 0x7FFFFFFFFFFFFFFF).getLsbD 63 = false
  rw [BitVec.getLsbD_and, show (0x7FFFFFFFFFFFFFFF : Word).getLsbD 63 = false by decide, Bool.and_false]

/-- The functions of an owner freeze, each with its event (R441). -/
def fnsFrozen (s : State) (o : Nat) : State :=
  (s.host.fns.filter (fun f => f.en && f.o == o)).foldl (fun (s : State) f => s.freezeFn f.k 0x81) s

theorem draining_raiseEv {t : State} (h : Draining s o t) (e : Ev) : Draining s o (t.raiseEv e) := by
  obtain ⟨howner, hkept⟩ := h
  exact ⟨by rw [owner_congr (State.raiseEv_owners t e)]; exact howner, hkept⟩

/-- A state that differs before its stop only in what has been raised. -/
theorem draining_trans {t u : State} (h : Draining t o u) (hkept : t.graph = s.graph ∧ t.regs = s.regs ∧ t.trust.pendings = s.trust.pendings) : Draining s o u := by
  obtain ⟨howner, hg, hr, hp⟩ := h
  obtain ⟨hg', hr', hp'⟩ := hkept
  exact ⟨howner, hg.trans hg', hr.trans hr', hp.trans hp'⟩

theorem draining_fnsFrozen {t : State} (h : Draining s o t) : Draining s o (fnsFrozen t o) :=
  foldl_keeps (Draining s o) (fun (u : State) (f : Fn) => u.freezeFn f.k 0x81) (fun _ f h => draining_freezeFn h f.k) _ t h

theorem raisedAll_keeps (s : State) (o : Nat) (cs : List Nat) :
    (raisedAll s o cs).graph = s.graph ∧ (raisedAll s o cs).regs = s.regs ∧ (raisedAll s o cs).trust.pendings = s.trust.pendings :=
  foldl_keeps (fun t : State => t.graph = s.graph ∧ t.regs = s.regs ∧ t.trust.pendings = s.trust.pendings)
    (fun t c => t.raiseEv (violation t o c)) (fun _ _ h => h) cs s ⟨rfl, rfl, rfl⟩

/-- What waits for an owner in its queues, its installs and its pulls is stopped (R439). -/
def workStopped (s : State) (o : Nat) : State :=
  (((s.modGraph (fun g => { g with recs := g.recs.filter (fun r => r.o != o) })).modFlash (fun f => { f with installs := f.installs.map (fun (x : Install) =>
      if x.o = o && x.st != .ended && x.st != .requested && x.code == 0 && x.pushed.isNone then { x with code := 8 } else x) })).modTrust (fun t =>
    { t with slateOp := if t.slateOwner = o && t.slateOp != 0 && decide (t.slateOp < 100) then 107 else t.slateOp
             pulls := t.pulls.filter (fun x => x.o != o) })).unbindRows.wakeFrz o

theorem workStopped_keeps (s : State) (o : Nat) : (workStopped s o).owner o = s.owner o ∧ (workStopped s o).regs = s.regs ∧
    (workStopped s o).trust.pendings = s.trust.pendings ∧ (workStopped s o).graph = { s.graph with recs := s.graph.recs.filter (fun r => r.o != o) } := by
  unfold workStopped State.wakeFrz State.unbindRows
  exact ⟨rfl, rfl, rfl, rfl⟩

theorem drainOwner_stages (s : State) (o : Nat) :
    s.drainOwner o = workStopped (fnsFrozen ((scrubbing (raisedAll s o ((s.owner o).causes.filter (· != 0x81))) o).raiseEv
      (violation (scrubbing (raisedAll s o ((s.owner o).causes.filter (· != 0x81))) o) o 0x81)) o) o := rfl

/-- Stage 1 begins: the owner is out of use, and its queued records go (R439, R441). -/
theorem drainOwner_drains (s : State) (o : Nat) : ∃ t, Draining s o t ∧ (s.drainOwner o).owner o = t.owner o ∧ (s.drainOwner o).regs = t.regs ∧
    (s.drainOwner o).trust.pendings = t.trust.pendings ∧ (s.drainOwner o).graph = { t.graph with recs := t.graph.recs.filter (fun r => r.o != o) } := by
  rw [drainOwner_stages]
  have hraised := raisedAll_keeps s o ((s.owner o).causes.filter (· != 0x81))
  generalize raisedAll s o ((s.owner o).causes.filter (· != 0x81)) = u at *
  have hstart := draining_raiseEv (draining_trans (draining_scrubbing u o) hraised) (violation (scrubbing u o) o 0x81)
  exact ⟨_, draining_fnsFrozen hstart, workStopped_keeps _ o⟩

theorem freezeStart_drains (hc : (s.owner o).freezing = some 0x81) (hpause : s.rot.pause = none) (hq : s.q % 8 = 0) :
    Next (exec (.freezeStart o) s) (fun t => (t.owner o).cfg.getLsbD 63 = false ∧ (t.owner o).inScrub = true ∧ (t.owner o).frozen = true ∧
      (t.owner o).vcause = 0x81 ∧ (∀ r ∈ t.graph.recs, r.o ≠ o) ∧ t.graph.launches = s.graph.launches ∧ t.progStage = s.progStage ∧
      t.trust.pendings = s.trust.pendings) := by
  obtain ⟨t, ⟨⟨hcfg, hscrub, hfrozen, hcause⟩, hg, hr, hp⟩, howner, hregs, hpendings, hgraph⟩ := drainOwner_drains s o
  have hexec : exec (.freezeStart o) s = .next (s.drainOwner o) := by
    show execFreezeStart o s = _
    unfold execFreezeStart
    rw [hc]
    dsimp only
    rw [if_neg (by simp [hpause, hq]), if_pos rfl]
  rw [hexec]
  refine next_of ?_
  rw [howner, hgraph, hg, hpendings, hp]
  refine ⟨hcfg, hscrub, hfrozen, hcause, fun r hmem => by simpa using (List.mem_filter.mp hmem).2, rfl, ?_, rfl⟩
  unfold State.progStage
  rw [hregs, hr]

end

/-! ### A change of a slice's ways (R309) -/

section
variable {s : State} {n a b : Nat}

/-- A slice that changes its ways stands in the list. -/
theorem slice_listed (h : (s.slice n).target ≠ none) : ∃ y ∈ s.slices, y.n = n := by
  unfold State.slice at h
  cases hfind : s.slices.find? (fun x => x.n == n) with
  | none => rw [hfind] at h; exact absurd rfl h
  | some y => exact ⟨y, List.mem_of_find?_eq_some hfind, by simpa using List.find?_some hfind⟩

/-- A slice without a line. -/
def withoutLine (c : MicaLine) (x : Slice) : Slice := { x with lines := x.lines.filter (fun d => d.line != c.line) }

/-- What the lines of a slice are while some leave: the slice is as in s but for its lines, all of which it had, without those of gone. -/
def Leaving (s : State) (n : Nat) (gone : List MicaLine) (t : State) : Prop :=
  Settles s t ∧ t.threads = s.threads ∧ (∃ y ∈ t.slices, y.n = n) ∧
  ∃ ls, t.slice n = { s.slice n with lines := ls } ∧ ∀ x ∈ ls, x ∈ (s.slice n).lines ∧ x ∉ gone

theorem leaving_evictLine {t : State} {gone : List MicaLine} (h : Leaving s n gone t) (c : MicaLine) : Leaving s n (c :: gone) (t.evictLine c) := by
  obtain ⟨hset, hthreads, hlisted, ls, hslice, hls⟩ := h
  have hs := settles_evictLine t c
  have hmap : (t.evictLine c).slices = t.slices.map (withoutLine c) := rfl
  refine ⟨settles_trans hset hs, (threads_of_settles hs).trans hthreads, ?_, ls.filter (fun d => d.line != c.line), ?_, fun x hx => ?_⟩
  · obtain ⟨y, hy, hn⟩ := hlisted
    exact ⟨withoutLine c y, hmap ▸ List.mem_map_of_mem hy, hn⟩
  · rw [slice_map (f := withoutLine c) (fun _ => rfl) hmap hlisted, hslice]
    rfl
  · obtain ⟨hmem, hne⟩ := List.mem_filter.mp hx
    obtain ⟨hin, hout⟩ := hls x hmem
    refine ⟨hin, fun hgone => ?_⟩
    rcases List.mem_cons.mp hgone with rfl | hgone
    · simp at hne
    · exact hout hgone

/-- The lines of the ways that a change takes have left (R309). -/
theorem leaving_foldl {t : State} {gone : List MicaLine} (h : Leaving s n gone t) (cs : List MicaLine) :
    ∃ gone', Leaving s n gone' (cs.foldl (fun (s : State) c => s.evictLine c) t) ∧ ∀ c, c ∈ gone ∨ c ∈ cs → c ∈ gone' := by
  induction cs generalizing t gone with
  | nil => exact ⟨gone, h, fun c hc => hc.elim id nofun⟩
  | cons c cs ih =>
    obtain ⟨gone', hleft, hin⟩ := ih (leaving_evictLine h c)
    refine ⟨gone', hleft, fun d hd => hin d ?_⟩
    simp only [List.mem_cons] at hd ⊢
    tauto

/-- The ways of slice n are b from now on, and the bytes between the two sizes are zero. -/
def waysChanged (s : State) (n a b : Nat) : State :=
  let t := s.modMem (fun m => m.clear (sliceKey n (min a b * 2 ^ 20)) ((max a b - min a b) * 2 ^ 20))
  (t.setSlice { t.slice n with ways := b, size := b, target := none }).wakeWaypart n

theorem slice_waysChanged (s : State) (n a b : Nat) : (waysChanged s n a b).slice n = { s.slice n with ways := b, size := b, target := none } :=
  slice_setSlice (s := s.modMem (fun m => m.clear (sliceKey n (min a b * 2 ^ 20)) ((max a b - min a b) * 2 ^ 20)))
    (x := { s.slice n with ways := b, size := b, target := none }) (slice_n s n)

theorem getB_waysChanged (s : State) (n a b j : Nat) : (waysChanged s n a b).mem.getB j =
    if sliceKey n (min a b * 2 ^ 20) ≤ j ∧ j < sliceKey n (max a b * 2 ^ 20) then 0 else s.mem.getB j := by
  refine (getB_clear s.mem _ _ j).trans (if_congr ?_ rfl rfl)
  unfold sliceKey
  omega

theorem threads_waysChanged (s : State) (n a b : Nat) : ∀ x ∈ (waysChanged s n a b).threads, x.park = .waypart n → x.woken = true := by
  intro x hx hpark
  obtain ⟨y, _, rfl⟩ := List.mem_map.mp hx
  by_cases hy : y.park == .waypart n
  · simp [hy]
  · rw [if_neg hy] at hpark
    exact absurd hpark (by simpa using hy)

/-- A location lies in a slice. -/
def liesIn (n : Nat) (l : Loc) : Bool := match l with | .slice k _ => k == n | _ => false

theorem liesIn_slice {l : Loc} (h : liesIn n l = true) : ∃ off, l = .slice n off := by
  cases l with
  | slice k off => exact ⟨off, by rw [show k = n from beq_iff_eq.mp h]⟩
  | _ => cases h

theorem waypartComplete_ends (htarget : (s.slice n).target = some (a, b)) (hnet : ∀ r ∈ s.net, ∀ off, r.loc ≠ .slice n off)
    (hboxes : ∀ c ∈ s.cores, ∀ m ∈ c.mbox, ∀ w ∈ m.wq, ∀ off, w.loc ≠ .slice n off) : Next (exec (.waypartComplete n) s) (fun t =>
      (∃ ls, t.slice n = { s.slice n with ways := b, size := b, target := none, lines := ls } ∧ ∀ x ∈ ls, x ∈ (s.slice n).lines ∧ x.way < 16 - b) ∧
      (∀ j, (if sliceKey n (min a b * 2 ^ 20) ≤ j ∧ j < sliceKey n (max a b * 2 ^ 20) then t.mem.getB j = 0 else t.mem.getB j = s.mem.getB j)) ∧
      ∀ x ∈ t.threads, x.park = .waypart n → x.woken = true) := by
  let gone := (s.slice n).lines.filter (fun c => decide (16 - b ≤ c.way))
  let u := gone.foldl (fun (s : State) c => s.evictLine c) s
  have hstart : Leaving s n [] s := ⟨settles_refl s, rfl, slice_listed (by rw [htarget]; nofun), (s.slice n).lines, rfl, fun x hx => ⟨hx, nofun⟩⟩
  obtain ⟨gone', ⟨hset, hthreads, hlisted, ls, hslice, hls⟩, hgone⟩ := leaving_foldl hstart gone
  have hexec : exec (.waypartComplete n) s = .next (waysChanged u n a b) := by
    show execWaypartComplete n s = _
    unfold execWaypartComplete
    dsimp only
    rw [if_neg]
    · unfold State.endWaypart
      dsimp only
      rw [htarget]
      rfl
    · show ¬(s.net.any (fun r => liesIn n r.loc) || s.cores.any (fun c => c.mbox.any (fun m => m.wq.any (fun w => liesIn n w.loc)))) = true
      simp only [Bool.or_eq_true, List.any_eq_true, not_or, not_exists, not_and]
      refine ⟨fun r hr hin => ?_, fun c hc m hm w hw hin => ?_⟩
      · obtain ⟨off, hloc⟩ := liesIn_slice hin
        exact hnet r hr off hloc
      · obtain ⟨off, hloc⟩ := liesIn_slice hin
        exact hboxes c hc m hm w hw off hloc
  rw [hexec]
  refine next_of ⟨⟨ls, ?_, fun x hx => ?_⟩, fun j => ?_, threads_waysChanged u n a b⟩
  · rw [slice_waysChanged, hslice]
  · obtain ⟨hin, hout⟩ := hls x hx
    exact ⟨hin, by_contra fun hway => hout (hgone x (.inr (List.mem_filter.mpr ⟨hin, decide_eq_true (by omega)⟩)))⟩
  · rw [getB_waysChanged]
    split
    · rfl
    · exact sameBytes_of_settles hset j

end

/-! ### The arbiter (R354, R356) -/

section
variable {s : State} {e : Ev}

/-- The only event is accepted, and its record is due. -/
def evTaken (s : State) : State := s.modTrust (fun t => { t with evseq := t.evseq + 1, events := [] })

/-- The record is written, and the tail moves (R356). -/
def evWritten (s : State) (e : Ev) : State :=
  (((evTaken s).unitWrite (.dram 0 (s.regs.evrb.toNat + 32 * s.regs.evtl.toNat) .cacheable)
      (quadBytes [s.trust.evseq, State.evQ1 e, s.clk.quartz, e.data])).modRegs (fun r =>
    { r with evtl := BitVec.ofNat 64 ((r.evtl.toNat + 1) % max 1 (bits s.regs.evrn.toNat 15 0)) })).signal 0 0

theorem ofNat_q (s : State) : BitVec.ofNat 64 s.q = s.clk.quartz := by
  unfold State.q
  apply BitVec.eq_of_toNat_eq
  rw [BitVec.toNat_ofNat, Nat.mul_comm, Nat.mul_add_mod, Nat.mod_eq_of_lt s.clk.quartz.isLt]

theorem writeEv_quiet {s : State} (hquiet : bit s.regs.evnq.toNat 63 = false) (e : Ev) :
    (evTaken s).writeEv { e with seq := some s.trust.evseq, q := s.q } = evWritten s e := by
  have hnq : bit (((evTaken s).unitWrite (.dram 0 (s.regs.evrb.toNat + 32 * s.regs.evtl.toNat) .cacheable)
      (quadBytes [s.trust.evseq, State.evQ1 e, s.clk.quartz, e.data])).regs.evnq.toNat) 63 = false := by
    rw [unitWrite_regs]; exact hquiet
  unfold State.writeEv evWritten
  dsimp only
  rw [Option.getD_some, ofNat_q]
  have hregs : (evTaken s).regs = s.regs := rfl
  rw [hregs, show State.evQ1 { e with seq := some s.trust.evseq, q := s.q } = State.evQ1 e from rfl]
  generalize (evTaken s).unitWrite (.dram 0 (s.regs.evrb.toNat + 32 * s.regs.evtl.toNat) .cacheable)
      (quadBytes [s.trust.evseq, State.evQ1 e, s.clk.quartz, e.data]) = u at *
  rw [if_neg]
  show ¬bit u.regs.evnq.toNat 63 = true
  rw [hnq]
  exact Bool.false_ne_true

theorem eventAccept_writes (hevents : s.trust.events = [e]) (hseq : e.seq = none) (hroom : s.ringRoom = true) (hquiet : bit s.regs.evnq.toNat 63 = false) :
    exec (.eventAccept 0) s = .next (evWritten s e) := by
  have hopen : ((s.modTrust (fun t => { t with evseq := t.evseq + 1 })).ringRoom && ([] : List Ev).isEmpty) = true := Bool.and_eq_true_iff.mpr ⟨hroom, rfl⟩
  have hheld : s.heldEvs = [] := by simp [State.heldEvs, hevents, hseq]
  show Host.Outcome.next (s.takeEv 0) = _
  unfold State.takeEv
  rw [hheld, hevents]
  simp only [List.getElem?_cons_zero, hseq, List.take_zero, List.any_nil, List.length_nil, Bool.false_or]
  rw [if_neg (by split <;> simp), if_pos hopen, ← writeEv_quiet hquiet]
  show Host.Outcome.next (State.writeEv { s with trust := { s.trust with evseq := s.trust.evseq + 1, events := s.trust.events.eraseIdx 0 } } _) = _
  rw [hevents]
  rfl

theorem signal_frame (s : State) (f v : Nat) : s.signal f v = { s with host := (s.signal f v).host } := by
  unfold State.signal
  split
  · split <;> rfl
  · rfl

theorem ringRoom_of (hm : bits s.regs.evrn.toNat 15 0 ≠ 0) (hfull : (s.regs.evtl.toNat + 1) % bits s.regs.evrn.toNat 15 0 ≠ s.regs.evhd.toNat) :
    s.ringRoom = true := by
  simp [State.ringRoom, hm, hfull]

/-- The only event is accepted and written in its place of the ring (R354, R356). -/
theorem eventAccept_records {m a : Nat} (hevents : s.trust.events = [e]) (hseq : e.seq = none) (hok : MemOk s) (hm : m = bits s.regs.evrn.toNat 15 0)
    (ha : a = s.regs.evrb.toNat + 32 * s.regs.evtl.toNat) (hpos : m ≠ 0) (hfull : (s.regs.evtl.toNat + 1) % m ≠ s.regs.evhd.toNat)
    (hquiet : bit s.regs.evnq.toNat 63 = false) (hlost : s.lostKey (s.dramKey 0 a) = false) :
    Next (exec (.eventAccept 0) s) (fun t => Stored s t (s.dramKey 0 a) (quadBytes [s.trust.evseq, State.evQ1 e, s.clk.quartz, e.data]) ∧
      t.regs.evtl = BitVec.ofNat 64 ((s.regs.evtl.toNat + 1) % m) ∧ t.trust.evseq = s.trust.evseq + 1 ∧ t.trust.events = []) := by
  subst hm ha
  rw [eventAccept_writes hevents hseq (ringRoom_of hpos hfull) hquiet]
  unfold evWritten
  rw [signal_frame]
  have hstored : Stored (evTaken s) ((evTaken s).unitWrite (.dram 0 (s.regs.evrb.toNat + 32 * s.regs.evtl.toNat) .cacheable)
      (quadBytes [s.trust.evseq, State.evQ1 e, s.clk.quartz, e.data])) _ _ := stored_unitWrite (s := evTaken s) hok hlost
  have hregs : ((evTaken s).unitWrite (.dram 0 (s.regs.evrb.toNat + 32 * s.regs.evtl.toNat) .cacheable)
      (quadBytes [s.trust.evseq, State.evQ1 e, s.clk.quartz, e.data])).regs = s.regs := unitWrite_regs ..
  have htrust : ((evTaken s).unitWrite (.dram 0 (s.regs.evrb.toNat + 32 * s.regs.evtl.toNat) .cacheable)
      (quadBytes [s.trust.evseq, State.evQ1 e, s.clk.quartz, e.data])).trust = (evTaken s).trust := unitWrite_trust ..
  generalize (evTaken s).unitWrite (.dram 0 (s.regs.evrb.toNat + 32 * s.regs.evtl.toNat) .cacheable)
      (quadBytes [s.trust.evseq, State.evQ1 e, s.clk.quartz, e.data]) = u at *
  refine next_of ⟨hstored, ?_, congrArg Trust.evseq htrust, congrArg Trust.events htrust⟩
  show BitVec.ofNat 64 ((u.regs.evtl.toNat + 1) % max 1 (bits s.regs.evrn.toNat 15 0)) = _
  rw [hregs, Nat.max_eq_right (Nat.pos_of_ne_zero hpos)]

end

/-- Settles O42: each register, freeze, change of ways and event by its own operation. The fields of a refused write of OWNCFG (log 32), the code of a carve-out
that does not fit (log 33), the lines that a change of ways keeps (log 14) and a source that holds an event (log 105) are the model's choices. -/
theorem ownersAndEvents : Obligations.OwnersAndEvents := by
  unfold Obligations.OwnersAndEvents
  intro s v k n o w sel cap
  have hw : w = s.ownsel := (ownsel_eq s).symm
  refine ⟨fun hen hoff => ⟨ownerEnable_accepts hen hw hoff, ownerEnable_refuses hen hw hoff⟩, capentWrite_refuses hw, capentWrite_replaces hw,
    rrangeWrite_zeroes hw, rfl, rfl, rfl, fun c hc _ hpause hq => ⟨fun cs hroom hne hcauses => freezeStart_freezes hc hpause hq hroom hne hcauses, ?_⟩,
    fun a b => waypartComplete_ends, ?_⟩
  · intro h
    subst h
    exact freezeStart_drains hc hpause hq
  · intro e hevents hseq hok m a hpos hfull hquiet hlost
    exact eventAccept_records hevents hseq hok rfl rfl hpos hfull hquiet hlost

end Sys2Proof.Laws

/-! SUPPORT. Pauses: the steps of a rotation pause, and O43. -/

namespace Sys2Proof.Laws

open Sys2Proof.Machine Sys2Proof.Safety

/-! ### A pause falls due (R314, R317, R326) -/

section
variable {s : State} {p : Pause}

/-- The start of a pause changes no byte, thread or tenancy. -/
theorem pauseBegun (s : State) {f : Rot → Rot} (hf : ∀ r, (f r).failed = r.failed ∧ (f r).tens = r.tens) (m w c : Bool) :
    let t := (s.modRot f).setPause ((s.modRot f).newPause m w c)
    SameBytes s t ∧ t.rot.pause = some { q0 := s.q, moves := m, switch := w, scrub := c, retire := s.rot.failed.length } ∧ t.threads = s.threads ∧
      t.rot.tens = s.rot.tens := by
  obtain ⟨hfailed, htens⟩ := hf s.rot
  refine ⟨fun _ => rfl, ?_, rfl, htens⟩
  rw [← hfailed]
  rfl

theorem rotationDue_of {iv : Nat} (hiv : iv = bits s.regs.rotiv.toNat 15 0) (hpos : 0 < s.clk.quartz.toNat) (hrun : bit s.regs.rotiv.toNat 63 = false) (hne : iv ≠ 0)
    (hmul : s.clk.quartz.toNat % (iv * 2 ^ 20) = 0) : s.rotationDue = true := by
  subst hiv
  simp [State.rotationDue, State.rotationAt, hpos, hrun, hne, hmul, -Nat.reducePow]

theorem exec_rotationDue (hdue : s.rotationDue = true) (hpause : s.rot.pause = none) : ∃ f : Rot → Rot, (∀ r, (f r).failed = r.failed ∧ (f r).tens = r.tens) ∧
    exec .rotationDue s = .next ((s.modRot f).setPause ((s.modRot f).newPause true false false)) := by
  refine ⟨fun r => { r with extraRot := if s.q % 2 ^ 20 = 0 then false else r.extraRot }, fun _ => ⟨rfl, rfl⟩, ?_⟩
  show execRotationDue s = _
  unfold execRotationDue
  rw [hdue]
  dsimp only
  rw [if_neg (by simp), State.modRot_rot, hpause]

theorem rotationDue_pauses (hdue : s.rotationDue = true) (hpause : s.rot.pause = none) : Next (exec .rotationDue s) (fun t => SameBytes s t ∧
      t.rot.pause = some { q0 := s.q, moves := true, switch := false, retire := s.rot.failed.length } ∧ t.threads = s.threads ∧ t.rot.tens = s.rot.tens) := by
  obtain ⟨f, hf, hexec⟩ := exec_rotationDue hdue hpause
  rw [hexec]
  exact next_of (pauseBegun s hf true false false)

theorem switchDue_of (hpos : 0 < s.clk.quartz.toNat) {ts : Nat} (hts : ts = bits s.regs.tsiv.toNat 15 0) (hne : ts ≠ 0)
    (hmul : s.clk.quartz.toNat % (ts * 2 ^ 16) = 0) (hshared : s.shared = true) : s.switchDue = true := by
  subst hts
  simp [State.switchDue, State.switchAt, hpos, hne, hmul, hshared, -Nat.reducePow]

theorem switchDue_pauses (hdue : s.switchDue = true) (hscrub : s.trust.scrubPause = false) (hpause : s.rot.pause = none) :
    Next (exec .switchDue s) (fun t => SameBytes s t ∧ t.threads = s.threads ∧
      t.rot.pause = some { q0 := s.q, moves := false, switch := true, retire := s.rot.failed.length }) := by
  have hnone : s.scrubDue = false := by simp [State.scrubDue, hscrub]
  show Next (execSwitchDue s) _
  unfold execSwitchDue
  simp only [hdue, hnone, State.modRot_rot, hpause, Bool.not_true, Bool.false_and, Bool.false_eq_true, if_false]
  obtain ⟨hbytes, hpaused, hthreads, -⟩ := pauseBegun s (f := fun r => { r with extraSw := false }) (fun _ => ⟨rfl, rfl⟩) false true false
  exact next_of ⟨hbytes, hthreads, hpaused⟩

theorem switchDue_joins (hdue : s.switchDue = true) (hscrub : s.trust.scrubPause = false) (hpause : s.rot.pause = some p) (hphase : p.phase ≠ .switched) :
    Next (exec .switchDue s) (fun t => SameBytes s t ∧ t.threads = s.threads ∧ t.rot.pause = some { p with switch := true }) := by
  have hnone : s.scrubDue = false := by simp [State.scrubDue, hscrub]
  show Next (execSwitchDue s) _
  unfold execSwitchDue
  simp only [hdue, hnone, State.modRot_rot, hpause, hphase, Bool.or_true, Bool.or_false, Bool.not_true, Bool.false_and, Bool.false_eq_true, if_false]
  exact next_of ⟨fun _ => rfl, rfl, rfl⟩

end

/-! ### The stop, the flush, the drain and the move (R318 to R323, R403) -/

section
variable {s : State} {p : Pause}

theorem engineStepStop_stops {cid : Nat} {c : Cmd} {x : Part} (hpause : s.rot.pause = some p) (hcmds : s.cmds = [c]) (hid : c.id = cid) (hparts : c.parts = [x])
    (hstarted : x.started = true) (hdone : x.done = false) :
    exec (.engineStepStop cid x.i x.j) s = .next { s with cmds := [{ c with parts := [{ x with stopped := true }] }] } := by
  have hcmd : s.cmd? cid = some c := by simp [State.cmd?, hcmds, hid]
  have hpart : State.part? c x.i x.j = some x := by simp [State.part?, hparts]
  show execEngineStepStop cid x.i x.j s = _
  unfold execEngineStepStop
  simp only [hcmd, hpause, hpart, hstarted, hdone]
  simp [State.setCmd, State.Cmd.setPart, hcmds, hparts]

theorem routerFlush_captures (hpause : s.rot.pause = some p) (hphase : p.phase = .stop) (hq : p.q0 + 512 ≤ s.q) :
    exec .routerFlush s = .next (s.capture.setPause { p with phase := .flushed }) := by
  show execRouterFlush s = _
  unfold execRouterFlush
  simp [hpause, hphase, hq]

theorem memoryDrainEnd_drains (hpause : s.rot.pause = some p) : exec .memoryDrainEnd s = .next { s with rot := { s.rot with pause := some { p with drained := true } } } := by
  show execMemoryDrainEnd s = _
  unfold execMemoryDrainEnd
  rw [hpause]
  rfl

theorem rotationMove_moves (hpause : s.rot.pause = some p) (hmoves : p.moves = true) (hphase : p.phase = .flushed) (hq : p.q0 + 520 ≤ s.q) :
    exec .rotationMove s = .next { s with rot := { s.rot with
      pause := some { p with phase := .moving, repairs := min 16 s.rot.repairs.length, endAt := s.q + 49152 + 1024 * min 16 s.rot.repairs.length } } } := by
  show execRotationMove s = _
  unfold execRotationMove
  simp only [hpause, hmoves, hphase, hq]
  rfl

theorem applyRepair_repairs (s : State) (r : Repair) : (s.applyRepair r).rot.repairs = s.rot.repairs := by
  unfold State.applyRepair
  dsimp only
  split
  · unfold State.halve
    split <;> rfl
  · rfl

theorem moveEnd_moves (hpause : s.rot.pause = some p) (hphase : p.phase = .moving) (hq : p.endAt ≤ s.q) :
    Next (exec .moveEnd s) (fun t => SameBytes s t ∧ t.rot.pause = some { p with phase := .moved } ∧ t.rot.repairs = s.rot.repairs.drop p.repairs) := by
  show Next (execMoveEnd s) _
  unfold execMoveEnd
  simp only [hpause, hphase, hq]
  refine next_of ⟨fun a => congrArg (Mem.getB · a) (foldl_mem applyRepair_mem _ s), rfl, congrArg (List.drop p.repairs) ?_⟩
  exact foldl_same (fun u : State => u.rot.repairs) _ applyRepair_repairs _ s

end

/-! ### The slot-map switch (R322, R324, R327) -/

section
variable {s : State} {p : Pause}

/-- What may change while saves are charged: draws and counters. -/
def ChargedOnly (s t : State) : Prop := t = { s with clk := { s.clk with draw := t.clk.draw }, owners := t.owners }

theorem chargedOnly_drawn {t : State} (h : ChargedOnly s t) : ChargedOnly s t.drawn := by
  unfold ChargedOnly at h ⊢
  rw [h]
  rfl

theorem chargedOnly_charge {t : State} (h : ChargedOnly s t) (o k n : Nat) : ChargedOnly s (t.charge o k n) := by
  unfold ChargedOnly at h ⊢
  rw [charge_frame, h]

/-- A tenancy that was out and is out is not written again, and one that returns changes no byte. -/
theorem chargeSaves_charges {was : List Tenancy} (hwas : ∀ t ∈ s.rot.tens, s.savedOut t = true → was.any (fun x => x.o == t.o && x.l == t.l) = true) :
    ChargedOnly s (s.chargeSaves was) := by
  have hstep : ∀ (ts : List Tenancy) (u : State), (∀ t ∈ ts, t ∈ s.rot.tens) → ChargedOnly s u → ChargedOnly s (ts.foldl (fun (s : State) t =>
      let out := was.any (fun x => x.o == t.o && x.l == t.l)
      if s.savedOut t == out then s
      else State.charge (if out then s.drawn else s.drawn.saveOut t.o 12288) t.o (if out then 4 else 5) (s.free.toNat % 196609 * 128)) u) := by
    intro ts
    induction ts with
    | nil => exact fun u _ h => h
    | cons t ts ih =>
      intro u hin hu
      refine ih _ (fun t ht => hin t (List.mem_cons_of_mem _ ht)) ?_
      have hsaved : u.savedOut t = s.savedOut t := by rw [hu]; rfl
      dsimp only
      split
      · exact hu
      next hne =>
        have hout : was.any (fun x => x.o == t.o && x.l == t.l) = true := by
          by_contra hnot
          have hnot' : was.any (fun x => x.o == t.o && x.l == t.l) = false := by simpa using hnot
          have hs : s.savedOut t = false := by
            by_contra hs
            exact hnot (hwas t (hin t List.mem_cons_self) (by simpa using hs))
          exact hne (by rw [hsaved, hs, hnot']; rfl)
        rw [hout, if_pos rfl]
        exact chargedOnly_charge (chargedOnly_drawn hu) ..
  exact hstep _ s (fun _ h => h) rfl

/-- The next raster index (R322). -/
def nextIdx (n i : Nat) : Nat := (i + 1) % max 1 n

theorem nextIdx_inj {n i j : Nat} (hi : i < n) (hj : j < n) (h : nextIdx n i = nextIdx n j) : i = j := by
  unfold nextIdx at h
  rw [Nat.max_eq_right (by omega)] at h
  rcases Nat.lt_or_ge (i + 1) n with h1 | h1 <;> rcases Nat.lt_or_ge (j + 1) n with h2 | h2
  · rw [Nat.mod_eq_of_lt h1, Nat.mod_eq_of_lt h2] at h; omega
  · rw [Nat.mod_eq_of_lt h1, show j + 1 = n by omega, Nat.mod_self] at h; omega
  · rw [Nat.mod_eq_of_lt h2, show i + 1 = n by omega, Nat.mod_self] at h; omega
  · omega

/-- Each index takes its current tenancy along. -/
theorem alGet_moved {n i : Nat} (hi : i < n) (xs : List (Nat × Nat)) (hxs : ∀ y ∈ xs, y.1 < n) :
    alGet 0 (nextIdx n i) (xs.map (fun c => (nextIdx n c.1, c.2))) = alGet 0 i xs := by
  induction xs with
  | nil => rfl
  | cons x xs ih =>
    obtain ⟨j, z⟩ := x
    have hj : j < n := hxs _ List.mem_cons_self
    simp only [List.map_cons, alGet]
    rw [ih fun y hy => hxs y (List.mem_cons_of_mem _ hy)]
    by_cases h : j = i
    · rw [if_pos h, if_pos (by rw [h])]
    · rw [if_neg h, if_neg fun he => h (nextIdx_inj hj hi he)]

/-- A tenancy is as much out after the move as before it, where no position is hollow. -/
theorem savedOut_moveOn (htens : ∀ y ∈ s.rot.tens, y.idx < s.nlive) (hcur : ∀ y ∈ s.rot.cur, y.1 < s.nlive) (hhollow : s.rot.hollow = []) {t : Tenancy} (ht : t ∈ s.rot.tens) :
    s.moveOn.savedOut { t with idx := nextIdx s.nlive t.idx } = s.savedOut t := by
  have hget : alGet 0 (nextIdx s.nlive t.idx) s.moveOn.rot.cur = alGet 0 t.idx s.rot.cur := alGet_moved (htens t ht) _ hcur
  unfold State.savedOut
  dsimp only
  rw [hget, show s.moveOn.rot.hollow = s.rot.hollow from rfl, hhollow]
  rfl

/-- The move writes no save area where no position is hollow (R328, R401). -/
theorem moveOn_charges (htens : ∀ y ∈ s.rot.tens, y.idx < s.nlive) (hcur : ∀ y ∈ s.rot.cur, y.1 < s.nlive) (hhollow : s.rot.hollow = []) :
    ChargedOnly s.moveOn (s.moveOn.chargeSaves (s.rot.tens.filter s.savedOut)) := by
  refine chargeSaves_charges fun t ht hout => ?_
  obtain ⟨y, hy, rfl⟩ := List.mem_map.mp (show t ∈ s.rot.tens.map (fun t => { t with idx := nextIdx s.nlive t.idx }) from ht)
  rw [savedOut_moveOn htens hcur hhollow hy] at hout
  exact List.any_eq_true.mpr ⟨y, List.mem_filter.mpr ⟨hy, hout⟩, by simp⟩

theorem needSaves_none (h : s.rot.hollow = []) : s.needSaves = s := by
  unfold State.needSaves
  rw [h]
  rfl

/-- The state of the slot map before its move: the changes of this pause are done. -/
def changesDone (s : State) : State := s.modRot (fun r => { r with changes := [] })

theorem mapSwitch_moves (hchanges : s.rot.changes = []) (hfailed : s.rot.failed = []) (hmoves : p.moves = true) (hswitch : p.switch = false) :
    s.mapSwitch p = (((changesDone s).moveOn.chargeSaves ((changesDone s).rot.tens.filter (changesDone s).savedOut)).unbindRows.emptyCaches.needSaves).setPause
      { p with phase := .switched, endAt := s.q } := by
  unfold State.mapSwitch
  rw [hchanges]
  dsimp only
  rw [List.foldl_nil, show (s.modRot (fun r => { r with changes := [] })).rot.failed = [] from hfailed, List.take_nil, List.foldl_nil, if_pos hmoves,
    if_neg (by simp [hswitch])]
  rfl

theorem slotMapSwitch_moves (htens : ∀ y ∈ s.rot.tens, y.idx < s.nlive) (hcur : ∀ y ∈ s.rot.cur, y.1 < s.nlive) (hpause : s.rot.pause = some p)
    (hphase : p.phase = .moved) (hmoves : p.moves = true) (hswitch : p.switch = false) (hdrained : p.drained = true) (hscrub : p.scrub = false) (hq : s.q % 8 = 0)
    (hjoins : s.joinsSoon p = false) (hchanges : s.rot.changes = []) (hfailed : s.rot.failed = []) (hhollow : s.rot.hollow = []) :
    Next (exec .slotMapSwitch s) (fun t => SameBytes s t ∧ t.rot.seq = s.rot.seq + 1 ∧ t.tlb = [] ∧ t.wcache = [] ∧ t.l1 = [] ∧ t.walks = [] ∧
      t.rot.tens = s.rot.tens.map (fun y => { y with idx := (y.idx + 1) % max 1 s.nlive }) ∧ t.rot.pause = some { p with phase := .switched, endAt := s.q }) := by
  have hexec : exec .slotMapSwitch s = .next (s.mapSwitch p) := by
    show execSlotMapSwitch s = _
    unfold execSlotMapSwitch
    rw [hpause]
    dsimp only
    rw [if_pos (by simp [hphase, hdrained, hscrub, hq, hjoins])]
  have hcharged := moveOn_charges (s := changesDone s) htens hcur hhollow
  rw [hexec, mapSwitch_moves hchanges hfailed hmoves hswitch]
  unfold ChargedOnly at hcharged
  generalize (changesDone s).moveOn.chargeSaves ((changesDone s).rot.tens.filter (changesDone s).savedOut) = u at *
  have hrot : u.rot = (changesDone s).moveOn.rot := by rw [hcharged]
  have hmem : u.mem = s.mem := by rw [hcharged]; rfl
  have hnone : u.unbindRows.emptyCaches.needSaves = u.unbindRows.emptyCaches := needSaves_none (show u.rot.hollow = [] by rw [hrot]; exact hhollow)
  rw [hnone]
  refine next_of ⟨fun a => congrArg (Mem.getB · a) hmem, congrArg Rot.seq hrot, rfl, rfl, rfl, rfl, congrArg Rot.tens hrot, rfl⟩

end

/-! ### Issue resumes (R58, R318, R324) -/

section
variable {s t : State} {p : Pause}

/-- A command without the marks of what stands in save buffers. -/
def bareCmd (c : Cmd) : Cmd :=
  { c with parts := c.parts.map (fun (x : Part) => { x with cap := false }), wq := c.wq.map (fun (w : PWrite) => { w with cap := false }) }

/-- The flush changes the marks of a command alone (R320). -/
theorem capture_bare (s : State) : s.capture.cmds.map bareCmd = s.cmds.map bareCmd := by
  unfold State.capture
  simp [bareCmd, Function.comp_def]

/-- A thread after a turn's end: bound or not, and its turns count again from 0 if its slot has changed. -/
def TurnEnded (y w : Thread) : Prop :=
  w = { y with slot := w.slot, turns := w.turns, since := w.since, lastB := w.lastB } ∧ (y.slot ≠ none → y.strm = none → w.turns = 0)

/-- Only threads change, each as the end of a turn changes it. -/
def TurnsEnded (ys : List Thread) (s t : State) : Prop :=
  t = { s with me := t.me, threads := t.threads } ∧ List.Forall₂ TurnEnded ys t.threads

theorem turnsEnded_modThread {ys : List Thread} {u : Nat} {f : Thread → Thread} (hf : ∀ w, f w = { w with slot := (f w).slot, turns := 0, since := (f w).since, lastB := (f w).lastB })
    (h : TurnsEnded ys s t) : TurnsEnded ys s (t.modThread u f) := by
  obtain ⟨hframe, hthreads⟩ := h
  refine ⟨by rw [modThread_frame]; rw [hframe], ?_⟩
  unfold State.modThread
  split
  · exact hthreads
  · rw [List.forall₂_map_right_iff]
    refine hthreads.imp fun y w hw => ?_
    split
    · obtain ⟨heq, -⟩ := hw
      refine ⟨?_, fun _ _ => ?_⟩
      · rw [hf w, heq]
      · rw [hf w]
    · exact hw

theorem turnsEnded_bindSlot {ys : List Thread} (h : TurnsEnded ys s t) (c : Place) (k : Nat) : TurnsEnded ys s (t.bindSlot c k) := by
  unfold State.bindSlot
  split
  · exact h
  · split
    · exact h
    · split
      · exact turnsEnded_modThread (fun _ => rfl) h
      · exact h

theorem turnsEnded_endTurn {ys : List Thread} (h : TurnsEnded ys s t) (c : Place) (k : Nat) : TurnsEnded ys s (t.endTurn c k) := by
  unfold State.endTurn
  split
  · exact turnsEnded_bindSlot h c k
  · dsimp only
    split
    · exact turnsEnded_bindSlot (turnsEnded_modThread (fun _ => rfl) h) c k
    · exact h

/-- The turns of a pause end for every slot (R58). -/
theorem turnsEnded_turnsBroken (s : State) : TurnsEnded s.threads s s.turnsBroken := by
  unfold State.turnsBroken
  refine foldl_keeps (TurnsEnded s.threads s) (fun (s : State) (x : Place × Nat) => s.endTurn x.1 x.2) (fun t x h => turnsEnded_endTurn h x.1 x.2) _ _ ⟨rfl, ?_⟩
  rw [List.forall₂_map_right_iff]
  refine List.forall₂_same.mpr fun y _ => ?_
  split
  · exact ⟨rfl, fun _ _ => rfl⟩
  next hbound => exact ⟨rfl, fun hslot hstrm => absurd (by simp [hstrm, Option.isSome_iff_ne_none, hslot]) hbound⟩

/-- The placement queues are empty: nothing leaves them. -/
theorem pumpHeads_none (h : s.graph.placing = []) : s.pumpHeads = s := by
  unfold State.pumpHeads State.heads
  rw [h]
  dsimp only [List.length_nil, State.pumpPlacing]
  rw [h]
  rfl

/-- No owner waits to resume its step. -/
theorem resumeSteps_none (h : ∀ o, o < 16 → (s.owner o).resumeWait = false) : (List.range 16).foldl (fun (s : State) o =>
    if (s.owner o).resumeWait && !s.unplaced o then (s.modOwner o (fun x => { x with resumeWait := false })).stepResume o else s) s = s := by
  refine List.foldl_fixed' (fun o => ?_) _
  rw [if_neg]
  rw [owner_of_mod s (Nat.mod_mod o 16).symm, h _ (Nat.mod_lt o (by decide))]
  simp

/-- The pause is over, and its turns have ended. -/
def pauseOver (s : State) : State := (s.modRot (fun r => { r with pause := none })).turnsBroken

/-- The pulls wait on, and the engines step on (R319, R420). -/
def workResumed (s : State) (p : Pause) : State :=
  let s := s.modTrust (fun t => { t with pulls := t.pulls.map (fun (x : Pull) => { x with start := x.start + (s.q - max p.q0 x.start) }) })
  { s with cmds := s.cmds.map (fun (c : Cmd) => { c with parts := c.parts.map (fun (x : Part) => { x with stopped := false }) }) }

theorem resumeIssue_plain (hfreed : p.freed = []) (hplacing : s.graph.placing = []) (hwaits : ∀ o, o < 16 → (s.owner o).resumeWait = false) :
    s.resumeIssue p = workResumed (pauseOver s) p := by
  obtain ⟨hframe, -⟩ := turnsEnded_turnsBroken (s.modRot (fun r => { r with pause := none }))
  have hsteps := resumeSteps_none (s := workResumed (pauseOver s) p) fun o ho => by
    have howners : (workResumed (pauseOver s) p).owners = s.owners := by
      unfold workResumed pauseOver
      rw [hframe]
      rfl
    rw [owner_congr howners]
    exact hwaits o ho
  have hqueues : (workResumed (pauseOver s) p).graph.placing = [] := by
    unfold workResumed pauseOver
    rw [hframe]
    exact hplacing
  unfold State.resumeIssue
  dsimp only
  rw [hfreed, List.foldl_nil]
  exact (congrArg State.pumpHeads hsteps).trans (pumpHeads_none hqueues)

theorem issueResume_resumes (hpause : s.rot.pause = some p) (hphase : p.phase = .switched) (hq : s.q % 8 = 0) (hend : p.endAt + 8 ≤ s.q) (hfreed : p.freed = [])
    (hplacing : s.graph.placing = []) (hwaits : ∀ o, o < 16 → (s.owner o).resumeWait = false) :
    Next (exec .issueResume s) (fun t => SameBytes s t ∧ t.rot.pause = none ∧ t.threads.length = s.threads.length ∧
      (∀ y ∈ s.threads, ∃ w ∈ t.threads, TurnEnded y w) ∧ t.rot.tens = s.rot.tens ∧ ∀ d ∈ t.cmds, ∀ y ∈ d.parts, y.stopped = false) := by
  have hexec : exec .issueResume s = .next (workResumed (pauseOver s) p) := by
    rw [← resumeIssue_plain hfreed hplacing hwaits]
    show execIssueResume s = _
    unfold execIssueResume
    rw [hpause]
    dsimp only
    rw [if_pos (by simp [hphase, hq, hend])]
  obtain ⟨hframe, hthreads⟩ := turnsEnded_turnsBroken (s.modRot (fun r => { r with pause := none }))
  rw [hexec]
  unfold workResumed pauseOver
  generalize (s.modRot (fun r => { r with pause := none })).turnsBroken = u at *
  have hrot : u.rot = { s.rot with pause := none } := by rw [hframe]; rfl
  have hmem : u.mem = s.mem := by rw [hframe]; rfl
  refine next_of ⟨fun a => congrArg (Mem.getB · a) hmem, congrArg Rot.pause hrot, hthreads.length_eq.symm, fun y hy => ?_, ?_, fun d hd y hy => ?_⟩
  · obtain ⟨i, hi, rfl⟩ := List.getElem_of_mem hy
    exact ⟨u.threads[i]'(hthreads.length_eq ▸ hi), List.getElem_mem _, hthreads.get hi (hthreads.length_eq ▸ hi)⟩
  · show u.rot.tens = s.rot.tens
    rw [hrot]
  · obtain ⟨c, -, rfl⟩ := List.mem_map.mp hd
    obtain ⟨x, -, rfl⟩ := List.mem_map.mp hy
    rfl

end

/-- Settles O43: each step of a pause by its own operation. -/
theorem pausesAdvance : Obligations.PausesAdvance := by
  unfold Obligations.PausesAdvance
  intro s p cid c x q z iv ts at_
  refine ⟨fun hpos hrun hne hmul hpause => rotationDue_pauses (rotationDue_of rfl hpos hrun hne hmul) hpause, fun hpos hne hmul hshared hscrub => ?_, fun hpause => ?_⟩
  · have hdue := switchDue_of hpos rfl hne hmul hshared
    exact ⟨switchDue_pauses hdue hscrub, switchDue_joins hdue hscrub⟩
  · refine ⟨engineStepStop_stops hpause, fun hphase hq => ?_, memoryDrainEnd_drains hpause, rotationMove_moves hpause, moveEnd_moves hpause,
      fun htens hcur hphase hmoves hswitch hdrained hscrub hq => slotMapSwitch_moves htens hcur hpause hphase hmoves hswitch hdrained hscrub hq,
      issueResume_resumes hpause⟩
    rw [routerFlush_captures hpause hphase hq]
    exact next_of ⟨fun _ => rfl, rfl, rfl, rfl, rfl, rfl, capture_bare s, rfl⟩

end Sys2Proof.Laws

/-! SUPPORT. Walks: the end of a walk, the two steps of an invalidation, and O34. -/

namespace Sys2Proof.Laws

open Sys2Proof.Machine Sys2Proof.Safety

/-! ### What a walk fills (R341, R343) -/

section
variable {s : State} {e x : Tlb} {n : Nat}

/-- An entry that joins a TLB stands in it, -/
theorem mem_putTlb (s : State) (n : Nat) (e : Tlb) : e ∈ (s.putTlb n e).tlb := by
  unfold State.putTlb
  dsimp only
  split <;> exact List.mem_append_right _ (List.mem_singleton_self e)

/-- and an entry of another core, or the entry itself, stays. -/
theorem mem_putTlb_of_mem (h : x ∈ s.tlb) (hx : x.c ≠ e.c ∨ x = e) : x ∈ (s.putTlb n e).tlb := by
  rcases hx with hc | rfl
  · unfold State.putTlb
    dsimp only
    split
    · exact List.mem_append_left _ h
    · refine List.mem_append_left _ (List.mem_filter.mpr ⟨h, ?_⟩)
      have hout : ∀ y, (s.tlb.filter (fun x => x.o == e.o && x.l == e.l && x.c == e.c))[s.free.toNat % n]? = some y → y.c = e.c := fun y hy => by
        have := (List.mem_filter.mp (List.mem_of_getElem? hy)).2
        simp only [Bool.and_eq_true, beq_iff_eq] at this
        exact this.2
      refine bne_iff_ne.mpr fun heq => hc (hout x heq.symm)
  · exact mem_putTlb s n x

/-- The entry of core c, or of the slot. -/
def entryAt (e : Tlb) (c : Option Nat) : Tlb := { e with c := c }

theorem mem_putTlb_entry {c d : Option Nat} (h : entryAt e c ∈ s.tlb) : entryAt e c ∈ (s.putTlb n (entryAt e d)).tlb := by
  refine mem_putTlb_of_mem h ?_
  by_cases hcd : c = d
  · exact .inr (by rw [hcd])
  · exact .inl hcd

/-- Every core that waits gets its entry. -/
theorem mem_foldl_putTlb (cs : List Nat) (s : State) {c : Option Nat} (h : entryAt e c ∈ s.tlb ∨ ∃ d ∈ cs, c = some d) :
    entryAt e c ∈ (cs.foldl (fun (s : State) c => s.putTlb 64 (entryAt e (some c))) s).tlb := by
  induction cs generalizing s with
  | nil => exact h.elim id nofun
  | cons d cs ih =>
    refine ih _ ?_
    rcases h with h | ⟨k, hk, rfl⟩
    · exact .inl (mem_putTlb_entry h)
    · rcases List.mem_cons.mp hk with rfl | hk
      · exact .inl (mem_putTlb s 64 _)
      · exact .inr ⟨k, hk, rfl⟩

theorem mem_fillTlb (s : State) (c : Nat) (e : Tlb) (fills : List WEnt) :
    entryAt e none ∈ (s.fillTlb c e fills).tlb ∧ entryAt e (some c) ∈ (s.fillTlb c e fills).tlb :=
  ⟨mem_putTlb_entry (d := some c) (mem_putTlb s 4096 (entryAt e none)), mem_putTlb (s.putTlb 4096 (entryAt e none)) 64 (entryAt e (some c))⟩

theorem walkFill_fills {o l va : Nat} (h : s.walk o l va = .ok e) (c : Nat) :
    ∃ t, s.walkFill ⟨o, l, c⟩ va = (.ok e, t) ∧ Settles s t ∧ entryAt e none ∈ t.tlb ∧ entryAt e (some c) ∈ t.tlb := by
  have hw : (s.walkT o l va).1 = .ok e := h
  have hset := settles_walkFill s ⟨o, l, c⟩ va
  unfold State.walkFill at hset ⊢
  dsimp only at hset ⊢
  rw [hw] at hset ⊢
  dsimp only at hset ⊢
  have hmem := mem_fillTlb ((s.walkT o l va).2.reads.foldl (fun (t : State) l => t.chargeMem false l) s) c e (s.walkT o l va).2.fills
  generalize State.fillTlb _ c e (s.walkT o l va).2.fills = u at hset hmem ⊢
  exact ⟨s.settled u, rfl, hset, hmem⟩

/-- A walk that ends well fills the TLB of its slot and those of the cores that wait (R343; log 78). -/
theorem walkEnd_fills {w : Walk} (h : s.walk w.o w.l w.va = .ok e) :
    ∃ t, s.walkEnd w = (.ok e, t) ∧ Settles s t ∧ entryAt e none ∈ t.tlb ∧ ∀ c ∈ s.walkCores w.id, entryAt e (some c) ∈ t.tlb := by
  unfold State.walkEnd
  cases hcores : s.walkCores w.id with
  | nil =>
    obtain ⟨t, hfill, hset, hslot, -⟩ := walkFill_fills h 0
    exact ⟨t, hfill, hset, hslot, nofun⟩
  | cons c cs =>
    obtain ⟨t, hfill, hset, hslot, hcore⟩ := walkFill_fills h c
    dsimp only
    rw [hfill]
    refine ⟨_, rfl, settles_trans hset (settles_foldl _ (fun s c => settles_putTlb s 64 _) cs t), mem_foldl_putTlb cs t (.inl hslot), fun d hd => ?_⟩
    refine mem_foldl_putTlb cs t ?_
    rcases List.mem_cons.mp hd with rfl | hd
    · exact .inl hcore
    · exact .inr ⟨d, hd, rfl⟩

end

/-! ### The end of a walk (R342, R343) -/

section
variable {s : State} {w : Walk} {wid : Nat} {e : Tlb}

theorem walking_alone (hwalks : s.walks = [w]) : s.walking w = true := by simp [State.walking, hwalks]

theorem tlbWalkEnd_restarts (hpause : s.rot.pause = none) (hwalks : s.walks = [w]) (hid : w.id = wid) (hgen : w.gen ≠ (s.owner w.o).gen) :
    Next (exec (.tlbWalkEnd wid) s) (fun t => t = { s with walks := [{ w with gen := (s.owner w.o).gen }] }) := by
  have hfind : s.walks.find? (fun x => x.id == wid) = some w := by simp [hwalks, hid]
  show Next (execTlbWalkEnd wid s) _
  unfold execTlbWalkEnd
  rw [hfind]
  dsimp only
  rw [if_neg (by simp [walking_alone hwalks, hpause]), if_pos (by simpa using hgen), hwalks]
  refine next_of ?_
  simp [hid]

/-- A thread that waits on a walk is woken. -/
def wokenOf (wid : Nat) (y : Thread) : Thread := match y.park with | .walk k _ _ => if k = wid then { y with woken := true } else y | _ => y

theorem wakeWalk_wakes (s : State) (wid : Nat) : s.wakeWalk wid none = { s with threads := s.threads.map (wokenOf wid) } := by
  unfold State.wakeWalk
  refine congrArg (fun ts => { s with threads := ts }) (List.map_congr_left fun y _ => ?_)
  unfold wokenOf
  cases y.park with
  | walk k a b => by_cases h : k = wid <;> simp [h]
  | _ => rfl

theorem mem_walkCores {y : Thread} (hy : y ∈ s.threads) {a : Addr} {b : Bool} (hpark : y.park = .walk wid a b) : y.pl.c ∈ s.walkCores wid := by
  unfold State.walkCores
  rw [List.mem_eraseDups]
  exact List.mem_map_of_mem (List.mem_filter.mpr ⟨hy, by rw [hpark]; exact beq_self_eq_true wid⟩)

theorem tlbWalkEnd_ends (hpause : s.rot.pause = none) (hwalks : s.walks = [w]) (hid : w.id = wid) (hgen : w.gen = (s.owner w.o).gen)
    (hwalk : s.walk w.o w.l w.va = .ok e) : Next (exec (.tlbWalkEnd wid) s) (fun t =>
      (∃ u, Settles s u ∧ t = { u with walks := [], threads := t.threads }) ∧ SameBytes s t ∧ entryAt e none ∈ t.tlb ∧
      (∀ c ∈ s.walkCores wid, entryAt e (some c) ∈ t.tlb) ∧ t.threads = s.threads.map (wokenOf wid)) := by
  have hfind : s.walks.find? (fun x => x.id == wid) = some w := by simp [hwalks, hid]
  obtain ⟨u, hend, hset, hslot, hcores⟩ := walkEnd_fills hwalk
  show Next (execTlbWalkEnd wid s) _
  unfold execTlbWalkEnd
  rw [hfind]
  dsimp only
  rw [if_neg (by simp [walking_alone hwalks, hpause]), if_neg (by simpa using hgen), hend]
  dsimp only
  rw [wakeWalk_wakes]
  have hgone : u.walks.filter (fun x => x.id != wid) = [] := by
    rw [show u.walks = [w] by rw [hset.1]; exact hwalks]
    simp [hid]
  refine next_of ⟨⟨u, hset, ?_⟩, fun a => sameBytes_of_settles hset a, hslot, hid ▸ hcores, ?_⟩
  · unfold State.dropWalk
    rw [hgone]
  · show u.threads.map (wokenOf wid) = _
    rw [threads_of_settles hset]

end

/-! ### The steps of an invalidation (R344) -/

section
variable {s : State} {kind own page : Nat}

/-- The translation state of an owner that an invalidation covers: its generation rises, and kinds 3 and 4 take its roots and pairs (R334, R344). -/
def renewed (s : State) (kind o : Nat) : State :=
  let s := s.modOwner o (fun x => { x with gen := x.gen + 1 })
  if 3 ≤ kind then s.modOwner o (fun x => { x with s1act := x.s1rt, s2act := x.s2rt, pairs := s.readPairs o }) else s

theorem renewed_frame (s : State) (kind o : Nat) : renewed s kind o = { s with owners := (renewed s kind o).owners } := by
  unfold renewed
  dsimp only
  split <;> rfl

theorem owner_renewed {o : Nat} (ho : o < 16) {k : Nat} (hk : k < 16) : (renewed s kind o).owner k = if k = o then
    (if 3 ≤ kind then { s.owner o with gen := (s.owner o).gen + 1, s1act := (s.owner o).s1rt, s2act := (s.owner o).s2rt
                                       pairs := (s.modOwner o (fun x => { x with gen := x.gen + 1 })).readPairs o }
      else { s.owner o with gen := (s.owner o).gen + 1 }) else s.owner k := by
  have hmod : k % 16 = o % 16 ↔ k = o := by omega
  unfold renewed
  dsimp only
  by_cases hkind : 3 ≤ kind
  · rw [if_pos hkind, if_pos hkind]
    simp only [owner_modOwner, hmod]
    split <;> simp
  · rw [if_neg hkind, if_neg hkind]
    simp only [owner_modOwner, hmod]

/-- The generations that have risen after n owners. -/
def GensRaised (s : State) (kind own n : Nat) (t : State) : Prop :=
  t = { s with owners := t.owners } ∧ ∀ o, o < 16 →
    (if o < n ∧ State.covered kind own o = true then (t.owner o).gen = (s.owner o).gen + 1 ∧
        (if 3 ≤ kind then (t.owner o).s1act = (s.owner o).s1rt ∧ (t.owner o).s2act = (s.owner o).s2rt
          else (t.owner o).s1act = (s.owner o).s1act ∧ (t.owner o).s2act = (s.owner o).s2act)
      else t.owner o = s.owner o)

/-- Owners in turn: those that are covered are renewed. -/
def renewEach (kind own : Nat) (s : State) (o : Nat) : State := if State.covered kind own o then renewed s kind o else s

theorem gensRaised_succ {n : Nat} (hn : n < 16) {t : State} (h : GensRaised s kind own n t) : GensRaised s kind own (n + 1) (renewEach kind own t n) := by
  obtain ⟨hframe, howners⟩ := h
  have hown : t.owner n = s.owner n := by
    have := howners n hn
    rwa [if_neg (by omega)] at this
  unfold renewEach
  by_cases hcov : State.covered kind own n = true
  · rw [if_pos hcov]
    refine ⟨by rw [renewed_frame]; rw [hframe], fun o ho => ?_⟩
    rw [owner_renewed hn ho]
    by_cases heq : o = n
    · subst heq
      rw [if_pos ⟨Nat.lt_succ_self o, hcov⟩, if_pos rfl, hown]
      by_cases hkind : 3 ≤ kind <;> simp [hkind]
    · rw [if_neg heq]
      have hlt : (o < n + 1 ∧ State.covered kind own o = true) = (o < n ∧ State.covered kind own o = true) := by
        rw [show (o < n + 1) = (o < n) by simp only [eq_iff_iff]; omega]
      simp only [hlt]
      exact howners o ho
  · rw [if_neg hcov]
    refine ⟨hframe, fun o ho => ?_⟩
    have hlt : (o < n + 1 ∧ State.covered kind own o = true) = (o < n ∧ State.covered kind own o = true) := by
      simp only [eq_iff_iff]
      constructor
      · rintro ⟨h1, h2⟩
        refine ⟨?_, h2⟩
        rcases Nat.lt_or_ge o n with h3 | h3
        · exact h3
        · rw [show o = n by omega] at h2; exact absurd h2 hcov
      · rintro ⟨h1, h2⟩; exact ⟨by omega, h2⟩
    simp only [hlt]
    exact howners o ho

theorem gensRaised_foldl (n : Nat) (hn : n ≤ 16) : GensRaised s kind own n ((List.range n).foldl (renewEach kind own) s) := by
  induction n with
  | zero => exact ⟨rfl, fun o _ => by rw [if_neg (by omega)]; rfl⟩
  | succ n ih =>
    rw [List.range_succ, List.foldl_append]
    exact gensRaised_succ hn (ih (by omega))

/-- Steps 2 and 3 of an invalidation, before the generations rise: the entries go, and fetches see what has been written. -/
def entriesGone (s : State) (kind own page : Nat) : State :=
  let s := s.sweepCode kind own page
  { s with wcache := s.wcache.filter (fun (w : WEnt) => !(State.covered kind own w.o &&
      (if kind = 0 then w.stage == 1 && w.tag == page / 2 ^ w.lo else kind != 2 || w.stage == 1 || w.tag == page / 2 ^ w.lo)))
           tlb := s.tlb.filter (fun (t : Tlb) => !(State.covered kind own t.o && (kind != 0 || State.tlbNames t page))) }

theorem invalidate_stages (s : State) (kind own page : Nat) :
    s.invalidate kind own page = (List.range 16).foldl (renewEach kind own) (entriesGone s kind own page) := rfl

/-- What stays while the entries go: the threads, the owners and every byte of memory. -/
theorem entriesGone_keeps (s : State) (kind own page : Nat) : (∀ u, (entriesGone s kind own page).thread? u = s.thread? u) ∧
    (∀ o, (entriesGone s kind own page).owner o = s.owner o) ∧ SameBytes s (entriesGone s kind own page) ∧
    (entriesGone s kind own page).tlb = s.tlb.filter (fun (t : Tlb) => !(State.covered kind own t.o && (kind != 0 || State.tlbNames t page))) := by
  have hsweep : (s.sweepCode kind own page).me = s.me ∧ (s.sweepCode kind own page).threads = s.threads ∧ (s.sweepCode kind own page).owners = s.owners ∧
      SameBytes s (s.sweepCode kind own page) ∧ (s.sweepCode kind own page).tlb = s.tlb := by
    unfold State.sweepCode
    split <;> exact ⟨rfl, rfl, rfl, fun _ => rfl, rfl⟩
  obtain ⟨hme, hthreads, howners, hbytes, htlb⟩ := hsweep
  refine ⟨fun u => ?_, fun o => owner_congr howners o, hbytes, ?_⟩
  · show (if (s.sweepCode kind own page).me.uid = u && u != 0 then some (s.sweepCode kind own page).me else (s.sweepCode kind own page).threads.find? (fun t => t.uid == u)) = _
    rw [hme, hthreads]
    rfl
  · show (s.sweepCode kind own page).tlb.filter _ = _
    rw [htlb]

end

section
variable {s : State} {kind own page uid : Nat} {x : Thread}

/-- A thread whose invalidation has removed its entries waits for the accesses from before. -/
def ackGiven (s : State) (kind own page : Nat) (t : Thread) : Thread :=
  { t with park := .tlbinv kind own page true s.newId, invs := if kind = 0 then s.removed own page else [] }

/-- What an invalidation leaves and what it makes (R344, steps 2 and 3). -/
theorem invalidate_makes (s : State) (kind own page : Nat) (hown : own < 16) : let t := s.invalidate kind own page
    (∀ u, t.thread? u = s.thread? u) ∧ SameBytes s t ∧
      (∀ o, o < 16 → (t.owner o).gen = (s.owner o).gen + (if kind = 4 ∨ o = own then 1 else 0)) ∧
      (3 ≤ kind → (t.owner own).s1act = (s.owner own).s1rt ∧ (t.owner own).s2act = (s.owner own).s2rt) ∧
      (kind < 3 → (t.owner own).s1act = (s.owner own).s1act ∧ (t.owner own).s2act = (s.owner own).s2act) ∧
      t.tlb = s.tlb.filter (fun y => !((kind == 4 || y.o == own) && (kind != 0 || State.tlbNames y page))) := by
  rw [invalidate_stages]
  obtain ⟨hthread, howner, hbytes, htlb⟩ := entriesGone_keeps s kind own page
  obtain ⟨hframe, hgens⟩ := gensRaised_foldl (s := entriesGone s kind own page) (kind := kind) (own := own) 16 (Nat.le_refl 16)
  generalize (List.range 16).foldl (renewEach kind own) (entriesGone s kind own page) = t at *
  have hcov : State.covered kind own own = true := by simp [State.covered]
  have hself := hgens own hown
  rw [if_pos ⟨hown, hcov⟩, howner] at hself
  refine ⟨fun u => ?_, fun a => ?_, fun o ho => ?_, fun hkind => ?_, fun hkind => ?_, ?_⟩
  · rw [hframe]; exact hthread u
  · rw [hframe]; exact hbytes a
  · have h := hgens o ho
    rw [howner] at h
    by_cases hc : kind = 4 ∨ o = own
    · rw [if_pos hc]
      rw [if_pos ⟨ho, by simpa [State.covered] using hc⟩] at h
      exact h.1
    · rw [if_neg hc]
      rw [if_neg fun hand => hc (by simpa [State.covered] using hand.2)] at h
      rw [h]; rfl
  · have h := hself.2
    rwa [if_pos hkind] at h
  · have h := hself.2
    rwa [if_neg (by omega)] at h
  · rw [hframe]; exact htlb

theorem tlbinvAck_advances (hx : s.thread? uid = some x) (hpark : x.park = .tlbinv kind own page false 0) (hwoken : x.woken = false) (hsaw : x.saw = [])
    (hops : ∀ o ∈ x.ops, o.acc = false) (hown : own < 16) : Next (exec (.tlbinvAck uid) s) (fun t => SameBytes s t ∧
      t.thread? uid = some { x with park := .tlbinv kind own page true s.clk.id, invs := if kind = 0 then s.removed own page else [] } ∧
      (∀ o, o < 16 → (t.owner o).gen = (s.owner o).gen + (if kind = 4 ∨ o = own then 1 else 0)) ∧
      (3 ≤ kind → (t.owner own).s1act = (s.owner own).s1rt ∧ (t.owner own).s2act = (s.owner own).s2rt) ∧
      (kind < 3 → (t.owner own).s1act = (s.owner own).s1act ∧ (t.owner own).s2act = (s.owner own).s2act) ∧
      t.tlb = s.tlb.filter (fun y => !((kind == 4 || y.o == own) && (kind != 0 || State.tlbNames y page)))) := by
  have hexec : exec (.tlbinvAck uid) s = .next (State.bump (((s.publishBy (fun w => w.2.2 == uid || w.2.2 == 0 || State.covered kind own w.1)).invalidate kind own page).modThread uid (ackGiven s kind own page))) := by
    show execTlbinvAck uid s = _
    unfold execTlbinvAck
    rw [hx]
    dsimp only
    rw [hpark]
    dsimp only
    rw [if_neg (by simp [hwoken]), if_pos (show (!false) = true from rfl), if_neg (by simpa [State.sawOpen, hsaw] using hops)]
    rfl
  obtain ⟨hthread, hbytes, hmade⟩ := invalidate_makes (s.publishBy (fun w => w.2.2 == uid || w.2.2 == 0 || State.covered kind own w.1)) kind own page hown
  rw [hexec]
  generalize State.invalidate _ kind own page = t at *
  have hframe := modThread_frame t uid (ackGiven s kind own page)
  have hfound := thread?_modThread t uid uid (ackGiven s kind own page) fun _ => rfl
  rw [if_pos rfl, hthread, show (s.publishBy (fun w => w.2.2 == uid || w.2.2 == 0 || State.covered kind own w.1)).thread? uid = some x from hx] at hfound
  refine next_of ⟨fun a => ?_, hfound, ?_⟩
  · show (State.modThread t uid _).mem.getB a = _
    rw [modThread_mem]
    exact hbytes a
  · show (∀ o, o < 16 → ((State.modThread t uid _).owner o).gen = _) ∧ _
    rw [hframe]
    exact hmade

/-- Nothing of the covered owners is on its way (R344, step 4). -/
theorem draining_none {stamp : Nat} {invs : List (Nat × Nat)} (hwalks : s.walks = []) (hthreads : ∀ y ∈ s.allThreads, y.region = none ∧ ∀ o ∈ y.ops, o.acc = false)
    (hboxes : ∀ c ∈ s.cores, ∀ m ∈ c.mbox, m.wq = []) : s.draining kind own stamp invs = false := by
  unfold State.draining
  simp only [hwalks, List.any_nil, Bool.false_or, Bool.or_eq_false_iff]
  refine ⟨⟨List.any_eq_false.mpr fun y hy => ?_, List.any_eq_false.mpr fun y hy => ?_⟩, List.any_eq_false.mpr fun c hc => ?_⟩
  · rw [(hthreads y hy).1]
    simp
  · have hops : y.ops.any (fun o => o.acc && decide (o.id < stamp) && o.n != 0 && (decide (o.ea.toNat < 2 ^ 47) && (kind != 0 ||
        invs.any (fun x => decide (x.1 ≤ s.viaPair y.pl.o o.ea.toNat) && decide (s.viaPair y.pl.o o.ea.toNat < x.1 + 2 ^ x.2))))) = false :=
      List.any_eq_false.mpr fun o ho => by simp [(hthreads y hy).2 o ho]
    rw [hops]
    simp
  · have hnone : ∀ p : CWrite → Bool, c.mbox.any (fun m => m.wq.any p) = false := fun p => List.any_eq_false.mpr fun m hm => by simp [hboxes c hc m hm]
    rw [hnone]
    simp

theorem tlbinvAck_wakes {stamp : Nat} (hx : s.thread? uid = some x) (hpark : x.park = .tlbinv kind own page true stamp) (hwoken : x.woken = false) (hwalks : s.walks = [])
    (hthreads : ∀ y ∈ s.allThreads, y.region = none ∧ ∀ o ∈ y.ops, o.acc = false) (hboxes : ∀ c ∈ s.cores, ∀ m ∈ c.mbox, m.wq = []) :
    Next (exec (.tlbinvAck uid) s) (fun t => OnThread { s with host := { s.host with outer := t.host.outer } } t uid { x with woken := true }) := by
  have hexec : exec (.tlbinvAck uid) s = .next ((s.publishBy (fun w => State.covered kind own w.1)).modThread uid (fun t => { t with woken := true })) := by
    show execTlbinvAck uid s = _
    unfold execTlbinvAck
    rw [hx]
    dsimp only
    rw [hpark]
    dsimp only
    rw [if_neg (by simp [hwoken]), if_neg (by simp), if_neg (by simp [draining_none hwalks hthreads hboxes])]
  rw [hexec]
  exact next_of (onThread_outer (b := s.publishBy (fun w => State.covered kind own w.1)) rfl hx fun _ => rfl)

end

/-- Settles O34: a walk that restarts and one that ends, and the two steps of an invalidation. Which TLBs a walk fills is the model's choice (log 78). -/
theorem walksAndInvalidations : Obligations.WalksAndInvalidations := by
  unfold Obligations.WalksAndInvalidations
  intro s wid uid w e x kind own page stamp hpause
  refine ⟨fun hwalks hid => ⟨tlbWalkEnd_restarts hpause hwalks hid, fun hgen hwalk => ?_⟩, tlbinvAck_advances, tlbinvAck_wakes⟩
  refine next_mono (tlbWalkEnd_ends hpause hwalks hid hgen hwalk) fun t ⟨hset, hbytes, hslot, hcores, hthreads⟩ =>
    ⟨hset, hbytes, hslot, fun y hy a b hpark => hcores _ (mem_walkCores hy hpark), hthreads⟩

end Sys2Proof.Laws

/-! SUPPORT. HostPort: what the host and the peers ask, resets of functions, and O44. -/

namespace Sys2Proof.Laws

open Sys2Proof.Machine Sys2Proof.Safety

/-! ### Functions -/

section
variable {s : State} {fn : Nat} {f : Fn}

theorem k_of_fn? (h : s.fn? fn = some f) : f.k = fn := by simpa [State.fn?] using List.find?_some h

theorem fnThere_of (h : s.fn? fn = some f) (hpresent : f.present = true) (hen : f.en = true) : s.fnThere fn = some f := by
  simp [State.fnThere, h, hpresent, hen]

end

/-! ### The port (R271, R321) -/

section
variable {s : State} {fn off : Nat} {f : Fn} {x : HostReq}

/-- The port holds nothing, and no round is in progress. -/
def portIdle (s : State) : State := s.modHost (fun h => { h with roundIn := (h.roundIn.1, 0), shareIn := [], roundOut := (h.roundOut.1, 0), shareOut := [] })

theorem portUp_of (hup : s.host.up = true) (hpower : s.trust.power = true) (hboot : s.trust.boot = false) (hrecovery : s.trust.recovery = false) : s.portUp = true := by
  simp [State.portUp, hup, hpower, hboot, hrecovery]

/-- At a port that holds nothing, with no pause, a request that can be served is served. -/
theorem takeHost_serves (hpause : s.rot.pause = none) (hheld : s.host.held = []) {t : State} (ht : (portIdle s).serveHost (s.spaceOpen x) x = some t) : s.takeHost x = t := by
  have hidle : s.idlePort = portIdle s := by unfold State.idlePort; rw [hheld]; rfl
  have hopen : (portIdle s).spaceOpen x = s.spaceOpen x := rfl
  unfold State.takeHost
  rw [hidle]
  dsimp only
  rw [if_neg (by simp [portIdle, State.modHost, hpause, hheld]), hopen, ht]

theorem platNat_portIdle (s : State) (a n : Nat) : (portIdle s).platNat a n = s.platNat a n := by
  unfold State.platNat
  rw [platRead_congr (t := portIdle s) (s := s) rfl rfl]

theorem admits_portIdle (s : State) (r : IxReq) (x : Option Nat) : (portIdle s).admits r x = s.admits r x := by
  unfold State.admits State.peerDev State.peerRown
  simp only [platNat_portIdle]
  rfl

theorem walk2_portIdle (s : State) (o : Nat) (w : Option Nat) (ia : Nat) (ls : List (Nat × Nat)) (tbl : Nat) (t : State.Trail) :
    (portIdle s).walk2 o w ia ls tbl t = s.walk2 o w ia ls tbl t := by
  have hcached (lo : Nat) : (portIdle s).cachedEnt o w 2 lo ia = s.cachedEnt o w 2 lo ia := rfl
  have hpoisoned (a : Nat) : (portIdle s).platPoisoned a = s.platPoisoned a := rfl
  induction ls generalizing tbl t with
  | nil => rfl
  | cons l ls ih =>
    unfold State.walk2
    simp only [hcached, hpoisoned, platNat_portIdle, ih]

theorem inboundLoc_portIdle (s : State) (r : IxReq) (w : Bool) : (portIdle s).inboundLoc r w = s.inboundLoc r w := by
  have howner (o : Nat) : (portIdle s).owner o = s.owner o := rfl
  have hdram (o : Nat) : (portIdle s).dramSize o = s.dramSize o := rfl
  have hflash (o : Nat) : (portIdle s).flashSize o = s.flashSize o := rfl
  unfold State.inboundLoc State.stage2 State.stage2T
  simp only [walk2_portIdle, howner, hdram, hflash]

theorem heldBack_portIdle (s : State) (l : Loc) : (portIdle s).heldBack l = s.heldBack l := rfl
theorem locKey_portIdle (s : State) (l : Loc) : (portIdle s).locKey l = s.locKey l := rfl
theorem poisonedKey_portIdle (s : State) (k : Nat) : (portIdle s).poisonedKey k = s.poisonedKey k := rfl
theorem readOut_portIdle (s : State) (l : Loc) (n : Nat) : (portIdle s).readOut l n = s.readOut l n := rfl

/-- The memory space of an open function is open to its posts and writes. -/
theorem spaceOpen_of (hthere : s.fnThere fn = some f) (hmem : f.memEn = true) (hd3 : f.d3 = false) (hx : State.HostReq.fn? x = some fn) : s.spaceOpen x = true := by
  simp [State.spaceOpen, hx, hthere, State.fnOpen, hmem, hd3]

end

/-! ### Posts and windows (R358, R360) -/

section
variable {s : State} {fn off len : Nat} {f : Fn} {bytes : List Byte}

theorem hostPost_arrives {j : Nat} (hport : s.portUp = true) (hpause : s.rot.pause = none) (hheld : s.host.held = []) (hthere : s.fnThere fn = some f)
    (hfrozen : f.frozen = false) (hmem : f.memEn = true) (hd3 : f.d3 = false) (hoff : off < 131072) (halign : off % 128 = 0) (hlen : bytes.length = 128)
    (hqueue : s.queueOf fn (off / 128) = some j) : Next (exec (.hostPost fn off bytes) s) (fun t => SameBytes s t ∧
      t.graph.arrivals = s.graph.arrivals ++ [{ id := s.clk.id, q := quadsOf 16 bytes, wq := j, fn := some fn, o := f.o }]) := by
  have hserve : (portIdle s).serveHost (s.spaceOpen (.post fn off bytes)) (.post fn off bytes) = some (State.bump (((portIdle s).modGraph (fun g =>
      { g with arrivals := g.arrivals ++ [{ id := s.newId, q := quadsOf 16 bytes, wq := j, fn := some fn, o := f.o }] })).charge f.o 8 128)) := by
    rw [spaceOpen_of hthere hmem hd3 rfl]
    unfold State.serveHost State.servePost
    dsimp only
    rw [if_pos (show (portIdle s).portUp = true from hport), if_pos hoff, show (portIdle s).queueOf fn (off / 128) = some j from hqueue]
    dsimp only
    rw [show (portIdle s).fnThere fn = some f from hthere]
    dsimp only
    rw [if_neg (by simp [hfrozen, hlen, halign])]
    rfl
  show Next (.next (s.takeHost (.post fn off bytes))) _
  rw [takeHost_serves hpause hheld hserve]
  exact next_of ⟨fun _ => rfl, rfl⟩

/-- An access within one sector is one piece. -/
theorem pieces_one {n a : Nat} (hpos : 0 < n) (hsector : a % 128 + n ≤ 128) : State.pieces (n + 1) a n = [(a, n)] := by
  obtain ⟨m, rfl⟩ : ∃ m, n = m + 1 := ⟨n - 1, by omega⟩
  have hmin : min (m + 1) (128 - a % 128) = m + 1 := by omega
  unfold State.pieces
  rw [if_neg (by omega)]
  dsimp only
  rw [hmin, Nat.sub_self]
  simp [State.pieces]

/-- The memory window of the PF reaches platform memory (R358). -/
theorem windowLocs_one {n : Nat} {write : Bool} (hk : f.k = 0) (hpos : 0 < n) (hsector : off % 128 + n ≤ 128) (hsize : off < s.dramSize 0) :
    s.windowLocs f off n write = some [(.dram 0 off .cacheable, off, n)] := by
  unfold State.windowLocs
  rw [pieces_one hpos hsector]
  simp [State.windowLoc, hk, hsize]

/-- The space of a small offset is the memory window (R358; log 102). -/
theorem hostSpace_window (h : off < 2 ^ 48) : State.hostSpace off = 0 := Nat.div_eq_of_lt h

theorem serveRead_window {t : State} (hthere : t.fnThere fn = some f) (hk : f.k = 0) (hfrozen : f.frozen = false) (hmem : f.memEn = true) (hd3 : f.d3 = false)
    (hbar : off + min len 4096 ≤ 2 ^ 37) : t.serveRead fn off len = t.windowRead f fn off len := by
  have hlt : off < 2 ^ 48 := by omega
  unfold State.serveRead
  rw [hthere, hostSpace_window hlt]
  dsimp only
  rw [Nat.mod_eq_of_lt hlt]
  exact if_neg (by simp [hfrozen, State.fnOpen, hmem, hd3, State.barSize, hk]; omega)

theorem serveWrite_window {t : State} {kept : Bool} (hthere : t.fnThere fn = some f) (hk : f.k = 0) (hfrozen : f.frozen = false) (hmem : f.memEn = true) (hd3 : f.d3 = false)
    (hbar : off + bytes.length ≤ 2 ^ 37) : t.serveWrite fn off bytes kept = t.windowWrite f fn off bytes := by
  have hlt : off < 2 ^ 48 := by omega
  unfold State.serveWrite
  rw [hthere, hostSpace_window hlt]
  dsimp only
  rw [Nat.mod_eq_of_lt hlt]
  exact if_neg (by simp [hfrozen, State.fnOpen, hmem, hd3, State.barSize, hk]; omega)

theorem hostMemoryRead_reads (hport : s.portUp = true) (hpause : s.rot.pause = none) (hheld : s.host.held = []) (hthere : s.fnThere fn = some f) (hk : f.k = 0)
    (hfrozen : f.frozen = false) (hmem : f.memEn = true) (hd3 : f.d3 = false) (hsize : off < s.dramSize 0) (hback : s.heldBack (.dram 0 off .cacheable) = false)
    (hpos : 0 < len) (hsector : off % 128 + len ≤ 128) (hbar : off + len ≤ 2 ^ 37) (hgood : s.poisonedKey (s.dramKey 0 off) = false) :
    Next (exec (.hostMemoryRead fn off len) s) (fun t => SameBytes s t ∧ t.host.sent = s.host.sent ++ [.readDone fn (s.readOut (.dram 0 off .cacheable) len)]) := by
  have hlt : off < 2 ^ 48 := by omega
  have hmin : min len 4096 = len := by omega
  have hset := settles_chargeMem (portIdle s) false (.dram 0 off .cacheable)
  have hpiece : (portIdle s).readPiece (.dram 0 off .cacheable) len = s.readOut (.dram 0 off .cacheable) len := by
    unfold State.readPiece
    rw [if_neg (by simpa using (show (portIdle s).poisonedKey ((portIdle s).locKey (.dram 0 off .cacheable)) = false from hgood))]
    rfl
  have hserve : (portIdle s).serveHost (s.spaceOpen (.read fn off len)) (.read fn off len) = some (((((portIdle s).chargeMem false (.dram 0 off .cacheable)).drawn).send
      (.readDone fn (s.readOut (.dram 0 off .cacheable) len))).charge f.o 9 (s.readOut (.dram 0 off .cacheable) len).length) := by
    refine (if_pos (show (portIdle s).portUp = true from hport)).trans ((serveRead_window (t := portIdle s) hthere hk hfrozen hmem hd3 (by rw [hmin]; exact hbar)).trans ?_)
    unfold State.windowRead
    rw [hmin, windowLocs_one hk hpos hsector (show off < (portIdle s).dramSize 0 from hsize)]
    dsimp only
    rw [if_neg (by simpa using (heldBack_portIdle s _).trans hback)]
    unfold State.readPieces State.readPieces
    rw [List.nil_append, hpiece]
  show Next (execHostMemoryRead fn off len s) _
  unfold execHostMemoryRead
  rw [if_neg (by simp [hostSpace_window hlt]), takeHost_serves hpause hheld hserve]
  refine next_of ⟨fun a => sameBytes_of_settles hset a, ?_⟩
  show ((portIdle s).chargeMem false (.dram 0 off .cacheable)).host.sent ++ _ = _
  rw [host_of_settles hset]
  rfl

theorem hostMemoryWrite_writes (hport : s.portUp = true) (hpause : s.rot.pause = none) (hheld : s.host.held = []) (hthere : s.fnThere fn = some f) (hk : f.k = 0)
    (hfrozen : f.frozen = false) (hmem : f.memEn = true) (hd3 : f.d3 = false) (hsize : off < s.dramSize 0) (hback : s.heldBack (.dram 0 off .cacheable) = false)
    (hne : bytes ≠ []) (hsector : off % 128 + bytes.length ≤ 128) (hbar : off + bytes.length ≤ 2 ^ 37) (hlost : s.lostKey (s.dramKey 0 off) = false) (hok : MemOk s) :
    Next (exec (.hostMemoryWrite fn off bytes) s) (fun t => Stored s t (s.dramKey 0 off) bytes) := by
  have hlt : off < 2 ^ 48 := by omega
  have hpos : 0 < bytes.length := List.length_pos_iff.mpr hne
  have htake : bytes.take 512 = bytes := List.take_of_length_le (by omega)
  have hserve : (portIdle s).serveHost (s.spaceOpen (.write fn off bytes)) (.write fn off bytes) =
      some (((portIdle s).unitWrite (.dram 0 off .cacheable) bytes).charge f.o 8 bytes.length) := by
    refine (if_pos (show (portIdle s).portUp = true from hport)).trans ((serveWrite_window (t := portIdle s) hthere hk hfrozen hmem hd3 hbar).trans ?_)
    unfold State.windowWrite
    rw [htake]
    dsimp only
    rw [windowLocs_one hk hpos hsector (show off < (portIdle s).dramSize 0 from hsize)]
    dsimp only
    rw [if_neg (by simpa using (heldBack_portIdle s _).trans hback)]
    unfold State.writePieces State.writePieces State.writePiece
    dsimp only
    rw [Nat.sub_self, List.drop_zero, List.take_length]
  show Next (.next (s.takeHost (.write fn off bytes))) _
  rw [takeHost_serves hpause hheld hserve]
  have hstored := stored_unitWrite (s := portIdle s) (o := 0) (p := off) (k := .cacheable) (bs := bytes) hok hlost
  generalize (portIdle s).unitWrite (.dram 0 off .cacheable) bytes = u at hstored
  exact next_of hstored

end

/-! ### Resets of functions (R365, R366) -/

section
variable {s : State} {fn : Nat} {f : Fn}

theorem vfFlr_resets (hf : s.fn? fn = some f) (hpresent : f.present = true) (hpos : 0 < fn) (hle : fn ≤ 512) : Next (exec (.vfFlr fn) s) (fun t =>
    SameBytes s t ∧ t.fn? fn = some (State.resetVf f) ∧ t.graph.recs = s.graph.recs.filter (fun x => s.fnOfQueue x.wq != fn)) := by
  show Next (execVfFlr fn s) _
  unfold execVfFlr
  rw [hf]
  dsimp only
  rw [if_neg (by simp [hpresent]; omega)]
  exact next_of ⟨fun _ => rfl, fn?_modFn (s := s.dropRecs (· == fn)) hf fun _ => rfl, rfl⟩

/-- A function after a reset of the port. -/
def portReset (f : Fn) : Fn := if f.k = 0 then State.resetVf f else { State.resetVf f with present := false, pba := f.pba }

theorem resetPf_resets (s : State) : SameBytes s s.resetPf ∧ s.resetPf.host.up = s.host.up ∧ s.resetPf.host.vfEnable = false ∧ s.resetPf.graph.recs = [] ∧
    s.resetPf.host.fns = s.host.fns.map portReset := by
  refine ⟨fun _ => rfl, rfl, rfl, ?_, rfl⟩
  show s.graph.recs.filter (fun r => !true) = []
  simp

theorem portReset_next (i : Instr) (up : Bool) (hi : (i, up) ∈ ([(.pfFlr, true), (.hotReset, true), (.linkDown, false)] : List (Instr × Bool))) (hup : s.host.up = true) :
    Next (exec i s) (fun t => SameBytes s t ∧ t.host.up = up ∧ t.host.vfEnable = false ∧ t.graph.recs = [] ∧ t.host.fns = s.host.fns.map portReset) := by
  obtain ⟨hbytes, hsame, hvf, hrecs, hfns⟩ := resetPf_resets s
  have hcases : (i = .pfFlr ∧ up = true) ∨ (i = .hotReset ∧ up = true) ∨ (i = .linkDown ∧ up = false) := by simpa using hi
  rcases hcases with ⟨rfl, rfl⟩ | ⟨rfl, rfl⟩ | ⟨rfl, rfl⟩
  · exact next_of ⟨hbytes, hsame.trans hup, hvf, hrecs, hfns⟩
  · exact next_of ⟨hbytes, hsame.trans hup, hvf, hrecs, hfns⟩
  · exact next_of ⟨hbytes, rfl, hvf, hrecs, hfns⟩

theorem linkUp_ups (hpower : s.trust.power = true) : exec .linkUp s = .next { s with host := { s.host with up := true } } :=
  congrArg Host.Outcome.next (if_pos hpower)

end

/-! ### Configuration, vectors and attestation (R357, R361, R366, R367, R371) -/

section
variable {s : State} {fn what val j : Nat} {f : Fn}

theorem spdmRequest_answers (hport : s.portUp = true) (code : Nat) :
    Next (exec (.spdmRequest code) s) (fun t => SameBytes s t ∧ ∃ a b, t.host.sent = s.host.sent ++ [.spdm a b]) := by
  show Next (execSpdmRequest code s) _
  unfold execSpdmRequest
  rw [if_neg (by simp [hport])]
  exact next_of ⟨fun _ => rfl, (s.spdmAnswer code).1, (s.spdmAnswer code).2, rfl⟩

/-- A write of a function's configuration that changes one field. -/
theorem configurationWrite_changes {g : Fn → Fn} (hup : s.host.up = true) (hpower : s.trust.power = true) (hf : s.fn? fn = some f) (hpresent : f.present = true)
    (hen : f.en = true) (hg : (what = 0 ∧ g = fun f => { f with memEn := val % 2 == 1 }) ∨ (what = 2 ∧ g = fun f => { f with d3 := val % 4 == 3 }) ∨
      ((what = 7 ∨ what = 8 ∨ what = 9) ∧ g = fun f => { f with bars := f.bars.set (Fin.ofNat 3 (what - 7)) (BitVec.ofNat 64 val) })) :
    Next (exec (.configurationWrite fn what val) s) (fun t => SameBytes s t ∧ t.fn? fn = some (g f)) := by
  have hexec : exec (.configurationWrite fn what val) s = .next (s.modFn fn g) := by
    show execConfigurationWrite fn what val s = _
    unfold execConfigurationWrite
    rw [if_neg (by simp [hup, hpower]), if_neg (by omega), fnThere_of hf hpresent hen]
    rcases hg with ⟨rfl, rfl⟩ | ⟨rfl, rfl⟩ | ⟨rfl | rfl | rfl, rfl⟩ <;> rfl
  have hk : ∀ f, (g f).k = f.k := by
    rcases hg with ⟨-, rfl⟩ | ⟨-, rfl⟩ | ⟨-, rfl⟩ <;> exact fun _ => rfl
  rw [hexec]
  exact next_of ⟨fun _ => rfl, fn?_modFn hf hk⟩

theorem msixVectorUnmask_sends (hf : s.fn? fn = some f) (hpresent : f.present = true) (hen : f.en = true) (hmsix : f.msixEn = true) (hpba : f.pba = [j]) :
    Next (exec (.msixVectorUnmask fn j) s) (fun t => SameBytes s t ∧ t.host.sent = s.host.sent ++ [.msix fn j] ∧
      t.fn? fn = some { f with masked := f.masked.filter (· != j), pba := [] }) := by
  have hunmasked := fn?_modFn (g := fun f => { f with masked := f.masked.filter (· != j) }) hf fun _ => rfl
  have hsend := fn?_modFn (g := fun f => { f with pba := f.pba.filter (fun v => f.masked.contains v) }) hunmasked fun _ => rfl
  show Next (execMsixVectorUnmask fn j s) _
  unfold execMsixVectorUnmask State.sendPending
  rw [fnThere_of hf hpresent hen]
  dsimp only
  rw [hunmasked]
  dsimp only
  rw [if_pos (by simp [hpresent, hmsix]), hpba]
  have hgo : [j].filter (fun v => !(f.masked.filter (· != j)).contains v) = [j] := by simp
  rw [hgo]
  refine next_of ⟨fun _ => rfl, rfl, hsend.trans ?_⟩
  simp [hpba]

end

/-! ### Peers (R372, R375, R376) -/

section
variable {s : State} {r : IxReq} {n : Nat} {l : Loc}

theorem inboundRequest_refuses (hpower : s.trust.power = true) (hboot : s.trust.boot = false) (hrecovery : s.trust.recovery = false) (hpause : s.rot.pause = none)
    (hheld : s.host.held = []) (hop : r.op = .load n) (hno : s.admits r (some r.ia) = false) : Next (exec (.ixnarInboundRequest r) s) (fun t =>
      t = { s with host := { s.host with sent := s.host.sent ++ [.ixReply r.dev false []], roundIn := t.host.roundIn, roundOut := t.host.roundOut, shareIn := t.host.shareIn, shareOut := t.host.shareOut } }) := by
  have hserve : (portIdle s).serveHost (s.spaceOpen (.peer r)) (.peer r) = some ((portIdle s).ixAnswer r false []) := by
    unfold State.serveHost State.servePeer
    dsimp only
    rw [hop, if_neg (by simp [portIdle, State.modHost, hpower, hboot, hrecovery])]
    dsimp only
    rw [admits_portIdle, hno]
    rfl
  show Next (.next (s.takeHost (.peer r))) _
  rw [takeHost_serves hpause hheld hserve]
  exact next_of rfl

theorem inboundRequest_loads (hpower : s.trust.power = true) (hboot : s.trust.boot = false) (hrecovery : s.trust.recovery = false) (hpause : s.rot.pause = none)
    (hheld : s.host.held = []) (hop : r.op = .load n) (hyes : s.admits r (some r.ia) = true) (hloc : s.inboundLoc r false = some l) (hback : s.heldBack l = false)
    (hgood : s.poisonedKey (s.locKey l) = false) :
    Next (exec (.ixnarInboundRequest r) s) (fun t => SameBytes s t ∧ t.host.sent = s.host.sent ++ [.ixReply r.dev true (s.readOut l n)]) := by
  have hset := settles_chargeMem (portIdle s) false l
  have hserve : (portIdle s).serveHost (s.spaceOpen (.peer r)) (.peer r) =
      some ((((portIdle s).chargeMem false l).ixAnswer r true (s.readOut l n)).charge r.own 10 n) := by
    unfold State.serveHost State.servePeer
    dsimp only
    rw [hop, if_neg (by simp [portIdle, State.modHost, hpower, hboot, hrecovery])]
    dsimp only
    rw [admits_portIdle, hyes, if_neg (by simp), show State.IxOpWrites (.load n) = false from rfl, inboundLoc_portIdle, hloc]
    dsimp only
    rw [heldBack_portIdle, hback, if_neg (by simp)]
    unfold State.inboundDo
    rw [hop]
    dsimp only
    rw [locKey_portIdle, poisonedKey_portIdle, hgood, if_neg (by simp), readOut_portIdle]
  show Next (.next (s.takeHost (.peer r))) _
  rw [takeHost_serves hpause hheld hserve]
  generalize (portIdle s).chargeMem false l = u at hset
  refine next_of ⟨fun a => sameBytes_of_settles hset a, ?_⟩
  show u.host.sent ++ _ = _
  rw [host_of_settles hset]
  rfl

/-- The bit of a link. -/
theorem linkBit {j : Nat} (hj : j < 18) (i : Nat) : (BitVec.ofNat 18 (2 ^ j)).getLsbD i = decide (i = j) := by
  rw [BitVec.getLsbD_ofNat, Nat.testBit_two_pow]
  by_cases h : i = j
  · simp [h, hj]
  · simp [h, Ne.symm h]

theorem linkStateChange_sets {j : Nat} (hpower : s.trust.power = true) (hj : j < 18) (up : Bool) : Next (exec (.ixnarLinkStateChange j up) s) (fun t =>
    t = { s with regs := { s.regs with ixup := t.regs.ixup } } ∧ t.regs.ixup.getLsbD j = up ∧ ∀ i, i ≠ j → t.regs.ixup.getLsbD i = s.regs.ixup.getLsbD i) := by
  show Next (execIxnarLinkStateChange j up s) _
  unfold execIxnarLinkStateChange
  rw [if_neg (by simp [hpower]; omega)]
  have hset (i : Nat) : (if up then s.regs.ixup ||| BitVec.ofNat 18 (2 ^ j) else s.regs.ixup &&& ~~~(BitVec.ofNat 18 (2 ^ j))).getLsbD i =
      if i = j then up else s.regs.ixup.getLsbD i := by
    cases up
    · rw [if_neg Bool.false_ne_true, BitVec.getLsbD_and, BitVec.getLsbD_not, linkBit hj]
      by_cases h : i = j
      · simp [h]
      · rw [if_neg h]
        cases hbit : s.regs.ixup.getLsbD i with
        | false => rfl
        | true => simp [h, BitVec.lt_of_getLsbD hbit]
    · rw [if_pos rfl, BitVec.getLsbD_or, linkBit hj]
      by_cases h : i = j <;> simp [h]
  exact next_of ⟨rfl, (hset j).trans (if_pos rfl), fun i hi => (hset i).trans (if_neg hi)⟩

end

/-- Settles O44: each request of the host and of a peer by its own operation; the choices that its statement names are the model's. -/
theorem hostAndPeers : Obligations.HostAndPeers := by
  unfold Obligations.HostAndPeers
  intro s fn off j len what val code bytes f r up hup hpower hboot hrecovery hpause hheld hf hpresent hen live key cleared
  have hport := portUp_of hup hpower hboot hrecovery
  have hthere := fnThere_of hf hpresent hen
  refine ⟨fun ⟨hfrozen, hmem, hd3⟩ => hostPost_arrives hport hpause hheld hthere hfrozen hmem hd3, fun ⟨hfrozen, hmem, hd3⟩ h0 hsize hback => ?_,
    fun hpos hle => vfFlr_resets (f := f) hf hpresent hpos hle, fun i hi => portReset_next i.1 i.2 hi hup, linkUp_ups hpower, spdmRequest_answers hport code,
    fun h => configurationWrite_changes hup hpower hf hpresent hen (.inl ⟨h, rfl⟩), fun h => configurationWrite_changes hup hpower hf hpresent hen (.inr (.inr ⟨h, rfl⟩)),
    fun h => configurationWrite_changes hup hpower hf hpresent hen (.inr (.inl ⟨h, rfl⟩)), msixVectorUnmask_sends hf hpresent hen,
    fun n l hop => ⟨inboundRequest_refuses hpower hboot hrecovery hpause hheld hop, inboundRequest_loads hpower hboot hrecovery hpause hheld hop⟩,
    fun hj => linkStateChange_sets hpower hj up⟩
  have hk : f.k = 0 := (k_of_fn? hf).trans h0
  exact ⟨hostMemoryRead_reads hport hpause hheld hthere hk hfrozen hmem hd3 hsize hback, hostMemoryWrite_writes hport hpause hheld hthere hk hfrozen hmem hd3 hsize hback⟩

end Sys2Proof.Laws

/-! SUPPORT. InstallWaits: a request of the install unit that waits for an acquire of its thread, and O46. -/

namespace Sys2Proof.Laws

open Sys2Proof.Machine Sys2Proof.Safety

/-- The request of a winst whose SRC is misaligned (R386), which has reached the install unit. -/
def misaligned : Install := { rid := 30, uid := 8, pl := ⟨1, 0, 0⟩, o := 1, q := [1, 0x1000000, 0x4000, 0, 0, 0, 0, 0] }

/-- The thread of that winst, whose earlier wstat is still unanswered: an acquire that is no access of memory (R391). -/
def asker : Thread :=
  { uid := 8, pl := ⟨1, 0, 0⟩
    ops := [{ id := 29, fpc := 0x40, dest := some (.s 2), counts := true, acc := false, acq := true, cmd := true },
            { id := 30, fpc := 0x50, dest := some (.s 1), counts := true, acc := false, cmd := true }] }

/-- The wstat of a thread is on its way to the install unit. -/
def wstatRequest : Req := { id := 29, uid := 8, pl := ⟨1, 0, 0⟩, loc := .peer 1 0 0, kind := .wstat 4 }

/-- A winst stands at the install unit behind a wstat of its thread, for which it waits, as for an access (R386). -/
def wstatAhead : State := { State.reset with threads := [asker], flash := { installs := [misaligned] }, net := [wstatRequest] }

/-- The request stays as it is: the unit neither accepts nor refuses it yet. -/
theorem wstatAhead_waits : exec (.installRequestArrive 30) wstatAhead = .next wstatAhead := by
  have hwaits : wstatAhead.earlierDone 8 30 = false := rfl
  show execInstallRequestArrive 30 wstatAhead = _
  unfold execInstallRequestArrive
  rw [show wstatAhead.install? 30 = some misaligned from rfl]
  dsimp only
  rw [show misaligned.uid = 8 from rfl, hwaits, if_neg (by simp)]

theorem wstatAhead_unread : ∀ y, wstatAhead.thread? misaligned.uid = some y → y.saw = [] ∧ ∀ z ∈ y.ops, z.acc = false := by
  intro y hy
  obtain rfl : asker = y := Option.some.inj hy
  exact ⟨rfl, by decide⟩

/-- The codes of the installs after a step. -/
def installCodes (r : Res) : List Nat := match r with | .next t => t.flash.installs.map (·.code) | _ => []

/-- Refutes O46: that a misaligned request ends with code 1 at once is claimed for every thread whose operations are no accesses of memory. A wstat that is not
answered yet is none (R391), but an acquire, and it holds a later winst of its thread back: `wstatAhead` keeps its misaligned request with code 0. -/
theorem not_installsRun : ¬ Obligations.InstallsRun := by
  unfold Obligations.InstallsRun
  intro h
  obtain ⟨harrive, -⟩ := h wstatAhead 30 0 0 misaligned wstatRequest rfl rfl rfl rfl
  obtain ⟨-, hrefuse⟩ := harrive rfl wstatAhead_unread
  have hsame := (hrefuse rfl (.inl (by decide))).symm.trans wstatAhead_waits
  have hcodes := congrArg installCodes hsame
  exact absurd hcodes (by decide)

end Sys2Proof.Laws

/-! SUPPORT. SlateSteps: step stops, images and page pulls, and O45. -/

namespace Sys2Proof.Laws

open Sys2Proof.Machine Sys2Proof.Safety

/-! ### The step stop (R409 to R411) -/

section
variable {s : State} {o : Nat}

/-- A token of an owner that is not at its local stop, or is held already, is kept (R410). -/
theorem stepReadyToken_kept (hp : s.rot.pause = none) (hx : s.host.ixHeld = []) {dev num : Nat}
    (h : (s.owner o).local_ = false ∨ (s.owner o).held = true) : exec (.stepReadyToken o dev num) s =
      .next (s.setOwner o { s.owner o with tokens := (s.owner o).tokens ++ [(dev, num)] }) := by
  have hopen : ¬(s.ixHolds = true) := by simp [State.ixHolds, hp, hx]
  have hown : ((s.modOwner o (fun x => { x with tokens := x.tokens ++ [(dev, num)] })).owner o) = { s.owner o with tokens := (s.owner o).tokens ++ [(dev, num)] } := by
    rw [owner_modOwner, if_pos rfl]
  show execStepReadyToken o dev num s = _
  unfold execStepReadyToken State.tokenArrives State.globalStop
  dsimp only
  rw [if_neg hopen, hown, if_neg (by rcases h with h | h <;> simp [h])]
  rfl

/-- The local stop of an owner: its writes are at system scope, and its event is raised (R409). -/
def stopTold (s : State) (o : Nat) : State :=
  ((s.publishBy (fun w => w.1 == o)).modOwner o (fun x => { x with local_ := true })).raiseEv { ty := 0x28, o := o, src := 3 }
/-- An owner that is held with a number, and keeps the tokens of later ones (R410). -/
def heldAt (n : BitVec 32) (x : Owner) : Owner := { x with held := true, num := n, tokens := x.tokens.filter (fun t => decide (n.toNat < t.2)) }
/-- The global stop of an owner that is alone in its group (R410). -/
def groupTold (s : State) (o : Nat) : State :=
  ((stopTold s o).modOwner o (heldAt ((s.owner o).num + 1))).raiseEv { ty := 0x29, o := o, data := ((s.owner o).num + 1).setWidth 64, src := 3 }

theorem owner_stopTold (s : State) (o : Nat) : (stopTold s o).owner o = { s.owner o with local_ := true } := by
  show ((s.publishBy (fun w => w.1 == o)).modOwner o (fun x => { x with local_ := true })).owner o = _
  rw [owner_modOwner, if_pos rfl]
  rfl

theorem owner_groupTold (s : State) (o : Nat) : (groupTold s o).owner o = heldAt ((s.owner o).num + 1) { s.owner o with local_ := true } := by
  show ((stopTold s o).modOwner o (heldAt ((s.owner o).num + 1))).owner o = _
  rw [owner_modOwner, if_pos rfl, owner_stopTold]

/-- An owner whose group is itself alone goes through both stops at once. -/
theorem localStop_alone (hh : (s.owner o).held = false) (hp : s.stepPeers o = []) : s.localStop o = groupTold s o := by
  have hpeers : (stopTold s o).stepPeers o = [] := by
    rw [← hp]
    unfold State.stepPeers
    rw [owner_stopTold]
  show ((((stopTold s o).stepPeers o).foldl _ (stopTold s o)).globalStop o) = _
  rw [hpeers, List.foldl_nil]
  unfold State.globalStop
  dsimp only
  rw [hpeers, owner_stopTold, if_pos (by simp [hh])]
  rfl

theorem groupTold_events (hr : EvRoom s) : (∃ e ∈ (groupTold s o).trust.events, e.ty = 0x28 ∧ e.o = o) ∧ ∃ e ∈ (groupTold s o).trust.events, e.ty = 0x29 ∧ e.o = o := by
  have hroom : EvRoom ((s.publishBy (fun w => w.1 == o)).modOwner o (fun x => { x with local_ := true })) := hr
  have hroom2 : EvRoom (stopTold s o) := evRoom_raiseEv hroom rfl
  obtain ⟨e, he, hty, hown⟩ : ∃ e ∈ (stopTold s o).trust.events, e.ty = 0x28 ∧ e.o = o := raiseEv_told hroom { ty := 0x28, o := o, src := 3 }
  exact ⟨⟨e, (tells_raiseEv _ rfl).2.2 e he, hty, hown⟩, raiseEv_told hroom2 _⟩

/-- An owner that is ready stops, and is held with the next number (R409, R410). -/
theorem localStop_stops (ho : o < 16) (hq : s.q % 8 = 0) (hready : s.stopReady o = true) (hp : s.stepPeers o = []) : Next (exec (.localStop o) s) (fun t =>
    SameBytes s t ∧ (t.owner o).local_ = true ∧ (t.owner o).held = true ∧ (t.owner o).num = (s.owner o).num + 1 ∧
      (EvRoom s → (∃ e ∈ t.trust.events, e.ty = 0x28 ∧ e.o = o) ∧ ∃ e ∈ t.trust.events, e.ty = 0x29 ∧ e.o = o)) := by
  have hh : (s.owner o).held = false := by
    unfold State.stopReady at hready
    simp only [Bool.and_eq_true, Bool.not_eq_true'] at hready
    tauto
  have hown := owner_groupTold s o
  have hmem : (groupTold s o).mem = s.mem := by simp [groupTold, stopTold, State.publishBy]
  have he : exec (.localStop o) s = .next (groupTold s o) := by
    show execLocalStop o s = _
    unfold execLocalStop
    rw [Nat.mod_eq_of_lt ho, if_pos (by simp [hq, hready]), localStop_alone hh hp]
  rw [he]
  exact next_of ⟨sameBytes_of_mem hmem, by rw [hown]; rfl, by rw [hown]; rfl, by rw [hown]; rfl, groupTold_events⟩

/-- RESUME sends the owner's stepped packets on with the number of the stop (R411). -/
theorem stepResume_sends (hh : (s.owner o).held = true) (hu : s.unplaced o = false) : Next (exec (.stepResume o) s) (fun t => SameBytes s t ∧
    t.owner o = { s.owner o with held := false, local_ := false, stepped := false } ∧ t.graph.packets = s.graph.packets.map (fun k =>
      if k.stage = .stepped ∧ k.t.pl.o = o then { k with stage := .flight, t := { k.t with step := (s.owner o).num.setWidth 64 } } else k)) := by
  show Next (.next (s.stepResume o)) _
  unfold State.stepResume
  rw [if_neg (by simp [hu]), if_pos hh]
  refine next_of ⟨fun _ => rfl, ?_, ?_⟩
  · show (s.modOwner o (fun x => { x with held := false, local_ := false, stepped := false })).owner o = _
    rw [owner_modOwner, if_pos rfl]
  · refine List.map_congr_left fun k _ => ?_
    simp only [Bool.and_eq_true, beq_iff_eq]

end

/-! ### Images (R414 to R416) -/

/-- Nothing happens to the threads, and at the ports only what hosts and peers still read (R268). -/
def Imaged (s t : State) : Prop := t.threads = s.threads ∧ t.host = { s.host with outer := t.host.outer }

section
variable {s t u : State} {o : Nat} {key : BitVec 512} {es : List State.Shard}

theorem imaged_refl (s : State) : Imaged s s := ⟨rfl, rfl⟩
theorem Imaged.trans (h : Imaged s t) (k : Imaged t u) : Imaged s u := ⟨k.1.trans h.1, by rw [k.2, h.2]⟩
theorem imaged_of_settles (h : Settles s t) : Imaged s t := ⟨threads_of_settles h, by rw [host_of_settles h]⟩
theorem imaged_foldl {α : Type} {f : State → α → State} (h : ∀ s x, Imaged s (f s x)) (xs : List α) (s : State) : Imaged s (xs.foldl f s) :=
  foldl_keeps (Imaged s) f (fun b a hb => hb.trans (h b a)) xs s (imaged_refl s)
theorem imaged_modTrust (h : Imaged s t) (f : Trust → Trust) : Imaged s (t.modTrust f) := h

theorem imaged_writeLoc (s : State) (l : Loc) (bs : List Byte) : Imaged s (s.writeLoc l bs) := by
  rw [writeLoc_frame]
  exact ⟨rfl, rfl⟩

theorem imaged_unitWrite (s : State) (l : Loc) (bs : List Byte) : Imaged s (s.unitWrite l bs) := by
  cases l with
  | dram o p k =>
    obtain ⟨t, ht, he⟩ := unitWrite_dram s o p k bs
    rw [he]
    exact (imaged_of_settles ht).trans (Imaged.trans ⟨rfl, rfl⟩ (imaged_writeLoc _ _ bs))
  | scr p off => exact imaged_writeLoc s _ bs
  | slice n off => exact imaged_writeLoc s _ bs
  | flash o p => exact imaged_writeLoc s _ bs
  | peer o k ia => exact imaged_writeLoc s _ bs

theorem imaged_zero4k (s : State) (a : Nat) : Imaged s (s.zero4k a) := imaged_foldl (fun s _ => imaged_unitWrite s _ _) _ s

theorem imaged_imageWrite (s : State) (o : Nat) (key : BitVec 512) (base n off : Nat) (bs : List Byte) : Imaged s (s.imageWrite o key base n off bs) := by
  induction n generalizing s off bs with
  | zero => exact imaged_refl s
  | succ n ih => exact (imaged_unitWrite s _ _).trans (ih _ _ _)

theorem exec_slateWriteImage (hp : s.rot.pause = none) : exec .slateWriteImage s =
    match s.trust.slateOp with
    | 1 => .next (s.imageStart s.trust.slateOwner)
    | 3 => .next (s.imageFill s.trust.slateOwner)
    | 4 => .next (s.imageCommit s.trust.slateOwner)
    | _ => .next s := by
  show execSlateWriteImage s = _
  unfold execSlateWriteImage
  rw [hp]
  rfl

/-- The checks pass, and what stood in the area is void (R414, R416). -/
theorem imageStart_passes (hh : (s.owner o).held = true) (hk : (s.imageKey o).isSome = true) (hm : s.manifest o = some es)
    (hfit : (s.imageBody o es).length + 4096 ≤ s.areaSize) : (s.imageStart o).trust.slateOp = 3 ∧ Imaged s (s.imageStart o) := by
  unfold State.imageStart
  rw [if_neg (by simp [hh]), if_neg (by simp [Option.ne_none_iff_isSome.mpr hk])]
  dsimp only
  rw [hm]
  dsimp only
  rw [if_neg (Nat.not_lt.mpr hfit)]
  refine ⟨rfl, imaged_modTrust ((?_ : Imaged s _).trans (imaged_zero4k _ _)) _⟩
  cases s.headerC with
  | none => exact imaged_refl s
  | some c => exact imaged_zero4k s _

/-- The image is written but for its commit record (R416). -/
theorem imageFill_passes (hk : s.imageKey o = some key) (hm : s.manifest o = some es) (hfit : (s.imageBody o es).length + 4096 ≤ s.areaSize) :
    (s.imageFill o).trust.slateOp = 4 ∧ Imaged s (s.imageFill o) := by
  unfold State.imageFill
  rw [hm, hk]
  dsimp only
  rw [if_neg (Nat.not_lt.mpr hfit)]
  refine ⟨rfl, imaged_modTrust ((imaged_foldl (fun s e => imaged_foldl (fun s i => ?_) _ s) es s).trans (imaged_imageWrite _ _ _ _ _ _ _)) _⟩
  exact imaged_of_settles (settles_chargeMem s false _)

/-- The commit record is written (R416). -/
theorem imageCommit_passes (hk : s.imageKey o = some key) (hc : s.headerC.isSome = true) :
    (s.imageCommit o).trust.slateOp = 100 ∧ (s.imageCommit o).threads = s.threads := by
  obtain ⟨c, hc⟩ := Option.isSome_iff_exists.mp hc
  unfold State.imageCommit
  rw [hk, hc]
  exact ⟨rfl, (imaged_modTrust (imaged_imageWrite s _ _ _ _ _ _) _).1⟩

theorem slateWriteImage_unheld (hp : s.rot.pause = none) (h1 : s.trust.slateOp = 1) (hh : (s.owner s.trust.slateOwner).held = false) :
    exec .slateWriteImage s = .next { s with trust := { s.trust with slateOp := 101 } } := by
  rw [exec_slateWriteImage hp, h1]
  dsimp only
  unfold State.imageStart
  rw [if_pos (by simp [hh])]
  rfl

theorem slateWriteImage_starts (hp : s.rot.pause = none) (h1 : s.trust.slateOp = 1) (hh : (s.owner s.trust.slateOwner).held = true)
    (hk : (s.imageKey s.trust.slateOwner).isSome = true) (hm : s.manifest s.trust.slateOwner = some es)
    (hfit : (s.imageBody s.trust.slateOwner es).length + 4096 ≤ s.areaSize) :
    Next (exec .slateWriteImage s) (fun t => t.trust.slateOp = 3 ∧ t.threads = s.threads ∧ t.host = { s.host with outer := t.host.outer }) := by
  rw [exec_slateWriteImage hp, h1]
  exact next_of (imageStart_passes hh hk hm hfit)

theorem slateWriteImage_fills (hp : s.rot.pause = none) (h3 : s.trust.slateOp = 3) (hk : s.imageKey s.trust.slateOwner = some key)
    (hm : s.manifest s.trust.slateOwner = some es) (hfit : (s.imageBody s.trust.slateOwner es).length + 4096 ≤ s.areaSize) :
    Next (exec .slateWriteImage s) (fun t => t.trust.slateOp = 4 ∧ t.threads = s.threads ∧ t.host = { s.host with outer := t.host.outer }) := by
  rw [exec_slateWriteImage hp, h3]
  exact next_of (imageFill_passes hk hm hfit)

theorem slateWriteImage_commits (hp : s.rot.pause = none) (h4 : s.trust.slateOp = 4) (hk : s.imageKey s.trust.slateOwner = some key)
    (hc : s.headerC.isSome = true) : Next (exec .slateWriteImage s) (fun t => t.trust.slateOp = 100 ∧ t.threads = s.threads) := by
  rw [exec_slateWriteImage hp, h4]
  exact next_of (imageCommit_passes hk hc)

end

/-! ### Restore and the end of a command (R414, R417) -/

section
variable {s : State} {o : Nat} {key : BitVec 512} {img : List Byte} {es : List State.Shard} {g : GraphPos}

theorem exec_slateRestore (hp : s.rot.pause = none) (h2 : s.trust.slateOp = 2) : exec .slateRestore s = .next (s.restore s.trust.slateOwner) := by
  show execSlateRestore s = _
  unfold execSlateRestore
  rw [if_neg (by simp [hp, h2])]

theorem restore_unverified (hh : (s.owner o).held = true) (hk : s.imageKey o = some key) (hv : s.verified o key = none) : s.restore o = s.slateEnd 4 := by
  unfold State.restore
  rw [if_neg (by simp [hh]), hk]
  dsimp only
  rw [hv]

/-- An image whose shards cover the manifest and whose packets fit is restored (R417). -/
theorem restore_passes (hh : (s.owner o).held = true) (hk : s.imageKey o = some key) (hv : s.verified o key = some img) (hm : s.manifest o = some es)
    (hcover : ∀ e ∈ es, ∀ y ∈ State.elems e, (State.sourceOf (State.imageTable img) e y.1 y.2).isSome = true)
    (hg : State.getGraph o (BitVec.ofNat 32 (State.quadAt img 8 / 2 ^ 32))
      ((quadsOf (State.quadAt img 40 / 8) (img.drop (State.quadAt img 32))).map (·.toNat)) = some g) (hfit : ∀ k ∈ g.packets, k.t.pl.l < s.nslot o) :
    s.restore o = ((((es.foldl (fun (s : State) e => s.restoreShard o img (State.imageTable img) e) s).dropGraph o).asEnabled o).putGraphPos o g).slateEnd 0 := by
  have hcovered : es.any (fun e => (State.elems e).any (fun x => (State.sourceOf (State.imageTable img) e x.1 x.2).isNone)) = false := by
    simp only [List.any_eq_false, Bool.not_eq_true, Option.isNone_eq_false_iff]
    exact hcover
  have hplaced : g.packets.any (fun k => decide (s.nslot o ≤ k.t.pl.l)) = false := by
    simp only [List.any_eq_false, decide_eq_true_eq, Nat.not_le]
    exact hfit
  unfold State.restore
  rw [if_neg (by simp [hh]), hk]
  dsimp only
  rw [hv]
  dsimp only
  rw [hg]
  dsimp only
  rw [hm]
  dsimp only
  rw [hcovered, hplaced]
  rfl

/-- After a restore the owner is held at the stop of the image (R417). -/
theorem owner_putGraphPos (s : State) (o : Nat) (g : GraphPos) :
    ((s.putGraphPos o g).owner o).held = true ∧ ((s.putGraphPos o g).owner o).stepped = true ∧ ((s.putGraphPos o g).owner o).num = g.num := by
  unfold State.putGraphPos
  dsimp only
  rw [owner_modOwner, if_pos rfl]
  exact ⟨rfl, rfl, rfl⟩

theorem slateRestore_unverified (hp : s.rot.pause = none) (h2 : s.trust.slateOp = 2) (hh : (s.owner s.trust.slateOwner).held = true)
    (hk : s.imageKey s.trust.slateOwner = some key) (hv : s.verified s.trust.slateOwner key = none) :
    exec .slateRestore s = .next { s with trust := { s.trust with slateOp := 104 } } := by
  rw [exec_slateRestore hp h2, restore_unverified hh hk hv]
  rfl

theorem slateRestore_restores (hp : s.rot.pause = none) (h2 : s.trust.slateOp = 2) (hh : (s.owner s.trust.slateOwner).held = true)
    (hk : s.imageKey s.trust.slateOwner = some key) (hv : s.verified s.trust.slateOwner key = some img) (hm : s.manifest s.trust.slateOwner = some es)
    (hcover : ∀ e ∈ es, ∀ y ∈ State.elems e, (State.sourceOf (State.imageTable img) e y.1 y.2).isSome = true)
    (hg : State.getGraph s.trust.slateOwner (BitVec.ofNat 32 (State.quadAt img 8 / 2 ^ 32))
      ((quadsOf (State.quadAt img 40 / 8) (img.drop (State.quadAt img 32))).map (·.toNat)) = some g)
    (hfit : ∀ k ∈ g.packets, k.t.pl.l < s.nslot s.trust.slateOwner) : Next (exec .slateRestore s) (fun t =>
      t.trust.slateOp = 100 ∧ (t.owner s.trust.slateOwner).held = true ∧ (t.owner s.trust.slateOwner).stepped = true ∧
        (t.owner s.trust.slateOwner).num = g.num) := by
  rw [exec_slateRestore hp h2, restore_passes hh hk hv hm hcover hg hfit]
  exact next_of ⟨rfl, owner_putGraphPos _ _ g⟩

/-- The end of a command shows its code and posts its event (R414). -/
theorem slateCommandEnd_ends (hp : s.rot.pause = none) {code : Nat} (h : s.trust.slateOp = 100 + code) : Next (exec (.slateCommandEnd code) s) (fun t =>
    SameBytes s t ∧ t.trust.slateOp = 0 ∧ t.regs.slcmd = BitVec.ofNat 64 (code % 256 * 256 + bits s.regs.slcmd.toNat 7 4 * 16) ∧
      (EvRoom s → ∃ e ∈ t.trust.events, e.ty = 0x2A ∧ e.o = s.trust.slateOwner ∧ e.data = BitVec.ofNat 64 code)) := by
  have hnow : (decide (s.trust.slateOp = 100 + code) && !s.rot.pause.isSome) = true := by simp [hp, h]
  show Next (execSlateCommandEnd code s) _
  unfold execSlateCommandEnd
  rw [if_pos (by simpa using hnow)]
  refine next_of ⟨fun _ => rfl, rfl, rfl, fun hr => ?_⟩
  have hroom : EvRoom ((s.modTrust (fun t => { t with slateOp := 0 })).modRegs (fun r =>
    { r with slcmd := BitVec.ofNat 64 (code % 256 * 256 + bits r.slcmd.toNat 7 4 * 16) })) := hr
  rw [raiseEv_room hroom]
  exact ⟨_, List.mem_append_right _ (List.mem_singleton_self _), rfl, rfl, rfl⟩

end

/-! ### Page pulls (R419, R420) -/

section
variable {s : State} {o dev rown p : Nat}

theorem exec_pullRequestServe (ho : o < 16) (hp : s.rot.pause = none) (hx : s.host.ixHeld = []) : exec (.pullRequestServe o dev rown p) s = .next (s.pullServe o dev rown p) := by
  have hopen : ¬(s.ixHolds = true) := by simp [State.ixHolds, hp, hx]
  show execPullRequestServe o dev rown p s = _
  unfold execPullRequestServe
  rw [if_neg hopen, Nat.mod_eq_of_lt ho]

/-- An owner that is not held serves no page. -/
theorem pullServe_unheld (h : (s.owner o).held = false) :
    s.pullServe o dev rown p = { s with host := { s.host with sent := s.host.sent ++ [.pullNo dev rown p] } } := by
  unfold State.pullServe
  rw [if_neg (by simp [h])]
  rfl

/-- The source reads a page at its homes (R419). -/
def pageRead (o p : Nat) (s : State) : State := (List.range 512).foldl (fun (s : State) i => s.chargeMem false (.dram o (65536 * p + 128 * i) .cacheable)) s

theorem settles_pageRead (s : State) (o p : Nat) : Settles s (pageRead o p s) := settles_foldl _ (fun s _ => settles_chargeMem s false _) _ s

/-- What is sent and charged for joins what the port sent. -/
theorem sent_charged {u : State} (h : Settles s u) (x : Out) (o k n : Nat) :
    SameBytes s ((u.send x).charge o k n) ∧ ((u.send x).charge o k n).host.sent = s.host.sent ++ [x] := by
  rw [← host_of_settles h]
  exact ⟨fun a => sameBytes_of_settles h a, rfl⟩

theorem pullServe_eq (hh : (s.owner o).held = true) (hpeer : ∃ k ∈ s.stepPeers o, s.peerDev o k = dev ∧ s.peerRown o k = rown)
    (hfit : 65536 * (p + 1) ≤ s.dramSize o) : ∃ b, s.pullServe o dev rown p = ((pageRead o p s).send (.pullPage dev rown p b)).charge o 10 65536 := by
  have hany : (s.stepPeers o).any (fun k => s.peerDev o k == dev && s.peerRown o k == rown) = true := by
    obtain ⟨k, hk, hd, hr⟩ := hpeer
    exact List.any_eq_true.mpr ⟨k, hk, by simp [hd, hr]⟩
  have hall : ((s.owner o).held && (s.stepPeers o).any (fun k => s.peerDev o k == dev && s.peerRown o k == rown) &&
      decide (65536 * (p + 1) ≤ s.dramSize o)) = true := by rw [hh, hany, decide_eq_true hfit]; rfl
  exact ⟨_, if_pos hall⟩

/-- A page of a held owner goes to a member of its group (R419). -/
theorem pullServe_serves (hh : (s.owner o).held = true) (hpeer : ∃ k ∈ s.stepPeers o, s.peerDev o k = dev ∧ s.peerRown o k = rown)
    (hfit : 65536 * (p + 1) ≤ s.dramSize o) :
    SameBytes s (s.pullServe o dev rown p) ∧ ∃ b, (s.pullServe o dev rown p).host.sent = s.host.sent ++ [.pullPage dev rown p b] := by
  obtain ⟨b, he⟩ := pullServe_eq hh hpeer hfit
  rw [he]
  obtain ⟨hbytes, hsent⟩ := sent_charged (settles_pageRead s o p) (.pullPage dev rown p b) o 10 65536
  exact ⟨hbytes, b, hsent⟩

/-! #### A page that arrives -/

/-- Addresses of one owner's DRAM in one page lie at different places: its stacks are different ones (R298). -/
theorem dramKey_injOn (hd : (s.owner o).desc.dram.Nodup) {a b : Nat} (ha : a / 65536 = p) (hb : b / 65536 = p) (h : s.dramKey o a = s.dramKey o b) : a = b := by
  unfold State.dramKey at h
  dsimp only at h
  generalize hdr : (s.owner o).desc.dram = d at *
  by_cases hin : 65536 * p < 2 ^ 27 * d.length
  · have hina : a < 2 ^ 27 * d.length := by omega
    have hinb : b < 2 ^ 27 * d.length := by omega
    rw [if_pos hina, if_pos hinb] at h
    have hpos : 0 < d.length := by omega
    have hoff : ∀ x, x < 2 ^ 27 * d.length → x / 1024 / d.length * 1024 + x % 1024 < 2 ^ 27 := fun x hx => by
      have : x / 1024 / d.length < 2 ^ 17 := Nat.div_lt_of_lt_mul (by omega)
      omega
    have hla := Nat.mod_lt (a / 1024) hpos
    have hlb := Nat.mod_lt (b / 1024) hpos
    unfold stackKey at h
    have hoffa := hoff a hina
    have hoffb := hoff b hinb
    have hst : d.getD (a / 1024 % d.length) 0 = d.getD (b / 1024 % d.length) 0 := by omega
    have hmod : a / 1024 % d.length = b / 1024 % d.length := by
      rw [List.getD_eq_getElem _ _ hla, List.getD_eq_getElem _ _ hlb] at hst
      exact (List.Nodup.getElem_inj_iff hd).mp hst
    have hdiv : a / 1024 / d.length = b / 1024 / d.length := by omega
    have hline : a / 1024 = b / 1024 := by rw [← Nat.div_add_mod (a / 1024) d.length, ← Nat.div_add_mod (b / 1024) d.length, hdiv, hmod]
    omega
  · have hina : ¬a < 2 ^ 27 * d.length := by omega
    have hinb : ¬b < 2 ^ 27 * d.length := by omega
    rw [if_neg hina, if_neg hinb] at h
    unfold pastKey at h
    omega

/-- A sector of a page is written with its mark (R419). -/
def pageSector (o page : Nat) (bytes marks : List Byte) (s : State) (i : Nat) : State :=
  let k := s.dramKey o (65536 * page + 128 * i)
  let s := s.chargeMem true (.dram o (65536 * page + 128 * i) .cacheable)
  if s.lostKey k && (s.micaHas k).isNone then s
  else (s.modMem (fun m => m.write k (fit 128 (bytes.drop (128 * i))))).markPoison k (State.bitAt marks 0 i)

/-- The first n sectors of the page stand in u, which otherwise is s but for what a home settles. -/
structure PageIn (s u : State) (o page : Nat) (bytes : List Byte) (n : Nat) : Prop where
  trust : u.trust = s.trust
  threads : u.threads = s.threads
  lost : ∀ k, u.lostKey k = s.lostKey k
  dram : ∀ a, u.dramKey o a = s.dramKey o a
  memOk : MemOk u
  at_ : ∀ j i, j < n → i < 128 → u.mem.getB (s.dramKey o (65536 * page + 128 * j) + i) = bytes.getD (128 * j + i) 0

theorem markPoison_frame (s : State) (k : Nat) (b : Bool) : ∃ ls m, s.markPoison k b = { s with slices := ls, mem := m } ∧ m.cells = s.mem.cells := by
  unfold State.markPoison
  split
  · exact ⟨_, s.mem, rfl, rfl⟩
  · exact ⟨s.slices, _, rfl, by split <;> rfl⟩

theorem fit_drop_getD {bytes : List Byte} {j i : Nat} (hl : bytes.length = 65536) (hj : j < 512) (hi : i < 128) :
    (fit 128 (bytes.drop (128 * j))).getD i 0 = bytes.getD (128 * j + i) 0 := by
  have hlen : i < (bytes.drop (128 * j)).length := by rw [List.length_drop, hl]; omega
  unfold fit
  rw [List.getD_eq_getElem?_getD, List.getElem?_take_of_lt hi, List.getElem?_append_left hlen, List.getElem?_drop, List.getD_eq_getElem?_getD]

theorem length_fit (n : Nat) (bs : List Byte) : (fit n bs).length = n := by simp [fit]

theorem pageIn_step {u : State} {page n : Nat} {bytes marks : List Byte} (hd : (s.owner o).desc.dram.Nodup) (hl : bytes.length = 65536) (hn : n < 512)
    (hlost : s.lostKey (s.dramKey o (65536 * page + 128 * n)) = false) (h : PageIn s u o page bytes n) :
    PageIn s (pageSector o page bytes marks u n) o page bytes (n + 1) := by
  unfold pageSector
  dsimp only
  have hset := settles_chargeMem u true (.dram o (65536 * page + 128 * n) .cacheable)
  rw [h.dram]
  generalize u.chargeMem true (.dram o (65536 * page + 128 * n) .cacheable) = v at *
  rw [if_neg (by simp [lostKey_of_settles hset, h.lost, hlost])]
  obtain ⟨ls, m, hmark, hcells⟩ := markPoison_frame
    (v.modMem (fun m => m.write (s.dramKey o (65536 * page + 128 * n)) (fit 128 (bytes.drop (128 * n))))) (s.dramKey o (65536 * page + 128 * n)) (State.bitAt marks 0 n)
  rw [hmark]
  have hv : v.mem.wf = true := (wf_of_settles hset).trans h.memOk
  have hkeys : ∀ a, v.dramKey o a = u.dramKey o a := fun a => by unfold State.dramKey; rw [hset.2 o]
  refine ⟨(trust_of_settles hset).trans h.trust, (threads_of_settles hset).trans h.threads, fun k => ?_, fun a => ?_, ?_, fun j i hj hi => ?_⟩
  · exact (lostKey_of_settles hset k).trans (h.lost k)
  · exact (hkeys a).trans (h.dram a)
  · exact (wf_congr hcells).trans (write_wf _ _ _ hv)
  · have hwrite := getB_write (fit 128 (bytes.drop (128 * n))) v.mem (s.dramKey o (65536 * page + 128 * n)) (s.dramKey o (65536 * page + 128 * j) + i) hv
    rw [length_fit] at hwrite
    show m.getB _ = _
    rw [getB_congr hcells]
    refine hwrite.trans ?_
    by_cases hjn : j = n
    · subst hjn
      rw [if_pos (by omega), Nat.add_sub_cancel_left, fit_drop_getD hl hn hi]
    · rw [if_neg fun hin => ?_, sameBytes_of_settles hset, h.at_ j i (by omega) hi]
      have hj' : s.dramKey o (65536 * page + 128 * j + i) = s.dramKey o (65536 * page + 128 * j) + i := dramKey_add (by omega)
      have hn' := dramKey_add (s := s) (o := o) (p := 65536 * page + 128 * n) (i := s.dramKey o (65536 * page + 128 * j) + i - s.dramKey o (65536 * page + 128 * n)) (by omega)
      have heq := dramKey_injOn (p := page) hd (by omega) (by omega) (hj'.trans ((Nat.add_sub_of_le hin.1).symm.trans hn'.symm))
      omega

theorem pageIn_all {page : Nat} {bytes marks : List Byte} (hm : MemOk s) (hd : (s.owner o).desc.dram.Nodup) (hl : bytes.length = 65536)
    (hlost : ∀ j, j < 512 → s.lostKey (s.dramKey o (65536 * page + 128 * j)) = false) {n : Nat} (hn : n ≤ 512) :
    PageIn s ((List.range n).foldl (pageSector o page bytes marks) s) o page bytes n := by
  induction n with
  | zero => exact ⟨rfl, rfl, fun _ => rfl, fun _ => rfl, hm, fun j i hj _ => absurd hj (Nat.not_lt_zero j)⟩
  | succ n ih =>
    rw [List.range_succ, List.foldl_append]
    exact pageIn_step hd hl (by omega) (hlost n (by omega)) (ih (by omega))

/-- A page that arrives is written, its bit is cleared and the pull unit goes on (R419). -/
theorem pullReply_writes {bytes marks : List Byte} (ho : o < 16) (hp : s.rot.pause = none) (hx : s.host.ixHeld = []) (hf : s.pullFlying o p = true) (hm : MemOk s)
    (hd : (s.owner o).desc.dram.Nodup) (hl : bytes.length = 65536) (hlost : ∀ j, j < 512 → s.lostKey (s.dramKey o (65536 * p + 128 * j)) = false) :
    Next (exec (.pullReply o p bytes marks) s) (fun t => ∃ u : State, t = (u.pullClear o p).pullPump o ∧ u.trust = s.trust ∧ u.threads = s.threads ∧
      ∀ j i, j < 512 → i < 128 → u.mem.getB (s.dramKey o (65536 * p + 128 * j) + i) = bytes.getD (128 * j + i) 0) := by
  have hopen : ¬(s.ixHolds = true) := by simp [State.ixHolds, hp, hx]
  have hin := pageIn_all (marks := marks) hm hd hl hlost (Nat.le_refl 512)
  have he : exec (.pullReply o p bytes marks) s = .next ((((List.range 512).foldl (pageSector o p bytes marks) s).pullClear o p).pullPump o) := by
    show execPullReply o p bytes marks s = _
    unfold execPullReply State.pageArrives
    rw [if_neg hopen, Nat.mod_eq_of_lt ho, if_neg (by simp [hf])]
    rfl
  rw [he]
  exact next_of ⟨_, rfl, hin.trust, hin.threads, hin.at_⟩

/-- A pull that is refused, or that gets no answer in time, fails (R420). -/
theorem pull_fails (ho : o < 16) (hp : s.rot.pause = none) (hx : s.host.ixHeld = []) {i : Instr} (hi : (i = Instr.pullRefusal o p ∧ s.pullFlying o p = true) ∨
    (i = Instr.pullTimeout o p ∧ ∃ y ∈ s.trust.pulls, y.o = o ∧ y.page = p ∧ y.start + 2 ^ 24 ≤ s.q)) :
    Next (exec i s) (fun t => (t.owner o).pullFailed = true ∧ (EvRoom s → ∃ e ∈ t.trust.events, e.ty = 0x2B ∧ e.o = o ∧ e.data = BitVec.ofNat 64 p)) := by
  have hfails : (((s.pullFail o p).pullPump o).owner o).pullFailed = true :=
    ((keepsPulls_failTold_pullFail s o p).trans (keepsPulls_pullPump _ o)).1 o (failTold_pullFailed _ o p)
  have hnext : Next (.next ((s.pullFail o p).pullPump o)) (fun t : State =>
      (t.owner o).pullFailed = true ∧ (EvRoom s → ∃ e ∈ t.trust.events, e.ty = 0x2B ∧ e.o = o ∧ e.data = BitVec.ofNat 64 p)) :=
    next_of ⟨hfails, fun hr => (pullFail_pump hr).2⟩
  rcases hi with ⟨rfl, hf⟩ | ⟨rfl, y, hy, hyo, hyp, hlate⟩
  · have hopen : ¬(s.ixHolds = true) := by simp [State.ixHolds, hp, hx]
    have he : exec (.pullRefusal o p) s = .next ((s.pullFail o p).pullPump o) := by
      show execPullRefusal o p s = _
      unfold execPullRefusal State.pageRefused
      rw [if_neg hopen, Nat.mod_eq_of_lt ho, if_pos hf]
    rwa [he]
  · have hany : s.trust.pulls.any (fun x => x.o == o && x.page == p && decide (x.start + 2 ^ 24 ≤ s.q)) = true :=
      List.any_eq_true.mpr ⟨y, hy, by simp only [hyo, hyp, beq_self_eq_true, Bool.true_and, decide_eq_true_eq]; exact hlate⟩
    have he : exec (.pullTimeout o p) s = .next ((s.pullFail o p).pullPump o) := by
      show execPullTimeout o p s = _
      unfold execPullTimeout
      dsimp only
      rw [Nat.mod_eq_of_lt ho, hany, hp]
      rfl
    rwa [he]

/-- In a pause the port keeps tokens and pull traffic (R318, R321). -/
theorem ixHolds_of_pause {y : Pause} (h : s.rot.pause = some y) : s.ixHolds = true := by simp [State.ixHolds, h]

end

/-- Settles O45: a step, an image, a restore or a page at a time; at the ports what a pause holds back. -/
theorem stepsImagesAndPulls : Obligations.StepsImagesAndPulls := by
  unfold Obligations.StepsImagesAndPulls
  intro s o dev num rown p code bytes marks es g key ho hp hx x so
  refine ⟨stepReadyToken_kept hp hx, localStop_stops ho, stepResume_sends, slateWriteImage_unheld hp, slateWriteImage_starts hp, slateWriteImage_fills hp,
    slateWriteImage_commits hp, fun h2 hh hk => ?_, slateCommandEnd_ends hp, fun hh => ?_, fun hh hpeer hfit => ?_, pullReply_writes ho hp hx, fun i => pull_fails ho hp hx, ?_⟩
  · cases hv : s.verified so key with
    | none => exact slateRestore_unverified hp h2 hh hk hv
    | some img => exact slateRestore_restores hp h2 hh hk hv
  · rw [exec_pullRequestServe ho hp hx, pullServe_unheld hh]
  · rw [exec_pullRequestServe ho hp hx]
    exact next_of (pullServe_serves hh hpeer hfit)
  · intro z y hz kept
    exact ⟨congrArg Host.Outcome.next (if_pos (ixHolds_of_pause hz)), congrArg Host.Outcome.next (if_pos (ixHolds_of_pause hz)),
      congrArg Host.Outcome.next (if_pos (ixHolds_of_pause hz)), congrArg Host.Outcome.next (if_pos (ixHolds_of_pause hz))⟩

end Sys2Proof.Laws

/-! SUPPORT. Teardowns: metering records and the stages of a teardown, and O48. -/

namespace Sys2Proof.Laws

open Sys2Proof.Machine Sys2Proof.Safety

/-- What each element of a list makes true of itself, and no other element undoes, holds of every element in the end. -/
theorem foldl_makes {α β : Type} {I : β → Prop} {P : β → α → Prop} {f : β → α → β} (hinv : ∀ b a, I b → I (f b a)) (hmake : ∀ b a, I b → P (f b a) a)
    (hkeep : ∀ b a c, I b → P b c → P (f b a) c) {xs : List α} {c : α} (hc : c ∈ xs) {b : β} (hb : I b) : P (xs.foldl f b) c := by
  obtain ⟨as, bs, rfl⟩ := List.append_of_mem hc
  rw [List.foldl_append, List.foldl_cons]
  have hI := hinv _ c (foldl_keeps I f hinv as b hb)
  exact (foldl_keeps (fun b => I b ∧ P b c) f (fun b a h => ⟨hinv b a h.1, hkeep b a c h.1 h.2⟩) bs _ ⟨hI, hmake _ c (foldl_keeps I f hinv as b hb)⟩).2

/-! ### Records (R435 to R437) -/

section
variable {s : State} {o k : Nat}

/-- The record that an owner's chain gets next (R435, R436). -/
def nextRec (s : State) (o : Nat) (final lost : Bool) : MRec :=
  { o := o, oseq := (match s.trust.heads.find? (fun h => h.1 == o) with | some h => h.2.1 + 1 | none => 0), final := final, lost := lost, q := s.q
    dev := bits s.regs.ixcfg.toNat 7 0, payload := s.trust.payload, ctr := if lost then Vector.replicate 14 0 else (s.owner o).meter
    prev := (match s.trust.heads.find? (fun h => h.1 == o) with | some h => h.2.2 | none => 0) }
/-- The chain heads after a record (R436). -/
def nextHeads (s : State) (o : Nat) (r : MRec) : List (Nat × Nat × BitVec 512) :=
  s.trust.heads.filter (fun h => h.1 != o) ++ [(o, r.oseq, shake256 (State.recHead r))]

theorem ringNotice_frame (s : State) : ∃ full evs, s.ringNotice = { s with trust := { s.trust with ringFull := full, events := evs } } := by
  unfold State.ringNotice
  split
  · exact ⟨s.trust.ringFull, s.trust.events, rfl⟩
  · exact ⟨_, _, rfl⟩

/-- A record that is produced moves the head of its owner's chain, and waits (R436). -/
theorem produce_frame (s : State) (o : Nat) (final lost : Bool) : ∃ full evs, s.produce o final lost = { s with trust := { s.trust with
    heads := nextHeads s o (nextRec s o final lost), waiting := s.trust.waiting ++ [nextRec s o final lost], ringFull := full, events := evs } } := by
  obtain ⟨full, evs, he⟩ := ringNotice_frame (s.modTrust (fun t =>
    { t with heads := nextHeads s o (nextRec s o final lost), waiting := t.waiting ++ [nextRec s o final lost] }))
  exact ⟨full, evs, he⟩

/-- A chain moves by its own owner's records alone. -/
theorem find?_nextHeads (s : State) {r : MRec} (h : k ≠ o) : (nextHeads s o r).find? (fun h => h.1 == k) = s.trust.heads.find? (fun h => h.1 == k) := by
  unfold nextHeads
  rw [List.find?_append, List.find?_filter]
  have hnot : List.find? (fun h : Nat × Nat × BitVec 512 => h.1 == k) [(o, r.oseq, shake256 (State.recHead r))] = none := by simp [Ne.symm h]
  rw [hnot, Option.or_none]
  congr 1
  funext x
  by_cases hx : x.1 = k <;> simp [hx, h]

/-- The record of one owner at an interval (R436). -/
def meterOne (s : State) (o : Nat) : State := if s.enabled o then s.produce o false false else s

/-- What the records of other owners leave for owner k. -/
structure MeterFrame (k : Nat) (s t : State) : Prop where
  owners : t.owners = s.owners
  clk : t.clk = s.clk
  head : t.trust.heads.find? (fun h => h.1 == k) = s.trust.heads.find? (fun h => h.1 == k)
  waiting : ∀ y ∈ s.trust.waiting, y ∈ t.trust.waiting

theorem meterOne_frame (s : State) (h : k ≠ o) : MeterFrame k s (meterOne s o) := by
  unfold meterOne
  split
  · obtain ⟨full, evs, he⟩ := produce_frame s o false false
    rw [he]
    exact ⟨rfl, rfl, find?_nextHeads s h, fun y hy => List.mem_append_left _ hy⟩
  · exact ⟨rfl, rfl, rfl, fun _ => id⟩

theorem meterAll_frame (os : List Nat) (h : k ∉ os) (s : State) : MeterFrame k s (os.foldl meterOne s) := by
  induction os generalizing s with
  | nil => exact ⟨rfl, rfl, rfl, fun _ => id⟩
  | cons o os ih =>
    obtain ⟨hown, hclk, hhead, hwait⟩ := meterOne_frame s (List.ne_of_not_mem_cons h)
    obtain ⟨hown', hclk', hhead', hwait'⟩ := ih (List.not_mem_of_not_mem_cons h) (meterOne s o)
    exact ⟨hown'.trans hown, hclk'.trans hclk, hhead'.trans hhead, fun y hy => hwait' y (hwait y hy)⟩

theorem meterOne_mem (s : State) (o : Nat) : (meterOne s o).mem = s.mem := by
  unfold meterOne
  split
  · exact produce_mem s o false false
  · rfl

/-- At an interval every enabled owner gets a record that chains to its last one (R436). -/
theorem meterAll_records {os : List Nat} (hd : os.Nodup) (hk : k ∈ os) (he : s.enabled k = true) : ∃ y ∈ (os.foldl meterOne s).trust.waiting,
    y.o = k ∧ y.final = false ∧ y.q = s.q ∧ y.ctr = (s.owner k).meter ∧
      y.oseq = (match s.trust.heads.find? (fun h => h.1 == k) with | some h => h.2.1 + 1 | none => 0) ∧
      y.prev = (match s.trust.heads.find? (fun h => h.1 == k) with | some h => h.2.2 | none => 0) := by
  obtain ⟨as, bs, rfl⟩ := List.append_of_mem hk
  rw [List.foldl_append, List.foldl_cons]
  have hnotin : k ∉ as ∧ k ∉ bs := by
    have hdis := List.nodup_append.mp hd
    exact ⟨fun h => hdis.2.2 k h k (List.mem_cons_self ..) rfl, (List.nodup_cons.mp hdis.2.1).1⟩
  obtain ⟨hown, hclk, hhead, -⟩ := meterAll_frame as hnotin.1 s
  generalize as.foldl meterOne s = u at *
  have hu : meterOne u k = u.produce k false false := if_pos (by unfold State.enabled State.owner at he ⊢; rwa [hown])
  obtain ⟨full, evs, hp⟩ := produce_frame u k false false
  refine ⟨nextRec u k false false, (meterAll_frame bs hnotin.2 _).waiting _ ?_, rfl, rfl, ?_, ?_, ?_, ?_⟩
  · rw [hu, hp]
    exact List.mem_append_right _ (List.mem_singleton_self _)
  · show u.q = s.q
    unfold State.q
    rw [hclk]
  · show (u.owner k).meter = (s.owner k).meter
    unfold State.owner
    rw [hown]
  · unfold nextRec
    rw [← hhead]
  · unfold nextRec
    rw [← hhead]

theorem meteringInterval_records (hon : bit s.regs.metcfg.toNat 63 = true) (hiv : bits s.regs.metcfg.toNat 15 0 ≠ 0)
    (hq : s.clk.quartz.toNat % (bits s.regs.metcfg.toNat 15 0 * 2 ^ 20) = 0) : Next (exec .meteringInterval s) (fun t => SameBytes s t ∧
      ∀ k, k < 16 → s.enabled k = true → ∃ y ∈ t.trust.waiting, y.o = k ∧ y.final = false ∧ y.q = s.q ∧ y.ctr = (s.owner k).meter ∧
        y.oseq = (match s.trust.heads.find? (fun h => h.1 == k) with | some h => h.2.1 + 1 | none => 0) ∧
        y.prev = (match s.trust.heads.find? (fun h => h.1 == k) with | some h => h.2.2 | none => 0)) := by
  have hmax : max 1 (bits s.regs.metcfg.toNat 15 0) = bits s.regs.metcfg.toNat 15 0 := Nat.max_eq_right (Nat.one_le_iff_ne_zero.mpr hiv)
  have he : exec .meteringInterval s = .next ((List.range 16).foldl meterOne s) := by
    show execMeteringInterval s = _
    unfold execMeteringInterval
    dsimp only
    rw [hmax, if_pos (by rw [hon, hq]; rfl)]
    rfl
  rw [he]
  exact next_of ⟨sameBytes_of_mem (foldl_mem meterOne_mem _ s), fun k hk hen => meterAll_records List.nodup_range (List.mem_range.mpr hk) hen⟩

/-- The bytes of a record are written into the ring (R437). -/
def ringBytes (a : Nat) (bs : List Byte) (s : State) : State :=
  (List.range 32).foldl (fun (s : State) i => s.unitWrite (.dram 0 (a + 128 * i) .cacheable) ((bs.drop (128 * i)).take 128)) s

theorem ringBytes_frame (a : Nat) (bs : List Byte) (s : State) :
    (ringBytes a bs s).regs = s.regs ∧ (ringBytes a bs s).trust = s.trust ∧ (ringBytes a bs s).threads = s.threads :=
  ⟨foldl_same State.regs _ (fun _ _ => unitWrite_regs _ _ _) _ s, foldl_same State.trust _ (fun _ _ => unitWrite_trust _ _ _) _ s,
    foldl_same State.threads _ (fun _ _ => unitWrite_threads _ _ _) _ s⟩

/-- The record that waits first leaves for the ring, and the ring's tail moves (R437). -/
theorem meteringRecordWrite_writes {r : MRec} {rs : List MRec} (hw : s.trust.waiting = r :: rs) (hp : s.rot.pause = none) (hn : bits s.regs.metring.toNat 11 0 ≠ 0)
    (hroom : (bits s.regs.metptr.toNat 11 0 + 1) % bits s.regs.metring.toNat 11 0 ≠ bits s.regs.metptr.toNat 27 16) : Next (exec .meteringRecordWrite s) (fun t =>
      t.trust.waiting = rs ∧ t.threads = s.threads ∧ t.regs.metptr = BitVec.ofNat 64 (bits s.regs.metptr.toNat 27 16 * 2 ^ 16 +
        (bits s.regs.metptr.toNat 11 0 + 1) % bits s.regs.metring.toNat 11 0)) := by
  have hmax : max 1 (bits s.regs.metring.toNat 11 0) = bits s.regs.metring.toNat 11 0 := Nat.max_eq_right (Nat.one_le_iff_ne_zero.mpr hn)
  have hgo : (s.meterRoom && !s.netHeld) = true := by
    unfold State.meterRoom State.netHeld State.meterCount State.meterTail State.meterHead
    rw [hp]
    simp [hn, hroom]
  show Next (execMeteringRecordWrite s) _
  unfold execMeteringRecordWrite
  rw [if_pos hgo]
  obtain ⟨hregs, htrust, hthreads⟩ := ringBytes_frame (bits s.regs.metring.toNat 47 12 * 4096 + 4096 * s.meterTail) (State.recBytes r) s
  unfold ringBytes at hregs htrust hthreads
  unfold State.writeRec
  rw [hw]
  dsimp only
  generalize List.foldl _ s (List.range 32) = u at *
  unfold State.meterTail State.meterCount
  rw [hregs, hmax]
  split
  · exact next_of ⟨rfl, hthreads, by rw [← hregs]; rfl⟩
  · obtain ⟨full, evs, he⟩ := ringNotice_frame ((u.modRegs (fun m => { m with metptr := BitVec.ofNat 64 (bits m.metptr.toNat 27 16 * 2 ^ 16 +
      (bits s.regs.metptr.toNat 11 0 + 1) % bits s.regs.metring.toNat 11 0) })).modTrust (fun t => { t with waiting := rs, ringFull := t.ringFull && !rs.isEmpty }))
    rw [he]
    exact next_of ⟨rfl, hthreads, by rw [← hregs]; rfl⟩

end

/-! ### The stages of a teardown (R438 to R442, R446) -/

section
variable {s : State} {o n : Nat}

/-- SCRUBPROG names an owner and a stage while a teardown runs (R438). -/
def Busy (s : State) (n : Nat) : Prop := bit s.regs.scrubprog.toNat 63 = true ∧ bits s.regs.scrubprog.toNat 58 56 = n

theorem progOwner_lt (s : State) : s.progOwner < 16 := Nat.mod_lt _ (by decide)

/-- What SCRUBPROG says after it is set. -/
theorem setProg_word (s : State) (busy : Bool) {o stage : Nat} (total done : Nat) (ho : o < 16) (hst : stage < 8) :
    ∃ w, s.setProg busy o stage total done = s.modRegs (fun r => { r with scrubprog := w }) ∧ bit w.toNat 63 = busy ∧ bits w.toNat 58 56 = stage := by
  have h1 : total % 2 ^ 24 < 2 ^ 24 := Nat.mod_lt _ (by decide)
  have h2 : done % 2 ^ 24 < 2 ^ 24 := Nat.mod_lt _ (by decide)
  refine ⟨_, rfl, ?_⟩
  rw [BitVec.toNat_ofNat, Nat.mod_eq_of_lt (by split <;> omega)]
  refine ⟨?_, ?_⟩
  · cases busy
    · simp only [bit, Bool.false_eq_true, if_false, beq_eq_false_iff_ne]
      omega
    · simp only [bit, if_true, beq_iff_eq]
      omega
  · show _ / 2 ^ 56 % 8 = stage
    split <;> omega

/-- Stage 1 ends once the owner's requests are complete, and the scrub pause is due (R439, R441). -/
theorem drainPump_ends (hb : Busy s 1) (hs : (s.owner s.progOwner).inScrub = true) (hd : s.drained s.progOwner = true) :
    s.drainPump.progStage = 2 ∧ s.drainPump.trust.scrubPause = true ∧ ∀ y ∈ s.drainPump.trust.pendings, y.o = s.progOwner → y.final = true := by
  have hnow : (s.progBusy && s.progStage == 1 && (s.owner s.progOwner).inScrub && s.drained s.progOwner) = true := by
    rw [show s.progBusy = true from hb.1, show s.progStage = 1 from hb.2, hs, hd]
    rfl
  have he : s.drainPump = s.drainEnd s.progOwner := if_pos hnow
  rw [he]
  unfold State.drainEnd
  dsimp only
  generalize State.produce _ s.progOwner true false = u
  obtain ⟨w, hw, -, hstage⟩ := setProg_word (u.modTrust (fun t => { t with
    pendings := t.pendings.map (fun p => if p.o = s.progOwner then { p with final := true } else p), scrubPause := true })) true
    (State.progTotal (u.modTrust (fun t => { t with
      pendings := t.pendings.map (fun p => if p.o = s.progOwner then { p with final := true } else p), scrubPause := true }))) 0 (progOwner_lt s) (show 2 < 8 by decide)
  rw [hw]
  refine ⟨hstage, rfl, fun y hy ho => ?_⟩
  obtain ⟨p, -, rfl⟩ := List.mem_map.mp hy
  by_cases hp : p.o = s.progOwner
  · rw [if_pos hp]
  · rw [if_neg hp] at ho
    exact absurd ho hp

/-- An element that a filter left is not of the owner that goes. -/
theorem ne_of_mem_filter {α : Type} {f : α → Nat} {xs : List α} {y : α} (h : y ∈ xs.filter (fun x => f x != o)) : f y ≠ o := by
  simpa using (List.mem_filter.mp h).2

/-- Stage 2 leaves nothing of the owner in the tiles (R439, R442). -/
theorem clearTiles_clears (s : State) (o : Nat) :
    (∀ l c i, l < 64 → c < 128 → i < 65536 → (s.clearTiles o).mem.getB (scrKey ⟨o, l, c⟩ i) = 0) ∧ (∀ y ∈ (s.clearTiles o).threads, y.pl.o ≠ o) ∧
      (∀ y ∈ (s.clearTiles o).rot.tens, y.o ≠ o) ∧ (∀ y ∈ (s.clearTiles o).tlb, y.o ≠ o) ∧ (∀ y ∈ (s.clearTiles o).cores, y.pl.o ≠ o) ∧
      (∀ y ∈ (s.clearTiles o).caps, y.o ≠ o) ∧ (∀ y ∈ (s.clearTiles o).engines, y.tag ≠ some o) ∧ ∀ y ∈ (s.clearTiles o).graph.packets, y.t.pl.o ≠ o := by
  refine ⟨fun l c i hl hc hi => ?_, fun y hy => ne_of_mem_filter (f := fun y : Thread => y.pl.o) hy, fun y hy => ne_of_mem_filter (f := Tenancy.o) hy,
    fun y hy => ne_of_mem_filter (f := Tlb.o) hy, fun y hy => ne_of_mem_filter (f := fun y : Core => y.pl.o) hy, fun y hy => ne_of_mem_filter (f := Cap.o) hy,
    fun y hy => ?_, fun y hy => ne_of_mem_filter (f := fun y : Packet => y.t.pl.o) hy⟩
  · refine (getB_clear s.mem (scrKey ⟨o, 0, 0⟩ 0) (scrKey ⟨o + 1, 0, 0⟩ 0 - scrKey ⟨o, 0, 0⟩ 0) _).trans (if_pos ?_)
    unfold scrKey
    dsimp only
    omega
  · obtain ⟨e, -, rfl⟩ := List.mem_map.mp hy
    split
    · exact nofun
    · assumption

theorem teardownTiles_ends {p : Pause} (hb : Busy s 2) (hp : s.rot.pause = some p) (hscrub : p.scrub = true) : Next (exec .teardownTiles s) (fun t =>
    t.progStage = 3 ∧ (∃ rows, t.rot.pause = some { p with scrub := false, tiled := true, freed := rows }) ∧
      (∀ l c i, l < 64 → c < 128 → i < 65536 → t.mem.getB (scrKey ⟨s.progOwner, l, c⟩ i) = 0) ∧ (∀ y ∈ t.threads, y.pl.o ≠ s.progOwner) ∧
      (∀ y ∈ t.rot.tens, y.o ≠ s.progOwner) ∧ (∀ y ∈ t.tlb, y.o ≠ s.progOwner) ∧ (∀ y ∈ t.cores, y.pl.o ≠ s.progOwner) ∧ (∀ y ∈ t.caps, y.o ≠ s.progOwner) ∧
      (∀ y ∈ t.engines, y.tag ≠ some s.progOwner) ∧ ∀ y ∈ t.graph.packets, y.t.pl.o ≠ s.progOwner) := by
  have hnow : (p.scrub && s.progBusy && s.progStage == 2) = true := by
    rw [hscrub, show s.progBusy = true from hb.1, show s.progStage = 2 from hb.2]
    rfl
  show Next (execTeardownTiles s) _
  unfold execTeardownTiles
  rw [hp]
  dsimp only
  rw [if_pos hnow]
  have h := clearTiles_clears s s.progOwner
  generalize s.clearTiles s.progOwner = u at *
  generalize hv : (u.modRot _).modTrust _ = v
  obtain ⟨w, hw, -, hstage⟩ := setProg_word v true s.progTotal 0 (progOwner_lt s) (show 3 < 8 by decide)
  rw [hw, ← hv]
  exact next_of ⟨hstage, ⟨_, rfl⟩, h⟩

/-! #### Stage 3: the slices -/

/-- A slice loses its contents and its ways (R439). -/
def clearSlice (o : Nat) (s : State) (n : Nat) : State :=
  ((s.modMem (fun m => m.clear (sliceKey n 0) (2 ^ 24))).setSlice
    { s.slice n with ways := 0, size := 0, target := none, lines := (s.slice n).lines.filter (fun c => c.o != o) }).wakeWaypart n
/-- A range register goes, with what its slices count for it. -/
def clearRange (o : Nat) (s : State) (k : Nat) : State :=
  { s.modOwner o (fun x => { x with rrange := x.rrange.set (Fin.ofNat 8 k) 0 }) with
    slices := s.slices.map (fun (x : Slice) => { x with ctr := x.ctr.filter (fun c => c.1 != o * 8 + k) }) }

/-- A slice that is set is what is read, and every other slice is as before. -/
theorem slice_setSlice_any (s : State) (x : Slice) (n : Nat) : (s.setSlice x).slice n = if n = x.n then x else s.slice n := by
  have h := find?_upsert Slice.n x n s.slices
  show ((if s.slices.any (fun y => y.n == x.n) then s.slices.map (fun y => if y.n == x.n then x else y) else s.slices ++ [x]).find? (fun y => y.n == n)).getD _ = _
  rw [h]
  split <;> rfl

/-- Nothing of owner o is in slice n. -/
def SliceGone (o : Nat) (s : State) (n : Nat) : Prop :=
  (s.slice n).ways = 0 ∧ (s.slice n).size = 0 ∧ (∀ c ∈ (s.slice n).lines, c.o ≠ o) ∧ ∀ i, i < 2 ^ 24 → s.mem.getB (sliceKey n i) = 0

theorem slice_clearSlice (s : State) (o m n : Nat) : (clearSlice o s m).slice n = if n = m then
    { s.slice m with ways := 0, size := 0, target := none, lines := (s.slice m).lines.filter (fun c => c.o != o) } else s.slice n := by
  have h := slice_setSlice_any (s.modMem (fun m' => m'.clear (sliceKey m 0) (2 ^ 24)))
    { s.slice m with ways := 0, size := 0, target := none, lines := (s.slice m).lines.filter (fun c => c.o != o) } n
  rw [show ({ s.slice m with ways := 0, size := 0, target := none, lines := (s.slice m).lines.filter (fun c => c.o != o) } : Slice).n = m from slice_n s m] at h
  exact h

theorem sliceGone_clearSlice (s : State) (o n : Nat) : SliceGone o (clearSlice o s n) n := by
  unfold SliceGone
  rw [slice_clearSlice, if_pos rfl]
  refine ⟨rfl, rfl, fun c hc => ne_of_mem_filter (f := MicaLine.o) hc, fun i hi => ?_⟩
  refine (getB_clear s.mem (sliceKey n 0) (2 ^ 24) (sliceKey n i)).trans (if_pos ?_)
  unfold sliceKey
  omega

theorem sliceGone_clearSlice_other {m : Nat} (h : SliceGone o s n) : SliceGone o (clearSlice o s m) n := by
  by_cases hn : n = m
  · subst hn
    exact sliceGone_clearSlice s o n
  · obtain ⟨hways, hsize, hlines, hbytes⟩ := h
    unfold SliceGone
    rw [slice_clearSlice, if_neg hn]
    refine ⟨hways, hsize, hlines, fun i hi => ?_⟩
    refine (getB_clear s.mem (sliceKey m 0) (2 ^ 24) (sliceKey n i)).trans ?_
    rw [hbytes i hi]
    exact ite_self 0

theorem sliceGone_clearRange {k : Nat} (h : SliceGone o s n) : SliceGone o (clearRange o s k) n := by
  have hslice : ((clearRange o s k).slice n).ways = (s.slice n).ways ∧ ((clearRange o s k).slice n).size = (s.slice n).size ∧
      ((clearRange o s k).slice n).lines = (s.slice n).lines := by
    unfold State.slice clearRange
    dsimp only
    rw [find?_map_key Slice.n (f := fun x => { x with ctr := x.ctr.filter (fun c => c.1 != o * 8 + k) }) fun _ => rfl]
    cases s.slices.find? (fun x => x.n == n) <;> exact ⟨rfl, rfl, rfl⟩
  obtain ⟨hways, hsize, hlines⟩ := hslice
  unfold SliceGone
  rw [hways, hsize, hlines]
  exact h

theorem rrange_clearRange (ks : List Nat) (s : State) : ((ks.foldl (clearRange o) s).owner o).rrange =
    ks.foldl (fun (v : Vector Word 8) k => v.set (Fin.ofNat 8 k) 0) (s.owner o).rrange := by
  induction ks generalizing s with
  | nil => rfl
  | cons k ks ih =>
    rw [List.foldl_cons, ih, List.foldl_cons]
    have hown : (clearRange o s k).owner o = { s.owner o with rrange := (s.owner o).rrange.set (Fin.ofNat 8 k) 0 } := by
      show (s.modOwner o (fun x => { x with rrange := x.rrange.set (Fin.ofNat 8 k) 0 })).owner o = _
      rw [owner_modOwner, if_pos rfl]
    rw [hown]

theorem clearSlices_eq (s : State) (o : Nat) : s.clearSlices o =
    { ((List.range 8).foldl (clearRange o) ((s.owner o).desc.mica.foldl (clearSlice o) s)).modFlash (fun f => { f with staged := f.staged.filter (fun x => x.o != o) }) with
      l1 := ((List.range 8).foldl (clearRange o) ((s.owner o).desc.mica.foldl (clearSlice o) s)).l1.filter (fun (x : L1Line) => x.o != o) } := rfl

theorem clearSlices_clears (s : State) (o : Nat) : ((s.clearSlices o).owner o).rrange = Vector.replicate 8 0 ∧ (∀ y ∈ (s.clearSlices o).l1, y.o ≠ o) ∧
    ∀ n ∈ (s.owner o).desc.mica, SliceGone o (s.clearSlices o) n := by
  have hgone : ∀ n ∈ (s.owner o).desc.mica, SliceGone o ((List.range 8).foldl (clearRange o) ((s.owner o).desc.mica.foldl (clearSlice o) s)) n := fun n hn =>
    foldl_keeps (fun t => SliceGone o t n) (clearRange o) (fun _ _ h => sliceGone_clearRange h) _ _
      (foldl_makes (I := fun _ => True) (P := SliceGone o) (fun _ _ _ => trivial) (fun b a _ => sliceGone_clearSlice b o a) (fun _ _ _ _ h => sliceGone_clearSlice_other h) hn trivial)
  have hrange := rrange_clearRange (o := o) (List.range 8) ((s.owner o).desc.mica.foldl (clearSlice o) s)
  rw [clearSlices_eq]
  generalize (List.range 8).foldl (clearRange o) ((s.owner o).desc.mica.foldl (clearSlice o) s) = u at *
  refine ⟨?_, fun y hy => ne_of_mem_filter (f := L1Line.o) hy, hgone⟩
  show (u.owner o).rrange = _
  rw [hrange]
  refine Vector.ext fun i hi => ?_
  interval_cases i <;> simp [List.range_succ, Fin.ofNat]

theorem teardownSlices_ends (hb : Busy s 3) : Next (exec .teardownSlices s) (fun t => t.progStage = 4 ∧ (t.owner s.progOwner).rrange = Vector.replicate 8 0 ∧
    (∀ y ∈ t.l1, y.o ≠ s.progOwner) ∧ ∀ n ∈ (s.owner s.progOwner).desc.mica, (t.slice n).ways = 0 ∧ (t.slice n).size = 0 ∧
      (∀ c ∈ (t.slice n).lines, c.o ≠ s.progOwner) ∧ ∀ i, i < 2 ^ 24 → t.mem.getB (sliceKey n i) = 0) := by
  have hnow : (s.progBusy && s.progStage == 3) = true := by
    rw [show s.progBusy = true from hb.1, show s.progStage = 3 from hb.2]
    rfl
  show Next (execTeardownSlices s) _
  unfold execTeardownSlices
  dsimp only
  rw [if_pos hnow]
  have h := clearSlices_clears s s.progOwner
  generalize s.clearSlices s.progOwner = u at *
  obtain ⟨w, hw, -, hstage⟩ := setProg_word u true s.progTotal (s.sliceUnits s.progOwner) (progOwner_lt s) (show 4 < 8 by decide)
  rw [hw]
  exact next_of ⟨hstage, h⟩

/-! #### Stages 4 and 5: the stacks and the areas -/

/-- Nothing is left in a stack: its bytes are zero, and no sector is poisoned. -/
def StackGone (s : State) (k : Nat) : Prop := ∀ i, i < 2 ^ 27 → s.mem.getB (stackKey k i) = 0 ∧ s.mem.poisoned (stackKey k i) = false

theorem poisoned_clear (m : Mem) {k n i : Nat} (hi : i < 2 ^ 27) : (m.clear (stackKey k 0) (2 ^ 27)).poisoned (stackKey n i) =
    (decide (n ≠ k) && m.poisoned (stackKey n i)) := by
  unfold Mem.poisoned Mem.clear
  dsimp only
  have hout : (!(decide (stackKey k 0 ≤ 128 * (stackKey n i / 128)) && decide (128 * (stackKey n i / 128) < stackKey k 0 + 2 ^ 27))) = true ↔ n ≠ k := by
    rw [Bool.not_eq_true', ← Bool.not_eq_true, Bool.and_eq_true, decide_eq_true_eq, decide_eq_true_eq]
    unfold stackKey
    omega
  rw [Bool.eq_iff_iff, Bool.and_eq_true, List.contains_iff_mem, List.contains_iff_mem, List.mem_filter, hout, decide_eq_true_eq, and_comm]

theorem getB_clearStacks (d : List Nat) (s : State) {n : Nat} (hn : n ∈ d) : StackGone (s.clearStacks d) n := by
  unfold State.clearStacks
  refine foldl_makes (I := fun _ => True) (P := StackGone) (fun _ _ _ => trivial) (fun b k _ i hi => ⟨?_, ?_⟩) (fun b k n _ h i hi => ⟨?_, ?_⟩) hn trivial
  · refine (getB_clear b.mem (stackKey k 0) (2 ^ 27) (stackKey k i)).trans (if_pos ?_)
    unfold stackKey
    omega
  · refine (poisoned_clear b.mem hi).trans ?_
    simp
  · refine (getB_clear b.mem (stackKey k 0) (2 ^ 27) (stackKey n i)).trans ?_
    rw [(h i hi).1]
    exact ite_self 0
  · refine (poisoned_clear b.mem hi).trans ?_
    rw [(h i hi).2, Bool.and_false]

theorem teardownDram_ends (hb : Busy s 4) : Next (exec .teardownDram s) (fun t => t.progStage = 5 ∧ ∀ n ∈ (s.owner s.progOwner).desc.dram, ∀ i, i < 2 ^ 27 →
    t.mem.getB (stackKey n i) = 0 ∧ t.mem.poisoned (stackKey n i) = false) := by
  have hnow : (s.progBusy && s.progStage == 4) = true := by
    rw [show s.progBusy = true from hb.1, show s.progStage = 4 from hb.2]
    rfl
  show Next (execTeardownDram s) _
  unfold execTeardownDram
  dsimp only
  rw [if_pos hnow]
  have h := fun n hn => getB_clearStacks (n := n) (s.owner s.progOwner).desc.dram s hn
  generalize s.clearStacks (s.owner s.progOwner).desc.dram = u at *
  generalize hv : State.charge _ 0 5 _ = v
  generalize (State.sliceUnits _ _ + State.stackUnits _ _) = units
  generalize State.progTotal _ = total
  obtain ⟨w, hw, -, hstage⟩ := setProg_word v true total units (progOwner_lt s) (show 5 < 8 by decide)
  rw [hw, ← hv, charge_frame]
  exact next_of ⟨hstage, h⟩

/-- Nothing is left of an area, by the stacks of s. -/
def AreaGone (s t : State) (a : Nat × Nat) : Prop := ∀ k x, s.platOf k = some x → a.1 ≤ x → x < a.1 + a.2 → t.mem.getB k = 0

theorem platOf_congr {t : State} (h : t.owners = s.owners) (k : Nat) : t.platOf k = s.platOf k := by
  unfold State.platOf State.owner
  rw [h]

theorem getB_clearPlat (s : State) (a n k : Nat) : (s.clearPlat a n).mem.getB k =
    if (match s.platOf k with | some p => decide (a ≤ p) && decide (p < a + n) | none => false) = true then 0 else s.mem.getB k := by
  refine (cellsGet_filter (fun k => !(match s.platOf k with | some p => decide (a ≤ p) && decide (p < a + n) | none => false)) s.mem.cells k).trans ?_
  cases (match s.platOf k with | some p => decide (a ≤ p) && decide (p < a + n) | none => false) <;> rfl

theorem clearPlats_clears (as : List (Nat × Nat)) (s : State) : ∀ a ∈ as, AreaGone s (as.foldl (fun (s : State) a => s.clearPlat a.1 a.2) s) a := by
  intro a ha
  refine foldl_makes (I := fun t : State => t.owners = s.owners) (P := AreaGone s) (f := fun (s : State) a => s.clearPlat a.1 a.2) (fun _ _ h => h) (fun t a hI k x hx hlo hhi => ?_)
    (fun t b c hI h k x hx hlo hhi => ?_) ha rfl
  · rw [getB_clearPlat, platOf_congr hI, hx, if_pos (by simp [hlo, hhi])]
  · rw [getB_clearPlat, h k x hx hlo hhi]
    exact ite_self 0

theorem incomplete_frame (s : State) (d : Descr) : (s.incomplete d).mem = s.mem ∧ ∀ e ∈ State.extents d, ((s.incomplete d).extent e).complete = false := by
  refine ⟨foldl_mem (f := fun (s : State) e => s.setExtent { s.extent e with complete := false, progd := [] }) (fun _ _ => rfl) _ s, fun e he => ?_⟩
  unfold State.incomplete
  rw [incomplete_extent, if_pos he]

theorem teardownAreas_ends (hb : Busy s 5) : Next (exec .teardownAreas s) (fun t => t.progStage = 6 ∧
    (∀ e ∈ State.extents (s.owner s.progOwner).desc, (t.extent e).complete = false) ∧
      ∀ y, s.trust.pendings.find? (fun z => z.o == s.progOwner) = some y → ∀ a ∈ y.areas, ∀ k x, s.platOf k = some x → a.1 ≤ x → x < a.1 + a.2 → t.mem.getB k = 0) := by
  have hnow : (s.progBusy && s.progStage == 5) = true := by
    rw [show s.progBusy = true from hb.1, show s.progStage = 5 from hb.2]
    rfl
  show Next (execTeardownAreas s) _
  unfold execTeardownAreas
  dsimp only
  rw [if_pos hnow]
  have hclear := clearPlats_clears (s.progAreas s.progOwner) s
  have hinc := incomplete_frame ((s.progAreas s.progOwner).foldl (fun (s : State) a => s.clearPlat a.1 a.2) s) (s.owner s.progOwner).desc
  generalize (s.progAreas s.progOwner).foldl (fun (s : State) a => s.clearPlat a.1 a.2) s = u at *
  generalize u.incomplete (s.owner s.progOwner).desc = v at *
  obtain ⟨hmem, hext⟩ := hinc
  generalize hz : State.charge _ 0 5 _ = z
  generalize State.progTotal _ = total
  obtain ⟨w, hw, -, hstage⟩ := setProg_word z true total total (progOwner_lt s) (show 6 < 8 by decide)
  rw [hw, ← hz, charge_frame]
  refine next_of ⟨hstage, hext, fun y hy a ha k x hx hlo hhi => ?_⟩
  have hareas : s.progAreas s.progOwner = y.areas := by
    unfold State.progAreas
    rw [hy]
    rfl
  show v.mem.getB k = 0
  rw [hmem]
  exact hclear a (hareas ▸ ha) k x hx hlo hhi

/-! #### Stages 6 and 7: the keys, and the end -/

/-- Slots are emptied one by one, and nothing else changes. -/
theorem emptyKeys_eq (ks : List Nat) (s : State) : ks.foldl (fun (s : State) k => s.emptyKey k) s =
    s.modTrust (fun t => { t with keys := t.keys.filter (fun x => !ks.contains x.1) }) := by
  induction ks generalizing s with
  | nil => simp [State.modTrust]
  | cons k ks ih =>
    rw [List.foldl_cons, ih]
    unfold State.emptyKey State.modTrust
    dsimp only
    rw [List.filter_filter]
    congr 2
    refine congrArg (List.filter · s.trust.keys) (funext fun x => ?_)
    rw [List.contains_cons, Bool.not_or, Bool.and_comm]
    rfl

theorem teardownKeys_empties (hb : Busy s 6) : Next (exec .teardownKeys s) (fun t => SameBytes s t ∧ t.progBusy = true ∧ t.progStage = 7 ∧
    ∀ y ∈ t.trust.keys, y.1 ∉ s.keysNamed s.progOwner) := by
  have he : exec .teardownKeys s = .next (s.scrubKeys s.progOwner) := by
    show execTeardownKeys s = _
    unfold execTeardownKeys
    rw [show s.progBusy = true from hb.1, show s.progStage = 6 from hb.2]
    rfl
  rw [he]
  unfold State.scrubKeys
  rw [emptyKeys_eq]
  obtain ⟨w, hw, hbusy, hstage⟩ := setProg_word (s.modTrust (fun t => { t with keys := t.keys.filter (fun x => !(s.keysNamed s.progOwner).contains x.1) })) true
    s.progTotal s.progTotal (progOwner_lt s) (show 7 < 8 by decide)
  rw [hw]
  refine next_of ⟨fun _ => rfl, hbusy, hstage, fun y hy => ?_⟩
  simpa using (List.mem_filter.mp hy).2

theorem teardownKeys_ends (hb : Busy s 7) : Next (exec .teardownKeys s) (fun t => SameBytes s t ∧ t.progBusy = false ∧ t.progStage = 7 ∧
    (t.owner s.progOwner).inScrub = false ∧ (t.owner s.progOwner).frozen = false ∧ (EvRoom s → ∃ e ∈ t.trust.events, e.ty = 0x32 ∧ e.o = s.progOwner)) := by
  have he : exec .teardownKeys s = .next (s.endScrub s.progOwner) := by
    show execTeardownKeys s = _
    unfold execTeardownKeys
    rw [show s.progBusy = true from hb.1, show s.progStage = 7 from hb.2]
    rfl
  rw [he]
  unfold State.endScrub
  dsimp only
  generalize hu : State.modTrust _ _ = u
  obtain ⟨w, hw, hbusy, hstage⟩ := setProg_word u false u.progTotal u.progTotal (progOwner_lt s) (show 7 < 8 by decide)
  have hmem : u.mem = s.mem := by rw [← hu]; rfl
  have hown : u.owner s.progOwner = { s.owner s.progOwner with inScrub := false, frozen := false } := by
    rw [← hu]
    show (s.modOwner s.progOwner (fun x => { x with inScrub := false, frozen := false })).owner s.progOwner = _
    rw [owner_modOwner, if_pos rfl]
  have hroom : EvRoom s → EvRoom u := by rw [← hu]; exact id
  rw [hw]
  have hown' : (((u.modRegs (fun r => { r with scrubprog := w })).raiseEv { ty := 0x32, o := s.progOwner, src := 6 }).wakeScrub (fun _ => true)).owner s.progOwner =
    { s.owner s.progOwner with inScrub := false, frozen := false } := hown
  exact next_of ⟨sameBytes_of_mem hmem, hbusy, hstage, by rw [hown'], by rw [hown'], fun hr =>
    raiseEv_told (s := u.modRegs (fun r => { r with scrubprog := w })) (hroom hr) { ty := 0x32, o := s.progOwner, src := 6 }⟩

end

/-- Settles O48: the records of an interval, the one that is written, and the teardown stage by stage. -/
theorem meteringAndTeardown : Obligations.MeteringAndTeardown := by
  unfold Obligations.MeteringAndTeardown
  intro s r rs p iv o d busy
  exact ⟨meteringInterval_records, meteringRecordWrite_writes, drainPump_ends, teardownTiles_ends, teardownSlices_ends, teardownDram_ends, teardownAreas_ends,
    teardownKeys_empties, teardownKeys_ends⟩

end Sys2Proof.Laws

/-! SUPPORT. ResetsBoot: what a reset keeps and what the boot makes, and O49. -/

namespace Sys2Proof.Laws

open Sys2Proof.Machine Sys2Proof.Safety

/-! ### Cells that a reset takes over (R423) -/

section
variable {f : Nat → Byte → Byte} {a : Nat}

/-- A byte that a reset keeps reads as before. -/
theorem cellsGet_kept (hf : ∀ b, f a b = b) (cs : List Host.Cell) (lo : Option Nat) (h : cellsWfFrom lo cs = true) :
    cellsGet ((cs.map (fun c => (c.1, f c.1 c.2))).filter (fun c => c.2 != 0)) a = cellsGet cs a := by
  induction cs generalizing lo with
  | nil => rfl
  | cons c cs ih =>
    obtain ⟨k, b⟩ := c
    simp only [cellsWfFrom, Bool.and_eq_true, bne_iff_ne, unlisted] at h
    obtain ⟨⟨-, hb⟩, hcs⟩ := h
    rw [List.map_cons, List.filter_cons]
    by_cases hk : k = a
    · subst hk
      rw [if_pos (by simpa [hf] using hb)]
      simp [cellsGet, hf]
    · have hrest : cellsGet ((k, b) :: cs) a = cellsGet cs a := if_neg hk
      rw [hrest, ← ih _ hcs]
      split
      · exact if_neg hk
      · rfl

/-- A byte that a reset empties reads 0. -/
theorem cellsGet_emptied (hf : ∀ b, f a b = 0) (cs : List Host.Cell) :
    cellsGet ((cs.map (fun c => (c.1, f c.1 c.2))).filter (fun c => c.2 != 0)) a = 0 := by
  induction cs with
  | nil => rfl
  | cons c cs ih =>
    obtain ⟨k, b⟩ := c
    rw [List.map_cons, List.filter_cons]
    split
    · next hkept =>
      have hk : k ≠ a := by
        rintro rfl
        simp [hf] at hkept
      exact (if_neg hk).trans ih
    · exact ih

end

/-! ### Resets (R423) -/

section
variable {s : State}

/-- What every reset leaves: an empty machine with the flash, the fuses and what Obsidian keeps (R423). -/
def Emptied (s t : State) : Prop :=
  t.threads = [] ∧ t.me = {} ∧ t.net = [] ∧ t.tlb = [] ∧ t.graph = {} ∧ t.clk.quartz = 0 ∧ t.owners = Vector.replicate 16 {} ∧
    t.regs = { livemap := s.regs.livemap, slicemap := s.regs.slicemap } ∧ t.trust.keys = [] ∧ t.trust.heads = s.trust.heads ∧ t.trust.pendings = s.trust.pendings ∧
    t.trust.fusedSvn = s.trust.fusedSvn ∧
    (MemOk s → ∀ a, ((2 ^ 44 ≤ a ∧ a < 2 ^ 48) ∨ (2 ^ 53 ≤ a ∧ a < 2 ^ 54) → t.mem.getB a = s.mem.getB a) ∧ (2 ^ 48 ≤ a → a < 2 ^ 53 → t.mem.getB a = 0))

/-- A byte after a reset: flash and the boot partition stay, the stacks lose what they hold, and all else is empty. -/
def leftByte (s : State) (applied : Bool) (k : Nat) (b : Byte) : Byte :=
  if (decide (2 ^ 44 ≤ k) && decide (k < 2 ^ 48)) || (decide (2 ^ 53 ≤ k) && decide (k < 2 ^ 54)) then b
  else if !applied && decide (k < 2 ^ 37) then Config.lostByte s.clk.draw k else 0

theorem afterReset_cells (s : State) (applied : Bool) :
    (s.afterReset applied).mem.cells = (s.mem.cells.map (fun c => (c.1, leftByte s applied c.1 c.2))).filter (fun c => c.2 != 0) := rfl

theorem getB_afterReset_flash (hm : MemOk s) (applied : Bool) {a : Nat} (h : (2 ^ 44 ≤ a ∧ a < 2 ^ 48) ∨ (2 ^ 53 ≤ a ∧ a < 2 ^ 54)) :
    (s.afterReset applied).mem.getB a = s.mem.getB a := by
  unfold Mem.getB
  rw [afterReset_cells]
  exact cellsGet_kept (fun b => if_pos (by simpa only [Bool.or_eq_true, Bool.and_eq_true, decide_eq_true_eq] using h)) s.mem.cells none hm

theorem getB_afterReset_scratch (s : State) (applied : Bool) {a : Nat} (hlo : 2 ^ 48 ≤ a) (hhi : a < 2 ^ 53) : (s.afterReset applied).mem.getB a = 0 := by
  unfold Mem.getB
  rw [afterReset_cells]
  refine cellsGet_emptied (fun b => ?_) s.mem.cells
  unfold leftByte
  rw [if_neg, if_neg]
  · rw [Bool.and_eq_true, decide_eq_true_eq]
    omega
  · simp only [Bool.or_eq_true, Bool.and_eq_true, decide_eq_true_eq]
    omega

theorem emptied_afterReset (s : State) (applied : Bool) : Emptied s (s.afterReset applied) :=
  ⟨rfl, rfl, rfl, rfl, rfl, rfl, rfl, rfl, rfl, rfl, rfl, rfl, fun hm _ => ⟨getB_afterReset_flash hm applied, getB_afterReset_scratch s applied⟩⟩

theorem powerOnReset_empties {applied : Bool} (h : s.trust.power = true ∨ applied = true) : Next (exec (.powerOnReset applied) s) (fun t =>
    Emptied s t ∧ t.trust.power = true ∧ t.trust.boot = true ∧ t.trust.tripped = false) := by
  have he : exec (.powerOnReset applied) s = .next (s.afterReset applied) := by
    show execPowerOnReset applied s = _
    unfold execPowerOnReset State.resetNow
    cases applied with
    | true => rfl
    | false => rw [if_neg Bool.false_ne_true, if_pos (h.resolve_right Bool.false_ne_true)]
  rw [he]
  exact next_of ⟨emptied_afterReset s applied, rfl, rfl, rfl⟩

theorem powerLoss_empties (s : State) : Next (exec .powerLoss s) (fun t => Emptied s t ∧ t.trust.power = false ∧ t.trust.boot = false) :=
  next_of (t := (s.afterReset true).modTrust (fun t => { t with power := false, boot := false })) ⟨emptied_afterReset s true, rfl, rfl⟩

theorem resetNow_powered (h : s.trust.power = true) : s.resetNow = s.afterReset false := if_pos h

theorem mgmtReset_empties (hr : s.trust.recovery = false) (h : s.trust.power = true) : Next (exec .mgmtReset s) (fun t =>
    Emptied s t ∧ t.trust.power = true ∧ t.trust.boot = true) := by
  have he : exec .mgmtReset s = .next (s.afterReset false) := by
    show execMgmtReset s = _
    unfold execMgmtReset
    rw [if_neg (by rw [hr]; decide), resetNow_powered h]
  rw [he]
  exact next_of ⟨emptied_afterReset s false, rfl, rfl⟩

end

/-! ### The boot (R424, R425) -/

section
variable {s : State} {img : List Byte}

theorem mem_alSet_self {β : Type} (k : Nat) (x : β) (l : List (Nat × β)) : (k, x) ∈ alSet k x l := by
  induction l with
  | nil => exact List.mem_singleton_self _
  | cons y ys ih =>
    unfold alSet
    split
    · exact List.mem_cons_self ..
    · exact List.mem_cons_of_mem _ ih

theorem mem_alSet_of_ne {β : Type} {k i : Nat} {x y : β} {l : List (Nat × β)} (hi : i ≠ k) (h : (i, y) ∈ l) : (i, y) ∈ alSet k x l := by
  induction l with
  | nil => cases h
  | cons z zs ih =>
    unfold alSet
    rcases List.mem_cons.mp h with rfl | h
    · rw [if_neg hi]
      exact List.mem_cons_self ..
    · split
      · exact List.mem_cons_of_mem _ h
      · exact List.mem_cons_of_mem _ (ih h)

/-- Owner 0 is enabled at boot, with 1 to 64 slots (R425). -/
theorem bootCfg_enabled {n : Nat} (hn : n ≤ 64) : bit (BitVec.ofNat 64 (2 ^ 63 + n * 2 ^ 56 + 2 ^ 30)).toNat 63 = true := by
  rw [BitVec.toNat_ofNat, Nat.mod_eq_of_lt (by omega), bit, beq_iff_eq]
  omega

/-- What the boot of an accepted image makes, with no scrub pending (R425). -/
structure Booted (s : State) (img : List Byte) (t : State) : Prop where
  boot : t.trust.boot = false
  recovery : t.trust.recovery = s.trust.recovery
  record : t.trust.recoveryRec = false
  payload : t.trust.payload = shake256 ((img.drop 8192).take (State.quadAt img 16))
  svn : t.trust.svn = bits (State.quadAt img 8) 31 0
  enabled : t.enabled 0 = true
  key0 : ∃ a, (0, a) ∈ t.trust.keys
  key1 : ∃ b, (1, b) ∈ t.trust.keys
  task : ∃ k, t.graph.packets = s.graph.packets ++ [k] ∧ k.stage = .flight ∧ k.t.pl = ⟨0, 0, 0⟩ ∧
    k.t.pc = BitVec.ofNat 48 (State.quadAt img 24 + State.quadAt img 32) ∧ k.t.s[1] = if s.trust.recoveryRec then 1 else 0

theorem booted_bootWith (hp : s.trust.pendings = []) (img : List Byte) : Booted s img (s.bootWith img) := by
  unfold State.bootWith
  extract_lets len pay d svn n s1 key0 s2 s3 s4 s5 scrubs s6 s7 cause s8 s9 t s10
  have hscrubs : scrubs = [] := hp
  have hfold : s6 = s5 := by
    show scrubs.foldl State.finishPending s5 = s5
    rw [hscrubs]
    rfl
  have hframe : s7 = { s6 with mem := s7.mem, l1 := s7.l1 } := platWrite_frame pay s6 _
  have htrust : s7.trust = s5.trust := by rw [hframe, hfold]
  have hgraph : s7.graph = s.graph := by rw [hframe, hfold]; rfl
  have howners : s7.owners = s4.owners := by rw [hframe, hfold]; rfl
  have hcause : cause = if s.trust.recoveryRec then 1 else 0 := by
    show (if s7.trust.recoveryRec then 1 else 0) + (if scrubs.isEmpty then 0 else 2) = _
    rw [htrust, hscrubs]
    exact BitVec.add_zero _
  have hkeys : s7.trust.keys = alSet 1 Config.slotOneKey (alSet 0 key0 s.trust.keys) := by rw [htrust]; rfl
  refine ⟨?_, ?_, rfl, ?_, ?_, ?_, ?_, ?_, ?_⟩
  · show s7.trust.boot = false
    rw [htrust]
    rfl
  · show s7.trust.recovery = _
    rw [htrust]
    rfl
  · show s7.trust.payload = _
    rw [htrust]
    rfl
  · show s7.trust.svn = _
    rw [htrust]
    rfl
  · show bit (s7.owners[Fin.ofNat 16 0]).cfg.toNat 63 = true
    rw [howners]
    show bit (s4.owner 0).cfg.toNat 63 = true
    rw [show s4 = s3.modOwner 0 (fun x => { x with cfg := BitVec.ofNat 64 (2 ^ 63 + n * 2 ^ 56 + 2 ^ 30), desc := d }) from rfl, owner_modOwner, if_pos rfl]
    exact bootCfg_enabled (show 1 + s.free.toNat % 64 ≤ 64 by omega)
  · refine ⟨key0, ?_⟩
    show _ ∈ s7.trust.keys
    rw [hkeys]
    exact mem_alSet_of_ne (by decide) (mem_alSet_self 0 key0 _)
  · refine ⟨Config.slotOneKey, ?_⟩
    show _ ∈ s7.trust.keys
    rw [hkeys]
    exact mem_alSet_self 1 _ _
  · refine ⟨{ id := s10.newId, stage := .flight, t := t }, ?_, rfl, rfl, rfl, ?_⟩
    · show s7.graph.packets ++ _ = _
      rw [hgraph]
    · show ((Vector.replicate 16 (0 : Word)).set 1 cause)[1] = _
      rw [Vector.getElem_set_self, hcause]

/-- An image that fails a check leads to recovery (R425, R426). -/
theorem obsidianBoot_refuses (hb : s.trust.boot = true) (hp : s.trust.power = true) (he : s.imageErr s.bootImage ≠ 0) :
    exec .obsidianBoot s = .next { s with trust := { s.trust with boot := false, recovery := true } } := by
  show execObsidianBoot s = _
  unfold execObsidianBoot
  dsimp only
  rw [if_pos (by rw [hb, hp]; rfl), if_neg he]
  rfl

/-- An image that passes every check is loaded, and its monitor is dispatched (R425). -/
theorem obsidianBoot_boots (hb : s.trust.boot = true) (hp : s.trust.power = true) (he : ¬s.imageErr s.bootImage ≠ 0) (hpend : s.trust.pendings = []) :
    Next (exec .obsidianBoot s) (Booted s s.bootImage) := by
  have h : exec .obsidianBoot s = .next (s.bootWith s.bootImage) := by
    show execObsidianBoot s = _
    unfold execObsidianBoot
    dsimp only
    rw [if_pos (by rw [hb, hp]; rfl), if_pos (Decidable.not_not.mp he)]
  rw [h]
  exact next_of (booted_bootWith hpend _)

end

/-- Settles O49: the three resets, and both ends of a boot. -/
theorem resetsAndBoot : Obligations.ResetsAndBoot := by
  unfold Obligations.ResetsAndBoot
  intro s applied fresh
  rw [ite_prop_iff_and]
  refine ⟨powerOnReset_empties, powerLoss_empties s, mgmtReset_empties, fun hb hp => ⟨obsidianBoot_refuses hb hp, fun he hpend => ?_⟩⟩
  exact next_mono (obsidianBoot_boots hb hp he hpend) fun t h => ⟨h.boot, h.recovery, h.record, h.payload, h.svn, h.enabled, h.key0, h.key1, h.task⟩

end Sys2Proof.Laws

/-! SUPPORT. Recovery: the recovery mailbox and the management port, and O50. -/

namespace Sys2Proof.Laws

open Sys2Proof.Machine Sys2Proof.Safety

/-! ### The recovery mailbox (R426, R427) -/

section
variable {s : State} {len off : Nat} {v : Word}

theorem recoveryBegin_takes (hr : s.trust.recovery = true) (h : s.trust.rstate = 0 ∨ s.trust.rstate = 4 ∨ s.trust.rstate = 5) (hm : len % 4096 = 0)
    (hlo : 12288 ≤ len) (hhi : len ≤ 2 ^ 26) : exec (.recoveryBegin len) s =
      .next { s with trust := { s.trust with rstate := 1, rerr := 0, received := 0, rlen := len, rimage := [] } } := by
  show execRecoveryBegin len s = _
  unfold execRecoveryBegin
  rw [if_neg (by rw [hr]; decide), if_pos (by simpa [or_assoc] using h), if_pos (by rw [hm, decide_eq_true hlo, decide_eq_true hhi]; decide)]
  rfl

theorem recoveryBegin_refuses (hr : s.trust.recovery = true) (h : s.trust.rstate = 0 ∨ s.trust.rstate = 4 ∨ s.trust.rstate = 5)
    (hbad : len % 4096 ≠ 0 ∨ len < 12288 ∨ 2 ^ 26 < len) : exec (.recoveryBegin len) s = .next { s with trust := { s.trust with rstate := 4, rerr := 6 } } := by
  have hnot : ¬((decide (len % 4096 = 0) && decide (12288 ≤ len) && decide (len ≤ 2 ^ 26)) = true) := by
    simp only [Bool.and_eq_true, decide_eq_true_eq]
    omega
  show execRecoveryBegin len s = _
  unfold execRecoveryBegin
  rw [if_neg (by rw [hr]; decide), if_pos (by simpa [or_assoc] using h), if_neg (by simpa using hnot)]
  rfl

theorem recoveryAppend_appends (hr : s.trust.recovery = true) (h1 : s.trust.rstate = 1) (hroom : s.trust.received + 4096 ≤ s.trust.rlen) :
    exec .recoveryAppend s = .next { s with trust := { s.trust with
      received := s.trust.received + 4096, rimage := s.trust.rimage ++ (List.range 4096).map (cellsGet s.trust.rbuf) } } := by
  show execRecoveryAppend s = _
  unfold execRecoveryAppend
  rw [if_neg (by rw [hr]; decide), if_pos h1, if_neg (Nat.not_lt.mpr hroom)]
  rfl

theorem recoveryCommit_commits (hr : s.trust.recovery = true) (h1 : s.trust.rstate = 1) (hall : s.trust.received = s.trust.rlen) :
    exec .recoveryCommit s = .next { s with trust := { s.trust with rstate := 2 } } := by
  show execRecoveryCommit s = _
  unfold execRecoveryCommit
  rw [if_neg (by rw [hr]; decide), if_pos (by simp [h1, hall])]
  rfl

theorem verifyImage_running (hr : s.trust.recovery = true) (h2 : s.trust.rstate = 2) : s.verifyImage =
    if s.imageErr s.trust.rimage != 0 then s.rfail (s.imageErr s.trust.rimage)
    else if State.quadAt s.trust.rimage 16 + 8192 != s.trust.rlen then s.rfail 6 else s.modTrust (fun t => { t with rstate := 3 }) :=
  if_neg (by rw [hr, h2]; decide)

theorem verifyImage_fails (hr : s.trust.recovery = true) (h2 : s.trust.rstate = 2) (he : s.imageErr s.trust.rimage ≠ 0) :
    s.verifyImage = { s with trust := { s.trust with rstate := 4, rerr := s.imageErr s.trust.rimage } } :=
  (verifyImage_running hr h2).trans (if_pos (bne_iff_ne.mpr he))

theorem verifyImage_passes (hr : s.trust.recovery = true) (h2 : s.trust.rstate = 2) (he : ¬s.imageErr s.trust.rimage ≠ 0)
    (hlen : State.quadAt s.trust.rimage 16 + 8192 = s.trust.rlen) : s.verifyImage = { s with trust := { s.trust with rstate := 3 } } := by
  rw [verifyImage_running hr h2, if_neg (by rwa [bne_iff_ne]), if_neg (by rw [bne_iff_ne]; exact not_not_intro hlen)]
  rfl

/-- The image is written over an erased boot partition (R427). -/
theorem recoveryWriteDone_writes (hr : s.trust.recovery = true) (h3 : s.trust.rstate = 3) (hm : MemOk s) : Next (exec (.recoveryWriteDone true) s) (fun t =>
    t.trust = { s.trust with rstate := 5, recoveryRec := true, rreset := true } ∧
      ∀ j, j < s.trust.rimage.length → t.mem.getB (bootKey j) = s.trust.rimage.getD j 0) := by
  have he : exec (.recoveryWriteDone true) s = .next ((s.modMem (fun m => (m.clear (bootKey 0) (2 ^ 26)).write (bootKey 0) s.trust.rimage)).modTrust (fun t =>
      { t with rstate := 5, recoveryRec := true, rreset := true })) := by
    show execRecoveryWriteDone true s = _
    unfold execRecoveryWriteDone
    rw [if_pos (by rw [hr, h3]; rfl), if_pos rfl]
  rw [he]
  refine next_of ⟨rfl, fun j hj => ?_⟩
  refine (getB_write s.trust.rimage (s.mem.clear (bootKey 0) (2 ^ 26)) (bootKey 0) (bootKey j) (clear_wf _ _ _ hm)).trans ?_
  have hin : bootKey 0 ≤ bootKey j ∧ bootKey j < bootKey 0 + s.trust.rimage.length := by
    unfold bootKey
    omega
  have hoff : bootKey j - bootKey 0 = j := by
    unfold bootKey
    omega
  rw [if_pos hin, hoff]

theorem recoveryWriteDone_fails (hr : s.trust.recovery = true) (h3 : s.trust.rstate = 3) :
    exec (.recoveryWriteDone false) s = .next { s with trust := { s.trust with rstate := 4, rerr := 7 } } := by
  show execRecoveryWriteDone false s = _
  unfold execRecoveryWriteDone
  rw [if_pos (by rw [hr, h3]; rfl), if_neg Bool.false_ne_true]
  rfl

theorem recoveryReset_waits (hr : s.trust.recovery = true) (h3 : s.trust.rstate = 3) :
    exec .recoveryReset s = .next { s with trust := { s.trust with rreset := true } } := by
  show execRecoveryReset s = _
  unfold execRecoveryReset
  rw [if_neg (by rw [hr]; decide), if_pos h3]
  rfl

theorem recoveryReset_resets (hr : s.trust.recovery = true) (h3 : s.trust.rstate ≠ 3) (hp : s.trust.power = true) : Next (exec .recoveryReset s) (fun t =>
    t.trust.boot = true ∧ t.trust.recovery = false ∧ t.threads = [] ∧ t.clk.quartz = 0) := by
  have he : exec .recoveryReset s = .next (s.afterReset false) := by
    show execRecoveryReset s = _
    unfold execRecoveryReset
    rw [if_neg (by rw [hr]; decide), if_neg h3, resetNow_powered hp]
  rw [he]
  exact next_of ⟨rfl, rfl, rfl, rfl⟩

theorem recoveryAbort_aborts (hr : s.trust.recovery = true) (h2 : s.trust.rstate ≠ 2) (h3 : s.trust.rstate ≠ 3) :
    exec .recoveryAbort s = .next { s with trust := { s.trust with rstate := 0, rerr := 0, received := 0, rimage := [] } } := by
  show execRecoveryAbort s = _
  unfold execRecoveryAbort
  rw [if_neg (by rw [hr]; decide), if_neg (by simp [h2, h3])]
  rfl

/-- The buffer is written as memory is. -/
theorem putRbuf_cells (bs : List Byte) (m : Mem) (a : Nat) : State.putRbuf m.cells a bs = (m.write a bs).cells := by
  induction bs generalizing m a with
  | nil => rfl
  | cons b bs ih => exact ih (m.setB a b) (a + 1)

/-- Bytes written into the buffer are read there, and every other byte is as before. -/
theorem cellsGet_putRbuf (bs : List Byte) (cs : List Host.Cell) (a : Nat) (h : cellsWfFrom none cs = true) (j : Nat) :
    cellsGet (State.putRbuf cs a bs) j = if a ≤ j ∧ j < a + bs.length then bs.getD (j - a) 0 else cellsGet cs j :=
  (congrArg (cellsGet · j) (putRbuf_cells bs { cells := cs } a)).trans (getB_write bs { cells := cs } a j h)

theorem recoveryBufferWrite_writes (hr : s.trust.recovery = true) (h1 : s.trust.rstate = 1) (ho : off < 4096) (hm : off % 8 = 0)
    (hw : cellsWfFrom none s.trust.rbuf = true) : Next (exec (.recoveryBufferWrite off v) s) (fun t => t = { s with trust := { s.trust with rbuf := t.trust.rbuf } } ∧
      ∀ j, cellsGet t.trust.rbuf j = if off ≤ j ∧ j < off + 8 then v.extractLsb' (8 * (j - off)) 8 else cellsGet s.trust.rbuf j) := by
  have he : exec (.recoveryBufferWrite off v) s = .next (s.modTrust (fun t => { t with rbuf := State.putRbuf t.rbuf off (leBytes 8 v.toNat) })) := by
    show execRecoveryBufferWrite off v s = _
    unfold execRecoveryBufferWrite
    rw [if_pos (by rw [hr, h1, hm, decide_eq_true ho]; rfl)]
  rw [he]
  refine next_of ⟨rfl, fun j => (cellsGet_putRbuf (leBytes 8 v.toNat) s.trust.rbuf off hw j).trans ?_⟩
  rw [length_leBytes]
  split
  · next hj =>
    rw [leBytes_toNat, List.getD_eq_getElem _ _ (by rw [List.length_map, List.length_range]; omega), List.getElem_map, List.getElem_range]
  · rfl

theorem recoveryBufferWrite_ignored (h1 : s.trust.rstate ≠ 1) : exec (.recoveryBufferWrite off v) s = .next s := by
  show execRecoveryBufferWrite off v s = _
  unfold execRecoveryBufferWrite
  rw [if_neg (by simp [h1])]

end

/-! ### The management port (R443) -/

section
variable {s : State} {o core row reg addr len i off : Nat} {x : Thread}

theorem mgmtFreeze_asks (ho : o < 16) (h0 : o ≠ 0) (hf : (s.owner o).frozen = false) (hn : (s.owner o).freezing = none) : exec (.mgmtFreeze o) s =
    .next (s.setOwner o { s.owner o with freezing := some 0x80, causes := (s.owner o).causes ++ [0x80] }) := by
  show execMgmtFreeze o s = _
  unfold execMgmtFreeze
  rw [Nat.mod_eq_of_lt ho, if_neg h0, freezeOwner_running hf hn]

theorem mgmtRelease_asks (ho : o < 16) (h0 : o ≠ 0) (hf : (s.owner o).frozen = true) (hs : (s.owner o).inScrub = false) :
    exec (.mgmtRelease o) s = .next (s.setOwner o { s.owner o with releasing := true }) := by
  show execMgmtRelease o s = _
  unfold execMgmtRelease
  rw [Nat.mod_eq_of_lt ho, if_neg h0, releaseOwner_frozen hf hs]

theorem debugOk_of (hf : (s.owner o).frozen = true) (h : o = 0 ∨ (s.owner o).desc.debug = true) : s.debugOk o = true := by
  unfold State.debugOk
  rw [hf, Bool.true_and, Bool.or_eq_true, beq_iff_eq]
  exact h

theorem debugOk_running (hf : (s.owner o).frozen = false) : s.debugOk o = false := by
  unfold State.debugOk
  rw [hf, Bool.false_and]

/-- A read of the port is charged, told and answered (R443). -/
theorem debugRead_answers (s : State) (o data : Nat) (bs : List Byte) : SameBytes s (s.debugRead o data bs) ∧
    (s.debugRead o data bs).host.sent = s.host.sent ++ [.debug o bs] ∧ (EvRoom s → ∃ e ∈ (s.debugRead o data bs).trust.events, e.ty = 0x33 ∧ e.o = o) :=
  ⟨fun _ => rfl, rfl, fun hr => raiseEv_told (s := s.charge o 13 1) hr { ty := 0x33, o := o, data := BitVec.ofNat 64 data, src := 7 }⟩

/-- A register of a row of a frozen owner is read (R443). -/
theorem mgmtReadreg_reads (ho : o < 16) (hf : (s.owner o).frozen = true) (hd : o = 0 ∨ (s.owner o).desc.debug = true) (hr : reg < 16)
    (hx : s.threads.find? (fun t => t.pl == ⟨o, core / 128, core % 128⟩ && t.row == row && t.evicted.isNone) = some x) :
    Next (exec (.mgmtReadreg o core row reg) s) (fun t => SameBytes s t ∧ t.host.sent = s.host.sent ++ [.debug o (leBytes 8 (x.s[Fin.ofNat 16 reg]).toNat)] ∧
      (EvRoom s → ∃ e ∈ t.trust.events, e.ty = 0x33 ∧ e.o = o)) := by
  have hreg : s.regBytes x reg = leBytes 8 (x.s[Fin.ofNat 16 reg]).toNat := if_pos hr
  have he : exec (.mgmtReadreg o core row reg) s = .next (s.debugRead o core (leBytes 8 (x.s[Fin.ofNat 16 reg]).toNat)) := by
    show execMgmtReadreg o core row reg s = _
    unfold execMgmtReadreg
    dsimp only
    rw [Nat.mod_eq_of_lt ho, if_pos (debugOk_of hf hd), hx]
    dsimp only
    rw [hreg]
  rw [he]
  exact next_of (debugRead_answers s o core _)

/-- A scratchpad of a frozen owner is read (R443). -/
theorem mgmtReadmem_reads (ho : o < 16) (hf : (s.owner o).frozen = true) (hd : o = 0 ∨ (s.owner o).desc.debug = true) (hr : s.trust.recovery = false)
    (hreg : s.region ⟨o, 0, 0⟩ (BitVec.ofNat 48 addr) = .scr ⟨o, 0, i⟩ off) (hfit : off + len ≤ 65536) :
    Next (exec (.mgmtReadmem o addr len) s) (fun t => SameBytes s t ∧ t.host.sent = s.host.sent ++ [.debug o (s.mem.read (scrKey ⟨o, 0, i⟩ off) len)] ∧
      (EvRoom s → ∃ e ∈ t.trust.events, e.ty = 0x33 ∧ e.o = o)) := by
  have hbytes : s.debugBytes o addr len = s.mem.read (scrKey ⟨o, 0, i⟩ off) len := by
    unfold State.debugBytes
    rw [hreg]
    dsimp only
    rw [Nat.min_eq_left (by omega)]
  have he : exec (.mgmtReadmem o addr len) s = .next (s.debugRead o addr (s.mem.read (scrKey ⟨o, 0, i⟩ off) len)) := by
    show execMgmtReadmem o addr len s = _
    unfold execMgmtReadmem
    dsimp only
    rw [Nat.mod_eq_of_lt ho, if_neg (by rw [hr]; decide), if_pos (debugOk_of hf hd), hbytes]
  rw [he]
  exact next_of (debugRead_answers s o addr _)

/-- In recovery the port reads the mailbox alone (R426, R427). -/
theorem mgmtReadmem_mailbox (ho : o < 16) (hr : s.trust.recovery = true) : exec (.mgmtReadmem o addr len) s =
    .next { s with host := { s.host with sent := s.host.sent ++ [.debug o (s.mailbox addr len)] } } := by
  show execMgmtReadmem o addr len s = _
  unfold execMgmtReadmem
  dsimp only
  rw [Nat.mod_eq_of_lt ho, if_pos hr]
  rfl

/-- No read of an owner that is not frozen is served (R443). -/
theorem mgmtRead_refused (ho : o < 16) (hf : (s.owner o).frozen = false) {j : Instr}
    (hj : j = .mgmtReadreg o core row reg ∨ (s.trust.recovery = false ∧ j = .mgmtReadmem o addr len)) :
    exec j s = .next { s with host := { s.host with sent := s.host.sent ++ [.debugNo o] } } := by
  have hno : ¬(s.debugOk o = true) := by rw [debugOk_running hf]; decide
  rcases hj with rfl | ⟨hr, rfl⟩
  · show execMgmtReadreg o core row reg s = _
    unfold execMgmtReadreg
    dsimp only
    rw [Nat.mod_eq_of_lt ho, if_neg hno]
    rfl
  · show execMgmtReadmem o addr len s = _
    unfold execMgmtReadmem
    dsimp only
    rw [Nat.mod_eq_of_lt ho, if_neg (by rw [hr]; decide), if_neg hno]
    rfl

end

/-- Settles O50: the states of the mailbox, and the requests of the management port. -/
theorem recoveryAndManagement : Obligations.RecoveryAndManagement := by
  unfold Obligations.RecoveryAndManagement
  intro s len off o core row reg addr i v ok x r
  simp only [ite_prop_iff_and]
  refine ⟨fun hr => ⟨fun h => ⟨recoveryBegin_takes hr h, recoveryBegin_refuses hr h⟩, recoveryAppend_appends hr, recoveryCommit_commits hr,
    fun h2 => ⟨verifyImage_fails hr h2, verifyImage_passes hr h2⟩,
    fun h3 => ⟨recoveryWriteDone_writes hr h3, recoveryWriteDone_fails hr h3, recoveryReset_waits hr h3⟩, recoveryAbort_aborts hr, recoveryReset_resets hr,
    recoveryBufferWrite_writes hr, recoveryBufferWrite_ignored⟩, fun ho => ⟨mgmtFreeze_asks ho, mgmtRelease_asks ho,
    fun hf hd => ⟨mgmtReadreg_reads ho hf hd, mgmtReadmem_reads ho hf hd⟩, mgmtReadmem_mailbox ho, fun hf j => mgmtRead_refused ho hf⟩⟩

end Sys2Proof.Laws
